-- ==== Sys2Proof/Word.lean ====
section
/-! DEFINITION. Words, bytes and sparse tables: the types every file shares and their plainest arithmetic. -/

namespace Sys2Proof

/-- A byte. -/
abbrev Byte := BitVec 8
/-- A 32-bit word: a scalar register, a lane, a stored word (R134, R336). -/
abbrev Word := BitVec 32
/-- A 64-bit instruction word, register or doorbell value. -/
abbrev Word64 := BitVec 64
/-- A 64-byte descriptor, read as one little-endian integer (R49). -/
abbrev Descriptor := BitVec 512

/-- A sparse table in canonical form: keys strictly rising, no entry equal to the value an unlisted key reads as. -/
abbrev SMap (α : Type) := List (Nat × α)

/-- Bits [lo + n - 1 : lo] of a value, as a number. -/
def bits {w : Nat} (v : BitVec w) (lo n : Nat) : Nat := (v.toNat / 2 ^ lo) % 2 ^ n

/-- Bit i of a value. -/
def bit {w : Nat} (v : BitVec w) (i : Nat) : Bool := v.toNat.testBit i

/-- A flag as a number. -/
def b2n (b : Bool) : Nat := if b then 1 else 0

/-- The larger of a count and its ceiling is the ceiling: a saturating count (R38, R349, R425). -/
def satAdd (ceil a n : Nat) : Nat := min ceil (a + n)

end Sys2Proof
end

