-- ==== Sys2Proof/Syntax.lean ====
section
/-! DEFINITION. The commands of the module: one constructor of Instr for each row of the opcode table, with the row's operands. -/

namespace Sys2Proof

/-- Where a descriptor came from (R73): one of four submission rings, or one of sixteen direct slots. -/
inductive Source where
  | ring (k : BitVec 2)
  | slot (k : BitVec 4)
  deriving DecidableEq, Repr

/-- Who runs a program: a bank unit by BUID, or a press by ENGINE number, 0-7 press engines, 8-15 stack presses (R58, R62). -/
inductive CoreId where
  | unit (b : BitVec 12)
  | press (e : BitVec 4)
  deriving DecidableEq, Repr

/-- The executors of Table 3.4. -/
inductive Executor where
  | unit (b : BitVec 12)
  | press (e : BitVec 4)
  | decant (e : BitVec 2)
  | scrubber
  | net
  | meter
  | sync
  | dispatcher
  deriving DecidableEq, Repr

/-- A received frame: its port and sender address, and the DPP header of Table 12.3 with its payload and poison map. -/
structure Frame where
  port        : Nat
  v4          : Bool
  ip0         : BitVec 64
  ip1         : BitVec 64
  version     : Nat
  type        : Nat
  src         : BitVec 6
  dst         : BitVec 6
  podId       : BitVec 16
  tag         : BitVec 16
  seq         : BitVec 32
  ackno       : BitVec 32
  incarnation : BitVec 32
  tenancy     : BitVec 8
  ackV        : Bool
  first       : Bool
  last        : Bool
  reply       : Bool
  poison      : Bool
  retx        : Bool
  reserved    : Nat
  length      : Nat
  param       : BitVec 64
  payload     : List Byte
  poisonMap   : List Bool
  deriving DecidableEq, Repr

/-- A firmware image: the 1024-byte header of Table 16.4 and its body. -/
structure Image where
  header : List Byte
  body   : List Byte
  deriving DecidableEq, Repr

/-- The provisioning record (R396, R442): HOLD, and one value for each register that holds RWL fields, by BAR0 offset. -/
structure Provision where
  hold   : Bool
  fields : SMap Word64
  deriving DecidableEq, Repr

/-- The commands, in the order of the opcode table. -/
inductive Instr where
  /-- POWER_GOOD: The 54 V input becomes good, which is a power-on reset that starts the power-on sequence. (R463) -/
  | powerGood
  /-- POWER_LOSS: Power good deasserts; every rail, VAUX included, is removed, and stored data, the log and any latched shutdown are lost. (R463) -/
  | powerLoss
  /-- RAILS_UP: Step 1 of the power-on sequence ends once every rail is in regulation, or it fails and every rail except VAUX is removed. (R393) -/
  | railsUp (ok : Bool)
  /-- PLL_LOCK: The lock detector has been asserted for 8192 REFCLK cycles, so the root PLL counts as locked and module time starts or relock can proceed. (R360) -/
  | pllLock
  /-- ROM_DONE: The Ehreg mask ROM finishes and derives the attestation key from the fuse secret and measurements 1 and 2. (R414) -/
  | romDone
  /-- FIRMWARE_VERIFY: The ROM picks a slot using the boot directory, verifies it, falls back to the other slot or enters recovery mode, and starts the firmware. (R400) -/
  | firmwareVerify
  /-- LINK_TRAINING_DONE: Step 5 ends: stack links, bypass lanes and array timing are trained, or a stack is marked failed. (R397) -/
  | linkTrainingDone (failed : Option (BitVec 3 × Bool))
  /-- MEMORY_INIT: Every row of every bank is written with zeros and check byte 0x00, with a sampled read-back check. (R404) -/
  | memoryInit (failed : Option (BitVec 12))
  /-- CXL_TRAIN_DONE: The CXL link finishes training, and MEM_ACTIVE or AWAIT_GO is set. (R393) -/
  | cxlTrainDone (ok : Bool)
  /-- PERST_ASSERT: A qualifying PERST# assertion of at least 100 µs starts a cold reset or restarts from step 3, depending on the module's state. (R458) -/
  | perstAssert
  /-- PERST_DEASSERT: PERST# is released, which lets step 7 link training begin. (R395) -/
  | perstDeassert
  /-- WARM_RESET: A CXL hot reset, link disable, secondary bus reset or CXL Reset clears the M-die core state but keeps DRAM, and runs memory initialisation when Mem Clr is set. (R406) -/
  | warmReset (memClr : Bool)
  /-- FUNCTION_LEVEL_RESET: An FLR resets only CXL.io function state. (R406) -/
  | functionLevelReset
  /-- REFCLK_LOST: The watchdog declares REFCLK lost; the root moves to the 800 MHz coast setting and the host and network links drop. (R362) -/
  | refclkLost
  /-- REF_GOOD: REFCLK has been within limits for 8192 consecutive cycles, so REF_GOOD is set. (R363) -/
  | refGood
  /-- RELOCK_SWITCH: After a relock request, the PLL locks and the root moves back to locked speed without a glitch, and the host link retrains. (R363) -/
  | relockSwitch
  /-- BYPASS_CLOSE: Stack drift leaves the bypass lane's window, so the lane closes and commands cross through the queue. (R365) -/
  | bypassClose (stack : BitVec 3)
  /-- BYPASS_REOPEN: The bypass lane finishes re-aligning and opens again. (R365) -/
  | bypassReopen (stack : BitVec 3)
  /-- EHREG_WATCHDOG_EXPIRY: The Ehreg watchdog expires; the firmware is re-verified and restarted while the data path continues. (R435) -/
  | ehregWatchdogExpiry
  /-- DIRECTORY_WRITE_RETRY: A boot-directory write postponed because the temperature window was closed is retried once the window opens. (R400) -/
  | directoryWriteRetry
  /-- HOST_READ: A host CXL.mem read of a 64-byte line returns corrected data, CXL poison or all-ones according to the decoder, retirement, reserved space and MEM_ACTIVE. (R344) -/
  | hostRead (ma : BitVec 40) (len : Nat)
  /-- HOST_WRITE: A host CXL.mem write to the data range is accepted wherever it falls, merged over any committing pair, and poison-marked if it carries CXL poison. (R41) -/
  | hostWrite (line : BitVec 34) (enable : BitVec 64) (data : BitVec 512) (poison : Bool)
  /-- CONTROL_PAGE_INVALID_ACCESS: An access to a reserved page offset, to a missing tenancy's page or to the status word is dropped, reads return all-ones, and it is logged as a violation. (R44) -/
  | controlPageInvalidAccess (ten : BitVec 8) (off : BitVec 16) (len : Nat) (write : Bool) (value : Word64)
  /-- DOORBELL_SUBMISSION: A doorbell naming a submission ring is checked; its tail is accepted, or the ring is held with RING_INDEX_INVALID. (R67) -/
  | doorbellSubmission (ten : BitVec 8) (off : BitVec 3) (size : Nat) (value : Word64)
  /-- DOORBELL_HEAD: A doorbell naming the completion or event ring updates the host head if in range, and clears EQ_OVERFLOW or CQ_LOST. (R69) -/
  | doorbellHead (ten : BitVec 8) (off : BitVec 3) (size : Nat) (value : Word64)
  /-- DIRECT_SLOT_WRITE: A full 64-byte write into a free direct slot makes the slot busy and presents the descriptor to the decoder; other writes are discarded. (R74) -/
  | directSlotWrite (ten : BitVec 8) (off : BitVec 16) (size : Nat) (data : Descriptor)
  /-- RING_FETCH: The front end issues a CXL.cache read of up to eight consecutive ring entries, sized to the tenancy's room. (R70) -/
  | ringFetch (ten : BitVec 8) (ring : BitVec 2)
  /-- FETCH_RETURN: A fetch's entries return and are placed in the M-die descriptor queue in index order, or complete with FETCH_POISON on poison or link failure. (R83) -/
  | fetchReturn (id : Nat) (entries : List (Option Descriptor))
  /-- FETCH_TIMEOUT: A ring-entry or program fetch goes unanswered for 10 ms and completes with FETCH_POISON. (R83) -/
  | fetchTimeout (id : Nat)
  /-- NOP: The dispatcher accepts a NOP, which completes OK once its wait is satisfied. (R65) -/
  | nop (ten : BitVec 8) (src : Source)
  /-- BU_RUN: A BU_RUN passes acceptance and is routed to the task queue of each targeted unit. (R60) -/
  | buRun (ten : BitVec 8) (src : Source)
  /-- BU_LOAD: A BU_LOAD passes acceptance, its program is fetched once, and it is routed to the targeted units. (R61) -/
  | buLoad (ten : BitVec 8) (src : Source)
  /-- DECANT_COPY: A DECANT_COPY passes field, ownership, extent, overlap and padding checks and is placed on an engine's queue. (R212) -/
  | decantCopy (ten : BitVec 8) (src : Source)
  /-- PRESS_RUN: A PRESS_RUN passes acceptance, including its window extents, and enters the press queue. (R232) -/
  | pressRun (ten : BitVec 8) (src : Source)
  /-- PRESS_LOAD: A PRESS_LOAD passes acceptance and is routed to the press for loading under the cask rules. (R63) -/
  | pressLoad (ten : BitVec 8) (src : Source)
  /-- FLAG_SET: A FLAG_SET descriptor is accepted and sent to the flag's home, and completes with the flag's prior value. (R249) -/
  | flagSet (ten : BitVec 8) (src : Source)
  /-- FLAG_CLEAR: A FLAG_CLEAR descriptor is accepted and sent to the flag's home, and completes with the flag's prior value. (R249) -/
  | flagClear (ten : BitVec 8) (src : Source)
  /-- KITE_ARM: A KITE_ARM allocates a kite within the tenancy's quota and registers its watch at the flag's home. (R251) -/
  | kiteArm (ten : BitVec 8) (src : Source)
  /-- BARRIER_INIT: A BARRIER_INIT discards any earlier state, sets the expected counts at every level, and starts the barrier at vintage 0. (R260) -/
  | barrierInit (ten : BitVec 8) (src : Source)
  /-- FENCE: A FENCE is accepted once every earlier descriptor of its source has completed, and blocks later descriptors of that source until it completes. (R91) -/
  | fence (ten : BitVec 8) (src : Source)
  /-- SCRUB: A SCRUB is accepted and the scrubber scans its extent in place, writing back corrected columns. (R352) -/
  | scrub (ten : BitVec 8) (src : Source)
  /-- NET_SEND: A NET_SEND is accepted and its WRITE or READ is sent as DPP frames to the peer. (R322) -/
  | netSend (ten : BitVec 8) (src : Source)
  /-- METER_SNAP: A METER_SNAP writes the tenancy's snapshot record to host memory before its completion. (R295) -/
  | meterSnap (ten : BitVec 8) (src : Source)
  /-- DESCRIPTOR_ENQUEUE: A descriptor held in the M-die queue enters its executor's queue, or a unit's task queue, once room frees. (R73) -/
  | descriptorEnqueue (x : Executor)
  /-- DESCRIPTOR_WAIT_REGISTER: A descriptor at the head of its executor's queue registers its WAIT_FLAG at the home; it is released at once if the flag is set. (R256) -/
  | descriptorWaitRegister (x : Executor)
  /-- WAIT_LIMIT_EXPIRY: TEN_WAIT_LIMIT expires on a flag or domain wait, and the descriptor completes with WATCHDOG. (R56) -/
  | waitLimitExpiry (id : Nat)
  /-- DESCRIPTOR_START: An executor starts a descriptor that has reached its queue head with no wait outstanding. (R57) -/
  | descriptorStart (x : Executor)
  /-- WORK_COMPLETE: An executor finishes work: it commits the writes, sets SIGNAL_FLAG, writes fault and completion records or stages them, and raises interrupts. (R57) -/
  | workComplete (x : Executor)
  /-- RECORD_OBSERVABLE: A completion or event record written over CXL.cache becomes globally observable, and CQ_TAIL or EQ_TAIL advances. (R89) -/
  | recordObservable (id : Nat)
  /-- CACHE_WRITE_FAIL: A CXL.cache write to host memory returns an error or is unanswered for 10 ms, and the record is discarded or the work ends with FETCH_POISON. (R87) -/
  | cacheWriteFail (id : Nat)
  /-- STAGED_RECORD_DRAIN: A staged completion record enters the tenancy's ring once space frees, marked STAGED. (R80) -/
  | stagedRecordDrain (ten : BitVec 8)
  /-- IRQ_HOLDOFF_EXPIRY: TEN_IRQ_HOLDOFF elapses on a vector, and the held messages are sent as one. (R90) -/
  | irqHoldoffExpiry (ten : BitVec 8) (vec : BitVec 3)
  /-- BALLAST_WINDOW: A new 32-cycle ballast window begins and the credit counts of the module and each stack are refreshed. (R373) -/
  | ballastWindow
  /-- BALLAST_GRANT: A stack limiter grants a queued admission credit, in arrival order, within the module and stack limits. (R374) -/
  | ballastGrant (stack : BitVec 3)
  /-- UNIT_WAKE_DONE: A unit woken from ASLEEP finishes its 24-cycle wake and issues its first instruction or begins a cask load. (R102) -/
  | unitWakeDone (b : BitVec 12)
  /-- IDLE_GATE_EXPIRY: A unit's task queue has been empty for PWR_BU_IDLE_GATE cycles, so the unit goes to ASLEEP. (R99) -/
  | idleGateExpiry (b : BitVec 12)
  /-- RUN_PERIOD_TICK: The 1024-cycle run period advances, and units and engines are gated outside their runs while the level is below 16. (R375) -/
  | runPeriodTick
  /-- LOAD_APPLY: A BU_LOAD or PRESS_LOAD at the head of its queue is written into a cask or refused with CASK_BUSY. (R127) -/
  | loadApply (x : CoreId)
  /-- LOAD_COMPLETE: A cask load finishes writing its last instruction and is added to the tenancy's measurement chain. (R296) -/
  | loadComplete (x : CoreId)
  /-- TASK_LIMIT_EXPIRY: A task's TASK_LIMIT expires, and the task ends with WATCHDOG. (R106) -/
  | taskLimitExpiry (x : CoreId)
  /-- VECTOR_BEAT: One beat of a vector instruction issues once its operands, including the stream head, are available. (R108) -/
  | vectorBeat (b : BitVec 12)
  /-- ADD: Scalar add of two registers. (R148) -/
  | add (x : CoreId)
  /-- SUB: Scalar subtract. (R148) -/
  | sub (x : CoreId)
  /-- AND: Scalar bitwise AND. (R148) -/
  | and (x : CoreId)
  /-- OR: Scalar bitwise OR. (R148) -/
  | or (x : CoreId)
  /-- XOR: Scalar bitwise XOR. (R148) -/
  | xor (x : CoreId)
  /-- SHL: Shift left by a register. (R148) -/
  | shl (x : CoreId)
  /-- SHR: Logical shift right by a register. (R148) -/
  | shr (x : CoreId)
  /-- SRA: Arithmetic shift right by a register. (R148) -/
  | sra (x : CoreId)
  /-- MUL: Scalar multiply, keeping the low 32 bits. (R148) -/
  | mul (x : CoreId)
  /-- MIN: Signed minimum. (R148) -/
  | min (x : CoreId)
  /-- MAX: Signed maximum. (R148) -/
  | max (x : CoreId)
  /-- SLT: Signed set-less-than. (R148) -/
  | slt (x : CoreId)
  /-- SLTU: Unsigned set-less-than. (R148) -/
  | sltu (x : CoreId)
  /-- ADDI: Add an immediate. (R148) -/
  | addi (x : CoreId)
  /-- ANDI: AND with an immediate. (R148) -/
  | andi (x : CoreId)
  /-- ORI: OR with an immediate. (R148) -/
  | ori (x : CoreId)
  /-- XORI: XOR with an immediate. (R148) -/
  | xori (x : CoreId)
  /-- SHLI: Shift left by an immediate. (R148) -/
  | shli (x : CoreId)
  /-- SHRI: Logical shift right by an immediate. (R148) -/
  | shri (x : CoreId)
  /-- SRAI: Arithmetic shift right by an immediate. (R148) -/
  | srai (x : CoreId)
  /-- MULI: Multiply by an immediate. (R148) -/
  | muli (x : CoreId)
  /-- SLTI: Signed set-less-than against an immediate. (R148) -/
  | slti (x : CoreId)
  /-- LI: Load an immediate into a register. (R148) -/
  | li (x : CoreId)
  /-- RDS: Copy a special register into a scalar register. (R135) -/
  | rds (x : CoreId)
  /-- LDW: Load a 32-bit word from the local store. (R148) -/
  | ldw (b : BitVec 12)
  /-- STW: Store a 32-bit word to the local store. (R148) -/
  | stw (b : BitVec 12)
  /-- B: Unconditional branch. (R149) -/
  | b (x : CoreId)
  /-- BEQ: Branch if equal. (R149) -/
  | beq (x : CoreId)
  /-- BNE: Branch if not equal. (R149) -/
  | bne (x : CoreId)
  /-- BLT: Branch if signed less than. (R149) -/
  | blt (x : CoreId)
  /-- BGE: Branch if signed greater or equal. (R149) -/
  | bge (x : CoreId)
  /-- BLTU: Branch if unsigned less than. (R149) -/
  | bltu (x : CoreId)
  /-- BGEU: Branch if unsigned greater or equal. (R149) -/
  | bgeu (x : CoreId)
  /-- LOOP: Open a hardware loop level with a count, or skip it when the count is zero. (R151) -/
  | loop (x : CoreId)
  /-- LEND: Decrement the innermost loop count and return to the body start, or leave the level. (R154) -/
  | lend (x : CoreId)
  /-- LEXIT: Leave the innermost active loop level. (R155) -/
  | lexit (x : CoreId)
  /-- FSET: Once older BWRITE pairs have committed, send a set of a flag to its home. (R167) -/
  | fset (x : CoreId)
  /-- FCLR: Once older BWRITE pairs have committed, send a clear of a flag to its home. (R167) -/
  | fclr (x : CoreId)
  /-- FWAIT: Wait on a flag by gated sleep, kite or polling, or test it with TEST. (R168) -/
  | fwait (x : CoreId)
  /-- BARR: Arrive at a barrier once older writes have committed, napping with WAIT. (R170) -/
  | barr (b : BitVec 12)
  /-- SEND: Send a local-store record to the stack press's channel through the die-bus port. (R171) -/
  | send (b : BitVec 12)
  /-- HALT: End the task OK with a code. (R172) -/
  | halt (b : BitVec 12)
  /-- SHAPE: Set a shape register. (R138) -/
  | shape (b : BitVec 12)
  /-- BSTREAM: Open a bank stream, discarding the buffer and restarting the prefetcher. (R144) -/
  | bstream (b : BitVec 12)
  /-- VDOT: Dot products of stream rows against local-store queries into accumulator lanes. (R158) -/
  | vdot (b : BitVec 12)
  /-- VAXPY: Stream rows scaled by local-store scalars and accumulated into lanes. (R159) -/
  | vaxpy (b : BitVec 12)
  /-- VMUL: Element-wise multiply. (R160) -/
  | vmul (b : BitVec 12)
  /-- VADD: Element-wise add. (R160) -/
  | vadd (b : BitVec 12)
  /-- VMAX: Element-wise maximum. (R160) -/
  | vmax (b : BitVec 12)
  /-- VEXP: Element-wise 2^(a−b). (R161) -/
  | vexp (b : BitVec 12)
  /-- VRED: Sum or maximum reduction along one axis. (R162) -/
  | vred (b : BitVec 12)
  /-- VCVT: Convert or copy elements from the local store or the stream. (R163) -/
  | vcvt (b : BitVec 12)
  /-- VLD: Load lanes from the local store, or zero them. (R164) -/
  | vld (b : BitVec 12)
  /-- VST: Store lanes to the local store, optionally clearing them. (R164) -/
  | vst (b : BitVec 12)
  /-- BWRITE: Write bytes from the local store or accumulators into the bank through the write queue. (R165) -/
  | bwrite (b : BitVec 12)
  /-- PRESS_LDW: A press loads a 32-bit word from scratch by byte address. (R471) -/
  | pressLdw (e : BitVec 4)
  /-- PRESS_STW: A press stores a 32-bit word to scratch by byte address. (R471) -/
  | pressStw (e : BitVec 4)
  /-- PSHAPE: Set a press shape register. (R237) -/
  | pshape (e : BitVec 4)
  /-- PEW: Element-wise FP32 add, sub, mul, max or min. (R237) -/
  | pew (e : BitVec 4)
  /-- PRED: Row or column sum or max reduction. (R237) -/
  | pred (e : BitVec 4)
  /-- PNORM: RMS or layer normalisation per row. (R237) -/
  | pnorm (e : BitVec 4)
  /-- PACT: Apply an activation function, optionally gated. (R238) -/
  | pact (e : BitVec 4)
  /-- PROPE: Apply rotary position rotation. (R237) -/
  | prope (e : BitVec 4)
  /-- PMERGE: Online-softmax merge of an attention record, with INIT and FINISH. (R197) -/
  | pmerge (e : BitVec 4)
  /-- PTOPK: Select the k largest values with their indices. (R242) -/
  | ptopk (e : BitVec 4)
  /-- PQUANT: Quantise 32-element blocks to an MX format. (R180) -/
  | pquant (e : BitVec 4)
  /-- PCVT: Convert between non-MX output formats. (R237) -/
  | pcvt (e : BitVec 4)
  /-- PGET: Read a window into scratch. (R239) -/
  | pget (e : BitVec 4)
  /-- PPUT: Write scratch to a window, optionally replicated to every bank. (R239) -/
  | pput (e : BitVec 4)
  /-- PCHAN: Configure an input channel's landing slots, discarding unfreed records. (R240) -/
  | pchan (e : BitVec 4)
  /-- PRECV: Wait until a count of records has landed on a channel. (R240) -/
  | precv (e : BitVec 4)
  /-- PFREE: Free the oldest slots of a channel. (R237) -/
  | pfree (e : BitVec 4)
  /-- PSEND: Send scratch as one record to a press channel, or to a pod member as DPP PARTIAL. (R237) -/
  | psend (e : BitVec 4)
  /-- PHALT: End the press task OK with a code. (R234) -/
  | phalt (e : BitVec 4)
  /-- PRESS_TASK_START: A press starts its next PRESS_RUN: it makes the cask live and loads r1–r4. (R234) -/
  | pressTaskStart (e : BitVec 4)
  /-- RECORD_LAND: A record arriving at a press channel lands whole in the next free slot with a landing header, or is dropped or held. (R240) -/
  | recordLand (e : BitVec 4)
  /-- IN_LIMIT_EXPIRY: A PRECV's IN_LIMIT elapses, and the press task ends with WATCHDOG. (R240) -/
  | inLimitExpiry (e : BitVec 4)
  /-- COLUMN_SLOT: At each column boundary, the controller grants the slot to forced refresh, a host access, the write queue, the prefetcher or an owed refresh. (R121) -/
  | columnSlot (b : BitVec 12)
  /-- REFRESH_OWED: A band refresh interval elapses, and the bank's owed refresh count rises. (R125) -/
  | refreshOwed (b : BitVec 12)
  /-- TRANSLATION_FILL: The M-die translation unit answers a range-table miss, or the access ends with TRANSLATION_FAULT. (R289) -/
  | translationFill (b : BitVec 12)
  /-- FLAG_HOME_SET: A set operation is applied at the flag's home, releasing waiters and firing kites. (R247) -/
  | flagHomeSet (flag : BitVec 16)
  /-- FLAG_HOME_CLEAR: A clear operation is applied at the flag's home, firing clear kites. (R247) -/
  | flagHomeClear (flag : BitVec 16)
  /-- FLAG_HOME_TESTCLR: An atomic test-and-clear is applied at the flag's home. (R246) -/
  | flagHomeTestclr (flag : BitVec 16)
  /-- FLAG_HOME_TEST: A test of the flag's value is applied at its home. (R246) -/
  | flagHomeTest (flag : BitVec 16)
  /-- KITE_POLL: Every 1024 cycles, a waiter without a kite sends a test to the flag's home. (R254) -/
  | kitePoll (x : CoreId)
  /-- POLL_ANSWER: A poll's answer returns; a set flag releases the waiter. (R254) -/
  | pollAnswer (x : CoreId)
  /-- BARRIER_ARRIVAL: A BARR arrival reaches its B-die counter and counts, is held early, or ends the task with BARRIER_OVERRUN. (R264) -/
  | barrierArrival (bar : BitVec 10) (b : BitVec 12)
  /-- TRELLIS_LEVEL_ARRIVAL: A completed lower level's arrival reaches the M-die counter, which releases at the top. (R262) -/
  | trellisLevelArrival (bar : BitVec 10) (stack : BitVec 3)
  /-- BARRIER_RELEASE_DOWN: A release reaches a B-die, which wakes its nappers, resets its count and converts early arrivals. (R263) -/
  | barrierReleaseDown (bar : BitVec 10) (stack : BitVec 3)
  /-- SYNC_WATCHDOG_EXPIRY: A barrier's watchdog expires; the barrier breaks, waiters end with WATCHDOG and fault records are emitted. (R268) -/
  | syncWatchdogExpiry (bar : BitVec 10)
  /-- SWITCH_DONE: An object switch finishes clearing, records the new owner and sets RESULT. (R282) -/
  | switchDone (ten : BitVec 8)
  /-- METER_REPORT: An event's report reaches the meter unit and is counted, saturating and setting TEN_METER_FLAG if due. (R291) -/
  | meterReport
  /-- METER_US_TICK: Each µs of elapsed time adds owned and throttled groups to the OWNED and THROTTLED meters. (R291) -/
  | meterUsTick
  /-- XLAT_BUSY_CLEAR: Every cached copy of a changed translation entry is dropped, and TEN_XLAT_STATUS.BUSY clears. (R290) -/
  | xlatBusyClear (ten : BitVec 8)
  /-- DOMAIN_MIN_OFF_EXPIRY: A requested domain has been OFF for 2 µs and requests its ramp credits. (R368) -/
  | domainMinOffExpiry (dom : BitVec 9)
  /-- DOMAIN_RAMP_DONE: A domain's ramp ends and it is ON, or drains at once if disabled. (R368) -/
  | domainRampDone (dom : BitVec 9)
  /-- DOMAIN_DRAINED: A draining domain's work has finished, so it goes OFF and loses its state. (R370) -/
  | domainDrained (dom : BitVec 9)
  /-- DRAIN_LIMIT_EXPIRY: PWR_DRAIN_LIMIT expires; the remaining work ends with ABORTED and the domain goes OFF. (R370) -/
  | drainLimitExpiry (dom : BitVec 9)
  /-- POWER_SAMPLE: Every 10 µs the input stage samples power at J3. (R376) -/
  | powerSample (power : BitVec 16) (volts : BitVec 16)
  /-- CAP_LOOP_TICK: Every 100 µs the cap loop compares the 1 ms average with PWR_CAP_W, adjusts k_cap and flags CAP_FLOOR. (R377) -/
  | capLoopTick
  /-- SENSOR_SAMPLE: Every 100 µs the sensors are sampled and checked; bands move, refresh rates change, throttle records are emitted, and halt or shutdown follows. (R383) -/
  | sensorSample (readings : List (BitVec 12))
  /-- ENFORCE_AT_REACHED: A pending throttle's ENFORCE_AT is reached, and k_thr drops to the requested level. (R385) -/
  | enforceAtReached (stack : BitVec 3)
  /-- TEN_CTRL_ENABLE: Setting ENABLE creates a tenancy with fresh meters, chain and disabled rings. (R274) -/
  | tenCtrlEnable (ten : BitVec 8) (mode : Bool)
  /-- TEN_CTRL_DISABLE: Clearing ENABLE destroys an empty, idle tenancy, or is dropped. (R276) -/
  | tenCtrlDisable (ten : BitVec 8)
  /-- TEN_CTRL_MODE: A write of MODE takes effect only while the tenancy owns nothing. (R275) -/
  | tenCtrlMode (ten : BitVec 8) (mode : Bool)
  /-- TEN_TAKE: Starts passing an object to a tenancy, clearing it from its old owner. (R279) -/
  | tenTake (ten : BitVec 8) (kind : BitVec 3) (index : BitVec 10)
  /-- TEN_GIVE: Starts releasing an object from its owner, with clearing. (R279) -/
  | tenGive (ten : BitVec 8) (kind : BitVec 3) (index : BitVec 10)
  /-- XLAT_WRITE: A TEN_XLAT_CMD write makes, replaces or invalidates a translation entry after checks. (R287) -/
  | xlatWrite (ten : BitVec 8)
  /-- XLAT_READ: A TEN_XLAT_CMD read loads the first matching entry into TEN_XLAT_ENTRY. (R449) -/
  | xlatRead (ten : BitVec 8)
  /-- XLAT_INVALIDATE: A TEN_XLAT_CMD invalidate removes every entry with the same view and page whose groups intersect. (R449) -/
  | xlatInvalidate (ten : BitVec 8)
  /-- TEN_METER_CLEAR: Zeroes all 16 meters and TEN_METER_SAT in one cycle. (R293) -/
  | tenMeterClear (ten : BitVec 8)
  /-- TEN_METER_SAT_WRITE: A W1C write clears saturation bits and re-arms the meter flag once all are clear. (R292) -/
  | tenMeterSatWrite (ten : BitVec 8) (value : BitVec 16)
  /-- TEN_SNAP_GO: Starts an operator meter snapshot to TEN_SNAP_ADDR. (R295) -/
  | tenSnapGo (ten : BitVec 8)
  /-- RING_ENABLE: Enabling an idle ring sets its head and tail from START, releases a held ring and restarts the phase. (R448) -/
  | ringEnable (ten : BitVec 8) (j : BitVec 3) (log2 : BitVec 5)
  /-- RING_DISABLE: Disabling an idle ring keeps its head and tail. (R448) -/
  | ringDisable (ten : BitVec 8) (j : BitVec 3) (log2 : BitVec 5)
  /-- REGION_VALIDATE: A RGN_CTRL write setting VALID stores the fields and validates the entry if every condition holds. (R32) -/
  | regionValidate (n : BitVec 6) (value : Word64)
  /-- REGION_INVALIDATE: A write clearing VALID takes effect when BUSY is 0, changing VALID alone. (R33) -/
  | regionInvalidate (n : BitVec 6) (value : Word64)
  /-- LINEAR_SPLIT_WRITE: A write to RGN_LINEAR_SPLIT re-addresses the module only when nothing is allocated. (R26) -/
  | linearSplitWrite (value : BitVec 6)
  /-- RGN_ECC_CLEAR: Clears the selected bank's ECC counters. (R349) -/
  | rgnEccClear
  /-- RETIRE_ROW_WRITE: A write to a retirement-table row entry takes effect at once and is logged. (R355) -/
  | retireRowWrite (r : BitVec 10) (value : Word64)
  /-- RETIRE_BANK_WRITE: Setting a bank bit retires its unit; clearing one is allowed only for an unowned group. (R446) -/
  | retireBankWrite (w : BitVec 6) (value : Word64)
  /-- FEAT_CTRL_GO: While AWAIT_GO is set, GO sets MEM_ACTIVE and locks the RWL fields. (R396) -/
  | featCtrlGo
  /-- CLK_RELOCK: A relock request, by register or management command, starts the PLL locking in the background. (R363) -/
  | clkRelock (managed : Bool)
  /-- PWR_DOM_REQ_WRITE: Sets or clears domain request levels, starting ramps, drains or pending re-enables. (R369) -/
  | pwrDomReqWrite (w : BitVec 3) (value : Word64)
  /-- SYN_BLOCK_HOME_WRITE: A write of a flag block's HOME takes effect only when the block is unowned and the value is allowed. (R245) -/
  | synBlockHomeWrite (blk : BitVec 8) (value : BitVec 4)
  /-- SYN_DBG_SELECT: Selects an object and takes a snapshot of its view record. (R451) -/
  | synDbgSelect (value : Word64)
  /-- SYN_DBG_SNAPSHOT_READY: The selected snapshot lands in the window and VALID is set. (R451) -/
  | synDbgSnapshotReady
  /-- SYN_KITE_FREE: The operator frees an armed kite without a message. (R255) -/
  | synKiteFree (k : BitVec 12)
  /-- TRACE_ENABLE: Enabling trace capture empties the buffer and starts capture under the filter and trigger. (R438) -/
  | traceEnable (value : Word64)
  /-- POD_ENABLE: Setting NET_POD_CTRL.ENABLE puts a worker in JOINING or the manager in MANAGING. (R301) -/
  | podEnable
  /-- POD_DISABLE: Clearing ENABLE ends sends, waits for acknowledgements, sends LEAVE and enters ALONE. (R304) -/
  | podDisable
  /-- LEAVE_WAIT_EXPIRY: The 10 ms wait for outstanding acknowledgements ends, and JOIN LEAVE is sent. (R304) -/
  | leaveWaitExpiry
  /-- NET_EXPEL: The manager expels a worker by sending it JOIN LEAVE. (R304) -/
  | netExpel (m : BitVec 6)
  /-- NET_READMIT: The manager sends JOIN READMIT, ending a quarantine. (R334) -/
  | netReadmit (m : BitVec 6)
  /-- NET_LOST_CLEAR: Clears NET_LOST bits of a tenancy. (R321) -/
  | netLostClear (ten : BitVec 8) (m : BitVec 6) (all : Bool)
  /-- REGISTER_WRITE: A write to a BAR0 register that has no behaviour of its own stores RW fields under the access codes, locks and ranges. (R440) -/
  | registerWrite (off : BitVec 24) (size : Nat) (value : Word64)
  /-- DPP_HELLO: A sequenced HELLO frame is received and acknowledged. (R319) -/
  | dppHello (f : Frame)
  /-- JOIN_REQUEST: The manager admits a joining worker with ACCEPT and ANNOUNCE, or refuses it. (R301) -/
  | joinRequest (f : Frame)
  /-- JOIN_ACCEPT: A worker enters MEMBER and records the membership and incarnations. (R303) -/
  | joinAccept (f : Frame)
  /-- JOIN_REFUSE: A joining worker returns to ALONE. (R301) -/
  | joinRefuse (f : Frame)
  /-- JOIN_ANNOUNCE: A member records a joined member or applies the unreachable rule to a departed one. (R303) -/
  | joinAnnounce (f : Frame)
  /-- JOIN_LEAVE: A member leaves or is expelled, and work addressed to it ends. (R304) -/
  | joinLeave (f : Frame)
  /-- JOIN_READMIT: A quarantine of the named member ends. (R334) -/
  | joinReadmit (f : Frame)
  /-- JOIN_REPORT: The manager receives a report naming a quarantined member. (R334) -/
  | joinReport (f : Frame)
  /-- TIME_SYNC: A worker stamps a SYNC arrival and sends DELAY_REQ. (R330) -/
  | timeSync (f : Frame)
  /-- TIME_DELAY_REQ: The manager stamps a DELAY_REQ arrival and returns DELAY_RESP. (R330) -/
  | timeDelayReq (f : Frame)
  /-- TIME_DELAY_RESP: A worker computes offset and delay, then slews or steps its time or makes the manager step. (R331) -/
  | timeDelayResp (f : Frame)
  /-- TIME_STEP: A member behind the carried time steps its module time forward. (R331) -/
  | timeStep (f : Frame)
  /-- DPP_WRITE: A WRITE frame is checked at FIRST and its bytes are committed to the named region. (R324) -/
  | dppWrite (f : Frame)
  /-- DPP_READ: A READ request is answered by REPLY WRITE frames. (R323) -/
  | dppRead (f : Frame)
  /-- DPP_FLAG_SET: The manager applies a remote set to its HOME flag. (R326) -/
  | dppFlagSet (f : Frame)
  /-- DPP_FLAG_CLEAR: The manager applies a remote clear. (R326) -/
  | dppFlagClear (f : Frame)
  /-- DPP_FLAG_TESTCLR: The manager applies a remote test-and-clear. (R326) -/
  | dppFlagTestclr (f : Frame)
  /-- DPP_FLAG_TEST: The manager tests a flag and returns RESULT. (R326) -/
  | dppFlagTest (f : Frame)
  /-- DPP_FLAG_WATCH: The manager registers a remote wait as a kite. (R326) -/
  | dppFlagWatch (f : Frame)
  /-- DPP_FLAG_WATCH_CLR: The manager registers a remote CLR wait as a kite. (R326) -/
  | dppFlagWatchClr (f : Frame)
  /-- DPP_FLAG_FIRE: A worker receives FIRE and releases its waiting entity. (R326) -/
  | dppFlagFire (f : Frame)
  /-- DPP_FLAG_RESULT: A worker receives RESULT and completes its descriptor or falls back to polling. (R326) -/
  | dppFlagResult (f : Frame)
  /-- DPP_ARRIVE: The manager counts a member's barrier arrival and releases at the last, or NAKs a mismatch. (R327) -/
  | dppArrive (f : Frame)
  /-- DPP_RELEASE: A member releases a pod barrier vintage locally, or breaks it when BROKEN is set. (R327) -/
  | dppRelease (f : Frame)
  /-- DPP_PARTIAL: A PARTIAL frame lands part of a record at a press channel, or is NAKed BUSY or MALFORMED. (R329) -/
  | dppPartial (f : Frame)
  /-- DPP_ACK: A cumulative acknowledgement frees acknowledged frames and restarts the timer, or triggers fast retransmit. (R314) -/
  | dppAck (f : Frame)
  /-- DPP_NAK: A NAK ends the sender's work with the mapped status, or restarts the timer for BUSY. (R333) -/
  | dppNak (f : Frame)
  /-- NON_DPP_FRAME: An ARP, ICMP, neighbour-discovery or LLDP frame is counted and dropped. (R305) -/
  | nonDppFrame (port : BitVec 1)
  /-- RETRANSMIT_TIMEOUT: The retransmit timer expires; unacknowledged frames are resent, and after the eighth try the peer is declared unreachable. (R315) -/
  | retransmitTimeout (m : BitVec 6)
  /-- ACK_TIMER: 2 µs after the oldest unacknowledged frame took effect, a cumulative ACK is sent. (R313) -/
  | ackTimer (m : BitVec 6)
  /-- HELLO_TIMER: A member silent toward a peer for NET_HELLO_PERIOD sends HELLO. (R319) -/
  | helloTimer (m : BitVec 6)
  /-- JOIN_RETRY_TIMER: A JOINING worker resends JOIN REQUEST every 1 ms. (R301) -/
  | joinRetryTimer
  /-- BUSY_NAK_TIMER: A PARTIAL blocked on a full channel is answered with NAK BUSY every 50 µs. (R317) -/
  | busyNakTimer (m : BitVec 6)
  /-- TIME_PERIOD_TIMER: Every NET_TIME_PERIOD the manager sends SYNC to each worker. (R330) -/
  | timePeriodTimer
  /-- TIME_LOST_TIMER: No exchange completes for 100 ms, so the worker sets NET_TIME_STATE.LOST. (R330) -/
  | timeLostTimer
  /-- VIOLATION_WINDOW_EXPIRY: One second after a peer's first violation, its violation count is cleared. (R334) -/
  | violationWindowExpiry (m : BitVec 6)
  /-- PORT_LINK_DOWN: A port loses link, and its pairs move to the other port and retransmit. (R306) -/
  | portLinkDown (p : BitVec 1)
  /-- PORT_LINK_RETURN: A named port has had link for 1 s, and its pairs return to it. (R306) -/
  | portLinkReturn (p : BitVec 1)
  /-- SET_BOOT_SLOT: Writes PREFERRED and TRIAL in the boot directory. (R411) -/
  | setBootSlot (slot : Bool) (trial : Bool)
  /-- COMMIT_SVN: Raises the SVN fuse counter to the running image's SVN. (R401) -/
  | commitSvn
  /-- REVOKE_KEY: Programs the revocation fuse of a signing key. (R402) -/
  | revokeKey (k : BitVec 3)
  /-- WRITE_PROVISION: Replaces the provisioning record. (R411) -/
  | writeProvision (p : Option Provision)
  /-- MODULE_RESET_COLD: Cold reset by management command, rerunning from step 3. (R406) -/
  | moduleResetCold
  /-- MODULE_RESET_WARM: Warm reset by management command. (R406) -/
  | moduleResetWarm
  /-- READ_LOG: Returns cellar-log entries by sequence number. (R430) -/
  | readLog (first : Word) (count : Nat)
  /-- FIRMWARE_UPDATE: PLDM firmware update writes and verifies the idle slot, and activation sets it preferred on trial. (R410) -/
  | firmwareUpdate (img : Image)
  /-- I3C_ADDRESS_ASSIGN: A controller assigns a dynamic address, and the bus switches from SMBus to I3C mode. (R459) -/
  | i3cAddressAssign (addr : BitVec 7)
  /-- GET_VERSION: SPDM version request. (R412) -/
  | getVersion
  /-- GET_CAPABILITIES: SPDM capabilities request. (R412) -/
  | getCapabilities
  /-- NEGOTIATE_ALGORITHMS: SPDM algorithm negotiation. (R412) -/
  | negotiateAlgorithms
  /-- GET_DIGESTS: SPDM certificate-chain digests request. (R413) -/
  | getDigests
  /-- GET_CERTIFICATE: Returns the slot 0 certificate chain. (R413) -/
  | getCertificate (slot : BitVec 4)
  /-- CHALLENGE: SPDM challenge, signed with the attestation key. (R412) -/
  | challenge (nonce : BitVec 256)
  /-- GET_MEASUREMENTS: Returns the signed measurement blocks. (R415) -/
  | getMeasurements (index : BitVec 8) (nonce : BitVec 256)
  /-- VENDOR_DEFINED_REQUEST: Returns the signed per-tenancy load-measurement report. (R416) -/
  | vendorDefinedRequest (cmd : Byte) (ten : BitVec 8) (nonce : BitVec 256)
  /-- SPDM_UNSUPPORTED: KEY_EXCHANGE, PSK_EXCHANGE, GET_CSR or SET_CERTIFICATE is answered with UnsupportedRequest. (R412) -/
  | spdmUnsupported (code : Byte)
  /-- REFCLK_START_TIMEOUT: REFCLK is not good within 100 ms of the end of step 1, so steps 3 and 4 run on the coast setting and CLK_COAST is set. (R394) -/
  | refclkStartTimeout
  /-- HDM_DECODER_COMMIT: The host commits the module's HDM decoder, and the module rejects any interleave setting other than ways 1. (R23) -/
  | hdmDecoderCommit (ways : Nat)
  /-- BAD_OPCODE_DESCRIPTOR: A descriptor whose OPCODE is 0x00 or any value not in Table 3.4 reaches the dispatcher and completes with BAD_OPCODE. (R51) -/
  | badOpcodeDescriptor (ten : BitVec 8) (src : Source)
  /-- UNDEFINED_OPCODE_WORD: A unit or press issues an instruction word whose opcode is not defined, for example a word of a cleared cask, and the task ends with BU_FAULT reason 0x01. (R132) -/
  | undefinedOpcodeWord (x : CoreId)
  /-- DPP_UNKNOWN_TYPE: A DPP frame arrives whose TYPE is not in Table 12.4 and is answered with NAK BAD_TYPE and counted as a violation. (R333) -/
  | dppUnknownType (f : Frame)
  /-- NET_RX_ERR_FRAME: A frame arrives with a bad FCS or UDP checksum, or in an IP form DPP refuses, and is dropped and counted in NET_RX_ERR. (R333) -/
  | netRxErrFrame (port : BitVec 1)
  /-- EHREG_RESTART_DONE: The Ehreg firmware restart ends, after at most 220 ms, and management commands are no longer answered with BAD_FIELD. (R435) -/
  | ehregRestartDone
  /-- PROGRAM_FETCH_RETURN: The fetch of a BU_LOAD or PRESS_LOAD program returns whole, so the program goes to the units or press, or the load completes with FETCH_POISON, DATA_UNCORRECTABLE or RETIRED. (R348) -/
  | programFetchReturn (id : Nat) (words : Option (List Word64))
  /-- SMBUS_ALERT_RESPONSE: In SMBus mode the controller reads the alert response address, and the module releases ALERT#. (R460) -/
  | smbusAlertResponse
  deriving DecidableEq, Repr

end Sys2Proof
end

