-- ==== Sys2Proof/Decode.lean ====
section
/-! DEFINITION. The commands that a word spells: no row of the opcode table gives bits, so a word spells none. -/

namespace Sys2Proof

/-- The command of a table word: the rows of the opcode table have no encoding bits. -/
def decodeTableWord (_nbits _w : Nat) : Option Instr := none

end Sys2Proof
end

