-- ==== Sys2Proof/Config.lean ====
section
/-! DEFINITION. What one implementation fixes and what the spec leaves open: free values without a body, and fixed counts. -/

namespace Sys2Proof.Config

/-- The low and high part of a drawn incarnation (R301), by draw. -/
opaque incarnation : Nat → BitVec 32
/-- The value of a poisoned element (R345), by draw. -/
opaque poisonValue : Nat → Word
/-- Which pair of elements a sum combines next (R186, R191), by draw. -/
opaque orderPick : Nat → Nat
/-- From which operand on, in ascending order, an exp2 result may take a value within its bound (R187), by that value. -/
opaque exp2From : Word → Nat
/-- The result of an activation function (R238), by function and operand. -/
opaque actValue : Nat → Word → Word
/-- A byte of host memory that a press reads through its host window, by draw. -/
opaque hostByte : Nat → Byte
/-- The attestation key that the ROM derives, by fuse secret, measurement 1 and measurement 2 (R414). -/
opaque attestKey : List Byte → List Byte → List Byte → List Byte
/-- An Ed448 signature by the attestation key, by key, context string and message (R414-R416). -/
opaque ed448Sign : List Byte → List Byte → List Byte → List Byte
/-- Whether an Ed448ph signature verifies, by key, context string, message and signature (R398, R399). -/
opaque ed448Verify : List Byte → List Byte → List Byte → List Byte → Bool
/-- The SHAKE256 digest of the mask ROM (Table 16.9, index 1). -/
opaque maskRom : List Byte
/-- The certificate of the Otwiron root (R413). -/
opaque rootCert : List Byte
/-- The device identity certificate, by fuse secret (R413). -/
opaque identityCert : List Byte → List Byte
/-- The attestation certificate, issued under the identity key of a fuse secret for an attestation key: it names measurements 1 and 2 and
the SVN (R413, R414). -/
opaque attestCert : List Byte → List Byte → List Byte → List Byte → Nat → List Byte
/-- The SHAKE256 digest of a provisioning record (Table 16.9, index 5), by its HOLD bit and fields: the record's layout is not stated. -/
opaque provisionDigest : Bool → List (Nat × BitVec 64) → List Byte
/-- The PCI-SIG vendor identifier (R443). -/
opaque vendorId : BitVec 16
/-- The membership payload of ACCEPT and ANNOUNCE (Table 12.6 is not in the spec), by member and incarnation. -/
opaque membershipBytes : List (Nat × BitVec 32) → List Byte
/-- The members and incarnations that a membership payload names. -/
opaque membershipOf : List Byte → List (Nat × BitVec 32)
/-- A correction of a worker's rate after an exchange of TIME messages (R330), by draw. -/
opaque timeRate : Nat → Int
/-- A value the spec does not state, by place and draw. -/
opaque unstated : Nat → Nat → Nat

/-- Ticks in a microsecond: a tick is 0.625 ns (R361). -/
def us : Nat := 1600
/-- Ticks in a millisecond. -/
def ms : Nat := 1600000

end Sys2Proof.Config
end

