-- ==== Sys2Proof/Machine/State.lean ====
section
/-! DEFINITION. The state of the module as plain data, the reasons a step stops, and the state after reset. -/

namespace Sys2Proof.Machine

/-- Ordering code (R1, R2). -/
inductive Variant where
  | rl512N
  | rl512H
  deriving DecidableEq, Repr

/-- Status codes (Table 17.1, R417). -/
inductive Status where
  | ok | badOpcode | badField | range | overlap | padConflict | caskBusy | notOwner | translationFault
  | dataUncorrectable | fetchPoison | barrierOverrun | watchdog | buFault | aborted | peerUnreachable
  | cancelledBySwitch | retired | tempWindow | thermalHalt | loopDepth | ringIndexInvalid
  deriving DecidableEq, Repr

/-- A 32-bit value with its poison mark: a register, lane or local-store word (Table 13.2). -/
structure PWord where
  val    : Word
  poison : Bool
  deriving DecidableEq, Repr

/-- A shape register: inner count and stride, outer count and stride (R138). -/
structure Shape where
  n0 : Nat
  s0 : Nat
  n1 : Nat
  s1 : Int
  deriving DecidableEq, Repr

/-- One program store half (R97, R129, R150): its words, the end of its most recent completed load, its incomplete mark. -/
structure Cask where
  words      : SMap Word64
  loaded     : Option Nat
  incomplete : Bool
  deriving DecidableEq, Repr

/-- An active hardware-loop level (R151): first body index, END, live counter. -/
structure LoopLevel where
  body  : Nat
  endIx : Nat
  count : Nat
  deriving DecidableEq, Repr

/-- The running task of a unit or press (R105, R234). -/
structure Task where
  id        : Nat
  ten       : Nat
  tag       : BitVec 16
  raw       : Descriptor
  startE    : Nat
  startT    : Nat
  startCk   : Nat
  polled    : Bool
  deriving DecidableEq, Repr

/-- A vector instruction, BWRITE or SEND between its beats (R108). -/
structure Vec where
  word  : Word64
  beat  : Nat
  total : Nat
  deriving DecidableEq, Repr

/-- What a napping unit or a waiting press waits for (R98, R250, R251, R254, R170). -/
inductive NapWhy where
  | flag (f : Nat) (clr : Bool)
  | kite (f : Nat) (clr : Bool) (k : Nat)
  | poll (f : Nat) (clr : Bool)
  | test (f : Nat) (clr : Bool) (rd : Nat)
  | barrier (bar : Nat)
  deriving DecidableEq, Repr

/-- A wait in progress: its reason; whether its wake wire has fired; the elapsed time of the last poll; an answer under way. -/
structure Nap where
  why      : NapWhy
  released : Bool
  lastPoll : Nat
  answer   : Option Bool
  deriving DecidableEq, Repr

/-- Where an instruction under way stood when it issued (R173-R175): its PC with the live cask, the loop levels, its place in the program
order of what its unit has under way. -/
structure Origin where
  pc    : Nat
  loops : Nat
  order : Nat
  deriving DecidableEq, Repr

/-- The end of a task that has not yet been reported (R106): status, DETAIL, the ck cycle and the module time of the end, and the fault
payload that is still to be entered, with whether a fault record carries it (R174, R175); `order`: the place of an older instruction whose
fault it is; `wait`: what the task waited for. -/
structure Ending where
  status : Status
  detail : Nat
  ck     : Nat
  time   : Nat
  report : Option (Bool × List Byte)
  order  : Option Nat
  wait   : Option NapWhy
  deriving DecidableEq, Repr

/-- A load being written into a cask (R127): descriptor, cask, whether it still waits for the unit's wake (R102). -/
structure LoadJob where
  id      : Nat
  cask    : Bool
  waking  : Bool
  deriving DecidableEq, Repr

/-- What a bank unit and a press have in common: casks, program counter, registers, loops, memory, task queue. -/
structure Proc where
  cask0  : Cask
  cask1  : Cask
  live   : Bool
  pc     : Nat
  regs   : SMap PWord
  shapes : SMap Shape
  loops  : List LoopLevel
  mem    : List Host.Cell
  memPoison : SMap Bool
  task   : Option Task
  vec    : Option Vec
  nap    : Option Nap
  ended  : Option Ending
  queue  : List Nat
  load   : Option LoadJob
  deriving DecidableEq, Repr

/-- Unit states (Table 4.2). -/
inductive UnitState where
  | off | asleep | idle | running | napping
  deriving DecidableEq, Repr

/-- A column in the stream buffer: data, one poison bit per word, the mark of R115 if any, its block scales with their poison. -/
structure StreamCol where
  data   : BitVec 256
  poison : BitVec 8
  mark   : Option Status
  scales : List (Byte × Bool)
  deriving DecidableEq, Repr

/-- The bank stream of a task (R113, R144-R147). -/
structure Stream where
  fmt      : Nat
  region   : Nat
  start    : Nat
  count    : Nat
  stride   : Int
  scaleOff : Option Nat
  fetched  : Nat
  taken    : Nat
  buf      : List StreamCol
  scaleCol : List (Nat × StreamCol)
  deriving DecidableEq, Repr

/-- A 64-byte pair in the write queue (R118): bank offset, data, byte enables, poison per word, whether its first column is written, whether
the read slot of a read-modify-write of its next column has been taken, whether the bank holds it whole and its slots alone remain. -/
structure WPair where
  addr   : Nat
  data   : BitVec 512
  en     : BitVec 64
  poison : BitVec 16
  begun  : Bool
  read   : Bool
  done   : Bool
  deriving DecidableEq, Repr

/-- A range-table entry (R289): translated page, physical page, write permission. -/
structure RangeEntry where
  tpage : Nat
  ppage : Nat
  write : Bool
  deriving DecidableEq, Repr

/-- A record on its way to a press channel (R171, R240), with the cycle in which it arrived and the task of this module that sent it. -/
structure Record where
  at_    : Nat
  task   : Option Nat
  source : Nat
  ten    : Nat
  tag    : BitVec 16
  bytes  : List Byte
  poison : List Bool
  deriving DecidableEq, Repr

/-- A task record of a unit's history (R439). -/
structure TaskRec where
  tag    : BitVec 16
  status : Status
  cask   : Bool
  pc     : Nat
  startT : Nat
  endT   : Nat
  deriving DecidableEq, Repr

/-- A bank unit (Table 4.1). `sendFrom`: where the SEND stood whose record is at the port. -/
structure BankUnit where
  st      : UnitState
  proc    : Proc
  acc     : SMap PWord
  stream  : Option Stream
  spos    : Nat
  wq      : List WPair
  ranges  : List RangeEntry
  miss    : Option Nat
  port    : Option (Nat × Record)
  sendFrom : Origin
  wakeReq : Bool
  startReq : Bool
  idleSince : Nat
  runSince : Nat
  history : List TaskRec
  deriving DecidableEq, Repr

/-- A record in a slot of a channel: the slot, and the source, tag and tenancy that the record carries (R436). -/
structure Landed where
  slot   : Nat
  source : Nat
  tag    : BitVec 16
  ten    : Nat
  deriving DecidableEq, Repr

/-- A press channel (R240): landing slots, the records they hold (oldest first), the next slot, drops since the last landing. -/
structure Chan where
  configured : Bool
  base   : Nat
  size   : Nat
  count  : Nat
  landed : List Landed
  next   : Nat
  drops  : Nat
  deriving DecidableEq, Repr

/-- A PRECV in progress (R240): channel, count, slot register, start. -/
structure Recv where
  chan  : Nat
  need  : Nat
  dst   : Nat
  start : Nat
  deriving DecidableEq, Repr

/-- A press engine or stack press (R231): input records wait with their channel. -/
structure Press where
  proc  : Proc
  chans : SMap Chan
  input : List (Nat × Record)
  recv  : Option Recv
  hostPending : Nat
  deriving DecidableEq, Repr

/-- A running copy (R225): descriptor, steps done, bytes committed, and the source words that it has overwritten as they stood before
(R217). -/
structure CopyJob where
  id    : Nat
  next  : Nat
  bytes : Nat
  saved : SMap (Option (Word × Byte))
  deriving DecidableEq, Repr

/-- A decant engine (R225). -/
structure Decant where
  queue : List Nat
  job   : Option CopyJob
  ended : Option Ending
  deriving DecidableEq, Repr

/-- A running scrub (R352, R354): columns scanned so far, counts, first and last failing word, failing banks. -/
structure ScrubJob where
  id      : Nat
  next    : Nat
  scanned : Nat
  ce      : Nat
  ue      : Nat
  pr      : Nat
  first   : Option (Nat × Nat × Nat)
  last    : Option (Nat × Nat × Nat)
  banks   : SMap (Nat × Nat)
  deriving DecidableEq, Repr

/-- A host-class access that still takes column slots of a bank (R121): its row, slots left, whether one was taken, who pays. -/
structure SlotUse where
  row   : Nat
  slots : Nat
  begun : Bool
  ten   : Option Nat
  deriving DecidableEq, Repr

/-- A column controller (R121-R126): open row, refresh operations owed, host-class slots pending, the elapsed time at which its present
refresh interval began and the band that the interval follows (R383). -/
structure Bank where
  openRow : Option Nat
  owed    : Nat
  hostQ   : List SlotUse
  refFrom : Nat
  refBand : Nat
  deriving DecidableEq, Repr

/-- Decoder counts: corrected, uncorrectable, poison markers read (R349). -/
structure Ecc where
  ce : Nat
  ue : Nat
  pr : Nat
  deriving DecidableEq, Repr

/-- A region entry (Table 2.5). -/
structure Region where
  valid  : Bool
  linear : Bool
  ring   : Bool
  xlat   : Bool
  owner  : Nat
  gFirst : Nat
  gCount : Nat
  base   : Nat
  size   : Nat
  fill   : Word
  oobRd  : Nat
  oobWr  : Nat
  deriving DecidableEq, Repr

/-- A translation entry (Table 11.5). -/
structure XEntry where
  ten    : Nat
  linear : Bool
  write  : Bool
  tpage  : Nat
  ppage  : Nat
  gFirst : Nat
  gCount : Nat
  deriving DecidableEq, Repr

/-- A ring (R47, R48, R67-R70, R79). -/
structure Ring where
  enabled : Bool
  log2    : Nat
  head    : BitVec 16
  tail    : BitVec 16
  held    : Bool
  phase   : Bool
  deriving DecidableEq, Repr

/-- A completion or event record formed and not yet in its ring (R78, R80). -/
structure CRec where
  tag    : BitVec 16
  status : Status
  signalled : Bool
  staged : Bool
  src    : Source
  detail : Nat
  time   : Nat
  irq    : Bool
  deriving DecidableEq, Repr

/-- Interrupt hold-off of one vector (R90): when the last message was sent; whether one is held. -/
structure VecState where
  last : Option Nat
  held : Bool
  deriving DecidableEq, Repr

/-- A tenancy (R274, R447), less its stored registers, which `bar` holds. `held`: completions that its executors hold for want of a place
(R80); `ringLast`: the ring last served (R72); `satNew`, `satCk`: meters whose saturation bit was set in a cycle (R6); `before`: the
meters and their saturation bits as they stood before a clear, with its cycle (R450). -/
structure Tenancy where
  enabled : Bool
  xlat    : Bool
  rings   : SMap Ring
  slots   : SMap (Option Descriptor)
  staging : List CRec
  held    : List CRec
  ringLast : Nat
  eqOverflow : Bool
  cqLost  : Bool
  cqLostAt : Option Nat
  vecs    : SMap VecState
  swBusy  : Bool
  swResult : Nat
  swKind  : Nat
  swIndex : Nat
  xBusy   : Bool
  xError  : Bool
  xFound  : Bool
  meters  : SMap Nat
  energy  : Nat
  sat     : BitVec 16
  satNew  : BitVec 16
  satCk   : Nat
  before  : Option (Nat × SMap Nat × BitVec 16)
  snapBusy : Bool
  snapSeq : Nat
  tm      : BitVec 512
  loads   : Nat
  netLost : BitVec 64
  deriving DecidableEq, Repr

/-- A switch in progress (R279, R282): the block that asked, kind, index, giving or taking, the departing owner. -/
structure Switch where
  ten   : Nat
  kind  : Nat
  index : Nat
  give  : Bool
  old   : Nat
  deriving DecidableEq, Repr

/-- A descriptor in the M-die queue that the dispatcher has not yet taken (R70, R83), with the index of its ring entry. -/
structure Fetched where
  ten  : Nat
  src  : Source
  index : BitVec 16
  raw  : Descriptor
  deriving DecidableEq, Repr

/-- A ring fetch outstanding (R70, R83): tenancy, ring, first index, entries, when issued, its answer if an older fetch is still out. -/
structure Fetch where
  id    : Nat
  ten   : Nat
  ring  : Nat
  first : BitVec 16
  count : Nat
  at_   : Nat
  answer : Option (List (Option Descriptor))
  deriving DecidableEq, Repr

/-- How far a WAIT_FLAG has come (R56, R256). -/
inductive WaitSt where
  | none
  | waiting
  | registered (since : Nat)
  | released
  deriving DecidableEq, Repr

/-- An accepted, uncompleted descriptor (R54-R59, R73); `index`: of its ring entry, 0 for a slot; `placed`: its executors are settled, which
for a copy with ANY they are once an engine is ON (R229). -/
structure Active where
  id       : Nat
  ten      : Nat
  src      : Source
  index    : Nat
  raw      : Descriptor
  wait     : WaitSt
  toEnter  : List Executor
  toFinish : List Executor
  multi    : Bool
  failed   : Nat
  low      : Option (Nat × Status)
  detail   : Nat
  started  : Option Nat
  domSince : Option Nat
  fetchAt  : Option Nat
  prog     : Option (List Word64)
  applied  : Nat
  refusedN : Nat
  reserved : Bool
  placed   : Bool
  answered : Bool
  recordOut : Bool
  deriving DecidableEq, Repr

/-- What a CXL.cache write outstanding carries (R57, R87). -/
inductive HwKind where
  | completion (irq : Option Nat)
  | event (irq : Option Nat)
  | summary (id : Nat) (status : Status)
  | snapshot (id : Nat)
  | opSnapshot
  | window (e : Nat) (task : Nat)
  deriving DecidableEq, Repr

/-- A CXL.cache write outstanding: where, what, its poison per byte (none listed: clean), for whom, when issued. -/
structure HostWrite where
  id    : Nat
  ten   : Nat
  kind  : HwKind
  addr  : Nat
  bytes : List Byte
  poison : List Bool
  at_   : Nat
  deriving DecidableEq, Repr

/-- A member of a batch: the extents the dispatcher keeps (R221, R222), as (bank view, first bank, last bank, low, high, padw). -/
structure BatchRec where
  padw     : Bool
  linear   : Bool
  vb0 : Int
  vb1 : Int
  vlo : Int
  vhi : Int
  pb0 : Int
  pb1 : Int
  plo : Int
  phi : Int
  deriving DecidableEq, Repr

/-- The open batch of a source (R221): members so far and their extents. -/
structure Batch where
  ten  : Nat
  src  : Source
  n    : Nat
  recs : List BatchRec
  deriving DecidableEq, Repr

/-- Operations on a flag at its home (R246). -/
inductive FlagOp where
  | set | clear | testClr | test
  deriving DecidableEq, Repr

/-- Who makes an operation or waits (Tables 10.8, 17.2): kind and identifier. -/
structure Who where
  kind : Nat
  id   : Nat
  deriving DecidableEq, Repr

/-- Who is told the outcome of an operation. -/
inductive Reply where
  | none
  | desc (id : Nat)
  | core (x : CoreId)
  | host (k : Nat)
  deriving DecidableEq, Repr

/-- A flag operation on its way to the home (R246, R470). -/
structure FlagMsg where
  op    : FlagOp
  flag  : Nat
  ten   : Nat
  who   : Who
  tag   : BitVec 16
  reply : Reply
  deriving DecidableEq, Repr

/-- Who holds a wait at a flag's home (R247); `gone`: nobody any more, of a kite that stays armed after its task's end (R255). -/
inductive Holder where
  | gone
  | core (x : CoreId)
  | desc (id : Nat)
  | host (k : Nat)
  | member (m : Nat) (waiter : Nat)
  deriving DecidableEq, Repr

/-- A waiter or kite at a flag's home, in order of arrival (R247). -/
structure Watch where
  flag   : Nat
  onClear : Bool
  clr    : Bool
  holder : Holder
  kite   : Option Nat
  who    : Who
  tag    : BitVec 16
  deriving DecidableEq, Repr

/-- An allocated kite (Table 10.7). -/
structure Kite where
  owner  : Nat
  flag   : Nat
  onClear : Bool
  clr    : Bool
  notify : BitVec 8
  cookie : Word
  who    : Who
  tag    : BitVec 16
  armed  : Nat
  deriving DecidableEq, Repr

/-- The last change of a flag (Table 10.5). -/
structure LastOp where
  who  : Who
  op   : Nat
  tag  : BitVec 16
  time : Nat
  deriving DecidableEq, Repr

/-- State of a barrier (Table 10.6). -/
inductive BarState where
  | uninit | active | broken
  deriving DecidableEq, Repr

/-- A barrier (R259-R270): participants, arrived and early units, levels that have sent their arrival up, messages in flight. -/
structure Barrier where
  st       : BarState
  cause    : Nat
  vintage  : Bool
  flag     : Nat
  ten      : Nat
  limit    : Nat
  tag      : BitVec 16
  parts    : SMap Bool
  members  : BitVec 64
  arrived  : SMap Bool
  early    : SMap Bool
  stackUp  : List Nat
  mdCount  : List Nat
  podSent  : Bool
  podCount : BitVec 64
  releases : Nat
  firstArr : Option Nat
  firstTime : Option Nat
  down     : List Nat
  deriving DecidableEq, Repr

/-- An arrival on its way to its barrier (R264), with the BARR it comes from. -/
structure Arrival where
  bar  : Nat
  unit : Nat
  from_ : Origin
  deriving DecidableEq, Repr

/-- The sync unit, the B-die homes and the trellis. -/
structure Sync where
  flags    : SMap Bool
  last     : SMap LastOp
  watches  : List Watch
  kites    : SMap (Option Kite)
  barriers : SMap Barrier
  msgs     : List FlagMsg
  arrivals : List Arrival
  dbgPend  : Option (List Byte)
  dbgView  : Option (List Byte)
  deriving DecidableEq, Repr

/-- Domain states (Table 14.5). -/
inductive DomSt where
  | off | ramping | on | draining
  deriving DecidableEq, Repr

/-- A power domain (R368-R371): state, RE_ENABLE_PENDING, elapsed time of the last change, ramp requested, ramp begun. -/
structure Domain where
  st       : DomSt
  reEnable : Bool
  since    : Nat
  asked    : Bool
  deriving DecidableEq, Repr

/-- An admission request (R374). -/
inductive Admit where
  | taskStart (b : Nat)
  | wake (b : Nat)
  | nap (b : Nat)
  | poll (b : Nat)
  | ramp (g : Nat) (left : Nat)
  deriving DecidableEq, Repr

/-- The power domains, the ballast governor and the cap loop. `phase`: what the window counter is ahead of ck (R373); `queues`: requests
with the cycle of their arrival (R374); `lastStk`: the stack last granted; `nextDom`: the domains below it have had their turn to
request a ramp after a reset (R469); `capFloorCk`: the cycle in which CAP_FLOOR was last set (R6). -/
structure Pwr where
  req      : SMap Bool
  dom      : SMap Domain
  kCap     : Nat
  capFloor : Bool
  capFloorCk : Option Nat
  samples  : List Nat
  volts    : Nat
  belowFor : Nat
  floorFor : Nat
  phase    : Nat
  window   : Nat
  usedMod  : Nat
  used     : SMap Nat
  grantCk  : Nat
  grantMod : Nat
  grantStk : List Nat
  queues   : SMap (List (Nat × Admit))
  lastStk  : Nat
  nextDom  : Nat
  deriving DecidableEq, Repr

/-- The thermal record of a stack or of the M-die (index 8): band, throttle band, k_thr, pending enforcement, times since below. -/
structure ThmStack where
  band     : Nat
  tband    : Nat
  kThr     : Nat
  pending  : Option (Nat × Nat)
  enforceAt : Nat
  since82  : Option Nat
  since92  : Option Nat
  since102 : Option Nat
  since107 : Option Nat
  halted   : Bool
  unseen   : Bool
  deriving DecidableEq, Repr

/-- The thermal logic (R379-R391). Readings are in units of 0.25 degrees. -/
structure Thm where
  reading  : SMap Int
  failed   : SMap Bool
  diffs    : SMap Nat
  stk      : SMap ThmStack
  shutdown : Bool
  deriving DecidableEq, Repr

/-- The clock block (Table 18.2). -/
structure Clk where
  locked  : Bool
  coast   : Bool
  refGood : Bool
  relock  : Bool
  openLanes : SMap Bool
  closures : SMap Nat
  startCoast : Bool
  deriving DecidableEq, Repr

/-- Phases of start-up (R393, R397, R403). -/
inductive Phase where
  | off | sequence | stuck | recovery | shutdown
  deriving DecidableEq, Repr

/-- Start-up state (R393-R407, R443, R458); resetDue: the entry of the power-on reset is still to be made; initDone: step 6 has ended and
step 7 waits for PERST#; deadStack: the stack that failed training (R397). -/
structure Boot where
  phase    : Phase
  step     : Nat
  memActive : Bool
  awaitGo  : Bool
  cause    : Nat
  stack    : Nat
  buid     : Nat
  fallback : Bool
  slotB    : Bool
  perst    : Bool
  linkUp   : Bool
  notReady : Bool
  blocked  : Bool
  keyReady : Bool
  secretLocked : Bool
  resetDue : Bool
  initDone : Bool
  deadStack : Option Nat
  deriving DecidableEq, Repr

/-- A copy of the boot directory (Table 16.3): PREFERRED is B, TRIAL, TRIAL_ATTEMPTED, whether the copy is valid, and its place in the order
of writes (log entry 8). -/
structure DirCopy where
  preferredB : Bool
  trial      : Bool
  attempted  : Bool
  valid      : Bool
  serial     : Nat
  deriving DecidableEq, Repr

/-- The firmware flash (Table 16.3). -/
structure Flash where
  dir0       : DirCopy
  dir1       : DirCopy
  provision  : Provision
  slotA      : Image
  slotB      : Image
  postponed  : Option (Bool × Bool × Bool)
  deriving DecidableEq, Repr

/-- The fuse array (R398, R413): the fuse secret among it. -/
structure Fuses where
  keyHash : List Byte
  svn     : BitVec 6
  revoked : BitVec 4
  secret  : List Byte
  deriving DecidableEq, Repr

/-- The management path and the SPDM responder (R410-R416, R435, R459, R460). `strap`: the level of MGMT_ADDR; `romSecret`: the fuse secret as
the ROM has read it for its derivations (R413, R414). -/
structure Mgmt where
  i3c      : Bool
  strap    : BitVec 2
  address  : BitVec 7
  romSecret : Option (List Byte)
  event    : Bool
  alertShut : Bool
  restarting : Option Nat
  hold     : Bool
  meas4    : List Byte
  prov     : Option Provision
  meas6    : List Byte
  deriving DecidableEq, Repr

/-- A cellar-log entry (Table 17.5); its SEQ is its place. -/
structure LogEntry where
  time   : Nat
  seq    : Nat
  source : Nat
  cls    : Nat
  num    : Nat
  tag    : Option (BitVec 16)
  ten    : Option Nat
  level  : Nat
  detail : List Byte
  deriving DecidableEq, Repr

/-- The cellar log (R424, R427): entries by SEQ mod 65,536, counters, and the entries in its collecting queue as of a cycle. -/
structure CellarLog where
  entries : SMap (Option LogEntry)
  next    : Nat
  count   : Nat
  overwr  : Nat
  lost    : Nat
  queued  : Nat
  queuedCk : Nat
  deriving DecidableEq, Repr

/-- A trace record (Table 17.10). -/
structure TraceRec where
  time   : Nat
  event  : Nat
  ten    : Nat
  source : Nat
  tag    : BitVec 16
  data   : Word
  lost   : Bool
  deriving DecidableEq, Repr

/-- The trace buffer (R437, R438), oldest record first. -/
structure Trace where
  recs    : List TraceRec
  running : Bool
  post    : Option Nat
  lost    : Nat
  epoch   : Nat
  lastCk  : Nat
  inCk    : Nat
  dropped : Bool
  deriving DecidableEq, Repr

/-- An Ethernet frame on the wire (R299, R305, R309, Table 12.2): addresses, the optional 802.1Q tag (PCP, VID), the IP form with its DSCP
and DF, the UDP ports and checksum, and the DPP header with what follows it. -/
structure Wire where
  dstMac   : Nat
  srcMac   : Nat
  tag      : Option (Nat × Nat)
  v4       : Bool
  dscp     : Nat
  df       : Bool
  srcIp    : List Byte
  dstIp    : List Byte
  srcPort  : Nat
  dstPort  : Nat
  checksum : Nat
  dpp      : List Byte
  deriving DecidableEq, Repr

/-- A frame sent and not yet acknowledged, or an unsequenced one (Table 12.3): its header fields and payload. -/
structure TxFrame where
  type    : Nat
  dst     : Nat
  seq     : Nat
  tag     : BitVec 16
  ten     : Nat
  first   : Bool
  last    : Bool
  reply   : Bool
  retx    : Bool
  param   : Nat
  payload : List Byte
  poison  : List Bool
  send    : Option Nat
  press   : Option (Nat × Nat)
  incarnation : BitVec 32
  ackV    : Bool
  ackno   : Nat
  deriving DecidableEq, Repr

/-- A PARTIAL record on its way into a channel (R240, R307, R329): the cycle in which its first frame arrived, the press engine and channel,
SOURCE, tag and tenancy, whether it holds the channel's next slot, into which its bytes go, bytes and frames so far, whether a word of it is
poisoned, and its length. -/
structure PartialMsg where
  at_    : Nat
  engine : Nat
  chan   : Nat
  source : Nat
  tag    : BitVec 16
  ten    : Nat
  landing : Bool
  got    : Nat
  frames : Nat
  bad    : Bool
  len    : Nat
  deriving DecidableEq, Repr

/-- A message a receiver has opened (R324, R329): the rest of it is dropped; the tenancy and region of a WRITE that has passed its checks; a
PARTIAL whose record is not whole. -/
structure RxMsg where
  drop    : Bool
  write   : Option (Nat × Nat)
  gather  : Option PartialMsg
  deriving DecidableEq, Repr

/-- The pair state with one peer (R303, R312-R319, R334). `heldRx`: a PARTIAL that cannot land or a READ whose REPLY frames are not all
sent; `waitRx`: the pair's later frames, which wait behind it in the receive buffer. -/
structure Peer where
  member   : Bool
  incarn   : BitVec 32
  oldIncarn : Option (BitVec 32)
  quarantined : Bool
  logsat   : Bool
  logsatCk : Option Nat
  violations : Nat
  vStart   : Option Nat
  logged   : List Nat
  nextSeq  : Nat
  expect   : Nat
  unacked  : List TxFrame
  backlog  : List TxFrame
  rto      : Nat
  timerAt  : Option Nat
  tries    : Nat
  lastAck  : Option Nat
  fastDone : Bool
  ackDue   : Option Nat
  ackCount : Nat
  busyAt   : Option Nat
  heldRx   : Option Frame
  waitRx   : List Frame
  moved    : Bool
  lastTx   : Nat
  rx       : RxMsg
  tens     : SMap Bool
  dupAckAt : Option Nat
  deriving DecidableEq, Repr

/-- Member states (Table 12.1). -/
inductive PodState where
  | alone | joining | member | managing
  deriving DecidableEq, Repr

/-- A NET_SEND in progress (R322, R323): descriptor, peer, direction, poisoned words, its status once its transfer is over. -/
structure SendJob where
  id     : Nat
  peer   : Nat
  read   : Bool
  poisoned : Nat
  done   : Option Status
  deriving DecidableEq, Repr

/-- A flag operation or wait sent to the manager and not yet answered (R326): WAITER, flag, who is told, whether it is a wait, CLR; of a
wait whether it tests its flag instead of a kite there (R254), and whether it waits for clear (R252). -/
structure RemoteWait where
  waiter : Nat
  flag   : Nat
  reply  : Reply
  watch  : Bool
  clr    : Bool
  tested : Bool
  onClear : Bool
  deriving DecidableEq, Repr

/-- The network engine and the pod state (R298-R334). `slew`: ticks still to be added or withheld (R331); `rate`, `rateAcc`: the rate
correction in 1/65,536 of a tick for each 1024 cycles, and what it has gathered (R330); `paused`: ports that pause their partner (R307). -/
structure Net where
  pod      : PodState
  incarn   : BitVec 32
  peers    : SMap Peer
  link     : SMap Bool
  linkSince : SMap Nat
  leaving  : Option Nat
  joinSent : Nat
  sends    : List SendJob
  rxOther  : Nat
  rxUnknown : Nat
  rxErr    : Nat
  aligned  : Bool
  lost     : Bool
  offset   : Int
  pathDelay : Int
  slew     : Int
  rate     : Int
  rateAcc  : Nat
  paused   : SMap Bool
  syncT1   : Option (Nat × Nat × Nat)
  lastExch : Nat
  syncAt   : Nat
  remote   : List RemoteWait
  deriving DecidableEq, Repr

/-- A report on its way to the meter unit (R291): tenancy, meter, amount, energy in pJ. -/
structure MeterEv where
  ten    : Nat
  meter  : Nat
  amount : Nat
  pj     : Nat
  deriving DecidableEq, Repr

/-- What the module has given out: read data, messages, replies and frames. -/
inductive Output where
  | readData (ma : Nat) (data : List Byte) (poison : Bool)
  | msix (vector : Nat)
  | hostWrite (addr : Nat) (bytes : List Byte) (poison : List Bool)
  | hostRead (addr : Nat) (len : Nat)
  | frame (port : Nat) (f : TxFrame) (w : Wire)
  | pfc (port priority : Nat) (pause : Bool)
  | reply (status : Status) (body : List Nat)
  | logReply (status : Status) (oldest next : Nat) (older : Bool) (entries : List LogEntry)
  | spdm (body : List Nat)
  | linkDown
  | linkUp
  | decoder (accepted : Bool)
  | alert (asserted : Bool)
  | inBand
  deriving DecidableEq, Repr

/-- The state of the module. -/
structure State where
  pending   : List Instr
  out       : List Output
  free      : Nat
  variant   : Variant
  time      : Nat
  elapsed   : Nat
  ck        : Nat
  nextId    : Nat
  boot      : Boot
  flash     : Flash
  fuses     : Fuses
  mgmt      : Mgmt
  clk       : Clk
  pwr       : Pwr
  thm       : Thm
  log       : CellarLog
  trace     : Trace
  bar       : SMap Word64
  regions   : SMap Region
  retireRows : SMap Word64
  retireBanks : SMap Bool
  ecc       : SMap Ecc
  eccTot    : Ecc
  eccLog    : SMap (Option Nat × Nat)
  ueLog     : SMap (Option Nat)
  unattrRd  : Nat
  unattrWr  : Nat
  dram      : List Host.Cell
  check     : List Host.Cell
  banks     : SMap Bank
  units     : SMap BankUnit
  presses   : SMap Press
  decants   : SMap Decant
  scrubQ    : List Nat
  scrub     : Option ScrubJob
  meterDQ   : List Nat
  netDQ     : List Nat
  syncDQ    : List Nat
  dispDQ    : List Nat
  tens      : SMap Tenancy
  groupOwner : SMap (Option Nat)
  blockOwner : SMap (Option Nat)
  barOwner  : SMap (Option Nat)
  pressOwner : SMap (Option Nat)
  switches  : List Switch
  dispLast  : Nat
  dispCk    : Option Nat
  xlat      : List XEntry
  xlatNext  : SMap (List XEntry × List XEntry)
  fetched   : List Fetched
  fetches   : List Fetch
  active    : List Active
  batches   : List Batch
  hostWrites : List HostWrite
  sync      : Sync
  net       : Net
  meterQ    : List MeterEv
  violation0C : Option Nat
  deriving DecidableEq, Repr

/-! Values of entries that no command has changed. Where the spec gives no reset value the log entry is named. -/

/-- A region entry after reset (Table 18.6). -/
def Region.empty : Region :=
  { valid := false, linear := false, ring := false, xlat := false, owner := 0, gFirst := 0, gCount := 1, base := 0,
    size := 0, fill := 0, oobRd := 0, oobWr := 0 }

/-- A ring after reset (Table 18.7): LOG2 is 6. -/
def Ring.empty : Ring :=
  { enabled := false, log2 := 6, head := 0, tail := 0, held := false, phase := true }

/-- Hold-off state of a vector that has sent nothing. -/
def VecState.empty : VecState := { last := none, held := false }

/-- A tenancy that does not exist (R274). -/
def Tenancy.empty : Tenancy :=
  { enabled := false, xlat := false, rings := [], slots := [], staging := [], held := [], ringLast := 3, eqOverflow := false, cqLost := false,
    cqLostAt := none, vecs := [], swBusy := false, swResult := 0, swKind := 0, swIndex := 0, xBusy := false,
    xError := false, xFound := false, meters := [], energy := 0, sat := 0, satNew := 0, satCk := 0, before := none, snapBusy := false, snapSeq := 0, tm := 0,
    loads := 0, netLost := 0 }

/-- A cask that holds nothing. -/
def Cask.empty : Cask := { words := [], loaded := none, incomplete := false }

/-- A shape register that holds 0. -/
def Shape.zero : Shape := { n0 := 0, s0 := 0, n1 := 0, s1 := 0 }

/-- A register, lane or word that holds a clean 0. -/
def PWord.zero : PWord := { val := 0, poison := false }

/-- An executor of programs with no state (R100). -/
def Proc.empty : Proc :=
  { cask0 := Cask.empty, cask1 := Cask.empty, live := false, pc := 0, regs := [], shapes := [], loops := [], mem := [],
    memPoison := [], task := none, vec := none, nap := none, ended := none, queue := [], load := none }

/-- No instruction under way. -/
def Origin.zero : Origin := { pc := 0, loops := 0, order := 0 }

/-- A unit in OFF (R98, R100). -/
def BankUnit.off : BankUnit :=
  { st := .off, proc := Proc.empty, acc := [], stream := none, spos := 0, wq := [], ranges := [], miss := none, port := none,
    sendFrom := Origin.zero, wakeReq := false, startReq := false, idleSince := 0, runSince := 0, history := [] }

/-- A press channel that is not configured (R240). -/
def Chan.empty : Chan := { configured := false, base := 0, size := 0, count := 0, landed := [], next := 0, drops := 0 }

/-- A press with no state. -/
def Press.empty : Press := { proc := Proc.empty, chans := [], input := [], recv := none, hostPending := 0 }

/-- A decant engine with no work. -/
def Decant.empty : Decant := { queue := [], job := none, ended := none }

/-- A bank with no row open and no refresh owed, which the model takes at reset as the spec gives neither (DESIGN CHOICE, log entry 123). -/
def Bank.closed : Bank := { openRow := none, owed := 0, hostQ := [], refFrom := 0, refBand := 0 }

/-- Decoder counts of 0. -/
def Ecc.zero : Ecc := { ce := 0, ue := 0, pr := 0 }

/-- An uninitialised barrier (R260). -/
def Barrier.empty : Barrier :=
  { st := .uninit, cause := 0, vintage := false, flag := 0, ten := 0, limit := 0, tag := 0, parts := [], members := 0,
    arrived := [], early := [], stackUp := [], mdCount := [], podSent := false, podCount := 0, releases := 0,
    firstArr := none, firstTime := none, down := [] }

/-- A flag that nothing has changed. -/
def LastOp.none : LastOp := { who := { kind := 0, id := 0 }, op := 0, tag := 0, time := 0 }

/-- The synchronisation state after reset. -/
def Sync.empty : Sync :=
  { flags := [], last := [], watches := [], kites := [], barriers := [], msgs := [], arrivals := [], dbgPend := Option.none,
    dbgView := Option.none }

/-- A power domain in OFF (R469). -/
def Domain.off : Domain := { st := .off, reEnable := false, since := 0, asked := false }

/-- The power state after reset (Table 18.3). Samples: log entry 9. -/
def Pwr.reset : Pwr :=
  { req := [], dom := [], kCap := 16, capFloor := false, capFloorCk := Option.none, samples := [], volts := 0, belowFor := 0,
    floorFor := 0, phase := 0, window := 0, usedMod := 0, used := [], grantCk := 0, grantMod := 0, grantStk := [], queues := [],
    lastStk := 7, nextDom := 0 }

/-- A stack in band 0 at full level (Table 18.4). -/
def ThmStack.cool : ThmStack :=
  { band := 0, tband := 0, kThr := 16, pending := Option.none, enforceAt := 0, since82 := Option.none,
    since92 := Option.none, since102 := Option.none, since107 := Option.none, halted := false, unseen := false }

/-- The thermal state after reset: readings of 25 degrees (log entry 10). -/
def Thm.reset : Thm := { reading := [], failed := [], diffs := [], stk := [], shutdown := false }

/-- The clock block after reset (log entry 9). -/
def Clk.reset : Clk :=
  { locked := false, coast := false, refGood := false, relock := false, openLanes := [], closures := [], startCoast := false }

/-- Start-up at step 1 of Table 16.1 with PERST# asserted (log entry 7). -/
def Boot.reset : Boot :=
  { phase := .sequence, step := 1, memActive := false, awaitGo := false, cause := 0, stack := 0, buid := 0, fallback := false,
    slotB := false, perst := true, linkUp := false, notReady := false, blocked := false, keyReady := false,
    secretLocked := false, resetDue := true, initDone := false, deadStack := none }

/-- A copy of the boot directory that prefers slot A (log entry 8). -/
def DirCopy.blank : DirCopy := { preferredB := false, trial := false, attempted := false, valid := true, serial := 0 }

/-- The flash of a module whose contents the spec does not state (log entry 8). -/
def Flash.blank : Flash :=
  { dir0 := DirCopy.blank, dir1 := DirCopy.blank, provision := { hold := false, fields := [] },
    slotA := { header := [], body := [] }, slotB := { header := [], body := [] }, postponed := Option.none }

/-- The fuses of a module whose contents the spec does not state (log entry 8). -/
def Fuses.blank : Fuses := { keyHash := List.replicate 64 0, svn := 0, revoked := 0, secret := [] }

/-- The management path after reset (R459): SMBus mode, the static address of the strap level 0 (log entry 7). -/
def Mgmt.reset : Mgmt :=
  { i3c := false, strap := 0, address := 0x50, romSecret := Option.none, event := false, alertShut := false, restarting := Option.none, hold := false,
    meas4 := List.replicate 66 0, prov := Option.none, meas6 := List.replicate 64 0 }

/-- The cellar log at power-on (R425, R428). OVERWRITTEN and LOST: log entry 11. -/
def CellarLog.empty : CellarLog := { entries := [], next := 0, count := 0, overwr := 0, lost := 0, queued := 0, queuedCk := 0 }

/-- The trace buffer after reset (R438, Table 18.5). -/
def Trace.empty : Trace :=
  { recs := [], running := false, post := Option.none, lost := 0, epoch := 0, lastCk := 0, inCk := 0, dropped := false }

/-- No message open. -/
def RxMsg.idle : RxMsg := { drop := false, write := Option.none, gather := Option.none }

/-- A peer of which nothing is known. -/
def Peer.unknown : Peer :=
  { member := false, incarn := 0, oldIncarn := Option.none, quarantined := false, logsat := false, logsatCk := Option.none, violations := 0, vStart := Option.none, logged := [],
    nextSeq := 0, expect := 0, unacked := [], backlog := [], rto := 0, timerAt := Option.none, tries := 0, lastAck := Option.none,
    fastDone := false, ackDue := Option.none, ackCount := 0, busyAt := Option.none, heldRx := Option.none, waitRx := [], moved := false,
    lastTx := 0, rx := RxMsg.idle, tens := [], dupAckAt := Option.none }

/-- The network engine after reset: ALONE (R301). -/
def Net.reset : Net :=
  { pod := .alone, incarn := 0, peers := [], link := [], linkSince := [], leaving := Option.none, joinSent := 0, sends := [],
    rxOther := 0, rxUnknown := 0, rxErr := 0, aligned := false, lost := false, offset := 0, pathDelay := 0, slew := 0, rate := 0, rateAcc := 0, paused := [], syncT1 := Option.none,
    lastExch := 0, syncAt := 0, remote := [] }

/-- The network engine after a reset, with a drawn incarnation (R301). -/
def Net.drawn (k : Nat) : Net := { Net.reset with incarn := Config.incarnation k }

/-- The module right after reset: power good, step 1 of Table 16.1 in progress, nothing stored. -/
def State.reset : State :=
  { pending := [], out := [], free := 1, variant := .rl512N, time := 0, elapsed := 0, ck := 0, nextId := 0,
    boot := Boot.reset, flash := Flash.blank, fuses := Fuses.blank, mgmt := Mgmt.reset, clk := Clk.reset, pwr := Pwr.reset,
    thm := Thm.reset, log := CellarLog.empty, trace := Trace.empty, bar := [], regions := [], retireRows := [],
    retireBanks := [], ecc := [], eccTot := Ecc.zero, eccLog := [], ueLog := [], unattrRd := 0, unattrWr := 0, dram := [],
    check := [], banks := [], units := [], presses := [], decants := [], scrubQ := [], scrub := Option.none, meterDQ := [],
    netDQ := [], syncDQ := [], dispDQ := [], tens := [], groupOwner := [], blockOwner := [], barOwner := [], pressOwner := [],
    switches := [], dispLast := 255, dispCk := Option.none, xlat := [], xlatNext := [], fetched := [], fetches := [], active := [], batches := [],
    hostWrites := [], sync := Sync.empty, net := Net.drawn 0, meterQ := [], violation0C := Option.none }

/-- Reasons the module stops with a fault. -/
inductive Fault where
  /-- Raised by HOST_READ and HOST_WRITE at an address outside the module's HDM range (R21): the host's decoder sends no such
  access to the module. Safe: the module of the spec never sees the access. -/
  | outsideHdmRange
  deriving DecidableEq, Repr

/-- Reasons a command has no meaning in the model. -/
inductive Refusal where
  /-- Raised by an arm of exec whose command has no meaning yet. Safe: the model stops. -/
  | notModelled (mnemonic : String)
  deriving DecidableEq, Repr

end Sys2Proof.Machine
end

