-- ==== Sys2Proof/Machine/Store.lean ====
section
/-! DEFINITION. Sparse tables: the one read and the one write of every map, memory and register file of the state. -/

namespace Sys2Proof.Machine

/-- The value at a key: the listed one, else the default. -/
def mget {α : Type} (d : α) (m : SMap α) (k : Nat) : α :=
  match m with
  | [] => d
  | (k', v) :: t => if k' = k then v else mget d t k

/-- A new entry placed before the first larger key. -/
def minsert {α : Type} (m : SMap α) (k : Nat) (v : α) : SMap α :=
  match m with
  | [] => [(k, v)]
  | (k', v') :: t => if k < k' then (k, v) :: (k', v') :: t else (k', v') :: minsert t k v

/-- The entries of every other key. -/
def mdrop {α : Type} (m : SMap α) (k : Nat) : SMap α := m.filter (fun e => e.1 != k)

/-- The table with a key set: the entry is listed exactly when it differs from the default. -/
def mset {α : Type} [DecidableEq α] (d : α) (m : SMap α) (k : Nat) (v : α) : SMap α :=
  if v = d then mdrop m k else minsert (mdrop m k) k v

/-- The table with a function applied at a key. -/
def mupd {α : Type} [DecidableEq α] (d : α) (m : SMap α) (k : Nat) (f : α → α) : SMap α := mset d m k (f (mget d m k))

/-- A list of values set at consecutive keys. -/
def msetAll {α : Type} [DecidableEq α] (d : α) (m : SMap α) (k : Nat) (vs : List α) : SMap α :=
  match vs with
  | [] => m
  | v :: t => msetAll d (mset d m k v) (k + 1) t

/-- The values of n consecutive keys. -/
def mgetAll {α : Type} (d : α) (m : SMap α) (k n : Nat) : List α := (List.range n).map (fun i => mget d m (k + i))

/-- Keys strictly rising and no entry equal to the default: the canonical form. -/
def mwf {α : Type} [DecidableEq α] (d : α) (m : SMap α) : Bool :=
  match m with
  | [] => true
  | (k, v) :: t => decide (v ≠ d) && t.all (fun e => decide (k < e.1)) && mwf d t

/-- The canonical form of a byte memory: addresses strictly rising, no zero byte listed. -/
def Memory.wf (m : List Host.Cell) : Bool := mwf 0 m

/-- Bytes of a number, least significant first. -/
def leBytes (n v : Nat) : List Byte :=
  match n with
  | 0 => []
  | k + 1 => BitVec.ofNat 8 v :: leBytes k (v / 256)

/-- The number that bytes spell, least significant first. -/
def leNat (bs : List Byte) : Nat :=
  match bs with
  | [] => 0
  | b :: t => b.toNat + 256 * leNat t

/-- A list cut into pieces of n. -/
def chunks {α : Type} (fuel n : Nat) (l : List α) : List (List α) :=
  match fuel with
  | 0 => []
  | f + 1 => if l.isEmpty then [] else l.take n :: chunks f n (l.drop n)

/-- The low n bits of a number as a signed number. -/
def signed (n v : Nat) : Int := if v % 2 ^ n < 2 ^ (n - 1) then (v % 2 ^ n : Nat) else (v % 2 ^ n : Nat) - (2 ^ n : Nat)

/-- A field of n bits at lo replaced in a 64-bit value. -/
def putBits (v : Word64) (lo n x : Nat) : Word64 :=
  BitVec.ofNat 64 (v.toNat - bits v lo n * 2 ^ lo + (x % 2 ^ n) * 2 ^ lo)

/-- Bytes i to i + n - 1 of a descriptor as a number (R49). -/
def dfield (d : Descriptor) (i n : Nat) : Nat := bits d (8 * i) (8 * n)

end Sys2Proof.Machine
end

