-- ==== Sys2Proof/Machine/Ops.lean ====
section
/-! DEFINITION. The shared operations over the state: its parts by number, stored registers, time, outputs, free values, the cellar log and
the trace. -/

namespace Sys2Proof.Machine

/-! Parts of the state by number. -/

/-- Bank unit b. -/
def unitOf (s : State) (b : Nat) : BankUnit := mget BankUnit.off s.units b
/-- The state with unit b set. -/
def setUnit (s : State) (b : Nat) (u : BankUnit) : State := { s with units := mset BankUnit.off s.units b u }
/-- The state with a function applied to unit b. -/
def modUnit (s : State) (b : Nat) (f : BankUnit → BankUnit) : State := setUnit s b (f (unitOf s b))
/-- Press e: engines 0-7, stack presses 8-15. -/
def pressOf (s : State) (e : Nat) : Press := mget Press.empty s.presses e
/-- The state with press e set. -/
def setPress (s : State) (e : Nat) (p : Press) : State := { s with presses := mset Press.empty s.presses e p }
/-- The state with a function applied to press e. -/
def modPress (s : State) (e : Nat) (f : Press → Press) : State := setPress s e (f (pressOf s e))
/-- Decant engine e. -/
def decantOf (s : State) (e : Nat) : Decant := mget Decant.empty s.decants e
/-- The state with decant engine e set. -/
def setDecant (s : State) (e : Nat) (d : Decant) : State := { s with decants := mset Decant.empty s.decants e d }
/-- Tenancy t. -/
def tenOf (s : State) (t : Nat) : Tenancy := mget Tenancy.empty s.tens t
/-- The state with tenancy t set. -/
def setTen (s : State) (t : Nat) (x : Tenancy) : State := { s with tens := mset Tenancy.empty s.tens t x }
/-- The state with a function applied to tenancy t. -/
def modTen (s : State) (t : Nat) (f : Tenancy → Tenancy) : State := setTen s t (f (tenOf s t))
/-- Ring slot j of tenancy t: 0-3 submission, 4 completion, 5 event. -/
def ringOf (s : State) (t j : Nat) : Ring := mget Ring.empty (tenOf s t).rings j
/-- The state with a ring set. -/
def setRing (s : State) (t j : Nat) (r : Ring) : State := modTen s t (fun x => { x with rings := mset Ring.empty x.rings j r })
/-- Column controller of bank b. -/
def bankOf (s : State) (b : Nat) : Bank := mget Bank.closed s.banks b
/-- The state with a column controller set. -/
def setBank (s : State) (b : Nat) (k : Bank) : State := { s with banks := mset Bank.closed s.banks b k }
/-- Region entry n. -/
def regionOf (s : State) (n : Nat) : Region := mget Region.empty s.regions n
/-- The state with a region entry set. -/
def setRegion (s : State) (n : Nat) (r : Region) : State := { s with regions := mset Region.empty s.regions n r }
/-- Peer m. -/
def peerOf (s : State) (m : Nat) : Peer := mget Peer.unknown s.net.peers m
/-- The state with a peer set. -/
def setPeer (s : State) (m : Nat) (p : Peer) : State :=
  { s with net := { s.net with peers := mset Peer.unknown s.net.peers m p } }
/-- The state with a function applied to peer m. -/
def modPeer (s : State) (m : Nat) (f : Peer → Peer) : State := setPeer s m (f (peerOf s m))
/-- Power domain d (R367). -/
def domOf (s : State) (d : Nat) : Domain := mget Domain.off s.pwr.dom d
/-- The state with a power domain set. -/
def setDom (s : State) (d : Nat) (x : Domain) : State := { s with pwr := { s.pwr with dom := mset Domain.off s.pwr.dom d x } }
/-- The thermal record of stack k; 8 is the M-die. -/
def thmOf (s : State) (k : Nat) : ThmStack := mget ThmStack.cool s.thm.stk k
/-- The state with a thermal record set. -/
def setThm (s : State) (k : Nat) (x : ThmStack) : State := { s with thm := { s.thm with stk := mset ThmStack.cool s.thm.stk k x } }
/-- Barrier n. -/
def barOf (s : State) (n : Nat) : Barrier := mget Barrier.empty s.sync.barriers n
/-- The state with a barrier set. -/
def setBar (s : State) (n : Nat) (x : Barrier) : State :=
  { s with sync := { s.sync with barriers := mset Barrier.empty s.sync.barriers n x } }
/-- Flag f. -/
def flagOf (s : State) (f : Nat) : Bool := mget false s.sync.flags f
/-- Kite k: none = free. -/
def kiteOf (s : State) (k : Nat) : Option Kite := mget none s.sync.kites k
/-- The state with a kite set. -/
def setKite (s : State) (k : Nat) (x : Option Kite) : State :=
  { s with sync := { s.sync with kites := mset none s.sync.kites k x } }
/-- The processor part of a unit or a press. -/
def procOf (s : State) (x : CoreId) : Proc :=
  match x with
  | .unit b => (unitOf s b.toNat).proc
  | .press e => (pressOf s e.toNat).proc
/-- The state with the processor part of a unit or a press set. -/
def setProc (s : State) (x : CoreId) (p : Proc) : State :=
  match x with
  | .unit b => modUnit s b.toNat (fun u => { u with proc := p })
  | .press e => modPress s e.toNat (fun u => { u with proc := p })
/-- The state with a function applied to the processor part of a unit or a press. -/
def modProc (s : State) (x : CoreId) (f : Proc → Proc) : State := setProc s x (f (procOf s x))

/-- The group of a bank (R29). -/
def groupOf (b : Nat) : Nat := b / 16
/-- The stack of a bank (Table 2.3). -/
def stackOf (b : Nat) : Nat := b / 512
/-- A bank as its 12-bit number. -/
def buid (b : Nat) : BitVec 12 := BitVec.ofNat 12 b
/-- A press as its 4-bit number. -/
def eng (e : Nat) : BitVec 4 := BitVec.ofNat 4 e

/-- The bank of an admission request. -/
def Admit.bank : Admit → Nat
  | .taskStart b => b | .wake b => b | .nap b => b | .poll b => b | .ramp g _ => 16 * g

/-! Registers that hold what software wrote. -/

/-- Offset of tenancy t's block plus o (Table 2.8). -/
def tenReg (t o : Nat) : Nat := 0x400000 + t * 0x4000 + o

/-- The reset value of a stored register (Tables 18.2-18.9). -/
def barReset (off : Nat) : Word64 :=
  if 0x400000 ≤ off ∧ off < 0x800000 then
    match off % 0x4000 with
    | 0x0008 => 100000
    | 0x0010 => 64
    | 0x0018 => 1024
    | 0x0028 => 0x688
    | 0x0030 => 4
    | 0x0038 => 5
    | 0x0408 => 0x10000000000
    | 0x0888 => 0xFFFF
    | _ => 0
  else
    match off with
    | 0x20008 => 450
    | 0x20010 => 1024
    | 0x20018 => 10000
    | 0x30028 => 2000
    | 0x100000 => 16
    | 0xC00038 => 50
    | 0xC00040 => 3200
    | 0xC00048 => 1000
    | 0xC00050 => 1000
    | _ => 0

/-- The stored value of a register. -/
def reg (s : State) (off : Nat) : Word64 := mget (barReset off) s.bar off
/-- The state with a stored register set. -/
def setReg (s : State) (off : Nat) (v : Word64) : State := { s with bar := mset (barReset off) s.bar off v }

/-- LINEAR_SPLIT in bytes (R25). -/
def split (s : State) : Nat := 2 ^ 22 * bits (reg s 0x100000) 0 6
/-- PWR_CAP_W. -/
def capW (s : State) : Nat := bits (reg s 0x20008) 0 10
/-- PWR_BU_IDLE_GATE in ck cycles. -/
def idleGate (s : State) : Nat := bits (reg s 0x20010) 0 16
/-- PWR_DRAIN_LIMIT in ticks. -/
def drainLimit (s : State) : Nat := Config.us * bits (reg s 0x20018) 0 20
/-- THM_GRACE in ticks. -/
def grace (s : State) : Nat := Config.us * bits (reg s 0x30028) 0 14
/-- TEN_WAIT_LIMIT in ticks (R56). -/
def waitLimit (s : State) (t : Nat) : Nat := Config.us * bits (reg s (tenReg t 8)) 0 24
/-- TEN_KITE_QUOTA. -/
def kiteQuota (s : State) (t : Nat) : Nat := bits (reg s (tenReg t 0x10)) 0 13
/-- TEN_XLAT_QUOTA. -/
def xlatQuota (s : State) (t : Nat) : Nat := bits (reg s (tenReg t 0x18)) 0 17
/-- TEN_IRQ_HOLDOFF in nanoseconds (R90). -/
def irqHoldoff (s : State) (t : Nat) : Nat := bits (reg s (tenReg t 0x20)) 0 16
/-- The base of ring slot j (R48). -/
def ringBase (s : State) (t j : Nat) : Nat := 4096 * bits (reg s (tenReg t (0x100 + 0x20 * j))) 12 52
/-- TEN_RINGj_START. -/
def ringStart (s : State) (t j : Nat) : BitVec 16 := BitVec.ofNat 16 (bits (reg s (tenReg t (0x110 + 0x20 * j))) 0 16)
/-- TEN_METER_FLAG. -/
def meterFlag (s : State) (t : Nat) : Nat := bits (reg s (tenReg t 0x888)) 0 16
/-- TEN_SNAP_ADDR. -/
def snapAddr (s : State) (t : Nat) : Nat := bits (reg s (tenReg t 0x898)) 6 58 * 64
/-- The HOME of a flag block (Table 10.1): 0 the M-die, 1 to 8 the B-die of stack HOME - 1, 9 the pod manager. -/
def blockHome (s : State) (blk : Nat) : Nat := bits (reg s (0x800000 + 8 * blk)) 0 4

/-! Time (R361). -/

/-- The clocks run from the end of step 2 of Table 16.1 while power is good. -/
def clockRuns (s : State) : Bool := decide (s.boot.phase ≠ .off) && decide (3 ≤ s.boot.step)

/-- Ticks of one ck cycle: 1 while locked, 4 while coasting. -/
def ckTicks (s : State) : Nat := if s.clk.coast then 4 else 1

/-- The ticks that a slewing worker adds to or withholds from its time in the next c ck cycles: at most one in each 1024 (R331). -/
def slewTicks (s : State) (c : Nat) : Nat := min s.net.slew.natAbs ((s.ck % 1024 + c) / 1024)

/-- What the rate correction gathers in the next c ck cycles: in each 1024 of them that the slew leaves free at most one tick (R330, R331,
log entry 42). -/
def rateGain (s : State) (c : Nat) : Nat :=
  s.net.rateAcc + ((s.ck % 1024 + c) / 1024 - slewTicks s c) * min 65536 s.net.rate.natAbs

/-- A number of ticks with the sign of a correction. -/
def withSignOf (v : Int) (n : Nat) : Int := if 0 ≤ v then n else -(n : Int)

/-- The ticks that module time and elapsed time advance by in the next c ck cycles (R330, R331, R361). -/
def ticksIn (s : State) (c : Nat) : Nat :=
  ((c * ckTicks s : Nat) + withSignOf s.net.slew (slewTicks s c) + withSignOf s.net.rate (rateGain s c / 65536) : Int).toNat

/-- Time passes: c ck cycles. Module time and elapsed time advance alike; steps alone part them (R361). -/
def advance (s : State) (c : Nat) : State :=
  if clockRuns s then
    let n := ticksIn s c
    { s with
      time := s.time + n
      elapsed := s.elapsed + n
      ck := s.ck + c
      net := { s.net with slew := s.net.slew - withSignOf s.net.slew (slewTicks s c), rateAcc := rateGain s c % 65536 } }
  else s

/-- The largest number below 2^n more than c whose ticks still fall short of d, found bit by bit. -/
def searchCycles (s : State) (d : Nat) : Nat → Nat → Nat
  | 0, c => c
  | n + 1, c => searchCycles s d n (if ticksIn s (c + 2 ^ n) < d then c + 2 ^ n else c)

/-- The least number of ck cycles in which d ticks pass. -/
def cyclesFor (s : State) (d : Nat) : Nat :=
  if s.net.slew = 0 ∧ s.net.rate = 0 then (d + ckTicks s - 1) / ckTicks s
  else if d = 0 then 0
  else searchCycles s d (Nat.log2 d + 3) 0 + 1

/-- Time passes until the first ck cycle at or after the elapsed time of a due event, if that lies ahead (log entry 3). -/
def advanceTo (s : State) (due : Nat) : State := advance s (cyclesFor s (due - s.elapsed))

/-- Time passes until elapsed time is the next multiple of n ticks (log entry 3). -/
def nextMultiple (s : State) (n : Nat) : State := advanceTo s (s.elapsed + (n - s.elapsed % n))

/-- One ck cycle passes (log entry 4). -/
def tick (s : State) : State := advance s 1

/-- Time passes until the ck cycle in which a watchdog expires is over: what completes or is satisfied in that cycle comes before the expiry
(R174, R434, log entry 110). -/
def pastDue (s : State) (due : Nat) : State := if due < s.elapsed then s else tick (advanceTo s due)

/-- What the host sends over its link has an effect only while the link is up. -/
def viaHost (s t : State) : State := if s.boot.linkUp then t else s

/-! Outputs and free values. -/

/-- The state with an output given out. -/
def emit (s : State) (o : Output) : State := { s with out := o :: s.out }

/-- The next draw number and the state that has used it (log entry 5). -/
def draw (s : State) : Nat × State := (s.free, { s with free := s.free + 1 })

/-- A new identifier and the state that has used it. -/
def newId (s : State) : Nat × State := (s.nextId, { s with nextId := s.nextId + 1 })

/-! Status codes and sources. -/

/-- The code of a status (Table 17.1). -/
def Status.code : Status → Nat
  | .ok => 0x00 | .badOpcode => 0x01 | .badField => 0x02 | .range => 0x03 | .overlap => 0x04 | .padConflict => 0x05
  | .caskBusy => 0x06 | .notOwner => 0x07 | .translationFault => 0x08 | .dataUncorrectable => 0x09 | .fetchPoison => 0x0A
  | .barrierOverrun => 0x0B | .watchdog => 0x0C | .buFault => 0x0D | .aborted => 0x0E | .peerUnreachable => 0x0F
  | .cancelledBySwitch => 0x10 | .retired => 0x11 | .tempWindow => 0x12 | .thermalHalt => 0x13 | .loopDepth => 0x14
  | .ringIndexInvalid => 0x15

/-- A SOURCE field: kind in [15:12], identifier in [11:0] (R420). -/
def srcNum (kind id : Nat) : Nat := 4096 * kind + id % 4096

/-- The identifier of a descriptor source: ring id or slot in [3:0], slot in [4] (Table 17.2). -/
def srcId : Sys2Proof.Source → Nat
  | .ring k => k.toNat
  | .slot k => 16 + k.toNat

/-- The source kind and identifier of a unit or press (Table 17.2). -/
def coreSrc (x : CoreId) : Nat :=
  match x with
  | .unit b => srcNum 1 b.toNat
  | .press e => srcNum (if e.toNat < 8 then 3 else 4) e.toNat

/-! The cellar log. -/

/-- Exactly n bytes: cut or filled with zeros. -/
def padTo (n : Nat) (l : List Byte) : List Byte := (l ++ List.replicate n 0).take n

/-- The log with one more entry (R424). -/
def CellarLog.push (l : CellarLog) (time source cls num : Nat) (tag : Option (BitVec 16)) (ten : Option Nat) (level : Nat)
    (detail : List Byte) : CellarLog :=
  let e : LogEntry := { time := time, seq := l.next, source := source, cls := cls, num := num, tag := tag, ten := ten,
                        level := level, detail := padTo 12 detail }
  { l with
    entries := mset none l.entries (l.next % 65536) (some e),
    next := (l.next + 1) % 2 ^ 32,
    count := min 65536 (l.count + 1),
    overwr := if l.count = 65536 then satAdd (2 ^ 64 - 1) l.overwr 1 else l.overwr }

/-- Entries in the collecting queue, or held before it, in a cycle: one leaves it in each cycle (R427). -/
def CellarLog.waiting (l : CellarLog) (ck : Nat) : Nat := if ck < l.queuedCk then 0 else l.queued - (ck - l.queuedCk)

/-- Whether an entry of a class is written: one of class 0x01 or 0x02 is not while the collecting queue is full (R427). -/
def CellarLog.takes (l : CellarLog) (ck cls : Nat) : Bool := !(cls == 1 || cls == 2) || decide (l.waiting ck < 256)

/-- The entry of an event of a module time enters the cellar log, or is lost before a full collecting queue (R422, R426, R427). -/
def logAddAt (s : State) (time level source cls num : Nat) (tag : Option (BitVec 16)) (ten : Option Nat) (detail : List Byte) : State :=
  { s with log :=
      if s.log.takes s.ck cls then
        { s.log.push time source cls num tag ten level detail with queued := s.log.waiting s.ck + 1, queuedCk := s.ck }
      else { s.log with lost := satAdd (2 ^ 64 - 1) s.log.lost 1 } }

/-- The entry of an event of this moment enters the cellar log. -/
def logAdd (s : State) (level source cls num : Nat) (tag : Option (BitVec 16)) (ten : Option Nat) (detail : List Byte) : State :=
  logAddAt s s.time level source cls num tag ten detail

/-- A class 0x03 entry: a setup write dropped or noted, with its offset and value (Table 17.6). -/
def logSetup (s : State) (level num off : Nat) (ten : Option Nat) (value : Nat) : State :=
  logAdd s level (srcNum 0xB (off / 65536)) 0x03 num none ten (leBytes 4 off ++ leBytes 8 value)

/-- The severity byte of an entry (Table 17.5). -/
def LogEntry.severity (e : LogEntry) : Nat := e.level + 8 * b2n e.ten.isSome + 16 * b2n e.tag.isSome

/-- The 32 bytes of an entry (Table 17.5). -/
def LogEntry.bytes (e : LogEntry) : List Byte :=
  leBytes 8 e.time ++ leBytes 4 e.seq ++ leBytes 2 e.source ++ leBytes 2 (e.cls * 256 + e.num)
    ++ leBytes 2 ((e.tag.getD 0).toNat) ++ leBytes 1 (e.ten.getD 0) ++ leBytes 1 e.severity ++ padTo 12 e.detail

/-! The trace buffer (R437, R438). -/

/-- Whether an event passes LOG_TRACE_CTRL.EVENTS and LOG_TRACE_FILTER. -/
def tracePasses (s : State) (event ten : Nat) (tag : BitVec 16) : Bool :=
  let ctrl := reg s 0x40100
  let filt := reg s 0x40108
  bit ctrl (16 + event - 1) &&
    (!bit filt (48 + event - 1) ||
      ((!bit filt 8 || bits filt 0 8 == ten) && (bits filt 16 16 &&& bits filt 32 16) == (tag.toNat &&& bits filt 32 16)))

/-- Whether the trigger matches an event, its status and its tag. -/
def traceTriggers (s : State) (event status : Nat) (tag : BitVec 16) : Bool :=
  let trg := reg s 0x40110
  bits trg 0 7 != 0 && bits trg 0 7 == event && (!bit trg 7 || bits trg 8 8 == status) &&
    (!bit trg 16 || bits trg 32 16 == tag.toNat)

/-- A captured record enters the buffer: at most two in a ck cycle, the oldest overwritten in wrap mode; capture ends when the
trigger's count runs out, or when the buffer is full in stop mode. -/
def tracePush (s : State) (r : TraceRec) (trig : Bool) : State :=
  let t := s.trace
  let inCk := if t.lastCk = s.ck then t.inCk else 0
  if 2 ≤ inCk then
    { s with trace := { t with lost := satAdd (2 ^ 64 - 1) t.lost 1, dropped := true } }
  else
    let recs := t.recs ++ [{ r with lost := t.dropped }]
    let recs := if 16384 < recs.length then recs.drop (recs.length - 16384) else recs
    let post := match t.post with
      | some n => some (n - 1)
      | none => if trig then some (bits (reg s 0x40118) 0 14) else none
    let stop := post == some 0 || (bit (reg s 0x40100) 1 && recs.length == 16384)
    { s with trace := { t with recs := recs, running := !stop, post := if stop then none else post, lastCk := s.ck,
                               inCk := inCk + 1, dropped := false, epoch := s.time / 2 ^ 48 % 2 ^ 16 } }

/-- A trace event: captured if capture runs and the event is selected and passes the filter. -/
def traceEv (s : State) (event ten source : Nat) (tag : BitVec 16) (data : Nat) (status : Nat) : State :=
  if s.trace.running && tracePasses s event ten tag then
    tracePush s { time := s.time % 2 ^ 48, event := event, ten := ten, source := source, tag := tag,
                  data := BitVec.ofNat 32 data, lost := false } (traceTriggers s event status tag)
  else s

/-! Meters. -/

/-- An event's report on its way to the meter unit (R291). -/
def meter (s : State) (ten m amount pj : Nat) : State :=
  { s with meterQ := s.meterQ ++ [{ ten := ten, meter := m, amount := amount, pj := pj }] }

end Sys2Proof.Machine
end

