-- ==== Sys2Proof/Machine/Cores.lean ====
section
/-! DEFINITION. What units and presses share: registers, the program counter, the live cask, ballast requests and time in RUNNING. -/

namespace Sys2Proof.Machine

/-- The live cask. -/
def Proc.cask (p : Proc) (c : Bool) : Cask := if c then p.cask1 else p.cask0
/-- The processor with a cask set. -/
def Proc.setCask (p : Proc) (c : Bool) (k : Cask) : Proc := if c then { p with cask1 := k } else { p with cask0 := k }

/-- A scalar register: number 0 reads as a clean zero (R134). -/
def rget (p : Proc) (i : Nat) : PWord := if i = 0 then PWord.zero else mget PWord.zero p.regs i
/-- The processor with a scalar register written: writes to number 0 are discarded (R134). -/
def rset (p : Proc) (i : Nat) (v : PWord) : Proc := if i = 0 then p else { p with regs := mset PWord.zero p.regs i v }
/-- The processor at the next instruction. -/
def pnext (p : Proc) : Proc := { p with pc := p.pc + 1 }

/-- The tenancy that a core's work runs for: the owner of the unit's group or of the press. -/
def coreOwner (s : State) (x : CoreId) : Option Nat :=
  match x with
  | .unit b => mget none s.groupOwner (groupOf b.toNat)
  | .press e => mget none s.pressOwner e.toNat

/-- The tenancy of a core's running task, else its owner. -/
def coreTen (s : State) (x : CoreId) : Nat :=
  match (procOf s x).task with
  | some t => t.ten
  | none => (coreOwner s x).getD 0

/-- The tag of a core's running task. -/
def coreTag (s : State) (x : CoreId) : BitVec 16 :=
  match (procOf s x).task with
  | some t => t.tag
  | none => 0

/-- The descriptor whose task a core runs. -/
def taskId (s : State) (x : CoreId) : Option Nat := (procOf s x).task.map (·.id)

/-- A core as the source of a flag operation (Table 10.8). -/
def coreWho (x : CoreId) : Who :=
  match x with
  | .unit b => { kind := 1, id := b.toNat }
  | .press e => { kind := if e.toNat < 8 then 3 else 4, id := e.toNat }

/-- The stack a core lies in: none for a press engine. -/
def coreStack (x : CoreId) : Option Nat :=
  match x with
  | .unit b => some (stackOf b.toNat)
  | .press e => if e.toNat < 8 then none else some (e.toNat - 8)

/-! Ballast (R373-R375, R378). -/

/-- The level k_s of a stack (R378). -/
def stackLevel (s : State) (k : Nat) : Nat := min s.pwr.kCap (thmOf s k).kThr

/-- Whether a request that arrives in a cycle goes ahead of one in the queue: of one cycle the lower BUID first, but not ahead of a ramp
that has credits already (R371, R374). -/
def Admit.precedes (a : Admit) (ck : Nat) (q : Nat × Admit) : Bool :=
  q.1 == ck && decide (a.bank < q.2.bank) && (match q.2 with
    | .ramp _ n => n == 16
    | _ => true)

/-- A request placed in a queue behind those that it does not precede. -/
def placeAsk (l : List (Nat × Admit)) (ck : Nat) (a : Admit) : List (Nat × Admit) :=
  match l with
  | [] => [(ck, a)]
  | q :: t => if a.precedes ck q then (ck, a) :: q :: t else q :: placeAsk t ck a

/-- A request placed in its stack's queue (R374). -/
def ballastAsk (s : State) (a : Admit) : State :=
  let k := stackOf a.bank
  { s with pwr := { s.pwr with queues := mupd [] s.pwr.queues k (fun q => placeAsk q s.ck a) } }

/-- Whether a request waits in its stack's queue. -/
def ballastWaits (s : State) (a : Admit) : Bool := (mget [] s.pwr.queues (stackOf a.bank)).any (fun q => q.2 == a)

/-- A unit's requests withdrawn. -/
def ballastDrop (s : State) (b : Nat) : State :=
  { s with pwr := { s.pwr with queues := mupd [] s.pwr.queues (stackOf b) (fun q => q.filter (fun a =>
      match a.2 with
      | .ramp _ _ => true
      | a => a.bank != b)) } }

/-- ck cycles from cycle a to cycle c that fall in the run of phase ph, of 64 × k cycles in each 1024 (R375). -/
def runCycles (a c k ph : Nat) : Nat :=
  if 16 ≤ k then c - a
  else
    let upTo (n : Nat) := n / 1024 * (64 * k) + min (n % 1024) (64 * k)
    upTo (c + 1024 - ph) - upTo (a + 1024 - ph)

/-- Whether a unit issues in this cycle: at full level, or inside its run (R375). -/
def unitRuns (s : State) (b : Nat) : Bool :=
  let k := stackLevel s (stackOf b)
  decide (16 ≤ k) || decide ((s.ck + 1024 - 64 * (b % 16)) % 1024 < 64 * k)

/-- Whether a press engine or decant engine works in this cycle (R375). -/
def engineRuns (s : State) (e : Nat) : Bool :=
  decide (16 ≤ s.pwr.kCap) || decide ((s.ck + 1024 - 64 * (e % 16)) % 1024 < 64 * s.pwr.kCap)

/-- A unit's cycles in RUNNING since they were last reported go to its owner's meter (R131, Table 11.7). -/
def settleRun (s : State) (b : Nat) : State :=
  let u := unitOf s b
  if u.st = .running then
    let n := runCycles u.runSince s.ck (stackLevel s (stackOf b)) (64 * (b % 16))
    let s := setUnit s b { u with runSince := s.ck }
    match mget none s.groupOwner (groupOf b) with
    | some t => if n = 0 then s else meter s t 0 n (16 * n)
    | none => s
  else s

/-- A unit enters a state; its time in RUNNING is reported as it leaves it. -/
def enterState (s : State) (b : Nat) (st : UnitState) : State :=
  let s := settleRun s b
  modUnit s b (fun u => { u with st := st, runSince := s.ck, idleSince := if st = .idle then s.ck else u.idleSince })

end Sys2Proof.Machine
end

