-- ==== Sys2Proof/Machine/Ecc.lean ====
section
/-! DEFINITION. Stored data: the SECDED code, retirement, and the one read and one write of a stored word (R336-R358). -/

namespace Sys2Proof.Machine

/-- The code positions of d[0] to d[31] (R336). -/
def dataPos : List Nat :=
  [3, 5, 6, 7, 9, 10, 11, 12, 13, 14, 15, 17, 18, 19, 20, 21, 22, 23, 24, 25, 26, 27, 28, 29, 30, 31, 33, 34, 35, 36, 37, 38]

/-- C5 to C0 of a word: bit k is the parity of the data bits whose position has bit k set. -/
def checkSix (d : Word) : Nat := (List.range 32).foldl (fun a i => if bit d i then a ^^^ dataPos.getD i 0 else a) 0

/-- The parity of the low n bits of a number. -/
def parity (n v : Nat) : Bool := (List.range n).foldl (fun a i => a ^^ v.testBit i) false

/-- The check byte of a word (R336). -/
def encodeCheck (d : Word) : Byte := BitVec.ofNat 8 (checkSix d + 64 * b2n (parity 32 d.toNat ^^ parity 6 (checkSix d)))

/-- Classes of Table 13.1. -/
inductive WordClass where
  | clean | corrected (v : Word) | marker | uncorrectable
  deriving DecidableEq, Repr

/-- The syndrome of a word and check byte as read (R338). -/
def syndrome (d : Word) (c : Byte) : Nat := checkSix d ^^^ (c.toNat % 64)

/-- The overall parity of the 39 bits as read (R338). -/
def overallParity (d : Word) (c : Byte) : Bool := parity 32 d.toNat ^^ parity 7 c.toNat

/-- The decoder's outcome (Table 13.1). -/
def classify (d : Word) (c : Byte) : WordClass :=
  let sy := syndrome d c
  if overallParity d c then
    if sy == 63 then .marker
    else if 39 ≤ sy then .uncorrectable
    else match dataPos.idxOf? sy with
      | some i => .corrected (d ^^^ BitVec.ofNat 32 (2 ^ i))
      | none => .corrected d
  else if sy == 0 then .clean else .uncorrectable

/-- Who reads or writes stored data: SOURCE, tag and tenancy of its work (R350, R436). -/
structure Reader where
  src : Nat
  tag : Option (BitVec 16)
  ten : Option Nat
  deriving DecidableEq, Repr

/-- A host access: no tag and no tenancy. -/
def hostReader : Reader := { src := srcNum 6 0, tag := none, ten := none }

/-- Stored addresses: bank b's offset o is at b × 2^27 + o (R28). -/
def dramAddr (b o : Nat) : Nat := 2 ^ 27 * b + o
/-- The bank of a stored address. -/
def addrBank (a : Nat) : Nat := a / 2 ^ 27
/-- The row of a stored address (Table 2.4). -/
def addrRow (a : Nat) : Nat := a % 2 ^ 27 / 4096
/-- The column of a stored address. -/
def addrCol (a : Nat) : Nat := a % 4096 / 32

/-- The data of word w as stored (R337). -/
def dramWord (s : State) (w : Nat) : Word := BitVec.ofNat 32 (leNat (mgetAll 0 s.dram (4 * w) 4))
/-- The check byte of word w as stored. -/
def dramCheck (s : State) (w : Nat) : Byte := mget 0 s.check w
/-- A word and its check byte stored. -/
def putWord (s : State) (w : Nat) (d : Word) (c : Byte) : State :=
  { s with dram := msetAll 0 s.dram (4 * w) (leBytes 4 d.toNat), check := mset 0 s.check w c }

/-! Retirement (R355-R358). -/

/-- Whether bank b's bit is set in the bank mask. -/
def bankRetired (s : State) (b : Nat) : Bool := mget false s.retireBanks b
/-- Whether a row entry names a row of a bank. -/
def rowRetired (s : State) (b row : Nat) : Bool :=
  s.retireRows.any (fun e => bit e.2 0 && bits e.2 16 12 == b && bits e.2 32 15 == row)
/-- Whether a stored address lies in a retired row or bank (R356). -/
def retiredAt (s : State) (a : Nat) : Bool := bankRetired s (addrBank a) || rowRetired s (addrBank a) (addrRow a)
/-- The available-unit mask: every unit whose bank is not retired (R357). -/
def available (s : State) (b : Nat) : Bool := !bankRetired s b

/-! Counting and logging (R349, R350). -/

/-- The detail of a decoder entry (Table 13.3). -/
def eccDetail (w sy : Nat) (p : Bool) (reader count : Nat) : List Byte :=
  leBytes 2 (addrBank (4 * w)) ++ leBytes 2 (addrRow (4 * w)) ++ leBytes 1 (addrCol (4 * w)) ++ leBytes 1 (w % 8)
    ++ leBytes 1 (sy % 64 + 64 * b2n p) ++ leBytes 1 (reader / 4096) ++ leBytes 4 (min count (2 ^ 32 - 1))

/-- A bank's counters and the totals raised. -/
def countEcc (s : State) (b ce ue pr : Nat) : State :=
  { s with
    ecc := mupd Ecc.zero s.ecc b (fun e => { ce := satAdd 0xFFFF e.ce ce, ue := satAdd 0xFFFF e.ue ue, pr := satAdd 0xFFFF e.pr pr }),
    eccTot := { ce := satAdd (2 ^ 64 - 1) s.eccTot.ce ce, ue := satAdd (2 ^ 64 - 1) s.eccTot.ue ue,
                pr := satAdd (2 ^ 64 - 1) s.eccTot.pr pr } }

/-- A decoder entry of class 0x04. -/
def logEcc (s : State) (rd : Reader) (level num w count : Nat) : State :=
  let d := dramWord s w
  let c := dramCheck s w
  logAdd s level rd.src 0x04 num rd.tag rd.ten (eccDetail w (syndrome d c) (overallParity d c) rd.src count)

/-- A corrected word: counted; at most one entry per bank per ms, with the count since the last. -/
def noteCorrected (s : State) (rd : Reader) (w : Nat) : State :=
  let b := addrBank (4 * w)
  let s := countEcc s b 1 0 0
  let (last, n) := mget (none, 0) s.eccLog b
  match last with
  | some t =>
    if s.elapsed < t + Config.ms then { s with eccLog := mset (none, 0) s.eccLog b (some t, n + 1) }
    else { logEcc s rd 1 0x01 w (n + 1) with eccLog := mset (none, 0) s.eccLog b (some s.elapsed, 0) }
  | none => { logEcc s rd 1 0x01 w (n + 1) with eccLog := mset (none, 0) s.eccLog b (some s.elapsed, 0) }

/-- An uncorrectable word: counted and entered, but for a repeat within 1 ms of the entry that last named it. -/
def noteUncorrectable (s : State) (rd : Reader) (w : Nat) : State :=
  let s := countEcc s (addrBank (4 * w)) 0 1 0
  let fresh := match mget none s.ueLog w with
    | some t => decide (t + Config.ms ≤ s.elapsed)
    | none => true
  if fresh then { logEcc s rd 3 0x02 w 1 with ueLog := mset none s.ueLog w (some s.elapsed) } else s

/-- A value that the spec does not state for a poisoned word (R345), and the state that drew it. -/
def poisoned (s : State) : PWord × State := ({ val := Config.poisonValue s.free, poison := true }, (draw s).2)

/-- A word decoded on a read: its value and mark, with the read counted and entered (R338, R343, R349, R350). -/
def readWord (s : State) (rd : Reader) (w : Nat) : PWord × State :=
  match classify (dramWord s w) (dramCheck s w) with
  | .clean => ({ val := dramWord s w, poison := false }, s)
  | .corrected v => ({ val := v, poison := false }, noteCorrected s rd w)
  | .marker => poisoned (countEcc s (addrBank (4 * w)) 0 0 1)
  | .uncorrectable => poisoned (noteUncorrectable s rd w)

/-- n consecutive words decoded. -/
def readWords (s : State) (rd : Reader) (w n : Nat) : List PWord × State :=
  match n with
  | 0 => ([], s)
  | k + 1 =>
    let (v, s) := readWord s rd w
    let (vs, s) := readWords s rd (w + 1) k
    (v :: vs, s)

/-- A poison marker stored at word w (R343). -/
def putMarker (s : State) (w : Nat) : State := putWord s w 0 0x7F

/-- The bytes of new data merged over a word under its byte enables. -/
def mergeWord (old new : Word) (en : Nat) : Word :=
  BitVec.ofNat 32 (leNat ((List.range 4).map (fun i =>
    BitVec.ofNat 8 (if en.testBit i then bits new (8 * i) 8 else bits old (8 * i) 8))))

/-- A word written through the encoder (R340-R343): whole, or merged over the old word, which every partial write reads and decodes; a
marker if the new data is poisoned. The answer says whether its read found the word bad, the event of R342. -/
def writeWord (s : State) (rd : Reader) (w : Nat) (d : Word) (en : Nat) (poison : Bool) : Bool × State :=
  if en % 16 == 0 then (false, s)
  else if en % 16 == 15 then (false, if poison then putMarker s w else putWord s w d (encodeCheck d))
  else
    let (old, s) := readWord s rd w
    if poison || old.poison then (old.poison, putMarker s w)
    else
      let v := mergeWord old.val d en
      (false, putWord s w v (encodeCheck v))

/-- Consecutive words of one write operation, each with data, enables and poison. The answer is the first word that R342 made a
marker. -/
def writeWordsFrom (s : State) (rd : Reader) (w : Nat) (ws : List (Word × Nat × Bool)) : Option Nat × State :=
  match ws with
  | [] => (none, s)
  | (d, en, p) :: t =>
    let (m, s) := writeWord s rd w d en p
    let (r, s) := writeWordsFrom s rd (w + 1) t
    ((if m then some w else r), s)

/-- One write operation, with one entry if R342 wrote a marker (R350). -/
def writeOp (s : State) (rd : Reader) (w : Nat) (ws : List (Word × Nat × Bool)) : State :=
  let (m, s) := writeWordsFrom s rd w ws
  match m with
  | some w' => logEcc s rd 2 0x03 w' 1
  | none => s

/-- A list of bytes at a stored address split into whole words with enables: the words that the bytes touch, from word a / 4. -/
def bytesToWords (a : Nat) (bs : List (Option Byte)) (ps : List Bool) : List (Word × Nat × Bool) :=
  let lead := a % 4
  let cells := List.replicate lead none ++ bs
  let marks := List.replicate lead false ++ ps
  (List.range ((cells.length + 3) / 4)).map (fun k =>
    let c := (List.range 4).map (fun i => cells.getD (4 * k + i) none)
    let m := (List.range 4).any (fun i => (cells.getD (4 * k + i) none).isSome && marks.getD (4 * k + i) false)
    (BitVec.ofNat 32 (leNat (c.map (fun x => x.getD 0))),
      (List.range 4).foldl (fun e i => if (c.getD i none).isSome then e + 2 ^ i else e) 0, m))

/-- Bytes written at a stored address within one bank, each with its poison. -/
def writeBytes (s : State) (rd : Reader) (a : Nat) (bs : List (Option Byte)) (ps : List Bool) : State :=
  writeOp s rd (a / 4) (bytesToWords a bs ps)

/-- Bytes read at a stored address within one bank: each with the poison of its word. -/
def readBytes (s : State) (rd : Reader) (a n : Nat) : List (Byte × Bool) × State :=
  if n == 0 then ([], s) else
  let w0 := a / 4
  let (ws, s) := readWords s rd w0 ((a + n - 1) / 4 - w0 + 1)
  let cells := ws.flatMap (fun v => (leBytes 4 v.val.toNat).map (fun b => (b, v.poison)))
  ((cells.drop (a % 4)).take n, s)

end Sys2Proof.Machine
end

