-- ==== Sys2Proof/Machine/Net.lean ====
section
/-! DEFINITION. Sending DPP frames: header fields, sequence numbers, windows and timers of a pair (R298, R306, R309-R315). -/

namespace Sys2Proof.Machine

/-- The module's own member number (R298). -/
def selfMember (s : State) : Nat := bits (reg s 0xC00000) 8 6
/-- NET_POD_ID. -/
def podId (s : State) : Nat := bits (reg s 0xC00008) 0 16
/-- The most payload bytes of a frame (R309). -/
def mtu (s : State) : Nat := if bit (reg s 0xC00030) 0 then 8192 else 4096
/-- NET_RTO_INIT in ticks. -/
def rtoInit (s : State) : Nat := Config.us * bits (reg s 0xC00038) 0 24
/-- NET_RTO_MAX in ticks. -/
def rtoMax (s : State) : Nat := Config.us * bits (reg s 0xC00040) 0 24
/-- Whether peer entry m is in use (Table 18.9). -/
def peerValid (s : State) (m : Nat) : Bool := bit (reg s (0xC01010 + 0x20 * m)) 49
/-- The port named in peer entry m. -/
def peerPort (s : State) (m : Nat) : Nat := b2n (bit (reg s (0xC01010 + 0x20 * m)) 48)
/-- Whether a port has link. -/
def linkUp (s : State) (p : Nat) : Bool := mget false s.net.link p
/-- The port that carries the pair with member m now (R306). -/
def pairPort (s : State) (m : Nat) : Nat := if (peerOf s m).moved then 1 - peerPort s m else peerPort s m

/-- Whether work may be addressed to member m: it is in the pod and not quarantined, and its peer entry is in use (R322, R452). -/
def reachable (s : State) (m : Nat) : Bool :=
  (s.net.pod = .member || s.net.pod = .managing) && (peerOf s m).member && !(peerOf s m).quarantined && peerValid s m

/-- A frame before it is sent: type, destination, tenancy, tag, PARAM, payload and its poison. -/
def mkFrame (type dst ten : Nat) (tag : BitVec 16) (param : Nat) (payload : List Byte) (poison : List Bool) : TxFrame :=
  { type := type, dst := dst, seq := 0, tag := tag, ten := ten, first := true, last := true, reply := false, retx := false,
    param := param, payload := payload, poison := poison, send := none, press := none, incarnation := 0, ackV := false, ackno := 0 }

/-- The next SEQ that the acknowledgement to member m names: that of the first frame whose effects have not all taken place. The frames of
a record that has not yet landed whole are received and not acknowledged; frames held or waiting have not been processed (R313). -/
def ackNo (p : Peer) : Nat := (p.expect + 2 ^ 32 - (match p.rx.gather with | some g => g.frames | none => 0)) % 2 ^ 32

/-- Bits as bytes, least significant first. -/
def bitBytes (n : Nat) (l : List Bool) : List Byte := leBytes n (l.zipIdx.foldl (fun a b => a + b2n b.1 * 2 ^ b.2) 0)

/-- HFLAGS of a frame that is sent (Table 12.3). -/
def TxFrame.hflags (f : TxFrame) : Nat :=
  b2n f.ackV + 2 * b2n f.first + 4 * b2n f.last + 8 * b2n f.reply + 16 * b2n (f.poison.any id) + 32 * b2n f.retx

/-- The 32-byte DPP header of a frame (Table 12.3). -/
def dppHeader (s : State) (f : TxFrame) : List Byte :=
  leBytes 1 1 ++ leBytes 1 f.type ++ leBytes 1 (selfMember s) ++ leBytes 1 f.dst ++ leBytes 2 (podId s) ++ leBytes 2 f.tag.toNat
    ++ leBytes 4 f.seq ++ leBytes 4 f.ackno ++ leBytes 4 f.incarnation.toNat ++ leBytes 1 f.ten ++ leBytes 1 (TxFrame.hflags f)
    ++ leBytes 2 f.payload.length ++ leBytes 8 f.param

/-- The poison map that follows a payload: a bit a word, filled to a multiple of 32 bytes (R311). -/
def poisonMap (f : TxFrame) : List Byte :=
  if f.poison.any id then bitBytes ((f.poison.length + 255) / 256 * 32) f.poison else []

/-- The bytes of an address: 4 of IPv4, 16 of IPv6, byte 0 in bits 7 to 0 (Table 18.9). -/
def ipBytes (v4 : Bool) (lo hi : Word64) : List Byte := if v4 then leBytes 4 (lo.toNat % 2 ^ 32) else leBytes 8 lo.toNat ++ leBytes 8 hi.toNat

/-- The ones' complement sum of bytes taken in pairs, the first the higher (PRESUMED, log entry 124). -/
def onesSum (l : List Byte) : Nat :=
  let n := l.zipIdx.foldl (fun a b => a + b.1.toNat * (if b.2 % 2 = 0 then 256 else 1)) 0
  if n = 0 then 0 else (n - 1) % 65535 + 1

/-- The UDP checksum over addresses, ports and data (R305; PRESUMED, log entry 124). -/
def udpSum (src dst : List Byte) (sp dp : Nat) (data : List Byte) : Nat :=
  let be (n : Nat) : List Byte := (leBytes 2 n).reverse
  let n := 8 + data.length
  let c := 65535 - onesSum (src ++ dst ++ be 17 ++ be (n / 65536) ++ be (n % 65536) ++ be sp ++ be dp ++ be (n % 65536) ++ data)
  if c = 0 then 65535 else c

/-- A frame as it leaves a port toward peer entry m (R299, R305, R309, Table 12.2). -/
def wireOf (s : State) (port m : Nat) (f : TxFrame) : Wire :=
  let ctrl := reg s (0xC00060 + 8 * port)
  let mac := reg s (0xC000A0 + 8 * port)
  let cfg := reg s (0xC01010 + 0x20 * m)
  let v4 := bit mac 48
  let src := ipBytes v4 (reg s (0xC00080 + 16 * port)) (reg s (0xC00088 + 16 * port))
  let dst := ipBytes v4 (reg s (0xC01000 + 0x20 * m)) (reg s (0xC01008 + 0x20 * m))
  let sp := 0xC000 + selfMember s * 64 + f.dst
  let dpp := dppHeader s f ++ f.payload ++ poisonMap f
  { dstMac := bits cfg 0 48, srcMac := bits mac 0 48, tag := if bit ctrl 1 then some (bits ctrl 16 3, bits ctrl 4 12) else none, v4 := v4,
    dscp := bits ctrl 24 6, df := v4, srcIp := src, dstIp := dst, srcPort := sp, dstPort := 47210,
    checksum := udpSum src dst sp 47210 dpp, dpp := dpp }

/-- A pair whose port has no link moves to the other port, if that has link (R306). -/
def settlePort (s : State) (m : Nat) : State :=
  let p := pairPort s m
  if !linkUp s p && linkUp s (1 - p) then modPeer s m (fun q => { q with moved := !q.moved }) else s

/-- A frame put on the wire, carrying the pair's acknowledgement; nothing leaves a port without link or toward an entry not in use. -/
def putFrame (s : State) (m : Nat) (f : TxFrame) : State :=
  let s := settlePort s m
  let p := peerOf s m
  let port := pairPort s m
  let f := { f with incarnation := s.net.incarn, ackV := p.member, ackno := if p.member then ackNo p else 0 }
  let s := setPeer s m { p with ackDue := none, ackCount := 0 }
  if linkUp s port && peerValid s m then
    emit (traceEv s 0x0C f.ten (srcNum 8 2) f.tag f.seq 0) (.frame port f (wireOf s port m f))
  else s

/-- An unsequenced frame sent (R310). -/
def sendUnseq (s : State) (f : TxFrame) : State := putFrame s f.dst { f with seq := 0 }

/-- A sequenced frame takes the next SEQ and is sent; the pair's timer runs (R314, R315). -/
def transmit (s : State) (f : TxFrame) : State :=
  let p := peerOf s f.dst
  let f := { f with seq := p.nextSeq }
  let fresh := p.unacked.isEmpty
  let s := setPeer s f.dst
    { p with nextSeq := (p.nextSeq + 1) % 2 ^ 32, unacked := p.unacked ++ [f], lastTx := s.elapsed,
             rto := if fresh then rtoInit s else p.rto, tries := if fresh then 1 else p.tries,
             timerAt := if fresh then some (s.elapsed + rtoInit s) else p.timerAt }
  let s := if 4 ≤ f.type then modPeer s f.dst (fun p => { p with tens := mset false p.tens f.ten true }) else s
  let data := f.type == 4 || f.type == 5 || f.type == 9
  let s := if f.payload.isEmpty then s
    else meter s f.ten 4 (if data && !f.reply then f.payload.length else 0) (20 * f.payload.length)
  putFrame s f.dst f

/-- Waiting frames sent while fewer than 256 are unacknowledged (R314). -/
def pump (fuel : Nat) (s : State) (m : Nat) : State :=
  match fuel with
  | 0 => s
  | k + 1 =>
    let p := peerOf s m
    match p.backlog with
    | [] => s
    | f :: rest => if p.unacked.length < 256 then pump k (transmit (setPeer s m { p with backlog := rest }) { f with dst := m }) m else s

/-- A sequenced frame handed to the pair's stream. -/
def sendSeq (s : State) (f : TxFrame) : State :=
  pump 256 (modPeer s f.dst (fun p => { p with backlog := p.backlog ++ [f] })) f.dst

/-- PARAM of a FLAG frame (Table 12.4). -/
def flagParam (flag op : Nat) (value : Bool) (waiter : Nat) : Nat :=
  flag + 2 ^ 16 * op + b2n value * 2 ^ 20 + 2 ^ 32 * waiter

/-- A FLAG frame sent to member m. -/
def sendFlag (s : State) (m ten : Nat) (tag : BitVec 16) (flag op : Nat) (value : Bool) (waiter : Nat) : State :=
  sendSeq s (mkFrame 6 m ten tag (flagParam flag op value waiter) [] [])

/-- The WAITER of a new operation or wait at the manager: any value but 0xFFFF (DESIGN CHOICE, log entry 14). -/
def newWaiter (s : State) (flag : Nat) (reply : Reply) (watch clr tested onClear : Bool) : Nat × State :=
  let (i, s) := newId s
  let w := i % 0xFFFF
  (w, { s with net := { s.net with
          remote := s.net.remote ++ [{ waiter := w, flag := flag, reply := reply, watch := watch, clr := clr, tested := tested,
                                       onClear := onClear }] } })

end Sys2Proof.Machine
end

