-- ==== Sys2Proof/Machine/Records.lean ====
section
/-! DEFINITION. Records for the host: completion and event records, staging, interrupts and the status word (R78-R90, R417-R421). -/

namespace Sys2Proof.Machine

/-- The ring and event slots of Table 3.1: completion ring 4, event ring 5. -/
def cq : Nat := 4
/-- The event ring's slot. -/
def eq5 : Nat := 5

/-- Unconsumed entries of a ring whose tail is the module's: tail − host head (R48). -/
def ringUsed (r : Ring) : Nat := (r.tail - r.head).toNat

/-- Whether a CXL.cache write carries a completion record of tenancy t. -/
def isCompletion (t : Nat) (w : HostWrite) : Bool :=
  w.ten == t && (match w.kind with | .completion _ => true | _ => false)
/-- Whether a CXL.cache write carries an event record of tenancy t. -/
def isEvent (t : Nat) (w : HostWrite) : Bool :=
  w.ten == t && (match w.kind with | .event _ => true | _ => false)

/-- Free entries of tenancy t's completion ring, writes outstanding counted as used; 0 while it is disabled. -/
def cqFree (s : State) (t : Nat) : Nat :=
  let r := ringOf s t cq
  if r.enabled then 2 ^ r.log2 - 1 - ringUsed r - (s.hostWrites.filter (isCompletion t)).length else 0

/-- Free entries of tenancy t's event ring. -/
def eqFree (s : State) (t : Nat) : Nat :=
  let r := ringOf s t eq5
  if r.enabled then 2 ^ r.log2 - 1 - ringUsed r - (s.hostWrites.filter (isEvent t)).length else 0

/-- Reservations that tenancy t holds (R81). -/
def reservations (s : State) (t : Nat) : Nat := (s.active.filter (fun a => a.ten == t && a.reserved)).length

/-- Staging places that tenancy t uses or has reserved (R80, R81). -/
def stagingNeed (s : State) (t : Nat) : Nat := (tenOf s t).staging.length + (reservations s t - cqFree s t)

/-- The tenancies that exist (R274). -/
def existing (s : State) : List Nat := (s.tens.filter (fun e => e.2.enabled)).map (·.1)

/-- Whether tenancy t may use n places of staging: 1024 at most, 16 reserved for each tenancy, the rest shared (R80, R81). -/
def stagingFits (s : State) (t n : Nat) : Bool :=
  let ex := existing s
  let shared := ex.foldl (fun m u => m + ((if u = t then n else stagingNeed s u) - 16)) 0
  decide (n ≤ 1024) && decide (shared + 16 * ex.length ≤ 8192)

/-- Whether one more completion record of tenancy t has a place, in its ring or in its share of staging (R80, R81). A ring that is
not enabled takes no record and needs none (R86); held completions go first. -/
def canPlace (s : State) (t : Nat) : Bool :=
  if !(ringOf s t cq).enabled then true
  else (tenOf s t).held.isEmpty &&
    (decide (reservations s t + (tenOf s t).staging.length < cqFree s t) || stagingFits s t (stagingNeed s t + 1))

/-- A record's 16 bytes but PHASE (Table 3.14). -/
def CRec.bytes (r : CRec) : List Byte :=
  let num := match r.src with | .ring k => k.toNat | .slot k => k.toNat
  let direct := match r.src with | .ring _ => false | .slot _ => true
  leBytes 2 r.tag.toNat ++ leBytes 1 r.status.code
    ++ leBytes 1 (2 * b2n r.signalled + 4 * b2n r.staged + 8 * b2n direct + 16 * num)
    ++ leBytes 4 r.detail ++ leBytes 8 r.time

/-- The vector of a completion from a source (R90). -/
def srcVector (s : State) (t : Nat) (src : Sys2Proof.Source) : Nat :=
  match src with
  | .ring k => bits (reg s (tenReg t 0x28)) (3 * k.toNat) 3
  | .slot _ => bits (reg s (tenReg t 0x30)) 0 3

/-- A CXL.cache write issued, with the poison of its bytes. -/
def hostWriteIssue (s : State) (t : Nat) (kind : HwKind) (addr : Nat) (bytes : List Byte) (poison : List Bool) : State :=
  let (i, s) := newId s
  { s with hostWrites := s.hostWrites ++
      [{ id := i, ten := t, kind := kind, addr := addr, bytes := bytes, poison := poison, at_ := s.elapsed }] }

/-- A completion record written toward the ring's tail. -/
def writeRecord (s : State) (t : Nat) (r : CRec) : State :=
  hostWriteIssue s t (.completion (if r.irq then some (srcVector s t r.src) else none)) 0 r.bytes []

/-- A protocol violation entered as class 0x01 (R431): the number, the page's tenancy, SIZE, OFFSET, EXPECTED and the value. -/
def violationDetail (num size off expected : Nat) (value : Nat) : List Byte :=
  leBytes 1 num ++ leBytes 1 size ++ leBytes 2 off ++ leBytes 2 expected ++ leBytes 6 value

/-- A completion record due while its ring is not enabled: CQ_LOST, the meter of the violation, and an entry at most once in a
millisecond (R86, R431). -/
def loseRecord (s : State) (t : Nat) (r : CRec) : State :=
  let x := tenOf s t
  let due := match x.cqLostAt with | some l => decide (l + Config.ms ≤ s.elapsed) | none => true
  let s := meter (setTen s t { x with cqLost := true, cqLostAt := if due then some s.elapsed else x.cqLostAt }) t 11 1 0
  if due then logAdd s 2 (srcNum 0xA (srcId r.src)) 0x01 0x0E (some r.tag) (some t) (violationDetail 0x0E 0 0 0 0) else s

/-- Whether a record may enter the ring at once: no older one waits, an entry is free, and what is reserved keeps its place (R80, R81). -/
def ringTakes (s : State) (t : Nat) : Bool :=
  (tenOf s t).staging.isEmpty && (tenOf s t).held.isEmpty && decide (0 < cqFree s t) &&
    (decide (reservations s t < cqFree s t) || stagingFits s t (stagingNeed s t + 1))

/-- Whether a record may enter staging: no older one is held, and there is a place besides what is reserved (R80, R81). -/
def stagingTakes (s : State) (t : Nat) : Bool := (tenOf s t).held.isEmpty && stagingFits s t (stagingNeed s t + 1)

/-- A completion record that falls due: into the ring, into staging, held by its executor for want of a place, or lost with CQ_LOST while
the ring is not enabled (R78, R80, R86). -/
def postRecord (s : State) (t : Nat) (r : CRec) : State :=
  if !(ringOf s t cq).enabled then loseRecord s t r
  else if ringTakes s t then writeRecord s t r
  else if stagingTakes s t then modTen s t (fun x => { x with staging := x.staging ++ [{ r with staged := true }] })
  else modTen s t (fun x => { x with held := x.held ++ [r] })

/-- The state with what a tenancy's executors hold set. -/
def setHeld (s : State) (t : Nat) (l : List CRec) : State := modTen s t (fun x => { x with held := l })

/-- Whether the oldest completion that a tenancy's executors hold may fall due again (R80). -/
def heldReady (s : State) (t : Nat) : Bool :=
  !(tenOf s t).held.isEmpty &&
    (!(ringOf s t cq).enabled || ringTakes (setHeld s t []) t || stagingTakes (setHeld s t []) t)

/-- The module time at which the oldest held completion of a tenancy was formed. -/
def heldSince (s : State) (t : Nat) : Nat := ((tenOf s t).held.head?.map (·.time)).getD 0

/-- The tenancy whose held completion has needed a place for the longest, of those that may have one: the lowest among equals (R81, log entry
118). -/
def nextHeld (s : State) : Option Nat :=
  ((existing s).filter (heldReady s)).foldl (fun b t => match b with
    | none => some t
    | some c => if heldSince s t < heldSince s c then some t else some c) none

/-- The oldest held completion of a tenancy falls due again. -/
def settleOne (s : State) (t : Nat) : State :=
  match (tenOf s t).held with
  | r :: rest => setHeld (postRecord (setHeld s t []) t r) t rest
  | [] => s

/-- Held completions fall due again in the order in which they need a place, at most n of them (R80, R81). -/
def settleHeld (n : Nat) (s : State) : State :=
  match n with
  | 0 => s
  | n + 1 =>
    match nextHeld s with
    | some t => settleHeld n (settleOne s t)
    | none => s

/-- Every held completion falls due again as far as there is a place for it (R80, R81). -/
def settleAll (s : State) : State := settleHeld ((existing s).map (fun t => (tenOf s t).held.length)).sum s

/-- The oldest staged record enters the ring if it has space (R80). -/
def drainStaged (s : State) (t : Nat) : State :=
  match (tenOf s t).staging with
  | [] => settleAll s
  | r :: rest =>
    if 0 < cqFree s t then settleAll (writeRecord (modTen s t (fun x => { x with staging := rest })) t r) else s

/-- An event record's 32 bytes but PHASE (Table 3.15). -/
def eventBytes (type tag code time : Nat) (payload : List Byte) : List Byte :=
  leBytes 1 type ++ leBytes 1 0 ++ leBytes 2 tag ++ leBytes 4 code ++ leBytes 8 time ++ padTo 16 payload

/-- A dropped throttle request or kite message entered as 0x07_06 (R85, Table 17.6). -/
def logDroppedEvent (s : State) (t type : Nat) (tag : BitVec 16) (payload : List Byte) : State :=
  let p := padTo 16 payload
  let body := if type = 2 then p.take 3 ++ [0] ++ (p.drop 4).take 4
              else p.take 2 ++ (p.drop 8).take 2 ++ (p.drop 4).take 4
  logAdd s 2 (srcNum 8 3) 0x07 0x06 (some tag) (some t) (leBytes 1 type ++ [0] ++ leBytes 2 tag.toNat ++ body)

/-- An event record of a module time that falls due: written toward the event ring, or dropped with EQ_OVERFLOW (R84-R86). -/
def postEventAt (s : State) (time t type : Nat) (tag : BitVec 16) (code : Nat) (payload : List Byte) (irq : Option Nat) : State :=
  if 0 < eqFree s t then hostWriteIssue s t (.event irq) 0 (eventBytes type tag.toNat code time payload) []
  else
    let s := modTen s t (fun x => { x with eqOverflow := true })
    if type = 1 then s else logDroppedEvent s t type tag payload

/-- An event record of this moment. -/
def postEvent (s : State) (t type : Nat) (tag : BitVec 16) (code : Nat) (payload : List Byte) (irq : Option Nat) : State :=
  postEventAt s s.time t type tag code payload irq

/-- The vector of fault and throttle events. -/
def eqVector (s : State) (t : Nat) : Nat := bits (reg s (tenReg t 0x38)) 0 3

/-- Whether an end at run time with a status emits a fault record (Table 17.1). -/
def Status.faults : Status → Bool
  | .ok | .badOpcode | .badField | .overlap | .padConflict | .fetchPoison | .cancelledBySwitch | .tempWindow => false
  | _ => true

/-- A fault record of a module time emitted for a tenancy's work, with its meter (R84, Table 11.6). -/
def faultRecordAt (s : State) (time t : Nat) (tag : BitVec 16) (st : Status) (payload : List Byte) : State :=
  meter (postEventAt s time t 1 tag st.code payload (some (eqVector s t))) t 15 1 0

/-- A fault record of this moment. -/
def faultRecord (s : State) (t : Nat) (tag : BitVec 16) (st : Status) (payload : List Byte) : State :=
  faultRecordAt s s.time t tag st payload

/-- The level of a class 0x00 entry (Table 17.6). -/
def endLevel (st : Status) (acceptance : Bool) : Nat :=
  if st = .cancelledBySwitch then 1 else if acceptance then 2 else 3

/-- The class 0x00 entry of an end at a module time: DETAIL is bytes 18-29 of its fault payload (R423). -/
def logEndAt (s : State) (time t : Nat) (tag : BitVec 16) (st : Status) (acceptance : Bool) (payload : List Byte) : State :=
  if st = .ok then s
  else logAddAt s time (endLevel st acceptance) (leNat (payload.take 2)) 0x00 st.code (some tag) (some t)
    (((padTo 16 payload).drop 2).take 12)

/-- The class 0x00 entry of an end of this moment. -/
def logEnd (s : State) (t : Nat) (tag : BitVec 16) (st : Status) (acceptance : Bool) (payload : List Byte) : State :=
  logEndAt s s.time t tag st acceptance payload

/-- An end of work at run time: its fault record if its status emits one, and its entry in the log (R417, R423). -/
def reportEndAt (s : State) (time t : Nat) (tag : BitVec 16) (st : Status) (payload : List Byte) (fault : Bool) : State :=
  logEndAt (if fault then faultRecordAt s time t tag st payload else s) time t tag st false payload

/-- An end of work of this moment. -/
def reportEnd (s : State) (t : Nat) (tag : BitVec 16) (st : Status) (payload : List Byte) (fault : Bool) : State :=
  reportEndAt s s.time t tag st payload fault

/-- The status of a task that has ended reaches the M-die: its fault record and its entry, with the module time of the end (R175, R418,
R423). -/
def noteEnd (s : State) (x : CoreId) : State :=
  match (procOf s x).task, (procOf s x).ended with
  | some t, some e =>
    match e.report with
    | some (fault, pay) =>
      modProc (reportEndAt s e.time t.ten t.tag e.status pay fault) x (fun p => { p with ended := some { e with report := none } })
    | none => s
  | _, _ => s

/-- An end of an earlier cycle is entered before a later entry of the same source (R426). -/
def settleEnd (s : State) (x : CoreId) : State :=
  match (procOf s x).ended with
  | some e => if e.ck < s.ck then noteEnd s x else s
  | none => s

/-- The generic fault payload (Table 17.3). -/
def genericPayload (source opcode origin info started : Nat) : List Byte :=
  leBytes 2 source ++ leBytes 1 opcode ++ leBytes 1 origin ++ leBytes 4 info ++ leBytes 8 started

/-! Interrupts (R90). -/

/-- Whether a vector's holdoff still runs: n nanoseconds are n × 8 / 5 ticks. -/
def inHoldoff (s : State) (t : Nat) (v : VecState) : Bool :=
  match v.last with
  | some l => decide ((s.elapsed - l) * 5 < irqHoldoff s t * 8)
  | none => false

/-- A message sent on a vector: it starts a new holdoff. -/
def sendIrq (s : State) (t vec : Nat) : State :=
  emit (modTen s t (fun x => { x with vecs := mset VecState.empty x.vecs vec { last := some s.elapsed, held := false } }))
    (.msix (8 * t + vec))

/-- A message that falls due on a vector: sent at once, or held within the holdoff. -/
def raiseIrq (s : State) (t vec : Nat) : State :=
  let v := mget VecState.empty (tenOf s t).vecs vec
  if inHoldoff s t v then modTen s t (fun x => { x with vecs := mset VecState.empty x.vecs vec { v with held := true } })
  else sendIrq s t vec

/-- A record in host memory: at the tail of its ring, with PHASE; the tail then advances and its interrupt is raised (R78, R79, R89). -/
def landRecord (s : State) (t j size flagByte : Nat) (bytes : List Byte) (irq : Option Nat) : State :=
  let r := ringOf s t j
  let addr := ringBase s t j + (r.tail.toNat % 2 ^ r.log2) * size
  let bytes := bytes.set flagByte (bytes.getD flagByte 0 ||| (if r.phase then 1 else 0))
  let last := r.tail.toNat % 2 ^ r.log2 + 1 == 2 ^ r.log2
  let s := emit s (.hostWrite addr bytes [])
  let s := setRing s t j { r with tail := r.tail + 1, phase := if last then !r.phase else r.phase }
  match irq with
  | some v => raiseIrq s t v
  | none => s

/-! The status word (R88). -/

/-- Whether a tenancy owns a group. -/
def ownsGroup (s : State) (t g : Nat) : Bool := mget none s.groupOwner g == some t

/-- Whether throttle enforcement applies to a stack. -/
def throttled (s : State) (k : Nat) : Bool := decide ((thmOf s k).kThr < 16)

/-- The tenancy status word (Table 3.18). -/
def statusWord (s : State) (t : Nat) : Word64 :=
  let x := tenOf s t
  let busy := (List.range 16).foldl (fun n k => if (mget none x.slots k).isSome then n + 2 ^ k else n) 0
  let held := (List.range 4).any (fun j => (ringOf s t j).held)
  let thr := (List.range 256).any (fun g => ownsGroup s t g && throttled s (g / 32))
  let wq := s.pwr.queues.any (fun e => e.2.any (fun a => ownsGroup s t (groupOf a.2.bank)))
  let sw := s.switches.any (fun w => w.ten == t || (w.old == t))
  BitVec.ofNat 64 ((ringOf s t cq).tail.toNat + (ringOf s t eq5).tail.toNat * 2 ^ 16 + 2 ^ 32 * busy
    + b2n (!x.staging.isEmpty) * 2 ^ 48 + b2n x.eqOverflow * 2 ^ 49 + b2n held * 2 ^ 50 + b2n thr * 2 ^ 51 + b2n wq * 2 ^ 52
    + b2n sw * 2 ^ 53 + b2n x.cqLost * 2 ^ 54)

end Sys2Proof.Machine
end

