-- ==== Sys2Proof/Machine/Flags.lean ====
section
/-! DEFINITION. Flags at their homes: the four operations, waiters and kites, flag messages, and registering a wait (R244-R256, R326). -/

namespace Sys2Proof.Machine

/-- The home of a flag (R245): 0 the M-die, 1-8 a stack's B-die, 9 the pod manager. -/
def flagHome (s : State) (f : Nat) : Nat := blockHome s (f / 256)

/-- Whether a tenancy owns a flag's block. -/
def ownsFlag (s : State) (t f : Nat) : Bool := mget none s.blockOwner (f / 256) == some t

/-- The last change of a flag recorded (Table 10.5), with its trace event. -/
def noteChange (s : State) (f : Nat) (who : Who) (tag : BitVec 16) (ten op : Nat) : State :=
  let s := { s with sync := { s.sync with
               last := mset LastOp.none s.sync.last f { who := who, op := op, tag := tag, time := s.time } } }
  traceEv s (if op = 1 then 0x07 else 0x08) ten (srcNum who.kind who.id) tag f 0

/-- A kite freed (R252, R255). -/
def freeKite (s : State) (k : Nat) : State := setKite s k none

/-- The payload of a kite message (Table 3.17). -/
def kitePayload (k : Nat) (x : Kite) : List Byte :=
  leBytes 2 x.flag ++ leBytes 1 (b2n x.onClear) ++ [0] ++ leBytes 4 x.cookie.toNat ++ leBytes 2 k

/-- A unit's wake wire fires: it asks for the credit of its wake (R103). A press resumes at once. -/
def wakeCore (s : State) (x : CoreId) : State :=
  match x with
  | .unit b =>
    match (procOf s x).nap with
    | some n =>
      if n.released then s
      else ballastAsk (modProc s x (fun p => { p with nap := some { n with released := true } })) (.nap b.toNat)
    | none => s
  | .press _ => modProc s x (fun p => if p.nap.isSome then pnext { p with nap := none } else p)

/-- An active descriptor changed. -/
def modActive (s : State) (i : Nat) (f : Active → Active) : State :=
  { s with active := s.active.map (fun a => if a.id = i then f a else a) }

/-- A host kite's message is formed (R253). -/
def hostKite (s : State) (x : Kite) (k : Nat) : State :=
  postEvent s x.owner 3 x.tag 0 (kitePayload k x) (if bit x.notify 0 then some (bits x.notify 1 3) else none)

/-- A waiter or kite released: its kite fires and is freed, and its holder is told (R247, R252, R253, R326). -/
def releaseWatch (s : State) (w : Watch) : State :=
  let kx := match w.kite with | some k => kiteOf s k | none => none
  let s := match w.kite with
    | some k => freeKite (traceEv s 0x09 ((kx.map (·.owner)).getD 0) (srcNum w.who.kind w.who.id) w.tag w.flag 0) k
    | none => s
  match w.holder with
  | .gone => s
  | .core x => wakeCore s x
  | .desc i => modActive s i (fun a => { a with wait := .released })
  | .host k =>
    match kx with
    | some x => hostKite s x k
    | none => s
  | .member m waiter =>
    sendFlag s m ((kx.map (·.owner)).getD 0) w.tag w.flag 7 true waiter

/-- A list of waiters and kites released in order. -/
def releaseAll (s : State) (ws : List Watch) : State := ws.foldl releaseWatch s

/-- The first element that satisfies a test, and the rest of the list. -/
def takeFirst {α : Type} (p : α → Bool) (l : List α) : Option α × List α :=
  match l with
  | [] => (none, [])
  | x :: t => if p x then (some x, t) else
    let (r, t') := takeFirst p t
    (r, x :: t')

/-- A flag's value stored. -/
def putFlag (s : State) (f : Nat) (v : Bool) : State := { s with sync := { s.sync with flags := mset false s.sync.flags f v } }

/-- A set applied at the home (R246, R247): of a clear flag it releases every plain waiter and kite, then the oldest with CLR, which
clears the flag again. -/
def homeSet (s : State) (f : Nat) (who : Who) (tag : BitVec 16) (ten : Nat) : State :=
  if flagOf s f then s
  else
    let s := noteChange (putFlag s f true) f who tag ten 1
    let plain := s.sync.watches.filter (fun w => w.flag == f && !w.onClear && !w.clr)
    let rest := s.sync.watches.filter (fun w => !(w.flag == f && !w.onClear && !w.clr))
    let s := releaseAll { s with sync := { s.sync with watches := rest } } plain
    match takeFirst (fun w => w.flag == f && !w.onClear && w.clr) s.sync.watches with
    | (none, _) => s
    | (some w, rest) =>
      let s := { putFlag s f false with sync := { (putFlag s f false).sync with watches := rest } }
      releaseWatch (noteChange s f w.who w.tag ten 3) w

/-- A clear applied at the home: of a set flag it fires every kite on clear (R247). -/
def homeClear (s : State) (f : Nat) (who : Who) (tag : BitVec 16) (ten op : Nat) : State :=
  if flagOf s f then
    let s := noteChange (putFlag s f false) f who tag ten op
    let hit := s.sync.watches.filter (fun w => w.flag == f && w.onClear)
    let rest := s.sync.watches.filter (fun w => !(w.flag == f && w.onClear))
    releaseAll { s with sync := { s.sync with watches := rest } } hit
  else s

/-- A waiter or kite registered at the home, and released at once if its condition holds (R252, R256). -/
def registerWatch (s : State) (w : Watch) (ten : Nat) : State :=
  if flagOf s w.flag == !w.onClear then
    let s := if w.clr && !w.onClear then homeClear s w.flag w.who w.tag ten 3 else s
    releaseWatch s w
  else { s with sync := { s.sync with watches := s.sync.watches ++ [w] } }

/-! Kites. -/

/-- The kites that a tenancy holds. -/
def kitesHeld (s : State) (t : Nat) : Nat :=
  (s.sync.kites.filter (fun e => match e.2 with | some k => k.owner == t | none => false)).length

/-- The lowest free kite from k on (log entry 15). -/
def firstFreeKite (s : State) (fuel k : Nat) : Option Nat :=
  match fuel with
  | 0 => none
  | n + 1 => if (kiteOf s k).isNone then some k else firstFreeKite s n (k + 1)

/-- A kite that tenancy t may take, if its quota and the pool allow one (R251). -/
def freeKiteFor (s : State) (t : Nat) : Option Nat :=
  if kitesHeld s t < kiteQuota s t then firstFreeKite s 4096 0 else none

/-! Flag messages (R246, R470). -/

/-- The home that a message is bound for. -/
def FlagMsg.home (s : State) (m : FlagMsg) : Nat := flagHome s m.flag

/-- A reply to the issuer of an operation: the value before it. -/
def replyTo (s : State) (r : Reply) (v : Bool) : State :=
  match r with
  | .none => s
  | .host _ => s
  | .desc i => modActive s i (fun a => { a with answered := true, detail := b2n v })
  | .core x =>
    modProc s x (fun p => match p.nap with
      | some n =>
        (match n.why with
          | .test _ _ rd => pnext (rset { p with nap := none } rd { val := BitVec.ofNat 32 (b2n v), poison := false })
          | _ => { p with nap := some { n with answer := some v } })
      | none => p)

/-- An operation applied at its home, with its reply. -/
def applyMsg (s : State) (m : FlagMsg) : State :=
  let v := flagOf s m.flag
  let s := match m.op with
    | .set => homeSet s m.flag m.who m.tag m.ten
    | .clear => homeClear s m.flag m.who m.tag m.ten 2
    | .testClr => homeClear s m.flag m.who m.tag m.ten 3
    | .test => s
  replyTo s m.reply v

/-- Whether a message may be applied now: no earlier one from its source to its home is in flight (R365). -/
def msgFree (s : State) (before : List FlagMsg) (m : FlagMsg) : Bool :=
  before.all (fun e => !(e.who == m.who && flagHome s e.flag == flagHome s m.flag))

/-- The first message that satisfies a test and may be applied, and the others. -/
def takeMsg (s : State) (p : FlagMsg → Bool) (before : List FlagMsg) (l : List FlagMsg) : Option (FlagMsg × List FlagMsg) :=
  match l with
  | [] => none
  | m :: t => if p m && msgFree s before m then some (m, before ++ t) else takeMsg s p (before ++ [m]) t

/-- The oldest in-flight message of an operation on a flag arrives at the home. -/
def deliver (s : State) (op : FlagOp) (f : Nat) : State :=
  match takeMsg s (fun m => m.op == op && m.flag == f) [] s.sync.msgs with
  | some (m, rest) => applyMsg { s with sync := { s.sync with msgs := rest } } m
  | none => s

/-- A source's messages to a home applied before it registers a wait there (R365, log entry 18). -/
def flushOwn (fuel : Nat) (s : State) (who : Who) (home : Nat) : State :=
  match fuel with
  | 0 => s
  | n + 1 =>
    match takeMsg s (fun m => m.who == who && flagHome s m.flag == home) [] s.sync.msgs with
    | some (m, rest) => flushOwn n (applyMsg { s with sync := { s.sync with msgs := rest } } m) who home
    | none => s

/-- Whether operations on a flag reach a home: a HOME = 9 flag needs this module in MEMBER (R245). -/
def homeReached (s : State) (f : Nat) : Bool := flagHome s f != 9 || s.net.pod == .member

/-- The OP of a FLAG frame for an operation (Table 12.4). -/
def FlagOp.wire : FlagOp → Nat
  | .set => 1 | .clear => 2 | .testClr => 3 | .test => 4

/-- An operation leaves its issuer: toward a home on the module, or as a FLAG frame to the manager (R246, R326). -/
def issueFlagOp (s : State) (m : FlagMsg) : State :=
  if flagHome s m.flag = 9 then
    match m.reply with
    | .none => sendFlag s 0 m.ten m.tag m.flag m.op.wire false 0xFFFF
    | r =>
      let (w, s) := newWaiter s m.flag r false false false false
      sendFlag s 0 m.ten m.tag m.flag m.op.wire false w
  else { s with sync := { s.sync with msgs := s.sync.msgs ++ [m] } }

/-- A flag set that is discarded because the tenancy no longer owns the flag's block (R19, log entry 127). -/
def logUnowned (s : State) (src : Nat) (tag : Option (BitVec 16)) (ten f : Nat) : State :=
  logAdd s 2 src 0x07 0x03 tag (some ten) (leBytes 1 1 ++ leBytes 2 (f / 256))

/-- SIGNAL_FLAG set at the end of work: applied at the home before the record is written (R57), or sent to the manager. -/
def signalFlag (s : State) (f ten : Nat) (tag : BitVec 16) (who : Who) : State :=
  if flagHome s f = 9 then
    if s.net.pod = .member then sendFlag s 0 ten tag f 1 false 0xFFFF
    else logAdd s 2 (srcNum 5 0) 0x02 0x30 (some tag) (some ten) []
  else homeSet (flushOwn 4096 s who (flagHome s f)) f who tag ten

/-- A wait of a descriptor or a core registered: at a home on the module, or as a WATCH to the manager (R250-R256, R326). -/
def registerWait (s : State) (w : Watch) (ten : Nat) (reply : Reply) : State :=
  if flagHome s w.flag = 9 then
    let (i, s) := newWaiter s w.flag reply true w.clr false false
    sendFlag s 0 ten w.tag w.flag (if w.clr then 6 else 5) false i
  else registerWatch (flushOwn 4096 s w.who (flagHome s w.flag)) w ten

/-- The waits of a descriptor withdrawn: they use no kite (R256). -/
def dropWaits (s : State) (i : Nat) : State :=
  { s with sync := { s.sync with watches := s.sync.watches.filter (fun w => w.holder != .desc i) } }

/-- A watch whose core's task has ended: its waiter-table entry is removed, a kite stays armed and tells nobody (R255). -/
def orphanWatch (x : CoreId) (w : Watch) : Option Watch :=
  if w.holder == .core x then (if w.kite.isSome then some { w with holder := .gone } else none) else some w

/-- A core's waits withdrawn as its task ends: what it has sent still acts at the home, and is answered to nobody (R255). -/
def dropCoreWaits (s : State) (x : CoreId) : State :=
  { s with sync := { s.sync with
             watches := s.sync.watches.filterMap (orphanWatch x)
             msgs := s.sync.msgs.map (fun m => if m.reply == .core x then { m with reply := .none } else m) }
           net := { s.net with remote := s.net.remote.map (fun r => if r.reply == .core x then { r with reply := .none } else r) } }

/-- An armed kite freed without a message, and its watch with it (R255, R271, R284). -/
def dropKite (s : State) (k : Nat) : State :=
  match kiteOf s k with
  | none => s
  | some _ =>
    let s := freeKite s k
    { s with sync := { s.sync with watches := s.sync.watches.filter (fun w => w.kite != some k) }
             net := { s.net with remote := s.net.remote.filter (fun r => r.reply != .host k) } }

/-- Every kite that a test selects freed without a message. -/
def dropKites (s : State) (p : Kite → Bool) : State :=
  (s.sync.kites.filter (fun e => match e.2 with | some x => p x | none => false)).foldl (fun s e => dropKite s e.1) s

end Sys2Proof.Machine
end

