-- ==== Sys2Proof/Machine/Shake.lean ====
section
/-! DEFINITION. SHAKE256 with 512 bits of output, the digest of program measurement and attestation, and SHA3-512 (R296, R398, R412, R415). -/

namespace Sys2Proof.Machine

/-- Rotation amounts of the 25 lanes, lane x + 5y at that index. -/
def keccakRot : List Nat :=
  [0, 1, 62, 28, 27, 36, 44, 6, 55, 20, 3, 10, 43, 25, 39, 41, 45, 15, 21, 8, 18, 2, 61, 56, 14]

/-- Round constants of Keccak-f[1600]. -/
def keccakRC : List Word64 :=
  [0x0000000000000001, 0x0000000000008082, 0x800000000000808A, 0x8000000080008000, 0x000000000000808B, 0x0000000080000001,
   0x8000000080008081, 0x8000000000008009, 0x000000000000008A, 0x0000000000000088, 0x0000000080008009, 0x000000008000000A]
  ++ [0x000000008000808B, 0x800000000000008B, 0x8000000000008089, 0x8000000000008003, 0x8000000000008002, 0x8000000000000080,
   0x000000000000800A, 0x800000008000000A, 0x8000000080008081, 0x8000000000008080, 0x0000000080000001, 0x8000000080008008]

/-- One round of Keccak-f[1600] on 25 lanes. -/
def keccakRound (a : List Word64) (rc : Word64) : List Word64 :=
  let g (l : List Word64) (x y : Nat) := l.getD (x % 5 + 5 * (y % 5)) 0
  let c := (List.range 5).map (fun x => g a x 0 ^^^ g a x 1 ^^^ g a x 2 ^^^ g a x 3 ^^^ g a x 4)
  let d := (List.range 5).map (fun x => c.getD ((x + 4) % 5) 0 ^^^ (c.getD ((x + 1) % 5) 0).rotateLeft 1)
  let t := (List.range 25).map (fun i => a.getD i 0 ^^^ d.getD (i % 5) 0)
  let b := (List.range 25).map (fun i =>
    let x := i % 5
    let y := i / 5
    let sx := (x + 3 * y) % 5
    let sy := x
    (g t sx sy).rotateLeft (keccakRot.getD (sx + 5 * sy) 0))
  let e := (List.range 25).map (fun i =>
    let x := i % 5
    let y := i / 5
    g b x y ^^^ (~~~(g b (x + 1) y) &&& g b (x + 2) y))
  e.set 0 (e.getD 0 0 ^^^ rc)

/-- Keccak-f[1600]. -/
def keccakF (a : List Word64) : List Word64 := keccakRC.foldl keccakRound a

/-- A block of r lanes absorbed. -/
def absorb (r : Nat) (a : List Word64) (block : List Byte) : List Word64 :=
  keccakF ((List.range 25).map (fun i =>
    if i < r then a.getD i 0 ^^^ BitVec.ofNat 64 (leNat ((block.drop (8 * i)).take 8)) else a.getD i 0))

/-- A padded message: its suffix with the first bit of 10*1, zeros, the last bit, in blocks of n bytes. -/
def keccakPad (n : Nat) (suffix : Byte) (m : List Byte) : List Byte :=
  let r := m.length % n
  if r = n - 1 then m ++ [suffix ||| 0x80] else m ++ [suffix] ++ List.replicate (n - 2 - r) 0 ++ [0x80]

/-- The first 64 bytes that a sponge of r lanes gives for a message and a suffix. -/
def sponge (r : Nat) (suffix : Byte) (m : List Byte) : List Byte :=
  let p := keccakPad (8 * r) suffix m
  let a := (chunks (p.length / (8 * r)) (8 * r) p).foldl (absorb r) (List.replicate 25 0)
  (a.take 8).flatMap (fun w => leBytes 8 w.toNat)

/-- SHAKE256 of a message, 64 bytes: 17 lanes, suffix 1111. -/
def shake256 (m : List Byte) : List Byte := sponge 17 0x1F m

/-- SHA3-512 of a message: 9 lanes, suffix 01 (R412). -/
def sha3 (m : List Byte) : List Byte := sponge 9 0x06 m

end Sys2Proof.Machine
end

