-- ==== Sys2Proof/Machine/Finish.lean ====
section
/-! DEFINITION. The end of work: parts, descriptors, refusals, tasks, and the measurement chain (R55-R59, R106, R173, R296, R417-R419). -/

namespace Sys2Proof.Machine

/-! Fields of a descriptor (Tables 3.2, 3.3). -/

/-- OPCODE. -/
def dOp (d : Descriptor) : Nat := dfield d 0 1
/-- DFLAGS bit i. -/
def dFlag (d : Descriptor) (i : Nat) : Bool := bit d (8 + i)
/-- TAG. -/
def dTag (d : Descriptor) : BitVec 16 := BitVec.ofNat 16 (dfield d 2 2)
/-- WAIT_FLAG: none for 0xFFFF. -/
def dWait (d : Descriptor) : Option Nat := if dfield d 4 2 = 0xFFFF then none else some (dfield d 4 2)
/-- SIGNAL_FLAG: none for 0xFFFF. -/
def dSignal (d : Descriptor) : Option Nat := if dfield d 6 2 = 0xFFFF then none else some (dfield d 6 2)

/-- An executor as a source (Tables 10.8, 17.2). -/
def execWho (x : Executor) (src : Sys2Proof.Source) : Who :=
  match x with
  | .unit b => { kind := 1, id := b.toNat }
  | .press e => { kind := if e.toNat < 8 then 3 else 4, id := e.toNat }
  | .decant e => { kind := 2, id := e.toNat }
  | .scrubber => { kind := 8, id := 0 }
  | .meter => { kind := 8, id := 1 }
  | .net => { kind := 8, id := 2 }
  | .sync => { kind := 6, id := srcId src }
  | .dispatcher => { kind := 6, id := srcId src }

/-- An executor as SOURCE of a fault payload (Table 17.2). -/
def execSrc (x : Executor) : Nat :=
  match x with
  | .unit b => srcNum 1 b.toNat
  | .press e => srcNum (if e.toNat < 8 then 3 else 4) e.toNat
  | .decant e => srcNum 2 e.toNat
  | .scrubber => srcNum 8 0
  | .meter => srcNum 8 1
  | .net => srcNum 8 2
  | .sync => srcNum 8 3
  | .dispatcher => srcNum 8 4

/-- An accepted, uncompleted descriptor. -/
def activeOf (s : State) (i : Nat) : Option Active := s.active.find? (fun a => a.id == i)

/-- The completion record of a descriptor with a status and DETAIL (Table 3.14). -/
def formRecord (s : State) (src : Sys2Proof.Source) (d : Descriptor) (st : Status) (signalled : Bool) (detail : Nat) : CRec :=
  { tag := dTag d, status := st, signalled := signalled, staged := false, src := src, detail := detail, time := s.time,
    irq := dFlag d 0 }

/-- The event E of a load and the chain after it (R296, Table 11.9). -/
def measureLoad (s : State) (a : Active) : State :=
  if a.applied = 0 then s
  else
    let d := a.raw
    let digest := shake256 ((a.prog.getD []).flatMap (fun w => leBytes 8 w.toNat))
    let e := leBytes 8 (dfield d 8 8) ++ leBytes 1 (dOp d) ++ leBytes 1 (dfield d 16 1) ++ leBytes 2 (dfield d 18 2)
      ++ leBytes 2 (dfield d 20 2) ++ leBytes 2 (dfield d 2 2) ++ leBytes 2 a.applied ++ leBytes 2 a.refusedN
      ++ [0, 0, 0, 0] ++ digest
    modTen s a.ten (fun x => { x with
      tm := BitVec.ofNat 512 (leNat (shake256 (leBytes 64 x.tm.toNat ++ e))), loads := x.loads + 1 })

/-- A descriptor completes (R50, R55, R57): its signal flag, then its record, its trace event, and it is no longer held. -/
def finishDesc (s : State) (a : Active) (x : Executor) (st : Status) (detail : Nat) : State :=
  let d := a.raw
  let due := st == .ok || dFlag d 2
  let sig := due && (match dSignal d with | some f => ownsFlag s a.ten f | none => false)
  let s := if dOp d = 3 || dOp d = 6 then measureLoad s a else s
  let s := match dSignal d with
    | some f =>
      if sig then signalFlag s f a.ten (dTag d) (execWho x a.src)
      else if due then logUnowned s (execSrc x) (some (dTag d)) a.ten f
      else s
    | none => s
  let s := { s with active := s.active.filter (fun e => e.id != a.id) }
  let s := traceEv s 0x04 a.ten (execSrc x) (dTag d) st.code st.code
  if st = .ok && dFlag d 1 then settleAll s else postRecord s a.ten (formRecord s a.src d st sig detail)

/-- The status and DETAIL of a descriptor whose parts have all finished (R59, R419, Table 3.6). -/
def finalStatus (a : Active) : Status × Nat :=
  match a.low with
  | none => (.ok, a.detail)
  | some (b, st) => if dOp a.raw = 2 || dOp a.raw = 3 then (st, a.failed + 2 ^ 16 * b) else (st, a.detail)

/-- The BUID of a part, or 0. -/
def partKey (x : Executor) : Nat := match x with | .unit b => b.toNat | _ => 0

/-- A descriptor with one part's end noted: the lowest failing unit gives the status (R59). -/
def notePart (a : Active) (x : Executor) (st : Status) (detail : Nat) : Active :=
  let low := match a.low with
    | none => if st = .ok then none else some (partKey x, st)
    | some (b, t) => if st ≠ .ok ∧ partKey x < b then some (partKey x, st) else some (b, t)
  { a with toFinish := a.toFinish.erase x, failed := if st = .ok then a.failed else a.failed + 1, low := low,
           detail := if a.multi then a.detail else detail }

/-- Whether the end of an executor's part would complete its descriptor and need a record (R80). -/
def needsPlace (a : Active) (x : Executor) (st : Status) : Bool :=
  a.toEnter.isEmpty && a.toFinish == [x] && !(st == .ok && a.low.isNone && dFlag a.raw 1)

/-- One part of a descriptor ends; the last completes it (R59). -/
def finishPart (s : State) (i : Nat) (x : Executor) (st : Status) (detail : Nat) : State :=
  match activeOf s i with
  | none => s
  | some a =>
    let a := notePart a x st detail
    if a.toEnter.isEmpty && a.toFinish.isEmpty then
      let (st, detail) := finalStatus a
      finishDesc s a x st detail
    else modActive s i (fun _ => a)

/-- A queue with a descriptor taken out. -/
def unqueue (l : List Nat) (i : Nat) : List Nat := l.filter (fun j => j != i)

/-- An executor's queue, the head first. -/
def execQueue (s : State) (x : Executor) : List Nat :=
  match x with
  | .unit b => (unitOf s b.toNat).proc.queue
  | .press e => (pressOf s e.toNat).proc.queue
  | .decant e => (decantOf s e.toNat).queue
  | .scrubber => s.scrubQ
  | .net => s.netDQ
  | .meter => s.meterDQ
  | .sync => s.syncDQ
  | .dispatcher => s.dispDQ

/-- The state with an executor's queue set. -/
def setQueue (s : State) (x : Executor) (q : List Nat) : State :=
  match x with
  | .unit b => modUnit s b.toNat (fun u => { u with
      proc := { u.proc with queue := q }
      idleSince := if q.isEmpty && !u.proc.queue.isEmpty then s.ck else u.idleSince })
  | .press e => modPress s e.toNat (fun u => { u with proc := { u.proc with queue := q } })
  | .decant e => setDecant s e.toNat { decantOf s e.toNat with queue := q }
  | .scrubber => { s with scrubQ := q }
  | .net => { s with netDQ := q }
  | .meter => { s with meterDQ := q }
  | .sync => { s with syncDQ := q }
  | .dispatcher => { s with dispDQ := q }

/-- A descriptor taken out of every queue and its wait withdrawn. -/
def withdraw (s : State) (i : Nat) : State :=
  let s := dropWaits s i
  let s := (List.range 4).foldl (fun s e => if (decantOf s e).queue.contains i then
    setDecant s e { decantOf s e with queue := unqueue (decantOf s e).queue i } else s) s
  let s := (List.range 16).foldl (fun s e => if (pressOf s e).proc.queue.contains i then
    modPress s e (fun p => { p with proc := { p.proc with queue := unqueue p.proc.queue i } }) else s) s
  { s with
    units := s.units.map (fun e => if e.2.proc.queue.contains i then
      (e.1, { e.2 with proc := { e.2.proc with queue := unqueue e.2.proc.queue i } }) else e),
    scrubQ := unqueue s.scrubQ i, meterDQ := unqueue s.meterDQ i, netDQ := unqueue s.netDQ i, syncDQ := unqueue s.syncDQ i,
    dispDQ := unqueue s.dispDQ i,
    net := { s.net with remote := s.net.remote.filter (fun r => r.reply != .desc i) },
    sync := { s.sync with msgs := s.sync.msgs.map (fun m => if m.reply == .desc i then { m with reply := .none } else m) } }

/-- SOURCE of the generic payload: an executor that has a payload of its own is named by the host descriptor (Table 17.2,
log entry 31). -/
def endSrc (x : Executor) (src : Sys2Proof.Source) : Nat :=
  match x with
  | .unit _ => srcNum 6 (srcId src)
  | .press _ => srcNum 6 (srcId src)
  | .decant _ => srcNum 6 (srcId src)
  | x => execSrc x

/-- A descriptor that has not started ends with a status: its fault record, its entry and its completion (R417, Table 17.3). -/
def endDesc (s : State) (i : Nat) (st : Status) (x : Executor) (info detail : Nat) : State :=
  match activeOf s i with
  | none => s
  | some a =>
    let s := withdraw s i
    let pay := genericPayload (endSrc x a.src) (dOp a.raw) (srcId a.src) info (a.started.getD 0)
    finishDesc (reportEnd s a.ten (dTag a.raw) st pay st.faults) a x st detail

/-- The payload of a part that ends before it starts: where a fault record carries it its executor's own layout with INFO alone, else the
generic one (Tables 5.10, 9.8, 17.3, R423, log entry 31). -/
def idlePayload (x : Executor) (a : Active) (st : Status) (info : Nat) : List Byte :=
  match x, st.faults with
  | .unit _, true => leBytes 2 (execSrc x) ++ leBytes 6 0 ++ leBytes 4 info ++ leBytes 4 0
  | .press _, true => leBytes 2 (execSrc x) ++ leBytes 6 0 ++ leBytes 4 info ++ leBytes 4 0
  | x, true => genericPayload (endSrc x a.src) (dOp a.raw) (srcId a.src) info 0
  | x, false => genericPayload (execSrc x) (dOp a.raw) (srcId a.src) info 0

/-- A core's end of an earlier cycle entered before what is entered of another part of it (R426). -/
def settleExec (s : State) (x : Executor) : State :=
  match x with
  | .unit b => settleEnd s (.unit b)
  | .press e => settleEnd s (.press e)
  | _ => s

/-! The scrubber's record (R354). -/

/-- Whether a bank with counts (uncorrectable, corrected) is worse than another (Table 13.4). -/
def worse (x y : Nat × Nat × Nat) : Bool :=
  decide (y.2.1 < x.2.1) || (x.2.1 == y.2.1 && (decide (y.2.2 < x.2.2) || (x.2.2 == y.2.2 && decide (x.1 < y.1))))

/-- A bank placed in the list of the worst. -/
def insertWorse (x : Nat × Nat × Nat) (l : List (Nat × Nat × Nat)) : List (Nat × Nat × Nat) :=
  match l with
  | [] => [x]
  | y :: t => if worse x y then x :: y :: t else y :: insertWorse x t

/-- The summary record (Table 13.4). -/
def scrubSummary (s : State) (a : Active) (j : ScrubJob) (part : Bool) : List Byte :=
  let spot (x : Option (Nat × Nat × Nat)) : Nat := match x with
    | some (c, b, w) => c % 2 ^ 34 + b % 4096 * 2 ^ 34 + 2 ^ 46 * w
    | none => 0
  let worst := (j.banks.foldl (fun l e => insertWorse (e.1, e.2.1, e.2.2) l) []).take 8
  let row (x : Nat × Nat × Nat) : List Byte := leBytes 8 (x.1 + 2 ^ 15 + min 0xFFFF x.2.1 * 2 ^ 16 + min 0xFFFF x.2.2 * 2 ^ 32)
  leBytes 8 s.time ++ leBytes 8 j.scanned ++ leBytes 8 j.ce ++ leBytes 8 j.ue ++ leBytes 8 j.pr ++ leBytes 8 (spot j.first)
    ++ leBytes 8 (spot j.last) ++ leBytes 2 (dTag a.raw).toNat ++ leBytes 1 (bits a.raw (8 * 16) 6)
    ++ leBytes 1 (b2n part + 2 * b2n j.first.isNone) ++ leBytes 4 0 ++ padTo 64 (worst.flatMap row)

/-- A scrub ends: its summary leaves for RESULT_ADDR, and its descriptor completes once that is observable (R57, R354). -/
def endScrub (s : State) (a : Active) (j : ScrubJob) (st : Status) : State :=
  let s := modActive { s with scrub := none } a.id (fun x => { x with detail := min (2 ^ 32 - 1) j.ue })
  let pay := genericPayload (srcNum 8 0) (dOp a.raw) (srcId a.src) 0 (a.started.getD 0)
  let s := reportEnd s a.ten (dTag a.raw) st pay st.faults
  hostWriteIssue s a.ten (.summary a.id st) (dfield a.raw 40 8) (scrubSummary s a j (st != .ok)) []

/-- A SCRUB that has scanned nothing yet. -/
def ScrubJob.new (i : Nat) : ScrubJob :=
  { id := i, next := 0, scanned := 0, ce := 0, ue := 0, pr := 0, first := none, last := none, banks := [] }

/-- A SCRUB that a switch or a thermal halt ends before it has started: out of its queue, it leaves its record with PARTIAL = 1 over no word
and completes once that is observable (R354). The pass that runs is another's and stays. -/
def cutScrub (s : State) (a : Active) (st : Status) : State :=
  let s := withdraw s a.id
  let s := modActive s a.id (fun e => { e with wait := .none, toEnter := e.toEnter.erase .scrubber, started := some s.time })
  { endScrub s a (ScrubJob.new a.id) st with scrub := s.scrub }

/-- A part that has not started ends with a status: out of its queue, its fault record, its entry, its share of the completion. -/
def dropPart (s : State) (i : Nat) (x : Executor) (st : Status) (info : Nat) : State :=
  match activeOf s i with
  | none => s
  | some a =>
    if !a.toFinish.contains x then s
    else if x == .scrubber && (st == .thermalHalt || st == .cancelledBySwitch) then cutScrub s a st
    else
      let s := settleExec (setQueue s x (unqueue (execQueue s x) i)) x
      let s := reportEnd s a.ten (dTag a.raw) st (idlePayload x a st info) st.faults
      let s := { s with active := s.active.map (fun e => if e.id = i then { e with toEnter := e.toEnter.erase x } else e) }
      finishPart s i x st 0

/-- Every part of a descriptor that has not started ends with a status, its wait withdrawn. -/
def dropParts (s : State) (i : Nat) (st : Status) (info : Nat) : State :=
  match activeOf s i with
  | none => s
  | some a => a.toFinish.foldl (fun s x => dropPart s i x st info) (dropWaits s i)

/-- Whether a stack is halted: itself, or with the M-die (R388). -/
def stackHalted (s : State) (k : Nat) : Bool := (thmOf s k).halted || (thmOf s 8).halted

/-- Whether an executor's stack, or the M-die, is halted (R388). -/
def partHalted (s : State) (x : Executor) : Bool :=
  match x with
  | .unit b => stackHalted s (stackOf b.toNat)
  | .press e => if e.toNat < 8 then (thmOf s 8).halted else stackHalted s (e.toNat - 8)
  | .decant _ => (thmOf s 8).halted
  | .scrubber => (thmOf s 8).halted
  | _ => false

/-- The parts of a new descriptor whose executors are halted end with THERMAL_HALT (R388). -/
def haltParts (s : State) (i : Nat) : State :=
  match activeOf s i with
  | none => s
  | some a => a.toFinish.foldl (fun s x => if partHalted s x then dropPart s i x .thermalHalt 0 else s) s

/-- A descriptor refused at acceptance (R55, R419): its record with DETAIL 0, its entry at level 2, REFUSED, and SIGNAL_FLAG under
SIGERR alone. -/
def refuseDesc (s : State) (t : Nat) (src : Sys2Proof.Source) (d : Descriptor) (st : Status) : State :=
  let s := meter s t 11 1 0
  let s := traceEv s 0x02 t (srcNum 6 (srcId src)) (dTag d) st.code st.code
  let s := logEnd s t (dTag d) st true (genericPayload (srcNum 8 4) (dOp d) (srcId src) 0 0)
  let owned := match dSignal d with | some f => ownsFlag s t f | none => false
  let sig := owned && dFlag d 2
  let s := match dSignal d with
    | some f => if sig then signalFlag s f t (dTag d) { kind := 6, id := srcId src } else s
    | none => s
  postRecord s t (formRecord s src d st sig 0)

/-! Ends of tasks. -/

/-- The word at a core's program counter. -/
def fetchWord (p : Proc) : Word64 := mget 0 (p.cask p.live).words p.pc

/-- The unit fault payload of an instruction at a place, with its opcode, loop levels and beat (Table 5.10). -/
def unitPayloadAt (s : State) (b pc reason op loops beat info : Nat) : List Byte :=
  leBytes 2 (srcNum 1 b) ++ leBytes 2 pc ++ leBytes 1 reason ++ leBytes 1 op ++ leBytes 1 loops ++ leBytes 1 beat ++ leBytes 4 info
    ++ leBytes 4 (unitOf s b).spos

/-- The unit fault payload of the instruction at the program counter (Table 5.10). -/
def unitPayload (s : State) (b : Nat) (reason info : Nat) : List Byte :=
  let u := unitOf s b
  let beat := match u.proc.vec with | some v => min v.beat 0xFF | none => 0
  unitPayloadAt s b (u.proc.pc % 2048 + 2048 * b2n u.proc.live) reason (bits (fetchWord u.proc) 56 8) u.proc.loops.length beat info

/-- The press fault payload (Table 9.8): REASON, OPCODE, LOOPS, INFO and, for a PRECV that timed out, its channel. -/
def pressPayload (s : State) (e : Nat) (reason info chan : Nat) : List Byte :=
  let p := pressOf s e
  leBytes 2 (srcNum (if e < 8 then 3 else 4) e) ++ leBytes 2 (p.proc.pc % 4096 + 4096 * b2n p.proc.live) ++ leBytes 1 reason
    ++ leBytes 1 (bits (fetchWord p.proc) 56 8) ++ leBytes 1 p.proc.loops.length ++ leBytes 1 chan ++ leBytes 4 info
    ++ leBytes 4 (mget Chan.empty p.chans chan).landed.length

/-- The payload of a core's end. -/
def corePayload (s : State) (x : CoreId) (reason info chan : Nat) : List Byte :=
  match x with
  | .unit b => unitPayload s b.toNat reason info
  | .press e => pressPayload s e.toNat reason info chan

/-- A task stops: no wait, no instruction in progress, an end waiting to be reported (R106). -/
def stopTask (s : State) (x : CoreId) (e : Ending) : State :=
  let s := dropCoreWaits s x
  let s := match x with
    | .unit b =>
      let s := modUnit (ballastDrop s b.toNat) b.toNat (fun u => { u with stream := none, miss := none })
      if (unitOf s b.toNat).st = .napping then enterState s b.toNat .running else s
    | .press e => modPress s e.toNat (fun p => { p with recv := none })
  modProc s x (fun p => { p with nap := none, vec := none, ended := some e })

/-- Whether an end of a core's task with a status emits a fault record (R175, Table 17.1, log entry 112). -/
def coreFaults (x : CoreId) (st : Status) : Bool :=
  match x with
  | .unit _ => st.faults || st == .badField
  | .press _ => st.faults || st == .fetchPoison

/-- The ring index of a core's task, which is the DETAIL of FETCH_POISON (R419). -/
def taskIndex (s : State) (x : CoreId) : Nat :=
  match (procOf s x).task with
  | some t => ((activeOf s t.id).map (·.index)).getD 0
  | none => 0

/-- The generic payload of a core's task, which its end would carry where it has no fault record (Table 17.3, R423). -/
def taskPayload (s : State) (x : CoreId) (info : Nat) : List Byte :=
  match (procOf s x).task with
  | some t =>
    let src := ((activeOf s t.id).map (fun a => srcId a.src)).getD 0
    let started := ((activeOf s t.id).bind (·.started)).getD t.startT
    genericPayload (coreSrc x) (dOp t.raw) src info started
  | none => []

/-- The end of a core's task at this moment, its payload still to be entered: its own where it has a fault record, else the generic one
(R175, R423). -/
def endingOf (s : State) (x : CoreId) (st : Status) (payload : List Byte) : Ending :=
  { status := st, detail := if st = .fetchPoison then taskIndex s x else 0, ck := s.ck, time := s.time,
    report := some (coreFaults x st, if coreFaults x st then payload else taskPayload s x 0),
    order := none, wait := (procOf s x).nap.map (·.why) }

/-- The end of a task at its HALT or PHALT with a CODE (R106). -/
def haltEnd (s : State) (code : Nat) : Ending :=
  { status := .ok, detail := code, ck := s.ck, time := s.time, report := none, order := none, wait := none }

/-- A fault of the running instruction, or an end that a watchdog or an object gives the task (R173, R175): its fault record and its entry
follow when the status reaches the M-die (R106, R418, log entry 110). -/
def faultTask (s : State) (x : CoreId) (st : Status) (reason info chan : Nat) : State :=
  match (procOf s x).task, (procOf s x).ended with
  | some _, none => stopTask s x (endingOf s x st (corePayload s x reason info chan))
  | _, _ => s

/-- An end that a limit gives a task in a cycle that is over, at a module time (R174, R175). -/
def faultAt (s : State) (x : CoreId) (st : Status) (reason info chan ck time : Nat) : State :=
  match (procOf s x).task, (procOf s x).ended with
  | some _, none => stopTask s x { endingOf s x st (corePayload s x reason info chan) with ck := ck, time := time }
  | _, _ => s

/-- Whether an end comes of an instruction younger than one at a place in the program order, or of a limit, in the present cycle (R174). -/
def yieldsTo (s : State) (e : Ending) (order : Nat) : Bool :=
  e.ck == s.ck && e.report.isSome && e.status != .cancelledBySwitch && (match e.order with | some n => decide (order < n) | none => true)

/-- A fault of an older instruction of a unit, a BARR or a SEND under way: of the faults of one cycle the oldest instruction's applies
(R173-R175). -/
def faultOlder (s : State) (b : Nat) (o : Origin) (op : Nat) (st : Status) (reason info : Nat) : State :=
  let x := CoreId.unit (buid b)
  let e := endingOf s x st (unitPayloadAt s b o.pc reason op o.loops 0 info)
  match (procOf s x).task, (procOf s x).ended with
  | some _, none => stopTask s x { e with order := some o.order }
  | some _, some d => if yieldsTo s d o.order then modProc s x (fun p => { p with ended := some { e with order := some o.order } }) else s
  | _, _ => s

/-- A task whose wait a switch ends is cancelled; the cancellation comes before an end of its own of the same cycle (R174, R284, R285). -/
def cancelWait (s : State) (x : CoreId) (info : Nat) : State :=
  let e := endingOf s x .cancelledBySwitch (corePayload s x 0 info 0)
  match (procOf s x).task, (procOf s x).ended with
  | some _, none => stopTask s x e
  | some _, some d => if d.ck = s.ck then modProc s x (fun p => { p with ended := some e }) else s
  | _, _ => s

/-- What a core's task waits for, or waited for when it ended in the present cycle. -/
def waitsOn (s : State) (x : CoreId) : Option NapWhy :=
  match (procOf s x).nap, (procOf s x).ended with
  | some n, _ => some n.why
  | none, some e => if e.ck = s.ck then e.wait else none
  | none, none => none

/-- A core as the executor of descriptors. -/
def ofCore (x : CoreId) : Executor :=
  match x with
  | .unit b => .unit b
  | .press e => .press e

/-- The trace event of a unit task's end (R437). -/
def traceEnd (s : State) (x : CoreId) (t : Task) (st : Status) : State :=
  match x with
  | .unit b => traceEv s 0x06 t.ten (srcNum 1 b.toNat) t.tag st.code st.code
  | .press _ => s

/-- Whether a write of a core's work still waits to be committed and is lost with a cancellation (R106, R107, R234). -/
def losesWrites (s : State) (x : CoreId) : Bool :=
  match x with
  | .unit b => (unitOf s b.toNat).wq.any (fun q => !q.begun && !q.done)
  | .press e => (pressOf s e.toNat).hostPending != 0

/-- A task cancelled or ended at once, with no drain (R107): its part of the descriptor ends now. An end of its own of an earlier cycle
stands, but for a HALT whose writes are lost; of one of the same cycle nothing is entered (R106, R174). -/
def cancelTask (s : State) (x : CoreId) (st : Status) (reportFault : Bool) : State :=
  match (procOf s x).task with
  | some t =>
    let own := match (procOf s x).ended with
      | some e => if (e.ck < s.ck ∨ st ≠ Status.cancelledBySwitch) ∧ ¬ (e.status = Status.ok ∧ losesWrites s x = true) then some e else none
      | none => none
    let (st, det, s) := match own with
      | some e => (e.status, e.detail, noteEnd s x)
      | none => (st, 0, reportEnd s t.ten t.tag st (if reportFault then corePayload s x 0 0 0 else taskPayload s x 0) reportFault)
    let s := stopTask s x { status := st, detail := det, ck := s.ck, time := s.time, report := none, order := none, wait := none }
    let s := modProc s x (fun p => { p with task := none, ended := none })
    let s := match x with
      | .press e => modPress s e.toNat (fun p => { p with hostPending := 0 })
      | .unit _ => s
    finishPart (traceEnd s x t st) t.id (ofCore x) st det
  | none => s

end Sys2Proof.Machine
end

