-- ==== Sys2Proof/Machine/Queue.lean ====
section
/-! DEFINITION. The write queue of a unit: the words of a pair, its columns, and what an access that meets it sees (R118-R120, R226). -/

namespace Sys2Proof.Machine

/-- Word k of a pair: data, byte enables, poison. -/
def WPair.word (p : WPair) (k : Nat) : Word × Nat × Bool := (BitVec.ofNat 32 (bits p.data (32 * k) 32), bits p.en (4 * k) 4, bit p.poison k)

/-- Whether a pair supplies bytes of a column, 0 or 1. -/
def WPair.has (p : WPair) (c : Nat) : Bool := bits p.en (32 * c) 32 != 0

/-- Whether a column of a pair needs a read-modify-write. -/
def WPair.partial_ (p : WPair) (c : Nat) : Bool := (List.range 8).any (fun k => let e := bits p.en (32 * c + 4 * k) 4; e != 0 && e != 15)

/-- The reader of a unit's running task. -/
def unitReader (s : State) (b : Nat) : Reader :=
  { src := srcNum 1 b, tag := some (coreTag s (.unit (buid b))), ten := some (coreTen s (.unit (buid b))) }

/-- A column of a pair written; an end of the unit's task that is over is entered first (R426). -/
def commitColumn (s : State) (b : Nat) (p : WPair) (c : Nat) : State :=
  let s := settleEnd s (.unit (buid b))
  writeOp s (unitReader s b) (dramAddr b p.addr / 4 + 8 * c) ((List.range 8).map (fun k => p.word (8 * c + k)))

/-- The column of a pair that its next slot concerns. -/
def WPair.next (p : WPair) : Nat := if p.begun || !p.has 0 then 1 else 0

/-- Whether a pair has taken a slot that no other access to it may come between, and the bank still lacks a part of it (R119, R341). -/
def WPair.held (p : WPair) : Bool := (p.begun || p.read) && !p.done

/-- The pair of a bank that has begun to commit, or is within a read-modify-write, and covers a line. -/
def heldPair (s : State) (b o : Nat) : Option WPair := (unitOf s b).wq.find? (fun p => p.held && p.addr == o / 64 * 64)

/-- A pair held is written whole: the columns it still owed go to the bank, and its slots remain to be taken. -/
def settlePair (s : State) (b : Nat) (p : WPair) : State :=
  let s := if p.next = 0 then commitColumn s b p 0 else s
  let s := commitColumn s b p 1
  modUnit s b (fun u => { u with wq := u.wq.map (fun q => if q.held && q.addr == p.addr then { q with done := true } else q) })

/-- An access to a line comes after the pair there that is held (R119, R341). -/
def settleLine (s : State) (a : Nat) : State :=
  match heldPair s (addrBank a) (a % 2 ^ 27) with
  | some p => settlePair s (addrBank a) p
  | none => s

/-- A host read of a line comes after the write slot of a read-modify-write there (R341). -/
def closeRead (s : State) (b o : Nat) : State :=
  match heldPair s b o with
  | some p => if p.read then settlePair s b p else s
  | none => s

/-- Whether the next slot of a bank is the write slot of its unit's read-modify-write (R341). -/
def rmwOpen (s : State) (b : Nat) : Bool := match (unitOf s b).wq with | p :: _ => p.read | [] => false

end Sys2Proof.Machine
end

