-- ==== Sys2Proof/Machine/Operands.lean ====
section
/-! DEFINITION. Addresses: module addresses, the linear-pool interleave, region classes, translation, and the bytes an engine reads or
writes through a region (R25-R41, R286-R289). -/

namespace Sys2Proof.Machine

/-- The bank and bank offset of a linear-pool address: the procedure of R30. -/
def linearMap (sp ma : Nat) : Nat × Nat :=
  let l := ma - 4096 * sp
  let b := l / 256
  let k := b / 4096
  let stack := (b % 8) ^^^ (k % 8)
  let pair := (b / 8 % 8) ^^^ (k / 8 % 8)
  let bank := b / 64 % 64
  (stack * 512 + pair * 64 + bank, sp + k * 256 + l % 256)

/-- The bank and bank offset of a data address (R27, R30). -/
def maMap (sp ma : Nat) : Nat × Nat := if ma < 4096 * sp then (ma / sp, ma % sp) else linearMap sp ma

/-- The stored address of a data address. -/
def maAddr (s : State) (ma : Nat) : Nat :=
  let m := maMap (split s) ma
  dramAddr m.1 m.2

/-- The physical page that a tenancy's valid entry gives a translated page, for an access of that kind (R289). -/
def translate (s : State) (ten : Nat) (linear write : Bool) (tpage group : Nat) : Option Nat :=
  match s.xlat.find? (fun e => e.ten == ten && e.linear == linear && e.tpage == tpage &&
      (linear || (decide (e.gFirst ≤ group) && decide (group < e.gFirst + e.gCount)))) with
  | some e => if write && !e.write then none else some e.ppage
  | none => none

/-- Where a byte of a region lies: in store, out of bounds with the byte that a read returns, or without a translation. -/
inductive Loc where
  | mem (a : Nat) | oob (fill : Byte) | fault
  deriving DecidableEq, Repr

/-- FILL byte r mod 4 (R38). -/
def fillByte (r : Region) (off : Int) : Byte := BitVec.ofNat 8 (bits r.fill (8 * (off % 4).toNat) 8)

/-- The offset after the class behaviour: none is out of bounds (R38, R39). An offset below 0 in a tensor region counts as one at or above
SIZE does (DESIGN CHOICE, log entry 117). -/
def classOffset (r : Region) (off : Int) : Option Nat :=
  if r.ring then (if r.size = 0 then none else some (off % (r.size : Int)).toNat)
  else if 0 ≤ off ∧ off < (r.size : Int) then some off.toNat else none

/-- The bank that a bank index of a region names (R37): none beyond 16 × GROUP_COUNT. -/
def regionBank (r : Region) (bi : Int) : Option Nat :=
  if 0 ≤ bi ∧ bi < (16 * r.gCount : Nat) then some (16 * r.gFirst + bi.toNat) else none

/-- Where the byte at bank index bi (bank view) and offset off of a region lies for an access of its owner (R35-R40). -/
def locate (s : State) (r : Region) (write : Bool) (bi off : Int) : Loc :=
  match classOffset r off with
  | none => .oob (fillByte r off)
  | some o =>
    let a := r.base + o
    if r.linear then
      if r.xlat then
        match translate s r.owner true write (a / 2 ^ 21) 0 with
        | some p => .mem (maAddr s (2 ^ 21 * p + a % 2 ^ 21))
        | none => .fault
      else .mem (maAddr s a)
    else match regionBank r bi with
      | none => .oob (fillByte r off)
      | some b =>
        if r.xlat then
          match translate s r.owner false write (a / 2 ^ 21) (groupOf b) with
          | some p => .mem (dramAddr b (2 ^ 21 * p + a % 2 ^ 21))
          | none => .fault
        else .mem (dramAddr b a)

/-- The places of n bytes of a region from an offset. -/
def locateAll (s : State) (r : Region) (write : Bool) (bi off : Int) (n : Nat) : List Loc :=
  (List.range n).map (fun i => locate s r write bi (off + i))

/-- The status that the places of an access end it with, if any: the first byte without a translation or in a retired row. -/
def locsStatus (s : State) (ls : List Loc) : Option Status :=
  ls.findSome? (fun l => match l with
    | .fault => some .translationFault
    | .mem a => if retiredAt s a then some .retired else none
    | .oob _ => none)

/-- How many of the places are out of bounds. -/
def oobCount (ls : List Loc) : Nat := (ls.filter (fun l => match l with | .oob _ => true | _ => false)).length

/-- Out-of-bounds bytes counted in the region's counters and the owner's OOB meter (R38, Table 11.6). -/
def countOob (s : State) (n : Nat) (write : Bool) (k : Nat) : State :=
  if k = 0 then s else
  let r := regionOf s n
  let s := setRegion s n (if write then { r with oobWr := satAdd (2 ^ 32 - 1) r.oobWr k }
                          else { r with oobRd := satAdd (2 ^ 32 - 1) r.oobRd k })
  meter s r.owner 12 k 0

/-- A stored word decoded, or as an access has decoded it already: an access decodes each word once (R338, R349). -/
def readOnce (s : State) (rd : Reader) (seen : List (Nat × PWord)) (w : Nat) : PWord × State :=
  match seen.find? (fun e => e.1 == w) with
  | some e => (e.2, s)
  | none => readWord s rd w

/-- The bytes at a list of places, each stored word decoded once, given the words that the access has decoded; out-of-bounds bytes are
FILL. -/
def readLocs (s : State) (rd : Reader) (seen : List (Nat × PWord)) (ls : List Loc) : List (Byte × Bool) × State :=
  match ls with
  | [] => ([], s)
  | .mem a :: t =>
    let (v, s) := readOnce s rd seen (a / 4)
    let (r, s) := readLocs s rd ((a / 4, v) :: seen) t
    ((BitVec.ofNat 8 (bits v.val (8 * (a % 4)) 8), v.poison) :: r, s)
  | .oob f :: t =>
    let (r, s) := readLocs s rd seen t
    ((f, false) :: r, s)
  | .fault :: t =>
    let (r, s) := readLocs s rd seen t
    ((0, false) :: r, s)

/-- Bytes for places, gathered by stored word: word, data, enables, poison. -/
def gatherLocs (ls : List (Loc × Byte × Bool)) : List (Nat × Word × Nat × Bool) :=
  match ls with
  | [] => []
  | (.mem a, b, p) :: t =>
    let e := 2 ^ (a % 4)
    let d := BitVec.ofNat 32 (b.toNat * 256 ^ (a % 4))
    match gatherLocs t with
    | (w, d', e', p') :: r =>
      if w == a / 4 && !e'.testBit (a % 4) then (w, d' ||| d, e' + e, p || p') :: r
      else (a / 4, d, e, p) :: (w, d', e', p') :: r
    | [] => [(a / 4, d, e, p)]
  | _ :: t => gatherLocs t

/-- Gathered words written, each through the encoder; the answer is the first word that R342 made a marker. -/
def writeGathered (s : State) (rd : Reader) (ws : List (Nat × Word × Nat × Bool)) : Option Nat × State :=
  match ws with
  | [] => (none, s)
  | (w, d, en, p) :: t =>
    let (m, s) := writeWord s rd w d en p
    let (r, s) := writeGathered s rd t
    ((if m then some w else r), s)

/-- Bytes written at a list of places as one write operation; out-of-bounds bytes are dropped. -/
def writeLocs (s : State) (rd : Reader) (ls : List (Loc × Byte × Bool)) : State :=
  let (m, s) := writeGathered s rd (gatherLocs ls)
  match m with
  | some w => logEcc s rd 2 0x03 w 1
  | none => s

/-- An engine's access to places comes after the pairs there that have begun to commit (R119, R226). -/
def settleLocs (s : State) (ls : List Loc) : State :=
  ls.foldl (fun s l => match l with | .mem a => settleLine s a | _ => s) s

/-- Bytes of region n read by an engine: their values, or the status that ends the access. -/
def regionRead (s : State) (rd : Reader) (n : Nat) (bi off : Int) (k : Nat) : Except Status (List (Byte × Bool)) × State :=
  let ls := locateAll s (regionOf s n) false bi off k
  match locsStatus s ls with
  | some st => (.error st, s)
  | none =>
    let (r, s) := readLocs (settleLocs s ls) rd [] ls
    (.ok r, countOob s n false (oobCount ls))

/-- Bytes of region n written by an engine, or the status that ends the access. -/
def regionWrite (s : State) (rd : Reader) (n : Nat) (bi off : Int) (bs : List (Byte × Bool)) : Option Status × State :=
  let ls := locateAll s (regionOf s n) true bi off bs.length
  match locsStatus s ls with
  | some st => (some st, s)
  | none => (none, countOob (writeLocs (settleLocs s ls) rd (ls.zip bs)) n true (oobCount ls))

end Sys2Proof.Machine
end

