-- ==== Sys2Proof/Machine/Layout.lean ====
section
/-! DEFINITION. Bodies of the copy, window, scrub and send descriptors, their places and their extents (R203-R224, R232, R322). -/

namespace Sys2Proof.Machine

/-! Format codes (Table 5.6). -/

/-- Whether a format code is defined and supported (R142). -/
def fmtOk (f : Nat) : Bool := decide (f ≤ 0xA)
/-- Whether a format takes block scales from a scale array (Table 5.7). -/
def scaleArray (f : Nat) : Bool := f == 5 || f == 6 || f == 9 || f == 0xA
/-- MXFP6 codes. -/
def isFp6 (f : Nat) : Bool := f == 7 || f == 8
/-- MX codes. -/
def isMx (f : Nat) : Bool := decide (5 ≤ f) && decide (f ≤ 0xA)
/-- Half-bytes of an element: MXFP6 elements take a byte of their column's 32 (R208). -/
def nibbles (f : Nat) : Nat := if f = 0 then 8 else if f = 1 then 4 else if f = 9 then 1 else 2
/-- Whole bytes of an element of a format without sub-byte elements. -/
def fmtBytes (f : Nat) : Nat := nibbles f / 2
/-- Elements in a 32-byte column (Table 5.7). -/
def perColumn (f : Nat) : Nat := 64 / nibbles f
/-- Bytes of a contiguous run of n elements, from its first byte: for MXFP6 its whole columns (R210). -/
def runBytes (f n : Nat) : Nat := if isFp6 f then (n + 31) / 32 * 32 else (n * nibbles f + 1) / 2

/-! DECANT_COPY (Table 8.2). -/

/-- A stride: whether it moves the bank index, and its value. -/
structure Stride where
  bank : Bool
  val  : Int
  deriving DecidableEq, Repr

/-- A place in a region: bank index and byte offset. -/
structure Place where
  bank : Int
  off  : Int
  deriving DecidableEq, Repr

/-- A copy as its descriptor states it. -/
structure Copy where
  engine  : Nat
  any     : Bool
  sfmt    : Nat
  dfmt    : Nat
  padw    : Bool
  inplace : Bool
  chain   : Bool
  ndim    : Nat
  sregion : Nat
  dregion : Nat
  perm    : List Nat
  sstart  : Place
  dstart  : Place
  count   : List Nat
  pad     : List Nat
  sstr    : List Stride
  dstr    : List Stride
  delta   : Int
  deriving DecidableEq, Repr

/-- A START field: column and bank index. -/
def placeOf (v : Nat) : Place := { bank := (v / 2 ^ 34 % 2 ^ 12 : Nat), off := ((v % 2 ^ 34) * 32 : Nat) }

/-- Strides of dimensions 0 to 4 from a field of four. -/
def stridesOf (v : Nat) : List Stride :=
  { bank := false, val := 0 } ::
    (List.range 4).map (fun k =>
      let x := v / 2 ^ (20 * k) % 2 ^ 20
      { bank := x.testBit 19, val := signed 19 x })

/-- A copy read from its descriptor. -/
def copyOf (d : Descriptor) : Copy :=
  let perm := dfield d 14 2
  let cnt := dfield d 28 8
  let pad := dfield d 36 5
  { engine := bits d 64 2, any := bit d 66, sfmt := bits d 72 4, dfmt := bits d 76 4, padw := bit d 80, inplace := bit d 81,
    chain := bit d 82, ndim := bits d 88 3, sregion := bits d 96 6, dregion := bits d 104 6,
    perm := (List.range 5).map (fun k => perm / 2 ^ (3 * k) % 8),
    sstart := placeOf (dfield d 16 6), dstart := placeOf (dfield d 22 6),
    count := (List.range 5).map (fun k => cnt / 2 ^ (12 * k) % 4096 + 1),
    pad := (List.range 5).map (fun k => pad / 2 ^ (8 * k) % 256),
    sstr := stridesOf (dfield d 41 10), dstr := stridesOf (dfield d 51 10), delta := signed 24 (dfield d 61 3) }

/-- Reserved bits of the body are zero. -/
def copyReserved (d : Descriptor) : Bool :=
  bits d 67 5 == 0 && bits d 83 5 == 0 && bits d 91 5 == 0 && bits d 102 2 == 0 && bits d 110 2 == 0 && bit d 127 == false
    && bits d (8 * 16 + 46) 2 == 0 && bits d (8 * 22 + 46) 2 == 0 && bits d (8 * 28 + 60) 4 == 0

/-- COUNT of source dimension k. -/
def Copy.cnt (c : Copy) (k : Nat) : Nat := c.count.getD k 1
/-- The source dimension that becomes destination dimension k. -/
def Copy.prm (c : Copy) (k : Nat) : Nat := c.perm.getD k 0
/-- The data count of destination dimension k. -/
def Copy.vc (c : Copy) (k : Nat) : Nat := c.cnt (c.prm k)
/-- The data and padding count of destination dimension k. -/
def Copy.dc (c : Copy) (k : Nat) : Nat := c.vc k + c.pad.getD k 0
/-- Whether PERM is the identity. -/
def Copy.identity (c : Copy) : Bool := c.perm == [0, 1, 2, 3, 4]
/-- Source stride of dimension k. -/
def Copy.ss (c : Copy) (k : Nat) : Stride := c.sstr.getD k { bank := false, val := 0 }
/-- Destination stride of dimension k. -/
def Copy.ds (c : Copy) (k : Nat) : Stride := c.dstr.getD k { bank := false, val := 0 }

/-- The place of an index without its dimension-0 part (R208). -/
def outerPlace (start : Place) (str : List Stride) (x : List Nat) : Place :=
  (List.range 5).foldl (fun p k =>
    let st := str.getD k { bank := false, val := 0 }
    let n : Int := (x.getD k 0 : Nat)
    if k = 0 then p
    else if st.bank then { p with bank := p.bank + n * st.val } else { p with off := p.off + n * st.val * 32 }) start

/-! Extents (R210, R211). -/

/-- An extent: view, banks first to last, bytes from lo up to hi. -/
structure Ext where
  linear : Bool
  b0 : Int
  b1 : Int
  lo : Int
  hi : Int
  deriving DecidableEq, Repr

/-- The bounding extent of one side relative to its region. -/
def sideExt (start : Place) (str : List Stride) (n : List Nat) (run : Nat) : Ext :=
  (List.range 5).foldl (fun e k =>
    let st := str.getD k { bank := false, val := 0 }
    let m : Int := (n.getD k 1 : Nat) - 1
    if k = 0 then e
    else if st.bank then { e with b0 := e.b0 + min 0 (m * st.val), b1 := e.b1 + max 0 (m * st.val) }
    else { e with lo := e.lo + min 0 (m * st.val * 32), hi := e.hi + max 0 (m * st.val * 32) })
    { linear := false, b0 := start.bank, b1 := start.bank, lo := start.off, hi := start.off + run }

/-- A relative extent compared as named: whole window in a ring, clipped in a translated tensor, then absolute (R210, R211). -/
def absExt (r : Region) (e : Ext) : Ext :=
  let sz : Int := r.size
  let nb : Int := (16 * r.gCount : Nat)
  let e := if r.ring then (if e.lo < 0 ∨ sz < e.hi then { e with lo := 0, hi := sz } else e)
    else if r.xlat then { e with lo := max 0 (min sz e.lo), hi := max 0 (min sz e.hi), b0 := max 0 e.b0,
                                 b1 := if r.linear then e.b1 else min (nb - 1) e.b1 }
    else e
  let b : Int := if r.linear then 0 else (16 * r.gFirst : Nat)
  { linear := r.linear, b0 := e.b0 + b, b1 := e.b1 + b, lo := e.lo + r.base, hi := e.hi + r.base }

/-- Whether an extent holds no byte, as one that is clipped to nothing. -/
def Ext.empty (a : Ext) : Bool := decide (a.hi ≤ a.lo) || (!a.linear && decide (a.b1 < a.b0))

/-- Whether two extents meet (R211). -/
def Ext.meets (a b : Ext) : Bool :=
  !a.empty && !b.empty && a.linear == b.linear && decide (a.lo < b.hi) && decide (b.lo < a.hi) &&
    (a.linear || (decide (a.b0 ≤ b.b1) && decide (b.b0 ≤ a.b1)))

/-- A relative extent satisfies R35: inside a tensor region, and with bank indices below 16 × GROUP_COUNT; in a ring region only the bank
indices are judged (Table 8.4 for a copy; for a PRESS_RUN and a NET_SEND a DESIGN CHOICE, log entry 129). TRANSLATED regions are judged byte
by byte instead. -/
def extOk (r : Region) (e : Ext) : Bool :=
  if r.xlat then true
  else
    (r.linear || (decide (0 ≤ e.b0) && decide (e.b1 < (16 * r.gCount : Nat)))) &&
      (r.ring || (decide (0 ≤ e.lo) && decide (e.hi ≤ (r.size : Int))))

/-- The source extent of a copy. -/
def Copy.srcExt (c : Copy) : Ext := sideExt c.sstart c.sstr c.count (runBytes c.sfmt (c.cnt 0))
/-- Blocks of a scale-array source (R209). -/
def Copy.blocks (c : Copy) : Nat := c.cnt 4 * c.cnt 3 * c.cnt 2 * c.cnt 1 * (c.cnt 0 / 32)
/-- The extent of the source's scale bytes. -/
def Copy.scaleExt (c : Copy) : Ext :=
  let lo := c.sstart.off + c.delta * 32
  { linear := false, b0 := c.sstart.bank, b1 := c.sstart.bank, lo := lo, hi := lo + c.blocks }
/-- Whether the copy reads a scale array: an MX source converted to another format. -/
def Copy.readsScales (c : Copy) : Bool := scaleArray c.sfmt && c.sfmt != c.dfmt
/-- The valid extent of the destination. -/
def Copy.validExt (c : Copy) : Ext :=
  sideExt c.dstart c.dstr ((List.range 5).map c.vc) (runBytes c.dfmt (c.vc 0))
/-- The padded extent of the destination. -/
def Copy.paddedExt (c : Copy) : Ext :=
  sideExt c.dstart c.dstr ((List.range 5).map c.dc) (runBytes c.dfmt (c.dc 0))
/-- The destination extent (R210). -/
def Copy.dstExt (c : Copy) : Ext := if c.padw then c.paddedExt else c.validExt

/-- Every index of dimensions 1 to 4 with the given counts, dimension 1 fastest; entry 0 is 0. -/
def outerIndices (n : List Nat) : List (List Nat) :=
  (List.range (n.getD 4 1)).flatMap (fun i4 => (List.range (n.getD 3 1)).flatMap (fun i3 =>
    (List.range (n.getD 2 1)).flatMap (fun i2 => (List.range (n.getD 1 1)).map (fun i1 => [0, i1, i2, i3, i4]))))

/-- No two of a list of extents meet. -/
def pairwiseApart (l : List Ext) : Bool :=
  match l with
  | [] => true
  | e :: t => t.all (fun x => !e.meets x) && pairwiseApart t

/-- The conditions of an in-place transpose (R219); in a TRANSLATED tensor region the tiles' extents are clipped to the region first
(R210). An entry that is not valid is judged by the fields it stores, so BAD_FIELD may come before RANGE (DESIGN CHOICE, log entry 115). -/
def inplaceOk (s : State) (c : Copy) : Bool :=
  let z := fmtBytes c.sfmt
  let r := regionOf s c.sregion
  let tile (i2 i3 i4 : Nat) : Ext :=
    let p := outerPlace c.sstart c.sstr [0, 0, i2, i3, i4]
    let e := sideExt p [c.ss 0, c.ss 1] [c.cnt 0, c.cnt 1] (runBytes c.sfmt (c.cnt 0))
    absExt r e
  c.perm == [1, 0, 2, 3, 4] && c.cnt 0 == c.cnt 1 && decide (c.cnt 0 ≤ 64) && c.pad.getD 0 0 == 0 && c.pad.getD 1 0 == 0
    && c.sfmt == c.dfmt && decide (c.sfmt ≤ 4) && c.sregion == c.dregion && !r.linear && c.sstart == c.dstart
    && c.ss 1 == c.ds 1 && !(c.ss 1).bank && decide (((c.cnt 0 * z : Nat) : Int) ≤ (c.ss 1).val * 32)
    && c.ss 2 == c.ds 2 && c.ss 3 == c.ds 3 && c.ss 4 == c.ds 4 && !c.padw
    && pairwiseApart ((outerIndices [1, 1, c.cnt 2, c.cnt 3, c.cnt 4]).map (fun x => tile (x.getD 2 0) (x.getD 3 0) (x.getD 4 0)))

/-- Allowed format pairs (Table 8.3). -/
def fmtPairOk (c : Copy) : Bool :=
  if decide (c.sfmt ≤ 4) && decide (c.dfmt ≤ 4) then true
  else if isMx c.sfmt && decide (c.dfmt ≤ 4) then c.cnt 0 % 32 == 0
  else if isMx c.sfmt && c.dfmt == c.sfmt then
    c.identity && c.pad.getD 0 0 == 0 && c.cnt 0 % (if c.sfmt = 9 then 64 else 32) == 0
  else false

/-- Whether the fields of one dimension beyond NDIM are idle (R206 case 2). -/
def idleDim (c : Copy) (k : Nat) : Bool :=
  c.cnt k == 1 && c.pad.getD k 0 == 0 && c.ss k == { bank := false, val := 0 } && c.ds k == { bank := false, val := 0 }
    && c.prm k == k

/-- The field checks of a copy (R206, R207); the member count of its batch is judged by the caller. -/
def copyFields (s : State) (d : Descriptor) : Bool :=
  let c := copyOf d
  let sr := regionOf s c.sregion
  let dr := regionOf s c.dregion
  let banked (r : Region) (p : Place) (str : List Stride) := r.linear && r.valid && (p.bank != 0 || str.any (·.bank))
  copyReserved d && !(c.any && c.engine != 0)
    && decide (1 ≤ c.ndim) && decide (c.ndim ≤ 5)
    && (List.range 5).all (fun k => decide (k < c.ndim) || idleDim c k)
    && (List.range c.ndim).all (fun k => c.perm.take c.ndim |>.contains k)
    && fmtOk c.sfmt && fmtOk c.dfmt && fmtPairOk c
    && !banked sr c.sstart c.sstr && !banked dr c.dstart c.dstr
    && (scaleArray c.sfmt || c.delta == 0)
    && !(scaleArray c.sfmt && c.sstr.any (·.bank))
    && (!c.inplace || inplaceOk s c)

/-- Source and destination of a permuting copy meet (R215, R216). -/
def copyOverlaps (s : State) (c : Copy) : Bool :=
  let sr := regionOf s c.sregion
  let de := absExt (regionOf s c.dregion) c.dstExt
  !c.identity && !c.inplace && ((absExt sr c.srcExt).meets de || (c.readsScales && (absExt sr c.scaleExt).meets de))

/-- Whether a copy's source and destination extents meet. -/
def extentsMeet (s : State) (c : Copy) : Bool :=
  let sr := regionOf s c.sregion
  let de := absExt (regionOf s c.dregion) c.dstExt
  (absExt sr c.srcExt).meets de || (c.readsScales && (absExt sr c.scaleExt).meets de)

/-- The extents that the dispatcher keeps of a batch member (R222). -/
def batchRec (s : State) (c : Copy) : BatchRec :=
  let r := regionOf s c.dregion
  let v := absExt r c.validExt
  let p := absExt r c.paddedExt
  { padw := c.padw, linear := r.linear, vb0 := v.b0, vb1 := v.b1, vlo := v.lo, vhi := v.hi, pb0 := p.b0, pb1 := p.b1,
    plo := p.lo, phi := p.hi }

/-- The valid extent kept. -/
def BatchRec.valid (b : BatchRec) : Ext := { linear := b.linear, b0 := b.vb0, b1 := b.vb1, lo := b.vlo, hi := b.vhi }
/-- The padded extent kept. -/
def BatchRec.padded (b : BatchRec) : Ext := { linear := b.linear, b0 := b.pb0, b1 := b.pb1, lo := b.plo, hi := b.phi }

/-- A new member conflicts with an earlier one (R222). -/
def padConflict (new old : BatchRec) : Bool :=
  (new.padw && new.padded.meets old.valid) || (old.padw && old.padded.meets new.valid)

/-! Windows (Table 9.3). -/

/-- A window of a PRESS_RUN. -/
structure Window where
  used   : Bool
  host   : Bool
  region : Nat
  start  : Nat
  banks  : Nat
  length : Nat
  deriving DecidableEq, Repr

/-- Window 0 or 1 of a PRESS_RUN. -/
def windowOf (d : Descriptor) (w : Nat) : Window :=
  let o := 36 + 13 * w
  { used := dfield d (o + 9) 4 != 0, host := bit d (8 * o + 7), region := bits d (8 * o) 6, start := dfield d (o + 1) 6,
    banks := bits d (8 * (o + 7)) 13, length := dfield d (o + 9) 4 }

/-- The first bank index of a window. -/
def Window.bank (w : Window) : Nat := w.start / 2 ^ 34 % 2 ^ 12
/-- The byte offset of a window in its region. -/
def Window.off (w : Window) : Nat := w.start % 2 ^ 34 * 32

/-- Field checks of a window. A host window has no region and a linear-view one no bank: their fields must be 0 (DESIGN CHOICE, log
entry 116). -/
def windowFields (s : State) (d : Descriptor) (w : Nat) : Bool :=
  let o := 36 + 13 * w
  let x := windowOf d w
  if !x.used then bits d (8 * o) (8 * 13) == 0
  else bit d (8 * o + 6) == false && bits d (8 * (o + 7) + 13) 3 == 0 && x.length % 32 == 0 && decide (1 ≤ x.banks) && decide (x.banks ≤ 4096)
    && (if x.host then x.start % 64 == 0 && x.banks == 1 && x.region == 0
        else bits d (8 * (o + 1) + 46) 2 == 0 && !((regionOf s x.region).valid && (regionOf s x.region).linear && (x.banks != 1 || x.bank != 0)))

/-- The extent of a window relative to its region (R233). -/
def Window.ext (w : Window) : Ext :=
  { linear := false, b0 := w.bank, b1 := w.bank + w.banks - 1, lo := w.off, hi := w.off + w.length }

/-- The extent of a span of one bank index, for SCRUB, NET_SEND and programs. -/
def spanExt (bank lo len : Nat) : Ext := { linear := false, b0 := bank, b1 := bank, lo := lo, hi := lo + len }

end Sys2Proof.Machine
end

