-- ==== Sys2Proof/Machine/Accept.lean ====
section
/-! DEFINITION. Acceptance: the checks of R54 in order for every opcode, routing to executors, and the acceptance commands. -/

namespace Sys2Proof.Machine

/-- Bytes i to i + n - 1 of a descriptor are zero. -/
def zeroBytes (d : Descriptor) (i n : Nat) : Bool := dfield d i n == 0

/-- Whether an object is in transit (R281): kind of Table 18.7 and index. -/
def inTransit (s : State) (kind index : Nat) : Bool := s.switches.any (fun w => w.kind == kind && w.index == index)

/-- Whether a group is owned by a tenancy and not in transit. -/
def groupUsable (s : State) (t g : Nat) : Bool := ownsGroup s t g && !inTransit s 0 g
/-- Whether a flag's block is owned and not in transit. -/
def flagUsable (s : State) (t f : Nat) : Bool := ownsFlag s t f && !inTransit s 1 (f / 256)
/-- Whether a barrier is owned and not in transit. -/
def barrierUsable (s : State) (t n : Nat) : Bool := mget none s.barOwner n == some t && !inTransit s 2 n
/-- Whether a press is owned and not in transit. -/
def pressUsable (s : State) (t e : Nat) : Bool :=
  mget none s.pressOwner e == some t && !(if e < 8 then inTransit s 3 e else inTransit s 4 (e - 8))
/-- A region entry is invalid, or owned by the tenancy (R54 check 3). -/
def regionOwned (s : State) (t n : Nat) : Bool := !(regionOf s n).valid || (regionOf s n).owner == t

/-! Targets of bank-unit opcodes (R58). -/

/-- SCOPE of a target word. -/
def tScope (d : Descriptor) : Nat := dfield d 10 1
/-- BUID of a target word. -/
def tBuid (d : Descriptor) : Nat := bits d 64 12
/-- The groups that a target word names. -/
def tGroups (s : State) (t : Nat) (d : Descriptor) : List Nat :=
  if tScope d ≤ 1 then [groupOf (tBuid d)]
  else if tScope d = 2 then (List.range (bits d 96 9)).map (fun i => dfield d 11 1 + i)
  else (List.range 256).filter (fun g => groupUsable s t g)
/-- The units that a descriptor targets: those outside the available-unit mask are skipped but for SCOPE 0. -/
def tUnits (s : State) (t : Nat) (d : Descriptor) : List Nat :=
  if tScope d = 0 then [tBuid d]
  else (tGroups s t d).flatMap (fun g => ((List.range 16).map (fun i => 16 * g + i)).filter (available s))

/-- The fields of a target word. -/
def targetFields (d : Descriptor) : Bool :=
  bits d (8 * 8 + 12) 4 == 0 && decide (tScope d ≤ 3) && bits d (8 * 12 + 9) 7 == 0 && zeroBytes d 14 2
    && (if tScope d ≤ 1 then zeroBytes d 11 3
        else tBuid d == 0 && (if tScope d = 2 then
            decide (1 ≤ bits d 96 9) && decide (bits d 96 9 ≤ 256) && decide (dfield d 11 1 + bits d 96 9 ≤ 256)
          else zeroBytes d 11 3))

/-- Words of a press's cask (Table 9.1). -/
def pressCask (e : Nat) : Nat := if e < 8 then 4096 else 1024

/-- The fields that BU_LOAD and PRESS_LOAD share: CASK, SOURCE, REGION, ADDR (Tables 3.8, 3.10). -/
def loadFields (d : Descriptor) : Bool :=
  decide (dfield d 16 1 ≤ 2) && decide (dfield d 17 1 ≤ 1) && bits d (8 * 22 + 6) 2 == 0
    && (dfield d 17 1 == 1 || dfield d 22 1 == 0) && zeroBytes d 23 1 && dfield d 24 8 % 8 == 0 && zeroBytes d 32 32

/-- Check 2 of R54: reserved fields are zero and every field lies within its stated values. A sixteenth member of a batch with CHAIN = 1 is
refused in TRANSLATED mode too, where R223 gives CHAIN no effect and Table 8.4 makes the check (the model's choice, log entry 137). -/
def fieldsOk (s : State) (t : Nat) (src : Sys2Proof.Source) (d : Descriptor) : Bool :=
  bits d 13 3 == 0 &&
  match dOp d with
  | 0x01 => !dFlag d 4 && zeroBytes d 8 56
  | 0x0B => !dFlag d 4 && zeroBytes d 8 56
  | 0x02 => targetFields d && decide (dfield d 16 1 ≤ 1) && zeroBytes d 17 1 && bits d (8 * 18 + 11) 5 == 0 && zeroBytes d 56 8
  | 0x03 => !dFlag d 4 && targetFields d && loadFields d && bits d (8 * 18 + 11) 5 == 0 && bits d (8 * 20 + 12) 4 == 0
      && decide (1 ≤ dfield d 20 2) && decide (dfield d 20 2 ≤ 2048) && decide (dfield d 18 2 + dfield d 20 2 ≤ 2048)
  | 0x04 => copyFields s d &&
      !((copyOf d).chain && decide (15 ≤ ((s.batches.find? (fun b => b.ten == t && b.src == src)).map (·.n)).getD 0))
  | 0x05 => bits d 68 4 == 0 && decide (dfield d 9 1 ≤ 1) && bits d (8 * 10 + 12) 4 == 0 && decide (dfield d 16 4 ≤ 10000000)
      && windowFields s d 0 && windowFields s d 1 && zeroBytes d 62 2
  | 0x06 => !dFlag d 4 && bits d 68 4 == 0 && zeroBytes d 9 7 && loadFields d && decide (1 ≤ dfield d 20 2)
      && decide (dfield d 18 2 + dfield d 20 2 ≤ pressCask (bits d 64 4))
  | 0x07 => !dFlag d 4 && zeroBytes d 8 8 && zeroBytes d 18 46
  | 0x08 => !dFlag d 4 && zeroBytes d 8 8 && zeroBytes d 18 46
  | 0x09 => !dFlag d 4 && zeroBytes d 8 8 && decide (dfield d 18 1 ≤ 1) && bits d (8 * 19 + 4) 4 == 0 && zeroBytes d 24 40
  | 0x0A => !dFlag d 4 && zeroBytes d 8 8 && bits d (8 * 16 + 10) 6 == 0 && decide (dfield d 20 4 ≤ 10000000)
      && dfield d 24 32 != 0 && (dfield d 56 8 == 0 || s.net.pod == .member || s.net.pod == .managing)
  | 0x0C => !dFlag d 4 && zeroBytes d 8 8 && bits d (8 * 16 + 6) 2 == 0 && zeroBytes d 17 7 && dfield d 24 8 % 32 == 0
      && dfield d 32 8 % 32 == 0 && decide (32 ≤ dfield d 32 8) && dfield d 40 8 % 64 == 0 && zeroBytes d 48 16
  | 0x0D => !dFlag d 4 && bits d 70 2 == 0 && decide (dfield d 9 1 ≤ 1) && decide (dfield d 10 1 ≤ 1) && zeroBytes d 11 1
      && (dfield d 10 1 == 1 || dfield d 12 2 == 0) && bits d (8 * 14 + 6) 2 == 0 && bits d (8 * 15 + 6) 2 == 0
      && bits d (8 * 16 + 46) 2 == 0 && bits d (8 * 22 + 46) 2 == 0 && dfield d 28 4 % 32 == 0 && decide (32 ≤ dfield d 28 4)
      && decide (dfield d 28 4 ≤ 2 ^ 26) && zeroBytes d 32 32 && bits d 64 6 != selfMember s
  | 0x0E => !dFlag d 4 && zeroBytes d 8 8 && dfield d 16 8 % 64 == 0 && zeroBytes d 24 40
  | _ => false

/-- The flags that a descriptor names on this module, in its header or its body (R53). -/
def namedFlags (d : Descriptor) : List Nat :=
  (dWait d).toList ++ (dSignal d).toList ++
    match dOp d with
    | 0x07 => [dfield d 16 2] | 0x08 => [dfield d 16 2] | 0x09 => [dfield d 16 2] | 0x0A => [dfield d 18 2]
    | _ => []

/-- The groups of a BARRIER_INIT. -/
def initGroups (d : Descriptor) : List Nat := (List.range 256).filter (fun g => bit d (8 * 24 + g))

/-- The regions that a descriptor names on this module (R33, R35). -/
def namedRegions (d : Descriptor) : List Nat :=
  match dOp d with
  | 0x03 => if dfield d 17 1 = 1 then [bits d (8 * 22) 6] else []
  | 0x06 => if dfield d 17 1 = 1 then [bits d (8 * 22) 6] else []
  | 0x04 => [(copyOf d).sregion, (copyOf d).dregion]
  | 0x05 => ((List.range 2).map (windowOf d)).filterMap (fun w => if w.used && !w.host then some w.region else none)
  | 0x0C => [bits d (8 * 16) 6]
  | 0x0D => [bits d (8 * 14) 6]
  | _ => []

/-- Check 3 of R54: everything the descriptor names is owned by the tenancy. -/
def ownedOk (s : State) (t : Nat) (d : Descriptor) : Bool :=
  (namedFlags d).all (flagUsable s t) && (namedRegions d).all (regionOwned s t) &&
  match dOp d with
  | 0x02 => (tGroups s t d).all (groupUsable s t)
  | 0x03 => (tGroups s t d).all (groupUsable s t)
  | 0x05 => pressUsable s t (bits d 64 4)
  | 0x06 => pressUsable s t (bits d 64 4)
  | 0x0A => barrierUsable s t (bits d (8 * 16) 10) && (initGroups d).all (groupUsable s t)
  | _ => true

/-- Whether every bank of a window lies in a stack (R233). -/
def windowInStack (s : State) (w : Window) (k : Nat) : Bool :=
  let r := regionOf s w.region
  !w.host && !r.linear && stackOf (16 * r.gFirst + w.bank) == k && stackOf (16 * r.gFirst + w.bank + w.banks - 1) == k

/-- Check 4 of R54: every named region is valid and of the view required, and every declared extent satisfies R35. -/
def rangesOk (s : State) (d : Descriptor) : Bool :=
  (namedRegions d).all (fun n => (regionOf s n).valid) &&
  let prog := dfield d 17 1 == 0 ||
    (let r := regionOf s (bits d (8 * 22) 6)
     r.linear && extOk r (spanExt 0 (dfield d 24 8) (8 * dfield d 20 2)))
  match dOp d with
  | 0x03 => prog
  | 0x06 => prog
  | 0x04 =>
    let c := copyOf d
    let sr := regionOf s c.sregion
    extOk sr c.srcExt && (!c.readsScales || extOk sr c.scaleExt) && extOk (regionOf s c.dregion) c.dstExt
  | 0x05 =>
    let e := bits d 64 4
    ((List.range 2).map (windowOf d)).all (fun w => !w.used ||
      ((w.host || extOk (regionOf s w.region) w.ext) && (decide (e < 8) || windowInStack s w (e - 8))))
  | 0x0C =>
    let r := regionOf s (bits d (8 * 16) 6)
    extOk r (spanExt 0 (dfield d 24 8) (dfield d 32 8))
  | 0x0D =>
    let p := placeOf (dfield d 16 6)
    extOk (regionOf s (bits d (8 * 14) 6)) (spanExt p.bank.toNat p.off.toNat (dfield d 28 4))
  | _ => true

/-- Check 5 of R54: the copy checks. -/
def copyStatus (s : State) (t : Nat) (src : Sys2Proof.Source) (d : Descriptor) : Option Status :=
  if dOp d ≠ 4 then none
  else
    let c := copyOf d
    if copyOverlaps s c then some .overlap
    else if !(tenOf s t).xlat &&
        (match s.batches.find? (fun b => b.ten == t && b.src == src) with
         | some b => b.recs.any (padConflict (batchRec s c))
         | none => false) then some .padConflict
    else none

/-- Check 6 of R54 and R58: units remain in the available-unit mask. -/
def unitsOk (s : State) (t : Nat) (d : Descriptor) : Bool :=
  match dOp d with
  | 0x02 => !(tUnits s t d).isEmpty && (tScope d != 0 || available s (tBuid d))
  | 0x03 => !(tUnits s t d).isEmpty && (tScope d != 0 || available s (tBuid d))
  | 0x0A => (initGroups d).any (fun g => (List.range 16).any (fun i => available s (16 * g + i)))
  | _ => true

/-- Whether OPCODE is valid on this module (R51, R2). -/
def opcodeOk (s : State) (op : Nat) : Bool := decide (1 ≤ op) && decide (op ≤ 14) && !(op == 0x0D && s.variant == .rl512H)

/-- The status that acceptance gives: none accepts (R54, R245, R322). -/
def acceptStatus (s : State) (t : Nat) (src : Sys2Proof.Source) (d : Descriptor) : Option Status :=
  if !opcodeOk s (dOp d) then some .badOpcode
  else if !fieldsOk s t src d then some .badField
  else if !ownedOk s t d then some .notOwner
  else if (namedFlags d).any (fun f => !homeReached s f) then some .peerUnreachable
  else if !rangesOk s d then some .range
  else match copyStatus s t src d with
    | some st => some st
    | none =>
      if !unitsOk s t d then some .retired
      else if dOp d = 0x0D && !reachable s (bits d 64 6) then some .peerUnreachable
      else none

/-! Executors. -/

/-- The power domain of an executor (R367). -/
def execDomain (x : Executor) : Option Nat :=
  match x with
  | .unit b => some (groupOf b.toNat)
  | .press e => if e.toNat < 8 then some (256 + e.toNat) else none
  | .decant e => some (264 + e.toNat)
  | _ => none

/-- Whether an executor's domain is ON, or it has none. -/
def domainOn (s : State) (x : Executor) : Bool :=
  match execDomain x with
  | some d => (domOf s d).st == .on
  | none => true

/-- Whether an executor's queue has room (Table 1.6). -/
def execRoom (s : State) (x : Executor) : Bool :=
  match x with
  | .unit _ => decide ((execQueue s x).length < 4)
  | .press _ => decide ((execQueue s x).length < 4)
  | .decant _ => decide ((execQueue s x).length < 8)
  | _ => true

/-- The decant engine that ANY chooses: among those whose domain is ON the one with the fewest queued descriptors, the lowest of equals
(R62, R229, log entry 24). -/
def anyEngine (s : State) : Option Nat :=
  (List.range 4).foldl (fun best e =>
    if domainOn s (.decant (BitVec.ofNat 2 e)) then
      match best with
      | none => some e
      | some b => if (decantOf s e).queue.length < (decantOf s b).queue.length then some e else some b
    else best) none

/-- The executors of a descriptor (Table 3.4). -/
def executorsOf (s : State) (t : Nat) (d : Descriptor) : List Executor :=
  match dOp d with
  | 0x02 => (tUnits s t d).map (fun b => .unit (buid b))
  | 0x03 => (tUnits s t d).map (fun b => .unit (buid b))
  | 0x04 => [.decant (BitVec.ofNat 2 (if (copyOf d).any then (anyEngine s).getD 0 else (copyOf d).engine))]
  | 0x05 => [.press (eng (bits d 64 4))]
  | 0x06 => [.press (eng (bits d 64 4))]
  | 0x07 => [.sync] | 0x08 => [.sync] | 0x09 => [.sync] | 0x0A => [.sync]
  | 0x0C => [.scrubber]
  | 0x0D => [.net]
  | 0x0E => [.meter]
  | _ => [.dispatcher]

/-- A load, whose program is fetched before its parts are sent (R61, R348). -/
def isLoad (d : Descriptor) : Bool := dOp d == 3 || dOp d == 6

/-- Whether an executor of owned work is in transit between tenancies: dispatch to it is closed (R281, R282). -/
def execInTransit (s : State) (x : Executor) : Bool :=
  match x with
  | .unit b => inTransit s 0 (groupOf b.toNat)
  | .press e => if e.toNat < 8 then inTransit s 3 e.toNat else inTransit s 4 (e.toNat - 8)
  | _ => false

/-- Whether a part may enter an executor's queue: its program is there, the domain is ON, dispatch is open, there is room, and no earlier
descriptor of its source waits for that queue (R73, R282). -/
def mayEnter (s : State) (a : Active) (x : Executor) : Bool :=
  a.placed && a.toEnter.contains x && (!isLoad a.raw || a.prog.isSome) && domainOn s x && !execInTransit s x && execRoom s x &&
    s.active.all (fun e => !(e.ten == a.ten && e.src == a.src && decide (e.id < a.id) && e.toEnter.contains x))

/-- A part enters an executor's queue. -/
def enterPart (s : State) (a : Active) (x : Executor) : State :=
  modActive (setQueue s x (execQueue s x ++ [a.id])) a.id (fun a => { a with toEnter := a.toEnter.erase x })

/-- Every part of a descriptor that may enter its queue does so. -/
def enterAll (s : State) (i : Nat) : State :=
  match activeOf s i with
  | none => s
  | some a => a.toEnter.foldl (fun s x =>
      match activeOf s i with
      | some a => if mayEnter s a x then enterPart s a x else s
      | none => s) s

/-- Whether a part waits for its executor's domain: it has not entered a queue, or it lies in the queue of an engine that is not ON; a copy
with ANY that has no engine waits while none is ON (R100, R229, R370). -/
def waitsDomain (s : State) (a : Active) (x : Executor) : Bool :=
  if !a.placed then (anyEngine s).isNone else !domainOn s x && (a.toEnter.contains x || (match x with
    | .press _ => (execQueue s x).contains a.id
    | .decant _ => (execQueue s x).contains a.id
    | _ => false))

/-- A descriptor held because its executor's domain is not ON starts its count (R56, R100, R229). -/
def markDomainWait (s : State) (i : Nat) : State :=
  modActive s i (fun a => if a.domSince.isNone && a.toFinish.any (waitsDomain s a) then { a with domSince := some s.elapsed } else a)

/-- The read of host memory that fetches a load's program: address and bytes (R61, R63). -/
def programRead (d : Descriptor) : Option (Nat × Nat) :=
  if isLoad d && dfield d 17 1 == 0 then some (dfield d 24 8, 8 * dfield d 20 2) else none

/-- A descriptor accepted: its trace event, its meter, its place among the active descriptors and in its executor's queue. -/
def acceptDesc (s : State) (t : Nat) (src : Sys2Proof.Source) (index : Nat) (d : Descriptor) : State :=
  let (i, s) := newId s
  let xs := executorsOf s t d
  let owned := xs.any (fun x => match x with | .unit _ => true | .press _ => true | _ => false)
  let a : Active :=
    { id := i, ten := t, src := src, index := index, raw := d, wait := if (dWait d).isSome then .waiting else .none, toEnter := xs, toFinish := xs,
      multi := (dOp d == 2 || dOp d == 3) && tScope d != 0, failed := 0, low := none, detail := 0, started := none, domSince := none,
      fetchAt := if isLoad d then some s.elapsed else none, prog := none, applied := 0, refusedN := 0, reserved := !owned,
      placed := !(dOp d == 4 && (copyOf d).any) || (anyEngine s).isSome, answered := false, recordOut := false }
  let s := meter (traceEv s 0x01 t (srcNum 6 (srcId src)) (dTag d) 0 0) t 10 1 0
  let s := match programRead d with
    | some (addr, n) => emit s (.hostRead addr n)
    | none => s
  enterAll (markDomainWait (haltParts { s with active := s.active ++ [a] } i) i) i

/-- The batch of a source after one more descriptor: a member that is refused counts, but leaves no extents (R221). -/
def stepBatch (s : State) (t : Nat) (src : Sys2Proof.Source) (d : Descriptor) (accepted : Bool) : State :=
  let others := s.batches.filter (fun b => !(b.ten == t && b.src == src))
  if dOp d = 4 ∧ (copyOf d).chain then
    let old := (s.batches.find? (fun b => b.ten == t && b.src == src)).getD { ten := t, src := src, n := 0, recs := [] }
    let b := { old with n := old.n + 1, recs := if accepted then old.recs ++ [batchRec s (copyOf d)] else old.recs }
    { s with batches := others ++ [b] }
  else { s with batches := others }

/-- The descriptor at the head of a source: the oldest fetched one of a ring, or the one a slot holds. -/
def headOf (s : State) (t : Nat) (src : Sys2Proof.Source) : Option Descriptor :=
  match src with
  | .ring _ => (s.fetched.find? (fun f => f.ten == t && f.src == src)).map (·.raw)
  | .slot k => mget none (tenOf s t).slots k.toNat

/-- The ring index of the head of a source: 0 of a slot. -/
def headIndex (s : State) (t : Nat) (src : Sys2Proof.Source) : Nat :=
  match src with
  | .ring _ => ((s.fetched.find? (fun f => f.ten == t && f.src == src)).map (fun f => f.index.toNat)).getD 0
  | .slot _ => 0

/-- The head descriptor leaves its source: a slot is free again (R76). -/
def takeHead (s : State) (t : Nat) (src : Sys2Proof.Source) : State :=
  match src with
  | .ring _ => { s with fetched := (takeFirst (fun f => f.ten == t && f.src == src) s.fetched).2 }
  | .slot k => modTen s t (fun x => { x with slots := mset none x.slots k.toNat none })

/-- Uncompleted descriptors of a source. -/
def outstanding (s : State) (t : Nat) (src : Sys2Proof.Source) : List Active :=
  s.active.filter (fun a => a.ten == t && a.src == src)

/-- Entries of the M-die queue that a tenancy holds: fetched, being fetched, and accepted but not yet in an executor's queue (R71). -/
def queueHeld (s : State) (t : Nat) : Nat :=
  (s.fetched.filter (fun f => f.ten == t)).length + ((s.fetches.filter (fun f => f.ten == t)).map (·.count)).sum
    + (s.active.filter (fun a => a.ten == t && !a.toEnter.isEmpty)).length

/-- The room of a tenancy in the M-die queue of 4096: at most 512, 8 reserved for each tenancy, the rest shared (R71). -/
def queueRoom (s : State) (t : Nat) : Nat :=
  let ex := existing s
  let held := queueHeld s t
  let shared := 4096 - 8 * ex.length
  let used := (ex.map (fun u => queueHeld s u - 8)).sum
  min (512 - held) ((8 - min 8 held) + (shared - used))

/-- Whether the dispatcher may take the head of a source now: not behind a FENCE, a FENCE itself only when nothing earlier is
uncompleted (R91), with a place for its record (R81), and for a slot with room in the queue (R76). -/
def mayTake (s : State) (t : Nat) (src : Sys2Proof.Source) (d : Descriptor) : Bool :=
  (tenOf s t).enabled && (outstanding s t src).all (fun a => dOp a.raw != 0x0B)
    && (dOp d != 0x0B || (outstanding s t src).isEmpty) && canPlace s t
    && (match src with | .slot _ => decide (0 < queueRoom s t) | .ring _ => true)

/-- Whether the head of a source is ready for the dispatcher. -/
def headReady (s : State) (t : Nat) (src : Sys2Proof.Source) : Bool :=
  match headOf s t src with
  | some d => mayTake s t src d
  | none => false

/-- The sources of a tenancy in the order in which the dispatcher looks at them: slots in slot order, then rings in round-robin order
(R72). -/
def sourceOrder (s : State) (t : Nat) : List Sys2Proof.Source :=
  (List.range 16).map (fun k => .slot (BitVec.ofNat 4 k)) ++
    (List.range 4).map (fun i => .ring (BitVec.ofNat 2 ((tenOf s t).ringLast + 1 + i)))

/-- The tenancies in round-robin order, from the one after the last served (R72). -/
def tenOrder (s : State) : List Nat :=
  (existing s).filter (fun t => decide (s.dispLast < t)) ++ (existing s).filter (fun t => decide (t ≤ s.dispLast))

/-- The source whose head the dispatcher takes next (R72). -/
def nextSource (s : State) : Option (Nat × Sys2Proof.Source) :=
  (tenOrder s).findSome? (fun t => ((sourceOrder s t).find? (headReady s t)).map (fun x => (t, x)))

/-- A turn of the dispatcher goes to a source: one descriptor in a ck cycle (R72). -/
def takeTurn (s : State) (t : Nat) (src : Sys2Proof.Source) : State :=
  let s := if s.dispCk = some s.ck then tick s else s
  let s := { s with dispLast := t, dispCk := some s.ck }
  match src with
  | .ring k => modTen s t (fun x => { x with ringLast := k.toNat })
  | .slot _ => s

/-- The head of a source judged and taken, if it is this source's turn and its OPCODE is one that the command names (R72). -/
def judgeHead (s : State) (ten : BitVec 8) (src : Sys2Proof.Source) (op : Nat → Bool) : State :=
  let t := ten.toNat
  match headOf s t src with
  | none => s
  | some d =>
    if op (dOp d) && nextSource s == some (t, src) then
      let i := headIndex s t src
      let s := takeTurn s t src
      match acceptStatus s t src d with
      | some st => refuseDesc (stepBatch (takeHead s t src) t src d false) t src d st
      | none => acceptDesc (stepBatch (takeHead s t src) t src d true) t src i d
    else s

/-- NOP accepted or refused (R54, R65). -/
def execNop (ten : BitVec 8) (src : Sys2Proof.Source) (s : State) : Host.Outcome State Fault Refusal :=
  .next (judgeHead s ten src (· == 0x01))
/-- BU_RUN accepted and routed, or refused (R54, R58, R60). -/
def execBuRun (ten : BitVec 8) (src : Sys2Proof.Source) (s : State) : Host.Outcome State Fault Refusal :=
  .next (judgeHead s ten src (· == 0x02))
/-- BU_LOAD accepted, or refused (R54, R58, R61). -/
def execBuLoad (ten : BitVec 8) (src : Sys2Proof.Source) (s : State) : Host.Outcome State Fault Refusal :=
  .next (judgeHead s ten src (· == 0x03))
/-- DECANT_COPY accepted and placed on an engine, or refused (R54, R206, R212, R216, R222). -/
def execDecantCopy (ten : BitVec 8) (src : Sys2Proof.Source) (s : State) : Host.Outcome State Fault Refusal :=
  .next (judgeHead s ten src (· == 0x04))
/-- PRESS_RUN accepted, or refused (R54, R232, R233). -/
def execPressRun (ten : BitVec 8) (src : Sys2Proof.Source) (s : State) : Host.Outcome State Fault Refusal :=
  .next (judgeHead s ten src (· == 0x05))
/-- PRESS_LOAD accepted, or refused (R54, R63). -/
def execPressLoad (ten : BitVec 8) (src : Sys2Proof.Source) (s : State) : Host.Outcome State Fault Refusal :=
  .next (judgeHead s ten src (· == 0x06))
/-- FLAG_SET accepted, or refused (R54, R64, R249). -/
def execFlagSet (ten : BitVec 8) (src : Sys2Proof.Source) (s : State) : Host.Outcome State Fault Refusal :=
  .next (judgeHead s ten src (· == 0x07))
/-- FLAG_CLEAR accepted, or refused (R54, R64, R249). -/
def execFlagClear (ten : BitVec 8) (src : Sys2Proof.Source) (s : State) : Host.Outcome State Fault Refusal :=
  .next (judgeHead s ten src (· == 0x08))
/-- KITE_ARM accepted, or refused (R54, R64, R251). -/
def execKiteArm (ten : BitVec 8) (src : Sys2Proof.Source) (s : State) : Host.Outcome State Fault Refusal :=
  .next (judgeHead s ten src (· == 0x09))
/-- BARRIER_INIT accepted, or refused (R54, R64, R260). -/
def execBarrierInit (ten : BitVec 8) (src : Sys2Proof.Source) (s : State) : Host.Outcome State Fault Refusal :=
  .next (judgeHead s ten src (· == 0x0A))
/-- FENCE accepted once every earlier descriptor of its source has completed (R91). -/
def execFence (ten : BitVec 8) (src : Sys2Proof.Source) (s : State) : Host.Outcome State Fault Refusal :=
  .next (judgeHead s ten src (· == 0x0B))
/-- SCRUB accepted, or refused (R54, R65, R351). -/
def execScrub (ten : BitVec 8) (src : Sys2Proof.Source) (s : State) : Host.Outcome State Fault Refusal :=
  .next (judgeHead s ten src (· == 0x0C))
/-- NET_SEND accepted, or refused (R2, R54, R322). -/
def execNetSend (ten : BitVec 8) (src : Sys2Proof.Source) (s : State) : Host.Outcome State Fault Refusal :=
  .next (judgeHead s ten src (· == 0x0D))
/-- METER_SNAP accepted, or refused (R54, R65, R295). -/
def execMeterSnap (ten : BitVec 8) (src : Sys2Proof.Source) (s : State) : Host.Outcome State Fault Refusal :=
  .next (judgeHead s ten src (· == 0x0E))
/-- A descriptor whose OPCODE is not in Table 3.4 completes with BAD_OPCODE (R51). -/
def execBadOpcodeDescriptor (ten : BitVec 8) (src : Sys2Proof.Source) (s : State) : Host.Outcome State Fault Refusal :=
  .next (judgeHead s ten src (fun op => op == 0 || decide (14 < op)))

end Sys2Proof.Machine
end

