-- ==== Sys2Proof/Machine/Issue.lean ====
section
/-! DEFINITION. Issue of a program word: whether a core issues, the checks of a word in order, and local memory (R108, R132, R133,
R138-R141, R150, R154, R173, R174, R346). -/

namespace Sys2Proof.Machine

/-- The words of a core's cask (Tables 4.1, 9.1). -/
def coreCask (x : CoreId) : Nat :=
  match x with
  | .unit _ => 2048
  | .press e => if e.toNat < 8 then 4096 else 1024

/-- The bytes of a core's local store or scratch (Tables 4.1, 9.1). -/
def coreMem (x : CoreId) : Nat :=
  match x with
  | .unit _ => 65536
  | .press e => if e.toNat < 8 then 1048576 else 262144

/-- Whether a core issues: a task runs, nothing of it waits, and it is inside its run (R98, R108, R375). -/
def mayIssue (s : State) (x : CoreId) : Bool :=
  let p := procOf s x
  p.task.isSome && p.ended.isNone && p.vec.isNone && p.nap.isNone &&
    (match x with
     | .unit b => (unitOf s b.toNat).st == .running && unitRuns s b.toNat
     | .press e => (pressOf s e.toNat).recv.isNone && (decide (8 ≤ e.toNat) || engineRuns s e.toNat))

/-- Whether the program counter lies outside the cask or beyond the last instruction of the last completed load (R150). -/
def pcOutside (x : CoreId) (p : Proc) : Bool :=
  decide (coreCask x ≤ p.pc) || (match (p.cask p.live).loaded with | some n => decide (n ≤ p.pc) | none => false)

/-- The opcodes that a core defines (Tables 5.1, 9.5). -/
def opDefined (x : CoreId) (op : Nat) : Bool :=
  let shared := (decide (0x01 ≤ op) && decide (op ≤ 0x0D)) || op == 0x11 || (decide (0x13 ≤ op) && decide (op ≤ 0x19)) || op == 0x1C
    || (decide (0x1E ≤ op) && decide (op ≤ 0x21)) || (decide (0x28 ≤ op) && decide (op ≤ 0x2E))
    || (decide (0x30 ≤ op) && decide (op ≤ 0x32)) || (decide (0x38 ≤ op) && decide (op ≤ 0x3A)) || op == 0x3F || op == 0x40
  match x with
  | .unit _ => shared || op == 0x3B || op == 0x3C || op == 0x41 || op == 0x48 || op == 0x49 || (decide (0x50 ≤ op) && decide (op ≤ 0x55))
      || (decide (0x58 ≤ op) && decide (op ≤ 0x5A))
  | .press _ => shared || (decide (0x60 ≤ op) && decide (op ≤ 0x68)) || (decide (0x70 ≤ op) && decide (op ≤ 0x75))

/-- A word issues: outside the cask the task ends with REASON 0x0C; a word of another opcode is left to its own command; a nonzero
reserved field ends the task with REASON 0x02; else the instruction runs. -/
def issue (s : State) (x : CoreId) (op : Nat) (fieldsZero : Word64 → Bool) (run : State → Proc → Word64 → State) : State :=
  if mayIssue s x then
    let p := procOf s x
    let w := fetchWord p
    if pcOutside x p then faultTask s x .buFault 0x0C 0 0
    else if bits w 56 8 ≠ op then s
    else if !fieldsZero w then faultTask s x .buFault 0x02 0 0
    else run s p w
  else s

/-- An undefined opcode issues: the task ends with REASON 0x01 (R132). -/
def issueUndefined (s : State) (x : CoreId) : State :=
  if mayIssue s x then
    let p := procOf s x
    if pcOutside x p then faultTask s x .buFault 0x0C 0 0
    else if opDefined x (bits (fetchWord p) 56 8) then s
    else faultTask s x .buFault 0x01 0 0
  else s

/-- The failed check with the least REASON: reason and INFO (R174). -/
def leastReason (l : List (Nat × Nat)) : Option (Nat × Nat) :=
  l.foldl (fun b e => match b with
    | none => some e
    | some c => if e.1 < c.1 then some e else some c) none

/-- A check: its REASON and INFO if it fails. -/
def failIf (c : Bool) (reason info : Nat) : List (Nat × Nat) := if c then [(reason, info)] else []

/-- An active level's END holds an instruction that is not LEND (R154). -/
def endClash (p : Proc) : List (Nat × Nat) := failIf (p.loops.any (fun l => l.endIx == p.pc)) 0x0A 0

/-- The checks of R174's first group: a poisoned register used for control or addressing ends the task with DATA_UNCORRECTABLE (R346),
then the failed check of least REASON; else the instruction goes on. That the poison check stands behind the reserved-field check and before
the other REASONs is DEDUCED (log entry 26). -/
def judge (s : State) (x : CoreId) (p : Proc) (regs : List Nat) (checks : List (Nat × Nat)) (go : State) : State :=
  if regs.any (fun r => (rget p r).poison) then faultTask s x .dataUncorrectable 0 0 0
  else match leastReason (checks ++ endClash p) with
    | some (r, i) => faultTask s x .buFault r i 0
    | none => go

/-- A value with its poison: the value of a poisoned one is not specified (R345). -/
def settle (s : State) (v : Word) (p : Bool) : PWord × State := if p then poisoned s else ({ val := v, poison := false }, s)

/-- A scalar result written and the next instruction reached. -/
def finishScalar (s : State) (x : CoreId) (rd : Nat) (v : Word) (poison : Bool) : State :=
  let (r, s) := settle s v poison
  modProc s x (fun p => pnext (rset p rd r))

/-- The core goes on to the next instruction. -/
def stepOn (s : State) (x : CoreId) : State := modProc s x pnext

/-! Local memory: bytes, with one poison mark per aligned 32-bit word (Table 13.2). -/

/-- The number in n bytes at an address, least significant first. -/
def memNum (p : Proc) (a n : Nat) : Nat := leNat (mgetAll 0 p.mem a n)
/-- Whether a word that n bytes at an address touch is poisoned. -/
def memBad (p : Proc) (a n : Nat) : Bool :=
  (List.range ((a + n - 1) / 4 - a / 4 + 1)).any (fun i => mget false p.memPoison (a / 4 + i))

/-- A write of bytes, each with its poison, as one access: a word with a poisoned byte becomes poisoned; a word written whole and clean
becomes clean. -/
def memStore (p : Proc) (cells : List (Nat × Byte × Bool)) : Proc :=
  let mem := cells.foldl (fun m c => mset 0 m c.1 c.2.1) p.mem
  let words := (cells.map (fun c => c.1 / 4)).dedup
  let marks := words.foldl (fun m w =>
    let mine := cells.filter (fun c => c.1 / 4 == w)
    if mine.any (fun c => c.2.2) then mset false m w true
    else if (mine.map (·.1)).dedup.length == 4 then mset false m w false
    else m) p.memPoison
  { p with mem := mem, memPoison := marks }

/-- The cells of an n-byte element. -/
def elemCells (a n raw : Nat) (poison : Bool) : List (Nat × Byte × Bool) :=
  (leBytes n raw).zipIdx.map (fun e => (a + e.2, e.1, poison))

/-! Records on their way to a press (R240). -/

/-- A record placed at a press's input behind those that arrived before it; of one cycle and channel the lower SOURCE goes first. -/
def placeRecord (l : List (Nat × Record)) (ch : Nat) (r : Record) : List (Nat × Record) :=
  match l with
  | [] => [(ch, r)]
  | (c, q) :: t => if q.at_ = r.at_ ∧ c = ch ∧ r.source < q.source then (ch, r) :: (c, q) :: t else (c, q) :: placeRecord t ch r

/-- A record arrives at a press's input. -/
def arrive (s : State) (e ch : Nat) (r : Record) : State := modPress s e (fun p => { p with input := placeRecord p.input ch r })

end Sys2Proof.Machine
end

