-- ==== Sys2Proof/Machine/Scalar.lean ====
section
/-! DEFINITION. Scalar, branch and loop instructions, which units and presses share (R134-R137, R148-R157, R471). -/

namespace Sys2Proof.Machine

/-- Register field at bit lo. -/
def rf (w : Word64) (lo : Nat) : Nat := bits w lo 4
/-- IMM of format I. -/
def imm (w : Word64) : Word := BitVec.ofNat 32 (bits w 0 32)

/-- A format S instruction (Table 5.2). -/
def scalarS (s : State) (x : CoreId) (op : Nat) (f : Word → Word → Word) : State :=
  issue s x op (fun w => bits w 0 44 == 0) (fun s p w =>
    let a := rget p (rf w 48)
    let b := rget p (rf w 44)
    judge s x p [] [] (finishScalar s x (rf w 52) (f a.val b.val) (a.poison || b.poison)))

/-- A format I instruction that computes with IMM; shifts need IMM[31:5] = 0 (R133, R134). -/
def scalarI (s : State) (x : CoreId) (op : Nat) (shift : Bool) (f : Word → Word → Word) : State :=
  issue s x op (fun w => bits w 32 16 == 0 && (!shift || bits w 5 27 == 0)) (fun s p w =>
    let a := rget p (rf w 48)
    judge s x p [] [] (finishScalar s x (rf w 52) (f a.val (imm w)) a.poison))

/-- Left shift by bits [4:0]. -/
def shlW (a b : Word) : Word := a <<< (b.toNat % 32)
/-- Logical right shift by bits [4:0]. -/
def shrW (a b : Word) : Word := a >>> (b.toNat % 32)
/-- Arithmetic right shift by bits [4:0]. -/
def sraW (a b : Word) : Word := a.sshiftRight (b.toNat % 32)
/-- Signed minimum. -/
def minW (a b : Word) : Word := if b.slt a then b else a
/-- Signed maximum. -/
def maxW (a b : Word) : Word := if a.slt b then b else a
/-- 1 if a < b signed. -/
def sltW (a b : Word) : Word := if a.slt b then 1 else 0
/-- 1 if a < b unsigned. -/
def sltuW (a b : Word) : Word := if a.ult b then 1 else 0

/-- ADD (R148). -/
def execAdd (x : CoreId) (s : State) : Host.Outcome State Fault Refusal := .next (scalarS s x 0x01 (· + ·))
/-- SUB (R148). -/
def execSub (x : CoreId) (s : State) : Host.Outcome State Fault Refusal := .next (scalarS s x 0x02 (· - ·))
/-- AND (R148). -/
def execAnd (x : CoreId) (s : State) : Host.Outcome State Fault Refusal := .next (scalarS s x 0x03 (· &&& ·))
/-- OR (R148). -/
def execOr (x : CoreId) (s : State) : Host.Outcome State Fault Refusal := .next (scalarS s x 0x04 (· ||| ·))
/-- XOR (R148). -/
def execXor (x : CoreId) (s : State) : Host.Outcome State Fault Refusal := .next (scalarS s x 0x05 (· ^^^ ·))
/-- SHL (R134, R148). -/
def execShl (x : CoreId) (s : State) : Host.Outcome State Fault Refusal := .next (scalarS s x 0x06 shlW)
/-- SHR (R134, R148). -/
def execShr (x : CoreId) (s : State) : Host.Outcome State Fault Refusal := .next (scalarS s x 0x07 shrW)
/-- SRA (R134, R148). -/
def execSra (x : CoreId) (s : State) : Host.Outcome State Fault Refusal := .next (scalarS s x 0x08 sraW)
/-- MUL keeps the low 32 bits (R148). -/
def execMul (x : CoreId) (s : State) : Host.Outcome State Fault Refusal := .next (scalarS s x 0x09 (· * ·))
/-- MIN (R148). -/
def execMin (x : CoreId) (s : State) : Host.Outcome State Fault Refusal := .next (scalarS s x 0x0A minW)
/-- MAX (R148). -/
def execMax (x : CoreId) (s : State) : Host.Outcome State Fault Refusal := .next (scalarS s x 0x0B maxW)
/-- SLT (R148). -/
def execSlt (x : CoreId) (s : State) : Host.Outcome State Fault Refusal := .next (scalarS s x 0x0C sltW)
/-- SLTU (R148). -/
def execSltu (x : CoreId) (s : State) : Host.Outcome State Fault Refusal := .next (scalarS s x 0x0D sltuW)
/-- ADDI (R148). -/
def execAddi (x : CoreId) (s : State) : Host.Outcome State Fault Refusal := .next (scalarI s x 0x11 false (· + ·))
/-- ANDI (R148). -/
def execAndi (x : CoreId) (s : State) : Host.Outcome State Fault Refusal := .next (scalarI s x 0x13 false (· &&& ·))
/-- ORI (R148). -/
def execOri (x : CoreId) (s : State) : Host.Outcome State Fault Refusal := .next (scalarI s x 0x14 false (· ||| ·))
/-- XORI (R148). -/
def execXori (x : CoreId) (s : State) : Host.Outcome State Fault Refusal := .next (scalarI s x 0x15 false (· ^^^ ·))
/-- SHLI (R134, R148). -/
def execShli (x : CoreId) (s : State) : Host.Outcome State Fault Refusal := .next (scalarI s x 0x16 true shlW)
/-- SHRI (R134, R148). -/
def execShri (x : CoreId) (s : State) : Host.Outcome State Fault Refusal := .next (scalarI s x 0x17 true shrW)
/-- SRAI (R134, R148). -/
def execSrai (x : CoreId) (s : State) : Host.Outcome State Fault Refusal := .next (scalarI s x 0x18 true sraW)
/-- MULI (R148). -/
def execMuli (x : CoreId) (s : State) : Host.Outcome State Fault Refusal := .next (scalarI s x 0x19 false (· * ·))
/-- SLTI (R148). -/
def execSlti (x : CoreId) (s : State) : Host.Outcome State Fault Refusal := .next (scalarI s x 0x1C false sltW)
/-- LI (R148). -/
def execLi (x : CoreId) (s : State) : Host.Outcome State Fault Refusal :=
  .next (issue s x 0x1E (fun w => bits w 32 20 == 0) (fun s p w =>
    judge s x p [] [] (finishScalar s x (rf w 52) (imm w) false)))

/-- The counter of active level i, outer first; 0 if it is not active (R152). -/
def loopCount (p : Proc) (i : Nat) : Nat := match p.loops[i]? with | some l => l.count | none => 0

/-- A special register (Tables 5.3, R136); in a press number 0x01 is the engine number. -/
def special (s : State) (x : CoreId) (n : Nat) : Option Nat :=
  let p := procOf s x
  match n with
  | 0x00 => some (coreTag s x).toNat
  | 0x01 => some (match x with | .unit b => b.toNat | .press e => e.toNat)
  | 0x02 => some (coreTen s x)
  | 0x03 => some (s.time % 2 ^ 32)
  | 0x04 => some (loopCount p 0)
  | 0x05 => some (loopCount p 1)
  | 0x06 => some (b2n p.live)
  | 0x07 => some (match x with
      | .unit b => (match (unitOf s b.toNat).stream with | some t => t.count - t.taken | none => 0)
      | .press _ => 0)
  | 0x08 => some (bits (reg s 0x100000) 0 6)
  | 0x20 => some 0x00004088
  | 0x21 => some 0x00201000
  | 0x22 => some 0x00010000
  | 0x23 => some 0x00020800
  | 0x24 => some 0x00002010
  | 0x25 => some 0x08804020
  | 0x26 => some 0x000007FF
  | _ => none

/-- RDS (R135-R137). -/
def execRds (x : CoreId) (s : State) : Host.Outcome State Fault Refusal :=
  .next (issue s x 0x1F (fun w => bits w 32 20 == 0 && bits w 8 24 == 0) (fun s p w =>
    match special s x (bits w 0 8) with
    | some v => judge s x p [] [] (finishScalar s x (rf w 52) (BitVec.ofNat 32 v) false)
    | none => judge s x p [] [(0x0D, 0)] s))

/-- The byte address of a scalar access (R148, R471). -/
def scalarAddr (p : Proc) (w : Word64) : Nat := ((rget p (rf w 48)).val + imm w).toNat
/-- The address check of a scalar access: REASON 0x05 with the address. -/
def addrCheck (x : CoreId) (a : Nat) : List (Nat × Nat) := failIf (a % 4 != 0 || decide (coreMem x < a + 4)) 0x05 a

/-- Whether a core's task runs under POISON_MODE = propagate (R50). -/
def propagates (p : Proc) : Bool := match p.task with | some t => dFlag t.raw 4 | none => false

/-- A load from local memory (R148, R345, R471). Under fault mode a poisoned word ends the task. -/
def loadWord (s : State) (x : CoreId) : State :=
  issue s x 0x20 (fun w => bits w 32 16 == 0) (fun s p w =>
    let a := scalarAddr p w
    judge s x p [rf w 48] (addrCheck x a)
      (if memBad p a 4 && !propagates p then faultTask s x .dataUncorrectable 0 a 0
       else finishScalar s x (rf w 52) (BitVec.ofNat 32 (memNum p a 4)) (memBad p a 4)))

/-- A store to local memory (R148, R345, R471). -/
def storeWord (s : State) (x : CoreId) : State :=
  issue s x 0x21 (fun w => bits w 32 16 == 0) (fun s p w =>
    let a := scalarAddr p w
    let v := rget p (rf w 52)
    judge s x p [rf w 48] (addrCheck x a)
      (modProc s x (fun q => pnext (memStore q (elemCells a 4 v.val.toNat v.poison)))))

/-- LDW of a unit (R148). -/
def execLdw (b : BitVec 12) (s : State) : Host.Outcome State Fault Refusal := .next (loadWord s (.unit b))
/-- STW of a unit (R148). -/
def execStw (b : BitVec 12) (s : State) : Host.Outcome State Fault Refusal := .next (storeWord s (.unit b))
/-- LDW of a press: scratch by byte address (R471). -/
def execPressLdw (e : BitVec 4) (s : State) : Host.Outcome State Fault Refusal := .next (loadWord s (.press e))
/-- STW of a press (R471). -/
def execPressStw (e : BitVec 4) (s : State) : Host.Outcome State Fault Refusal := .next (storeWord s (.press e))

/-! Branches (R149, R156). -/

/-- The levels whose body, to its LEND, holds an index: a level that does not is left with every level inside it. -/
def keepLevels (ls : List LoopLevel) (target : Nat) : List LoopLevel :=
  ls.takeWhile (fun l => decide (l.body ≤ target) && decide (target ≤ l.endIx))

/-- Bits of TARGET and END (chapter 9). -/
def indexBits (x : CoreId) : Nat := match x with | .unit _ => 11 | .press _ => 12

/-- A branch on a condition over RA and RB. -/
def branch (s : State) (x : CoreId) (op : Nat) (always : Bool) (f : Word → Word → Bool) : State :=
  issue s x op (fun w => bits w (indexBits x) (48 - indexBits x) == 0 && (!always || bits w 48 8 == 0)) (fun s p w =>
    let a := rget p (rf w 52)
    let b := rget p (rf w 48)
    let t := bits w 0 (indexBits x)
    judge s x p (if always then [] else [rf w 52, rf w 48]) []
      (modProc s x (fun q => if always || f a.val b.val then { q with pc := t, loops := keepLevels q.loops t } else pnext q)))

/-- B (R149). -/
def execB (x : CoreId) (s : State) : Host.Outcome State Fault Refusal := .next (branch s x 0x28 true (fun _ _ => true))
/-- BEQ (R149). -/
def execBeq (x : CoreId) (s : State) : Host.Outcome State Fault Refusal := .next (branch s x 0x29 false (fun a b => a == b))
/-- BNE (R149). -/
def execBne (x : CoreId) (s : State) : Host.Outcome State Fault Refusal := .next (branch s x 0x2A false (fun a b => a != b))
/-- BLT (R149). -/
def execBlt (x : CoreId) (s : State) : Host.Outcome State Fault Refusal := .next (branch s x 0x2B false (fun a b => a.slt b))
/-- BGE (R149). -/
def execBge (x : CoreId) (s : State) : Host.Outcome State Fault Refusal := .next (branch s x 0x2C false (fun a b => !a.slt b))
/-- BLTU (R149). -/
def execBltu (x : CoreId) (s : State) : Host.Outcome State Fault Refusal := .next (branch s x 0x2D false (fun a b => a.ult b))
/-- BGEU (R149). -/
def execBgeu (x : CoreId) (s : State) : Host.Outcome State Fault Refusal := .next (branch s x 0x2E false (fun a b => !a.ult b))

/-! Hardware loops (R151-R155). -/

/-- LOOP (R151-R153). -/
def execLoop (x : CoreId) (s : State) : Host.Outcome State Fault Refusal :=
  .next (issue s x 0x30 (fun w => bits w (32 + indexBits x) (20 - indexBits x) == 0 && (rf w 52 == 0 || bits w 0 32 == 0)) (fun s p w =>
    let e := bits w 32 (indexBits x)
    let n := if rf w 52 = 0 then bits w 0 32 else (rget p (rf w 52)).val.toNat
    let bad := decide (e ≤ p.pc) || decide (coreCask x ≤ e) ||
      (match p.loops.getLast? with | some l => decide (l.endIx ≤ e) | none => false)
    judge s x p [rf w 52] (failIf bad 0x0B 0)
      (if 2 ≤ p.loops.length then faultTask s x .loopDepth 0 0 0
       else if n = 0 then modProc s x (fun q => { q with pc := e + 1 })
       else modProc s x (fun q => pnext { q with loops := q.loops ++ [{ body := p.pc + 1, endIx := e, count := n }] }))))

/-- LEND (R154). -/
def execLend (x : CoreId) (s : State) : Host.Outcome State Fault Refusal :=
  .next (issue s x 0x31 (fun w => bits w 0 56 == 0) (fun s p _ =>
    match p.loops.getLast? with
    | some l =>
      if l.endIx ≠ p.pc then faultTask s x .buFault 0x0A 0 0
      else if l.count = 1 then modProc s x (fun q => pnext { q with loops := q.loops.dropLast })
      else modProc s x (fun q => { q with pc := l.body, loops := q.loops.dropLast ++ [{ l with count := l.count - 1 }] })
    | none => faultTask s x .buFault 0x0A 0 0))

/-- LEXIT (R155). -/
def execLexit (x : CoreId) (s : State) : Host.Outcome State Fault Refusal :=
  .next (issue s x 0x32 (fun w => bits w 0 56 == 0) (fun s p _ =>
    match p.loops.getLast? with
    | some l => judge s x p [] [] (modProc s x (fun q => { q with pc := l.endIx + 1, loops := q.loops.dropLast }))
    | none => judge s x p [] [(0x0A, 0)] s))

/-- A word whose opcode is not defined (R132). -/
def execUndefinedOpcodeWord (x : CoreId) (s : State) : Host.Outcome State Fault Refusal := .next (issueUndefined s x)

end Sys2Proof.Machine
end

