-- ==== Sys2Proof/Machine/Control.lean ====
section
/-! DEFINITION. Synchronisation, messages, shapes, streams and the end of a program (R138, R144, R166-R172, R250-R254). -/

namespace Sys2Proof.Machine

/-- Whether every write that a core issued before has committed (R167, R248). -/
def coreDrained (s : State) (x : CoreId) : Bool :=
  match x with
  | .unit b => (unitOf s b.toNat).wq.isEmpty
  | .press e => (pressOf s e.toNat).hostPending == 0

/-- The flag or barrier number of a Y instruction (R166). -/
def yNum (p : Proc) (w : Word64) : Nat := if rf w 48 = 0 then bits w 0 16 else (rget p (rf w 48)).val.toNat % 65536
/-- Fields of format Y that must be 0: [39:16], NUM under a register, MODE beyond a mask, RD unless it is used. -/
def yFields (w : Word64) (modes : Nat) (rdUsed : Bool) : Bool :=
  bits w 16 24 == 0 && (rf w 48 == 0 || bits w 0 16 == 0) && decide (bits w 40 8 < 2 ^ modes) && (rdUsed || rf w 52 == 0)

/-- A flag instruction on an owned, reachable flag goes on; else the task ends with NOT_OWNER (R166) or PEER_UNREACHABLE (R245). -/
def withFlag (s : State) (x : CoreId) (f : Nat) (go : State) : State :=
  if !ownsFlag s (coreTen s x) f then faultTask s x .notOwner 0 f 0
  else if !homeReached s f then faultTask s x .peerUnreachable 0 f 0
  else go

/-- FSET and FCLR: once older writes have committed, the operation leaves for the home (R167, R248). -/
def sendFlagOp (s : State) (x : CoreId) (code : Nat) (op : FlagOp) : State :=
  issue s x code (fun w => yFields w 0 false) (fun s p w =>
    let f := yNum p w
    judge s x p [rf w 48] []
      (withFlag s x f
        (if coreDrained s x then
           stepOn (issueFlagOp s { op := op, flag := f, ten := coreTen s x, who := coreWho x, tag := coreTag s x, reply := .none }) x
         else s)))

/-- FSET (R167). -/
def execFset (x : CoreId) (s : State) : Host.Outcome State Fault Refusal := .next (sendFlagOp s x 0x38 .set)
/-- FCLR (R167). -/
def execFclr (x : CoreId) (s : State) : Host.Outcome State Fault Refusal := .next (sendFlagOp s x 0x39 .clear)

/-- A core begins to wait for a reason; a unit naps (R98). Where it polls, the first poll is made 1024 ck cycles from now, as each later one is
after the one before it: R254 gives the period alone (DESIGN CHOICE, log entry 134). -/
def beginNap (s : State) (x : CoreId) (why : NapWhy) : State :=
  let s := match x with
    | .unit b => enterState s b.toNat .napping
    | .press _ => s
  modProc s x (fun p => { p with nap := some { why := why, released := false, lastPoll := s.ck, answer := none } })

/-- The fallback to polling is entered in the log once for each task (R254). -/
def notePolling (s : State) (x : CoreId) (f : Nat) : State :=
  match (procOf s x).task with
  | some t =>
    if t.polled then s
    else modProc (logAdd s 2 (coreSrc x) 0x07 0x04 (some t.tag) (some t.ten) (leBytes 1 1 ++ leBytes 2 (f / 256))) x
      (fun p => { p with task := some { t with polled := true } })
  | none => s

/-- A wait on a flag: gated sleep on a flag homed in the unit's own stack, a watch at the pod manager, which holds its kite, on one homed
there, else a kite, else polling (R168, R250, R251, R254, R326). -/
def waitFlag (s : State) (x : CoreId) (f : Nat) (clr : Bool) : State :=
  let t := coreTen s x
  let watch (k : Option Nat) : Watch :=
    { flag := f, onClear := false, clr := clr, holder := .core x, kite := k, who := coreWho x, tag := coreTag s x }
  let own := match x with
    | .unit b => flagHome s f == stackOf b.toNat + 1
    | .press _ => false
  if own || flagHome s f == 9 then registerWait (beginNap s x (.flag f clr)) (watch none) t (.core x)
  else match freeKiteFor s t with
    | some k =>
      let kite : Kite := { owner := t, flag := f, onClear := false, clr := clr, notify := 0, cookie := 0, who := coreWho x,
                           tag := coreTag s x, armed := s.time }
      registerWait (setKite (beginNap s x (.kite f clr k)) k (some kite)) (watch (some k)) t (.core x)
    | none => notePolling (beginNap s x (.poll f clr)) x f

/-- FWAIT (R168). With TEST the value comes back as an answer and nothing waits: the unit does not nap and takes no admission credit, as the model
reads R250 (DEDUCED, log entry 135). -/
def execFwait (x : CoreId) (s : State) : Host.Outcome State Fault Refusal :=
  .next (issue s x 0x3A (fun w => yFields w 2 (bit w 41)) (fun s p w =>
    let f := yNum p w
    let clr := bit w 40
    judge s x p [rf w 48] []
      (withFlag s x f
        (if bit w 41 then
           issueFlagOp (modProc s x (fun q => { q with nap := some { why := .test f clr (rf w 52), released := false,
                                                                     lastPoll := s.ck, answer := none } }))
             { op := if clr then .testClr else .test, flag := f, ten := coreTen s x, who := coreWho x, tag := coreTag s x,
               reply := .core x }
         else waitFlag s x f clr))))

/-- Whether a unit takes part in a barrier that has been initialised. -/
def participates (s : State) (bar b : Nat) : Bool := (barOf s bar).st != .uninit && mget false (barOf s bar).parts b

/-- Where the instruction at a unit's program counter stands: after every BARR and SEND of the unit that is under way (R174). -/
def originOf (s : State) (b : Nat) : Origin :=
  let u := unitOf s b
  let arr := (s.sync.arrivals.filter (fun a => a.unit == b)).foldl (fun m a => max m (a.from_.order + 1)) 0
  { pc := u.proc.pc % 2048 + 2048 * b2n u.proc.live, loops := u.proc.loops.length,
    order := if u.port.isSome then max arr (u.sendFrom.order + 1) else arr }

/-- BARR: the arrival leaves for the unit's B-die once older pairs have committed; with WAIT the unit naps (R166, R170, R270). -/
def execBarr (b : BitVec 12) (s : State) : Host.Outcome State Fault Refusal :=
  .next (issue s (.unit b) 0x3B (fun w => yFields w 1 false) (fun s p w =>
    let x := CoreId.unit b
    let n := yNum p w
    judge s x p [rf w 48] (failIf (decide (1023 < n)) 0x0E n)
      (if mget none s.barOwner n != some (coreTen s x) then faultTask s x .notOwner 0 n 0
       else if !participates s n b.toNat then faultTask s x .buFault 0x0E n 0
       else if !coreDrained s x then s
       else
         let s := { s with sync := { s.sync with arrivals := s.sync.arrivals ++ [{ bar := n, unit := b.toNat, from_ := originOf s b.toNat }] } }
         if bit w 40 then beginNap s x (.barrier n) else stepOn s x)))

/-- SEND: its checks; its beats then carry the record to the die-bus port (R171, R130). With a register for the channel CHAN is unused, so
reserved (R133). -/
def execSend (b : BitVec 12) (s : State) : Host.Outcome State Fault Refusal :=
  .next (issue s (.unit b) 0x3C (fun w => bits w 32 16 == 0 && (rf w 52 == 0 || bits w 48 4 == 0)) (fun s p w =>
    let x := CoreId.unit b
    let len := bits w 16 16
    let a := bits w 0 16
    let r := (rget p (rf w 52)).val.toNat
    judge s x p [rf w 52]
      (failIf (len == 0 || len % 32 != 0) 0x04 len ++ failIf (decide (65536 < a + len)) 0x05 a
        ++ failIf (rf w 52 != 0 && decide (15 < r)) 0x0E r)
      (if (unitOf s b.toNat).port.isSome then s
       else modProc s x (fun q => { q with vec := some { word := w, beat := 0, total := (len + 63) / 64 } }))))

/-- HALT: the task ends OK with CODE, once its older arrivals have been judged and its record has left the port (R106, R172). -/
def execHalt (b : BitVec 12) (s : State) : Host.Outcome State Fault Refusal :=
  .next (issue s (.unit b) 0x3F (fun w => bits w 16 40 == 0) (fun s p w =>
    judge s (.unit b) p [] []
      (if (unitOf s b.toNat).port.isSome || s.sync.arrivals.any (fun a => a.unit == b.toNat) then s
       else stopTask s (.unit b) (haltEnd s (bits w 0 16)))))

/-- A shape register written from a word of format H (R138). -/
def setShape (s : State) (x : CoreId) (unit : Int) : State :=
  issue s x 0x40 (fun w => bits w 48 1 == 0 && (rf w 49 == 0 || bits w 16 12 == 0)) (fun s p w =>
    let n1 := if rf w 49 = 0 then bits w 16 12 else (rget p (rf w 49)).val.toNat
    let sh : Shape := { n0 := bits w 36 12, s0 := bits w 28 8, n1 := n1, s1 := signed 16 (bits w 0 16) * unit }
    judge s x p [rf w 49] (failIf (decide (4095 < n1)) 0x04 0)
      (modProc s x (fun q => pnext { q with shapes := mset Shape.zero q.shapes (bits w 53 3) sh })))

/-- SHAPE (R138). -/
def execShape (b : BitVec 12) (s : State) : Host.Outcome State Fault Refusal := .next (setShape s (.unit b) 1)
/-- PSHAPE: S1 counts 32-byte units (Table 9.4). -/
def execPshape (e : BitVec 4) (s : State) : Host.Outcome State Fault Refusal := .next (setShape s (.press e) 32)

/-- The region checks of a bank unit, in the order of R36. -/
def unitRegion (s : State) (b n : Nat) : Option Status :=
  let r := regionOf s n
  if !r.valid then some .range
  else if mget none s.groupOwner (groupOf b) != some r.owner then some .notOwner
  else if r.linear then some .badField
  else if decide (groupOf b < r.gFirst) || decide (r.gFirst + r.gCount ≤ groupOf b) then some .range
  else none

/-- BSTREAM (R144, R117). -/
def execBstream (b : BitVec 12) (s : State) : Host.Outcome State Fault Refusal :=
  .next (issue s (.unit b) 0x41 (fun w => bits w 32 2 == 0) (fun s p w =>
    let x := CoreId.unit b
    let f := bits w 52 4
    let start := (rget p (rf w 42)).val.toNat
    let rx := rf w 34
    judge s x p [rf w 42, rf w 38, rx]
      (failIf (!fmtOk f) 0x03 0
        ++ failIf (start % 32 != 0 || bits w 0 5 != 0 || (fmtOk f && scaleArray f == (rx == 0))) 0x09 (if start % 32 = 0 then 0 else start))
      (match unitRegion s b.toNat (bits w 46 6) with
       | some st => faultTask s x st 0 start 0
       | none =>
         let t : Stream := { fmt := f, region := bits w 46 6, start := start, count := (rget p (rf w 38)).val.toNat,
                             stride := signed 32 (bits w 0 32),
                             scaleOff := if rx = 0 then none else some (rget p rx).val.toNat,
                             fetched := 0, taken := 0, buf := [], scaleCol := [] }
         modUnit s b.toNat (fun u => { u with stream := some t, spos := 0, miss := none, proc := pnext u.proc }))))

/-- PHALT: the task ends OK with CODE (R234). -/
def execPhalt (e : BitVec 4) (s : State) : Host.Outcome State Fault Refusal :=
  .next (issue s (.press e) 0x3F (fun w => bits w 16 40 == 0) (fun s p w =>
    judge s (.press e) p [] [] (stopTask s (.press e) (haltEnd s (bits w 0 16)))))

end Sys2Proof.Machine
end

