-- ==== Sys2Proof/Machine/Front.lean ====
section
/-! DEFINITION. The command front end: tenancy pages, doorbells, direct slots, ring fetches, and records on their way to host memory
(R42-R44, R66-R90, R431). -/

namespace Sys2Proof.Machine

/-! Host protocol violations (Table 17.8). -/

/-- A violation on a tenancy's page: its entry in the log and, while the tenancy exists, its REFUSED meter (R431). -/
def violateTag (s : State) (t : Nat) (tag : Option (BitVec 16)) (num ident size off expected value : Nat) : State :=
  let s := if (tenOf s t).enabled then meter s t 11 1 0 else s
  logAdd s 2 (srcNum 0xA ident) 0x01 num tag (some t) (violationDetail num size off expected value)

/-- A violation that concerns no work with a tag. -/
def violate (s : State) (t num ident size off expected value : Nat) : State := violateTag s t none num ident size off expected value

/-- The fault record of a violation (Table 17.4). -/
def violationFault (s : State) (t : Nat) (st : Status) (num ident size off expected value : Nat) : State :=
  faultRecord s t 0 st (leBytes 2 (srcNum 0xA ident) ++ leBytes 1 num ++ leBytes 1 size ++ leBytes 2 off ++ leBytes 2 expected
    ++ leBytes 8 value)

/-! Fetching (R70, R71, R83). -/

/-- A ring entry whose fetch failed completes with FETCH_POISON: TAG 0, DETAIL its index (R83, R423, Table 3.14). -/
def poisonEntry (s : State) (t ring : Nat) (index : BitVec 16) : State :=
  let s := violate s t 0x0D ring 64 0 0 index.toNat
  let s := logEnd s t 0 .fetchPoison false (genericPayload (srcNum 8 4) 0 ring 0 0)
  let src := Sys2Proof.Source.ring (BitVec.ofNat 2 ring)
  let s := traceEv s 0x04 t (srcNum 0xA ring) 0 Status.fetchPoison.code Status.fetchPoison.code
  postRecord s t { tag := 0, status := .fetchPoison, signalled := false, staged := false, src := src, detail := index.toNat,
                   time := s.time, irq := false }

/-- The oldest fetch of a ring. -/
def oldestFetch (s : State) (t ring : Nat) : Option Fetch := s.fetches.find? (fun f => f.ten == t && f.ring == ring)

/-- A fetch replaced, or taken out when nothing of it is left. -/
def putFetch (s : State) (f : Fetch) : State :=
  if f.count = 0 then { s with fetches := s.fetches.filter (fun g => g.id != f.id) }
  else { s with fetches := s.fetches.map (fun g => if g.id = f.id then f else g) }

/-- Answered entries of a ring enter the M-die queue in index order: an entry waits behind an unanswered one, and a failed entry
waits for a place for its record (R81, R83). -/
def releaseRing (fuel : Nat) (s : State) (t ring : Nat) : State :=
  match fuel with
  | 0 => s
  | n + 1 =>
    match oldestFetch s t ring with
    | none => s
    | some f =>
      match f.answer with
      | none => s
      | some [] => releaseRing n (putFetch s { f with count := 0 }) t ring
      | some (e :: rest) =>
        let g : Fetch := { f with first := f.first + 1, count := f.count - 1, answer := some rest }
        match e with
        | some d => releaseRing n (putFetch { s with fetched := s.fetched ++ [{ ten := t, src := .ring (BitVec.ofNat 2 ring), index := f.first, raw := d }] } g) t ring
        | none => if canPlace s t then releaseRing n (putFetch (poisonEntry s t ring f.first) g) t ring else s

/-- Every ring of a tenancy released as far as may be. -/
def releaseRings (s : State) (t : Nat) : State := (List.range 4).foldl (fun s j => releaseRing 32 s t j) s

/-- Fetches of a ring whose answer is still out. -/
def outFetches (s : State) (t ring : Nat) : Nat := (s.fetches.filter (fun f => f.ten == t && f.ring == ring && f.answer.isNone)).length

/-- How many entries the next fetch of a ring carries: up to eight, up to the tail, within the ring's end and the tenancy's room;
0 where no fetch may be issued (R68, R70, R71). -/
def fetchCount (s : State) (t ring : Nat) : Nat :=
  let r := ringOf s t ring
  if (tenOf s t).enabled && r.enabled && !r.held && decide (outFetches s t ring < 2)
      && decide ((s.fetches.filter (fun f => f.answer.isNone)).length < 64) then
    min (min 8 (r.tail - r.head).toNat) (min (2 ^ r.log2 - r.head.toNat % 2 ^ r.log2) (queueRoom s t))
  else 0

/-- RING_FETCH: a read of consecutive entries is issued, from the byte offset (index mod 2^n) × 64 of the ring's base on (R48, R70, R71). -/
def execRingFetch (ten : BitVec 8) (ring : BitVec 2) (s : State) : Host.Outcome State Fault Refusal :=
  let t := ten.toNat
  let j := ring.toNat
  let s := releaseRing 32 s t j
  let n := fetchCount s t j
  .next (if n = 0 then s else
    let r := ringOf s t j
    let s := emit s (.hostRead (ringBase s t j + r.head.toNat % 2 ^ r.log2 * 64) (64 * n))
    let (i, s) := newId s
    let s := setRing s t j { r with head := r.head + BitVec.ofNat 16 n }
    { s with fetches := s.fetches ++ [{ id := i, ten := t, ring := j, first := r.head, count := n, at_ := s.elapsed, answer := none }] })

/-- A fetch answered with its entries, none for one that failed. -/
def answerFetch (s : State) (i : Nat) (entries : List (Option Descriptor)) : State :=
  match s.fetches.find? (fun f => f.id == i && f.answer.isNone) with
  | some f =>
    if entries.length = f.count then releaseRing 32 (putFetch s { f with answer := some entries }) f.ten f.ring else s
  | none => s

/-- FETCH_RETURN: the entries enter the M-die queue in index order, or complete with FETCH_POISON (R83). -/
def execFetchReturn (id : Nat) (entries : List (Option Descriptor)) (s : State) : Host.Outcome State Fault Refusal :=
  .next (answerFetch s id entries)

/-- The program fetch of a load fails: violation 0x0D, and the load completes with FETCH_POISON, DETAIL the index of its ring entry (R348,
R419, Table 17.8). -/
def failProgram (s : State) (i : Nat) : State :=
  match activeOf s i with
  | some a =>
    if isLoad a.raw && a.prog.isNone then
      endDesc (violateTag s a.ten (some (dTag a.raw)) 0x0D (srcId a.src) 64 0 0 0) i .fetchPoison .dispatcher 0 a.index
    else s
  | none => s

/-- FETCH_TIMEOUT: a fetch unanswered for 10 ms has failed (R83, Table 17.9). -/
def execFetchTimeout (id : Nat) (s : State) : Host.Outcome State Fault Refusal :=
  .next (match s.fetches.find? (fun f => f.id == id && f.answer.isNone) with
    | some f => answerFetch (pastDue s (f.at_ + 10 * Config.ms)) id (List.replicate f.count none)
    | none => match activeOf s id with
      | some a => match a.fetchAt with
        | some t0 => if a.prog.isNone then failProgram (pastDue s (t0 + 10 * Config.ms)) id else s
        | none => s
      | none => s)

/-! Doorbells (R66-R69). -/

/-- The ring slot of a ring id (Table 3.1). -/
def ringSlot (id : Nat) : Option Nat := if id < 4 then some id else if id = 8 then some cq else if id = 9 then some eq5 else none

/-- A tail for a submission ring, by R67: accepted, or ignored with the ring held (R68). -/
def tailDoorbell (s : State) (t j : Nat) (value : Word64) : State :=
  let r := ringOf s t j
  let tail := BitVec.ofNat 16 (bits value 0 16)
  let refuse (num : Nat) : State :=
    let s := violate s t num j 8 0 r.tail.toNat value.toNat
    let s := violationFault s t .ringIndexInvalid num j 8 0 r.tail.toNat value.toNat
    setRing s t j { r with held := true }
  if 2 ^ r.log2 - 1 < (tail - r.head).toNat then refuse 0x03
  else if (tail - r.head).toNat < (r.tail - r.head).toNat then refuse 0x04
  else traceEv (setRing s t j { r with tail := tail, held := false }) 0x0E t (srcNum 0xA j) 0 0 0

/-- A head for the completion or event ring, by R69. -/
def headDoorbell (s : State) (t j id : Nat) (value : Word64) : State :=
  let r := ringOf s t j
  let head := BitVec.ofNat 16 (bits value 0 16)
  if (head - r.head).toNat ≤ (r.tail - r.head).toNat then
    let s := setRing s t j { r with head := head }
    let s := modTen s t (fun x => if j = cq then { x with cqLost := false } else { x with eqOverflow := false })
    releaseRings (settleAll (traceEv s 0x0E t (srcNum 0xA id) 0 0 0)) t
  else
    let s := violate s t 0x05 id 8 0 r.head.toNat value.toNat
    violationFault s t .ringIndexInvalid 0x05 id 8 0 r.head.toNat value.toNat

/-- A write to the doorbell of a tenancy's page (R66). -/
def doorbell (s : State) (t off size : Nat) (value : Word64) : State :=
  let id := bits value 16 4
  if !(tenOf s t).enabled then violate s t 0x0A id size off 0 value.toNat
  else if size ≠ 8 ∨ off ≠ 0 then violate s t 0x01 0 size off 0 value.toNat
  else
    let bad := violationFault (violate s t 0x02 id size off 0 value.toNat) t .badField 0x02 id size off 0 value.toNat
    match ringSlot id with
    | none => bad
    | some j =>
      if bits value 20 44 ≠ 0 ∨ (ringOf s t j).enabled = false then bad
      else if j < 4 then tailDoorbell s t j value
      else headDoorbell s t j id value

/-- DOORBELL_SUBMISSION (R66-R68). -/
def execDoorbellSubmission (ten : BitVec 8) (off : BitVec 3) (size : Nat) (value : Word64) (s : State) :
    Host.Outcome State Fault Refusal := .next (viaHost s (doorbell s ten.toNat off.toNat size value))
/-- DOORBELL_HEAD (R66, R69). -/
def execDoorbellHead (ten : BitVec 8) (off : BitVec 3) (size : Nat) (value : Word64) (s : State) :
    Host.Outcome State Fault Refusal := .next (viaHost s (doorbell s ten.toNat off.toNat size value))

/-! Direct slots and the rest of a page (R42-R44, R74-R76). -/

/-- A write at page offsets 0x1000 to 0x13FF: a whole slot, free, takes the descriptor; any other write is discarded. -/
def slotWrite (s : State) (t off size : Nat) (data : Descriptor) : State :=
  let k := (off - 0x1000) / 64
  if size ≠ 64 ∨ off % 64 ≠ 0 then violate s t 0x06 (16 + k) size off 0 (dfield data 0 8)
  else if (mget none (tenOf s t).slots k).isSome then violate s t 0x07 (16 + k) size off 0 (dfield data 0 8)
  else modTen s t (fun x => { x with slots := mset none x.slots k (some data) })

/-- A write to a tenancy's page, by Table 2.7. One that spans a location of the table and reserved offsets counts whole as an access to a
reserved offset (DESIGN CHOICE, log entry 109). -/
def pageWrite (s : State) (t off size : Nat) (data : Descriptor) : State :=
  if !(tenOf s t).enabled then violate s t 0x0A 0 size off 0 (dfield data 0 8)
  else if off < 8 then doorbell s t off size (BitVec.ofNat 64 (dfield data 0 8))
  else if 0x100 ≤ off ∧ off + size ≤ 0x108 then violate s t 0x08 0 size off 0 (dfield data 0 8)
  else if 0x1000 ≤ off ∧ off < 0x1400 then slotWrite s t off size data
  else violate s t 0x09 0 size off 0 (dfield data 0 8)

/-- The module address of a page offset (R42). -/
def pageMa (t off : Nat) : Nat := 0x8000000000 + t * 0x10000 + off

/-- A read of a tenancy's page: the status word, 0 from a write-only location, or all-ones with a violation (R44, R88). A read that spans a
location of Table 2.7 and reserved offsets counts whole as an access to a reserved offset (DESIGN CHOICE, log entry 109). -/
def pageRead (s : State) (t off size : Nat) : State :=
  let give (s : State) (bs : List Byte) : State := emit s (.readData (pageMa t off) bs false)
  if !(tenOf s t).enabled then give (violate s t 0x0A 0 size off 0 0) (List.replicate size 0xFF)
  else if off + size ≤ 8 ∨ (0x1000 ≤ off ∧ off + size ≤ 0x1400) then give s (List.replicate size 0)
  else if 0x100 ≤ off ∧ off + size ≤ 0x108 then give s (((leBytes 8 (statusWord s t).toNat).drop (off - 0x100)).take size)
  else give (violate s t 0x09 0 size off 0 0) (List.replicate size 0xFF)

/-- CONTROL_PAGE_INVALID_ACCESS (R44). -/
def execControlPageInvalidAccess (ten : BitVec 8) (off : BitVec 16) (len : Nat) (write : Bool) (value : Word64) (s : State) :
    Host.Outcome State Fault Refusal :=
  .next (viaHost s (if write then pageWrite s ten.toNat off.toNat len (BitVec.ofNat 512 value.toNat) else pageRead s ten.toNat off.toNat len))

/-- DIRECT_SLOT_WRITE (R74-R76). -/
def execDirectSlotWrite (ten : BitVec 8) (off : BitVec 16) (size : Nat) (data : Descriptor) (s : State) :
    Host.Outcome State Fault Refusal := .next (viaHost s (pageWrite s ten.toNat off.toNat size data))

/-! Records on their way to host memory (R78-R80, R87, R89, R90). -/

/-- A CXL.cache write that is over. -/
def dropHostWrite (s : State) (i : Nat) : State := { s with hostWrites := s.hostWrites.filter (fun w => w.id != i) }

/-- Whether the writes issued before one let it be observed: records of one ring in order, and a completion after every older event
of its tenancy (R78, R418). -/
def inOrder (s : State) (w : HostWrite) : Bool :=
  let older := s.hostWrites.takeWhile (fun v => v.id != w.id)
  match w.kind with
  | .completion _ => older.all (fun v => !isCompletion w.ten v && !isEvent w.ten v)
  | .event _ => older.all (fun v => !isEvent w.ten v)
  | _ => true

/-- An event record that never reaches its ring (R85). -/
def loseEvent (s : State) (w : HostWrite) : State :=
  let s := modTen s w.ten (fun x => { x with eqOverflow := true })
  let type := (w.bytes.getD 0 0).toNat
  if type = 1 then s
  else logDroppedEvent s w.ten type (BitVec.ofNat 16 (leNat ((w.bytes.drop 2).take 2))) (w.bytes.drop 16)

/-- A write to a press's host window is over; the task that made it may have been cancelled since. -/
def windowOver (s : State) (e i : Nat) : State :=
  match (pressOf s e).proc.task with
  | some t => if t.id = i then modPress s e (fun p => { p with hostPending := p.hostPending - 1 }) else s
  | none => s

/-- A write that has become observable: a record lands and its tail advances, a summary or snapshot lets its descriptor complete, a
press's window byte is committed. -/
def observe (s : State) (w : HostWrite) : State :=
  let s := dropHostWrite s w.id
  match w.kind with
  | .completion irq =>
    if (ringOf s w.ten cq).enabled then landRecord s w.ten cq 16 3 w.bytes irq
    else modTen s w.ten (fun x => { x with cqLost := true })
  | .event irq =>
    if (ringOf s w.ten eq5).enabled then landRecord s w.ten eq5 32 1 w.bytes irq else loseEvent s w
  | .summary i st =>
    finishPart (emit s (.hostWrite w.addr w.bytes w.poison)) i .scrubber st (((activeOf s i).map (·.detail)).getD 0)
  | .snapshot i =>
    finishPart (emit s (.hostWrite w.addr w.bytes w.poison)) i .meter .ok (((activeOf s i).map (·.detail)).getD 0)
  | .opSnapshot => modTen (emit s (.hostWrite w.addr w.bytes w.poison)) w.ten (fun x => { x with snapBusy := false })
  | .window e i => windowOver (emit s (.hostWrite w.addr w.bytes w.poison)) e i

/-- A write to a press's host window failed: the task that made it ends with FETCH_POISON, also when it had come to its PHALT (R87). -/
def failWindow (s : State) (e i : Nat) : State :=
  let s := windowOver s e i
  match (pressOf s e).proc.task, (pressOf s e).proc.ended with
  | some t, none => if t.id = i then faultTask s (.press (eng e)) .fetchPoison 0 0 0 else s
  | some t, some d =>
    if t.id = i ∧ d.status = .ok then
      modPress s e (fun p => { p with proc := { p.proc with ended := some (endingOf s (.press (eng e)) .fetchPoison (pressPayload s e 0 0 0)) } })
    else s
  | none, _ => s

/-- The identifier in SOURCE of a failed write: 8 for the completion ring, 9 for the event ring; 0 for the other records, of which
Table 17.2 says nothing (DESIGN CHOICE, log entry 111). -/
def HwKind.ident : HwKind → Nat
  | .completion _ => 8
  | .event _ => 9
  | _ => 0

/-- The tag of the work that a write belongs to (R436): that of the record, of the descriptor, or of the press task while it is there. -/
def writeTag (s : State) (w : HostWrite) : Option (BitVec 16) :=
  match w.kind with
  | .completion _ => some (BitVec.ofNat 16 (leNat (w.bytes.take 2)))
  | .event _ => if w.bytes.getD 0 0 = 2 then none else some (BitVec.ofNat 16 (leNat ((w.bytes.drop 2).take 2)))
  | .summary i _ => (activeOf s i).map (fun a => dTag a.raw)
  | .snapshot i => (activeOf s i).map (fun a => dTag a.raw)
  | .opSnapshot => none
  | .window e i => if taskId s (.press (eng e)) = some i then some (coreTag s (.press (eng e))) else none

/-- A CXL.cache write that failed, or that was not complete within 10 ms (R87). The entry's SIZE, OFFSET and VALUE, which Table 17.4 gives for a
page write alone, are the length of the module's own write modulo 256, 0 and its first 8 bytes, PHASE still 0 (DESIGN CHOICE, log entry 133). -/
def failWrite (s : State) (w : HostWrite) : State :=
  let tag := writeTag s w
  let s := dropHostWrite s w.id
  let s := violateTag s w.ten tag 0x0F w.kind.ident w.bytes.length 0 0 (leNat (w.bytes.take 8))
  match w.kind with
  | .completion _ => modTen s w.ten (fun x => { x with cqLost := true })
  | .event _ => loseEvent s w
  | .summary i _ => endDesc s i .fetchPoison .scrubber 0 (((activeOf s i).map (·.index)).getD 0)
  | .snapshot i => endDesc s i .fetchPoison .meter 0 (((activeOf s i).map (·.index)).getD 0)
  | .opSnapshot => modTen s w.ten (fun x => { x with snapBusy := false })
  | .window e i => failWindow s e i

/-- RECORD_OBSERVABLE (R79, R89, R90); a write that is not complete within 10 ms has failed (R87). -/
def execRecordObservable (id : Nat) (s : State) : Host.Outcome State Fault Refusal :=
  .next (match s.hostWrites.find? (fun w => w.id == id) with
    | some w => if w.at_ + 10 * Config.ms < s.elapsed then failWrite s w else if inOrder s w then observe s w else s
    | none => s)

/-- CACHE_WRITE_FAIL (R87). -/
def execCacheWriteFail (id : Nat) (s : State) : Host.Outcome State Fault Refusal :=
  .next (match s.hostWrites.find? (fun w => w.id == id) with
    | none => s
    | some w => failWrite s w)

/-- STAGED_RECORD_DRAIN (R80). -/
def execStagedRecordDrain (ten : BitVec 8) (s : State) : Host.Outcome State Fault Refusal := .next (drainStaged s ten.toNat)

/-- IRQ_HOLDOFF_EXPIRY: the held messages of a vector are sent as one (R90). -/
def execIrqHoldoffExpiry (ten : BitVec 8) (vec : BitVec 3) (s : State) : Host.Outcome State Fault Refusal :=
  let t := ten.toNat
  let v := mget VecState.empty (tenOf s t).vecs vec.toNat
  .next (match v.held, v.last with
    | true, some l => sendIrq (advanceTo s (l + (irqHoldoff s t * 8 + 4) / 5)) t vec.toNat
    | _, _ => s)

end Sys2Proof.Machine
end

