-- ==== Sys2Proof/Machine/Formats.lean ====
section
/-! DEFINITION. Number formats: decoding, exact arithmetic, the one rounding step, special values, block scales and exp2
(R176-R191). -/

namespace Sys2Proof.Machine

/-- A decoded value: NaN, an infinity, or sign, integer mantissa and binary exponent, kept exactly. -/
inductive Num where
  | nan
  | inf (neg : Bool)
  | fin (neg : Bool) (m : Nat) (e : Int)
  deriving DecidableEq, Repr

/-- A floating-point format of Table 6.1: width, mantissa bits, exponent of the smallest subnormal, encoding of the largest finite
magnitude, of infinity if any, and of the canonical NaN if any. -/
structure FloatFmt where
  width : Nat
  mb    : Nat
  emin  : Int
  top   : Nat
  infB  : Option Nat
  nanB  : Option Nat
  deriving DecidableEq, Repr

/-- The float format of a code; codes 5 to 9 give their element format (Table 6.1). -/
def floatFmt (f : Nat) : FloatFmt :=
  match f with
  | 0 => { width := 32, mb := 23, emin := -149, top := 0x7F7FFFFF, infB := some 0x7F800000, nanB := some 0x7FC00000 }
  | 1 => { width := 16, mb := 7, emin := -133, top := 0x7F7F, infB := some 0x7F80, nanB := some 0x7FC0 }
  | 2 => { width := 8, mb := 3, emin := -9, top := 0x7E, infB := none, nanB := some 0x7F }
  | 5 => { width := 8, mb := 3, emin := -9, top := 0x7E, infB := none, nanB := some 0x7F }
  | 3 => { width := 8, mb := 2, emin := -16, top := 0x7B, infB := some 0x7C, nanB := some 0x7E }
  | 6 => { width := 8, mb := 2, emin := -16, top := 0x7B, infB := some 0x7C, nanB := some 0x7E }
  | 7 => { width := 6, mb := 2, emin := -4, top := 0x1F, infB := none, nanB := none }
  | 8 => { width := 6, mb := 3, emin := -3, top := 0x1F, infB := none, nanB := none }
  | _ => { width := 4, mb := 1, emin := -1, top := 0x7, infB := none, nanB := none }

/-- Whether a code's elements are integers: INT8 and MXINT8. -/
def isInt8 (f : Nat) : Bool := f == 4 || f == 0xA

/-- The value of an element's bits (R176). -/
def decodeNum (f raw : Nat) : Num :=
  if isInt8 f then
    let v := signed 8 raw
    .fin (decide (v < 0)) v.natAbs (if f = 4 then 0 else -6)
  else
    let k := floatFmt f
    let neg := raw.testBit (k.width - 1)
    let mag := raw % 2 ^ (k.width - 1)
    if k.infB = some mag then .inf neg
    else if k.nanB.isSome ∧ k.top < mag then .nan
    else
      let ex := mag / 2 ^ k.mb
      let m := mag % 2 ^ k.mb
      if ex = 0 then .fin neg m k.emin else .fin neg (m + 2 ^ k.mb) (k.emin + (ex : Int) - 1)

/-- A value times 2^k. -/
def Num.scale (v : Num) (k : Int) : Num :=
  match v with
  | .fin n m e => .fin n m (e + k)
  | v => v

/-- An element of an MX block under its scale byte (R178, R179). -/
def decodeMx (f raw scale : Nat) : Num :=
  if scale = 255 then .nan else (decodeNum f raw).scale ((scale : Int) - 127)

/-- m / 2^s rounded to nearest, ties to even (R181). -/
def roundShift (m s : Nat) : Nat :=
  let q := m / 2 ^ s
  let r := m % 2 ^ s
  if 2 * r < 2 ^ s then q else if 2 ^ s < 2 * r then q + 1 else q + q % 2

/-- The magnitude encoding of m × 2^e rounded to a format's precision with an unbounded exponent; subnormals by the same rounding
(R182). -/
def roundMag (k : FloatFmt) (m : Nat) (e : Int) : Nat :=
  if m = 0 then 0
  else
    let q := max k.emin (e + (Nat.log2 m + 1 : Nat) - (k.mb + 1 : Nat))
    let r := if q ≤ e then m * 2 ^ (e - q).toNat else roundShift m (q - e).toNat
    (q - k.emin).toNat * 2 ^ k.mb + r

/-- m × 2^e rounded to an integer, ties to even. -/
def roundInt (m : Nat) (e : Int) : Nat := if 0 ≤ e then m * 2 ^ e.toNat else roundShift m (-e).toNat

/-- The sign of a value placed above a magnitude encoding. -/
def withSign (k : FloatFmt) (neg : Bool) (mag : Nat) : Nat := mag + b2n neg * 2 ^ (k.width - 1)

/-- A value converted to a format that is not MX (R182, Table 6.3). -/
def encodeNum (f : Nat) (v : Num) : Nat :=
  if f = 4 then
    match v with
    | .nan => 0
    | .inf n => if n then 0x80 else 0x7F
    | .fin n m e =>
      let r := roundInt m e
      if n then (256 - min 128 r) % 256 else min 127 r
  else
    let k := floatFmt f
    match v with
    | .nan => k.nanB.getD 0
    | .inf n => match k.infB with
      | some i => withSign k n i
      | none => k.nanB.getD 0
    | .fin n m e =>
      let r := roundMag k m e
      if r ≤ k.top then withSign k n r
      else if f = 0 ∨ f = 1 then withSign k n (k.infB.getD 0)
      else withSign k n k.top

/-- A finite scaled value converted to an MX element, saturating (R180). -/
def encodeMxElem (f : Nat) (v : Num) : Nat :=
  match v with
  | .fin n m e =>
    if f = 0xA then
      let r := roundInt m (e + 6)
      if n then (256 - min 128 r) % 256 else min 127 r
    else
      let k := floatFmt f
      withSign k n (min k.top (roundMag k m e))
  | _ => 0

/-- The FP32 bits of a value (R181, R182). -/
def toF32 (v : Num) : Word := BitVec.ofNat 32 (encodeNum 0 v)
/-- The value of FP32 bits. -/
def ofF32 (w : Word) : Num := decodeNum 0 w.toNat

/-! Exact arithmetic. -/

/-- The negation. -/
def Num.neg (v : Num) : Num :=
  match v with
  | .nan => .nan
  | .inf n => .inf (!n)
  | .fin n m e => .fin (!n) m e

/-- The exact product. -/
def Num.mul (a b : Num) : Num :=
  match a, b with
  | .fin n m e, .fin n' m' e' => .fin (n != n') (m * m') (e + e')
  | .inf n, .inf n' => .inf (n != n')
  | .inf n, .fin n' m _ => if m = 0 then .nan else .inf (n != n')
  | .fin n m _, .inf n' => if m = 0 then .nan else .inf (n != n')
  | _, _ => .nan

/-- A finite value as an integer multiple of 2^q, q no larger than its exponent. -/
def alignInt (n : Bool) (m : Nat) (e q : Int) : Int := (if n then -1 else 1) * ((m * 2 ^ (e - q).toNat : Nat) : Int)

/-- The exact sum; an exact zero is positive unless both terms are negative zeros. -/
def Num.add (a b : Num) : Num :=
  match a, b with
  | .fin n m e, .fin n' m' e' =>
    let q := min e e'
    let v := alignInt n m e q + alignInt n' m' e' q
    if v = 0 then .fin (n && n') 0 q else .fin (decide (v < 0)) v.natAbs q
  | .inf n, .inf n' => if n = n' then .inf n else .nan
  | .inf n, .fin _ _ _ => .inf n
  | .fin _ _ _, .inf n => .inf n
  | _, _ => .nan

/-- a < b, for values that are not NaN. -/
def Num.lt (a b : Num) : Bool :=
  match a, b with
  | .inf n, .inf n' => n && !n'
  | .inf n, .fin _ _ _ => n
  | .fin _ _ _, .inf n => !n
  | .fin n m e, .fin n' m' e' => decide (alignInt n m e (min e e') < alignInt n' m' e' (min e e'))
  | _, _ => false

/-- Whether a value is a NaN. -/
def Num.isNan (v : Num) : Bool := match v with | .nan => true | _ => false
/-- Whether a value is a zero of either sign. -/
def Num.isZero (v : Num) : Bool := match v with | .fin _ 0 _ => true | _ => false

/-- The larger operand; NaN if either is; +0 of two zeros that differ (R186). -/
def Num.max (a b : Num) : Num :=
  if a.isNan || b.isNan then .nan
  else if a.isZero && b.isZero then (match a with | .fin true _ _ => b | _ => a)
  else if a.lt b then b else a

/-- The smaller operand, the mirror of the larger (R186). -/
def Num.min (a b : Num) : Num :=
  if a.isNan || b.isNan then .nan
  else if a.isZero && b.isZero then (match a with | .fin true _ _ => a | _ => b)
  else if b.lt a then b else a

/-- FP32 addition (one rounding). -/
def addF32 (a b : Word) : Word := toF32 ((ofF32 a).add (ofF32 b))
/-- FP32 multiplication. -/
def mulF32 (a b : Word) : Word := toF32 ((ofF32 a).mul (ofF32 b))
/-- FP32 maximum. -/
def maxF32 (a b : Word) : Word := toF32 ((ofF32 a).max (ofF32 b))
/-- FP32 bits with any NaN made canonical (R181). -/
def canonF32 (a : Word) : Word := toF32 (ofF32 a)
/-- FP32 minimum. -/
def minF32 (a b : Word) : Word := toF32 ((ofF32 a).min (ofF32 b))

/-- The exact sum of a beat's products, rounded once; an exact zero is +0 (R184). -/
def dotSum (ps : List Num) : Num :=
  match ps.foldl Num.add (.fin false 0 0) with
  | .fin _ 0 _ => .fin false 0 0
  | v => v

/-- A list with the element at an index taken out. -/
def pluck {α : Type} (d : α) (l : List α) (i : Nat) : α × List α := (l.getD i d, l.eraseIdx i)

/-- FP32 values combined pair by pair in an order that is not specified (R186, R191): the draws name the pairs. -/
def foldAny (fuel : Nat) (op : Word → Word → Word) (draws : Nat) (l : List Word) : Word × Nat :=
  match fuel with
  | 0 => (l.headD 0, draws)
  | k + 1 =>
    match l with
    | [] => (0, draws)
    | [v] => (v, draws)
    | _ =>
      let (a, r) := pluck 0 l (Config.orderPick draws % l.length)
      let (b, r) := pluck 0 r (Config.orderPick (draws + 1) % (l.length - 1))
      foldAny k op (draws + 2) (r ++ [op a b])

/-! exp2 (R187, Table 6.4). -/

/-- 2^(2^-i) for i = 1 to 48 in units of 2^-96, rounded to nearest. -/
def expTable : List Nat :=
  [
   0x16A09E667F3BCC908B2FB1367, 0x1306FE0A31B7152DE8D5A4630, 0x1172B83C7D517ADCDF7C8C50F,
   0x10B5586CF9890F6298B92B718, 0x1059B0D31585743AE7C548EB7, 0x102C9A3E778060EE6F7CACA4F,
   0x10163DA9FB33356D84A66AE33, 0x100B1AFA5ABCBED6129AB13EC, 0x10058C86DA1C09EA1FF19D295,
   0x1002C605E2E8CEC506D21BFC9, 0x100162F3904051FA128BCA9C5, 0x1000B175EFFDC76BA38E31672,
   0x100058BA01FB9F96D6CACD4B2, 0x10002C5CC37DA9491D0985C35, 0x1000162E525EE054754457D5A,
   0x10000B17255775C040618BF4A, 0x1000058B91B5BC9AE2EED81EA, 0x100002C5C89D5EC6CA4D7C8AD,
   0x10000162E43F4F831060E02D8, 0x100000B1721BCFC99D9F890EA, 0x10000058B90CF1E6D97F9CA15,
   0x1000002C5C863B73F016468F7, 0x100000162E430E5A18F6119E4, 0x1000000B1721835514B86E6D9]
  ++ [
   0x100000058B90C0B48C6BE5DF8, 0x10000002C5C8601CC6B9E9421, 0x1000000162E42FFF037DF38AA,
   0x10000000B17217FBA9C739AA6, 0x1000000058B90BFCDEE5ACD3C, 0x100000002C5C85FE31F35A6A3,
   0x10000000162E42FF0999CE354, 0x100000000B17217F80F4EF5AB, 0x10000000058B90BFBF8479BD6,
   0x1000000002C5C85FDF84BD62B, 0x100000000162E42FEFB2FED25, 0x1000000000B17217F7D5A7717,
   0x100000000058B90BFBE9DDBAC, 0x10000000002C5C85FDF4B15DE, 0x1000000000162E42FEFA494F1,
   0x10000000000B17217F7D20CF9, 0x1000000000058B90BFBE8F71D, 0x100000000002C5C85FDF477B6,
   0x10000000000162E42FEFA3AE5, 0x100000000000B17217F7D1D35, 0x10000000000058B90BFBE8E8B,
   0x1000000000002C5C85FDF4742, 0x100000000000162E42FEFA3A0, 0x1000000000000B17217F7D1D0]

/-- 2^f in units of 2^-23, rounded down, for f = n / 2^48 below 1. -/
def expFrac (n : Nat) : Nat :=
  ((List.range 48).foldl (fun p i => if n.testBit (47 - i) then p * expTable.getD i 0 / 2 ^ 96 else p) (2 ^ 96)) / 2 ^ 73

/-- A value in units of 2^-48, rounded down. -/
def fix48 (n : Bool) (m : Nat) (e : Int) : Int :=
  let k := e + 48
  let a : Int := if n then -(m : Int) else m
  if 0 ≤ k then a * 2 ^ k.toNat else a / 2 ^ (-k).toNat

/-- Whether a finite value is an integer. -/
def isWhole (m : Nat) (e : Int) : Bool := decide (0 ≤ e) || m % 2 ^ (-e).toNat == 0

/-- FP32 bits in ascending order of their values. -/
def f32Key (x : Word) : Nat := if x.msb then 2 ^ 31 - x.toNat % 2 ^ 31 else 2 ^ 31 + x.toNat

/-- exp2 of FP32 bits (Table 6.4). Between integers the result is any normal value within two units in the last place: which one is
free, but a greater operand never takes a smaller result. -/
def exp2F32 (x : Word) : Word :=
  match ofF32 x with
  | .nan => 0x7FC00000
  | .inf n => if n then 0 else 0x7F800000
  | .fin n m e =>
    let v := fix48 n m e
    if 128 * 2 ^ 48 ≤ v then 0x7F800000
    else if v < -126 * 2 ^ 48 then 0
    else
      let k := v / 2 ^ 48
      if isWhole m e then BitVec.ofNat 32 ((k + 127).toNat * 2 ^ 23)
      else
        let f := expFrac (v % 2 ^ 48).toNat
        let at_ (c : Nat) : Word :=
          BitVec.ofNat 32 ((k + 126).toNat * 2 ^ 23 + max (2 ^ 23) (min (if k = 127 then 2 ^ 24 - 1 else 2 ^ 24) c))
        (([f + 2, f + 1, f].map at_).find? (fun r => decide (Config.exp2From r ≤ f32Key x))).getD (at_ (f - 1))

/-- 2^(a − b): the difference rounded once to FP32; +0 if both are −∞ (R187). -/
def exp2Diff (a b : Word) : Word :=
  if ofF32 a = .inf true ∧ ofF32 b = .inf true then 0 else exp2F32 (toF32 ((ofF32 a).add (ofF32 b).neg))

/-! Block scales (R180). -/

/-- emax of an MX code (Table 6.2). -/
def emaxOf (f : Nat) : Int :=
  match f with
  | 5 => 8 | 6 => 15 | 7 => 4 | 8 => 2 | 9 => 2 | _ => 0

/-- The scale byte and the elements of a block quantised to an MX code (R180). -/
def quantBlock (f : Nat) (vs : List Word) : Nat × List Nat :=
  let ns := vs.map ofF32
  if ns.any (fun v => match v with | .fin _ _ _ => false | _ => true) then (255, vs.map (fun _ => 0))
  else
    let mag : Num := ns.foldl (fun (a v : Num) => match v with | .fin _ m e => a.max (.fin false m e) | _ => a) (.fin false 0 0)
    let x : Nat := match mag with
      | .fin _ m e => if m = 0 then 0 else (max 0 (min 254 (e + (Nat.log2 m : Nat) - emaxOf f + 127))).toNat
      | _ => 255
    (x, ns.map (fun v => encodeMxElem f (v.scale (127 - (x : Int)))))

/-! Elements in a column (R177, R345). -/

/-- Bits of an element. -/
def elemBits (f : Nat) : Nat := if isFp6 f then 6 else 4 * nibbles f
/-- The bits of element i of a column. -/
def colRaw (f col i : Nat) : Nat := col / 2 ^ (elemBits f * i) % 2 ^ elemBits f
/-- The words of a column in which element i lies, from first to last. -/
def colWords (f i : Nat) : Nat × Nat := (elemBits f * i / 32, (elemBits f * i + elemBits f - 1) / 32)

/-- The scale byte of element i of a column and its poison: in the column for MXFP6, else from the scale array (R177, R179). -/
def colScale (f : Nat) (c : StreamCol) (i : Nat) : Option (Nat × Bool) :=
  if isFp6 f then some (bits c.data 192 8, bit c.poison 6)
  else if scaleArray f then
    let (b, p) := c.scales.getD (i / 32) (0, false)
    some (b.toNat, p)
  else none

/-- Element i of a stream column: its value and poison. -/
def colElem (f : Nat) (c : StreamCol) (i : Nat) : Num × Bool :=
  let raw := colRaw f c.data.toNat i
  let (a, b) := colWords f i
  let p := bit c.poison a || bit c.poison b
  match colScale f c i with
  | some (x, q) => (decodeMx f raw x, p || q)
  | none => (decodeNum f raw, p)

/-- Bits of a value in one format converted to another: the bits unchanged between equal codes (R190). -/
def convertRaw (fin fout raw : Nat) : Nat := if fin = fout then raw else encodeNum fout (decodeNum fin raw)

/-- Formats that the local store and a conversion's result may take: FP32, BF16, FP8, INT8. -/
def plainFmt (f : Nat) : Bool := decide (f ≤ 4)

end Sys2Proof.Machine
end

