-- ==== Sys2Proof/Machine/Vector.lean ====
section
/-! DEFINITION. Vector instructions of a bank unit, BWRITE, and the beats that carry them out (R108, R139-R147, R158-R165, R171,
R184-R190, R345, R472). -/

namespace Sys2Proof.Machine

/-! Fields and operands. -/

/-- Shape register i. -/
def shapeOf (p : Proc) (i : Nat) : Shape := mget Shape.zero p.shapes i
/-- First global lane of a VA word (R141). -/
def vaLane (w : Word64) : Nat := 32 * bits w 52 4 + bits w 47 5
/-- Local-store address of a VA word: a sum without bound, which the range check then judges (R139, R158). -/
def vaAddr (p : Proc) (w : Word64) : Nat := bits w 16 16 + (rget p (rf w 0)).val.toNat

/-- A local-store operand: address, bytes of a row, rows, bytes between rows. -/
structure Rows where
  a  : Nat
  rl : Nat
  n  : Nat
  s  : Int
  deriving DecidableEq, Repr

/-- The address of row i. -/
def Rows.row (o : Rows) (i : Nat) : Int := (o.a : Int) + (i : Int) * o.s

/-- The range check of an operand in a memory of m bytes: REASON 0x05 (R139). INFO is the operand's lowest byte where that lies below 0
and its highest byte otherwise (DESIGN CHOICE, log entry 120). -/
def Rows.range (o : Rows) (m : Nat) : List (Nat × Nat) :=
  if o.rl = 0 ∨ o.n = 0 then []
  else
    let lo := min (o.row 0) (o.row (o.n - 1))
    let hi := max (o.row 0) (o.row (o.n - 1)) + o.rl - 1
    if lo < 0 then [(0x05, (lo % 2 ^ 32).toNat)]
    else if (m : Int) ≤ hi then [(0x05, (hi % 2 ^ 32).toNat)] else []

/-- Whether two operands share a byte. -/
def Rows.meets (a b : Rows) : Bool :=
  (List.range a.n).any (fun i => (List.range b.n).any (fun j =>
    decide (a.row i < b.row j + b.rl) && decide (b.row j < a.row i + a.rl)))

/-- Two operands of one address and shape (R140). -/
def Rows.same (a b : Rows) : Bool := a.a == b.a && a.n == b.n && (a.n == 1 || a.s == b.s)

/-- The destination rule of R140: identical to an operand for which that is allowed, or apart from all. -/
def overlapCheck (d : Rows) (ops same : List Rows) : List (Nat × Nat) := failIf (!same.any d.same && ops.any d.meets) 0x06 0

/-- The beats of a vector instruction begin; with none it is over at once (R108, Table 5.5). -/
def startVec (s : State) (b : BitVec 12) (w : Word64) (total : Nat) : State :=
  if total = 0 then stepOn s (.unit b)
  else modProc s (.unit b) (fun q => { q with vec := some { word := w, beat := 0, total := total } })

/-- n / k rounded up. -/
def ceilDiv (n k : Nat) : Nat := (n + k - 1) / k

/-- The format of a unit's open stream. -/
def streamFmt (s : State) (b : Nat) : Option Nat := (unitOf s b).stream.map (·.fmt)

/-- Whether VDOT pairs a stream format with a local-store format (Table 5.7). -/
def dotPair (sf lf : Nat) : Bool :=
  if sf = 1 then lf == 1
  else if sf = 4 ∨ sf = 0xA then lf == 4
  else (decide (2 ≤ sf) && decide (sf ≤ 9)) && (lf == 2 || lf == 3)

/-- REASON 0x07: no BSTREAM has issued in the task (R147). -/
def needStream (s : State) (b : BitVec 12) (go : State) : State :=
  if (unitOf s b.toNat).stream.isNone then faultTask s (.unit b) .buFault 0x07 0 0 else go

/-! The instructions: their checks before the first beat. -/

/-- VDOT (R158). A lane that passes 511 is named by the first lane (log entry 120). -/
def execVdot (b : BitVec 12) (s : State) : Host.Outcome State Fault Refusal :=
  .next (issue s (.unit b) 0x48 (fun w => bits w 5 11 == 0 && !bit w 4) (fun s p w =>
    let sh := shapeOf p (bits w 44 3)
    let lf := bits w 40 4
    let cnt := bits w 32 8
    let g0 := vaLane w
    let sf := streamFmt s b.toNat
    let e := perColumn (sf.getD 0)
    let shapeBad := sh.n1 == 0 || decide (16 < sh.n1) || sh.n0 == 0 || cnt == 0 || (sf.isSome && sh.n0 % e != 0)
    let lanes := decide (512 < g0 + cnt * sh.n1)
    let o : Rows := { a := vaAddr p w, rl := sh.n0 * fmtBytes lf, n := sh.n1, s := sh.s1 }
    judge s (.unit b) p [rf w 0]
      (failIf (!plainFmt lf || (match sf with | some f => !dotPair f lf | none => false)) 0x03 0
        ++ failIf shapeBad 0x04 0 ++ failIf lanes 0x04 g0
        ++ failIf (sh.s0 != 1) 0x04 0 ++ o.range 65536)
      (needStream s b (startVec s b w (cnt * (sh.n0 / e) * ceilDiv sh.n1 2)))))

/-- VAXPY (R159). A lane that passes 511 is named by the first lane (log entry 120). -/
def execVaxpy (b : BitVec 12) (s : State) : Host.Outcome State Fault Refusal :=
  .next (issue s (.unit b) 0x49 (fun w => bits w 5 11 == 0 && !bit w 4) (fun s p w =>
    let sh := shapeOf p (bits w 44 3)
    let lf := bits w 40 4
    let cnt := bits w 32 8
    let sf := streamFmt s b.toNat
    let k := cnt * perColumn (sf.getD 0)
    let acc := bits w 52 4
    let o : Rows := { a := vaAddr p w, rl := sh.n0 * fmtBytes lf, n := sh.n1, s := sh.s1 }
    judge s (.unit b) p [rf w 0]
      (failIf (!plainFmt lf || (sf.isSome && (decide (1 < lf) || sf == some 0))) 0x03 0
        ++ failIf (decide (16 < sh.n0) || bits w 47 5 != 0 || cnt == 0 || (sf.isSome && k % 32 != 0)) 0x04 0
        ++ failIf (sf.isSome && decide (16 < acc + sh.n0 * (k / 32))) 0x04 (32 * acc)
        ++ failIf (sh.s0 != 1) 0x04 0 ++ o.range 65536)
      (if sh.n0 = 0 ∨ sh.n1 = 0 then stepOn s (.unit b)
       else needStream s b (startVec s b w (sh.n1 * cnt * ceilDiv sh.n0 2)))))

/-- Shape, destination and operand fields of a VL word. -/
def vlShape (p : Proc) (w : Word64) : Shape := shapeOf p (bits w 51 3)
/-- DST of a VL word. -/
def vlDst (w : Word64) : Nat := bits w 32 16
/-- A of a VL word. -/
def vlA (w : Word64) : Nat := bits w 16 16
/-- B of a VL word. -/
def vlB (w : Word64) : Nat := bits w 0 16

/-- An operand of a shape with elements of z bytes. -/
def shapeRows (sh : Shape) (a z : Nat) : Rows := { a := a, rl := sh.n0 * z, n := sh.n1, s := sh.s1 }

/-- Operand B of an element-wise instruction (Table 5.9). -/
def bRows (sh : Shape) (mode a z : Nat) : Rows :=
  if mode = 0 then shapeRows sh a z
  else if mode = 1 then { a := a, rl := sh.n0 * z, n := 1, s := 0 }
  else { a := a, rl := z, n := 1, s := 0 }

/-- Bytes of a VL element: FMT 0 is FP32, 1 is BF16. -/
def vlBytes (w : Word64) : Nat := if bits w 48 3 = 0 then 4 else 2

/-- VMUL, VADD, VMAX and VEXP: their checks (R140, R160, R161). -/
def elementwise (s : State) (b : BitVec 12) (op zin : Nat) (beats : Shape → Word64 → Nat) : State :=
  issue s (.unit b) op (fun w => bits w 54 2 != 3) (fun s p w =>
    let sh := vlShape p w
    let za := if zin = 0 then vlBytes w else zin
    let a := shapeRows sh (vlA w) za
    let bo := bRows sh (bits w 54 2) (vlB w) za
    let d := shapeRows sh (vlDst w) (vlBytes w)
    let live := sh.n0 != 0 && sh.n1 != 0
    judge s (.unit b) p []
      (failIf (decide (1 < bits w 48 3)) 0x03 0 ++ failIf (sh.s0 != 1) 0x04 0
        ++ (if live then a.range 65536 ++ bo.range 65536 ++ d.range 65536
              ++ overlapCheck d [a, bo] (if bits w 54 2 == 2 && sh.n0 != 1 then [a] else [a, bo]) else []))
      (startVec s b w (if live then beats sh w else 0)))

/-- Beats of VMUL, VADD and VMAX (Table 5.5). -/
def elemBeats (sh : Shape) (w : Word64) : Nat := sh.n1 * ceilDiv sh.n0 (64 / vlBytes w)

/-- VMUL (R160). -/
def execVmul (b : BitVec 12) (s : State) : Host.Outcome State Fault Refusal := .next (elementwise s b 0x50 0 elemBeats)
/-- VADD (R160). -/
def execVadd (b : BitVec 12) (s : State) : Host.Outcome State Fault Refusal := .next (elementwise s b 0x51 0 elemBeats)
/-- VMAX (R160). -/
def execVmax (b : BitVec 12) (s : State) : Host.Outcome State Fault Refusal := .next (elementwise s b 0x52 0 elemBeats)
/-- VEXP (R161). -/
def execVexp (b : BitVec 12) (s : State) : Host.Outcome State Fault Refusal :=
  .next (elementwise s b 0x53 4 (fun sh _ => ceilDiv (sh.n0 * sh.n1) 8))

/-- VRED (R162). -/
def execVred (b : BitVec 12) (s : State) : Host.Outcome State Fault Refusal :=
  .next (issue s (.unit b) 0x54 (fun w => bits w 2 14 == 0 && bits w 54 2 == 0) (fun s p w =>
    let sh := vlShape p w
    let a := shapeRows sh (vlA w) 4
    let n := if bit w 0 then sh.n0 else sh.n1
    let d : Rows := { a := vlDst w, rl := 4 * n, n := 1, s := 0 }
    let live := sh.n0 != 0 && sh.n1 != 0
    judge s (.unit b) p []
      (failIf (bits w 48 3 != 0) 0x03 0 ++ failIf (sh.s0 != 1) 0x04 0
        ++ (if live then a.range 65536 ++ d.range 65536 ++ overlapCheck d [a] [] else []))
      (startVec s b w (if !live then 0
        else if sh.s1 = 4 * sh.n0 then ceilDiv (sh.n0 * sh.n1) 16 else sh.n1 * ceilDiv sh.n0 16))))

/-- FIN and FOUT of VCVT. -/
def cvtIn (w : Word64) : Nat := bits w 8 4
/-- FOUT of VCVT. -/
def cvtOut (w : Word64) : Nat := bits w 12 4

/-- VCVT (R163, R189). -/
def execVcvt (b : BitVec 12) (s : State) : Host.Outcome State Fault Refusal :=
  .next (issue s (.unit b) 0x55 (fun w => bits w 1 7 == 0 && bits w 48 3 == 0 && bits w 54 2 == 0 && (!bit w 0 || vlA w == 0))
    (fun s p w =>
      let sh := vlShape p w
      let strm := bit w 0
      let sf := streamFmt s b.toNat
      let e := perColumn (sf.getD 0)
      let a := shapeRows sh (vlA w) (fmtBytes (cvtIn w))
      let d := shapeRows sh (vlDst w) (fmtBytes (cvtOut w))
      let live := sh.n0 != 0 && sh.n1 != 0
      let n := sh.n0 * sh.n1
      judge s (.unit b) p []
        (failIf (!fmtOk (cvtIn w) || !plainFmt (cvtOut w) || (!strm && !plainFmt (cvtIn w))
            || (strm && sf.isSome && sf != some (cvtIn w))) 0x03 0
          ++ failIf (strm && sf.isSome && sh.n0 % e != 0) 0x04 0 ++ failIf (sh.s0 != 1) 0x04 0
          ++ (if live then (if strm then [] else a.range 65536) ++ d.range 65536
                ++ (if strm then [] else overlapCheck d [a] []) else []))
        (if !live then stepOn s (.unit b)
         else if strm then needStream s b (startVec s b w (n / e))
         else startVec s b w (ceilDiv (n * fmtBytes (cvtIn w)) 64))))

/-- Whether a word is VLD with ZERO. -/
def vldZero (w : Word64) : Bool := bits w 56 8 == 0x58 && bit w 4

/-- Elements of VLD and VST in a beat (Table 5.5). -/
def vaPerBeat (sh : Shape) (w : Word64) : Nat :=
  if vldZero w then 32 else if sh.s0 = 1 then 64 / fmtBytes (bits w 40 4) else 8

/-- VLD and VST: their checks (R139, R141, R164). With ZERO there is no local-store operand: S0 is not judged, and FMT may be any code
that VLD takes (DEDUCED, log entry 119). A lane that passes 511 is named by the first lane (log entry 120). -/
def laneMove (s : State) (b : BitVec 12) (op : Nat) : State :=
  issue s (.unit b) op (fun w => bits w 5 11 == 0 && bits w 32 8 == 0 && (!vldZero w || (bits w 16 16 == 0 && rf w 0 == 0)))
    (fun s p w =>
      let sh := shapeOf p (bits w 44 3)
      let z := fmtBytes (bits w 40 4)
      let n := sh.n0 * sh.n1
      let zero := vldZero w
      let o : Rows := { a := vaAddr p w, rl := ((sh.n0 - 1) * sh.s0 + 1) * z, n := sh.n1, s := sh.s1 }
      judge s (.unit b) p [rf w 0]
        (failIf (!plainFmt (bits w 40 4)) 0x03 0 ++ failIf (decide (512 < vaLane w + n)) 0x04 (vaLane w)
          ++ failIf (!zero && sh.s0 == 0) 0x04 0 ++ (if n != 0 && !zero then o.range 65536 else []))
        (startVec s b w (ceilDiv n (vaPerBeat sh w))))

/-- VLD (R164). -/
def execVld (b : BitVec 12) (s : State) : Host.Outcome State Fault Refusal := .next (laneMove s b 0x58)
/-- VST (R164). -/
def execVst (b : BitVec 12) (s : State) : Host.Outcome State Fault Refusal := .next (laneMove s b 0x59)

/-- BWRITE (R165, R36). -/
def execBwrite (b : BitVec 12) (s : State) : Host.Outcome State Fault Refusal :=
  .next (issue s (.unit b) 0x5A (fun w =>
      if bit w 36 then bits w 0 16 == 0 else bits w 32 4 == 0 && bits w 37 5 == 0 && bits w 42 4 == 0)
    (fun s p w =>
      let len := bits w 16 16
      let r := (rget p (rf w 46)).val.toNat
      let f := bits w 32 4
      let z := if bit w 36 then fmtBytes f else 1
      let g0 := 32 * bits w 42 4 + bits w 37 5
      judge s (.unit b) p [rf w 46]
        (failIf (bit w 36 && !plainFmt f) 0x03 0
          ++ failIf (len == 0 || decide (4096 < len) || len % z != 0 || (bit w 36 && decide (512 < g0 + len / z))) 0x04 len
          ++ failIf (!bit w 36 && decide (65536 < bits w 0 16 + len)) 0x05 (bits w 0 16))
        (match unitRegion s b.toNat (bits w 50 6) with
         | some st => faultTask s (.unit b) st 0 r 0
         | none => startVec s b w ((r + len - 1) / 64 - r / 64 + 1))))

/-! Beats. -/

/-- A beat is over: the next one, or the next instruction. -/
def endBeat (s : State) (b : BitVec 12) : State :=
  modProc s (.unit b) (fun q => match q.vec with
    | some v => if v.beat + 1 < v.total then { q with vec := some { v with beat := v.beat + 1 } } else pnext { q with vec := none }
    | none => q)

/-- A beat's outcome applied: its effect, or the end it gives the task, with INFO (R173). -/
def closeBeat (s : State) (b : BitVec 12) (r : Except (Status × Nat) State) : State :=
  match r with
  | .error (st, i) => faultTask s (.unit b) st 0 i 0
  | .ok s' => endBeat s' b

/-- The region offset of a stream's next column. -/
def Stream.off (t : Stream) (c : Nat) : Int := (t.start : Int) + (c : Int) * t.stride

/-- The column at the stream's head for a beat: exhausted ends the task with REASON 0x08 (R117); an empty buffer stalls; a marked
column ends the task with its status (R115). -/
def withHead (s : State) (b : BitVec 12) (go : Stream → StreamCol → State) : State :=
  match (unitOf s b.toNat).stream with
  | none => s
  | some t =>
    if t.count ≤ t.taken then faultTask s (.unit b) .buFault 0x08 0 0
    else match t.buf with
      | [] => s
      | c :: _ =>
        match c.mark with
        | some st => faultTask s (.unit b) st 0 (t.off t.taken % 2 ^ 32).toNat 0
        | none => go t c

/-- The head column is consumed. -/
def dropHead (s : State) (b : BitVec 12) : State :=
  modUnit s b.toNat (fun u => { u with spos := u.spos + 1, stream := u.stream.map (fun t => { t with taken := t.taken + 1, buf := t.buf.tail }) })

/-- A local-store element of z bytes: its value and poison. -/
def memElem (p : Proc) (f a : Nat) : Num × Bool := (decodeNum f (memNum p a (fmtBytes f)), memBad p a (fmtBytes f))

/-- A lane written with a value and its poison. -/
def putLane (s : State) (b : BitVec 12) (g : Nat) (v : Word) (poison : Bool) : State :=
  let (r, s) := settle s v poison
  modUnit s b.toNat (fun u => { u with acc := mset PWord.zero u.acc g r })

/-- A lane. -/
def laneOf (s : State) (b : BitVec 12) (g : Nat) : PWord := mget PWord.zero (unitOf s b.toNat).acc g

/-- Inputs read by a beat under the task's POISON_MODE: under fault a poisoned input ends the task, with INFO (R472). -/
def takeInput (p : Proc) (poison : Bool) (info : Nat) (r : Except (Status × Nat) State) : Except (Status × Nat) State :=
  if poison && !propagates p then .error (.dataUncorrectable, info) else r

/-- One query of a VDOT beat (R158, R184, R472). -/
def dotStep (b : BitVec 12) (p : Proc) (lf : Nat) (es : List (Num × Bool)) (x g : Nat) (s : State) : Except (Status × Nat) State :=
  let z := fmtBytes lf
  let qs := (List.range es.length).map (fun i => memElem p lf (x + i * z))
  let old := laneOf s b g
  let qbad := qs.any (·.2)
  let sum := dotSum ((es.zip qs).map (fun q => q.1.1.mul q.2.1))
  takeInput p qbad x
    (takeInput p old.poison g
      (.ok (putLane s b g (addF32 old.val (toF32 sum)) (old.poison || qbad || es.any (·.2)))))

/-- Offset of a stream column as INFO. -/
def colInfo (t : Stream) : Nat := (t.off t.taken % 2 ^ 32).toNat

/-- A beat of VDOT. -/
def vdotBeat (s : State) (b : BitVec 12) (p : Proc) (v : Vec) : State :=
  withHead s b (fun t c =>
    let w := v.word
    let sh := shapeOf p (bits w 44 3)
    let lf := bits w 40 4
    let e := perColumn t.fmt
    let h := ceilDiv sh.n1 2
    let k := v.beat % h
    let n := v.beat / h
    let row := n / (sh.n0 / e)
    let ci := n % (sh.n0 / e)
    let es := (List.range e).map (colElem t.fmt c)
    let js := [k, k + h].filter (fun j => decide (j < sh.n1))
    let start := takeInput p (es.any (·.2)) (colInfo t) (.ok s)
    let r := js.foldl (fun r j => match r with
      | .error x => .error x
      | .ok s => dotStep b p lf es ((vaAddr p w : Int) + (j : Int) * sh.s1 + ((ci * e * fmtBytes lf : Nat) : Int)).toNat
                   (vaLane w + row * sh.n1 + j) s) start
    closeBeat s b (match r with
      | .ok s => .ok (if k + 1 = h then dropHead s b else s)
      | .error x => .error x))

/-- One scalar of a VAXPY beat against the column's elements (R159, R185). -/
def axpyStep (b : BitVec 12) (p : Proc) (lf : Nat) (es : List (Num × Bool)) (x g : Nat) (s : State) : Except (Status × Nat) State :=
  let (wv, wp) := memElem p lf x
  takeInput p wp x
    (es.zipIdx.foldl (fun r e => match r with
      | .error x => .error x
      | .ok s =>
        let old := laneOf s b (g + e.2)
        takeInput p old.poison (g + e.2)
          (.ok (putLane s b (g + e.2) (toF32 ((ofF32 old.val).add (wv.mul e.1.1))) (old.poison || wp || e.1.2)))) (.ok s))

/-- A beat of VAXPY. -/
def vaxpyBeat (s : State) (b : BitVec 12) (p : Proc) (v : Vec) : State :=
  withHead s b (fun t c =>
    let w := v.word
    let sh := shapeOf p (bits w 44 3)
    let lf := bits w 40 4
    let cnt := bits w 32 8
    let e := perColumn t.fmt
    let h := ceilDiv sh.n0 2
    let k := v.beat % h
    let row := v.beat / h / cnt
    let ci := v.beat / h % cnt
    let es := (List.range e).map (colElem t.fmt c)
    let js := [k, k + h].filter (fun j => decide (j < sh.n0))
    let start := takeInput p (es.any (·.2)) (colInfo t) (.ok s)
    let r := js.foldl (fun r j => match r with
      | .error x => .error x
      | .ok s => axpyStep b p lf es ((vaAddr p w : Int) + (row : Int) * sh.s1 + ((j * fmtBytes lf : Nat) : Int)).toNat
                   (32 * (bits w 52 4 + j * (cnt * e / 32)) + ci * e) s) start
    closeBeat s b (match r with
      | .ok s => .ok (if k + 1 = h then dropHead s b else s)
      | .error x => .error x))

/-- The element indices of a beat: rows cut separately into pieces of n. -/
def rowPiece (sh : Shape) (n beat : Nat) : List (Nat × Nat) :=
  let per := ceilDiv sh.n0 n
  let i1 := beat / per
  let c := beat % per * n
  (List.range (min n (sh.n0 - c))).map (fun i => (i1, c + i))
/-- The element indices of a beat: all elements in row order cut into pieces of n. -/
def flatPiece (sh : Shape) (n beat : Nat) : List (Nat × Nat) :=
  (List.range (min n (sh.n0 * sh.n1 - beat * n))).map (fun i => ((beat * n + i) / sh.n0, (beat * n + i) % sh.n0))

/-- The address of an element (R138). -/
def elemAddr (sh : Shape) (a z i1 i0 : Nat) : Nat := ((a : Int) + (i1 : Int) * sh.s1 + ((i0 * sh.s0 * z : Nat) : Int)).toNat
/-- The address of operand B's element (Table 5.9). -/
def bAddr (sh : Shape) (mode a z i1 i0 : Nat) : Nat :=
  if mode = 0 then elemAddr sh a z i1 i0 else if mode = 1 then a + i0 * z else a

/-- The result of an element-wise instruction on two raw elements. -/
def elemOp (op f x y : Nat) : Nat :=
  let a := decodeNum f x
  let b := decodeNum f y
  match op with
  | 0x50 => encodeNum f (a.mul b)
  | 0x51 => encodeNum f (a.add b)
  | 0x52 => encodeNum f (a.max b)
  | _ => encodeNum f (ofF32 (exp2Diff (BitVec.ofNat 32 x) (BitVec.ofNat 32 y)))

/-- A poisoned result's bits are not specified; a clean one's are the bits given. -/
def settleRaw (s : State) (raw : Nat) (poison : Bool) : Nat × State :=
  if poison then let (r, s) := poisoned s; (r.val.toNat, s) else (raw, s)

/-- Results of a beat as cells: address, bytes of an element, bits, poison. -/
def cellsOf (s : State) (outs : List (Nat × Nat × Nat × Bool)) : List (Nat × Byte × Bool) × State :=
  match outs with
  | [] => ([], s)
  | (a, z, raw, p) :: t =>
    let (raw, s) := settleRaw s (raw % 256 ^ z) p
    let (r, s) := cellsOf s t
    (elemCells a z raw p ++ r, s)

/-- Results of a beat stored in the local store as one write. -/
def storeOuts (s : State) (b : BitVec 12) (outs : List (Nat × Nat × Nat × Bool)) : State :=
  let (cells, s) := cellsOf s outs
  modProc s (.unit b) (fun q => memStore q cells)

/-- The first poisoned input of a list of addresses and marks. -/
def firstBad (l : List (Nat × Bool)) : Option Nat := (l.find? (·.2)).map (·.1)

/-- A beat's local-store inputs under POISON_MODE. -/
def takeAll (p : Proc) (l : List (Nat × Bool)) (r : Except (Status × Nat) State) : Except (Status × Nat) State :=
  match firstBad l with
  | some a => takeInput p true a r
  | none => r

/-- A beat of VMUL, VADD, VMAX or VEXP. -/
def elemBeat (s : State) (b : BitVec 12) (p : Proc) (v : Vec) : State :=
  let w := v.word
  let op := bits w 56 8
  let sh := vlShape p w
  let f := bits w 48 3
  let zd := vlBytes w
  let za := if op = 0x53 then 4 else zd
  let ix := if op = 0x53 then flatPiece sh 8 v.beat else rowPiece sh (64 / zd) v.beat
  let ins := ix.map (fun i => (elemAddr sh (vlA w) za i.1 i.2, bAddr sh (bits w 54 2) (vlB w) za i.1 i.2, elemAddr sh (vlDst w) zd i.1 i.2))
  let reads := ins.flatMap (fun i => [(i.1, memBad p i.1 za), (i.2.1, memBad p i.2.1 za)])
  let outs := ins.map (fun i => (i.2.2, zd, elemOp op f (memNum p i.1 za) (memNum p i.2.1 za), memBad p i.1 za || memBad p i.2.1 za))
  closeBeat s b (takeAll p reads (.ok (storeOuts s b outs)))

/-- A reduction of FP32 values: the maximum, or their sum in an order that is not specified, with the draws it used. -/
def reduceVals (op : Bool) (draws : Nat) (vs : List Word) : Word × Nat :=
  if op then (canonF32 (vs.tail.foldl maxF32 (vs.headD 0)), draws)
  else
    let (v, k) := foldAny vs.length addF32 draws vs
    (canonF32 v, k)

/-- The results of a reduction over lists of values with their poison, as cells to store. -/
def reduceAll (s : State) (op : Bool) (a : Nat) (ls : List (List (Word × Bool))) : List (Nat × Nat × Nat × Bool) × State :=
  match ls with
  | [] => ([], s)
  | l :: t =>
    let (v, n) := reduceVals op s.free (l.map (·.1))
    let (r, s) := reduceAll { s with free := n } op (a + 4) t
    ((a, 4, v.toNat, l.any (·.2)) :: r, s)

/-- A beat of VRED: it reads its piece; the last writes every result (R162). -/
def vredBeat (s : State) (b : BitVec 12) (p : Proc) (v : Vec) : State :=
  let w := v.word
  let sh := vlShape p w
  let ix := if sh.s1 = 4 * sh.n0 then flatPiece sh 16 v.beat else rowPiece sh 16 v.beat
  let at_ (i1 i0 : Nat) := elemAddr sh (vlA w) 4 i1 i0
  let reads := ix.map (fun i => (at_ i.1 i.2, memBad p (at_ i.1 i.2) 4))
  let val (i1 i0 : Nat) : Word × Bool := (BitVec.ofNat 32 (memNum p (at_ i1 i0) 4), memBad p (at_ i1 i0) 4)
  let ls := if bit w 0 then (List.range sh.n0).map (fun i0 => (List.range sh.n1).map (fun i1 => val i1 i0))
            else (List.range sh.n1).map (fun i1 => (List.range sh.n0).map (fun i0 => val i1 i0))
  closeBeat s b (takeAll p reads (.ok (if v.beat + 1 < v.total then s else
    let (outs, s) := reduceAll s (bit w 1) (vlDst w) ls
    storeOuts s b outs)))

/-- A beat of VCVT from the local store. -/
def vcvtBeat (s : State) (b : BitVec 12) (p : Proc) (v : Vec) : State :=
  let w := v.word
  let sh := vlShape p w
  let zi := fmtBytes (cvtIn w)
  let zo := fmtBytes (cvtOut w)
  let ix := flatPiece sh (64 / zi) v.beat
  let ins := ix.map (fun i => (elemAddr sh (vlA w) zi i.1 i.2, elemAddr sh (vlDst w) zo i.1 i.2))
  let reads := ins.map (fun i => (i.1, memBad p i.1 zi))
  let outs := ins.map (fun i => (i.2, zo, convertRaw (cvtIn w) (cvtOut w) (memNum p i.1 zi), memBad p i.1 zi))
  closeBeat s b (takeAll p reads (.ok (storeOuts s b outs)))

/-- A beat of VCVT from the stream: one column (R163). -/
def vcvtStreamBeat (s : State) (b : BitVec 12) (p : Proc) (v : Vec) : State :=
  withHead s b (fun t c =>
    let w := v.word
    let sh := vlShape p w
    let zo := fmtBytes (cvtOut w)
    let e := perColumn t.fmt
    let ix := flatPiece sh e v.beat
    let outs := ix.zipIdx.map (fun i =>
      let (n, q) := colElem t.fmt c i.2
      let raw := if cvtIn w = cvtOut w then colRaw t.fmt c.data.toNat i.2 else encodeNum (cvtOut w) n
      (elemAddr sh (vlDst w) zo i.1.1 i.1.2, zo, raw, q))
    closeBeat s b (takeInput p (outs.any (·.2.2.2)) (colInfo t) (.ok (dropHead (storeOuts s b outs) b))))

/-- A beat of VLD: lanes from the local store, or zeros (R164). -/
def vldBeat (s : State) (b : BitVec 12) (p : Proc) (v : Vec) : State :=
  let w := v.word
  let sh := shapeOf p (bits w 44 3)
  let f := bits w 40 4
  let z := fmtBytes f
  let n := vaPerBeat sh w
  let ix := flatPiece sh n v.beat
  let ins := ix.zipIdx.map (fun i => (elemAddr sh (vaAddr p w) z i.1.1 i.1.2, vaLane w + v.beat * n + i.2))
  if vldZero w then closeBeat s b (.ok (ins.foldl (fun s i => putLane s b i.2 0 false) s))
  else
    closeBeat s b (takeAll p (ins.map (fun i => (i.1, memBad p i.1 z)))
      (.ok (ins.foldl (fun s i => putLane s b i.2 (BitVec.ofNat 32 (convertRaw f 0 (memNum p i.1 z))) (memBad p i.1 z)) s)))

/-- A beat of VST: lanes to the local store, cleared with CLEAR (R164). -/
def vstBeat (s : State) (b : BitVec 12) (p : Proc) (v : Vec) : State :=
  let w := v.word
  let sh := shapeOf p (bits w 44 3)
  let f := bits w 40 4
  let z := fmtBytes f
  let n := vaPerBeat sh w
  let ix := flatPiece sh n v.beat
  let ins := ix.zipIdx.map (fun i => (elemAddr sh (vaAddr p w) z i.1.1 i.1.2, vaLane w + v.beat * n + i.2))
  let outs := ins.map (fun i => (i.1, z, convertRaw 0 f (laneOf s b i.2).val.toNat, (laneOf s b i.2).poison))
  let s' := storeOuts s b outs
  closeBeat s b (takeAll p (ins.map (fun i => (i.2, (laneOf s b i.2).poison)))
    (.ok (if bit w 4 then ins.foldl (fun s i => putLane s b i.2 0 false) s' else s')))

/-- A beat of SEND: 64 bytes to the die-bus port; the last completes the record (R171, R347). -/
def sendBeat (s : State) (b : BitVec 12) (p : Proc) (v : Vec) : State :=
  let w := v.word
  let len := bits w 16 16
  let a := bits w 0 16
  let ch := if rf w 52 = 0 then bits w 48 4 else (rget p (rf w 52)).val.toNat
  let k := min 64 (len - 64 * v.beat)
  let reads := (List.range (k / 4)).map (fun i => (a + 64 * v.beat + 4 * i, memBad p (a + 64 * v.beat + 4 * i) 4))
  let rec_ : Record :=
    { at_ := s.ck, task := taskId s (.unit b), source := srcNum 1 b.toNat, ten := coreTen s (.unit b), tag := coreTag s (.unit b), bytes := mgetAll 0 p.mem a len,
      poison := (List.range (len / 4)).map (fun i => memBad p (a + 4 * i) 4) }
  closeBeat s b (takeAll p reads (.ok (if v.beat + 1 < v.total then s else
    arrive (modUnit s b.toNat (fun u => { u with port := some (ch, rec_), sendFrom := originOf s b.toNat })) (8 + stackOf b.toNat) ch rec_)))

/-! BWRITE (R118, R165). -/

/-- Where a unit's access to a region falls: its bank offset, out of bounds, a page its range table lacks, or no permission. -/
inductive UnitLoc where
  | mem (o : Nat) | oob | miss (page : Nat) | fault
  deriving DecidableEq, Repr

/-- The place of a unit's access at a region offset (R38, R39, R114, R289). -/
def unitLoc (s : State) (b : Nat) (r : Region) (write : Bool) (off : Int) : UnitLoc :=
  match classOffset r off with
  | none => .oob
  | some o =>
    let a := r.base + o
    if r.xlat then
      match (unitOf s b).ranges.find? (fun e => e.tpage == a / 2 ^ 21) with
      | some e => if write && !e.write then .fault else .mem (2 ^ 21 * e.ppage + a % 2 ^ 21)
      | none => .miss (a / 2 ^ 21)
    else .mem a

/-- The source bytes of a BWRITE from byte i of LEN on, each with its poison and INFO. -/
def bwriteByte (s : State) (b : BitVec 12) (p : Proc) (w : Word64) (i : Nat) : Byte × Bool × Nat :=
  if bit w 36 then
    let f := bits w 32 4
    let z := fmtBytes f
    let g := 32 * bits w 42 4 + bits w 37 5 + i / z
    let l := laneOf s b g
    (BitVec.ofNat 8 (convertRaw 0 f l.val.toNat / 256 ^ (i % z)), l.poison, g)
  else
    let a := bits w 0 16 + i
    (mget 0 p.mem a, memBad p a 1, a)

/-- A pair of the write queue from bytes at an offset within the pair (R118, Table 13.2). -/
def pairOf (addr at_ : Nat) (bs : List (Byte × Bool × Nat)) : WPair :=
  let cells := bs.zipIdx
  { addr := addr, begun := false, read := false, done := false,
    data := BitVec.ofNat 512 (cells.foldl (fun n c => n + c.1.1.toNat * 256 ^ (at_ + c.2)) 0),
    en := BitVec.ofNat 64 (cells.foldl (fun n c => n + 2 ^ (at_ + c.2)) 0),
    poison := BitVec.ofNat 16 ((List.range 16).foldl (fun n k =>
      if cells.any (fun c => (at_ + c.2) / 4 == k && c.1.2.1) then n + 2 ^ k else n) 0) }

/-- A beat of BWRITE: one aligned pair, judged against the region entry as it stands; it waits while the queue is full or its page is
being filled (R36, R118, R165). -/
def bwriteBeat (s : State) (b : BitVec 12) (p : Proc) (v : Vec) : State :=
  let w := v.word
  let n := bits w 50 6
  let r0 := (rget p (rf w 46)).val.toNat
  let len := bits w 16 16
  let base := (r0 / 64 + v.beat) * 64
  let lo := max r0 base
  let hi := min (r0 + len) (base + 64)
  let bs := (List.range (hi - lo)).map (fun i => bwriteByte s b p w (lo - r0 + i))
  let bad := (bs.find? (fun c => c.2.1)).map (fun c => c.2.2)
  match unitRegion s b.toNat n with
  | some st => faultTask s (.unit b) st 0 lo 0
  | none =>
    if bad.isSome && !propagates p then faultTask s (.unit b) .dataUncorrectable 0 (bad.getD 0) 0
    else match unitLoc s b.toNat (regionOf s n) true lo with
      | .fault => faultTask s (.unit b) .translationFault 0 lo 0
      | .oob => endBeat (countOob s n true (hi - lo)) b
      | .miss pg => modUnit s b.toNat (fun u => { u with miss := some pg })
      | .mem o =>
        if retiredAt s (dramAddr b.toNat o) then faultTask s (.unit b) .retired 0 lo 0
        else if 4 ≤ (unitOf s b.toNat).wq.length then s
        else endBeat (modUnit s b.toNat (fun u => { u with wq := u.wq ++ [pairOf (o / 64 * 64) (lo % 64) bs] })) b

/-- One beat of the instruction in progress (R108, Table 5.5). -/
def execVectorBeat (b : BitVec 12) (s : State) : Host.Outcome State Fault Refusal :=
  let u := unitOf s b.toNat
  let p := u.proc
  .next (match p.vec, p.task, p.ended with
    | some v, some _, none =>
      if u.st == .running && unitRuns s b.toNat then
        match bits v.word 56 8 with
        | 0x3C => sendBeat s b p v
        | 0x48 => vdotBeat s b p v
        | 0x49 => vaxpyBeat s b p v
        | 0x54 => vredBeat s b p v
        | 0x55 => if bit v.word 0 then vcvtStreamBeat s b p v else vcvtBeat s b p v
        | 0x58 => vldBeat s b p v
        | 0x59 => vstBeat s b p v
        | 0x5A => bwriteBeat s b p v
        | _ => elemBeat s b p v
      else s
    | _, _, _ => s)

end Sys2Proof.Machine
end

