-- ==== Sys2Proof/Machine/Bank.lean ====
section
/-! DEFINITION. The banks: host accesses, column slots, write-queue commits, the stream prefetcher, refresh, range-table fills
(R21, R22, R41, R113-R126, R131, R144, R145, R289, R338-R344, R356, R395). -/

namespace Sys2Proof.Machine

/-! Who pays for a host access (R131). -/

/-- Whether a linear-view region covers a module address: directly, or through a page that its owner's translation maps. -/
def coversMa (s : State) (r : Region) (ma : Nat) : Bool :=
  r.valid && r.linear &&
    (if r.xlat then
      s.xlat.any (fun e => e.ten == r.owner && e.linear && e.ppage == ma / 2 ^ 21 &&
        decide (r.base ≤ 2 ^ 21 * e.tpage + ma % 2 ^ 21) && decide (2 ^ 21 * e.tpage + ma % 2 ^ 21 < r.base + r.size))
     else decide (r.base ≤ ma) && decide (ma < r.base + r.size))

/-- The tenancy that a host access to a data address is charged to. -/
def hostPayer (s : State) (ma : Nat) : Option Nat :=
  if ma < 4096 * split s then mget none s.groupOwner (groupOf (maMap (split s) ma).1)
  else ((List.range 64).find? (fun n => coversMa s (regionOf s n) ma)).map (fun n => (regionOf s n).owner)

/-- Host bytes charged to a tenancy's meter, or to the unattributed count. -/
def chargeHost (s : State) (ma n : Nat) (write : Bool) : State :=
  match hostPayer s ma with
  | some t => meter s t (if write then 3 else 2) n (10 * n)
  | none => if write then { s with unattrWr := satAdd (2 ^ 64 - 1) s.unattrWr n } else { s with unattrRd := satAdd (2 ^ 64 - 1) s.unattrRd n }

/-- Column slots that a host access will take of its bank (R121). -/
def hostSlots (s : State) (ma slots : Nat) : State :=
  let m := maMap (split s) ma
  let b := m.1
  let o := m.2
  let k := bankOf s b
  setBank s b { k with hostQ := k.hostQ ++ [{ row := o / 4096, slots := slots, begun := false, ten := hostPayer s ma }] }

/-- Stored bytes gathered by column: its number and which of its bytes. -/
def gatherCols (ls : List Loc) : List (Nat × Nat) :=
  match ls with
  | [] => []
  | .mem a :: t =>
    match gatherCols t with
    | (c, m) :: r => if c = a / 32 then (c, m ||| 2 ^ (a % 32)) :: r else (a / 32, 2 ^ (a % 32)) :: (c, m) :: r
    | [] => [(a / 32, 2 ^ (a % 32))]
  | _ :: t => gatherCols t

/-- Stored bytes gathered by column, each column once. -/
def columnsOf (ls : List Loc) : SMap Nat :=
  ls.foldl (fun m l => match l with | .mem a => mupd 0 m (a / 32) (· ||| 2 ^ (a % 32)) | _ => m) []

/-- Whether a set of bytes covers part of a word. -/
def partMask (m : Nat) : Bool := (List.range 8).any (fun k => m / 16 ^ k % 16 != 0 && m / 16 ^ k % 16 != 15)

/-- Host-class column slots for accesses to columns: one for each, two where a word is written in part (R121, R228). -/
def takeSlots (s : State) (write : Bool) (ten : Nat) (cols : List (Nat × Nat)) : State :=
  cols.foldl (fun s e =>
    let b := addrBank (32 * e.1)
    let k := bankOf s b
    let u : SlotUse := { row := addrRow (32 * e.1), slots := if write && partMask e.2 then 2 else 1, begun := false, ten := some ten }
    setBank s b { k with hostQ := k.hostQ ++ [u] }) s

/-- The slots that an engine's access takes for a tenancy, one access to each column (R213, R239). -/
def engineSlots (s : State) (write : Bool) (ten : Nat) (ls : List Loc) : State := takeSlots s write ten (columnsOf ls)

/-- The slots of strided narrow accesses: one for each destination element, of the column that holds its source element (R213). -/
def stridedSlots (s : State) (ten : Nat) (els : List (List Loc)) : State :=
  takeSlots s false ten (els.flatMap (fun ls => (gatherCols ls).take 1))

/-! Host accesses (R41, R344, R356, R395). -/

/-- A violation that concerns no tenancy (rows 0x0B and 0x0C of Table 17.8). -/
def violateNone (s : State) (num size : Nat) (value : Nat) : State :=
  logAdd s 2 (srcNum 0xA 0) 0x01 num none none (violationDetail num size 0 0 value)

/-- An access to the data range before MEM_ACTIVE: at most one entry in a ms. -/
def violateEarly (s : State) (size value : Nat) : State :=
  let due := match s.violation0C with | some t => decide (t + Config.ms ≤ s.elapsed) | none => true
  if due then { violateNone s 0x0C size value with violation0C := some s.elapsed } else s

/-- Word k of a line as a host reads it: from the pair held, from the array, or both merged (R119). -/
def lineWord (s : State) (pair : Option WPair) (w k : Nat) : PWord × State :=
  match pair with
  | none => readWord s hostReader (w + k)
  | some p =>
    let (d, en, poison) := p.word k
    if k < 8 ∨ en = 0 then readWord s hostReader (w + k)
    else if en = 15 then ({ val := d, poison := poison }, s)
    else
      let (old, s) := readWord s hostReader (w + k)
      ({ val := mergeWord old.val d en, poison := poison || old.poison }, s)

/-- Words k to 15 of a line. -/
def lineWords (s : State) (pair : Option WPair) (w : Nat) (ks : List Nat) : List PWord × State :=
  match ks with
  | [] => ([], s)
  | k :: t =>
    let (v, s) := lineWord s pair w k
    let (vs, s) := lineWords s pair w t
    (v :: vs, s)

/-- A host read of data within one 64-byte line. -/
def hostReadData (s : State) (ma len : Nat) : State :=
  let m := maMap (split s) ma
  let b := m.1
  let o := m.2
  let s := hostSlots (chargeHost s ma len false) ma 2
  if retiredAt s (dramAddr b o) then emit s (.readData ma (List.replicate len 0) true)
  else
    let w := dramAddr b (o / 64 * 64) / 4
    let s := closeRead s b o
    let (vs, s) := lineWords s (heldPair s b o) w (List.range 16)
    let bytes := vs.flatMap (fun v => leBytes 4 v.val.toNat)
    emit s (.readData ma ((bytes.drop (o % 64)).take len) (vs.any (·.poison)))

/-- HOST_READ: of data, of the command window, or of a reserved address (R22, R42, R344, R395). -/
def execHostRead (ma : BitVec 40) (len : Nat) (s : State) : Host.Outcome State Fault Refusal :=
  let a := ma.toNat
  if 0x8010000000 ≤ a then .fault .outsideHdmRange
  else .next (viaHost s (
    if 0x8001000000 ≤ a then emit (violateNone s 0x0B len 0) (.readData a (List.replicate len 0xFF) false)
    else if 0x8000000000 ≤ a then pageRead s ((a - 0x8000000000) / 0x10000) (a % 0x10000) len
    else if s.boot.memActive then hostReadData s a len
    else emit (violateEarly s len 0) (.readData a (List.replicate len 0) true)))

/-- Words of a host write with their enables. -/
def hostWords (data : BitVec 512) (en : BitVec 64) (poison : Bool) : List (Word × Nat × Bool) :=
  (List.range 16).map (fun k => (BitVec.ofNat 32 (bits data (32 * k) 32), bits en (4 * k) 4, poison))

/-- Slots of a host write: a read and a write slot for each column touched if a word is written in part, else two (R121). -/
def writeSlots (en : BitVec 64) : Nat :=
  if (List.range 16).any (fun k => let e := bits en (4 * k) 4; e != 0 && e != 15) then
    2 * ((List.range 2).filter (fun c => bits en (32 * c) 32 != 0)).length
  else 2

/-- A host write of data: dropped in a retired row or bank, else merged over a pair that has begun to commit; with CXL poison its
words become markers, with one entry (R119, R120, R343, R350, R356). -/
def hostWriteData (s : State) (ma : Nat) (en : BitVec 64) (data : BitVec 512) (poison : Bool) : State :=
  let m := maMap (split s) ma
  let b := m.1
  let o := m.2
  let n := ((List.range 64).filter (fun i => bit en i)).length
  let s := hostSlots (chargeHost s ma n true) ma (writeSlots en)
  if retiredAt s (dramAddr b o) then s
  else
    let s := match heldPair s b o with
      | some p => settlePair s b p
      | none => s
    let w := dramAddr b o / 4
    let ws := hostWords data en poison
    if poison then logEcc (writeWordsFrom s hostReader w ws).2 hostReader 2 0x03 (w + (List.range 64).findIdx (fun i => bit en i) / 4) 1
    else writeOp s hostReader w ws

/-- The lowest and highest enabled byte of a line. -/
def enSpan (en : BitVec 64) : Nat × Nat :=
  let l := (List.range 64).filter (fun i => bit en i)
  (l.headD 0, l.getLastD 0)

/-- A host write to the command window: a write with gaps is partial (R66, R75). One that enables no byte changes nothing and is not
recorded, whatever its offset (DESIGN CHOICE, log entry 108). -/
def windowWrite (s : State) (a : Nat) (en : BitVec 64) (data : BitVec 512) : State :=
  let (lo, hi) := enSpan en
  let size := hi - lo + 1
  let t := (a - 0x8000000000) / 0x10000
  let off := a % 0x10000 + lo
  let d : BitVec 512 := data >>> (8 * lo)
  let whole := ((List.range 64).filter (fun i => bit en i)).length == size
  if whole || !(tenOf s t).enabled then pageWrite s t off size d
  else if off < 8 then violate s t 0x01 0 size off 0 (dfield d 0 8)
  else if 0x1000 ≤ off ∧ off < 0x1400 then violate s t 0x06 (16 + (off - 0x1000) / 64) size off 0 (dfield d 0 8)
  else pageWrite s t off size d

/-- HOST_WRITE: to data, to the command window, or to a reserved address (R22, R41, R42, R343, R395). -/
def execHostWrite (line : BitVec 34) (enable : BitVec 64) (data : BitVec 512) (poison : Bool) (s : State) :
    Host.Outcome State Fault Refusal :=
  let a := line.toNat * 64
  if 0x8010000000 ≤ a then .fault .outsideHdmRange
  else .next (viaHost s (
    if 0x8001000000 ≤ a then
      violateNone s 0x0B (if enable = 0 then 0 else (enSpan enable).2 - (enSpan enable).1 + 1) (dfield (data >>> (8 * (enSpan enable).1)) 0 8)
    else if enable = 0 then s
    else if 0x8000000000 ≤ a then windowWrite s a enable data
    else if s.boot.memActive then hostWriteData s a enable data poison
    else violateEarly s ((enSpan enable).2 - (enSpan enable).1 + 1) (dfield (data >>> (8 * (enSpan enable).1)) 0 8)))

/-! Column slots (R121-R126). -/

/-- The row opened for an access: whether it changed, with an owed refresh run in place of the precharge of the row that was open (R125).
The activate of a row in a bank that a refresh left precharged counts as a row change (DESIGN CHOICE, log entry 113). -/
def openRow (s : State) (b row : Nat) : Bool × State :=
  let k := bankOf s b
  if k.openRow = some row then (false, s)
  else (true, setBank s b { k with openRow := some row, owed := if k.openRow.isSome then k.owed - 1 else k.owed })

/-- Slots granted to a bank's unit, charged to its group's owner, with the row change they needed (Tables 4.7, 11.7). -/
def chargeUnit (s : State) (b n : Nat) (changed : Bool) : State :=
  match mget none s.groupOwner (groupOf b) with
  | some t => meter s t 1 n (80 * n + (if changed then 1100 else 0))
  | none => s

/-- A refresh performed: it leaves the bank precharged. -/
def refresh (s : State) (b : Nat) : State :=
  let k := bankOf s b
  setBank s b { k with owed := k.owed - 1, openRow := none }

/-- A slot of the oldest host access. -/
def hostSlot (s : State) (b : Nat) (h : SlotUse) (rest : List SlotUse) : State :=
  let (changed, s) := openRow s b h.row
  let s := match h.ten with
    | some t => meter s t 8 0 (80 + (if changed then 1100 else 0))
    | none => s
  let k := bankOf s b
  setBank s b { k with hostQ := if h.slots ≤ 1 then rest else { h with slots := h.slots - 1, begun := true } :: rest }

/-- A slot of the write queue: the read slot of a column written in part, or the write slot of the pair's first column, or of its second
(R118, R119, R341). The old word is decoded as it is written back, with no access to the column between. -/
def writeSlot (s : State) (b : Nat) (p : WPair) (rest : List WPair) : State :=
  let (changed, s) := openRow s b (p.addr / 4096)
  let s := chargeUnit s b 1 changed
  if p.partial_ p.next && !p.read then modUnit s b (fun u => { u with wq := { p with read := true } :: rest })
  else
    let s := if p.done then s else commitColumn s b p p.next
    modUnit s b (fun u => { u with wq := if p.next = 0 && p.has 1 then { p with begun := true, read := false } :: rest else rest })

/-- A column as read from the bank: its words with their poison. -/
def readColumn (s : State) (b o : Nat) : StreamCol × State :=
  let (ws, s) := readWords s (unitReader s b) (dramAddr b o / 4) 8
  ({ data := BitVec.ofNat 256 (leNat (ws.flatMap (fun v => leBytes 4 v.val.toNat))),
     poison := BitVec.ofNat 8 (ws.zipIdx.foldl (fun n v => if v.1.poison then n + 2 ^ v.2 else n) 0), mark := none, scales := [] }, s)

/-- A column that only carries a mark (R115). -/
def markedCol (st : Status) : StreamCol := { data := 0, poison := 0, mark := some st, scales := [] }

/-- An outcome of a prefetch: a column, with or without a slot; or the prefetcher waits. -/
inductive Prefetch where
  | got (c : StreamCol) (slot : Bool)
  | wait
  deriving DecidableEq, Repr

/-- A column of a stream's region at an offset (R114-R116). A marked column of a retired row takes a column slot, one whose translation
faulted takes none (DESIGN CHOICE, log entry 114). -/
def prefetchCol (s : State) (b : Nat) (t : Stream) (off : Int) : Prefetch × State :=
  match unitRegion s b t.region with
  | some st => (.got (markedCol st) false, s)
  | none =>
    let r := regionOf s t.region
    match unitLoc s b r false off with
    | .oob =>
      let fill := (List.range 32).map (fun i => fillByte r (off + i))
      (.got { data := BitVec.ofNat 256 (leNat fill), poison := 0, mark := none, scales := [] } false, countOob s t.region false 32)
    | .miss pg => (.wait, modUnit s b (fun u => { u with miss := some pg }))
    | .fault => (.got (markedCol .translationFault) false, s)
    | .mem o =>
      if (unitOf s b).wq.any (fun p => p.addr == o / 64 * 64) then (.wait, s)
      else
        let (changed, s) := openRow s b (o / 4096)
        let s := chargeUnit s b 1 changed
        if retiredAt s (dramAddr b o) then (.got (markedCol .retired) true, s)
        else
          let (c, s) := readColumn s b o
          (.got c true, s)

/-- The scale-array offsets of the blocks of a stream's next column (R145). -/
def scaleOffs (t : Stream) : List Nat :=
  match t.scaleOff with
  | some x => (List.range (perColumn t.fmt / 32)).map (fun k => x + t.fetched * (perColumn t.fmt / 32) + k)
  | none => []

/-- The first scale column that the next column still needs. -/
def needScale (t : Stream) : Option Nat :=
  (scaleOffs t).findSome? (fun o => if t.scaleCol.any (fun e => e.1 == o / 32) then none else some (o / 32))

/-- A scale column kept. -/
def keepScale (t : Stream) (q : Nat) (c : StreamCol) : Stream := { t with scaleCol := ((q, c) :: t.scaleCol).take 2 }

/-- A data column placed in the buffer with its scales; the mark of a scale column marks it too. -/
def keepColumn (t : Stream) (c : StreamCol) : Stream :=
  let cells := (scaleOffs t).map (fun o => match t.scaleCol.find? (fun e => e.1 == o / 32) with
    | some e => (BitVec.ofNat 8 (bits e.2.data (8 * (o % 32)) 8), bit e.2.poison (o % 32 / 4), e.2.mark)
    | none => (0, false, none))
  let mark := match c.mark with
    | some m => some m
    | none => cells.findSome? (fun x => x.2.2)
  { t with fetched := t.fetched + 1, buf := t.buf ++ [{ c with mark := mark, scales := cells.map (fun x => (x.1, x.2.1)) }] }

/-- Whether the prefetcher has a request. -/
def wantsColumn (u : BankUnit) : Bool :=
  match u.stream with
  | some t => decide (t.buf.length < 8) && decide (t.fetched < t.count) && u.miss.isNone
  | none => false

/-- The prefetcher goes on until a column takes the slot, or it waits, or its buffer is full. The answer says whether it used the
slot. -/
def prefetch (fuel : Nat) (s : State) (b : Nat) : Bool × State :=
  match fuel with
  | 0 => (false, s)
  | n + 1 =>
    match (unitOf s b).stream with
    | none => (false, s)
    | some t =>
      if !wantsColumn (unitOf s b) then (false, s)
      else
        let off : Int := match needScale t with
          | some q => 32 * (q : Int)
          | none => t.off t.fetched
        match prefetchCol s b t off with
        | (.wait, s) => (false, s)
        | (.got c slot, s) =>
          let t' := match needScale t with
            | some q => keepScale t q c
            | none => keepColumn t c
          let s := modUnit s b (fun u => { u with stream := some t' })
          if slot then (true, s) else prefetch n s b

/-- The slot of a bank's write queue, if it holds a pair. -/
def drainSlot (s : State) (b : Nat) : State :=
  match (unitOf s b).wq with
  | [] => s
  | p :: rest => writeSlot s b p rest

/-- The next column slot granted by R121; the write slot of a read-modify-write follows its read slot (R341). -/
def grantSlot (s : State) (b : Nat) : State :=
  let k := bankOf s b
  let u := unitOf s b
  let later (s : State) : State :=
    if !(unitOf s b).wq.isEmpty then drainSlot s b
    else if 0 < (bankOf s b).owed then refresh s b
    else s
  if rmwOpen s b then drainSlot s b
  else match k.hostQ with
  | h :: rest =>
    if h.begun then hostSlot s b h rest
    else if k.owed = 8 then refresh s b
    else hostSlot s b h rest
  | [] =>
    if k.owed = 8 then refresh s b
    else if 2 ≤ u.wq.length ∨ (u.proc.ended.isSome ∧ u.wq ≠ []) then drainSlot s b
    else if wantsColumn u then
      let (used, s) := prefetch 16 s b
      if used then s else later s
    else later s

/-- COLUMN_SLOT (R121). -/
def bankSlot (b : BitVec 12) (s : State) : State := grantSlot s b.toNat

/-- Whether the arrays are powered: not without power, and not while a shutdown is latched, when they are no longer refreshed (R390, R463). -/
def arraysOn (s : State) : Bool := s.boot.phase != .off && s.boot.phase != .shutdown

/-- The refresh interval of a band in ticks: 7.8125, 3.90625 or 1.953125 µs (Table 15.2). -/
def refInterval (band : Nat) : Nat := match band with | 0 => 12500 | 1 => 6250 | _ => 3125

/-- REFRESH_OWED: the bank's present interval ends and the count rises by one, to 8; the next interval follows the stack's band as it is now
(R125, R382, R383); arrays without power owe none (R390). -/
def execRefreshOwed (b : BitVec 12) (s : State) : Host.Outcome State Fault Refusal :=
  let k := bankOf s b.toNat
  let due := k.refFrom + refInterval k.refBand
  .next (if arraysOn s then
      setBank (advanceTo s due) b.toNat
        { k with owed := min 8 (k.owed + 1), refFrom := due, refBand := (thmOf s (stackOf b.toNat)).band }
    else s)

/-! Range-table fills (R114, R289). -/

/-- The entry of a tenancy that serves a translated page in a group's bank view. -/
def pageEntry (s : State) (ten pg group : Nat) : Option XEntry :=
  s.xlat.find? (fun e => e.ten == ten && !e.linear && e.tpage == pg && decide (e.gFirst ≤ group) && decide (group < e.gFirst + e.gCount))

/-- The region and offset that a BWRITE in progress waits for. -/
def bwriteWait (s : State) (b : BitVec 12) : Option (Nat × Nat) :=
  let p := (unitOf s b.toNat).proc
  match p.vec with
  | some v =>
    if bits v.word 56 8 = 0x5A then
      let r0 := (rget p (bits v.word 46 4)).val.toNat
      some (bits v.word 50 6, max r0 ((r0 / 64 + v.beat) * 64))
    else none
  | none => none

/-- The page of a region offset. -/
def offPage (s : State) (n : Nat) (off : Int) : Option Nat := (classOffset (regionOf s n) off).map (fun o => ((regionOf s n).base + o) / 2 ^ 21)

/-- A miss that no entry serves: the stream's column is marked, a BWRITE that waits ends the task. -/
def missFault (s : State) (b : BitVec 12) (pg : Nat) : State :=
  let s := match (unitOf s b.toNat).stream with
    | some t =>
      let q := needScale t
      let off : Int := match q with | some k => 32 * (k : Int) | none => t.off t.fetched
      if wantsColumn (unitOf s b.toNat) && offPage s t.region off == some pg then
        modUnit s b.toNat (fun u => { u with stream := some (match q with
          | some k => keepScale t k (markedCol .translationFault)
          | none => keepColumn t (markedCol .translationFault)) })
      else s
    | none => s
  match bwriteWait s b with
  | some (n, lo) => if offPage s n lo = some pg then faultTask s (.unit b) .translationFault 0 lo 0 else s
  | none => s

/-- TRANSLATION_FILL: the page enters the unit's 16-entry range table, the oldest leaving it (log entry 35), or the access ends with
TRANSLATION_FAULT (R289). -/
def execTranslationFill (b : BitVec 12) (s : State) : Host.Outcome State Fault Refusal :=
  .next (match (unitOf s b.toNat).miss with
    | none => s
    | some pg =>
      let s := modUnit s b.toNat (fun u => { u with miss := none })
      match pageEntry s (coreTen s (.unit b)) pg (groupOf b.toNat) with
      | some e =>
        let r : RangeEntry := { tpage := pg, ppage := e.ppage, write := e.write }
        modUnit s b.toNat (fun u => { u with ranges := (r :: u.ranges).take 16 })
      | none => missFault s b pg)

end Sys2Proof.Machine
end

