-- ==== Sys2Proof/Machine/Decant.lean ====
section
/-! DEFINITION. The decant engines: a copy column by column (R208-R230); the scrubber (R351-R354); column slots as a whole (R121). -/

namespace Sys2Proof.Machine

/-! The elements of a copy. -/

/-- A copy of MX data between equal codes moves whole columns (R207). -/
def Copy.whole (c : Copy) : Bool := isMx c.sfmt && c.sfmt == c.dfmt

/-- Where element x of a dimension-0 run of a format lies: first byte, bytes, first bit, bits. -/
def elemSpan (f : Nat) (whole : Bool) (x : Nat) : Nat × Nat × Nat × Nat :=
  if whole then (x / perColumn f * 32, 32, 0, 256)
  else if isFp6 f then (32 * (x / 32) + 6 * (x % 32) / 8, (6 * (x % 32) % 8 + 13) / 8, 6 * (x % 32) % 8, 6)
  else (elemBits f * x / 8, max 1 (elemBits f / 8), elemBits f * x % 8, elemBits f)

/-- The source index of a destination index (R208). -/
def Copy.srcIx (c : Copy) (j : List Nat) : List Nat := (List.range 5).map (fun d => j.getD (c.perm.idxOf d) 0)
/-- Whether a destination index lies in padding. -/
def Copy.isPad (c : Copy) (j : List Nat) : Bool := (List.range 5).any (fun k => decide (c.vc k ≤ j.getD k 0))
/-- The row-major number of a destination element. -/
def Copy.number (c : Copy) (j : List Nat) : Nat := (List.range 5).foldl (fun n i => n * c.dc (4 - i) + j.getD (4 - i) 0) 0

/-- Whether a copy moves the source's innermost dimension. -/
def Copy.transposing (c : Copy) : Bool := c.prm 0 != 0

/-- Whether a transposing copy runs through the exchange-stage network: both regions bank view, every bank of both in one stack (R213). -/
def Copy.exchange (s : State) (c : Copy) : Bool :=
  let a := absExt (regionOf s c.sregion) c.srcExt
  let b := absExt (regionOf s c.dregion) c.dstExt
  c.transposing && !a.linear && !b.linear && a.b0 / 512 == a.b1 / 512 && b.b0 / 512 == a.b0 / 512 && b.b1 / 512 == a.b0 / 512

/-- How many indices of destination dimension d one step covers: a tile of an in-place copy; 64 of each exchanged dimension in the exchange
network; else whole columns of destination dimension 0, and of the source too unless the copy transposes (R213, R219, log entry 40). -/
def Copy.span (s : State) (c : Copy) (d : Nat) : Nat :=
  if c.inplace then (if d ≤ 1 then c.dc d else 1)
  else if c.exchange s then (if d = 0 ∨ c.prm d = 0 then 64 else 1)
  else if d = 0 then (if c.transposing then perColumn c.dfmt else max (perColumn c.sfmt) (perColumn c.dfmt))
  else 1

/-- Steps along destination dimension d. -/
def Copy.parts (s : State) (c : Copy) (d : Nat) : Nat := (c.dc d + c.span s d - 1) / c.span s d

/-- Steps of a copy. -/
def Copy.steps (s : State) (c : Copy) : Nat := c.parts s 0 * c.parts s 1 * c.parts s 2 * c.parts s 3 * c.parts s 4

/-- Every index whose entries are taken from the given lists, the first entry fastest. -/
def boxes (axes : List (List Nat)) : List (List Nat) :=
  match axes with
  | [] => [[]]
  | a :: t => (boxes t).flatMap (fun r => a.map (fun x => x :: r))

/-- The destination indices of step k, in the order in which the model takes them; the spec leaves the order open (log entry 40). A copy of
MX data between equal codes moves whole columns, each named by its first element. -/
def Copy.stepIx (s : State) (c : Copy) (k : Nat) : List (List Nat) :=
  let place (d : Nat) : Nat := ((List.range d).map (c.parts s)).foldl (· * ·) 1
  boxes ((List.range 5).map (fun d =>
    let q := k / place d % c.parts s d * c.span s d
    (List.range (if c.whole && d == 0 then 1 else min (c.span s d) (c.dc d - q))).map (fun x => q + x)))

/-- A fault of a copy: status, ACCESS, region, place, destination element (Table 8.8). -/
structure CopyErr where
  status : Status
  access : Nat
  region : Nat
  place  : Place
  index  : Nat
  deriving DecidableEq, Repr

/-- Places of a copy's bytes, with the index they belong to. -/
abbrev CopyByte := Place × Nat

/-- The bytes of an element at a place. -/
def spanBytes (p : Place) (f : Nat) (whole : Bool) (x n : Nat) : List CopyByte :=
  let (a, k, _, _) := elemSpan f whole x
  (List.range k).map (fun i => ({ p with off := p.off + ((a + i : Nat) : Int) }, n))

/-- Source bytes of a destination index. -/
def Copy.srcBytes (c : Copy) (j : List Nat) : List CopyByte :=
  let i := c.srcIx j
  spanBytes (outerPlace c.sstart c.sstr i) c.sfmt c.whole (i.getD 0 0) (c.number j)
/-- Destination bytes of an index. -/
def Copy.dstBytes (c : Copy) (j : List Nat) : List CopyByte :=
  spanBytes (outerPlace c.dstart c.dstr j) c.dfmt c.whole (j.getD 0 0) (c.number j)
/-- The scale byte of an index, of a converting copy from MX data (R207, R209). -/
def Copy.scaleBytes (c : Copy) (j : List Nat) : List CopyByte :=
  let i := c.srcIx j
  if !isMx c.sfmt || c.whole then []
  else if isFp6 c.sfmt then
    let p := outerPlace c.sstart c.sstr i
    [({ p with off := p.off + ((32 * (i.getD 0 0 / 32) + 24 : Nat) : Int) }, c.number j)]
  else
    let b := (((i.getD 4 0 * c.cnt 3 + i.getD 3 0) * c.cnt 2 + i.getD 2 0) * c.cnt 1 + i.getD 1 0) * (c.cnt 0 / 32) + i.getD 0 0 / 32
    [({ bank := c.sstart.bank, off := c.sstart.off + c.delta * 32 + (b : Nat) }, c.number j)]

/-- The stored places of bytes in a region. -/
def byteLocs (s : State) (n : Nat) (write : Bool) (bs : List CopyByte) : List Loc :=
  bs.map (fun b => locate s (regionOf s n) write b.1.bank b.1.off)

/-- The first byte that ends an access. -/
def firstErr (s : State) (access n : Nat) (bs : List CopyByte) (ls : List Loc) : Option CopyErr :=
  (bs.zip ls).findSome? (fun q => (locsStatus s [q.2]).map (fun st =>
    { status := st, access := access, region := n, place := q.1.1, index := q.1.2 }))

/-- The first poisoned byte. -/
def firstPoison (access n : Nat) (bs : List CopyByte) (vs : List (Byte × Bool)) : Option CopyErr :=
  (bs.zip vs).findSome? (fun q => if q.2.2 then
    some { status := .dataUncorrectable, access := access, region := n, place := q.1.1, index := q.1.2 } else none)

/-- The first of two. -/
def orElse {α : Type} (a b : Option α) : Option α := match a with | some x => some x | none => b

/-- The bytes of a converted element: its source bytes, with the scale if it has one. -/
def Copy.convert (c : Copy) (j : List Nat) (src : List (Byte × Bool)) (sc : Option (Byte × Bool)) : List (Byte × Bool) :=
  if c.sfmt = c.dfmt then src
  else
    let (_, _, lo, w) := elemSpan c.sfmt false ((c.srcIx j).getD 0 0)
    let raw := leNat (src.map (·.1)) / 2 ^ lo % 2 ^ w
    let v := match sc with
      | some (x, _) => encodeNum c.dfmt (decodeMx c.sfmt raw x.toNat)
      | none => convertRaw c.sfmt c.dfmt raw
    let bad := src.any (·.2) || (match sc with | some (_, p) => p | none => false)
    (leBytes (fmtBytes c.dfmt) v).map (fun b => (b, bad))

/-- Whether a destination byte of a copy lies in its source extent, by its own name if the copy does not permute (R217), or by the name of
another page of the owner that is mapped, for the byte's group, to the same physical page (R218, R287). -/
def sharedByte (s : State) (c : Copy) (b : CopyByte) : Bool :=
  let r := regionOf s c.dregion
  let sr := regionOf s c.sregion
  let inside (linear : Bool) (bank a : Int) : Bool :=
    (absExt sr c.srcExt :: (if c.readsScales then [absExt sr c.scaleExt] else [])).any (fun e =>
      e.linear == linear && decide (e.lo ≤ a) && decide (a < e.hi) && (linear || (decide (e.b0 ≤ bank) && decide (bank ≤ e.b1))))
  match classOffset r b.1.off with
  | none => false
  | some o =>
    let a := r.base + o
    let bank : Int := if r.linear then 0 else (16 * r.gFirst : Nat) + b.1.bank
    (c.identity && inside r.linear bank a) ||
      (r.xlat &&
        (let group := groupOf bank.toNat
         match translate s r.owner r.linear true (a / 2 ^ 21) group with
         | none => false
         | some p => s.xlat.any (fun y => y.tpage != a / 2 ^ 21 && translate s r.owner r.linear false y.tpage group == some p &&
             inside r.linear bank ((2 ^ 21 * y.tpage + a % 2 ^ 21 : Nat) : Int))))

/-- Whether bytes of a copy's destination may lie in its source. -/
def mayShare (s : State) (c : Copy) : Bool := !c.inplace && (extentsMeet s c || (regionOf s c.dregion).xlat)

/-- Words put back as they stood. -/
def putBack (s : State) (saved : SMap (Option (Word × Byte))) : State :=
  saved.foldl (fun s e => match e.2 with | some v => putWord s e.1 v.1 v.2 | none => s) s

/-- The words that a write is about to change, kept as they stand unless they are kept already. -/
def keepWords (s : State) (saved : SMap (Option (Word × Byte))) (ls : List Loc) : SMap (Option (Word × Byte)) :=
  ls.foldl (fun m l => match l with
    | .mem a => if (mget none m (a / 4)).isSome then m else mset none m (a / 4) (some (dramWord s (a / 4), dramCheck s (a / 4)))
    | _ => m) saved

/-- A stored byte as it stands, with whether its word reads poisoned. -/
def peekLoc (s : State) (l : Loc) : Byte × Bool :=
  match l with
  | .mem a =>
    (match classify (dramWord s (a / 4)) (dramCheck s (a / 4)) with
     | .clean => (BitVec.ofNat 8 (bits (dramWord s (a / 4)) (8 * (a % 4)) 8), false)
     | .corrected v => (BitVec.ofNat 8 (bits v (8 * (a % 4)) 8), false)
     | _ => (0, true))
  | .oob f => (f, false)
  | .fault => (0, false)

/-- The bytes of a list without repeats, each at its first occurrence. -/
def uniqueBytes (l : List CopyByte) : List CopyByte :=
  l.foldl (fun r b => if r.any (fun x => x.1 == b.1) then r else r ++ [b]) []

/-- Read values by place. -/
abbrev ReadBack := List (CopyByte × (Byte × Bool))

/-- The value read at a place. -/
def ReadBack.at_ (m : ReadBack) (p : Place) : Byte × Bool :=
  match m.find? (fun e => e.1.1 == p) with
  | some e => e.2
  | none => (0, false)

/-- The destination bytes of a step with the values that the source bytes and scale bytes give them, padding with FILL (R208, R220). -/
def Copy.values (s : State) (c : Copy) (js : List (List Nat)) (sv xv : ReadBack) : ReadBack :=
  js.flatMap (fun j =>
    let db := c.dstBytes j
    if c.isPad j then db.map (fun b => (b, (fillByte (regionOf s c.dregion) b.1.off, false)))
    else db.zip (c.convert j ((c.srcBytes j).map (fun b => sv.at_ b.1)) ((c.scaleBytes j).head?.map (fun b => xv.at_ b.1))))

/-- The reader of a decant engine's work. -/
def decantReader (e : BitVec 2) (a : Active) : Reader := { src := srcNum 2 e.toNat, tag := some (dTag a.raw), ten := some a.ten }

/-- Of three values the one that a draw takes. -/
def pickOf {α : Type} (k : Nat) (a b c : α) : α :=
  if Config.orderPick k % 3 = 0 then a else if Config.orderPick k % 3 = 1 then b else c

/-- One step of a copy: every source and scale byte read once, the elements converted, their destination bytes written. The answer is the
fault that ended it, or the bytes written and the words kept (R208, R220, R224, R227, R230). The source is read as it stood before the copy;
a destination byte that lies in the source takes its old value, or a value that a state of the source during the copy gives it, by a draw
(R217, R218, log entry 72). -/
def copyStep (s : State) (e : BitVec 2) (a : Active) (saved : SMap (Option (Word × Byte))) (k : Nat) :
    Except CopyErr (Nat × SMap (Option (Word × Byte))) × State :=
  let c := copyOf a.raw
  let rd := decantReader e a
  let js := (c.stepIx s k).filter (fun j => c.padw || !c.isPad j)
  let data := js.filter (fun j => !c.isPad j)
  let sb := uniqueBytes (data.flatMap c.srcBytes)
  let xb := uniqueBytes (data.flatMap c.scaleBytes)
  let sl := byteLocs s c.sregion false sb
  let xl := byteLocs s c.sregion false xb
  match orElse (firstErr s 0 c.sregion sb sl) (firstErr s 1 c.sregion xb xl) with
  | some err => (.error err, s)
  | none =>
    let now := settleLocs s (sl ++ xl)
    let (rv, s) := readLocs (putBack now saved) rd [] (sl ++ xl)
    let sv := rv.take sl.length
    let xv := rv.drop sl.length
    let s := { s with dram := now.dram, check := now.check }
    let s := countOob s c.sregion false (oobCount sl + oobCount xl)
    let s := if c.transposing && !c.inplace && !c.exchange s then
        let s := stridedSlots s a.ten (data.map (fun j => byteLocs s c.sregion false (c.srcBytes j)))
        if scaleArray c.sfmt then engineSlots s false a.ten xl else s
      else engineSlots s false a.ten (sl ++ xl)
    let nread := sl.length + xl.length - oobCount sl - oobCount xl
    let s := meter s a.ten 6 nread (6 * nread)
    match if dFlag a.raw 4 then none else orElse (firstPoison 0 c.sregion sb sv) (firstPoison 1 c.sregion xb xv) with
    | some err => (.error err, s)
    | none =>
      let all := c.values s js (sb.zip sv) (xb.zip xv)
      let db := all.map (·.1)
      let dl := byteLocs s c.dregion true db
      match firstErr s 2 c.dregion db dl with
      | some err => (.error err, s)
      | none =>
        let s := settleLocs s dl
        let share := mayShare s c
        let late := c.values s js (sb.zip (sl.map (peekLoc s))) (xb.zip (xl.map (peekLoc s)))
        let old := putBack s saved
        let vals := if share then (all.zip (late.zip dl)).zipIdx.map (fun q =>
            if sharedByte s c q.1.1.1 then pickOf (s.free + q.2) q.1.1.2 q.1.2.1.2 (peekLoc old q.1.2.2) else q.1.1.2)
          else all.map (·.2)
        let saved := if share then keepWords s saved dl else saved
        let s := if share then { s with free := s.free + all.length } else s
        let n := dl.length - oobCount dl
        let s := countOob (writeLocs s rd (dl.zip vals)) c.dregion true (oobCount dl)
        (.ok (n, saved), meter (engineSlots s true a.ten dl) a.ten 6 n (6 * n))

/-- The decant fault payload (Table 8.8). POSITION is the offset as generated, before the wrap of a ring region, modulo 2^34 columns (DESIGN
CHOICE, log entry 130). -/
def copyPayload (e : Nat) (r : CopyErr) : List Byte :=
  leBytes 2 (srcNum 2 e) ++ leBytes 1 r.access ++ leBytes 1 (r.region % 64)
    ++ leBytes 6 ((r.place.off / 32 % 2 ^ 34).toNat + (r.place.bank % 2 ^ 12).toNat * 2 ^ 34) ++ leBytes 4 r.index ++ leBytes 2 0

/-- A copy in progress. -/
def jobOf (s : State) (e : BitVec 2) : Option (CopyJob × Active) :=
  match (decantOf s e.toNat).job, (decantOf s e.toNat).ended with
  | some j, none => (activeOf s j.id).map (fun a => (j, a))
  | _, _ => none

/-- A copy ends with a status: its fault record and entry are made, and the rest waits for its completion (R227, R228). -/
def endCopy (s : State) (e : BitVec 2) (j : CopyJob) (a : Active) (r : CopyErr) : State :=
  let s := reportEnd s a.ten (dTag a.raw) r.status (copyPayload e.toNat r) r.status.faults
  let d := decantOf s e.toNat
  setDecant s e.toNat { d with job := some j, ended := some { status := r.status, detail := min (2 ^ 32 - 1) j.bytes, ck := s.ck,
                                                              time := s.time, report := none, order := none, wait := none } }

/-- An engine does the next step of its copy. -/
def advanceCopy (s : State) (e : BitVec 2) : State :=
  match jobOf s e with
  | none => s
  | some (j, a) =>
    if (copyOf a.raw).steps s ≤ j.next then s
    else match copyStep s e a j.saved j.next with
      | (.ok (n, saved), s) =>
        setDecant s e.toNat { decantOf s e.toNat with job := some { j with next := j.next + 1, bytes := j.bytes + n, saved := saved } }
      | (.error r, s) => endCopy s e j a r

/-- The bank whose column slot the next step of a copy waits for: that of the first byte it writes, or reads; none where it has no access to
a bank, or meets a fault at once. -/
def copyBank (s : State) (e : BitVec 2) : Option Nat :=
  match jobOf s e with
  | none => none
  | some (j, a) =>
    let c := copyOf a.raw
    let js := (c.stepIx s j.next).filter (fun x => c.padw || !c.isPad x)
    let first (ls : List Loc) : Option Nat := ls.findSome? (fun l => match l with | .mem a => some (addrBank a) | _ => none)
    if (copyOf a.raw).steps s ≤ j.next then none
    else orElse (first (byteLocs s c.dregion true (js.flatMap c.dstBytes)))
      (first (byteLocs s c.sregion false ((js.filter (fun x => !c.isPad x)).flatMap c.srcBytes)))

/-- Steps of a copy that take no column slot, done up to the first that does, while the engine's run lasts (R375). -/
def idleSteps (n : Nat) (s : State) (e : BitVec 2) : State :=
  match n with
  | 0 => s
  | k + 1 => if (copyBank s e).isNone && engineRuns s e.toNat then idleSteps k (advanceCopy s e) e else s

/-- A decant engine starts the descriptor at its head (R57, R225). -/
def startCopy (s : State) (e : BitVec 2) (a : Active) : State :=
  let d := decantOf s e.toNat
  if d.job.isSome then s
  else
    let s := setDecant s e.toNat { d with queue := d.queue.tail, job := some { id := a.id, next := 0, bytes := 0, saved := [] } }
    let s := modActive s a.id (fun x => { x with started := some s.time })
    traceEv s 0x03 a.ten (srcNum 2 e.toNat) (dTag a.raw) 0 0

/-- A copy that has ended, or has done every step, completes its descriptor with the bytes committed (R227). -/
def finishCopy (s : State) (e : BitVec 2) : State :=
  match (decantOf s e.toNat).job with
  | none => s
  | some j =>
    let done := match activeOf s j.id with
      | some a => decide ((copyOf a.raw).steps s ≤ j.next)
      | none => true
    match (decantOf s e.toNat).ended, done with
    | some x, _ =>
      finishPart (setDecant s e.toNat { decantOf s e.toNat with job := none, ended := none }) j.id (.decant e) x.status x.detail
    | none, true =>
      finishPart (setDecant s e.toNat { decantOf s e.toNat with job := none, ended := none }) j.id (.decant e) .ok (min (2 ^ 32 - 1) j.bytes)
    | none, false => s

/-- A decant engine finishes its copy once every step that takes column slots has been done (R227). -/
def completeCopy (s : State) (e : BitVec 2) : State :=
  let s := match jobOf s e with
    | some (j, a) => idleSteps ((copyOf a.raw).steps s - j.next) s e
    | none => s
  finishCopy s e

/-- A copy cut short with a status where it stands (R370, R388). -/
def abortCopy (s : State) (e : BitVec 2) (st : Status) : State :=
  match jobOf s e with
  | none => s
  | some (j, a) =>
    finishCopy (endCopy s e j a { status := st, access := 0, region := 0, place := { bank := 0, off := 0 }, index := 0 }) e

/-! The scrubber (R351-R354). -/

/-- Columns of one bank index of a scrub. -/
def scrubRun (d : Descriptor) : Nat := dfield d 32 8 / 32
/-- Bank indices of a scrub. -/
def scrubBanks (s : State) (d : Descriptor) : Nat :=
  let r := regionOf s (bits d (8 * 16) 6)
  if r.linear then 1 else 16 * r.gCount
/-- Columns of a scrub in all. -/
def scrubTotal (s : State) (d : Descriptor) : Nat := scrubRun d * scrubBanks s d

/-- The result of a scrub that found a failing word (a second value counts uncorrectable ones). -/
def ScrubJob.fail (j : ScrubJob) (at_ : Nat × Nat × Nat) (bank ce ue : Nat) : ScrubJob :=
  let (u, c) := mget (0, 0) j.banks bank
  { j with first := orElse j.first (some at_), last := some at_, banks := mset (0, 0) j.banks bank (u + ue, c + ce) }

/-- One word of a column scanned. -/
def scrubWord (s : State) (rd : Reader) (j : ScrubJob) (w col bi : Nat) : Bool × ScrubJob × State :=
  let at_ := (col, bi, w % 8)
  let b := addrBank (4 * w)
  let j := { j with scanned := j.scanned + 1 }
  match classify (dramWord s w) (dramCheck s w) with
  | .clean => (false, j, s)
  | .corrected v => (true, { j with ce := j.ce + 1 }.fail at_ b 1 0, putWord (noteCorrected s rd w) w v (encodeCheck v))
  | .marker => (false, { j with pr := j.pr + 1 }, countEcc s b 0 0 1)
  | .uncorrectable => (false, { j with ue := j.ue + 1 }.fail at_ b 0 1, noteUncorrectable s rd w)

/-- The words of a column scanned in order. -/
def scrubWords (s : State) (rd : Reader) (j : ScrubJob) (w col bi n : Nat) : Bool × ScrubJob × State :=
  match n with
  | 0 => (false, j, s)
  | k + 1 =>
    let (x, j, s) := scrubWord s rd j w col bi
    let (y, j, s) := scrubWords s rd j (w + 1) col bi k
    (x || y, j, s)

/-- One column scanned, named by its column offset within the region (R39, R354): none where its page has no translation. -/
def scrubColumn (s : State) (a : Active) (j : ScrubJob) : Option (ScrubJob × State) :=
  let d := a.raw
  let n := bits d (8 * 16) 6
  let r := regionOf s n
  let bi := j.next / scrubRun d
  let off := dfield d 24 8 + 32 * (j.next % scrubRun d)
  let col := ((classOffset r (off : Int)).getD off) / 32
  let j := { j with next := j.next + 1 }
  match locate s r false (bi : Int) (off : Int) with
  | .fault => none
  | .oob _ => some (j, countOob s n false 32)
  | .mem x =>
    if retiredAt s x then some (j, s)
    else
      let b := addrBank x
      let rd : Reader := { src := srcNum 9 b, tag := some (dTag d), ten := some a.ten }
      let (wrote, j, s) := scrubWords (settleLine s x) rd j (x / 4) col bi 8
      let k := bankOf s b
      let u : SlotUse := { row := addrRow x, slots := if wrote then 2 else 1, begun := false, ten := some a.ten }
      some (j, setBank s b { k with hostQ := k.hostQ ++ [u] })

/-- n columns of the running scrub. -/
def advanceScrub (n : Nat) (s : State) : State :=
  match n with
  | 0 => s
  | k + 1 =>
    match s.scrub with
    | none => s
    | some j =>
      match activeOf s j.id with
      | none => s
      | some a =>
        if scrubTotal s a.raw ≤ j.next then s
        else match scrubColumn s a j with
          | none => endScrub s a j .translationFault
          | some (j, s) => advanceScrub k { s with scrub := some j }

/-- Whether the running scrub runs over a halted stack: of the linear pool over any, of a bank view over those of its groups (R388). -/
def scrubHalted (s : State) : Bool :=
  match s.scrub with
  | none => false
  | some j =>
    match activeOf s j.id with
    | none => false
    | some a =>
      let r := regionOf s (bits a.raw (8 * 16) 6)
      (List.range 8).any (fun k => stackHalted s k &&
        (r.linear || (decide (r.gFirst / 32 ≤ k) && decide (k ≤ (r.gFirst + r.gCount - 1) / 32))))

/-- The scrubber starts the descriptor at its head; one over a halted stack ends at once with PARTIAL = 1 (R388). -/
def startScrub (s : State) (a : Active) : State :=
  if s.scrub.isSome then s
  else
    let j := ScrubJob.new a.id
    let s := modActive { s with scrubQ := s.scrubQ.tail, scrub := some j } a.id (fun x => { x with started := some s.time })
    let s := traceEv s 0x03 a.ten (srcNum 8 0) (dTag a.raw) 0 0
    if scrubHalted s then endScrub s a j .thermalHalt else s

/-- The scrubber finishes its pass. -/
def completeScrub (s : State) : State :=
  match s.scrub with
  | none => s
  | some j =>
    match activeOf s j.id with
    | none => { s with scrub := none }
    | some a =>
      let s := advanceScrub (scrubTotal s a.raw - j.next) s
      match s.scrub with
      | some j => endScrub s a j .ok
      | none => s

/-- A scrub cut short with a status after a number of further columns that is not stated (R354, R388). -/
def abortScrub (s : State) (st : Status) : State :=
  match s.scrub with
  | none => s
  | some j =>
    match activeOf s j.id with
    | none => { s with scrub := none }
    | some a =>
      let (k, s) := draw s
      let s := advanceScrub (Config.orderPick k % (scrubTotal s a.raw - j.next + 1)) s
      match s.scrub with
      | some j => endScrub s a j st
      | none => s

/-! Column slots (R121). -/

/-- The engine whose copy next waits for a slot of a bank. -/
def copyAt (s : State) (b : Nat) : Option (BitVec 2) :=
  ((List.range 4).map (BitVec.ofNat 2)).find? (fun e => engineRuns s e.toNat && copyBank s e == some b)

/-- COLUMN_SLOT: the slot goes by R121 while the arrays are powered; where no refresh is forced and no host-class access is pending, a decant
copy whose next column lies in the bank makes its access, which then takes its slots (log entry 40). -/
def execColumnSlot (b : BitVec 12) (s : State) : Host.Outcome State Fault Refusal :=
  let k := bankOf s b.toNat
  .next (if !arraysOn s then s else match k.hostQ.isEmpty && decide (k.owed < 8) && !rmwOpen s b.toNat, copyAt s b.toNat with
    | true, some e => advanceCopy s e
    | _, _ => bankSlot b s)

end Sys2Proof.Machine
end

