-- ==== Sys2Proof/Machine/PressMath.lean ====
section
/-! DEFINITION. The functions of the presses within the bounds of Table 9.6: a true value computed to far more than FP32's precision, and a
free value within the bound around it (R237, R238). -/

namespace Sys2Proof.Machine

/-- A quotient of a value by a whole number, kept to 80 bits with a sticky bit, so that one rounding of it is the rounding of the exact
quotient. -/
def Num.divNat (v : Num) (n : Nat) : Num :=
  match v with
  | .fin s m e =>
    let k := m * 2 ^ 80
    .fin s (2 * (k / n) + (if k % n = 0 then 0 else 1)) (e - 81)
  | v => v

/-- A number times a constant in units of 2^-128. -/
def Num.times (v : Num) (c : Nat) : Num := v.mul (.fin false c (-128))

/-- 1 / (m × 2^e) to 128 bits. -/
def recipNum (m : Nat) (e : Int) : Num :=
  let k := 128 + Nat.log2 m
  .fin false (2 ^ k / m) (-e - (k : Nat))

/-- The reciprocal of a finite value that is not 0. -/
def Num.recip (v : Num) : Num :=
  match v with
  | .fin s m e => match recipNum m e with
    | .fin _ m' e' => .fin s m' e'
    | w => w
  | v => v

/-- A value in units of 2^-48, kept within ±4096. -/
def fixedOf (v : Num) : Int :=
  match v with
  | .fin s m e => max (-(2 ^ 60)) (min (2 ^ 60) (fix48 s m e))
  | _ => 0

/-- 2^y for y in units of 2^-48. -/
def exp2Num (y : Int) : Num :=
  let n := (y % 2 ^ 48).toNat
  .fin false ((List.range 48).foldl (fun p i => if n.testBit (47 - i) then p * expTable.getD i 0 / 2 ^ 96 else p) (2 ^ 96))
    (-96 + y / 2 ^ 48)

/-- The value 1. -/
def Num.one : Num := .fin false 1 0

/-- 1 / (1 + 2^-y) for y in units of 2^-48. -/
def logistic (y : Int) : Num :=
  if 0 ≤ y then (Num.one.add (exp2Num (-y))).recip
  else (exp2Num y).mul (Num.one.add (exp2Num y)).recip

/-- log2(e) in units of 2^-128. -/
def log2e : Nat := 0x171547652b82fe1777d0ffda0d23a7d12
/-- 2 √(2/π) log2(e) in units of 2^-128. -/
def geluOne : Nat := 0x24d5d84379ceb2976942cda18a76c51f9
/-- 0.044715 times that. -/
def geluThree : Nat := 0x1a5a7cf7572a9791b8dafc6cc0c23690
/-- 1 / √(2π) in units of 2^-128. -/
def gaussPeak : Nat := 0x662114cf50d942343f2cf1402eae38c0
/-- 2π in units of 2^-320. -/
def twoPi : Nat := 0x6487ed5110b4611a62633145c06e0e68948127044533e63a0105df531d89cd9128a5043cc71a026ef

/-- tanh of a finite value. -/
def tanhNum (s : Bool) (m : Nat) (e : Int) : Num :=
  let v : Num := .fin s m e
  if (Num.fin false m e).lt (.fin false 1 (-14)) then v.add ((v.mul (v.mul v)).times (2 ^ 128 / 3)).neg
  else
    let q := exp2Num (fixedOf ((Num.fin true m e).times (2 * log2e)))
    let r := (Num.one.add q.neg).mul (Num.one.add q).recip
    if s then r.neg else r

/-- The normal distribution function of a value of magnitude below 8, from its series. -/
def normalCdf (v : Num) : Num :=
  match v with
  | .fin s m e =>
    let k := e + 128
    let x : Int := if 0 ≤ k then ((m * 2 ^ k.toNat : Nat) : Int) else ((m / 2 ^ (-k).toNat : Nat) : Int)
    let sq := x * x / 2 ^ 128
    let r := (List.range 160).foldl (fun (a : Int × Int) n =>
      (a.1 + a.2 / ((2 * n + 1 : Nat) : Int), -(a.2 * sq / 2 ^ 128) / ((2 * (n + 1) : Nat) : Int))) ((0 : Int), x)
    let half : Int := 2 ^ 127
    let d := r.1 * (gaussPeak : Int) / 2 ^ 128
    .fin false (if s then half - d else half + d).toNat (-128)
  | v => v

/-- One unit in the last place of FP32 at a finite value. -/
def ulp (v : Num) : Num :=
  match v with
  | .fin _ m e => if m = 0 then .fin false 1 (-149) else .fin false 1 (max (-149) (e + (Nat.log2 m : Nat) - 23))
  | v => v

/-- The larger of two magnitudes. -/
def wider (a b : Num) : Num := if a.lt b then b else a

/-- A result within a distance of a true value: any FP32 value there, by function and operand; which one is a free value. -/
def near (code : Nat) (x : Word) (v d : Num) : Word :=
  let r := Config.actValue code x
  if !(ofF32 r).isNan && !(ofF32 r).lt (v.add d.neg) && !(v.add d).lt (ofF32 r) then r else toF32 v

/-- A number of units in the last place. -/
def ulps (v : Num) (n : Nat) : Num := (ulp v).mul (.fin false n 0)

/-- The bound of the GELU forms: 4 ulp, or 2^-24 where the result lies below 2^-20. -/
def geluBound (v : Num) : Num :=
  match v with
  | .fin _ m e => if (Num.fin false m e).lt (.fin false 1 (-20)) then wider (ulps v 4) (.fin false 1 (-24)) else ulps v 4
  | v => v

/-- A result that the spec does not bound: a free value, a NaN among them canonical (R181). -/
def openF32 (code : Nat) (x : Word) : Word := canonF32 (Config.actValue code x)

/-- A press function at an infinity (R238): the bound holds around the function's limit; the product of −∞ and 0 that SiLU and the GELU
forms have at −∞ may also be the canonical NaN (DEDUCED, log entry 38). -/
def actInf (code : Nat) (n : Bool) (x : Word) : Word :=
  let zero : Num := .fin n 0 0
  match code with
  | 0 => exp2F32 x
  | 4 => if n then near 4 x zero (ulps zero 3) else near 4 x Num.one (ulps Num.one 3)
  | 5 => let one : Num := .fin n 1 0; near 5 x one (ulps one 3)
  | 6 => if n then 0 else x
  | 7 => if n then 0x7FC00000 else near 7 x zero (ulps zero 2)
  | 8 => near 8 x zero (ulps zero 1)
  | c =>
    if !n then x
    else if (ofF32 (Config.actValue c x)).isNan then 0x7FC00000
    else near c x zero (if c = 1 then ulps zero 4 else geluBound zero)

/-- A press function of FP32 bits (Table 9.6). The reciprocal of a zero is the infinity of its sign (DEDUCED, log entry 38); the reciprocal
square root of −0 is not stated: it is a free value. -/
def actF32 (code : Nat) (x : Word) : Word :=
  match ofF32 x with
  | .nan => 0x7FC00000
  | .inf n => actInf code n x
  | .fin n m e =>
    let v : Num := .fin n m e
    match code with
    | 0 => exp2F32 x
    | 1 => let r := v.mul (logistic (fixedOf (v.times log2e))); near 1 x r (ulps r 4)
    | 2 =>
      let y := (v.times geluOne).add ((v.mul (v.mul v)).times geluThree)
      let r := v.mul (logistic (fixedOf y))
      near 2 x r (geluBound r)
    | 3 =>
      let r := if (Num.fin false m e).lt (.fin false 8 0) then v.mul (normalCdf v) else if n then .fin true 0 0 else v
      near 3 x r (geluBound r)
    | 4 => let r := logistic (fixedOf (v.times log2e)); near 4 x r (ulps r 3)
    | 5 => let r := tanhNum n m e; near 5 x r (ulps r 3)
    | 6 => if n || m == 0 then 0 else x
    | 7 =>
      if m = 0 then (if n then openF32 7 x else 0x7F800000)
      else if n then 0x7FC00000
      else
        let odd := e % 2 ≠ 0
        let m' := if odd then 2 * m else m
        let e' := if odd then e - 1 else e
        let r : Num := .fin false (Nat.sqrt (2 ^ 200 / m')) (-100 - e' / 2)
        near 7 x r (ulps r 2)
    | _ => if m = 0 then (if n then 0xFF800000 else 0x7F800000) else let r := v.recip; near 8 x r (ulps r 1)

/-- cos and sin of an angle of r × 2^-96, from their series. -/
def cosSin (r : Nat) : Num × Num :=
  let one : Int := 2 ^ 96
  let t := (List.range 64).foldl (fun (a : Int × Int × Int) n =>
    let (c, si, p) := a
    let k := n % 4
    let c := if k = 0 then c + p else if k = 2 then c - p else c
    let si := if k = 1 then si + p else if k = 3 then si - p else si
    (c, si, p * (r : Int) / 2 ^ 96 / ((n + 1 : Nat) : Int))) ((0 : Int), (0 : Int), one)
  (.fin (decide (t.1 < 0)) t.1.natAbs (-96), .fin (decide (t.2.1 < 0)) t.2.1.natAbs (-96))

/-- cos and sin of the angle t × f, the angle reduced exactly, each within 2^-22 (Table 9.6); for an infinite frequency they are free. -/
def rotation (t f : Word) : Word × Word :=
  let code := 16 + 2 * t.toNat
  match ofF32 f with
  | .nan => (0x7FC00000, 0x7FC00000)
  | .inf _ => (openF32 code f, openF32 (code + 1) f)
  | .fin n m e =>
    let a : Int := (if n then -1 else 1) * t.toInt * ((m * 2 ^ (e + 320).toNat : Nat) : Int)
    let r := (a % (twoPi : Int)).toNat / 2 ^ 224
    let (c, si) := cosSin r
    let d : Num := .fin false 1 (-22)
    (near code f c d, near (code + 1) f si d)

end Sys2Proof.Machine
end

