-- ==== Sys2Proof/Machine/Units.lean ====
section
/-! DEFINITION. Tasks and loads of units and presses: starts, cask loads, wakes, ballast admission, idle gating, limits (R98-R107, R127-R129,
R231-R235, R373-R375). -/

namespace Sys2Proof.Machine

/-- The descriptor at the head of an executor's queue. -/
def headActive (s : State) (x : Executor) : Option Active :=
  match execQueue s x with
  | [] => none
  | i :: _ => activeOf s i

/-- Whether a descriptor's flag wait is over (R56). -/
def waitOver (a : Active) : Bool := a.wait == .none || a.wait == .released

/-- The head of an executor's queue leaves it. -/
def popQueue (s : State) (x : Executor) : State := setQueue s x (execQueue s x).tail

/-- The cask that a run names (Tables 3.7, 9.2). -/
def runCask (d : Descriptor) : Bool := if dOp d = 2 then bit d (8 * 16) else bit d (8 * 9)
/-- The entry of a run. -/
def runEntry (d : Descriptor) : Nat := if dOp d = 2 then bits d (8 * 18) 11 else bits d (8 * 10) 12
/-- TASK_LIMIT of a run, in µs. -/
def runLimit (d : Descriptor) : Nat := if dOp d = 2 then dfield d 20 4 else dfield d 12 4
/-- The argument registers of a run: s1-s8 or r1-r4. -/
def runArgs (d : Descriptor) : List Nat :=
  if dOp d = 2 then (List.range 8).map (fun k => dfield d (24 + 4 * k) 4) else (List.range 4).map (fun k => dfield d (20 + 4 * k) 4)

/-- Whether a load in progress holds a run back: it writes the cask the run names, or is of the run's own source (R91, R128). -/
def loadBlocks (s : State) (p : Proc) (a : Active) : Bool :=
  match p.load with
  | some l => l.cask == runCask a.raw ||
      (match activeOf s l.id with | some b => b.ten == a.ten && b.src == a.src | none => false)
  | none => false

/-- Whether the head of a core's queue is a run that may start now (R80, R104, R234, R370, R388). -/
def runReady (s : State) (x : CoreId) : Option Active :=
  let p := procOf s x
  match headActive s (ofCore x) with
  | none => none
  | some a =>
    if (dOp a.raw == 2 || dOp a.raw == 5) && waitOver a && p.task.isNone && !loadBlocks s p a && !partHalted s (ofCore x)
        && canPlace s a.ten
        && (match x with
            | .unit b => (unitOf s b.toNat).st == .idle || (unitOf s b.toNat).st == .asleep
            | .press _ => domainOn s (ofCore x))
    then some a else none

/-- A task starts: its cask live, the counter at ENTRY, the argument registers loaded, the others zero, shapes zero, no loop (R105,
R234); a cask marked incomplete ends it at once (R129). -/
def startTask (s : State) (x : CoreId) (a : Active) : State :=
  let s := popQueue s (ofCore x)
  let t : Task := { id := a.id, ten := a.ten, tag := dTag a.raw, raw := a.raw, startE := s.elapsed, startT := s.time,
                    startCk := s.ck, polled := false }
  let regs := (runArgs a.raw).zipIdx.foldl (fun m v => mset PWord.zero m (v.2 + 1) { val := BitVec.ofNat 32 v.1, poison := false }) []
  let s := modProc s x (fun p => { p with live := runCask a.raw, pc := runEntry a.raw, regs := regs, shapes := [], loops := [],
                                          task := some t, vec := none, nap := none, ended := none })
  let s := match x with
    | .unit b => enterState (modUnit s b.toNat (fun u => { u with stream := none, spos := 0, miss := none, startReq := false })) b.toNat .running
    | .press _ => s
  let s := modActive s a.id (fun e => { e with started := some (e.started.getD s.time) })
  let s := traceEv s (match x with | .unit _ => 0x05 | .press _ => 0x03) a.ten (coreSrc x) (dTag a.raw) 0 0
  if ((procOf s x).cask (runCask a.raw)).incomplete then faultTask s x .buFault 0x0C 0 0 else s

/-- A unit's run asks for its credit: a task start of an IDLE unit, a wake of an ASLEEP one (R101, R102). -/
def askStart (s : State) (b : BitVec 12) : State :=
  let u := unitOf s b.toNat
  if u.startReq then s
  else match runReady s (.unit b) with
    | none => s
    | some _ =>
      let s := modUnit s b.toNat (fun u => { u with startReq := true })
      if u.st = .asleep then
        if u.wakeReq then s else ballastAsk (modUnit s b.toNat (fun u => { u with wakeReq := true })) (.wake b.toNat)
      else ballastAsk s (.taskStart b.toNat)

/-- A unit whose credit is there starts its task, if it still may. -/
def admitStart (s : State) (b : BitVec 12) : State :=
  match runReady s (.unit b) with
  | some a => startTask s (.unit b) a
  | none => modUnit s b.toNat (fun u => { u with startReq := false })

/-- A press starts its next run (R234). -/
def pressStart (s : State) (e : BitVec 4) : State :=
  match runReady s (.press e) with
  | some a => startTask s (.press e) a
  | none => s

/-- PRESS_TASK_START (R234). -/
def execPressTaskStart (e : BitVec 4) (s : State) : Host.Outcome State Fault Refusal := .next (pressStart s e)

/-! Loads (R127-R129, R235). -/

/-- FIRST of a load. -/
def loadFirst (d : Descriptor) : Nat := if dOp d = 3 then bits d (8 * 18) 11 else dfield d 18 2

/-- A load at the head of its queue is applied or refused by Table 4.6; one load at a time; an ASLEEP unit is woken first (R102). -/
def loadApply (s : State) (x : CoreId) : State :=
  let p := procOf s x
  match headActive s (ofCore x) with
  | none => s
  | some a =>
    let up := match x with
      | .unit b => (unitOf s b.toNat).st != .off
      | .press _ => domainOn s (ofCore x)
    if isLoad a.raw && waitOver a && p.load.isNone && up && canPlace s a.ten then
      let c := dfield a.raw 16 1
      let cask := if c = 2 then !p.live else c == 1
      if c ≠ 2 ∧ cask = p.live ∧ p.task.isSome then
        dropPart (modActive s a.id (fun e => { e with refusedN := e.refusedN + 1 })) a.id (ofCore x) .caskBusy 0
      else
        let asleep := match x with
          | .unit b => (unitOf s b.toNat).st == .asleep
          | .press _ => false
        let s := modActive s a.id (fun e => { e with started := some (e.started.getD s.time) })
        let s := modProc (popQueue s (ofCore x)) x (fun p => { p with load := some { id := a.id, cask := cask, waking := asleep } })
        let s := traceEv s 0x03 a.ten (coreSrc x) (dTag a.raw) 0 0
        match x with
        | .unit b =>
          if asleep ∧ (unitOf s b.toNat).wakeReq = false then
            ballastAsk (modUnit s b.toNat (fun u => { u with wakeReq := true })) (.wake b.toNat)
          else s
        | .press _ => s
    else s

/-- LOAD_APPLY (R127, R235). -/
def execLoadApply (x : CoreId) (s : State) : Host.Outcome State Fault Refusal := .next (loadApply s x)

/-- A cask with n words of a program written from FIRST. -/
def Cask.write (k : Cask) (first n : Nat) (ws : List Word64) : Cask := { k with words := msetAll 0 k.words first (ws.take n) }

/-- A load writes its last instruction (R127, R129, R150). -/
def loadComplete (s : State) (x : CoreId) : State :=
  let p := procOf s x
  match p.load with
  | none => s
  | some l =>
    match activeOf s l.id with
    | none => modProc s x (fun p => { p with load := none })
    | some a =>
      if l.waking || (needsPlace a (ofCore x) .ok && !canPlace s a.ten) then s
      else
        let ws := a.prog.getD []
        let f := loadFirst a.raw
        let k := p.cask l.cask
        let k' : Cask := { k.write f ws.length ws with loaded := some (f + ws.length), incomplete := k.incomplete && f != 0 }
        let s := modProc s x (fun p => { p.setCask l.cask k' with load := none })
        let s := match x with
          | .unit b => modUnit s b.toNat (fun u => { u with idleSince := s.ck })
          | .press _ => s
        finishPart (modActive s l.id (fun e => { e with applied := e.applied + 1 })) l.id (ofCore x) .ok 0

/-- LOAD_COMPLETE (R127, R296). -/
def execLoadComplete (x : CoreId) (s : State) : Host.Outcome State Fault Refusal := .next (loadComplete s x)

/-- A load cut off with a status: how many words it had written is not specified; a cask in part rewritten is marked incomplete
(R129). -/
def cutLoad (s : State) (x : CoreId) (st : Status) : State :=
  let p := procOf s x
  match p.load with
  | none => s
  | some l =>
    match activeOf s l.id with
    | none => modProc s x (fun p => { p with load := none })
    | some a =>
      let ws := a.prog.getD []
      let (k, s) := draw s
      let n := if l.waking then 0 else Config.orderPick k % max 1 ws.length
      let c := (p.cask l.cask).write (loadFirst a.raw) n ws
      let c := if n = 0 then c else { c with incomplete := true }
      let s := modProc s x (fun p => { p.setCask l.cask c with load := none })
      dropPart s l.id (ofCore x) st 0

/-! The end of a task (R57, R106, R439). -/

/-- The cycle in which a core's task ended is over (R174). -/
def endCycleOver (s : State) (x : CoreId) : State :=
  match (procOf s x).ended with
  | some e => if e.ck = s.ck then tick s else s
  | none => s

/-- A unit's task that has ended is reported once its write queue has drained and its barrier arrivals have been judged: history, trace, its part of the descriptor. -/
def reportUnit (s : State) (b : BitVec 12) : State :=
  let s := noteEnd (endCycleOver s (.unit b)) (.unit b)
  let u := unitOf s b.toNat
  match u.proc.task, u.proc.ended with
  | some t, some e =>
    match activeOf s t.id with
    | none => s
    | some a =>
      if !u.wq.isEmpty || s.sync.arrivals.any (fun q => q.unit == b.toNat) || (needsPlace a (.unit b) e.status && !canPlace s t.ten) then s
      else
        let h : TaskRec := { tag := t.tag, status := e.status, cask := u.proc.live, pc := u.proc.pc % 2048,
                             startT := t.startT % 2 ^ 32, endT := e.time % 2 ^ 32 }
        let s := enterState s b.toNat .idle
        let s := modUnit s b.toNat (fun u => { u with history := (h :: u.history).take 4, stream := none,
                                                      proc := { u.proc with task := none, ended := none } })
        finishPart (traceEnd s (.unit b) t e.status) t.id (.unit b) e.status e.detail
  | _, _ => s

/-- A press's busy cycles since they were last reported go to its meter: a stack press's 800 MHz cycle counts as two ck cycles (Tables 11.6,
11.7). -/
def chargePress (s : State) (e : Nat) (t : Task) : State :=
  let n := s.ck - t.startCk
  let s := modPress s e (fun p => { p with proc := { p.proc with task := some { t with startCk := s.ck } } })
  if n = 0 then s else meter s t.ten 7 n (if e < 8 then 40 * n else 15 * n)

/-- The active cycles of every unit in RUNNING reported (R291). -/
def settleRuns (s : State) : State := s.units.foldl (fun s e => settleRun s e.1) s

/-- The busy cycles of every press with a task reported (R291). -/
def settlePresses (s : State) : State :=
  s.presses.foldl (fun s e => match (pressOf s e.1).proc.task with
    | some t => chargePress s e.1 t
    | none => s) s

/-- A press's task that has ended is reported once its host writes have committed (R234). -/
def reportPress (s : State) (e : BitVec 4) : State :=
  let s := noteEnd (endCycleOver s (.press e)) (.press e)
  let p := pressOf s e.toNat
  match p.proc.task, p.proc.ended with
  | some t, some d =>
    match activeOf s t.id with
    | none => s
    | some a =>
      if p.hostPending ≠ 0 ∨ (needsPlace a (.press e) d.status && !canPlace s t.ten) = true then s
      else
        let s := chargePress s e.toNat t
        let s := modPress s e.toNat (fun p => { p with proc := { p.proc with task := none, ended := none } })
        finishPart s t.id (.press e) d.status d.detail
  | _, _ => s

/-- IN_LIMIT of a press task, in µs: 10 ms where it is 0 (Table 9.2). -/
def inLimit (d : Descriptor) : Nat := if dfield d 16 4 = 0 then 10000 else dfield d 16 4

/-- INFO and CHANNEL of a task that reaches its limit: those of a PRECV whose IN_LIMIT runs out in the same cycle (R434), else 0. -/
def limitInfo (s : State) (x : CoreId) (t : Task) (due : Nat) : Nat × Nat :=
  match x with
  | .press e =>
    (match (pressOf s e.toNat).recv with
     | some r =>
       if cyclesFor s (r.start + inLimit t.raw * Config.us - s.elapsed) = cyclesFor s (due - s.elapsed) then (r.need, r.chan) else (0, 0)
     | none => (0, 0))
  | .unit _ => (0, 0)

/-- A limit of a task ends it with a status when the cycle in which it falls due is over; the end is of that cycle (R174, R175, R434). -/
def faultPast (s : State) (due : Nat) (x : CoreId) (st : Status) (reason info chan : Nat) : State :=
  let at_ := if due < s.elapsed then s else advanceTo s due
  let s := pastDue s due
  faultAt s x st reason info chan (s.ck - 1) at_.time

/-- TASK_LIMIT_EXPIRY: a task still running when the cycle of its limit is over ends with WATCHDOG, INFO 0 (R106, R174, R234, R433, R434,
Table 5.10). -/
def execTaskLimitExpiry (x : CoreId) (s : State) : Host.Outcome State Fault Refusal :=
  .next (match (procOf s x).task, (procOf s x).ended with
    | some t, none =>
      if runLimit t.raw = 0 then s
      else
        let due := t.startE + runLimit t.raw * Config.us
        let i := limitInfo s x t due
        faultPast s due x .watchdog 0 i.1 i.2
    | _, _ => s)

/-! Ballast (R373, R374). -/

/-- The number of the window that the present cycle lies in: the window counter is phase ahead of the cycle count (R373). -/
def windowOf32 (s : State) : Nat := (s.ck + s.pwr.phase) / 32

/-- The credit counts of the window that the present cycle lies in. -/
def freshWindow (s : State) : State :=
  if s.pwr.window = windowOf32 s then s
  else { s with pwr := { s.pwr with window := windowOf32 s, usedMod := 0, used := [] } }

/-- BALLAST_WINDOW: the next window begins (R373). -/
def execBallastWindow (s : State) : Host.Outcome State Fault Refusal :=
  .next (freshWindow (advance s (32 - (s.ck + s.pwr.phase) % 32)))

/-- Whether a credit of a stack may be granted in this cycle: k_s in its window and one in a cycle, 4 × k_cap of the module's window
and two in a cycle. -/
def creditFree (s : State) (k : Nat) : Bool :=
  decide (mget 0 s.pwr.used k < stackLevel s k) && decide (s.pwr.usedMod < 4 * s.pwr.kCap)
    && (s.pwr.grantCk != s.ck || (decide (s.pwr.grantMod < 2) && !s.pwr.grantStk.contains k))

/-- A credit taken from a stack's limiter. -/
def takeCredit (s : State) (k : Nat) : State :=
  let same := s.pwr.grantCk == s.ck
  { s with pwr := { s.pwr with
      used := mupd 0 s.pwr.used k (· + 1), usedMod := s.pwr.usedMod + 1, grantCk := s.ck,
      grantMod := if same then s.pwr.grantMod + 1 else 1, grantStk := if same then k :: s.pwr.grantStk else [k],
      lastStk := k } }

/-- An admission counted for the owner of a group (meter WAKES). -/
def countWake (s : State) (b : Nat) : State :=
  match mget none s.groupOwner (groupOf b) with
  | some t => meter s t 13 1 0
  | none => s

/-- A napping unit resumes: its FWAIT or BARR completes (R103). -/
def resumeUnit (s : State) (b : Nat) : State :=
  if (unitOf s b).st = .napping then
    modUnit (enterState s b .running) b (fun u => { u with proc := pnext { u.proc with nap := none } })
  else s

/-- A poll leaves for the flag's home (R254). -/
def sendPoll (s : State) (x : CoreId) : State :=
  match (procOf s x).nap with
  | some n =>
    (match n.why with
     | .poll f clr =>
       issueFlagOp (modProc s x (fun p => { p with nap := some { n with lastPoll := s.ck } }))
         { op := if clr then .testClr else .test, flag := f, ten := coreTen s x, who := coreWho x, tag := coreTag s x, reply := .core x }
     | _ => s)
  | none => s

/-- A request admitted. A group's ramp begins in the next ck cycle (R371). -/
def admitOne (s : State) (a : Admit) : State :=
  match a with
  | .taskStart b => admitStart s (buid b)
  | .wake _ => s
  | .nap b => resumeUnit s b
  | .poll b => sendPoll s (.unit (buid b))
  | .ramp g _ => setDom s g { domOf s g with st := .ramping, since := s.elapsed + ckTicks s, reEnable := false, asked := false }

/-- The stack whose turn it is: of those with a request and a credit the first in round-robin order (R374). -/
def nextStack (s : State) : Option Nat :=
  ((List.range 8).map (fun i => (s.pwr.lastStk + 1 + i) % 8)).find? (fun k => !(mget [] s.pwr.queues k).isEmpty && creditFree s k)

/-- The cycle in which a credit may next be granted: the present one, or the next when this one has given all it may. -/
def grantCycle (s : State) : State :=
  let s := freshWindow s
  if (nextStack s).isNone && s.pwr.grantCk == s.ck then freshWindow (advance s 1) else s

/-- One credit granted to the head of a stack's queue, if it is the stack's turn; a group ramp stays at the head until its sixteenth. -/
def grantHead (s : State) (k : Nat) : State :=
  let s := grantCycle s
  match mget [] s.pwr.queues k with
  | [] => s
  | (c, a) :: rest =>
    if nextStack s = some k then
      let s := countWake (takeCredit s k) a.bank
      match a with
      | .ramp g (n + 2) => { s with pwr := { s.pwr with queues := mset [] s.pwr.queues k ((c, .ramp g (n + 1)) :: rest) } }
      | a => admitOne { s with pwr := { s.pwr with queues := mset [] s.pwr.queues k rest } } a
    else s

/-- The wake of a unit that a switch clears: its credit is taken ahead of every queued wake of the stack (R282, R374), in this cycle, in the
next, or in the next window; a cycle in the next window has a credit free (log entry 121). -/
def clearCredit (s : State) (b : Nat) : State :=
  let k := stackOf b
  let s := freshWindow s
  let s := if creditFree s k then s else freshWindow (advance s 1)
  let s := if creditFree s k then s else freshWindow (advance s (32 - (s.ck + s.pwr.phase) % 32))
  takeCredit s k

/-- BALLAST_GRANT (R374). -/
def execBallastGrant (stack : BitVec 3) (s : State) : Host.Outcome State Fault Refusal := .next (grantHead s stack.toNat)

/-- UNIT_WAKE_DONE: an ASLEEP unit whose wake was admitted is IDLE; it starts the task or the cask load that woke it (R102). -/
def execUnitWakeDone (b : BitVec 12) (s : State) : Host.Outcome State Fault Refusal :=
  let u := unitOf s b.toNat
  .next (if u.st == .asleep && u.wakeReq && !ballastWaits s (.wake b.toNat) then
    let s := enterState s b.toNat .idle
    let s := modProc (modUnit s b.toNat (fun u => { u with wakeReq := false })) (.unit b)
      (fun p => { p with load := p.load.map (fun l => { l with waking := false }) })
    if u.startReq then admitStart s b else s
  else s)

/-- IDLE_GATE_EXPIRY: a unit whose queue has stayed empty for PWR_BU_IDLE_GATE cycles goes to ASLEEP (R99). -/
def execIdleGateExpiry (b : BitVec 12) (s : State) : Host.Outcome State Fault Refusal :=
  let u := unitOf s b.toNat
  .next (if u.st == .idle && u.proc.queue.isEmpty && u.proc.task.isNone && u.proc.load.isNone then
    enterState (advance s (u.idleSince + idleGate s - s.ck)) b.toNat .asleep
  else s)

/-- RUN_PERIOD_TICK: the next run period of 1024 cycles begins; runs follow from the cycle count (R375). -/
def execRunPeriodTick (s : State) : Host.Outcome State Fault Refusal :=
  .next (advance s (1024 - s.ck % 1024))

end Sys2Proof.Machine
end

