-- ==== Sys2Proof/Machine/Press.lean ====
section
/-! DEFINITION. Press instructions: arithmetic in scratch, windows, channels and records (R195-R197, R236-R243, R347). Every operand is
read before a result is written (log entry 36). -/

namespace Sys2Proof.Machine

/-! Fields of the P format (Table 9.4). Fields that an instruction does not use are ignored, and bits of MODE and B that Table 9.5 does not
list are reserved (log entry 37). -/

/-- SH. -/
def pSh (w : Word64) : Nat := bits w 53 3
/-- MODE. -/
def pMode (w : Word64) : Nat := bits w 45 8
/-- DST. -/
def pDst (w : Word64) : Nat := bits w 30 15
/-- A. -/
def pA (w : Word64) : Nat := bits w 15 15
/-- B. -/
def pB (w : Word64) : Nat := bits w 0 15

/-- The scratch check of an operand of n rows of rl bytes from a unit: REASON 0x05 with the unit (R236, Table 9.8). -/
def pRange (e : BitVec 4) (u rl n : Nat) (st : Int) : List (Nat × Nat) :=
  (({ a := 32 * u, rl := rl, n := n, s := st } : Rows).range (coreMem (.press e))).map (fun _ => (0x05, u))

/-- Whether a shape names any element. -/
def Shape.live (sh : Shape) : Bool := sh.n0 != 0 && sh.n1 != 0
/-- S0 must be 1, whatever the counts (R236). -/
def pStep (sh : Shape) : List (Nat × Nat) := failIf (sh.s0 != 1) 0x04 0
/-- Element (i1, i0) of z bytes of an operand at a unit. -/
def pAddr (sh : Shape) (u z i1 i0 : Nat) : Nat := ((32 * u : Nat) + (i1 : Int) * sh.s1 + ((i0 * z : Nat) : Int)).toNat
/-- Every index (i1, i0) of a shape, in row order. -/
def Shape.indices (sh : Shape) : List (Nat × Nat) :=
  (List.range sh.n1).flatMap (fun i1 => (List.range sh.n0).map (fun i0 => (i1, i0)))
/-- An FP32 value in scratch and its poison. -/
def pVal (p : Proc) (a : Nat) : Word × Bool := (BitVec.ofNat 32 (memNum p a 4), memBad p a 4)

/-- Results stored in scratch and the next instruction reached; a poisoned input under fault ends the task instead, with its scratch unit
(R241). Inputs: addresses with their marks. Results: address, bytes, bits, poison. -/
def pressWork (s : State) (e : BitVec 4) (p : Proc) (reads : List (Nat × Bool)) (outs : List (Nat × Nat × Nat × Bool)) : State :=
  match firstBad reads, propagates p with
  | some a, false => faultTask s (.press e) .dataUncorrectable 0 (a / 32) 0
  | _, _ =>
    let (cells, s) := cellsOf s outs
    modProc s (.press e) (fun q => pnext (memStore q cells))

/-- Addresses of FP32 operands as inputs. -/
def pReads (p : Proc) (l : List Nat) : List (Nat × Bool) := l.map (fun a => (a, memBad p a 4))

/-! Arithmetic instructions. -/

/-- FP32 subtraction. -/
def subF32 (a b : Word) : Word := toF32 ((ofF32 a).add (ofF32 b).neg)

/-- The operation of PEW. -/
def pewOp (op : Nat) (a b : Word) : Word :=
  match op with
  | 0 => addF32 a b | 1 => subF32 a b | 2 => mulF32 a b | 3 => maxF32 a b | _ => minF32 a b

/-- PEW (Table 9.5). -/
def execPew (e : BitVec 4) (s : State) : Host.Outcome State Fault Refusal :=
  .next (issue s (.press e) 0x60 (fun w => decide (bits w 45 3 ≤ 4) && bits w 48 2 != 3 && bits w 50 3 == 0) (fun s p w =>
    let sh := shapeOf p (pSh w)
    let bm := bits w 48 2
    let bSh : Shape := { sh with n0 := if bm = 2 then 1 else sh.n0, n1 := if bm = 0 then sh.n1 else 1 }
    let bAt (i : Nat × Nat) : Nat := if bm = 0 then pAddr sh (pB w) 4 i.1 i.2 else if bm = 1 then pAddr sh (pB w) 4 0 i.2 else 32 * pB w
    let ins := sh.indices.map (fun i => (pAddr sh (pA w) 4 i.1 i.2, bAt i, pAddr sh (pDst w) 4 i.1 i.2))
    judge s (.press e) p []
      (pStep sh ++ (if sh.live then pRange e (pA w) (4 * sh.n0) sh.n1 sh.s1 ++ pRange e (pB w) (4 * bSh.n0) bSh.n1 sh.s1
        ++ pRange e (pDst w) (4 * sh.n0) sh.n1 sh.s1 else []))
      (pressWork s e p (pReads p (ins.flatMap (fun i => [i.1, i.2.1])))
        (ins.map (fun i => (i.2.2, 4, (pewOp (bits w 45 3) (pVal p i.1).1 (pVal p i.2.1).1).toNat, (pVal p i.1).2 || (pVal p i.2.1).2))))))

/-- PRED (Table 9.5, R162). -/
def execPred (e : BitVec 4) (s : State) : Host.Outcome State Fault Refusal :=
  .next (issue s (.press e) 0x61 (fun w => bits w 47 6 == 0) (fun s p w =>
    let sh := shapeOf p (pSh w)
    let cols := bit w 46
    let val (i1 i0 : Nat) := pVal p (pAddr sh (pA w) 4 i1 i0)
    let ls := if !sh.live then []
      else if cols then (List.range sh.n0).map (fun i0 => (List.range sh.n1).map (fun i1 => val i1 i0))
      else (List.range sh.n1).map (fun i1 => (List.range sh.n0).map (fun i0 => val i1 i0))
    let (outs, t) := reduceAll s (bit w 45) (32 * pDst w) ls
    judge s (.press e) p []
      (pStep sh ++ (if sh.live then pRange e (pA w) (4 * sh.n0) sh.n1 sh.s1
        ++ pRange e (pDst w) (4 * (if cols then sh.n0 else sh.n1)) 1 0 else []))
      (pressWork t e p (pReads p (sh.indices.map (fun i => pAddr sh (pA w) 4 i.1 i.2))) outs)))

/-- One row of PNORM: mean, differences, their mean square, ε added, reciprocal square root, scaling, γ and β, each step rounded once
(log entry 38). -/
def normRow (layer : Bool) (eps : Word) (gs bs xs : List Word) (draws : Nat) : List Word × Nat :=
  let n := xs.length
  let mean (l : List Word) (k : Nat) : Word × Nat :=
    let (v, k) := foldAny n addF32 k l
    (toF32 ((ofF32 v).divNat n), k)
  let (mu, k) := if layer then mean xs draws else (0, draws)
  let ds := xs.map (fun x => subF32 x mu)
  let (var, k) := mean (ds.map (fun d => mulF32 d d)) k
  let r := actF32 7 (addF32 var eps)
  (ds.zipIdx.map (fun d =>
    let y := mulF32 (mulF32 d.1 r) (gs.getD d.2 0)
    addF32 y (if layer then bs.getD d.2 0 else 0)), k)

/-- The rows of PNORM, with the draws they used. -/
def normRows (layer : Bool) (eps : Word) (gs bs : List Word) (rows : List (List Word)) (draws : Nat) : List (List Word) × Nat :=
  match rows with
  | [] => ([], draws)
  | r :: t =>
    let (y, k) := normRow layer eps gs bs r draws
    let (ys, k) := normRows layer eps gs bs t k
    (y :: ys, k)

/-- PNORM (Table 9.5). -/
def execPnorm (e : BitVec 4) (s : State) : Host.Outcome State Fault Refusal :=
  .next (issue s (.press e) 0x62 (fun w => bits w 46 3 == 0) (fun s p w =>
    let sh := shapeOf p (pSh w)
    let layer := bit w 45
    let eps := rget p (bits w 49 4)
    let g (i0 : Nat) : Nat := 32 * pB w + 4 * i0
    let rows := (List.range sh.n1).map (fun i1 => (List.range sh.n0).map (fun i0 => pVal p (pAddr sh (pA w) 4 i1 i0)))
    let gs := (List.range sh.n0).map (fun i0 => pVal p (g i0))
    let bs := (List.range sh.n0).map (fun i0 => pVal p (g (sh.n0 + i0)))
    let (ys, k) := normRows layer eps.val (gs.map (·.1)) (bs.map (·.1)) (rows.map (·.map (·.1))) s.free
    let outs := sh.indices.map (fun i =>
      (pAddr sh (pDst w) 4 i.1 i.2, 4, ((ys.getD i.1 []).getD i.2 0).toNat,
        eps.poison || (rows.getD i.1 []).any (·.2) || (gs.getD i.2 (0, false)).2 || (layer && (bs.getD i.2 (0, false)).2)))
    judge s (.press e) p []
      (pStep sh ++ (if sh.live then pRange e (pA w) (4 * sh.n0) sh.n1 sh.s1 ++ pRange e (pDst w) (4 * sh.n0) sh.n1 sh.s1
        ++ pRange e (pB w) (4 * sh.n0 * (if layer then 2 else 1)) 1 0 else []))
      (if !sh.live then stepOn s (.press e)
       else if eps.poison && !propagates p then faultTask s (.press e) .dataUncorrectable 0 0 0
       else pressWork { s with free := k } e p (pReads p (sh.indices.map (fun i => pAddr sh (pA w) 4 i.1 i.2)
         ++ (List.range (sh.n0 * (if layer then 2 else 1))).map g)) outs)))

/-- PACT (Table 9.5, R238). -/
def execPact (e : BitVec 4) (s : State) : Host.Outcome State Fault Refusal :=
  .next (issue s (.press e) 0x63 (fun w => decide (bits w 45 4 ≤ 8) && bits w 50 3 == 0) (fun s p w =>
    let sh := shapeOf p (pSh w)
    let gate := bit w 49
    let ins := sh.indices.map (fun i => (pAddr sh (pA w) 4 i.1 i.2, pAddr sh (pB w) 4 i.1 i.2, pAddr sh (pDst w) 4 i.1 i.2))
    judge s (.press e) p []
      (pStep sh ++ (if sh.live then pRange e (pA w) (4 * sh.n0) sh.n1 sh.s1 ++ pRange e (pDst w) (4 * sh.n0) sh.n1 sh.s1
        ++ (if gate then pRange e (pB w) (4 * sh.n0) sh.n1 sh.s1 else []) else []))
      (pressWork s e p (pReads p (ins.flatMap (fun i => if gate then [i.1, i.2.1] else [i.1])))
        (ins.map (fun i =>
          let y := actF32 (bits w 45 4) (pVal p i.1).1
          (i.2.2, 4, (if gate then mulF32 y (pVal p i.2.1).1 else y).toNat, (pVal p i.1).2 || (gate && (pVal p i.2.1).2)))))))

/-- PROPE: each pair turned by the angle t × B[i], t signed; the element that a row of odd length leaves over takes a value that is not
stated (Table 9.5, log entry 38). -/
def execPrope (e : BitVec 4) (s : State) : Host.Outcome State Fault Refusal :=
  .next (issue s (.press e) 0x64 (fun w => bits w 49 4 == 0) (fun s p w =>
    let sh := shapeOf p (pSh w)
    let h := sh.n0 / 2
    let t := rget p (bits w 45 4)
    let freq (i : Nat) := 32 * pB w + 4 * i
    let pairs := (List.range sh.n1).flatMap (fun i1 => (List.range h).map (fun i => (i1, i)))
    let outs := pairs.flatMap (fun q =>
      let x := pVal p (pAddr sh (pA w) 4 q.1 q.2)
      let y := pVal p (pAddr sh (pA w) 4 q.1 (q.2 + h))
      let f := pVal p (freq q.2)
      let (c, si) := rotation t.val f.1
      let bad := x.2 || y.2 || f.2 || t.poison
      [(pAddr sh (pDst w) 4 q.1 q.2, 4, (subF32 (mulF32 x.1 c) (mulF32 y.1 si)).toNat, bad),
       (pAddr sh (pDst w) 4 q.1 (q.2 + h), 4, (addF32 (mulF32 x.1 si) (mulF32 y.1 c)).toNat, bad)])
    let rest := if sh.n0 % 2 = 1 then (List.range sh.n1).map (fun i1 =>
      (pAddr sh (pDst w) 4 i1 (sh.n0 - 1), 4, Config.unstated 0 (s.free + i1), false)) else []
    judge s (.press e) p []
      (pStep sh ++ (if sh.live then pRange e (pA w) (4 * sh.n0) sh.n1 sh.s1 ++ pRange e (pDst w) (4 * sh.n0) sh.n1 sh.s1
        ++ pRange e (pB w) (4 * h) 1 0 else []))
      (if !sh.live then stepOn s (.press e)
       else if t.poison && !propagates p then faultTask s (.press e) .dataUncorrectable 0 0 0
       else pressWork { s with free := s.free + rest.length } e p
         (pReads p (pairs.flatMap (fun q => [pAddr sh (pA w) 4 q.1 q.2, pAddr sh (pA w) 4 q.1 (q.2 + h), freq q.2]))) (outs ++ rest))))

/-! PMERGE (R195-R197, R200, R242). -/

/-- Addresses in a record at a unit with N1 queries of dimension N0, after its 64-byte header: m[j], l[j], o[j][d] (Table 7.5, log
entry 39). -/
def recM (u j : Nat) : Nat := 32 * u + 64 + 4 * j
/-- l[j]. -/
def recL (sh : Shape) (u j : Nat) : Nat := 32 * u + 64 + 4 * (sh.n1 + j)
/-- o[j][d]. -/
def recO (sh : Shape) (u j d : Nat) : Nat := 32 * u + 64 + 8 * sh.n1 + 4 * (sh.n0 * j + d)

/-- One query of a record: m, l and every o, with their poison. -/
structure Query where
  m : Word × Bool
  l : Word × Bool
  o : List (Word × Bool)
  deriving DecidableEq, Repr

/-- Query j of the record at a unit. -/
def readQuery (p : Proc) (sh : Shape) (u j : Nat) : Query :=
  { m := pVal p (recM u j), l := pVal p (recL sh u j), o := (List.range sh.n0).map (fun d => pVal p (recO sh u j d)) }

/-- Two queries merged (R197). -/
def mergeQuery (a b : Query) : Query :=
  let mc := maxF32 a.m.1 b.m.1
  let mp := a.m.2 || b.m.2
  if mc = 0xFF800000 then
    { m := (mc, mp), l := (0, mp || a.l.2 || b.l.2), o := (a.o.zip b.o).map (fun q => (0, mp || q.1.2 || q.2.2)) }
  else
    let al := exp2Diff a.m.1 mc
    let be := exp2Diff b.m.1 mc
    let mix (x y : Word) : Word := addF32 (mulF32 al x) (mulF32 be y)
    { m := (mc, mp), l := (mix a.l.1 b.l.1, mp || a.l.2 || b.l.2),
      o := (a.o.zip b.o).map (fun q => (mix q.1.1 q.2.1, mp || q.1.2 || q.2.2)) }

/-- A query normalised: o × 1 / l, or +0 where l is +0 (R197). -/
def finishQuery (q : Query) : Query :=
  if q.l.1 = 0 then { q with o := q.o.map (fun x => (0, x.2 || q.l.2)) }
  else
    let r := actF32 8 q.l.1
    { q with o := q.o.map (fun x => (mulF32 x.1 r, x.2 || q.l.2)) }

/-- Whether any value of a query is poisoned. -/
def Query.bad (q : Query) : Bool := q.m.2 || q.l.2 || q.o.any (·.2)

/-- A query as results to store at a unit. -/
def storeQuery (sh : Shape) (u j : Nat) (q : Query) : List (Nat × Nat × Nat × Bool) :=
  [(recM u j, 4, q.m.1.toNat, q.m.2), (recL sh u j, 4, q.l.1.toNat, q.l.2)]
    ++ q.o.zipIdx.map (fun x => (recO sh u j x.2, 4, x.1.1.toNat, x.1.2))

/-- PMERGE: A merged into DST, or copied to it with INIT, header included; with FINISH the result is then normalised; STATE is 2 after a
poisoned input, INIT's header words among them, and 1 after a FINISH in which every l is +0 (R197, R241, R242, log entry 39). A record whose
STATE is 2 keeps it then: R200 goes before R242, which is the model's reading (log entry 132). -/
def execPmerge (e : BitVec 4) (s : State) : Host.Outcome State Fault Refusal :=
  .next (issue s (.press e) 0x65 (fun w => bits w 47 6 == 0) (fun s p w =>
    let sh := shapeOf p (pSh w)
    let init := bit w 45
    let fin := bit w 46
    let size := 64 + 8 * sh.n1 + 4 * sh.n0 * sh.n1
    let js := List.range sh.n1
    let inA := js.map (readQuery p sh (pA w))
    let inD := js.map (readQuery p sh (pDst w))
    let merged := if init then inA else (inD.zip inA).map (fun q => mergeQuery q.1 q.2)
    let done := if fin then merged.map finishQuery else merged
    let head := (List.range 16).map (fun i => (32 * pA w + 4 * i, 32 * pDst w + 4 * i))
    let bad := inA.any Query.bad || (if init then head.any (fun h => (pVal p h.1).2) else inD.any Query.bad)
    let old := if init then 32 * pA w + 24 else 32 * pDst w + 24
    let state := if bad then [(32 * pDst w + 24, 1, 2, false)]
      else if fin && merged.all (fun q => q.l.1 == 0) && mget 0 p.mem old != 2 then [(32 * pDst w + 24, 1, 1, false)] else []
    let outs := (if init then head.map (fun h => (h.2, 4, (pVal p h.1).1.toNat, (pVal p h.1).2)) else [])
      ++ (js.zip done).flatMap (fun q => storeQuery sh (pDst w) q.1 q.2)
    let body (u : Nat) := (List.range (size / 4 - 16)).map (fun i => 32 * u + 64 + 4 * i)
    judge s (.press e) p []
      (pStep sh ++ (if sh.n1 != 0 then pRange e (pA w) size 1 0 ++ pRange e (pDst w) size 1 0 else []))
      (if sh.n1 = 0 then stepOn s (.press e)
       else pressWork s e p (pReads p ((if init then head.map (·.1) else []) ++ body (pA w) ++ (if init then [] else body (pDst w))))
         (outs ++ state))))

/-- Whether x ranks below y: NaN below everything else (R242). -/
def rankLt (x y : Word) : Bool :=
  if (ofF32 x).isNan then !(ofF32 y).isNan else if (ofF32 y).isNan then false else (ofF32 x).lt (ofF32 y)

/-- A value placed in a list that falls, before its equals. -/
def insertTop (x : Word × Bool × Nat) (l : List (Word × Bool × Nat)) : List (Word × Bool × Nat) :=
  match l with
  | [] => [x]
  | y :: t => if rankLt x.1 y.1 then y :: insertTop x t else x :: y :: t

/-- PTOPK: the k largest values, a NaN in its canonical form (R181), then their indices, equal values by lower index; entries beyond N0 are not stated (R242, log
entry 38). -/
def execPtopk (e : BitVec 4) (s : State) : Host.Outcome State Fault Refusal :=
  .next (issue s (.press e) 0x66 (fun w => bits w 51 2 == 0) (fun s p w =>
    let sh := shapeOf p (pSh w)
    let k := bits w 45 6 + 1
    let vals := (List.range sh.n0).map (fun i => (canonF32 (pVal p (32 * pA w + 4 * i)).1, (pVal p (32 * pA w + 4 * i)).2, i))
    let top := (vals.foldr insertTop []).take k
    let at_ (i : Nat) := 32 * pDst w + 4 * i
    let lack := k - top.length
    let outs := top.zipIdx.flatMap (fun q => [(at_ q.2, 4, q.1.1.toNat, q.1.2.1), (at_ (k + q.2), 4, q.1.2.2, q.1.2.1)])
      ++ (List.range lack).flatMap (fun i => [(at_ (top.length + i), 4, Config.unstated 1 (s.free + 2 * i), false),
           (at_ (k + top.length + i), 4, Config.unstated 1 (s.free + 2 * i + 1), false)])
    judge s (.press e) p []
      (failIf (sh.n0 != 0 && sh.s0 != 1) 0x04 0 ++ pRange e (pA w) (4 * sh.n0) 1 0 ++ pRange e (pDst w) (8 * k) 1 0)
      (match propagates p, firstBad (vals.map (fun v => (32 * pA w + 4 * v.2.2, v.2.1))) with
       | false, some a => faultTask s (.press e) .dataUncorrectable 0 (a / 32) 0
       | _, _ => pressWork { s with free := s.free + 2 * lack } e p [] outs)))

/-- Bytes of a block of 32 elements in a row (Table 8.1). -/
def blockBytes (f : Nat) : Nat := if isFp6 f then 32 else 4 * elemBits f

/-- A block quantised, as results: its words at an address, its scale byte in byte 24 for MXFP6 and at the scale address otherwise. -/
def quantOuts (f a sa : Nat) (vs : List (Word × Bool)) : List (Nat × Nat × Nat × Bool) :=
  let (x, els) := quantBlock f (vs.map (·.1))
  let bad := vs.any (·.2)
  let raw := els.zipIdx.foldl (fun n q => n + q.1 * 2 ^ (elemBits f * q.2)) 0 + (if isFp6 f then x * 2 ^ 192 else 0)
  (List.range (blockBytes f / 4)).map (fun k => (a + 4 * k, 4, raw / 2 ^ (32 * k) % 2 ^ 32, bad))
    ++ (if isFp6 f then [] else [(sa, 1, x, bad)])

/-- PQUANT: blocks of a row packed end to end at DST, rows S1 apart; scales at B, one byte a block in row order (R180, log entry 39). -/
def execPquant (e : BitVec 4) (s : State) : Host.Outcome State Fault Refusal :=
  .next (issue s (.press e) 0x67 (fun w => bits w 49 4 == 0) (fun s p w =>
    let sh := shapeOf p (pSh w)
    let f := bits w 45 4
    let nb := sh.n0 / 32
    let blocks := (List.range sh.n1).flatMap (fun i1 => (List.range nb).map (fun k => (i1, k)))
    let val (i1 k i : Nat) := pVal p (pAddr sh (pA w) 4 i1 (32 * k + i))
    judge s (.press e) p []
      (failIf (!isMx f) 0x03 0 ++ failIf (sh.n0 % 32 != 0) 0x04 0 ++ pStep sh
        ++ (if sh.live then pRange e (pA w) (4 * sh.n0) sh.n1 sh.s1 ++ pRange e (pDst w) (nb * blockBytes f) sh.n1 sh.s1
              ++ (if scaleArray f then pRange e (pB w) (nb * sh.n1) 1 0 else []) else []))
      (pressWork s e p (pReads p (sh.indices.map (fun i => pAddr sh (pA w) 4 i.1 i.2)))
        (blocks.flatMap (fun q => quantOuts f (pAddr sh (pDst w) (blockBytes f) q.1 q.2) (32 * pB w + q.1 * nb + q.2)
          ((List.range 32).map (val q.1 q.2)))))))

/-- Bytes of a row of n elements of a format in scratch. -/
def rowBytes (f n : Nat) : Nat := if isFp6 f then 32 * ceilDiv n 32 else (n * elemBits f + 7) / 8

/-- Element i of a row of a format at an address: its bits, and the bytes that hold it. -/
def rowElem (p : Proc) (f base i : Nat) : Nat × Nat × Nat :=
  let a := if isFp6 f then base + 32 * (i / 32) else base
  let lo := elemBits f * (if isFp6 f then i % 32 else i)
  let n := (lo + elemBits f - 1) / 8 - lo / 8 + 1
  (memNum p (a + lo / 8) n / 2 ^ (lo % 8) % 2 ^ elemBits f, a + lo / 8, n)

/-- The address of the scale byte of element i of row i1: byte 24 of its column, or one byte a block at B (log entry 39). -/
def scaleAddr (f base u nb i1 i : Nat) : Nat := if isFp6 f then base + 32 * (i / 32) + 24 else 32 * u + i1 * nb + i / 32

/-- PCVT (R188, R190). -/
def execPcvt (e : BitVec 4) (s : State) : Host.Outcome State Fault Refusal :=
  .next (issue s (.press e) 0x68 (fun _ => true) (fun s p w =>
    let sh := shapeOf p (pSh w)
    let fi := bits w 45 4
    let fo := bits w 49 4
    let z := fmtBytes fo
    let nb := ceilDiv sh.n0 32
    let one (i : Nat × Nat) : List (Nat × Bool) × (Nat × Nat × Nat × Bool) :=
      let base := pAddr sh (pA w) 0 i.1 0
      let (raw, a, n) := rowElem p fi base i.2
      let sa := scaleAddr fi base (pB w) nb i.1 i.2
      let bad := memBad p a n || (isMx fi && memBad p sa 1)
      let v := if isMx fi then encodeNum fo (decodeMx fi raw (mget 0 p.mem sa).toNat) else convertRaw fi fo raw
      ((a, memBad p a n) :: (if isMx fi then [(sa, memBad p sa 1)] else []), (pAddr sh (pDst w) z i.1 i.2, z, v, bad))
    let all := sh.indices.map one
    judge s (.press e) p []
      (failIf (!fmtOk fi || !plainFmt fo) 0x03 0 ++ pStep sh
        ++ (if sh.live then pRange e (pA w) (rowBytes fi sh.n0) sh.n1 sh.s1 ++ pRange e (pDst w) (sh.n0 * z) sh.n1 sh.s1
              ++ (if scaleArray fi then pRange e (pB w) (nb * sh.n1) 1 0 else []) else []))
      (pressWork s e p (all.flatMap (·.1)) (all.map (·.2)))))

/-! Windows (R233, R239). -/

/-- Bytes stored in scratch from a unit boundary on, each with its poison. -/
def storeUnits (p : Proc) (a : Nat) (bs : List (Byte × Bool)) : Proc :=
  { p with
    mem := bs.zipIdx.foldl (fun m c => mset 0 m (a + c.2) c.1.1) p.mem,
    memPoison := (List.range ((bs.length + 3) / 4)).foldl (fun m k =>
      mset false m (a / 4 + k) (((bs.drop (4 * k)).take 4).any (·.2))) p.memPoison }

/-- Bytes of scratch from a unit boundary on, each with its poison. -/
def loadUnits (p : Proc) (a n : Nat) : List (Byte × Bool) := (mgetAll 0 p.mem a n).zipIdx.map (fun c => (c.1, memBad p (a + c.2) 1))

/-- The reader of a press's running task. -/
def pressReader (s : State) (e : BitVec 4) : Reader :=
  { src := coreSrc (.press e), tag := some (coreTag s (.press e)), ten := some (coreTen s (.press e)) }

/-- n bytes of host memory as a press reads them. -/
def hostBytes (s : State) (n : Nat) : List (Byte × Bool) × State :=
  ((List.range n).map (fun i => (Config.hostByte (s.free + i), false)), { s with free := s.free + n })

/-- A PGET from a window at an offset and bank index. -/
def pget (s : State) (e : BitVec 4) (p : Proc) (win : Window) (o bi a n : Nat) : State :=
  let x := CoreId.press e
  let t := coreTen s x
  let give (s : State) (bs : List (Byte × Bool)) : State := meter (modProc s x (fun q => pnext (storeUnits q a bs))) t 6 n 0
  if win.host then
    let (bs, s) := hostBytes (emit s (.hostRead (win.start + o) n)) n
    give s bs
  else
    let ls := locateAll s (regionOf s win.region) false ((win.bank + bi : Nat) : Int) ((win.off + o : Nat) : Int) n
    match regionRead s (pressReader s e) win.region ((win.bank + bi : Nat) : Int) ((win.off + o : Nat) : Int) n with
    | (.error st, s) => faultTask s x st 0 o 0
    | (.ok bs, s) =>
      if bs.any (·.2) && !propagates p then faultTask s x .dataUncorrectable 0 o 0
      else give (engineSlots s false t ls) bs

/-- One bank of a PPUT. -/
def pputBank (s : State) (e : BitVec 4) (win : Window) (o : Nat) (bs : List (Byte × Bool)) (bi : Nat) : State :=
  let ls := locateAll s (regionOf s win.region) true ((win.bank + bi : Nat) : Int) ((win.off + o : Nat) : Int) bs.length
  let s := (regionWrite s (pressReader s e) win.region ((win.bank + bi : Nat) : Int) ((win.off + o : Nat) : Int) bs).2
  engineSlots s true (coreTen s (.press e)) ls

/-- A PPUT to the banks named: every byte is judged before one is written. A host window carries the poison of its bytes out (R241). -/
def pput (s : State) (e : BitVec 4) (p : Proc) (win : Window) (o a n : Nat) (banks : List Nat) : State :=
  let x := CoreId.press e
  let t := coreTen s x
  let bs := loadUnits p a n
  if bs.any (·.2) && !propagates p then faultTask s x .dataUncorrectable 0 (a / 32) 0
  else if win.host then
    let s := hostWriteIssue s t (.window e.toNat ((taskId s x).getD 0)) (win.start + o) (bs.map (·.1)) (bs.map (·.2))
    stepOn (meter (modPress s e.toNat (fun q => { q with hostPending := q.hostPending + 1 })) t 6 n 0) x
  else
    let bad := banks.findSome? (fun bi => locsStatus s
      (locateAll s (regionOf s win.region) true ((win.bank + bi : Nat) : Int) ((win.off + o : Nat) : Int) n))
    match bad with
    | some st => faultTask s x st 0 o 0
    | none => stepOn (meter (banks.foldl (fun s bi => pputBank s e win o bs bi) s) t 6 (n * banks.length) 0) x

/-- PGET and PPUT: the offset register counts bytes from the window's start (log entry 37); an access outside the window ends the task with
RANGE (R239). -/
def windowOp (s : State) (e : BitVec 4) (op : Nat) (put : Bool) : State :=
  issue s (.press e) op (fun w => (if put then bits w 47 6 == 0 else bits w 46 7 == 0) && bits w 8 7 == 0) (fun s p w =>
    let repl := put && bit w 46
    let n := 32 * pDst w
    let a := 32 * pA w
    let o := (rget p (bits w 0 4)).val.toNat
    let bi := (rget p (bits w 4 4)).val.toNat
    match p.task with
    | none => s
    | some t =>
      let win := windowOf t.raw (bits w 45 1)
      judge s (.press e) p (bits w 0 4 :: (if repl then [] else [bits w 4 4])) (pRange e (pA w) n 1 0)
        (if !win.used || decide (win.length < o + n) || (!repl && decide (win.banks ≤ bi)) then faultTask s (.press e) .range 0 o 0
         else if put then pput s e p win o a n (if repl then List.range win.banks else [bi])
         else pget s e p win o bi a n))

/-- PGET (R239). -/
def execPget (e : BitVec 4) (s : State) : Host.Outcome State Fault Refusal := .next (windowOp s e 0x70 false)
/-- PPUT (R239). -/
def execPput (e : BitVec 4) (s : State) : Host.Outcome State Fault Refusal := .next (windowOp s e 0x71 true)

/-! Channels (R240). -/

/-- The object KIND and INDEX of a press in the log (Tables 17.6, 18.7). -/
def pressObject (e : Nat) : List Byte := leBytes 1 (if e < 8 then 3 else 4) ++ leBytes 2 (if e < 8 then e else e - 8)

/-- The end of a core's task entered before an entry that bears its SOURCE (R426). -/
def settleSrc (s : State) (src : Nat) : State :=
  match src / 4096 with
  | 1 => settleEnd s (.unit (buid (src % 4096)))
  | 3 => settleEnd s (.press (eng (src % 4096)))
  | 4 => settleEnd s (.press (eng (src % 4096)))
  | _ => s

/-- A record dropped at a press channel (0x07_05). -/
def logDrop (s : State) (e src : Nat) (tag : Option (BitVec 16)) (ten : Option Nat) : State :=
  logAdd (settleSrc s src) 2 src 0x07 0x05 tag ten (pressObject e)

/-- Channel c of a press. -/
def chanOf (s : State) (e c : Nat) : Chan := mget Chan.empty (pressOf s e).chans c
/-- The state with a channel set. -/
def setChan (s : State) (e c : Nat) (k : Chan) : State := modPress s e (fun p => { p with chans := mset Chan.empty p.chans c k })

/-- Records of other members that are landing in channels of a press lose their slots: what is still to come of them is dropped. -/
def dropLanding (s : State) (e : Nat) (hit : Nat → Bool) : State :=
  s.net.peers.foldl (fun s q => match q.2.rx.gather with
    | some h =>
      if h.engine == e && h.landing && hit h.chan then
        logDrop (modPeer s q.1 (fun p => { p with rx := { RxMsg.idle with drop := true } })) e h.source (some h.tag) (some h.ten)
      else s
    | none => s) s

/-- PCHAN: records that still hold slots are discarded, each entered under the tag it carries (R240, R436). -/
def execPchan (e : BitVec 4) (s : State) : Host.Outcome State Fault Refusal :=
  .next (issue s (.press e) 0x72 (fun w => bits w 49 4 == 0) (fun s p w =>
    let c := bits w 45 4
    let k := chanOf s e.toNat c
    judge s (.press e) p [] (failIf (decide (coreMem (.press e) < 32 * (pDst w + pA w * pB w))) 0x05 (pDst w))
      (let s := k.landed.foldl (fun s r => logDrop s e.toNat r.source (some r.tag) (some r.ten)) s
       let s := dropLanding s e.toNat (fun x => x == c)
       stepOn (setChan s e.toNat c { k with configured := true, base := pDst w, size := pA w, count := pB w, landed := [], next := 0 })
         (.press e))))

/-- A PRECV completes: its register takes the slot of the oldest record (Table 9.5); with no record at all that is not stated. -/
def finishRecv (s : State) (e : BitVec 4) (r : Recv) : State :=
  let slot := match (chanOf s e.toNat r.chan).landed with
    | r :: _ => r.slot
    | [] => Config.unstated 2 s.free
  let s := modPress { s with free := s.free + 1 } e.toNat (fun p => { p with recv := none })
  modProc s (.press e) (fun q => pnext (rset q r.dst { val := BitVec.ofNat 32 slot, poison := false }))

/-- A waiting PRECV completes once its count has landed. -/
def recvCheck (s : State) (e : BitVec 4) : State :=
  match (pressOf s e.toNat).recv with
  | some r => if r.need ≤ (chanOf s e.toNat r.chan).landed.length then finishRecv s e r else s
  | none => s

/-- The lowest member whose loss a tenancy has not been cleared of. -/
def lostMember (s : State) (t : Nat) : Option Nat := (List.range 64).find? (fun m => bit (tenOf s t).netLost m)

/-- PRECV: it completes at once, waits, or on a manager that has lost a member ends the task (R240, R321). The bits of B and DST beside the
register numbers are ignored (the model's choice, log entry 37). -/
def execPrecv (e : BitVec 4) (s : State) : Host.Outcome State Fault Refusal :=
  .next (issue s (.press e) 0x73 (fun w => bits w 49 4 == 0) (fun s p w =>
    let c := bits w 45 4
    let r : Recv := { chan := c, need := (rget p (bits w 0 4)).val.toNat, dst := bits w 30 4, start := s.elapsed }
    judge s (.press e) p [bits w 0 4] (failIf (!(chanOf s e.toNat c).configured) 0x0E 0)
      (if r.need ≤ (chanOf s e.toNat c).landed.length then finishRecv s e r
       else match s.net.pod, lostMember s (coreTen s (.press e)) with
         | .managing, some m => faultTask s (.press e) .peerUnreachable 0 m 0
         | _, _ => modPress s e.toNat (fun q => { q with recv := some r }))))

/-- PFREE: freeing more slots than hold records is REASON 0x0E with the count; the bits of B beside the register number are ignored (R237, the
model's choices, log entry 37). -/
def execPfree (e : BitVec 4) (s : State) : Host.Outcome State Fault Refusal :=
  .next (issue s (.press e) 0x74 (fun w => bits w 49 4 == 0) (fun s p w =>
    let c := bits w 45 4
    let k := chanOf s e.toNat c
    let n := (rget p (bits w 0 4)).val.toNat
    judge s (.press e) p [bits w 0 4] (failIf (!k.configured) 0x0E 0 ++ failIf (k.configured && decide (k.landed.length < n)) 0x0E n)
      (stepOn (setChan s e.toNat c { k with landed := k.landed.drop n }) (.press e))))

/-! PSEND and landing (R237, R240, R347). -/

/-- A press waits at its PSEND until the record has landed, or its frames are acknowledged. -/
def holdSend (s : State) (e : BitVec 4) (w : Word64) : State :=
  modProc s (.press e) (fun q => { q with vec := some { word := w, beat := 0, total := 1 } })

/-- A press's PSEND is over. -/
def endSend (s : State) (e : BitVec 4) : State :=
  modProc s (.press e) (fun q => match q.vec with
    | some _ => pnext { q with vec := none }
    | none => q)

/-- The frames of a PARTIAL: pieces of the record with their offsets (Table 12.4). -/
def partialFrames (s : State) (e : BitVec 4) (m target chan : Nat) (bytes : List Byte) (poison : List Bool) : List TxFrame :=
  let n := bytes.length
  let k := max 1 (ceilDiv n (mtu s))
  (List.range k).map (fun i =>
    let off := i * mtu s
    { mkFrame 9 m (coreTen s (.press e)) (coreTag s (.press e)) (target + chan * 16 + off / 32 * 256 + n / 32 * 2 ^ 24)
        ((bytes.drop off).take (mtu s)) ((poison.drop (off / 4)).take (mtu s / 4)) with
      first := i == 0, last := i + 1 == k, press := (taskId s (.press e)).map (fun i => (e.toNat, i)) })

/-- PSEND: to a press engine's channel, or with NET to a pod member (R237, R311, Table 9.5). Without NET, B[9:4] is taken as reserved (the
model's choice, log entry 37). -/
def execPsend (e : BitVec 4) (s : State) : Host.Outcome State Fault Refusal :=
  .next (issue s (.press e) 0x75 (fun w => bits w 49 4 == 0 && bits w 10 5 == 0 && (bit w 3 || bits w 4 6 == 0)) (fun s p w =>
    let x := CoreId.press e
    let net := bit w 3
    let n := 32 * pDst w
    let a := 32 * pA w
    let t := coreTen s x
    let bs := loadUnits p a n
    let poison := (List.range (n / 4)).map (fun i => mget false p.memPoison (a / 4 + i))
    judge s x p [] (pRange e (pA w) n 1 0 ++ failIf (net && (decide (8 ≤ e.toNat) || s.variant == .rl512H)) 0x0E 0)
      (if net then
         let m := bits w 4 6
         if !reachable s m then faultTask s x .peerUnreachable 0 m 0
         else
           holdSend (meter ((partialFrames s e m (bits w 0 3) (bits w 45 4) (bs.map (·.1)) poison).foldl sendSeq s) t 6 n 0) e w
       else if poison.any id && !propagates p then faultTask s x .dataUncorrectable 0 (pA w) 0
       else
         let r : Record := { at_ := s.ck, task := taskId s x, source := coreSrc x, ten := t, tag := coreTag s x, bytes := bs.map (·.1), poison := poison }
         holdSend (meter (arrive s (bits w 0 3) (bits w 45 4) r) t 6 n 0) e w)))

/-- The sender of a record goes on, or its task ends, if the task that sent it still runs. -/
def releaseSender (s : State) (r : Record) (st : Status) : State :=
  let kind := r.source / 4096
  let id := r.source % 4096
  let x := if kind = 1 then CoreId.unit (buid id) else CoreId.press (eng id)
  let mine := r.task.isSome && taskId s x == r.task
  let s := if kind = 1 then modUnit s id (fun u => { u with port := none }) else s
  if kind = 1 ∨ kind = 3 ∨ kind = 4 then
    if mine = true then
      (if st = .ok then (if kind = 1 then s else endSend s (eng id))
       else if kind = 1 then faultOlder s id (unitOf s id).sendFrom 0x3C st 0 0
       else faultTask s x st 0 0 0)
    else s
  else s

/-- Whether a press's channel takes a record now. -/
def chanFree (s : State) (e c : Nat) : Bool := (chanOf s e c).configured && decide ((chanOf s e c).landed.length < (chanOf s e c).count)

/-- The scratch address of the slot that the next record of a channel lands in. -/
def Chan.nextAt (k : Chan) : Nat := 32 * (k.base + k.next * k.size)

/-- Whether a record of n bytes and its landing header are longer than a channel's slots. -/
def Chan.short (k : Chan) (n : Nat) : Bool := decide (32 * k.size < n + 32)

/-- A record too long for its slot dropped, entered and counted (R240). -/
def dropLong (s : State) (e : BitVec 4) (c source : Nat) (tag : BitVec 16) (ten : Nat) : State :=
  let k := chanOf s e.toNat c
  logDrop (setChan s e.toNat c { k with drops := min 255 (k.drops + 1) }) e.toNat source (some tag) (some ten)

/-- Bytes of a record go into the next slot, behind the place of its landing header. -/
def landBytes (s : State) (e : BitVec 4) (c at_ : Nat) (bs : List (Byte × Bool)) : State :=
  modProc s (.press e) (fun q => storeUnits q ((chanOf s e.toNat c).nextAt + 32 + at_) bs)

/-- A record of n bytes whose bytes are in the next slot has landed there: its landing header, its place among the landed records, and a PRECV
that waits for it (R240, Table 9.7). -/
def landHead (s : State) (e : BitVec 4) (c source : Nat) (tag : BitVec 16) (ten n : Nat) (bad : Bool) : State :=
  let k := chanOf s e.toNat c
  let head := leBytes 2 source ++ leBytes 2 tag.toNat ++ leBytes 2 (n / 32) ++ leBytes 1 (b2n bad) ++ leBytes 1 k.drops ++ leBytes 8 s.time
    ++ leBytes 16 0
  let s := modProc s (.press e) (fun q => storeUnits q k.nextAt (head.map (fun b => (b, false))))
  let s := setChan s e.toNat c
    { k with landed := k.landed ++ [{ slot := k.next, source := source, tag := tag, ten := ten }], next := (k.next + 1) % k.count, drops := 0 }
  let s := meter (traceEv s 0x0B ten source tag 0 0) ((mget none s.pressOwner e.toNat).getD ten) 6 n 0
  recvCheck s e

/-- A record lands whole in the next free slot of a channel, or is dropped because it is too long (R240). -/
def landRecordAt (s : State) (e : BitVec 4) (c : Nat) (r : Record) : State :=
  if (chanOf s e.toNat c).short r.bytes.length then dropLong s e c r.source r.tag r.ten
  else
    let body := r.bytes.zipIdx.map (fun b => (b.1, r.poison.getD (b.2 / 4) false))
    landHead (landBytes s e c 0 body) e c r.source r.tag r.ten r.bytes.length (r.poison.any id)

/-- Whether a PARTIAL record of another member holds a channel's next slot, or waits for it and comes before, by a test (R240). -/
def partialAhead (s : State) (e c : Nat) (before : Nat → PartialMsg → Bool) : Bool :=
  s.net.peers.any (fun q => match q.2.rx.gather with
    | some h => h.engine == e && h.chan == c && (h.landing || before q.1 h)
    | none => false)

/-- The first record at a press's input that may be dealt with: one of another tenancy, or the oldest of a channel with a free slot that no
PARTIAL record holds or came for before it; and the others. -/
def nextRecord (s : State) (e : Nat) (before : List (Nat × Record)) (l : List (Nat × Record)) :
    Option (Nat × Record × List (Nat × Record)) :=
  match l with
  | [] => none
  | (c, r) :: t =>
    let foreign := mget none s.pressOwner e != some r.ten
    if foreign || (chanFree s e c && before.all (fun b => b.1 != c) && !partialAhead s e c (fun _ h => decide (h.at_ < r.at_))) then some (c, r, before ++ t)
    else nextRecord s e (before ++ [(c, r)]) t

/-- RECORD_LAND (R240). -/
def execRecordLand (e : BitVec 4) (s : State) : Host.Outcome State Fault Refusal :=
  .next (match nextRecord s e.toNat [] (pressOf s e.toNat).input with
    | none => s
    | some (c, r, rest) =>
      let s := modPress s e.toNat (fun p => { p with input := rest })
      if mget none s.pressOwner e.toNat != some r.ten then
        releaseSender (logDrop s e.toNat r.source (some r.tag) (some r.ten)) r .notOwner
      else releaseSender (landRecordAt s e c r) r .ok)

/-- IN_LIMIT_EXPIRY: a PRECV still waiting when the cycle of its limit is over (R240, R434, Table 9.8). -/
def execInLimitExpiry (e : BitVec 4) (s : State) : Host.Outcome State Fault Refusal :=
  let p := pressOf s e.toNat
  .next (match p.recv, p.proc.task, p.proc.ended with
    | some r, some t, none => faultPast s (r.start + inLimit t.raw * Config.us) (.press e) .watchdog 0 r.need r.chan
    | _, _, _ => s)

end Sys2Proof.Machine
end

