-- ==== Sys2Proof/Machine/Sync.lean ====
section
/-! DEFINITION. The sync unit: flag operations at their homes, polls, the trellis and its watchdog, the view records (R244-R273). -/

namespace Sys2Proof.Machine

/-! Flag operations arriving (R246). -/

/-- FLAG_HOME_SET (R246, R247). -/
def execFlagHomeSet (flag : BitVec 16) (s : State) : Host.Outcome State Fault Refusal := .next (deliver s .set flag.toNat)
/-- FLAG_HOME_CLEAR (R246, R247). -/
def execFlagHomeClear (flag : BitVec 16) (s : State) : Host.Outcome State Fault Refusal := .next (deliver s .clear flag.toNat)
/-- FLAG_HOME_TESTCLR (R246). -/
def execFlagHomeTestclr (flag : BitVec 16) (s : State) : Host.Outcome State Fault Refusal := .next (deliver s .testClr flag.toNat)
/-- FLAG_HOME_TEST (R246). -/
def execFlagHomeTest (flag : BitVec 16) (s : State) : Host.Outcome State Fault Refusal := .next (deliver s .test flag.toNat)

/-! Polling (R254). -/

/-- KITE_POLL: 1024 cycles after the last poll a waiter without a kite polls again; a unit asks for a credit first. -/
def execKitePoll (x : CoreId) (s : State) : Host.Outcome State Fault Refusal :=
  .next (match (procOf s x).nap with
    | some n =>
      (match n.why, n.answer with
        | .poll _ _, none =>
          let s := advance s (n.lastPoll + 1024 - s.ck)
          (match x with
            | .unit b =>
              if ballastWaits s (.poll b.toNat) then s else ballastAsk s (.poll b.toNat)
            | .press _ => sendPoll s x)
        | _, _ => s)
    | none => s)

/-- POLL_ANSWER: a poll that found its flag set releases the waiter, which takes no further credit. -/
def execPollAnswer (x : CoreId) (s : State) : Host.Outcome State Fault Refusal :=
  .next (match (procOf s x).nap with
    | some n =>
      (match n.why, n.answer with
        | .poll _ _, some true =>
          (match x with
            | .unit b => resumeUnit s b.toNat
            | .press _ => modProc s x (fun p => pnext { p with nap := none }))
        | .poll _ _, some false => modProc s x (fun p => { p with nap := some { n with answer := none } })
        | _, _ => s)
    | none => s)

/-! The trellis (R259-R270). -/

/-- Participants of a barrier in stack k. -/
def partsIn (b : Barrier) (k : Nat) : List Nat := (b.parts.map (·.1)).filter (fun u => stackOf u == k)
/-- Units of stack k that have arrived in the vintage of its B-die. -/
def arrivedIn (b : Barrier) (k : Nat) : List Nat := (b.arrived.map (·.1)).filter (fun u => stackOf u == k)
/-- Units of stack k with an occupied early-arrival slot. -/
def earlyIn (b : Barrier) (k : Nat) : List Nat := (b.early.map (·.1)).filter (fun u => stackOf u == k)
/-- Stacks with a participant. -/
def barStacks (b : Barrier) : List Nat := (List.range 8).filter (fun k => !(partsIn b k).isEmpty)
/-- Whether stack k's counter has reached its expected count. -/
def dieDone (b : Barrier) (k : Nat) : Bool := (arrivedIn b k).length == (partsIn b k).length

/-- The manager's own module. -/
def isManager (s : State) : Bool := s.net.pod == .managing

/-- The first arrival counted in a vintage starts the watchdog, which the release before it has restarted too (R268; both words taken as they
stand, log entry 60). -/
def noteFirst (s : State) (b : Barrier) : Barrier :=
  if b.firstTime.isSome then b else { b with firstTime := some s.time, firstArr := some s.elapsed }

/-- Units napping in a barrier, or whose task ended there in the present cycle. -/
def nappersOf (s : State) (n : Nat) : List Nat :=
  ((barOf s n).parts.map (·.1)).filter (fun u => waitsOn s (.unit (buid u)) == some (.barrier n))

/-- A unit's nap in a barrier ends with a status: a cancellation comes before an end of its own of the same cycle (R174, R285). -/
def endNapper (s : State) (u : Nat) (st : Status) (n : Nat) : State :=
  if st = .cancelledBySwitch then cancelWait s (.unit (buid u)) n else faultTask s (.unit (buid u)) st 0 n 0

/-- A barrier broken with a cause, each napper ended by a function; RELEASE_FLAG is not set; its watchdog's expiry discards the arrivals in
flight, and those of any other break are judged against the broken barrier (R268, R270). -/
def breakWith (s : State) (n cause : Nat) (st : Status) (go : State → Nat → State) : State :=
  let naps := nappersOf s n
  let s := setBar s n { barOf s n with st := .broken, cause := cause, stackUp := [], down := [], firstArr := none }
  let s := if st = .watchdog then { s with sync := { s.sync with arrivals := s.sync.arrivals.filter (fun a => a.bar != n) } } else s
  naps.foldl go s

/-- A barrier broken with a cause: its nappers end with a status. -/
def breakBarrier (s : State) (n cause : Nat) (st : Status) : State := breakWith s n cause st (fun s u => endNapper s u st n)

/-- A barrier with all of its state discarded: its nappers end with a status (R261). Their ends are what is entered in the log: Table 17.6 has no
number for the discarded arrivals of a barrier without nappers, and nothing is entered for them (DESIGN CHOICE, log entry 136). -/
def discardBarrier (s : State) (n : Nat) (st : Status) : State :=
  let naps := nappersOf s n
  naps.foldl (fun s u => endNapper s u st n) (setBar s n Barrier.empty)

/-- PARAM of ARRIVE and RELEASE (Table 12.4). -/
def barParam (n : Nat) (vintage broken : Bool) : Nat := n + b2n vintage * 2 ^ 10 + b2n broken * 2 ^ 11

/-- RELEASE sent to every member that a barrier names but this one (R327). -/
def sendReleases (s : State) (n : Nat) (b : Barrier) (broken : Bool) : State :=
  (List.range 64).foldl (fun s m =>
    if bit b.members m && m != selfMember s then sendSeq s (mkFrame 8 m b.ten b.tag (barParam n b.vintage broken) [] []) else s) s

/-- The top releases the vintage: the vintage flips, the watchdog restarts, RELEASE_FLAG is set and the release starts down the tree
(R263). -/
def releaseTop (s : State) (n : Nat) : State :=
  let b := barOf s n
  let s := if b.members ≠ 0 ∧ isManager s = true then sendReleases s n b false else s
  let s := setBar s n { b with vintage := !b.vintage, firstArr := some s.elapsed, firstTime := none, stackUp := [], mdCount := [],
                               podSent := false, podCount := 0, releases := satAdd (2 ^ 32 - 1) b.releases 1,
                               down := barStacks b }
  let s := traceEv s 0x0A b.ten (srcNum 7 n) b.tag n 0
  if ownsFlag s b.ten b.flag then signalFlag s b.flag b.ten b.tag { kind := 7, id := n }
  else logUnowned s (srcNum 7 n) (some b.tag) b.ten b.flag

/-- A member's arrival counted at the manager; the last releases (R327). -/
def podCounted (s : State) (n m : Nat) : State :=
  let b := noteFirst s (barOf s n)
  let b := { b with podCount := b.podCount ||| (1#64 <<< m) }
  let s := setBar s n b
  if b.podCount = b.members then releaseTop s n else s

/-- This module's top local counter has completed: of a local barrier it releases; of a pod barrier its arrival goes to the manager. -/
def localDone (s : State) (n : Nat) : State :=
  let b := barOf s n
  if b.members = 0 then releaseTop s n
  else
    let s := setBar s n { b with podSent := true }
    if isManager s then (if bit b.members (selfMember s) then podCounted s n (selfMember s) else s)
    else sendSeq s (mkFrame 7 0 b.ten b.tag (barParam n b.vintage false) (leBytes 8 b.members.toNat) [])

/-- Stack k's counter has completed: it sends its arrival up, or is the top (R262). -/
def dieComplete (s : State) (n k : Nat) : State :=
  let b := barOf s n
  if (barStacks b).length ≤ 1 then localDone s n else setBar s n { b with stackUp := b.stackUp ++ [k] }

/-- A unit's arrival counted at its B-die. -/
def countArrival (s : State) (n u : Nat) : State :=
  let b := noteFirst s (barOf s n)
  let b := { b with arrived := mset false b.arrived u true }
  let s := setBar s n b
  if dieDone b (stackOf u) then dieComplete s n (stackOf u) else s

/-- A release at a B-die: participants napping in the released vintage wake, the count is reset, and each early arrival becomes an arrival
of the next vintage (R263). -/
def releaseDie (s : State) (n k : Nat) : State :=
  let b := barOf s n
  let naps := (nappersOf s n).filter (fun u => stackOf u == k && mget false b.arrived u && !mget false b.early u
    && !s.sync.arrivals.any (fun a => a.bar == n && a.unit == u))
  let s := setBar s n { b with down := b.down.erase k, arrived := b.arrived.filter (fun e => stackOf e.1 != k),
                               early := b.early.filter (fun e => stackOf e.1 != k) }
  let s := naps.foldl (fun s u => wakeCore s (.unit (buid u))) s
  (earlyIn b k).foldl (fun s u => countArrival s n u) s

/-- The oldest arrival of a unit at a barrier taken out of those in flight, with the BARR it comes from. -/
def takeArrival (s : State) (n u : Nat) : Option (Origin × State) :=
  match takeFirst (fun a : Arrival => a.bar == n && a.unit == u) s.sync.arrivals with
  | (some a, rest) => some (a.from_, { s with sync := { s.sync with arrivals := rest } })
  | (none, _) => none

/-- BARRIER_ARRIVAL: the arrival is judged against the state of the unit's B-die: it counts, is early, or ends the task (R264, R265,
R270). -/
def execBarrierArrival (bar : BitVec 10) (b : BitVec 12) (s : State) : Host.Outcome State Fault Refusal :=
  let n := bar.toNat
  let u := b.toNat
  .next (match takeArrival s n u with
    | none => s
    | some (o, s) =>
      let k := barOf s n
      if !participates s n u then faultOlder s u o 0x3B .buFault 0x0E n
      else if k.st == .broken then faultOlder s u o 0x3B .watchdog 0 n
      else if !mget false k.arrived u then countArrival s n u
      else if !mget false k.early u then setBar s n { k with early := mset false k.early u true }
      else faultOlder s u o 0x3B .barrierOverrun 0 n)

/-- TRELLIS_LEVEL_ARRIVAL: a completed stack counts at the M-die (R262). -/
def execTrellisLevelArrival (bar : BitVec 10) (stack : BitVec 3) (s : State) : Host.Outcome State Fault Refusal :=
  let n := bar.toNat
  let b := barOf s n
  .next (if b.st == .active && b.stackUp.contains stack.toNat then
    let b := { b with stackUp := b.stackUp.erase stack.toNat, mdCount := b.mdCount ++ [stack.toNat] }
    let s := setBar s n b
    if b.mdCount.length = (barStacks b).length then localDone s n else s
  else s)

/-- BARRIER_RELEASE_DOWN: the release reaches a B-die (R263). -/
def execBarrierReleaseDown (bar : BitVec 10) (stack : BitVec 3) (s : State) : Host.Outcome State Fault Refusal :=
  .next (if (barOf s bar.toNat).down.contains stack.toNat then releaseDie s bar.toNat stack.toNat else s)

/-- The payload of a trellis fault record (Table 10.4). -/
def trellisPayload (n level stack : Nat) (vintage : Bool) (missing who : Nat) : List Byte :=
  leBytes 2 (srcNum 7 n) ++ leBytes 1 level ++ leBytes 1 stack ++ leBytes 1 (b2n vintage) ++ [0] ++ leBytes 2 missing ++ leBytes 8 who

/-- A trellis fault record and its entry, with the DETAIL that R423 gives SOURCE kind 0x7. -/
def trellisFault (s : State) (n : Nat) (b : Barrier) (level stack missing who : Nat) : State :=
  let s := faultRecord s b.ten b.tag .watchdog (trellisPayload n level stack b.vintage missing who)
  logAdd s 3 (srcNum 7 n) 0x00 Status.watchdog.code (some b.tag) (some b.ten)
    (leBytes 1 level ++ leBytes 1 (stack + 128 * b2n b.vintage) ++ leBytes 2 missing ++ leBytes 8 who)

/-- The fault record of a stack whose counter had not completed (R269). -/
def stackFault (s : State) (n : Nat) (b : Barrier) (k : Nat) : State :=
  if dieDone b k then s
  else
    let miss := (partsIn b k).filter (fun u => !mget false b.arrived u)
    trellisFault s n b 0 k miss.length (miss.headD 0 + (miss.getLastD 0) * 2 ^ 16)

/-- The members that have not completed. -/
def missingMembers (b : Barrier) : BitVec 64 := b.members &&& ~~~b.podCount

/-- The barrier's watchdog fires at its top as the cycle of its limit is over; the nappers' ends are of that cycle, at its module time (R174,
R268, R269, R327). -/
def watchdogFires (s : State) (n time : Nat) : State :=
  let b := barOf s n
  let s := breakWith s n 1 .watchdog (fun s u => faultAt s (.unit (buid u)) .watchdog 0 n 0 (s.ck - 1) time)
  let s := (barStacks b).foldl (fun s k => stackFault s n b k) s
  if b.members = 0 then s
  else
    let miss := missingMembers b
    let s := if miss = 0 then s
      else trellisFault s n b 1 0 ((List.range 64).filter (fun m => bit miss m)).length miss.toNat
    sendReleases s n b true

/-- SYNC_WATCHDOG_EXPIRY: a release within the cycle of the limit comes before it (R268, R434). -/
def execSyncWatchdogExpiry (bar : BitVec 10) (s : State) : Host.Outcome State Fault Refusal :=
  let n := bar.toNat
  let b := barOf s n
  .next (match b.firstArr with
    | some t0 =>
      let due := t0 + Config.us * b.limit
      if b.st == .active && (b.members == 0 || isManager s) then watchdogFires (pastDue s due) n (advanceTo s due).time else s
    | none => s)

/-! Barrier initialisation (R260, R261). -/

/-- Units that a BARRIER_INIT names: those of its groups in the available-unit mask. -/
def initUnits (s : State) (groups : List Nat) : List Nat :=
  groups.flatMap (fun g => ((List.range 16).map (fun i => 16 * g + i)).filter (available s))

/-- A barrier started afresh at vintage 0. -/
def initBarrier (s : State) (n ten flag limit : Nat) (tag : BitVec 16) (groups : List Nat) (members : BitVec 64) : State :=
  let s := discardBarrier s n .aborted
  setBar s n { Barrier.empty with
    st := .active, flag := flag, ten := ten, limit := if limit = 0 then 100000 else limit, tag := tag, members := members,
    parts := (initUnits s groups).foldl (fun m u => mset false m u true) [] }

/-! View records (R273). -/

/-- A waiter as an entry of a flag view. -/
def watchEntry (w : Watch) : Nat :=
  (match w.holder with | .host k => srcNum 6 k | _ => srcNum w.who.kind w.who.id) + b2n w.clr * 2 ^ 16 + b2n w.kite.isSome * 2 ^ 17
    + b2n (match w.holder with | .desc _ => true | _ => false) * 2 ^ 18

/-- The view record of a flag (Table 10.5). -/
def flagView (s : State) (f : Nat) : List Byte :=
  let ws := s.sync.watches.filter (fun w => w.flag == f)
  let l := mget LastOp.none s.sync.last f
  leBytes 2 f ++ leBytes 1 (b2n (flagOf s f)) ++ leBytes 1 (flagHome s f) ++ leBytes 2 (min 0xFFFF ws.length)
    ++ leBytes 2 (ws.filter (fun w => w.kite.isSome)).length ++ leBytes 2 (srcNum l.who.kind l.who.id) ++ leBytes 1 l.op ++ [0]
    ++ leBytes 2 l.tag.toNat ++ leBytes 2 0 ++ leBytes 8 l.time
    ++ padTo 32 ((ws.take 8).flatMap (fun w => leBytes 4 (watchEntry w))) ++ leBytes 8 0

/-- The code of a barrier's state. -/
def BarState.code : BarState → Nat
  | .uninit => 0 | .active => 1 | .broken => 2

/-- The word of stack k in a barrier view. -/
def stackWord (b : Barrier) (k : Nat) : Nat :=
  (partsIn b k).length + (arrivedIn b k).length * 2 ^ 10 + (earlyIn b k).length * 2 ^ 20
    + b2n (dieDone b k && !(partsIn b k).isEmpty) * 2 ^ 30

/-- The view record of a barrier (Table 10.6). -/
def barrierView (s : State) (n : Nat) : List Byte :=
  let b := barOf s n
  leBytes 2 n ++ leBytes 1 (b.st.code + 4 * b2n b.vintage + 8 * b2n (b.members != 0) + 16 * b.cause)
    ++ leBytes 1 ((mget none s.barOwner n).getD 0) ++ leBytes 2 b.flag ++ leBytes 2 0 ++ leBytes 4 b.limit ++ leBytes 4 b.releases
    ++ leBytes 8 (b.firstTime.getD 0) ++ (List.range 8).flatMap (fun k => leBytes 4 (stackWord b k))
    ++ leBytes 1 (barStacks b).length ++ leBytes 1 b.mdCount.length ++ leBytes 1 (b2n b.podSent)
    ++ leBytes 5 0

/-- A 512-bit map of the units of stack k. -/
def unitMap (m : SMap Bool) (k : Nat) : List Byte :=
  leBytes 64 ((List.range 512).foldl (fun n i => if mget false m (512 * k + i) then n + 2 ^ i else n) 0)

/-- The per-unit view of a barrier: ARRIVED and EARLY of each stack (R273). -/
def barrierMaps (s : State) (n : Nat) : List Byte :=
  (List.range 8).flatMap (fun k => unitMap (barOf s n).arrived k ++ unitMap (barOf s n).early k)

/-- The holder of a kite (Table 10.8). -/
def kiteHolder (k : Nat) (x : Kite) : Nat := if x.who.kind = 6 then srcNum 6 k else srcNum x.who.kind x.who.id

/-- The view record of a kite (Table 10.7). -/
def kiteView (s : State) (k : Nat) : List Byte :=
  match kiteOf s k with
  | none => leBytes 2 k ++ leBytes 30 0
  | some x =>
    leBytes 2 k ++ leBytes 1 1 ++ leBytes 1 x.owner ++ leBytes 2 x.flag ++ leBytes 1 (b2n x.onClear + 2 * b2n x.clr)
      ++ leBytes 1 x.notify.toNat ++ leBytes 2 (kiteHolder k x) ++ leBytes 2 x.tag.toNat ++ leBytes 4 x.cookie.toNat
      ++ leBytes 8 x.armed ++ leBytes 8 0

end Sys2Proof.Machine
end

