-- ==== Sys2Proof/Machine/Pod.lean ====
section
/-! DEFINITION. Pods: NET_SEND, the loss of a peer, membership, reliability, frames received, pod time (R298-R334). -/

namespace Sys2Proof.Machine

/-! The log of the pod (class 0x02 of Table 17.6). -/

/-- An entry of class 0x02. -/
def logPod (s : State) (level num src : Nat) (tag : Option (BitVec 16)) (ten : Option Nat) (m type hflags reason seq incarn : Nat) : State :=
  logAdd s level src 0x02 num tag ten
    (leBytes 1 m ++ leBytes 1 type ++ leBytes 1 hflags ++ leBytes 1 reason ++ leBytes 4 seq ++ leBytes 4 incarn)

/-- An event of a member entered: levels 3 for 0x30 and 0x31, else 2. -/
def logMember (s : State) (num m : Nat) : State :=
  logPod s (if num = 0x30 ∨ num = 0x31 then 3 else 2) num (srcNum 5 m) none none m 0 0 0 0 (peerOf s m).incarn.toNat

/-- HFLAGS of a received frame (Table 12.3). -/
def Frame.hflags (f : Frame) : Nat :=
  b2n f.ackV + 2 * b2n f.first + 4 * b2n f.last + 8 * b2n f.reply + 16 * b2n f.poison + 32 * b2n f.retx

/-- An entry about a received frame. -/
def logFrame (s : State) (num src m reason : Nat) (f : Frame) : State :=
  logPod s 2 num src (some f.tag) (some f.tenancy.toNat) m f.type (Frame.hflags f) reason f.seq.toNat f.incarnation.toNat

/-! NET_SEND (R322, R323). -/

/-- The end of a NET_SEND at run time: its records, and its completion with the count of poisoned words. -/
def endSendJob (s : State) (j : SendJob) (st : Status) : State :=
  let s := { s with net := { s.net with sends := s.net.sends.filter (fun k => k.id != j.id) } }
  match activeOf s j.id with
  | none => s
  | some a =>
    let info := if st = .peerUnreachable then j.peer else 0
    let s := reportEnd s a.ten (dTag a.raw) st (genericPayload (srcNum 8 2) (dOp a.raw) (srcId a.src) info (a.started.getD 0)) st.faults
    finishPart s j.id .net st (min (2 ^ 32 - 1) j.poisoned)

/-- Frames of a NET_SEND that have not been sent are given up. -/
def dropFrames (s : State) (m : Nat) (gone : TxFrame → Bool) : State :=
  modPeer s m (fun p => { p with backlog := p.backlog.filter (fun f => !gone f) })

/-- Whether a poison mark lies on word k of bytes. -/
def wordMarks (bs : List (Byte × Bool)) : List Bool := (List.range ((bs.length + 3) / 4)).map (fun k => ((bs.drop (4 * k)).take 4).any (·.2))

/-- PARAM of a WRITE: region, column, bank (Table 12.4). -/
def writeParam (region col bank : Nat) : Nat := region % 64 + col % 2 ^ 34 * 2 ^ 8 + bank % 2 ^ 12 * 2 ^ 42

/-- The WRITE frames of a message: pieces of the data, each with the address of its own first byte. -/
def writeFrames (s : State) (m ten : Nat) (tag : BitVec 16) (region : Nat) (col bank : Nat) (bs : List (Byte × Bool)) (reply : Bool)
    (send : Option Nat) : List TxFrame :=
  let marks := wordMarks bs
  let k := ceilDiv bs.length (mtu s)
  (List.range k).map (fun i =>
    let off := i * mtu s
    { mkFrame 4 m ten tag (writeParam region (col + off / 32) bank) (((bs.drop off).take (mtu s)).map (·.1))
        ((marks.drop (off / 4)).take (mtu s / 4)) with
      first := i == 0, last := i + 1 == k, reply := reply, send := send })

/-- The reader of a NET_SEND. -/
def netReader (a : Active) : Reader := { src := srcNum 8 2, tag := some (dTag a.raw), ten := some a.ten }

/-- The network engine starts the descriptor at its head. -/
def startNet (s : State) (a : Active) : State :=
  let d := a.raw
  let m := bits d 64 6
  let s := { s with netDQ := s.netDQ.tail }
  let s := modActive s a.id (fun x => { x with started := some s.time })
  let s := traceEv s 0x03 a.ten (srcNum 8 2) (dTag d) 0 0
  let j : SendJob := { id := a.id, peer := m, read := bit d 72, poisoned := 0, done := none }
  if !reachable s m || s.net.leaving.isSome then endSendJob s j .peerUnreachable
  else if j.read then
    let s := { s with net := { s.net with sends := s.net.sends ++ [j] } }
    let body := leBytes 18 (dfield d 14 18) ++ leBytes 14 0
    sendSeq s { mkFrame 5 m a.ten (dTag d) 0 body [] with send := some a.id }
  else
    let p := placeOf (dfield d 16 6)
    let n := dfield d 28 4
    let ls := locateAll s (regionOf s (bits d 112 6)) false p.bank p.off n
    match regionRead s (netReader a) (bits d 112 6) p.bank p.off n with
    | (.error st, s) => endSendJob s j st
    | (.ok bs, s) =>
      let s := engineSlots s false a.ten ls
      let s := { s with net := { s.net with sends := s.net.sends ++ [{ j with poisoned := ((wordMarks bs).filter id).length }] } }
      let fs := writeFrames s m a.ten (dTag d) (bits d 120 6) (dfield d 22 6 % 2 ^ 34) (dfield d 22 6 / 2 ^ 34) bs false (some a.id)
      let s := fs.foldl sendSeq s
      if bit d 80 then
        sendSeq s { mkFrame 6 m a.ten (dTag d) (flagParam (dfield d 12 2) 1 false 0xFFFF) [] [] with send := some a.id }
      else s

/-- The network engine's oldest NET_SEND that is over completes. -/
def completeSend (s : State) : State :=
  match s.net.sends.find? (fun j => j.done.isSome) with
  | some j => endSendJob s j (j.done.getD .ok)
  | none => s

/-! The loss of a peer (R320, R321). -/

/-- The members of the pod but this one. -/
def members (s : State) : List Nat := (List.range 64).filter (fun m => (peerOf s m).member)

/-- Every NET_SEND for a member ends with PEER_UNREACHABLE, and every press that sends to it. -/
def endSends (s : State) (m : Nat) : State :=
  let s := (s.net.sends.filter (fun j => j.peer == m && j.done.isNone)).foldl (fun s j => endSendJob s j .peerUnreachable) s
  let s := s.netDQ.foldl (fun s i => match activeOf s i with
    | some a => if bits a.raw 64 6 = m then endDesc s i .peerUnreachable .net m 0 else s
    | none => s) s
  let p := peerOf s m
  ((p.unacked ++ p.backlog).filterMap (·.press)).dedup.foldl (fun s q =>
    if taskId s (.press (eng q.1)) = some q.2 then faultTask s (.press (eng q.1)) .peerUnreachable 0 m 0 else s) s

/-- Steps 1 to 3 of R320. -/
def loseCore (s : State) (m : Nat) : State :=
  let s := endSends s m
  let p := peerOf s m
  let s := setPeer s m { Peer.unknown with quarantined := p.quarantined, logsat := p.logsat, logsatCk := p.logsatCk, violations := p.violations,
                                           vStart := p.vStart, logged := p.logged, incarn := p.incarn, oldIncarn := p.oldIncarn }
  (List.range 1024).foldl (fun s n =>
    if (barOf s n).st == .active && bit (barOf s n).members m then breakBarrier s n 1 .peerUnreachable else s) s

/-- A waiting entity of a flag at the manager ends with PEER_UNREACHABLE; a host kite stays armed (R255, R320). -/
def endRemote (s : State) (r : RemoteWait) : State :=
  match r.reply with
  | .none => s
  | .core x => faultTask s x .peerUnreachable 0 r.flag 0
  | .host _ => s
  | .desc i => if r.watch then dropParts s i .peerUnreachable 0 else endDesc s i .peerUnreachable .sync 0 0

/-- A core that polls a flag at the manager ends with PEER_UNREACHABLE. -/
def endPoller (s : State) (x : CoreId) : State :=
  match (procOf s x).nap with
  | some n => (match n.why with
    | .poll f _ => if flagHome s f = 9 then faultTask s x .peerUnreachable 0 f 0 else s
    | _ => s)
  | none => s

/-- Every core with a record in the state. -/
def liveCores (s : State) : List CoreId :=
  s.units.map (fun e => .unit (buid e.1)) ++ s.presses.map (fun e => .press (eng e.1))

/-- Step 4 of R320: every wait and operation at the manager ends. -/
def loseManager (s : State) : State :=
  let p := peerOf s 0
  let ops := (p.unacked ++ p.backlog).filter (fun f => f.type == 6 && decide (f.param / 2 ^ 16 % 16 ≤ 4))
  let s := ops.foldl (fun s f => logPod s 3 0x30 (srcNum 5 0) (some f.tag) (some f.ten) 0 6 0 0 f.seq 0) s
  let rs := s.net.remote
  let s := rs.foldl endRemote { s with net := { s.net with remote := [] } }
  (liveCores s).foldl endPoller s

/-- The membership payload (Table 12.6, log entry 19). -/
def memberPayload (s : State) : List Byte :=
  Config.membershipBytes ((selfMember s, s.net.incarn) :: (members s).map (fun m => (m, (peerOf s m).incarn)))

/-- A JOIN frame to member m (Table 12.4). -/
def sendJoin (s : State) (m op subject : Nat) (joined : Bool) (payload : List Byte) : State :=
  sendUnseq s (mkFrame 2 m 0 0 (op + subject * 2 ^ 8 + b2n joined * 2 ^ 16) payload [])

/-- ANNOUNCE of member m to every other member. -/
def announce (s : State) (m : Nat) (joined : Bool) : State :=
  (members s).foldl (fun s k => if k = m then s else sendJoin s k 4 m joined (memberPayload s)) s

/-- A tenancy's bit for a lost member is set, and its PRECVs that wait end (R321). -/
def markLost (s : State) (m t : Nat) : State :=
  let s := modTen s t (fun x => { x with netLost := x.netLost ||| (1#64 <<< m) })
  (List.range 16).foldl (fun s e =>
    if (pressOf s e).recv.isSome && coreTen s (.press (eng e)) == t then faultTask s (.press (eng e)) .peerUnreachable 0 m 0 else s) s

/-- Step 5 of R320 but for its announcement: watches held for the member freed, NET_LOST set. -/
def managerLoses (s : State) (m : Nat) (tens : List Nat) : State :=
  let mine := s.sync.watches.filter (fun w => match w.holder with | .member k _ => k == m | _ => false)
  let s := mine.foldl (fun s w => match w.kite with | some k => freeKite s k | none => s)
    { s with sync := { s.sync with watches := s.sync.watches.filter (fun w => match w.holder with | .member k _ => k != m | _ => true) } }
  tens.foldl (fun s t => markLost s m t) s

/-- The tenancies that have exchanged sequenced frames with a member since it joined. -/
def peerTens (s : State) (m : Nat) : List Nat := (peerOf s m).tens.map (·.1)

/-- This module leaves the pod: work with every member ends and it is ALONE. A manager treats every worker by R320, entered for each, step 5
included; its LEAVE has told them. -/
def enterAlone (s : State) : State :=
  let s := match s.net.pod with
    | .member => (members s).foldl loseCore (loseManager s)
    | .managing => (members s).foldl (fun s m => managerLoses (loseCore (logMember s 0x33 m) m) m (peerTens s m)) s
    | _ => s
  { s with net := { s.net with pod := .alone, leaving := none, aligned := false } }

/-- A member is unreachable, has left or is quarantined (R320), entered in the log as num. -/
def losePeer (s : State) (m num : Nat) : State :=
  let tens := peerTens s m
  let s := logMember s num m
  match s.net.pod with
  | .member => if m = 0 then enterAlone s else loseCore s m
  | .managing => announce (managerLoses (loseCore s m) m tens) m false
  | _ => loseCore s m

/-! Violations, NAKs and acknowledgements (R312, R313, R333, R334). -/

/-- A worker sends LEAVE to the manager and is ALONE (R304). -/
def leavePod (s : State) : State := enterAlone (logMember (sendJoin s 0 5 0 false []) 0x33 (selfMember s))

/-- Member m is quarantined; a worker that would quarantine the manager leaves instead (R334). -/
def quarantine (s : State) (m : Nat) : State :=
  if s.net.pod = .member ∧ m = 0 then leavePod s
  else
    let s := losePeer (modPeer s m (fun p => { p with quarantined := true })) m 0x31
    if s.net.pod = .member then sendJoin s 0 7 m false [] else s

/-- A violation counted; the sixty-fourth within 1 s quarantines (R334). -/
def violation (s : State) (m : Nat) : State :=
  let p := peerOf s m
  let old := match p.vStart with | some t => decide (t + 1000 * Config.ms ≤ s.elapsed) | none => true
  let n := if old then 1 else p.violations + 1
  let s := setPeer s m { p with violations := n, vStart := if old then some s.elapsed else p.vStart }
  if n = 64 then quarantine s m else s

/-- A refusal of a peer's frame entered, at most 64 in any 1 s; the next raises LOGSAT (R333). -/
def logRefusal (s : State) (m reason : Nat) (f : Frame) : State :=
  let p := peerOf s m
  let recent := p.logged.filter (fun t => decide (s.elapsed < t + 1000 * Config.ms))
  if recent.length < 64 then
    logFrame (setPeer s m { p with logged := recent ++ [s.elapsed] }) reason (srcNum 5 m) m reason f
  else if p.logsat then setPeer s m { p with logsatCk := some s.ck }
  else logMember (setPeer s m { p with logsat := true, logsatCk := some s.ck }) 0x34 m

/-- Whether a refusal counts as a violation (Table 12.9). -/
def nakViolates (reason : Nat) : Bool := !(reason == 8 || reason == 9 || reason == 0xB || reason == 0xC)

/-- A NAK sent and the refusal entered (R333, Table 12.9). -/
def sendNak (s : State) (m reason : Nat) (f : Frame) : State :=
  logRefusal (sendUnseq s (mkFrame 0xB m f.tenancy.toNat f.tag (f.seq.toNat + 2 ^ 32 * reason) [] [])) m reason f

/-- A frame refused with a NAK that takes no turn of the pair's stream (R333, Table 12.9). -/
def nak (s : State) (m reason : Nat) (f : Frame) : State :=
  let s := sendNak s m reason f
  if nakViolates reason then violation s m else s

/-- A cumulative acknowledgement sent. -/
def sendAck (s : State) (m : Nat) : State := sendUnseq s (mkFrame 0xA m 0 0 0 [] [])

/-- The next frame of a peer has taken effect: an acknowledgement is due after 16 of them, or 2 µs after the oldest (R313). -/
def processed (s : State) (m : Nat) : State :=
  let p := peerOf s m
  let due := match p.ackDue with | some t => t | none => s.elapsed + 2 * Config.us
  let s := setPeer s m { p with expect := (p.expect + 1) % 2 ^ 32, ackCount := p.ackCount + 1, ackDue := some due }
  if 16 ≤ (peerOf s m).ackCount then sendAck s m else s

/-- A sequenced frame refused: once its NAK has been sent it is acknowledged like any other (R313, R333). -/
def refuse (s : State) (m reason : Nat) (f : Frame) : State :=
  let s := processed (sendNak s m reason f) m
  if nakViolates reason then violation s m else s

/-- A frame out of its turn dropped, with an ACK at most once in 10 µs (R312). -/
def duplicate (s : State) (m : Nat) : State :=
  let p := peerOf s m
  let due := match p.dupAckAt with | some t => decide (t + 10 * Config.us ≤ s.elapsed) | none => true
  if due then sendAck (setPeer s m { p with dupAckAt := some s.elapsed }) m else s

/-! Acknowledgements received (R314-R316). -/

/-- Whether frames of a NET_SEND, or of a press's record, are still to be acknowledged by m. -/
def framesLeft (s : State) (m : Nat) (mine : TxFrame → Bool) : Bool := ((peerOf s m).unacked ++ (peerOf s m).backlog).any mine

/-- A worker that has cleared ENABLE leaves once nothing it sent is outstanding (R304). -/
def leaveIfDone (s : State) : State :=
  if s.net.leaving.isSome && (members s).all (fun m => (peerOf s m).unacked.isEmpty && (peerOf s m).backlog.isEmpty) then leavePod s
  else s

/-- A READ of the peer is processed once the last of its REPLY frames has been sent (R313). -/
def answerRead (s : State) (m : Nat) : State :=
  let p := peerOf s m
  match p.heldRx with
  | some f => if f.type = 5 ∧ p.backlog.any (·.reply) = false then processed (setPeer s m { p with heldRx := none }) m else s
  | none => s

/-- Frames acknowledged up to a SEQ: the timer restarts, and what they carried is over. -/
def acked (s : State) (m ackno : Nat) : State :=
  let p := peerOf s m
  let base := match p.unacked with | f :: _ => f.seq | [] => p.nextSeq
  let n := (ackno + 2 ^ 32 - base) % 2 ^ 32
  if n = 0 then s
  else
    let gone := p.unacked.take n
    let left := p.unacked.drop n
    let s := setPeer s m { p with unacked := left, tries := if left.isEmpty then 0 else 1, rto := rtoInit s, fastDone := false,
                                  timerAt := if left.isEmpty then none else some (s.elapsed + rtoInit s) }
    let s := { s with net := { s.net with sends := s.net.sends.map (fun j =>
      if j.peer == m && !j.read && j.done.isNone && gone.any (fun f => f.send == some j.id)
          && !framesLeft s m (fun f => f.send == some j.id) then { j with done := some .ok } else j) } }
    let s := (gone.filterMap (·.press)).dedup.foldl (fun s q =>
      if taskId s (.press (eng q.1)) = some q.2 ∧ framesLeft s m (fun f => f.press == some q) = false then endSend s (eng q.1) else s) s
    leaveIfDone (answerRead (pump 256 s m) m)

/-- Whether an ACKNO lies between the oldest unacknowledged frame and the next SEQ. -/
def ackInRange (p : Peer) (ackno : Nat) : Bool :=
  decide ((p.nextSeq + 2 ^ 32 - ackno) % 2 ^ 32 ≤ p.unacked.length)

/-- The ACKNO of a frame taken, or answered with BAD_ACK. -/
def takeAck (s : State) (m : Nat) (f : Frame) : State :=
  if !f.ackV then s
  else if ackInRange (peerOf s m) f.ackno.toNat then acked s m f.ackno.toNat
  else nak s m 0x04 f

/-- Every unacknowledged frame sent again, oldest first. -/
def resend (s : State) (m : Nat) : State := (peerOf s m).unacked.foldl (fun s f => putFrame s m { f with retx := true }) s

/-- A second ACK with the same ACKNO, of a frame already sent, makes the sender retransmit at once, once in a timer period (R316). -/
def fastResend (s : State) (m ackno : Nat) : State :=
  let p := peerOf s m
  let again := p.lastAck == some ackno && p.unacked.any (fun f => f.seq == ackno) && !p.fastDone
  let s := setPeer s m { p with lastAck := some ackno, fastDone := p.fastDone || again }
  if again then resend s m else s

/-! Frames received: the checks that every frame passes (R299, R303, R312, R333, R334). -/

/-- Whether a frame's sender address is that of peer entry m. -/
def addrMatch (s : State) (f : Frame) (m : Nat) : Bool :=
  peerValid s m && bit (reg s (0xC01010 + 0x20 * m)) 50 == f.v4 &&
    (if f.v4 then bits (reg s (0xC01000 + 0x20 * m)) 0 32 == bits f.ip0 0 32
     else reg s (0xC01000 + 0x20 * m) == f.ip0 && reg s (0xC01008 + 0x20 * m) == f.ip1)

/-- The peer whose address a frame bears (R308). -/
def senderOf (s : State) (f : Frame) : Option Nat :=
  if addrMatch s f f.src.toNat then some f.src.toNat else (List.range 64).find? (addrMatch s f)

/-- Whether the module runs a network engine: an RL-512N past start-up step 4. -/
def hasNet (s : State) : Bool := s.variant == .rl512N && clockRuns s

/-- A frame dropped without a NAK (R333). -/
def dropUnknown (s : State) (num src m : Nat) (f : Frame) : State :=
  logFrame { s with net := { s.net with rxUnknown := satAdd (2 ^ 64 - 1) s.net.rxUnknown 1 } } num src m 0 f

/-- Bytes of a received frame in the receive buffer: Ethernet, IP and UDP headers, DPP header, payload and poison map (log entry 126). -/
def Frame.size (f : Frame) : Nat :=
  14 + (if f.v4 then 20 else 40) + 8 + 32 + f.payload.length + (if f.poison then (f.poisonMap.length + 255) / 256 * 32 else 0)

/-- Bytes of the receive buffer that frames of a pair hold. -/
def Peer.rxBytes (p : Peer) : Nat :=
  (match p.heldRx with | some f => Frame.size f | none => 0) + p.waitRx.foldl (fun n f => n + Frame.size f) 0

/-- Bytes of the receive buffer in use. -/
def rxUsed (s : State) : Nat := s.net.peers.foldl (fun n e => n + Peer.rxBytes e.2) 0

/-- The size of the receive buffer (Table 1.6). -/
def rxBuffer : Nat := 2 ^ 21

/-- Whether the receive buffer has room for a frame that arrives; where it has not, the frame is dropped, and DPP sends it again (R16, R307). -/
def rxRoom (s : State) (f : Frame) : Bool := decide (rxUsed s + Frame.size f ≤ rxBuffer)

/-- Whether a frame breaks the form of its type (MALFORMED of Table 12.9). -/
def malformed (s : State) (f : Frame) : Bool :=
  let zero (lo n : Nat) : Bool := bits f.param lo n == 0
  f.version != 1 || f.reserved != 0 || decide (mtu s < f.length) ||
  match f.type with
  | 1 => !zero 0 64
  | 2 => let op := bits f.param 0 8
         !zero 17 47 || op == 0 || decide (7 < op) || (op != 4 && !zero 16 1) || ((op == 1 || op == 2 || op == 5) && !zero 8 8)
  | 3 => !zero 8 56 || bits f.param 0 8 == 0 || decide (4 < bits f.param 0 8) || leNat (f.payload.drop 16) != 0
  | 4 => !zero 6 2 || !zero 54 10 || f.length % 32 != 0
  | 5 => let v := BitVec.ofNat 256 (leNat f.payload)
         !zero 0 64 || bits v 6 2 != 0 || bits v 14 2 != 0 || bits v 62 2 != 0 || bits v 110 2 != 0 || bits v 144 112 != 0
  | 6 => !zero 21 11 || !zero 48 16 || bits f.param 16 4 == 0 || decide (8 < bits f.param 16 4)
  | 7 => !zero 11 53
  | 8 => !zero 12 52
  | 9 => !zero 3 1 || !zero 40 24 || f.length % 32 != 0
  | 10 => !zero 0 64
  | 11 => !zero 40 24
  | _ => false

/-- A frame that the receive buffer has room for and that passes the silent checks is handed on with its sender: of a quarantined peer nothing
passes but the manager's READMIT. A well-formed JOIN REQUEST of another pod is dropped as such a frame is, and the manager also refuses it
(R16, R301, R333, R334, log entry 125). -/
def received (s : State) (f : Frame) (go : State → Nat → State) : State :=
  if !hasNet s || !linkUp s (f.port % 2) || !rxRoom s f then s
  else match senderOf s f with
    | none => dropUnknown s 0x20 (srcNum 0xF f.port) 0xFF f
    | some m =>
      if (peerOf s m).quarantined && !(m == 0 && f.type == 2 && bits f.param 0 8 == 6) then s
      else if f.podId.toNat ≠ podId s then
        let s := dropUnknown s 0x21 (srcNum 5 m) m f
        if f.type = 2 ∧ bits f.param 0 8 = 1 ∧ f.dst.toNat = selfMember s ∧ isManager s = true ∧ malformed s f = false ∧ f.seq = 0 then go s m
        else s
      else if f.dst.toNat ≠ selfMember s then dropUnknown s 0x22 (srcNum 5 m) m f
      else go (traceEv s 0x0D f.tenancy.toNat (srcNum 5 m) f.tag f.seq.toNat 0) m

/-- Whether the module and a sender are in one pod. -/
def inPod (s : State) (m : Nat) : Bool := (s.net.pod == .member || s.net.pod == .managing) && (peerOf s m).member

/-- A frame of another incarnation dropped: a violation if the recorded one is newer, unless the frame's is the one recorded before it
(R302, R303). -/
def stale (s : State) (m : Nat) (f : Frame) : State :=
  let p := peerOf s m
  if decide ((p.incarn - f.incarnation).toNat < 2 ^ 31) && p.oldIncarn != some f.incarnation then violation s m else s

/-- A frame of a member with its recorded incarnation, its acknowledgement taken, is handed on; one of a sender outside the pod is refused. -/
def fromMember (s : State) (m : Nat) (f : Frame) (go : State → State) : State :=
  if !inPod s m then nak s m 0x0C f
  else if f.incarnation ≠ (peerOf s m).incarn then stale s m f
  else
    let s := takeAck s m f
    if inPod s m then go s else s

/-- Whether this module may be sent the frame by its sender (Table 12.4). SET comes from any member, for NET_SEND's RSIGNAL (R323). -/
def allowed (s : State) (m : Nat) (f : Frame) : Bool :=
  match f.type with
  | 3 => if bits f.param 0 8 = 2 then isManager s else (m == 0 || (isManager s && bits f.param 0 8 == 4))
  | 6 => let op := bits f.param 16 4
         if op = 1 then true else if op ≤ 6 then isManager s else m == 0
  | 7 => isManager s
  | 8 => m == 0
  | _ => true

/-! Membership (R301-R304, R334). -/

/-- The OP of a JOIN or TIME frame. -/
def frameOp (f : Frame) : Nat := bits f.param 0 8
/-- The subject member or REASON of a JOIN frame. -/
def joinSubject (f : Frame) : Nat := bits f.param 8 8

/-- A member taken into the pair table with an incarnation: SEQ starts at 1 in both directions (R303). A quarantine and the violations
counted stay (R334). -/
def admitPeer (s : State) (m : Nat) (inc : BitVec 32) : State :=
  let p := peerOf s m
  setPeer s m { Peer.unknown with member := true, incarn := inc, oldIncarn := if p.incarn = inc then p.oldIncarn else some p.incarn,
                                  quarantined := p.quarantined, violations := p.violations, vStart := p.vStart, logsat := p.logsat,
                                  logsatCk := p.logsatCk, nextSeq := 1, expect := 1, lastTx := s.elapsed, logged := p.logged,
                                  moved := !linkUp s (peerPort s m) && linkUp s (1 - peerPort s m) }

/-- JOIN_REQUEST: the manager admits the worker or refuses it (R301, R302). -/
def joinReq (s : State) (f : Frame) (m : Nat) : State :=
  let r := f.src.toNat
  if !isManager s then s
  else if f.podId.toNat == podId s && bit (reg s 0xC00018) r && addrMatch s f r && r != 0 then
    let s := if (peerOf s r).member then losePeer s r 0x30 else s
    let s := logMember (admitPeer s r f.incarnation) 0x33 r
    announce (sendJoin s r 2 0 false (memberPayload s)) r true
  else
    let (k, s) := draw s
    sendJoin s m 3 (Config.unstated 3 k % 256) false []

/-! Pod time (R330-R332). -/

/-- A TIME frame. -/
def sendTime (s : State) (m op stamp echo : Nat) : State :=
  sendUnseq s (mkFrame 3 m 0 0 op (leBytes 8 stamp ++ leBytes 8 echo ++ leBytes 16 0) [])

/-- The stamp of a TIME frame. -/
def timeStamp (f : Frame) : Nat := leNat (f.payload.take 8)
/-- The echoed stamp. -/
def timeEcho (f : Frame) : Nat := leNat ((f.payload.drop 8).take 8)

/-- Module time stepped forward, entered with the old and the new time (R331). -/
def stepTime (s : State) (t m : Nat) : State :=
  if s.time < t then
    logAdd { s with time := t, net := { s.net with slew := 0 } } 2 (srcNum 5 m) 0x02 0x35 none none (leBytes 8 s.time)
  else s

/-- The offset of an exchange: ((t2 − t1) − (t4 − t3)) / 2. -/
def exchangeOffset (t1 t2 t3 t4 : Int) : Int := ((t2 - t1) - (t4 - t3)) / 2

/-- The path delay of an exchange: ((t2 − t1) + (t4 − t3)) / 2. -/
def exchangeDelay (t1 t2 t3 t4 : Int) : Int := ((t2 - t1) + (t4 - t3)) / 2

/-- A completed exchange: the worker corrects its rate, and slews, steps, or asks the manager to step; its STEP to the manager carries the
offset in the echoed stamp (R330-R332, log entry 42). -/
def correctTime (s : State) (off delay : Int) : State :=
  let (k, s) := draw s
  let s := { s with net := { s.net with offset := off, pathDelay := delay, rate := Config.timeRate k, aligned := decide (off.natAbs ≤ 80),
                                        lost := false, lastExch := s.elapsed, syncT1 := none } }
  if off.natAbs ≤ 16000 then { s with net := { s.net with slew := -off } }
  else if off < 0 then stepTime s (s.time + off.natAbs) 0
  else sendTime s 0 4 s.time off.natAbs

/-! WRITE and READ (R311, R322-R325). -/

/-- The reader of a peer's access. -/
def peerReader (m : Nat) (f : Frame) : Reader := { src := srcNum 5 m, tag := some f.tag, ten := some f.tenancy.toNat }

/-- The REASON that refuses an access to n bytes of a region for a tenancy, if any (R324, R325). -/
def accessNak (s : State) (ten region bank off n : Nat) : Option Nat :=
  let r := regionOf s region
  if !(tenOf s ten).enabled then some 0x05
  else if r.valid && r.owner != ten then some 0x06
  else if !r.valid then some 0x07
  else if !extOk r (spanExt bank off n) then some 0x07
  else none

/-- The REASON of a status at a receiver. -/
def statusNak (st : Status) : Nat := if st = .retired then 0x08 else 0x09

/-- The status that a REASON gives the sender's work (Table 12.9): none ends nothing. -/
def nakStatus (reason : Nat) : Option Status :=
  match reason with
  | 1 => some .badField | 2 => some .badField | 5 => some .notOwner | 6 => some .notOwner | 7 => some .range | 8 => some .retired
  | 9 => some .translationFault | 0xA => some .aborted | 0xC => some .peerUnreachable
  | _ => none

/-- The oldest READ of this module that a peer still answers. -/
def readJob (s : State) (m : Nat) : Option SendJob := s.net.sends.find? (fun j => j.peer == m && j.read && j.done.isNone)

/-- A refused REPLY ends the READ that it answers. -/
def failRead (s : State) (m reason : Nat) (f : Frame) : State :=
  match f.reply, readJob s m, nakStatus reason with
  | true, some j, some st => endSendJob s j st
  | _, _, _ => s

/-- The message that a peer has open with this module. -/
def modRx (s : State) (m : Nat) (g : RxMsg → RxMsg) : State := modPeer s m (fun p => { p with rx := g p.rx })

/-- A frame of a message that is given up is dropped and acknowledged; the last of them ends it. -/
def dropRest (s : State) (m : Nat) (f : Frame) : State := processed (modRx s m (fun x => { x with drop := !f.last })) m

/-- A frame of a message refused: the rest of the message is dropped. -/
def refuseMessage (s : State) (m reason : Nat) (f : Frame) : State :=
  let s := refuse s m reason f
  failRead (modPeer s m (fun p => { p with rx := { RxMsg.idle with drop := !f.last && p.member } })) m reason f

/-- A READ has its bytes: with RSIGNAL the flag at the peer is then set (R323, log entry 43). -/
def readDone (s : State) (m : Nat) (j : SendJob) : State :=
  let s := { s with net := { s.net with sends := s.net.sends.map (fun k => if k.id = j.id then { j with done := some .ok } else k) } }
  match activeOf s j.id with
  | some a =>
    if bit a.raw 80 then sendSeq s (mkFrame 6 m a.ten (dTag a.raw) (flagParam (dfield a.raw 12 2) 1 false 0xFFFF) [] []) else s
  | none => s

/-- The frame's payload with its poison. -/
def framePayload (f : Frame) : List (Byte × Bool) :=
  f.payload.zipIdx.map (fun b => (b.1, f.poison && f.poisonMap.getD (b.2 / 4) false))

/-- The bytes of a message, as far as its first frame tells: those of the READ that a REPLY answers, else those of the frame (log entry 41). -/
def messageLen (s : State) (m : Nat) (f : Frame) : Nat :=
  match f.reply, (readJob s m).bind (fun j => activeOf s j.id) with
  | true, some a => max f.payload.length (dfield a.raw 28 4)
  | _, _ => f.payload.length

/-- The REASON that refuses a WRITE frame: at FIRST the checks of R324, and the same of a frame that continues no message which has passed them
for its tenancy and region; of one that does, only that the extent which it adds lies in a tensor region, since no field of FIRST gives the
length of the message (log entry 41). -/
def writeNak (s : State) (m : Nat) (f : Frame) : Option Nat :=
  let region := bits f.param 0 6
  let off := bits f.param 8 34 * 32
  let bank := bits f.param 42 12
  if f.first then accessNak s f.tenancy.toNat region bank off (messageLen s m f)
  else if (peerOf s m).rx.write ≠ some (f.tenancy.toNat, region) then accessNak s f.tenancy.toNat region bank off f.payload.length
  else if extOk (regionOf s region) (spanExt bank off f.payload.length) then none else some 0x07

/-- A WRITE frame's bytes committed, or refused (R311, R324). -/
def writeFrame (s : State) (m : Nat) (f : Frame) : State :=
  let ten := f.tenancy.toNat
  let region := bits f.param 0 6
  let off := bits f.param 8 34 * 32
  let bank := bits f.param 42 12
  if (peerOf s m).rx.drop && !f.first then dropRest s m f
  else match writeNak s m f with
    | some r => refuseMessage s m r f
    | none =>
      let bs := framePayload f
      let ls := locateAll s (regionOf s region) true bank off bs.length
      match regionWrite s (peerReader m f) region bank off bs with
      | (some st, s) => refuseMessage s m (statusNak st) f
      | (none, s) =>
        let s := engineSlots s true ten ls
        let s := modRx s m (fun _ => { RxMsg.idle with write := if f.last then none else some (ten, region) })
        let s := match f.reply, readJob s m with
          | true, some j =>
            let j := { j with poisoned := j.poisoned + ((wordMarks bs).filter id).length }
            if f.last then readDone s m j
            else { s with net := { s.net with sends := s.net.sends.map (fun k => if k.id = j.id then j else k) } }
          | _, _ => s
        processed s m

/-- A READ answered by REPLY frames, or refused; it is processed when the last of them has been sent (R313). -/
def readFrame (s : State) (m : Nat) (f : Frame) : State :=
  let ten := f.tenancy.toNat
  let v := leNat (f.payload.take 18)
  let lregion := v % 64
  let rregion := v / 2 ^ 8 % 64
  let lstart := v / 2 ^ 16 % 2 ^ 46
  let rstart := v / 2 ^ 64 % 2 ^ 46
  let n := v / 2 ^ 112 % 2 ^ 32
  let bank := rstart / 2 ^ 34
  let off := rstart % 2 ^ 34 * 32
  if n % 32 ≠ 0 ∨ n = 0 ∨ 2 ^ 26 < n then refuse s m 0x01 f
  else match accessNak s ten rregion bank off n with
    | some r => refuse s m r f
    | none =>
      let ls := locateAll s (regionOf s rregion) false bank off n
      match regionRead s (peerReader m f) rregion bank off n with
      | (.error st, s) => refuse s m (statusNak st) f
      | (.ok bs, s) =>
        let s := engineSlots s false ten ls
        let s := (writeFrames s m ten f.tag lregion (lstart % 2 ^ 34) (lstart / 2 ^ 34) bs true none).foldl sendSeq s
        answerRead (modPeer s m (fun p => { p with heldRx := some f })) m

/-! Remote flags (R326). -/

/-- FLAG of a FLAG frame. -/
def ffFlag (f : Frame) : Nat := bits f.param 0 16
/-- OP of a FLAG frame. -/
def ffOp (f : Frame) : Nat := bits f.param 16 4
/-- VALUE of a FLAG frame. -/
def ffValue (f : Frame) : Bool := bit f.param 20
/-- WAITER of a FLAG frame. -/
def ffWaiter (f : Frame) : Nat := bits f.param 32 16

/-- A flag operation or wait of a peer applied where the flag is homed on this module and owned by the frame's tenancy. -/
def remoteFlag (s : State) (m : Nat) (f : Frame) (go : State → State) : State :=
  let ten := f.tenancy.toNat
  if !(tenOf s ten).enabled then refuse s m 0x05 f
  else if !ownsFlag s ten (ffFlag f) || flagHome s (ffFlag f) == 9 then refuse s m 0x06 f
  else processed (go s) m

/-- A RESULT sent, unless WAITER names none. -/
def sendResult (s : State) (m : Nat) (f : Frame) (v : Bool) : State :=
  if ffWaiter f = 0xFFFF then s else sendFlag s m f.tenancy.toNat f.tag (ffFlag f) 8 v (ffWaiter f)

/-- One of the four operations of a peer. -/
def remoteOp (s : State) (m : Nat) (f : Frame) : State :=
  let k := ffFlag f
  let v := flagOf s k
  let who : Who := { kind := 5, id := m }
  let ten := f.tenancy.toNat
  let s := match ffOp f with
    | 1 => homeSet s k who f.tag ten
    | 2 => homeClear s k who f.tag ten 2
    | 3 => homeClear s k who f.tag ten 3
    | _ => s
  sendResult s m f v

/-- A wait of a peer registered as a kite of the tenancy; with no kite free the RESULT carries WAITER 0xFFFF. -/
def remoteWatch (s : State) (m : Nat) (f : Frame) : State :=
  let ten := f.tenancy.toNat
  let clr := ffOp f == 6
  let who : Who := { kind := 5, id := m }
  match freeKiteFor s ten with
  | none => sendFlag s m ten f.tag (ffFlag f) 8 (flagOf s (ffFlag f)) 0xFFFF
  | some k =>
    let kite : Kite := { owner := ten, flag := ffFlag f, onClear := false, clr := clr, notify := 0, cookie := 0, who := who,
                         tag := f.tag, armed := s.time }
    registerWatch (setKite s k (some kite))
      { flag := ffFlag f, onClear := false, clr := clr, holder := .member m (ffWaiter f), kite := some k, who := who, tag := f.tag } ten

/-- A remote wait or operation taken out by a test. -/
def takeRemote (s : State) (p : RemoteWait → Bool) : Option RemoteWait × State :=
  match takeFirst p s.net.remote with
  | (some r, rest) => (some r, { s with net := { s.net with remote := rest } })
  | (none, _) => (none, s)

/-- A waiting entity released. -/
def releaseRemote (s : State) (r : Reply) : State :=
  match r with
  | .none => s
  | .core x => wakeCore s x
  | .desc i => modActive s i (fun a => { a with wait := .released })
  | .host k =>
    match kiteOf s k with
    | some x => freeKite (hostKite (traceEv s 0x09 x.owner (srcNum 6 k) x.tag x.flag 0) x k) k
    | none => s

/-- A descriptor's wait, or a host kite, at a manager without a free kite tests its flag again (R254, R326, log entry 44). -/
def retest (s : State) (r : RemoteWait) (f : Frame) : State :=
  let (w, s) := newWaiter s r.flag r.reply true r.clr true r.onClear
  sendFlag s 0 f.tenancy.toNat f.tag r.flag (if r.clr then 3 else 4) false w

/-- The answer of the manager to an operation or a test. -/
def remoteResult (s : State) (r : RemoteWait) (f : Frame) : State :=
  if r.watch then (if ffValue f != r.onClear then releaseRemote s r.reply else retest s r f)
  else replyTo s r.reply (ffValue f)

/-- The manager had no kite for a wait: the waiting entity polls. -/
def remoteNoKite (s : State) (r : RemoteWait) (f : Frame) : State :=
  match r.reply with
  | .none => s
  | .desc _ => retest s r f
  | .host _ => retest s r f
  | .core x =>
    notePolling (modProc s x (fun p => { p with nap := p.nap.map (fun n =>
      { n with why := .poll r.flag r.clr, lastPoll := s.ck, answer := none }) })) x r.flag

/-- The tenancy of a waiting entity. -/
def replyTen (s : State) (r : Reply) : Option Nat :=
  match r with
  | .none => none
  | .core x => some (coreTen s x)
  | .desc i => (activeOf s i).map (·.ten)
  | .host k => (kiteOf s k).map (·.owner)

/-- What an answer of the manager does, where its tenancy exists and is that of each waiting entity that it may concern; else it is refused
(R325, R333). -/
def forTenancy (s : State) (m : Nat) (f : Frame) (mine : RemoteWait → Bool) (go : State) : State :=
  let ten := f.tenancy.toNat
  if !(tenOf s ten).enabled then refuse s m 0x05 f
  else if (s.net.remote.filter mine).any (fun r => replyTen s r.reply != some ten) then refuse s m 0x06 f
  else go

/-- FIRE: the waiting entity is released (R326). -/
def fireFrame (s : State) (m : Nat) (f : Frame) : State :=
  forTenancy s m f (fun r => r.waiter == ffWaiter f && r.watch) <|
  let (r, s) := takeRemote s (fun r => r.waiter == ffWaiter f && r.watch)
  match r with
  | some r => processed (releaseRemote s r.reply) m
  | none => processed s m

/-- RESULT: the answer to an operation or a test, or the lack of a kite for a wait (R326). -/
def resultFrame (s : State) (m : Nat) (f : Frame) : State :=
  if ffWaiter f = 0xFFFF then
    let ten := f.tenancy.toNat
    if !(tenOf s ten).enabled then refuse s m 0x05 f
    else
    let (r, s) := takeRemote s (fun r => r.flag == ffFlag f && r.watch && !r.tested && replyTen s r.reply == some ten)
    match r with
    | some r => processed (remoteNoKite s r f) m
    | none => processed s m
  else
    forTenancy s m f (fun r => r.waiter == ffWaiter f) <|
    let (r, s) := takeRemote s (fun r => r.waiter == ffWaiter f)
    match r with
    | some r => processed (remoteResult s r f) m
    | none => processed s m

/-- A FLAG frame by its OP (Table 12.4, R326). -/
def flagFrame (s : State) (m : Nat) (f : Frame) : State :=
  match ffOp f with
  | 5 => remoteFlag s m f (fun s => remoteWatch s m f)
  | 6 => remoteFlag s m f (fun s => remoteWatch s m f)
  | 7 => fireFrame s m f
  | 8 => resultFrame s m f
  | _ => remoteFlag s m f (fun s => remoteOp s m f)

/-! Pod barriers (R327, R328). -/

/-- BARRIER of an ARRIVE or RELEASE. -/
def bfBar (f : Frame) : Nat := bits f.param 0 10

/-- An ARRIVE counted, or refused (R327, R328). -/
def arriveFrame (s : State) (m : Nat) (f : Frame) : State :=
  let n := bfBar f
  let b := barOf s n
  let ten := f.tenancy.toNat
  if !(tenOf s ten).enabled then refuse s m 0x05 f
  else if mget none s.barOwner n != some ten then refuse s m 0x06 f
  else if b.st == .uninit || b.members == 0 || b.members.toNat != leNat (f.payload.take 8) || !bit b.members m then refuse s m 0x0A f
  else if b.st == .active then processed (podCounted s n m) m
  else processed s m

/-- A RELEASE for a tenancy that exists and owns the barrier: the vintage is released on this member, or its barrier breaks (R325, R327,
R333). -/
def releaseFrame (s : State) (m : Nat) (f : Frame) : State :=
  let n := bfBar f
  let b := barOf s n
  let ten := f.tenancy.toNat
  if !(tenOf s ten).enabled then refuse s m 0x05 f
  else if mget none s.barOwner n != some ten then refuse s m 0x06 f
  else
  let s :=
    if b.st != .active || b.members == 0 then s
    else if bit f.param 11 then (barStacks b).foldl (fun s k => stackFault s n b k) (breakBarrier s n 1 .watchdog)
    else if bit f.param 10 == b.vintage then releaseTop s n
    else s
  processed s m

/-! PARTIAL (R240, R317, R329). -/

/-- Whether a PARTIAL record would pass one that came for its channel before it: one at the press's input, or one of another member (R240). -/
def passes (s : State) (m : Nat) (g : PartialMsg) : Bool :=
  (pressOf s g.engine).input.any (fun q => q.1 == g.chan && decide (q.2.at_ ≤ g.at_)) ||
    partialAhead s g.engine g.chan (fun k h => k != m && (decide (h.at_ < g.at_) || (h.at_ == g.at_ && decide (k < m))))

/-- A frame of a record that holds its slot: its bytes leave the buffer for press scratch, and the last makes the record land (R307, R313). -/
def partialBytes (s : State) (m : Nat) (f : Frame) (g : PartialMsg) : State :=
  let bs := framePayload f
  let bad := g.bad || bs.any (·.2)
  let s := landBytes s (eng g.engine) g.chan g.got bs
  if f.last then processed (landHead (modRx s m (fun _ => RxMsg.idle)) (eng g.engine) g.chan g.source g.tag g.ten g.len bad) m
  else processed (modRx s m (fun _ => { RxMsg.idle with
    gather := some { g with got := g.got + f.payload.length, frames := g.frames + 1, bad := bad } })) m

/-- The first frame of a record: it takes its channel's next slot, is refused or dropped as too long, or holds the pair's stream (R240,
R317). -/
def openPartial (s : State) (m : Nat) (f : Frame) (g : PartialMsg) : State :=
  let free (s : State) : State := modPeer s m (fun p => { p with rx := RxMsg.idle, heldRx := none, busyAt := none })
  if mget none s.pressOwner g.engine != some g.ten then refuseMessage (free s) m 0x06 f
  else if chanFree s g.engine g.chan && !passes s m g then
    if (chanOf s g.engine g.chan).short g.len then dropRest (dropLong (free s) (eng g.engine) g.chan g.source g.tag g.ten) m f
    else partialBytes (free s) m f { g with landing := true }
  else
    sendNak (modPeer s m (fun p => { p with rx := { RxMsg.idle with gather := some g }, heldRx := some f, busyAt := some s.elapsed })) m 0x0B f

/-- A PARTIAL frame opens its record, or continues the one that the pair has open; one out of place is MALFORMED (R329). -/
def partialFrame (s : State) (m : Nat) (f : Frame) : State :=
  let ten := f.tenancy.toNat
  let engine := bits f.param 0 3
  let chan := bits f.param 4 4
  let off := bits f.param 8 16 * 32
  let len := bits f.param 24 16 * 32
  let rx := (peerOf s m).rx
  let end_ := off + f.payload.length
  let here := decide (end_ ≤ len) && (!f.last || end_ == len)
  if rx.drop && !f.first then dropRest s m f
  else if !(tenOf s ten).enabled then refuseMessage s m 0x05 f
  else if mget none s.pressOwner engine != some ten then refuseMessage s m 0x06 f
  else match f.first, rx.gather with
    | true, _ =>
      if off = 0 ∧ here = true then
        openPartial s m f { at_ := s.ck, engine := engine, chan := chan, source := srcNum 5 m, tag := f.tag, ten := ten, landing := false,
                            got := 0, frames := 0, bad := false, len := len }
      else refuseMessage s m 0x01 f
    | false, some g =>
      if g.engine = engine ∧ g.chan = chan ∧ g.ten = ten ∧ g.len = len ∧ off = g.got ∧ here = true then partialBytes s m f g
      else refuseMessage s m 0x01 f
    | false, none => refuseMessage s m 0x01 f

/-! ACK and NAK (R314, R316, R333). -/

/-- A NAK of a FLAG frame: the entity that WAITER names ends with the status; a host kite stays armed (R255). -/
def nakFlag (s : State) (g : TxFrame) (st : Status) : State :=
  let w := g.param / 2 ^ 32 % 2 ^ 16
  let (r, s) := takeRemote s (fun r => r.waiter == w && w != 0xFFFF)
  match r with
  | none => s
  | some r =>
    match r.reply with
    | .none => s
    | .core x => faultTask s x st 0 r.flag 0
    | .host _ => s
    | .desc i => if r.watch then dropParts s i st 0 else endDesc s i st .sync 0 0

/-- A NAK of an ARRIVE: the barrier is broken and its nappers end with ABORTED (R328). -/
def nakArrive (s : State) (n : Nat) (st : Status) : State :=
  if (barOf s n).st == .active then breakBarrier s n 1 st else s

/-- What a NAK does to the work that its frame belongs to. -/
def nakWork (s : State) (m : Nat) (g : TxFrame) (st : Status) : State :=
  match g.send, g.press with
  | some i, _ =>
    let s := dropFrames s m (fun h => h.send == some i)
    (match s.net.sends.find? (fun j => j.id == i && j.done.isNone) with
      | some j => endSendJob s j st
      | none => s)
  | none, some q =>
    let s := dropFrames s m (fun h => h.press == some q)
    if taskId s (.press (eng q.1)) = some q.2 then faultTask s (.press (eng q.1)) st 0 m 0 else s
  | none, none =>
    if g.reply then answerRead (dropFrames s m (·.reply)) m
    else if g.type = 6 then nakFlag s g st
    else if g.type = 7 then nakArrive s (g.param % 1024) st
    else s

/-! Frames received as commands (R299, R303, R307, R312). -/

/-- What a sequenced frame does in its turn, by its type. -/
def frameEffect (s : State) (m : Nat) (f : Frame) : State :=
  match f.type with
  | 4 => writeFrame s m f
  | 5 => readFrame s m f
  | 6 => flagFrame s m f
  | 7 => arriveFrame s m f
  | 8 => releaseFrame s m f
  | 9 => partialFrame s m f
  | _ => processed s m

/-- A sequenced frame in its turn: refused, or its effect (R313, R333). -/
def takeFrame (s : State) (m : Nat) (f : Frame) : State :=
  if malformed s f then refuse s m 0x01 f
  else if !allowed s m f then refuse s m 0x02 f
  else
    let s := if f.type = 1 then s else modPeer s m (fun p => { p with tens := mset false p.tens f.tenancy.toNat true })
    let s := if f.type = 1 ∨ f.payload.isEmpty = true then s
      else meter s f.tenancy.toNat 5 f.payload.length (20 * f.payload.length)
    frameEffect s m f

/-- The frames that wait behind a held one take their turn once it is held no more (R317). -/
def drainRx (fuel : Nat) (s : State) (m : Nat) : State :=
  match fuel with
  | 0 => s
  | n + 1 =>
    let p := peerOf s m
    match p.heldRx, p.waitRx with
    | none, f :: rest => drainRx n (takeFrame (setPeer s m { p with waitRx := rest }) m f) m
    | _, _ => s

/-- With PFC a port pauses its partner while the buffer has no room for the longest frame of 9,216 B, and lets it go on afterwards (R16, R307,
Table 12.2, log entry 126). -/
def pfcPort (s : State) (p : Nat) : State :=
  let ctrl := reg s (0xC00060 + 8 * p)
  let want := bit ctrl 0 && decide (rxBuffer < rxUsed s + 9216)
  if want == mget false s.net.paused p then s
  else emit { s with net := { s.net with paused := mset false s.net.paused p want } } (.pfc p (bits ctrl 16 3) want)

/-- A pair's waiting frames are taken as far as they can be, and the ports' pauses follow the buffer. -/
def settleRx (s : State) (m : Nat) : State := pfcPort (pfcPort (drainRx (peerOf s m).waitRx.length s m) 0) 1

/-- The SEQ that a pair expects next: behind the frames processed, held and waiting. -/
def rxNext (p : Peer) : Nat := (p.expect + b2n p.heldRx.isSome + p.waitRx.length) % 2 ^ 32

/-- A frame waits behind the held one. -/
def holdFrame (s : State) (m : Nat) (f : Frame) : State := modPeer s m (fun p => { p with waitRx := p.waitRx ++ [f] })

/-- A sequenced frame: in its turn it takes effect, refused or not, or waits behind a held one; ahead or behind it is dropped (R312). -/
def sequenced (s : State) (f : Frame) : State :=
  received s f (fun s m => fromMember s m f (fun s =>
    let s := settleRx s m
    let p := peerOf s m
    let d := (f.seq.toNat + 2 ^ 32 - rxNext p) % 2 ^ 32
    if !p.member then s
    else if d = 0 then settleRx (if p.heldRx.isSome then holdFrame s m f else takeFrame s m f) m
    else if d ≤ 255 ∨ 2 ^ 31 ≤ d then duplicate s m
    else nak s m 0x03 f))

/-- A frame of a member under another incarnation than the recorded one is dropped; a JOIN REQUEST brings a new one, unless it is a late one of
the incarnation before (R302, R303). -/
def current (s : State) (m : Nat) (f : Frame) (go : State → State) : State :=
  if f.type = 2 ∧ bits f.param 0 8 = 1 ∧ (peerOf s m).oldIncarn = some f.incarnation ∧ f.incarnation ≠ (peerOf s m).incarn then s
  else if (peerOf s m).member && f.incarnation != (peerOf s m).incarn && !(f.type == 2 && bits f.param 0 8 == 1) then stale s m f else go s

/-- An unsequenced frame: SEQ must be 0. -/
def unsequenced (s : State) (f : Frame) (go : State → Nat → State) : State :=
  received s f (fun s m => current s m f (fun s =>
    if malformed s f then nak s m 0x01 f
    else if f.seq ≠ 0 then nak s m 0x02 f
    else if !allowed s m f then nak s m 0x02 f
    else settleRx (go s m) m))

/-- DPP_HELLO (R319). -/
def execDppHello (f : Frame) (s : State) : Host.Outcome State Fault Refusal := .next (if f.type = 1 then sequenced s f else s)

/-- JOIN_REQUEST (R301). -/
def execJoinRequest (f : Frame) (s : State) : Host.Outcome State Fault Refusal :=
  .next (if f.type = 2 ∧ frameOp f = 1 then unsequenced s f (fun s m => joinReq s f m) else s)

/-- JOIN_ACCEPT: a joining worker is a member and knows the others and their incarnations (R301, R303). -/
def execJoinAccept (f : Frame) (s : State) : Host.Outcome State Fault Refusal :=
  .next (if f.type = 2 ∧ frameOp f = 2 then unsequenced s f (fun s m =>
    if s.net.pod = .joining ∧ m = 0 then
      let s := admitPeer s 0 f.incarnation
      let s := (Config.membershipOf f.payload).foldl (fun s e =>
        if e.1 = 0 ∨ e.1 = selfMember s ∨ 64 ≤ e.1 then s else admitPeer s e.1 e.2) s
      logMember { s with net := { s.net with pod := .member, lastExch := s.elapsed } } 0x33 (selfMember s)
    else s) else s)

/-- JOIN_REFUSE (R301). -/
def execJoinRefuse (f : Frame) (s : State) : Host.Outcome State Fault Refusal :=
  .next (if f.type = 2 ∧ frameOp f = 3 then unsequenced s f (fun s m =>
    if s.net.pod = .joining ∧ m = 0 then { s with net := { s.net with pod := .alone } } else s) else s)

/-- The incarnation that a membership payload gives a member. -/
def incarnOf (payload : List Byte) (m : Nat) : BitVec 32 := ((Config.membershipOf payload).lookup m).getD 0

/-- JOIN_ANNOUNCE: a member joined is recorded; one that left is treated by R320 (R303, R304). -/
def execJoinAnnounce (f : Frame) (s : State) : Host.Outcome State Fault Refusal :=
  .next (if f.type = 2 ∧ frameOp f = 4 then unsequenced s f (fun s m =>
    let k := joinSubject f % 64
    if m ≠ 0 ∨ s.net.pod ≠ .member ∨ k = selfMember s then s
    else fromMember s m f (fun s =>
      if bit f.param 16 then
        let s := if (peerOf s k).member then losePeer s k 0x30 else s
        logMember (admitPeer s k (incarnOf f.payload k)) 0x33 k
      else if (peerOf s k).member then losePeer s k 0x33 else s)) else s)

/-- JOIN_LEAVE: a worker leaves, or this worker is expelled (R304). -/
def execJoinLeave (f : Frame) (s : State) : Host.Outcome State Fault Refusal :=
  .next (if f.type = 2 ∧ frameOp f = 5 then unsequenced s f (fun s m =>
    fromMember s m f (fun s =>
      if isManager s then losePeer s m 0x33
      else if m = 0 then enterAlone (logMember s 0x33 0) else s)) else s)

/-- JOIN_READMIT: the manager ends a quarantine (R334). -/
def execJoinReadmit (f : Frame) (s : State) : Host.Outcome State Fault Refusal :=
  .next (if f.type = 2 ∧ frameOp f = 6 then unsequenced s f (fun s m =>
    let k := joinSubject f % 64
    if m = 0 ∧ (peerOf s k).quarantined = true then
      logMember (modPeer s k (fun p => { p with quarantined := false, violations := 0, vStart := none })) 0x32 k
    else s) else s)

/-- JOIN_REPORT: the manager learns that a member has quarantined another, which is entered in the log (R334). -/
def execJoinReport (f : Frame) (s : State) : Host.Outcome State Fault Refusal :=
  .next (if f.type = 2 ∧ frameOp f = 7 then unsequenced s f (fun s m =>
    fromMember s m f (fun s => if isManager s then
      logPod s 3 0x31 (srcNum 5 m) (some f.tag) (some f.tenancy.toNat) (joinSubject f) f.type (Frame.hflags f) 0 f.seq.toNat f.incarnation.toNat
    else s)) else s)

/-- TIME_SYNC: the worker stamps the arrival and sends DELAY_REQ (R330). -/
def execTimeSync (f : Frame) (s : State) : Host.Outcome State Fault Refusal :=
  .next (if f.type = 3 ∧ frameOp f = 1 then unsequenced s f (fun s m => fromMember s m f (fun s =>
    let s := { s with net := { s.net with syncT1 := some (timeStamp f, s.time, s.time) } }
    sendTime s 0 2 s.time (timeStamp f))) else s)

/-- TIME_DELAY_REQ: the manager stamps the arrival and returns it (R330). -/
def execTimeDelayReq (f : Frame) (s : State) : Host.Outcome State Fault Refusal :=
  .next (if f.type = 3 ∧ frameOp f = 2 then unsequenced s f (fun s m => fromMember s m f (fun s =>
    sendTime s m 3 s.time (timeStamp f))) else s)

/-- TIME_DELAY_RESP (R330, R331). -/
def execTimeDelayResp (f : Frame) (s : State) : Host.Outcome State Fault Refusal :=
  .next (if f.type = 3 ∧ frameOp f = 3 then unsequenced s f (fun s m => fromMember s m f (fun s =>
    match s.net.syncT1 with
    | some (t1, t2, t3) => if timeEcho f = t3 then correctTime s (exchangeOffset t1 t2 t3 (timeStamp f)) (exchangeDelay t1 t2 t3 (timeStamp f))
      else s
    | none => s)) else s)

/-- TIME_STEP: a member behind the carried time steps forward; the manager steps forward by the offset that a worker carries and tells every
member its new time (R331, log entry 42). -/
def execTimeStep (f : Frame) (s : State) : Host.Outcome State Fault Refusal :=
  .next (if f.type = 3 ∧ frameOp f = 4 then unsequenced s f (fun s m => fromMember s m f (fun s =>
    if isManager s then
      if 0 < timeEcho f then
        let s := stepTime s (s.time + timeEcho f) m
        (members s).foldl (fun s k => sendTime s k 4 s.time 0) s
      else s
    else stepTime s (timeStamp f) m)) else s)

/-- DPP_WRITE (R323, R324). -/
def execDppWrite (f : Frame) (s : State) : Host.Outcome State Fault Refusal := .next (if f.type = 4 then sequenced s f else s)
/-- DPP_READ (R323). -/
def execDppRead (f : Frame) (s : State) : Host.Outcome State Fault Refusal := .next (if f.type = 5 then sequenced s f else s)

/-- A FLAG frame with one OP. -/
def flagSequenced (s : State) (f : Frame) (op : Nat) : State := if f.type = 6 ∧ ffOp f = op then sequenced s f else s

/-- DPP_FLAG_SET (R326). -/
def execDppFlagSet (f : Frame) (s : State) : Host.Outcome State Fault Refusal := .next (flagSequenced s f 1)
/-- DPP_FLAG_CLEAR (R326). -/
def execDppFlagClear (f : Frame) (s : State) : Host.Outcome State Fault Refusal := .next (flagSequenced s f 2)
/-- DPP_FLAG_TESTCLR (R326). -/
def execDppFlagTestclr (f : Frame) (s : State) : Host.Outcome State Fault Refusal := .next (flagSequenced s f 3)
/-- DPP_FLAG_TEST (R326). -/
def execDppFlagTest (f : Frame) (s : State) : Host.Outcome State Fault Refusal := .next (flagSequenced s f 4)
/-- DPP_FLAG_WATCH (R326). -/
def execDppFlagWatch (f : Frame) (s : State) : Host.Outcome State Fault Refusal := .next (flagSequenced s f 5)
/-- DPP_FLAG_WATCH_CLR (R326). -/
def execDppFlagWatchClr (f : Frame) (s : State) : Host.Outcome State Fault Refusal := .next (flagSequenced s f 6)
/-- DPP_FLAG_FIRE (R326). -/
def execDppFlagFire (f : Frame) (s : State) : Host.Outcome State Fault Refusal := .next (flagSequenced s f 7)
/-- DPP_FLAG_RESULT (R326). -/
def execDppFlagResult (f : Frame) (s : State) : Host.Outcome State Fault Refusal := .next (flagSequenced s f 8)

/-- DPP_ARRIVE (R327, R328). -/
def execDppArrive (f : Frame) (s : State) : Host.Outcome State Fault Refusal := .next (if f.type = 7 then sequenced s f else s)
/-- DPP_RELEASE (R327). -/
def execDppRelease (f : Frame) (s : State) : Host.Outcome State Fault Refusal := .next (if f.type = 8 then sequenced s f else s)
/-- DPP_PARTIAL (R240, R329). -/
def execDppPartial (f : Frame) (s : State) : Host.Outcome State Fault Refusal := .next (if f.type = 9 then sequenced s f else s)

/-- BUSY_NAK_TIMER: 50 µs after the last BUSY the held PARTIAL lands, or is answered with BUSY again (R317). -/
def execBusyNakTimer (m : BitVec 6) (s : State) : Host.Outcome State Fault Refusal :=
  let p := peerOf s m.toNat
  .next (match p.heldRx, p.busyAt, p.rx.gather with
    | some f, some t, some g => settleRx (openPartial (advanceTo s (t + 50 * Config.us)) m.toNat f g) m.toNat
    | _, _, _ => s)

/-- DPP_ACK (R314, R316). -/
def execDppAck (f : Frame) (s : State) : Host.Outcome State Fault Refusal :=
  .next (if f.type = 10 then unsequenced s f (fun s m =>
    fromMember s m f (fun s => if f.ackV then fastResend s m f.ackno.toNat else s)) else s)

/-- DPP_NAK (R317, R333). -/
def execDppNak (f : Frame) (s : State) : Host.Outcome State Fault Refusal :=
  .next (if f.type = 11 then unsequenced s f (fun s m =>
    if !inPod s m then s
    else
      let seq := bits f.param 0 32
      let reason := bits f.param 32 8
      let hit := (peerOf s m).unacked.find? (fun g => g.seq == seq)
      let s := takeAck s m f
      if reason = 0x0B then modPeer s m (fun p => { p with timerAt := p.timerAt.map (fun _ => s.elapsed + p.rto) })
      else match hit, nakStatus reason with
        | some g, some st => nakWork s m g st
        | _, _ => s) else s)

/-- DPP_UNKNOWN_TYPE (R333). -/
def execDppUnknownType (f : Frame) (s : State) : Host.Outcome State Fault Refusal :=
  .next (if f.type = 0 ∨ 11 < f.type then received s f (fun s m => current s m f (fun s => nak s m 0x02 f)) else s)

/-- NON_DPP_FRAME (R305, Table 12.2). -/
def execNonDppFrame (port : BitVec 1) (s : State) : Host.Outcome State Fault Refusal :=
  .next (if hasNet s && linkUp s port.toNat then { s with net := { s.net with rxOther := satAdd (2 ^ 64 - 1) s.net.rxOther 1 } } else s)

/-- NET_RX_ERR_FRAME (R333, Table 12.2). -/
def execNetRxErrFrame (port : BitVec 1) (s : State) : Host.Outcome State Fault Refusal :=
  .next (if hasNet s && linkUp s port.toNat then { s with net := { s.net with rxErr := satAdd (2 ^ 64 - 1) s.net.rxErr 1 } } else s)

/-! Timers (R301, R306, R313, R315, R318, R319, R330, R334). -/

/-- RETRANSMIT_TIMEOUT: every unacknowledged frame is sent again and the timer doubles; after the eighth try the peer is unreachable, unless an
acknowledgement comes within the cycle of the expiry (R315, R318, R434). -/
def execRetransmitTimeout (m : BitVec 6) (s : State) : Host.Outcome State Fault Refusal :=
  let k := m.toNat
  .next (match (peerOf s k).timerAt with
    | none => s
    | some due =>
      let base := max due s.elapsed
      let s := pastDue s due
      if 8 ≤ (peerOf s k).tries then losePeer s k 0x30
      else
        let s := modPeer s k (fun p =>
          let rto := min (rtoMax s) (2 * p.rto)
          { p with tries := p.tries + 1, rto := rto, timerAt := some (base + rto), fastDone := false })
        resend s k)

/-- ACK_TIMER (R313). -/
def execAckTimer (m : BitVec 6) (s : State) : Host.Outcome State Fault Refusal :=
  .next (match (peerOf s m.toNat).ackDue with
    | some due => sendAck (advanceTo s due) m.toNat
    | none => s)

/-- HELLO_TIMER (R319). -/
def execHelloTimer (m : BitVec 6) (s : State) : Host.Outcome State Fault Refusal :=
  let k := m.toNat
  .next (if inPod s k then
    sendSeq (advanceTo s ((peerOf s k).lastTx + Config.us * bits (reg s 0xC00048) 0 20)) (mkFrame 1 k 0 0 0 [] [])
  else s)

/-- JOIN REQUEST sent to the manager. -/
def sendRequest (s : State) : State := sendJoin { s with net := { s.net with joinSent := s.elapsed } } 0 1 0 false []

/-- JOIN_RETRY_TIMER (R301). -/
def execJoinRetryTimer (s : State) : Host.Outcome State Fault Refusal :=
  .next (if s.net.pod = .joining then sendRequest (advanceTo s (s.net.joinSent + Config.ms)) else s)

/-- TIME_PERIOD_TIMER (R330). -/
def execTimePeriodTimer (s : State) : Host.Outcome State Fault Refusal :=
  .next (if isManager s then
    let s := advanceTo s (s.net.syncAt + Config.us * bits (reg s 0xC00050) 0 17)
    let s := { s with net := { s.net with syncAt := s.elapsed } }
    (members s).foldl (fun s m => sendTime s m 1 s.time 0) s
  else s)

/-- TIME_LOST_TIMER (R330). -/
def execTimeLostTimer (s : State) : Host.Outcome State Fault Refusal :=
  .next (if s.net.pod = .member ∧ s.net.lost = false then
    let s := advanceTo s (s.net.lastExch + 100 * Config.ms)
    logMember { s with net := { s.net with lost := true } } 0x36 0
  else s)

/-- VIOLATION_WINDOW_EXPIRY (R334). -/
def execViolationWindowExpiry (m : BitVec 6) (s : State) : Host.Outcome State Fault Refusal :=
  let k := m.toNat
  .next (match (peerOf s k).vStart with
    | some t => modPeer (advanceTo s (t + 1000 * Config.ms)) k (fun p => { p with violations := 0, vStart := none })
    | none => s)

/-- Pairs whose port has no link move to the other port, if that has link, and send again from their oldest unacknowledged frame, which is
no try (R306). -/
def movePairs (s : State) : State :=
  (members s).foldl (fun s m =>
    if !linkUp s (pairPort s m) && linkUp s (1 - pairPort s m) then resend (settlePort s m) m else s) s

/-- A port without link: its pairs move to the other port (R306). -/
def portDown (s : State) (p : Nat) : State :=
  if linkUp s p then movePairs { s with net := { s.net with link := mset false s.net.link p false } } else s

/-- Both ports without link at once: no pair has a port to move to (Table 14.2). -/
def portsDown (s : State) : State :=
  { s with net := { s.net with link := mset false (mset false s.net.link 0 false) 1 false } }

/-- A port that gains link: pairs of a port without link move to it. -/
def portUp (s : State) (p : Nat) : State :=
  if linkUp s p then s
  else movePairs { s with net := { s.net with link := mset false s.net.link p true, linkSince := mset 0 s.net.linkSince p s.elapsed } }

/-- PORT_LINK_DOWN (R306). -/
def execPortLinkDown (p : BitVec 1) (s : State) : Host.Outcome State Fault Refusal :=
  .next (if hasNet s then portDown s p.toNat else s)

/-- PORT_LINK_RETURN: the named port has had link for 1 s and its pairs return to it (R306). -/
def execPortLinkReturn (p : BitVec 1) (s : State) : Host.Outcome State Fault Refusal :=
  let k := p.toNat
  .next (if hasNet s && (domOf s (268 + k)).st == .on && !s.clk.coast then
    let s := portUp s k
    let s := advanceTo s (mget 0 s.net.linkSince k + 1000 * Config.ms)
    (List.range 64).foldl (fun s m => if peerPort s m = k then modPeer s m (fun q => { q with moved := false }) else s) s
  else s)

/-! Commands of the operator (R301, R304, R321, R334). -/

/-- ENABLE of NET_POD_CTRL stored. -/
def setPodEnable (s : State) (v : Bool) : State := setReg s 0xC00000 (putBits (reg s 0xC00000) 0 1 (b2n v))

/-- POD_ENABLE: a worker joins and the manager manages, each under its next incarnation (R301). -/
def execPodEnable (s : State) : Host.Outcome State Fault Refusal :=
  .next (viaHost s (if hasNet s && !bit (reg s 0xC00000) 0 then
    let s := setPodEnable s true
    if s.net.pod = .alone then
      let s := { s with net := { s.net with incarn := s.net.incarn + 1 } }
      if selfMember s = 0 then { s with net := { s.net with pod := .managing, syncAt := s.elapsed } }
      else sendRequest { s with net := { s.net with pod := .joining } }
    else s
  else s))

/-- POD_DISABLE: sends still queued end, and the worker leaves once its frames are acknowledged; the manager sends LEAVE to every worker (R304,
Table 12.1). -/
def execPodDisable (s : State) : Host.Outcome State Fault Refusal :=
  .next (viaHost s (if bit (reg s 0xC00000) 0 then
    let s := setPodEnable s false
    match s.net.pod with
    | .alone => s
    | .joining => { s with net := { s.net with pod := .alone } }
    | .member =>
      let s := s.netDQ.foldl (fun s i => match activeOf s i with
        | some a => endDesc s i .peerUnreachable .net (bits a.raw 64 6) 0
        | none => s) s
      leaveIfDone { s with net := { s.net with leaving := some s.elapsed } }
    | .managing => enterAlone ((members s).foldl (fun s m => sendJoin s m 5 0 false []) s)
  else s))

/-- LEAVE_WAIT_EXPIRY (R304). -/
def execLeaveWaitExpiry (s : State) : Host.Outcome State Fault Refusal :=
  .next (match s.net.leaving with
    | some t => leavePod (advanceTo s (t + 10 * Config.ms))
    | none => s)

/-- NET_EXPEL (R304). -/
def execNetExpel (m : BitVec 6) (s : State) : Host.Outcome State Fault Refusal :=
  .next (viaHost s (if isManager s && (peerOf s m.toNat).member then losePeer (sendJoin s m.toNat 5 0 false []) m.toNat 0x33 else s))

/-- NET_READMIT (R334). -/
def execNetReadmit (m : BitVec 6) (s : State) : Host.Outcome State Fault Refusal :=
  let k := m.toNat
  .next (viaHost s (if isManager s then
    let s := ((members s ++ [k]).dedup).foldl (fun s j => sendJoin s j 6 k false []) s
    if (peerOf s k).quarantined then
      logMember (modPeer s k (fun p => { p with quarantined := false, violations := 0, vStart := none })) 0x32 k
    else s
  else s))

/-- NET_LOST_CLEAR (R321). -/
def execNetLostClear (ten : BitVec 8) (m : BitVec 6) (all : Bool) (s : State) : Host.Outcome State Fault Refusal :=
  .next (viaHost s (modTen s ten.toNat (fun x => { x with netLost := if all then 0 else x.netLost &&& ~~~(1#64 <<< m.toNat) })))

end Sys2Proof.Machine
end

