-- ==== Sys2Proof/Machine/Domain.lean ====
section
/-! DEFINITION. Power domains: requests, ramps, the start of a drain (R367-R372, R469). -/

namespace Sys2Proof.Machine

/-- A domain that the module has: the ports belong to an RL-512N (R367). -/
def domPresent (s : State) (d : Nat) : Bool := decide (d < 268) || (decide (d < 270) && s.variant == .rl512N)

/-- PWR_DOM_REQ of a domain: 1 unless software has cleared it (Table 18.3). -/
def domReq (s : State) (d : Nat) : Bool := mget true s.pwr.req d

/-- Whether a domain lies in a stack that failed training, which is left without power (R397). -/
def domDead (s : State) (d : Nat) : Bool := decide (d < 256) && s.boot.deadStack == some (d / 32)

/-- The ramp time of a domain in ticks (R371). -/
def rampTime (d : Nat) : Nat := if d < 256 then 4 * Config.us else if d < 268 then 2 * Config.us else 20 * Config.us

/-- Descriptors held for a domain that is not ON start their count (R56, R370). -/
def markWaits (s : State) : State := (s.active.map (·.id)).foldl markDomainWait s

/-- Descriptors that no longer wait for a domain have no count. -/
def clearWaits (s : State) : State :=
  { s with active := s.active.map (fun a => if a.toFinish.any (waitsDomain s a) then a else { a with domSince := none }) }

/-- The units of a group whose domain reaches ON: every array zero; a retired bank's unit stays OFF (R100, R357, log entry 34). -/
def unitsOn (s : State) (g : Nat) : State :=
  (List.range 16).foldl (fun s i =>
    if bankRetired s (16 * g + i) then s
    else setUnit s (16 * g + i) { BankUnit.off with st := .idle, idleSince := s.ck, runSince := s.ck }) s

/-- A domain reaches ON; a port's link then trains, but not that of a port disabled meanwhile, on which no work starts (R368, R369, R371). -/
def domainReady (s : State) (d : Nat) : State :=
  let s := setDom s d { domOf s d with st := .on, reEnable := false, since := s.elapsed, asked := false }
  let s := if d < 256 then unitsOn s d else if 268 ≤ d ∧ s.clk.coast = false ∧ domReq s d = true then portUp s (d - 268) else s
  clearWaits s

/-- A domain that is ON begins to drain: what waits for it starts its count, a port sends no new frame (R368, R370). -/
def beginDrain (s : State) (d : Nat) : State :=
  let s := markWaits (setDom s d { domOf s d with st := .draining, since := s.elapsed })
  if 268 ≤ d then portDown s (d - 268) else s

/-- A domain that is ON and no longer requested drains, unless its group is in a switch (R368, R372). -/
def settleDomain (s : State) (d : Nat) : State :=
  if (domOf s d).st == .on && !domReq s d && !(decide (d < 256) && inTransit s 0 d) then beginDrain s d else s

/-- Whether a domain wants to ramp: present, requested, not in a stack that failed training, OFF, its request not yet made (R368, R397). -/
def wantsRamp (s : State) (d : Nat) : Bool := domPresent s d && domReq s d && !domDead s d && (domOf s d).st == .off && !(domOf s d).asked

/-- Whether a domain may ask to ramp: start-up has reached step 6, and after a reset the domains before it have asked (R368, R469). -/
def mayRamp (s : State) (d : Nat) : Bool :=
  wantsRamp s d && s.boot.phase == .sequence && decide (6 ≤ s.boot.step) &&
    (List.range d).all (fun c => decide (c < s.pwr.nextDom) || !wantsRamp s c)

/-- A ramp requested: a group asks its stack for 16 credits, the others begin at once (R371, R374). -/
def askRamp (s : State) (d : Nat) : State :=
  let s := { s with pwr := { s.pwr with nextDom := max s.pwr.nextDom (d + 1) } }
  if d < 256 then ballastAsk (setDom s d { domOf s d with asked := true }) (.ramp d 16)
  else setDom s d { domOf s d with st := .ramping, reEnable := false, since := s.elapsed }

/-- A group's ramp request withdrawn. -/
def dropRamp (s : State) (g : Nat) : State :=
  let s := setDom s g { domOf s g with asked := false }
  { s with pwr := { s.pwr with queues := mupd [] s.pwr.queues (g / 32) (fun q => q.filter (fun a =>
      match a.2 with
      | .ramp h _ => h != g
      | _ => true)) } }

/-- A request bit written (R369). -/
def writeReq (s : State) (d : Nat) (v : Bool) : State :=
  if domPresent s d then
    let s := { s with pwr := { s.pwr with req := mset true s.pwr.req d v } }
    let x := domOf s d
    match x.st with
    | .off => if v then s else setDom (if x.asked then dropRamp s d else s) d { domOf s d with reEnable := false, asked := false }
    | .ramping => s
    | .on => settleDomain s d
    | .draining => setDom s d { x with reEnable := v }
  else s

end Sys2Proof.Machine
end

