-- ==== Sys2Proof/Machine/Work.lean ====
section
/-! DEFINITION. The life of an accepted descriptor: queues, waits, starts, ends, program fetches, snapshots (R56-R61, R73, R256, R295,
R348). -/

namespace Sys2Proof.Machine

/-! Entering a queue (R73, R229). -/

/-- Whether a copy with ANY that found no engine ON is placed on an engine now (R226, R229). -/
def mayPlace (s : State) (a : Active) (x : Executor) : Bool :=
  match x with
  | .decant e => !a.placed && anyEngine s == some e.toNat
  | _ => false

/-- DESCRIPTOR_ENQUEUE: the oldest descriptor that may enter the executor's queue does so (R73); a copy with ANY is placed first, and then
stays with its engine (R226). -/
def execDescriptorEnqueue (x : Executor) (s : State) : Host.Outcome State Fault Refusal :=
  .next (match s.active.find? (fun a => mayEnter s a x || mayPlace s a x) with
    | none => s
    | some a =>
      if a.placed then enterPart s a x
      else
        let a := { a with placed := true, toEnter := [x], toFinish := [x] }
        let s := modActive s a.id (fun _ => a)
        if mayEnter s a x then enterPart s a x else s)

/-! Waits (R56, R256). -/

/-- The executor of a synchronisation descriptor (Table 3.4): 0 the sync unit, k + 1 the B-die home of stack k that its flag lies in. -/
def syncHome (s : State) (a : Active) : Nat :=
  if dOp a.raw = 0x0A ∨ flagHome s (dfield a.raw 16 2) = 9 then 0 else flagHome s (dfield a.raw 16 2)

/-- The descriptors at the head of an executor's queue: a waiting one holds those behind it (R57). The queue of the sync unit holds those of
the B-die homes too, each home its own executor (log entry 33). -/
def heads (s : State) (x : Executor) : List Active :=
  let q := (execQueue s x).filterMap (activeOf s)
  match x with
  | .sync => q.filter (fun a => (q.takeWhile (fun b => b.id != a.id)).all (fun b => syncHome s b != syncHome s a))
  | _ => q.take 1

/-- DESCRIPTOR_WAIT_REGISTER: a descriptor at the head registers its WAIT_FLAG at the home, and is released at once if the flag is set. -/
def execDescriptorWaitRegister (x : Executor) (s : State) : Host.Outcome State Fault Refusal :=
  .next (match (heads s x).find? (fun a => a.wait == .waiting) with
    | none => s
    | some a =>
      match dWait a.raw with
      | none => s
      | some f =>
        if !homeReached s f then dropParts s a.id .peerUnreachable 0
        else
          let s := modActive s a.id (fun b => { b with wait := .registered s.elapsed })
          registerWait s { flag := f, onClear := false, clr := dFlag a.raw 3, holder := .desc a.id, kite := none,
                           who := execWho x a.src, tag := dTag a.raw } a.ten (.desc a.id))

/-- The parts of a descriptor that wait for a domain to be ON end with WATCHDOG (R56, R100, R229). -/
def dropDomainParts (s : State) (a : Active) : State :=
  (a.toFinish.filter (waitsDomain s a)).foldl (fun s x =>
    match execDomain x with
    | some d => dropPart s a.id x .watchdog (0x80000000 + d)
    | none => s) s

/-- WAIT_LIMIT_EXPIRY: TEN_WAIT_LIMIT runs out on a wait for a flag, or for a domain (R56). -/
def execWaitLimitExpiry (id : Nat) (s : State) : Host.Outcome State Fault Refusal :=
  .next (match activeOf s id with
    | none => s
    | some a =>
      match a.wait, a.domSince with
      | .registered since, _ => dropParts (pastDue s (since + waitLimit s a.ten)) id .watchdog ((dWait a.raw).getD 0)
      | _, some since =>
        if a.toFinish.any (waitsDomain s a) then dropDomainParts (pastDue s (since + waitLimit s a.ten)) a else s
      | _, none => s)

/-! Starts (R57). -/

/-- A descriptor taken out of its executor's queue as it starts. -/
def beginDesc (s : State) (x : Executor) (a : Active) : State :=
  let s := setQueue s x (unqueue (execQueue s x) a.id)
  let s := modActive s a.id (fun b => { b with started := some s.time })
  traceEv s 0x03 a.ten (execSrc x) (dTag a.raw) 0 0

/-- A KITE_ARM: a kite of the tenancy watches the flag, or none is free (R64, R251, R252, log entry 45). -/
def startKite (s : State) (a : Active) : State :=
  let d := a.raw
  let f := dfield d 16 2
  match freeKiteFor s a.ten with
  | none => endDesc s a.id .range .sync 0 0xFFFFFFFF
  | some k =>
    let who : Who := { kind := 6, id := srcId a.src }
    let c := bit d (8 * 18)
    let kite : Kite := { owner := a.ten, flag := f, onClear := c, clr := false, notify := BitVec.ofNat 8 (dfield d 19 1),
                         cookie := BitVec.ofNat 32 (dfield d 20 4), who := who, tag := dTag d, armed := s.time }
    let s := modActive (setKite s k (some kite)) a.id (fun b => { b with answered := true, detail := k })
    let w : Watch := { flag := f, onClear := c, clr := false, holder := .host k, kite := some k, who := who, tag := dTag d }
    if flagHome s f = 9 ∧ c = true then
      let (i, s) := newWaiter s f (.host k) true false true true
      sendFlag s 0 a.ten (dTag d) f 4 false i
    else registerWait s w a.ten (.host k)

/-- The sync unit starts a descriptor (R64, R249, R251, R260). -/
def startSync (s : State) (a : Active) : State :=
  let d := a.raw
  let f := dfield d 16 2
  let s := beginDesc s .sync a
  match dOp d with
  | 0x0A =>
    let n := bits d (8 * 16) 10
    let s := initBarrier s n a.ten (dfield d 18 2) (dfield d 20 4) (dTag d) (initGroups d) (BitVec.ofNat 64 (dfield d 56 8))
    modActive s a.id (fun b => { b with answered := true, detail := (barOf s n).parts.length })
  | op =>
    if !homeReached s f then endDesc s a.id .peerUnreachable .sync 0 0
    else if op = 0x09 then startKite s a
    else
      issueFlagOp s { op := if op = 0x07 then .set else .clear, flag := f, ten := a.ten, who := execWho .sync a.src, tag := dTag d,
                      reply := .desc a.id }

/-- Groups that a tenancy owns. -/
def groupsOwned (s : State) (t : Nat) : List Nat := (List.range 256).filter (ownsGroup s t)
/-- The bit map of presses that a tenancy owns: engines in [7:0], stack presses in [15:8]. -/
def pressMap (s : State) (t : Nat) : Nat :=
  (List.range 16).foldl (fun n e => if mget none s.pressOwner e = some t then n + 2 ^ e else n) 0

/-- The meter snapshot record (Table 11.8); in the cycle of a clear it holds the meters before it (R450). -/
def snapshot (s : State) (t seq tag : Nat) (operator : Bool) : List Byte :=
  let x := tenOf s t
  let (meters, sat) := match x.before with
    | some (ck, m, v) => if ck = s.ck then (m, v) else (x.meters, x.sat)
    | none => (x.meters, x.sat)
  leBytes 8 s.time ++ leBytes 4 seq ++ leBytes 1 t ++ leBytes 1 (b2n x.xlat + 2 * b2n operator) ++ leBytes 2 sat.toNat
    ++ leBytes 2 (groupsOwned s t).length ++ leBytes 2 (pressMap s t) ++ leBytes 2 tag ++ leBytes 42 0
    ++ (List.range 16).flatMap (fun i => leBytes 8 (mget 0 meters i))

/-- A tenancy's next snapshot number taken. -/
def nextSeq (s : State) (t : Nat) : Nat × State :=
  let q := ((tenOf s t).snapSeq + 1) % 2 ^ 32
  (q, modTen s t (fun x => { x with snapSeq := q }))

/-- The meter unit starts a METER_SNAP: its record leaves for RESULT_ADDR (R57, R295). -/
def startMeter (s : State) (a : Active) : State :=
  let s := beginDesc s .meter a
  let (q, s) := nextSeq s a.ten
  let s := modActive s a.id (fun b => { b with detail := q })
  hostWriteIssue s a.ten (.snapshot a.id) (dfield a.raw 16 8) (snapshot s a.ten q (dTag a.raw).toNat false) []

/-- A descriptor at a head whose wait is over starts. -/
def startDesc (s : State) (x : Executor) : State :=
  match x with
  | .unit b => askStart s b
  | .press e => pressStart s e
  | x =>
    match (heads s x).find? waitOver with
    | none => s
    | some a =>
      if partHalted s x || !domainOn s x then s
      else match x with
        | .decant e => startCopy s e a
        | .scrubber => startScrub s a
        | .net => startNet s a
        | .meter => startMeter s a
        | .sync => startSync s a
        | .dispatcher => beginDesc s .dispatcher a
        | _ => s

/-- DESCRIPTOR_START (R57). -/
def execDescriptorStart (x : Executor) (s : State) : Host.Outcome State Fault Refusal := .next (startDesc s x)

/-! Ends (R57). -/

/-- The oldest started descriptor of an executor that a test selects completes OK with its DETAIL. -/
def completeStarted (s : State) (x : Executor) (ok : Active → Bool) : State :=
  match s.active.find? (fun a => a.toFinish.contains x && a.started.isSome && ok a) with
  | some a => finishPart s a.id x .ok a.detail
  | none => s

/-- WORK_COMPLETE: the executor's finished work is reported (R57, R106, R234). -/
def execWorkComplete (x : Executor) (s : State) : Host.Outcome State Fault Refusal :=
  .next (match x with
    | .unit b => reportUnit s b
    | .press e => reportPress s e
    | .decant e => completeCopy s e
    | .scrubber => completeScrub s
    | .net => completeSend s
    | .meter => s
    | .sync => completeStarted s .sync (fun a => a.answered)
    | .dispatcher => completeStarted s .dispatcher (fun _ => true))

/-! Program fetches (R61, R63, R348). -/

/-- A word of a program, or the status of one that cannot be read (R348). -/
def programWord (r : Except Status (List (Byte × Bool))) : Except Status Word64 :=
  match r with
  | .error st => .error st
  | .ok bs => if bs.any (·.2) then .error .dataUncorrectable else .ok (BitVec.ofNat 64 (leNat (bs.map (·.1))))

/-- The words of a program that lies in a region, every one read, or the status of the first that cannot be (R348). -/
def readProgram (n : Nat) (s : State) (rd : Reader) (region : Nat) (off : Nat) : Except Status (List Word64) × State :=
  match n with
  | 0 => (.ok [], s)
  | k + 1 =>
    let (w, s) := regionRead s rd region 0 (off : Int) 8
    let (ws, s) := readProgram k s rd region (off + 8)
    match programWord w, ws with
    | .error st, _ => (.error st, s)
    | .ok _, .error st => (.error st, s)
    | .ok v, .ok vs => (.ok (v :: vs), s)

/-- Pairs of banks that the units of a load lie in. -/
def loadPairs (a : Active) : List Nat := (a.toFinish.filterMap (fun x => match x with | .unit b => some (b.toNat / 64) | _ => none)).dedup

/-- A program has arrived whole: it is charged by the die-bus beat, and its parts enter their queues (Table 11.7). -/
def programHere (s : State) (a : Active) (ws : List Word64) : State :=
  let s := modActive s a.id (fun b => { b with prog := some ws })
  let pj := (loadPairs a).length * ((ws.length + 7) / 8) * 15
  enterAll (if pj = 0 then s else meter s a.ten 8 0 pj) a.id

/-- DETAIL of a load that ends before its parts are sent (R419). -/
def loadDetail (a : Active) : Nat := if dOp a.raw = 3 ∧ tScope a.raw = 0 then 1 + tBuid a.raw * 2 ^ 16 else 0

/-- PROGRAM_FETCH_RETURN: the words of host memory arrive, or the module has read its own memory (R348). -/
def execProgramFetchReturn (id : Nat) (words : Option (List Word64)) (s : State) : Host.Outcome State Fault Refusal :=
  .next (match activeOf s id with
    | none => s
    | some a =>
      let d := a.raw
      if !isLoad d || a.prog.isSome then s
      else if dfield d 17 1 = 0 then
        match words with
        | some ws => if ws.length = dfield d 20 2 then programHere s a ws else s
        | none => failProgram s id
      else
        let rd : Reader := { src := srcNum 8 4, tag := some (dTag d), ten := some a.ten }
        match readProgram (dfield d 20 2) s rd (bits d (8 * 22) 6) (dfield d 24 8) with
        | (.ok ws, s) => programHere s a ws
        | (.error st, s) => endDesc s id st .dispatcher 0 (loadDetail a))

end Sys2Proof.Machine
end

