-- ==== Sys2Proof/Machine/Tenancy.lean ====
section
/-! DEFINITION. Tenancies: creation, switches of objects, translation entries, meters, rings (R274-R295, R448-R450). -/

namespace Sys2Proof.Machine

/-! All work of an executor ended at once. -/

/-- The parts of accepted descriptors that have not yet entered an executor's queue end with a status. -/
def endEntering (s : State) (x : Executor) (st : Status) : State :=
  (s.active.filter (fun a => a.toEnter.contains x)).foldl (fun s a => dropPart s a.id x st 0) s

/-- The running task, the load in progress and every queued descriptor of a core end with a status (R107, R284, R357). -/
def endCoreWork (s : State) (x : CoreId) (st : Status) : State :=
  let s := cancelTask s x st st.faults
  let s := cutLoad s x st
  (procOf s x).queue.foldl (fun s i => dropPart s i (ofCore x) st 0) s

/-- Pairs of a unit's write queue that have begun are completed, and the others discarded (R107). -/
def drainCancelled (s : State) (b : Nat) : State :=
  let s := ((unitOf s b).wq.filter (fun p => p.begun && !p.done)).foldl (fun s p => settlePair s b p) s
  modUnit s b (fun u => { u with wq := [] })

/-! Creation and removal (R274-R276). -/

/-- A TEN_ write dropped: 0x03_06. -/
def dropTen (s : State) (t o value : Nat) : State := logSetup s 2 0x06 (tenReg t o) (some t) value

/-- Region entries that are valid and owned by a tenancy. -/
def regionsOwned (s : State) (t : Nat) : List Nat :=
  (List.range 64).filter (fun n => (regionOf s n).valid && (regionOf s n).owner == t)

/-- Translation entries that are valid now or become so when a change takes effect. -/
def xlatAll (s : State) : List XEntry := s.xlat ++ s.xlatNext.flatMap (fun e => e.2.2)

/-- Whether a tenancy owns an object of Table 11.1. -/
def ownsObject (s : State) (t : Nat) : Bool :=
  s.groupOwner.any (fun e => e.2 == some t) || s.blockOwner.any (fun e => e.2 == some t) ||
    s.barOwner.any (fun e => e.2 == some t) || s.pressOwner.any (fun e => e.2 == some t)

/-- Whether a ring is idle (R48). -/
def ringIdle (s : State) (t j : Nat) : Bool :=
  let r := ringOf s t j
  r.head == r.tail && (decide (4 ≤ j) ||
    (let src := Source.ring (BitVec.ofNat 2 j)
     (outstanding s t src).isEmpty && !s.fetched.any (fun f => f.ten == t && f.src == src)
       && !s.fetches.any (fun f => f.ten == t && f.ring == j)))

/-- MODE written, in a write of a value: it takes effect while the tenancy owns no group, no valid region and no translation entry (R275). -/
def writeMode (s : State) (t : Nat) (mode : Bool) (value : Nat) : State :=
  if (groupsOwned s t).isEmpty && (regionsOwned s t).isEmpty && !(xlatAll s).any (fun e => e.ten == t) then
    modTen s t (fun x => { x with xlat := mode })
  else dropTen s t 0 value

/-- Every ring of a tenancy disabled. -/
def disabledRings (x : Tenancy) : SMap Ring :=
  (List.range 6).foldl (fun m j => mset Ring.empty m j { mget Ring.empty x.rings j with enabled := false }) x.rings

/-- A tenancy created (R274). -/
def createTenancy (s : State) (t : Nat) (mode : Bool) : State :=
  let x := tenOf s t
  let s := [0x08, 0x10, 0x18, 0x20].foldl (fun s o => setReg s (tenReg t o) (barReset (tenReg t o))) s
  setTen s t { Tenancy.empty with enabled := true, xlat := mode, rings := disabledRings x, netLost := x.netLost, swResult := x.swResult,
                                  swKind := x.swKind, swIndex := x.swIndex, swBusy := x.swBusy, xBusy := x.xBusy, snapBusy := x.snapBusy }

/-- Whether a tenancy may be removed (R276). -/
def mayDisable (s : State) (t : Nat) : Bool :=
  !ownsObject s t && (regionsOwned s t).isEmpty && !(xlatAll s).any (fun e => e.ten == t) && kitesHeld s t == 0
    && (List.range 6).all (ringIdle s t)

/-- TEN_CTRL written with ENABLE, MODE and its value: a tenancy is created, one that exists is removed if it may be, or its MODE changes
(R274-R276). -/
def tenCtrlWrite (s : State) (t : Nat) (mode en : Bool) (value : Nat) : State :=
  if (tenOf s t).enabled then
    if en then writeMode s t mode value
    else if mayDisable s t then modTen s t (fun x => { x with enabled := false, xlat := mode })
    else dropTen s t 0 value
  else if en then createTenancy s t mode
  else writeMode s t mode value

/-- TEN_CTRL_ENABLE: ENABLE and MODE written (R274, R275). -/
def execTenCtrlEnable (ten : BitVec 8) (mode : Bool) (s : State) : Host.Outcome State Fault Refusal :=
  .next (viaHost s (tenCtrlWrite s ten.toNat mode true (1 + 2 * b2n mode)))

/-- TEN_CTRL_DISABLE: ENABLE written 0 with MODE as it stands (R276). -/
def execTenCtrlDisable (ten : BitVec 8) (s : State) : Host.Outcome State Fault Refusal :=
  let mode := (tenOf s ten.toNat).xlat
  .next (viaHost s (tenCtrlWrite s ten.toNat mode false (2 * b2n mode)))

/-- TEN_CTRL_MODE: MODE written with ENABLE as it stands (R275). -/
def execTenCtrlMode (ten : BitVec 8) (mode : Bool) (s : State) : Host.Outcome State Fault Refusal :=
  let en := (tenOf s ten.toNat).enabled
  .next (viaHost s (tenCtrlWrite s ten.toNat mode en (b2n en + 2 * b2n mode)))

/-! Switches (R279-R285). -/

/-- The owner of an object: KIND and INDEX of Table 18.7. -/
def objectOwner (s : State) (kind index : Nat) : Option Nat :=
  match kind with
  | 0 => mget none s.groupOwner index
  | 1 => mget none s.blockOwner index
  | 2 => mget none s.barOwner index
  | 3 => mget none s.pressOwner index
  | _ => mget none s.pressOwner (8 + index)

/-- The state with an object's owner recorded. -/
def setOwner (s : State) (kind index : Nat) (o : Option Nat) : State :=
  match kind with
  | 0 => { s with groupOwner := mset none s.groupOwner index o }
  | 1 => { s with blockOwner := mset none s.blockOwner index o }
  | 2 => { s with barOwner := mset none s.barOwner index o }
  | 3 => { s with pressOwner := mset none s.pressOwner index o }
  | _ => { s with pressOwner := mset none s.pressOwner (8 + index) o }

/-- KIND is reserved, INDEX is outside its range, or the group is wholly retired. -/
def badIndex (s : State) (kind index : Nat) : Bool :=
  match kind with
  | 0 => decide (256 ≤ index) || (List.range 16).all (fun i => bankRetired s (16 * index + i))
  | 1 => decide (256 ≤ index)
  | 2 => decide (1024 ≤ index)
  | 3 => decide (8 ≤ index)
  | 4 => decide (8 ≤ index)
  | _ => true

/-- A group is covered by a valid bank-view region, or by a bank-view translation entry of its owner (Table 11.2). -/
def covered (s : State) (kind index : Nat) (owner : Nat) : Bool :=
  kind == 0 &&
    ((List.range 64).any (fun n =>
        let r := regionOf s n
        r.valid && !r.linear && decide (r.gFirst ≤ index) && decide (index < r.gFirst + r.gCount)) ||
      (xlatAll s).any (fun e => e.ten == owner && !e.linear && decide (e.gFirst ≤ index) && decide (index < e.gFirst + e.gCount)))

/-- The RESULT that a TAKE or GIVE ends with at once: none starts a switch (Table 11.2, R279, R280). -/
def switchResult (s : State) (t kind index : Nat) (give : Bool) : Option Nat :=
  if !(tenOf s t).enabled then some 4
  else if badIndex s kind index then some 5
  else if inTransit s kind index then some 1
  else match objectOwner s kind index with
    | none => if give then some 3 else some 0
    | some o =>
      if !give ∧ o = t then some 0
      else if give ∧ o ≠ t then some 3
      else if covered s kind index o then some 2
      else none

/-- TEN_TAKE or TEN_GIVE written, in a write of a value. -/
def switchWrite (s : State) (t kind index : Nat) (give : Bool) (value : Nat) : State :=
  if (tenOf s t).swBusy then dropTen s t (if give then 0x208 else 0x200) value
  else
    let s := modTen s t (fun x => { x with swKind := kind, swIndex := index })
    match switchResult s t kind index give with
    | some r =>
      let s := if r = 0 then setOwner s kind index (some t) else s
      modTen s t (fun x => { x with swResult := r })
    | none =>
      let old := (objectOwner s kind index).getD t
      let s := { s with switches := s.switches ++ [{ ten := t, kind := kind, index := index, give := give, old := old }] }
      modTen s t (fun x => { x with swBusy := true })

/-- TEN_TAKE (R279). -/
def execTenTake (ten : BitVec 8) (kind : BitVec 3) (index : BitVec 10) (s : State) : Host.Outcome State Fault Refusal :=
  .next (viaHost s (switchWrite s ten.toNat kind.toNat index.toNat false (kind.toNat + 2 ^ 16 * index.toNat)))
/-- TEN_GIVE (R279). -/
def execTenGive (ten : BitVec 8) (kind : BitVec 3) (index : BitVec 10) (s : State) : Host.Outcome State Fault Refusal :=
  .next (viaHost s (switchWrite s ten.toNat kind.toNat index.toNat true (kind.toNat + 2 ^ 16 * index.toNat)))

/-- The kites of a unit and its arrivals in flight removed (R271, Table 11.3 step 3). -/
def clearUnitSync (s : State) (b : Nat) : State :=
  let s := dropKites s (fun x => x.who == coreWho (.unit (buid b)))
  { s with sync := { s.sync with arrivals := s.sync.arrivals.filter (fun a => a.unit != b) } }

/-- The running and queued work of a unit cancelled, and the unit drained (R107, Table 11.3 step 2). -/
def cancelUnit (s : State) (b : Nat) : State := drainCancelled (endCoreWork s (.unit (buid b)) .cancelledBySwitch) b

/-- An ASLEEP unit's wake admitted, and the unit's arrays zeroed (Table 11.3 steps 4-6). -/
def clearUnit (s : State) (b : Nat) : State :=
  if (unitOf s b).st = .off then s
  else
    let s := ballastDrop s b
    let s := if (unitOf s b).st = .asleep then clearCredit s b else s
    let s := enterState s b .idle
    setUnit s b { BankUnit.off with st := .idle, idleSince := s.ck, runSince := s.ck }

/-- Barriers of the departing tenancy with a participant in the group break with cause SWITCH, and the early-arrival slots of its units are
emptied (R271). -/
def clearBarriers (s : State) (g old : Nat) : State :=
  (List.range 1024).foldl (fun s n =>
    let b := barOf s n
    let s := if b.early.any (fun e => groupOf e.1 == g) then setBar s n { b with early := b.early.filter (fun e => groupOf e.1 != g) } else s
    if b.st != .uninit && mget none s.barOwner n == some old && b.parts.any (fun e => groupOf e.1 == g) then
      breakBarrier s n 2 .cancelledBySwitch
    else s) s

/-- A step of a group's clearing taken for each of its 16 units. -/
def eachUnit (s : State) (g : Nat) (f : State → Nat → State) : State := (List.range 16).foldl (fun s i => f s (16 * g + i)) s

/-- A departing group cleared, step by step (Table 11.3). -/
def clearGroup (s : State) (g old : Nat) : State :=
  let s := eachUnit s g (fun s b => endEntering s (.unit (buid b)) .cancelledBySwitch)
  let s := eachUnit s g cancelUnit
  let s := clearBarriers (eachUnit s g clearUnitSync) g old
  eachUnit s g clearUnit

/-- Flags that a descriptor acts on: not its SIGNAL_FLAG (log entry 47). -/
def actFlags (d : Descriptor) : List Nat :=
  match dOp d with
  | 0x07 => [dfield d 16 2] | 0x08 => [dfield d 16 2] | 0x09 => [dfield d 16 2] | 0x0A => [dfield d 18 2] | _ => []

/-- Flags that an accepted descriptor still waits for or acts on. -/
def workFlags (a : Active) : List Nat := (if waitOver a then [] else (dWait a.raw).toList) ++ actFlags a.raw

/-- The flag that a core waits on or tests, or did when its task ended in the present cycle. -/
def napFlag (s : State) (x : CoreId) : Option Nat :=
  match waitsOn s x with
  | some (.flag f _) => some f
  | some (.kite f _ _) => some f
  | some (.poll f _) => some f
  | some (.test f _ _) => some f
  | some (.barrier _) => none
  | none => none

/-- A departing flag block cleared: waiting work ends, kites are freed without a message, every flag reads clear (R271, R284). -/
def clearBlock (s : State) (blk : Nat) : State :=
  let s := (s.active.filter (fun a => a.started.isNone && (workFlags a).any (fun f => f / 256 == blk))).foldl
    (fun s a => dropParts s a.id .cancelledBySwitch 0) s
  let s := (s.active.filter (fun a => a.toFinish.contains .sync && (workFlags a).any (fun f => f / 256 == blk))).foldl
    (fun s a => endDesc s a.id .cancelledBySwitch .sync 0 0) s
  let s := (s.units.map (fun e => CoreId.unit (buid e.1)) ++ s.presses.map (fun e => CoreId.press (eng e.1))).foldl (fun s x =>
    match napFlag s x with
    | some f => if f / 256 = blk then cancelWait s x f else s
    | none => s) s
  let s := dropKites s (fun x => x.flag / 256 == blk)
  { s with sync := { s.sync with
             watches := s.sync.watches.filter (fun w => w.flag / 256 != blk)
             flags := s.sync.flags.filter (fun e => e.1 / 256 != blk)
             last := s.sync.last.filter (fun e => e.1 / 256 != blk)
             msgs := s.sync.msgs.filter (fun m => m.flag / 256 != blk) }
           net := { s.net with remote := s.net.remote.filter (fun r => r.flag / 256 != blk) } }

/-- A departing barrier cleared (R284). -/
def clearBarrier (s : State) (n : Nat) : State :=
  let s := (s.active.filter (fun a => dOp a.raw == 0x0A && a.started.isNone && bits a.raw (8 * 16) 10 == n)).foldl
    (fun s a => dropParts s a.id .cancelledBySwitch 0) s
  let s := discardBarrier s n .cancelledBySwitch
  { s with sync := { s.sync with arrivals := s.sync.arrivals.filter (fun a => a.bar != n) } }

/-- A press that loses its state: its work ends, records in flight to it are dropped, everything is zeroed (R231, R284, R370). -/
def clearPress (s : State) (e : Nat) (st : Status) : State :=
  let x := CoreId.press (eng e)
  let s := match (procOf s x).task with | some t => chargePress s e t | none => s
  let s := endCoreWork (endEntering s (.press (eng e)) st) x st
  let s := (pressOf s e).input.foldl (fun s r =>
    releaseSender (logDrop s e r.2.source (some r.2.tag) (some r.2.ten)) r.2 .notOwner) (modPress s e (fun p => { p with input := [] }))
  let s := dropLanding s e (fun _ => true)
  let pending := (pressOf s e).hostPending
  setPress s e { Press.empty with hostPending := pending }

/-- An object cleared as it leaves its owner. -/
def clearObject (s : State) (kind index old : Nat) : State :=
  match kind with
  | 0 => clearGroup s index old
  | 1 => clearBlock s index
  | 2 => clearBarrier s index
  | 3 => clearPress s index .cancelledBySwitch
  | _ => clearPress s (8 + index) .cancelledBySwitch

/-- SWITCH_DONE: the object is cleared, its new owner recorded, RESULT set and the switch entered in the log (R282, R284). -/
def execSwitchDone (ten : BitVec 8) (s : State) : Host.Outcome State Fault Refusal :=
  let t := ten.toNat
  .next (match s.switches.find? (fun w => w.ten == t) with
    | none => s
    | some w =>
      let s := clearObject s w.kind w.index w.old
      let s := setOwner s w.kind w.index (if w.give then none else some t)
      let s := { s with switches := s.switches.filter (fun v => v != w) }
      let s := if w.kind = 0 then settleDomain s w.index else s
      let s := modTen s t (fun x => { x with swBusy := false, swResult := 0 })
      logAdd s 1 (srcNum 0xB (tenReg t 0 / 65536)) 0x07 0x01 none (some t) (leBytes 1 w.kind ++ leBytes 2 w.index ++ leBytes 1 0))

/-! Translation entries (R286-R290, R449). -/

/-- The entry that TEN_XLAT_TPAGE and TEN_XLAT_ENTRY hold. -/
def xlatReg (s : State) (t : Nat) : XEntry :=
  let e := reg s (tenReg t 0x408)
  let linear := bit e 1
  { ten := t, linear := linear, write := bit e 2, tpage := bits (reg s (tenReg t 0x400)) 0 27,
    ppage := if linear then bits e 8 18 else bits e 8 6,
    gFirst := if linear then 0 else bits e 32 8, gCount := if linear then 1 else bits e 40 9 }

/-- Two entries of one tenancy, view and page. -/
def XEntry.samePage (a b : XEntry) : Bool := a.ten == b.ten && a.linear == b.linear && a.tpage == b.tpage
/-- Group ranges that intersect. -/
def XEntry.meets (a b : XEntry) : Bool := a.samePage b && decide (a.gFirst < b.gFirst + b.gCount) && decide (b.gFirst < a.gFirst + a.gCount)
/-- The same page and group range. -/
def XEntry.same (a b : XEntry) : Bool := a.samePage b && a.gFirst == b.gFirst && a.gCount == b.gCount

/-- Whether a byte of a linear page lies in a valid CHECKED linear-view region of another tenancy. -/
def pageChecked (s : State) (t page : Nat) : Bool :=
  (List.range 64).any (fun n =>
    let r := regionOf s n
    r.valid && r.linear && !r.xlat && r.owner != t && decide (r.base < (page + 1) * 2 ^ 21) && decide (2 ^ 21 * page < r.base + r.size))

/-- Whether R287 refuses to make an entry valid. -/
def xlatRefused (s : State) (e : XEntry) : Bool :=
  let all := xlatAll s
  (if e.linear then
    decide (2 ^ 21 * e.ppage < 4096 * split s) || all.any (fun x => x.ten != e.ten && x.linear && x.ppage == e.ppage) || pageChecked s e.ten e.ppage
   else
    decide (split s < (e.ppage + 1) * 2 ^ 21) || (List.range e.gCount).any (fun i => !ownsGroup s e.ten (e.gFirst + i))) ||
  all.any (fun x => x.meets e && !x.same e) ||
  (!all.any (fun x => x.same e) &&
    (decide (xlatQuota s e.ten ≤ (all.filter (fun x => x.ten == e.ten)).length) || decide (65536 ≤ all.length)))

/-- A translation command dropped: 0x03_0A. -/
def dropXlat (s : State) (t cmd : Nat) : State := logSetup s 2 0x0A (tenReg t 0x410) (some t) cmd

/-- A change of valid entries waits until cached copies have been dropped (R290). -/
def xlatPend (s : State) (t : Nat) (gone new : List XEntry) : State :=
  modTen { s with xlatNext := mset ([], []) s.xlatNext t (gone, new) } t (fun x => { x with xBusy := true })

/-- A command taken, in a write of a value: it clears ERROR and FOUND before it acts, and is dropped while BUSY. -/
def xlatCommand (s : State) (t value : Nat) (go : State → State) : State :=
  if (tenOf s t).xBusy then dropXlat s t value else go (modTen s t (fun x => { x with xError := false, xFound := false }))

/-- The command WRITE, in a write of a value (R287, R290, R449). -/
def xlatWrite (s : State) (t value : Nat) : State :=
  let e := xlatReg s t
  let old := s.xlat.filter (fun x => x.same e)
  if !bit (reg s (tenReg t 0x408)) 0 then (if old.isEmpty then s else xlatPend s t old [])
  else if xlatRefused s e then dropXlat (modTen s t (fun x => { x with xError := true })) t value
  else if old.isEmpty then { s with xlat := s.xlat ++ [e] }
  else xlatPend s t old [e]

/-- XLAT_WRITE (R287, R290, R449). -/
def execXlatWrite (ten : BitVec 8) (s : State) : Host.Outcome State Fault Refusal :=
  .next (viaHost s (xlatCommand s ten.toNat 1 (fun s => xlatWrite s ten.toNat 1)))

/-- The entry of least GROUP_FIRST. -/
def firstByGroup (l : List XEntry) : Option XEntry :=
  l.foldl (fun b e => match b with
    | none => some e
    | some x => if e.gFirst < x.gFirst then some e else some x) none

/-- TEN_XLAT_ENTRY with a valid entry's fields. -/
def xlatImage (e : XEntry) : Word64 :=
  BitVec.ofNat 64 (1 + 2 * b2n e.linear + 4 * b2n e.write + e.ppage * 2 ^ 8 + 2 ^ 32 * e.gFirst + 2 ^ 40 * e.gCount)

/-- The command READ (R449). -/
def xlatRead (s : State) (t : Nat) : State :=
  match firstByGroup (s.xlat.filter (fun x => x.samePage (xlatReg s t))) with
  | some e => modTen (setReg s (tenReg t 0x408) (xlatImage e)) t (fun x => { x with xFound := true })
  | none => setReg s (tenReg t 0x408) (putBits (reg s (tenReg t 0x408)) 0 1 0)

/-- XLAT_READ (R449). -/
def execXlatRead (ten : BitVec 8) (s : State) : Host.Outcome State Fault Refusal :=
  .next (viaHost s (xlatCommand s ten.toNat 2 (fun s => xlatRead s ten.toNat)))

/-- The command INVALIDATE (R449). -/
def xlatInvalidate (s : State) (t : Nat) : State :=
  let hit := s.xlat.filter (fun x => x.meets (xlatReg s t))
  if hit.isEmpty then s else xlatPend (modTen s t (fun x => { x with xFound := true })) t hit []

/-- XLAT_INVALIDATE (R449). -/
def execXlatInvalidate (ten : BitVec 8) (s : State) : Host.Outcome State Fault Refusal :=
  .next (viaHost s (xlatCommand s ten.toNat 3 (fun s => xlatInvalidate s ten.toNat)))

/-- XLAT_BUSY_CLEAR: every cached copy of the changed entries is dropped and the change takes effect (R290). -/
def execXlatBusyClear (ten : BitVec 8) (s : State) : Host.Outcome State Fault Refusal :=
  let t := ten.toNat
  .next (if (tenOf s t).xBusy then
    let (gone, new) := mget ([], []) s.xlatNext t
    let pages := (gone.filter (fun e => !e.linear)).map (·.tpage)
    let s := { s with
      xlat := s.xlat.filter (fun e => !gone.contains e) ++ new, xlatNext := mdrop s.xlatNext t,
      units := s.units.map (fun e => if ownsGroup s t (groupOf e.1) then
        (e.1, { e.2 with ranges := e.2.ranges.filter (fun r => !pages.contains r.tpage) }) else e) }
    modTen s t (fun x => { x with xBusy := false })
  else s)

/-! Meters (R291-R295). -/

/-- TEN_METER_FLAG set by a saturation that finds no bit set (R292). -/
def meterFlagSet (s : State) (t : Nat) : State :=
  let f := meterFlag s t
  if f = 0xFFFF then s
  else if ownsFlag s t f then signalFlag s f t 0 { kind := 8, id := 1 }
  else logUnowned s (srcNum 8 1) none t f

/-- The saturation bits of a tenancy set in this cycle (R6). -/
def satSet (s : State) (t : Nat) : BitVec 16 := if (tenOf s t).satCk = s.ck then (tenOf s t).satNew else 0

/-- A count added to a meter: one that would pass the maximum stays there and sets its bit. -/
def addMeter (s : State) (t m n : Nat) : State :=
  let x := tenOf s t
  let v := mget 0 x.meters m + n
  if v < 2 ^ 64 then setTen s t { x with meters := mset 0 x.meters m v }
  else
    let b := 1#16 <<< m
    let u := setTen s t { x with meters := mset 0 x.meters m (2 ^ 64 - 1), sat := x.sat ||| b, satNew := satSet s t ||| b, satCk := s.ck }
    if x.sat = 0 then meterFlagSet u t else u

/-- Energy added in picojoules: meter 8 shows whole µJ (R294). -/
def addEnergy (s : State) (t pj : Nat) : State :=
  let x := tenOf s t
  let e := x.energy + pj
  addMeter (setTen s t { x with energy := e % 1000000 }) t 8 (e / 1000000)

/-- METER_REPORT: the oldest report reaches the meter unit (R291). -/
def execMeterReport (s : State) : Host.Outcome State Fault Refusal :=
  .next (match s.meterQ with
    | [] => s
    | e :: rest => addEnergy (addMeter { s with meterQ := rest } e.ten e.meter e.amount) e.ten e.pj)

/-- METER_US_TICK: each µs of elapsed time adds the groups owned, and those under throttle enforcement (Table 11.6); what units and presses
have worked since their last report is on its way (R291). -/
def execMeterUsTick (s : State) : Host.Outcome State Fault Refusal :=
  let s := settlePresses (settleRuns (nextMultiple s Config.us))
  .next ((existing s).foldl (fun s t =>
    let gs := groupsOwned s t
    addMeter (addMeter s t 9 gs.length) t 14 (gs.filter (fun g => throttled s (g / 32))).length) s)

/-- The meters and saturation bits that a snapshot of a cycle records, kept at a clear in it (R450). -/
def keptBefore (s : State) (x : Tenancy) : Option (Nat × SMap Nat × BitVec 16) :=
  match x.before with
  | some b => if b.1 = s.ck then some b else some (s.ck, x.meters, x.sat)
  | none => some (s.ck, x.meters, x.sat)

/-- TEN_METER_CLEAR (R293). -/
def execTenMeterClear (ten : BitVec 8) (s : State) : Host.Outcome State Fault Refusal :=
  let t := ten.toNat
  .next (viaHost s (logAdd (modTen s t (fun x => { x with before := keptBefore s x, meters := [], energy := 0, sat := 0, satNew := 0 }))
    1 (srcNum 8 1) 0x07 0x02 none (some t) []))

/-- TEN_METER_SAT_WRITE: a bit written 1 is cleared, unless it is set in the same cycle (R6, R292). -/
def execTenMeterSatWrite (ten : BitVec 8) (value : BitVec 16) (s : State) : Host.Outcome State Fault Refusal :=
  let t := ten.toNat
  .next (viaHost s (modTen s t (fun x => { x with sat := x.sat &&& (~~~value ||| satSet s t) })))

/-- TEN_SNAP_GO (R295, R450). -/
def execTenSnapGo (ten : BitVec 8) (s : State) : Host.Outcome State Fault Refusal :=
  let t := ten.toNat
  .next (viaHost s (if (tenOf s t).snapBusy then dropTen s t 0x8A0 1
    else
      let (q, s) := nextSeq s t
      let s := modTen s t (fun x => { x with snapBusy := true })
      hostWriteIssue s t .opSnapshot (snapAddr s t) (snapshot s t q 0 true) []))

/-! Rings (R48, R448). -/

/-- CQ_LOST clears when the completion ring is enabled, and held completions may then enter it (R80, R88). -/
def ringEnabled (s : State) (t j : Nat) : State :=
  if j = cq then settleAll (modTen s t (fun x => { x with cqLost := false, cqLostAt := none })) else s

/-- TEN_RINGj_CTRL written, in a write of a value. -/
def ringCtrl (s : State) (t j log2 : Nat) (enable : Bool) (value : Nat) : State :=
  let off := tenReg t (0x108 + 0x20 * j)
  if 6 ≤ j then s
  else if !ringIdle s t j then logSetup s 2 0x05 off (some t) value
  else if log2 < 6 ∨ 16 < log2 then logSetup s 2 0x06 off (some t) value
  else
    let r := ringOf s t j
    let start := ringStart s t j
    if enable ∧ r.enabled = false then
      ringEnabled (setRing s t j { r with enabled := true, log2 := log2, head := start, tail := start, held := false, phase := true }) t j
    else setRing s t j { r with enabled := enable, log2 := log2 }

/-- RING_ENABLE (R448). -/
def execRingEnable (ten : BitVec 8) (j : BitVec 3) (log2 : BitVec 5) (s : State) : Host.Outcome State Fault Refusal :=
  .next (viaHost s (ringCtrl s ten.toNat j.toNat log2.toNat true (1 + log2.toNat * 2 ^ 8)))
/-- RING_DISABLE (R448). -/
def execRingDisable (ten : BitVec 8) (j : BitVec 3) (log2 : BitVec 5) (s : State) : Host.Outcome State Fault Refusal :=
  .next (viaHost s (ringCtrl s ten.toNat j.toNat log2.toNat false (log2.toNat * 2 ^ 8)))

end Sys2Proof.Machine
end

