-- ==== Sys2Proof/Machine/Power.lean ====
section
/-! DEFINITION. Clocks and power: the reference, coasting and relock, bypass lanes, domain transitions, the cap loop (R359-R378, R394). -/

namespace Sys2Proof.Machine

/-- CLK_STATUS (Table 18.2). -/
def clkStatus (s : State) : Nat :=
  b2n s.clk.locked + 2 * b2n s.clk.coast + 4 * b2n s.clk.refGood
    + (List.range 8).foldl (fun n k => if mget false s.clk.openLanes k then n + 2 ^ (8 + k) else n) 0

/-- PWR_STATUS (Table 18.3). -/
def pwrStatus (s : State) : Nat := s.pwr.kCap + 256 * b2n s.pwr.capFloor

/-- A class 0x05 entry of the clock block. -/
def logClk (s : State) (level num : Nat) : State := logAdd s level (srcNum 0xC 0xFFF) 0x05 num none none (leBytes 4 (clkStatus s))
/-- A class 0x05 entry of a power domain. -/
def logPwr (s : State) (level num d : Nat) : State := logAdd s level (srcNum 0xC d) 0x05 num none none (leBytes 4 (pwrStatus s))

/-- The host link drops (Table 14.2). -/
def hostLinkDown (s : State) : State := if s.boot.linkUp then emit { s with boot := { s.boot with linkUp := false } } .linkDown else s
/-- The host link is trained (CXL_TRAIN_DONE). -/
def hostLinkUp (s : State) : State := if s.boot.linkUp then s else emit { s with boot := { s.boot with linkUp := true } } .linkUp

/-! The reference (R360-R363, R394). -/

/-- The root coasts: CLK_COAST set and logged; the host link and the ports lose their links (R362, Table 14.2). -/
def enterCoast (s : State) : State :=
  let s := { s with clk := { s.clk with coast := true, locked := false, refGood := false } }
  portsDown (hostLinkDown (logClk s 3 0x01))

/-- REFCLK_LOST: a second loss before the move drops the relock request (R362, R363). -/
def execRefclkLost (s : State) : Host.Outcome State Fault Refusal :=
  .next (if s.boot.phase == .off || s.boot.phase == .shutdown then s
    else if s.clk.coast then
      let asked := s.clk.relock
      let s := { s with clk := { s.clk with refGood := false, locked := false, relock := false } }
      if asked then logClk s 2 0x03 else s
    else if s.clk.locked then enterCoast s
    else { s with clk := { s.clk with refGood := false } })

/-- REF_GOOD (R363). -/
def execRefGood (s : State) : Host.Outcome State Fault Refusal :=
  .next (if s.boot.phase == .off || s.boot.phase == .shutdown then s else { s with clk := { s.clk with refGood := true } })

/-- A relock request while coasting (R363): it stands until the root moves, or the reference is lost again. -/
def relockRequest (s : State) : State := if s.clk.coast then { s with clk := { s.clk with relock := true } } else s

/-- The window counter set to module time mod 32, where the root locks for the first time (R373). -/
def firstLock (s : State) : State :=
  let ph := (s.time % 32 + 32 - s.ck % 32) % 32
  { s with pwr := { s.pwr with phase := ph, window := (s.ck + ph) / 32 } }

/-- The root moves back to locked speed, and the move is logged (R363). -/
def endCoast (s : State) : State :=
  let s := if s.clk.startCoast then firstLock s else s
  logClk { s with clk := { s.clk with coast := false, locked := true, relock := false, startCoast := false } } 1 0x02

/-- Whether the clock block works: neither unpowered nor in latched shutdown (R390). -/
def clockBlockUp (s : State) : Bool := s.boot.phase != .off && s.boot.phase != .shutdown

/-- PLL_LOCK: at step 2 module time starts at 0; a module that coasts before MEM_ACTIVE locks without a request; else the PLL has locked in
the background (R360, R361, R363, R394). -/
def execPllLock (s : State) : Host.Outcome State Fault Refusal :=
  .next (if s.boot.phase == .sequence && s.boot.step == 2 then
      { s with boot := { s.boot with step := 3 }, clk := { s.clk with locked := true, refGood := true }, time := 0, elapsed := 0, ck := 0,
               pwr := { s.pwr with phase := 0, window := 0 } }
    else if clockBlockUp s && s.clk.coast && s.clk.refGood then
      if !s.boot.memActive then endCoast s
      else if s.clk.relock then { s with clk := { s.clk with locked := true } }
      else s
    else s)

/-- RELOCK_SWITCH: the root moves back; MEM_ACTIVE and all data stay, and the host link then trains as at start-up (R363). -/
def execRelockSwitch (s : State) : Host.Outcome State Fault Refusal :=
  .next (if clockBlockUp s && s.clk.coast && s.clk.locked && s.clk.relock then endCoast s else s)

/-- REFCLK_START_TIMEOUT: start-up goes on at the coast setting (R394). -/
def execRefclkStartTimeout (s : State) : Host.Outcome State Fault Refusal :=
  .next (if s.boot.phase == .sequence && s.boot.step == 2 then
    logClk { s with boot := { s.boot with step := 3 }, time := 0, elapsed := 0, ck := 0,
                    clk := { s.clk with coast := true, locked := false, refGood := false, startCoast := true } } 3 0x01
  else s)

/-- BYPASS_CLOSE (R365). -/
def execBypassClose (stack : BitVec 3) (s : State) : Host.Outcome State Fault Refusal :=
  let k := stack.toNat
  .next (if mget false s.clk.openLanes k then
    { s with clk := { s.clk with openLanes := mset false s.clk.openLanes k false, closures := mupd 0 s.clk.closures k (fun n => satAdd (2 ^ 32 - 1) n 1) } }
  else s)

/-- BYPASS_REOPEN (R365). -/
def execBypassReopen (stack : BitVec 3) (s : State) : Host.Outcome State Fault Refusal :=
  .next (if s.boot.phase == .sequence && decide (6 ≤ s.boot.step) then
    { s with clk := { s.clk with openLanes := mset false s.clk.openLanes stack.toNat true } }
  else s)

/-! Domains (R368-R371). -/

/-- DOMAIN_MIN_OFF_EXPIRY (R368). -/
def execDomainMinOffExpiry (dom : BitVec 9) (s : State) : Host.Outcome State Fault Refusal :=
  let d := dom.toNat
  .next (if mayRamp s d then
    let s := advanceTo s ((domOf s d).since + 2 * Config.us)
    askRamp s d
  else s)

/-- DOMAIN_RAMP_DONE: ON; or, disabled meanwhile, ON for one cycle and then draining (R368, R369). -/
def execDomainRampDone (dom : BitVec 9) (s : State) : Host.Outcome State Fault Refusal :=
  let d := dom.toNat
  .next (if (domOf s d).st == .ramping then
    let s := domainReady (advanceTo s ((domOf s d).since + rampTime d)) d
    if domReq s d then s else settleDomain (tick s) d
  else s)

/-- Whether the units of a group have no work left. -/
def unitIdle (s : State) (b : Nat) : Bool :=
  let u := unitOf s b
  u.proc.task.isNone && u.proc.queue.isEmpty && u.proc.load.isNone && u.wq.isEmpty && !s.sync.arrivals.any (fun q => q.unit == b)

/-- Whether a domain's work has finished (R370). -/
def drained (s : State) (d : Nat) : Bool :=
  if d < 256 then (List.range 16).all (fun i => unitIdle s (16 * d + i))
  else if d < 264 then (procOf s (.press (eng (d - 256)))).task.isNone && (procOf s (.press (eng (d - 256)))).load.isNone
  else if d < 268 then (decantOf s (d - 264)).job.isNone
  else true

/-- A unit whose domain goes OFF (R100). -/
def unitOff (s : State) (b : Nat) : State := setUnit (ballastDrop (settleRun s b) b) b BankUnit.off

/-- A press engine that goes OFF: records landed and not freed, or landing, are discarded and entered under the tags they carry (R436), its queue and
the records at its input wait (R370). -/
def pressOff (s : State) (e : Nat) : State :=
  let p := pressOf s e
  let s := p.chans.foldl (fun s c => c.2.landed.foldl (fun s r => logDrop s e r.source (some r.tag) (some r.ten)) s) s
  let s := dropLanding s e (fun _ => true)
  setPress s e { Press.empty with proc := { Proc.empty with queue := p.proc.queue }, input := p.input, hostPending := p.hostPending }

/-- A domain goes OFF: its executor keeps no state (R100, R368, R370). -/
def domainOff (s : State) (d : Nat) : State :=
  let s := if d < 256 then (List.range 16).foldl (fun s i => unitOff s (16 * d + i)) s
    else if d < 264 then pressOff s (d - 256)
    else if d < 268 then setDecant s (d - 264) { Decant.empty with queue := (decantOf s (d - 264)).queue }
    else s
  setDom s d { domOf s d with st := .off, since := s.elapsed, asked := false }

/-- DOMAIN_DRAINED (R370). -/
def execDomainDrained (dom : BitVec 9) (s : State) : Host.Outcome State Fault Refusal :=
  .next (if (domOf s dom.toNat).st == .draining && drained s dom.toNat then domainOff s dom.toNat else s)

/-- What still runs in a domain ends with ABORTED (R370). -/
def abortDomain (s : State) (d : Nat) : State :=
  if d < 256 then (List.range 16).foldl (fun s i => drainCancelled (endCoreWork s (.unit (buid (16 * d + i))) .aborted) (16 * d + i)) s
  else if d < 264 then
    let x := CoreId.press (eng (d - 256))
    let s := match (procOf s x).task with | some t => chargePress s (d - 256) t | none => s
    cutLoad (cancelTask s x .aborted true) x .aborted
  else if d < 268 then
    let e := BitVec.ofNat 2 (d - 264)
    if (decantOf s (d - 264)).ended.isSome then completeCopy s e else abortCopy s e .aborted
  else s

/-- DRAIN_LIMIT_EXPIRY: the work that still runs at PWR_DRAIN_LIMIT ends with ABORTED, and the domain goes OFF (R370). -/
def execDrainLimitExpiry (dom : BitVec 9) (s : State) : Host.Outcome State Fault Refusal :=
  let d := dom.toNat
  .next (if (domOf s d).st == .draining && !drained s d then
    let s := pastDue s ((domOf s d).since + drainLimit s)
    domainOff (abortDomain (logPwr s 2 0x05 d) d) d
  else s)

/-! The cap loop (R376, R377). -/

/-- POWER_SAMPLE: every 10 µs, in 0.1 W and 10 mV; the last 100 samples make 1 ms. -/
def execPowerSample (power volts : BitVec 16) (s : State) : Host.Outcome State Fault Refusal :=
  .next (if s.boot.phase == .off then s
    else
      let s := nextMultiple s (10 * Config.us)
      { s with pwr := { s.pwr with samples := (power.toNat :: s.pwr.samples).take 100, volts := volts.toNat } })

/-- The average of the last 1 ms, in 0.1 W. -/
def powerAverage (s : State) : Nat := s.pwr.samples.sum / s.pwr.samples.length

/-- Whether the average exceeds a number of watts. -/
def averageAbove (s : State) (w : Nat) : Bool := decide (10 * w * s.pwr.samples.length < s.pwr.samples.sum)
/-- Whether the average lies below a number of watts. -/
def averageBelow (s : State) (w : Nat) : Bool := decide (s.pwr.samples.sum < 10 * w * s.pwr.samples.length)

/-- k_cap after a comparison: down above the cap; up once the average has been 10 W below it for 1 ms, which is ten comparisons. -/
def newCap (s : State) (below : Nat) : Nat :=
  if averageAbove s (capW s) then max 4 (s.pwr.kCap - 1) else if 10 ≤ below then min 16 (s.pwr.kCap + 1) else s.pwr.kCap

/-- CAP_LOOP_TICK: every 100 µs (R377, log entry 48). -/
def execCapLoopTick (s : State) : Host.Outcome State Fault Refusal :=
  .next (if s.boot.phase == .off || s.boot.phase == .shutdown then s
    else
      let s := settleRuns (nextMultiple s (100 * Config.us))
      let below := if averageBelow s (capW s - 10) then s.pwr.belowFor + 1 else 0
      let floor := if s.pwr.kCap = 4 then s.pwr.floorFor + 1 else 0
      let stuck := decide (100 ≤ floor) && averageAbove s (capW s)
      let fresh := stuck && !s.pwr.capFloor
      let s := { s with pwr := { s.pwr with
        kCap := newCap s below
        belowFor := below
        floorFor := floor
        capFloor := s.pwr.capFloor || stuck
        capFloorCk := if stuck then some s.ck else s.pwr.capFloorCk } }
      if fresh then logPwr s 3 0x04 0xFFF else s)

end Sys2Proof.Machine
end

