-- ==== Sys2Proof/Machine/Reset.lean ====
section
/-! DEFINITION. What each reset keeps and clears (R406-R409, R458, R463, R469). -/

namespace Sys2Proof.Machine

/-- A directory write that the firmware still held is lost with the firmware's run (R400, log entry 7). -/
def Flash.settled (f : Flash) : Flash := { f with postponed := Option.none }

/-- Every power domain OFF from now on (R469). -/
def allOff (s : State) : SMap Domain :=
  if s.elapsed = 0 then [] else (List.range 270).map (fun d => (d, { Domain.off with since := s.elapsed }))

/-- Work stops where it is: a pair of columns begun is completed, nothing is recorded (R107, R409). -/
def stopWork (s : State) : State := (s.units.map (·.1)).foldl drainCancelled s

/-- Failed-sensor marks cleared (R380, R381, Table 16.7). -/
def clearFailed (t : Thm) : Thm :=
  { t with failed := [], diffs := [], stk := t.stk.map (fun e => (e.1, { e.2 with unseen := false })) }

/-- The M-die core cleared: executors, queues, tenancies, regions, translation entries, synchronisation, pod membership, power domains,
traces (Table 16.7). The next incarnation is drawn (R301). -/
def clearCore (s : State) : State :=
  let (k, s) := draw (stopWork s)
  { s with
    units := [], presses := [], decants := [], scrubQ := [], scrub := none, meterDQ := [], netDQ := [], syncDQ := [], dispDQ := [],
    tens := [], groupOwner := [], blockOwner := [], barOwner := [], pressOwner := [], switches := [], xlat := [], xlatNext := [],
    fetched := [], fetches := [], active := [], batches := [], hostWrites := [], meterQ := [], regions := [],
    sync := Sync.empty, net := Net.drawn k, trace := { Trace.empty with running := s.trace.running, lost := s.trace.lost },
    banks := s.banks.map (fun e => (e.1, { e.2 with hostQ := [] })),
    thm := clearFailed s.thm,
    pwr := { s.pwr with dom := allOff s, queues := [], nextDom := 0, window := (s.ck + s.pwr.phase) / 32, usedMod := 0, used := [] } }

/-- The entry of a reset: kind 0 power-on, 1 cold, 2 warm (Table 17.6, class 0x08). -/
def logReset (s : State) (kind : Nat) : State := logAdd s 1 (srcNum 0xE 0) 0x08 0x06 none none ([0, 0] ++ leBytes 1 kind)

/-- Stored registers that a warm reset keeps: all but those of tenancies and of the debug view (Table 16.7, log entry 49). -/
def warmKeeps (off : Nat) : Bool := decide (off < 0x400000) || (decide (0x800000 ≤ off) && off != 0x801000)

/-- A worker or manager whose NET_POD_CTRL.ENABLE is 1 joins again after a warm reset (Table 16.7, R301). -/
def rejoin (s : State) : State :=
  if s.variant == .rl512N && bit (reg s 0xC00000) 0 then
    let n := { s.net with incarn := s.net.incarn + 1, syncAt := s.elapsed }
    { s with net := if selfMember s = 0 then { n with pod := .managing } else { n with pod := .joining } }
  else s

/-- Warm reset: DRAM, the registers of Table 16.7, MEM_ACTIVE and RWL fields stay; the link trains again; with Mem Clr memory is then
initialised (R406, R407). -/
def warmReset (s : State) (memClr : Bool) : State :=
  let s := clearCore (hostLinkDown s)
  let s := { s with bar := s.bar.filter (fun e => warmKeeps e.1), boot := { s.boot with notReady := s.boot.notReady || memClr } }
  logReset (rejoin s) 2

/-- Start-up from step 3 (R406, R458). -/
def Boot.again (b : Boot) : Boot :=
  { Boot.reset with phase := .sequence, step := 3, perst := b.perst, resetDue := b.resetDue }

/-- The management path after a cold reset: its bus mode and address stay until the next power-on (R459). -/
def Mgmt.again (m : Mgmt) : Mgmt :=
  { Mgmt.reset with i3c := m.i3c, strap := m.strap, address := m.address, event := m.event, alertShut := m.alertShut }

/-- Cold reset: the rails and the clock stay; the sequence runs again from step 3 (R406, Table 16.7). -/
def coldReset (s : State) : State :=
  let s := clearCore (hostLinkDown s)
  let s := { s with
    bar := [], retireRows := [], retireBanks := [], ecc := [], eccTot := Ecc.zero, eccLog := [], ueLog := [], unattrRd := 0, unattrWr := 0,
    trace := Trace.empty, thm := { Thm.reset with reading := s.thm.reading },
    clk := { s.clk with relock := false, openLanes := [], closures := [] },
    pwr := { Pwr.reset with dom := s.pwr.dom, samples := s.pwr.samples, volts := s.pwr.volts, phase := s.pwr.phase, window := s.pwr.window },
    boot := s.boot.again, mgmt := s.mgmt.again, flash := Flash.settled s.flash }
  logReset s 1

/-- Power removed: every rail goes, and with it the state (R463). The flash and the fuses stay. -/
def powerOff (s : State) : State :=
  let s := hostLinkDown s
  { State.reset with
    pending := s.pending, out := s.out, free := s.free, variant := s.variant, flash := Flash.settled s.flash, fuses := s.fuses,
    boot := { Boot.reset with phase := .off, perst := s.boot.perst }, mgmt := { Mgmt.reset with strap := s.mgmt.strap } }

/-- The static address of the management path as VAUX rises (R459). -/
def staticAddress (strap : BitVec 2) : BitVec 7 := 0x50 + strap.zeroExtend 7

/-- Power good: a power-on reset, with step 1 of Table 16.1 in progress (R406, R463). -/
def powerOn (s : State) : State :=
  { State.reset with
    pending := s.pending, out := s.out, free := s.free + 1, variant := s.variant, flash := Flash.settled s.flash, fuses := s.fuses,
    boot := { Boot.reset with perst := s.boot.perst }, net := Net.drawn s.free,
    mgmt := { Mgmt.reset with strap := s.mgmt.strap, address := staticAddress s.mgmt.strap } }

end Sys2Proof.Machine
end

