-- ==== Sys2Proof/Machine/Thermal.lean ====
section
/-! DEFINITION. Sensors, bands, the throttle tether, halt, latched shutdown and the temperature window (R379-R392). Temperatures are in
quarters of a degree. -/

namespace Sys2Proof.Machine

/-! Sensors (R379-R381). -/

/-- The die of a sensor of a stack, from the bottom: 0 the B-die, then L and D of each pair (Table 15.1). -/
def dieOf (l : Nat) : Nat := if l < 2 then 0 else 1 + (l - 2) / 4

/-- The sensors of a stack, or of the M-die (8). -/
def sensorsOf (k : Nat) : List Nat := if k = 8 then (List.range 16).map (· + 528) else (List.range 66).map (· + 66 * k)

/-- The stack of a sensor; 8 for the M-die. -/
def sensorStack (i : Nat) : Nat := if 528 ≤ i then 8 else i / 66

/-- Dies on which two sensors of one stack are neighbours: the same or adjacent ones. -/
def nearDies (a b : Nat) : Bool := decide (a ≤ b + 1) && decide (b ≤ a + 1)

/-- Whether two sensors lie on the same die or on adjacent dies of one stack, or both on the M-die. -/
def nearSensors (i j : Nat) : Bool :=
  sensorStack i == sensorStack j && (sensorStack i == 8 || nearDies (dieOf (i % 66)) (dieOf (j % 66)))

/-- The neighbours of a sensor that a test calls valid. -/
def neighbours (valid : Nat → Bool) (i : Nat) : List Nat := (sensorsOf (sensorStack i)).filter (fun j => j != i && valid j && nearSensors i j)

/-- A number placed in an ascending list. -/
def insertInt (x : Int) (l : List Int) : List Int :=
  match l with
  | [] => [x]
  | y :: t => if x ≤ y then x :: y :: t else y :: insertInt x t

/-- Twice the median of a list: the mean of the two middle ones where their number is even. -/
def median2 (l : List Int) : Option Int :=
  let m := l.foldl (fun a x => insertInt x a) []
  match m with
  | [] => none
  | _ => some (m.getD ((m.length - 1) / 2) 0 + m.getD (m.length / 2) 0)

/-- The reading of a sensor in a sample. -/
def sampleOf (rs : List (BitVec 12)) (i : Nat) : Int := (rs.getD i 0).toInt

/-- How many consecutive samples differed from the neighbours' median by more than 6 degrees (R380). -/
def diffCount (s : State) (rs : List (BitVec 12)) (i : Nat) : Nat :=
  let nb := neighbours (fun j => !mget false s.thm.failed j) i
  match median2 (nb.map (sampleOf rs)) with
  | some m => if 3 ≤ nb.length ∧ 48 < (2 * sampleOf rs i - m).natAbs then mget 0 s.thm.diffs i + 1 else 0
  | none => 0

/-- The value of a sensor: its reading; if it has failed the median of its valid neighbours, a half quarter rounded either way (log entry
50); none where it has no valid neighbour. -/
def sensorValue (failed : Nat → Bool) (rs : List (BitVec 12)) (pick : Nat) (i : Nat) : Option Int :=
  if !failed i then some (sampleOf rs i)
  else (median2 ((neighbours (fun j => !failed j) i).map (sampleOf rs))).map (fun m => (m + (Config.unstated 4 (pick + i) % 2 : Nat)) / 2)

/-- The SOURCE of a stack's thermal events; 8 for the M-die (Table 17.2). -/
def thermSrc (k : Nat) : Nat := srcNum 0xD (0x800 + k)

/-- A class 0x06 entry. -/
def logTherm (s : State) (level num src : Nat) (reading : Int) (old new second : Nat) (second' : Int) : State :=
  logAdd s level src 0x06 num none none
    (leBytes 2 (reading % 2 ^ 16).toNat ++ leBytes 1 old ++ leBytes 1 new ++ leBytes 2 second ++ leBytes 2 (second' % 2 ^ 16).toNat)

/-- The highest of a list of readings. -/
def hottest (l : List Int) : Option Int := l.foldl (fun m x => match m with | none => some x | some y => some (max x y)) none

/-- A sample taken in: the differences counted, sensors marked failed and logged, every value stored (R380). -/
def takeSample (s : State) (rs : List (BitVec 12)) : State :=
  let counts := (List.range 544).map (fun i => if mget false s.thm.failed i then 0 else diffCount s rs i)
  let fresh := (List.range 544).filter (fun i => decide (4 ≤ counts.getD i 0))
  let failed := fresh.foldl (fun m i => mset false m i true) s.thm.failed
  let values := (List.range 544).map (sensorValue (mget false failed) rs s.free)
  let readings := values.zipIdx.filterMap (fun e => e.1.map (fun v => (e.2, v)))
  let kept := s.thm.reading.filter (fun e => (values.getD e.1 none).isNone)
  let s := { s with free := s.free + 544, thm := { s.thm with
    failed := failed, reading := kept ++ readings,
    diffs := counts.zipIdx.filterMap (fun e => if e.1 = 0 ∨ 4 ≤ e.1 then none else some (e.2, e.1)) } }
  fresh.foldl (fun s i => logTherm s 2 0x02 (srcNum 0xD i) (sampleOf rs i) 0 0 0 0) s

/-- The reading shown for a sensor: 25 degrees before the first sample (log entry 10). -/
def readingOf (s : State) (i : Nat) : Int := mget 100 s.thm.reading i

/-- A sensor that is valid, or has a valid neighbour to replace its value. -/
def sensorSeen (s : State) (i : Nat) : Bool :=
  !mget false s.thm.failed i || !(neighbours (fun j => !mget false s.thm.failed j) i).isEmpty

/-- The temperature of a stack, or of the M-die (R381). -/
def tempOf (s : State) (k : Nat) : Option Int := hottest (((sensorsOf k).filter (sensorSeen s)).map (readingOf s))

/-! Bands (R382, R383). -/

/-- The band whose threshold a temperature reaches (Table 15.2). -/
def bandFor (t : Int) : Nat := if 420 ≤ t then 3 else if 380 ≤ t then 2 else if 340 ≤ t then 1 else 0

/-- When a temperature went below a limit, if it is below it. -/
def belowSince (now : Nat) (t : Option Int) (lim : Int) (old : Option Nat) : Option Nat :=
  match t with
  | some v => if v < lim then some (old.getD now) else none
  | none => none

/-- Whether every sample of the last 10 ms was below a limit. -/
def longBelow (now : Nat) (o : Option Nat) : Bool :=
  match o with
  | some t => decide (t + 10 * Config.ms ≤ now)
  | none => false

/-- The band after a sample: up at once, down by one, band 3 while a die is unseen (R381, R383). -/
def nextBand (now : Nat) (x : ThmStack) (t : Option Int) : Nat :=
  let up := match t with | some v => bandFor v | none => 0
  if x.unseen then 3
  else if x.band < up then up
  else if (x.band = 1 ∧ longBelow now x.since82 = true) ∨ (x.band = 2 ∧ longBelow now x.since92 = true)
      ∨ (x.band = 3 ∧ longBelow now x.since102 = true) then x.band - 1
  else x.band

/-- A stack's record after a sample: since when it has been below each limit, its band, whether it is halted (R383, R388). -/
def sampleStack (now : Nat) (x : ThmStack) (t : Option Int) (unseen : Bool) : ThmStack :=
  let x := { x with unseen := x.unseen || unseen,
                    since82 := belowSince now t 328 x.since82, since92 := belowSince now t 368 x.since92,
                    since102 := belowSince now t 408 x.since102, since107 := belowSince now t 428 x.since107 }
  let hot := match t with | some v => decide (440 ≤ v) | none => false
  { x with band := nextBand now x t, halted := hot || (x.halted && !longBelow now x.since107) }

/-- One stack, or the M-die, judged by a sample: its band, a die unseen, a halt and its end are logged (R381, R383, R388). -/
def judgeStack (s : State) (k : Nat) : State :=
  let x := thmOf s k
  let t := tempOf s k
  let y := sampleStack s.elapsed x t ((sensorsOf k).any (fun i => !sensorSeen s i))
  let v := t.getD 0
  let s := setThm s k y
  let s := if y.unseen && !x.unseen then logTherm s 3 0x03 (thermSrc k) v x.band y.band 0 0 else s
  let s := if x.band = y.band then s else logTherm s 1 0x01 (thermSrc k) v x.band y.band 0 0
  if y.halted && !x.halted then logTherm s 3 0x04 (thermSrc k) v x.band y.band 0 0
  else if x.halted && !y.halted then logTherm s 1 0x05 (thermSrc k) v x.band y.band 0 0
  else s

/-! The tether (R385-R387). -/

/-- A change of a stack's throttle band: the record's FRACTION and ENFORCE_AT, and the stack after it (Table 15.3). -/
def tether (s : State) (x : ThmStack) (new : Nat) : ThmStack × Option (Nat × Nat) :=
  let y := { x with tband := new }
  if new = x.tband then (x, none)
  else if new = 3 then ({ y with kThr := 4, pending := none, enforceAt := s.time }, some (25, s.time))
  else if new = 2 then
    if x.tband = 3 then ({ y with kThr := 8, pending := none, enforceAt := s.time }, some (50, s.time))
    else ({ y with pending := some (s.elapsed + grace s, 8), enforceAt := s.time + grace s }, some (50, s.time + grace s))
  else if 2 ≤ x.tband ∧ (x.kThr < 16 ∨ x.pending.isSome) then ({ y with kThr := 16, pending := none }, some (100, s.time))
  else (y, none)

/-- The throttle record to every tenancy that owns a group in one of the stacks (R386, Table 3.16). -/
def throttleRecord (s : State) (ks : List Nat) (fraction band at_ : Nat) : State :=
  let map := ks.foldl (fun n k => n + 2 ^ k) 0
  let pay := leBytes 1 map ++ leBytes 1 fraction ++ leBytes 1 band ++ [0] ++ leBytes 8 at_
  (existing s).foldl (fun s t =>
    if (groupsOwned s t).any (fun g => ks.contains (g / 32)) then postEvent s t 2 0 0 pay (some (eqVector s t)) else s) s

/-- The throttle bands after a sample; stacks that change alike share one record (R385, R386). -/
def applyTether (s : State) : State :=
  let ys := (List.range 8).map (fun k => tether s (thmOf s k) (max (thmOf s k).band (thmOf s 8).band))
  let s := ys.zipIdx.foldl (fun s e => setThm s e.2 e.1.1) s
  let recs := (ys.filterMap (fun e => e.2.map (fun r => (r.1, e.1.tband, r.2)))).dedup
  recs.foldl (fun s r =>
    throttleRecord s ((List.range 8).filter (fun k => match ys[k]? with
      | some (y, some q) => (q.1, y.tband, q.2) == r
      | _ => false)) r.1 r.2.1 r.2.2) s

/-! Halt (R388). -/

/-- The work of a halted core ends with THERMAL_HALT: its task, a load, its queue. -/
def haltCore (s : State) (x : CoreId) : State :=
  if partHalted s (ofCore x) then
    let s := cutLoad (faultTask s x .thermalHalt 0 0 0) x .thermalHalt
    (procOf s x).queue.foldl (fun s i => dropPart s i (ofCore x) .thermalHalt 0) s
  else s

/-- A decant engine halted with the M-die. -/
def haltDecant (s : State) (e : Nat) : State :=
  let x : Executor := .decant (BitVec.ofNat 2 e)
  let s := if (decantOf s e).ended.isSome then s else abortCopy s (BitVec.ofNat 2 e) .thermalHalt
  (decantOf s e).queue.foldl (fun s i => dropPart s i x .thermalHalt 0) s

/-- Everything halted ends: cores, parts that wait for them, scrubs over a halted stack; with the M-die the engines and the scrubber. -/
def haltAll (s : State) : State :=
  let s := (s.active.flatMap (fun a => (a.toEnter.filter (partHalted s)).map (fun x => (a.id, x)))).foldl
    (fun s e => dropPart s e.1 e.2 .thermalHalt 0) s
  let s := (liveCores s).foldl haltCore s
  let s := if scrubHalted s then abortScrub s .thermalHalt else s
  if (thmOf s 8).halted then
    let s := (List.range 4).foldl haltDecant s
    s.scrubQ.foldl (fun s i => dropPart s i .scrubber .thermalHalt 0) s
  else s

/-! Shutdown (R389-R391). -/

/-- Valid sensors that read 115 degrees or more. -/
def scorched (s : State) : List Nat :=
  (List.range 544).filter (fun i => !mget false s.thm.failed i && decide (460 ≤ readingOf s i))

/-- The first two such sensors that confirm each other. -/
def confirmed (l : List Nat) : Option (Nat × Nat) :=
  l.findSome? (fun i => (l.find? (fun j => decide (i < j) && nearSensors i j)).map (fun j => (i, j)))

/-- Latched shutdown: logged, ALERT# asserted, links dropped, every core held in reset and every rail but VAUX removed (R390). MEM_ACTIVE and
with it the lock of R8 stay: no reset clears them (log entry 138, DEDUCED). -/
def shutDown (s : State) (i j : Nat) : State :=
  let s := logTherm s 4 0x07 (srcNum 0xD i) (readingOf s i) (thmOf s (sensorStack i)).band (thmOf s (sensorStack i)).band j (readingOf s j)
  let s := emit { s with mgmt := { s.mgmt with alertShut := true } } (.alert true)
  let s := clearCore (portsDown (hostLinkDown s))
  { s with dram := [], check := [], thm := { s.thm with shutdown := true },
           boot := { s.boot with phase := .shutdown } }

/-- Whether a sensor is confirmed by another of a list. -/
def isConfirmed (l : List Nat) (i : Nat) : Bool := l.any (fun j => j != i && nearSensors i j)

/-- Single sensors, those that no other confirms, are logged as they reach 115 degrees (R389). -/
def logSingles (s : State) (old : SMap Int) : State :=
  let l := scorched s
  (l.filter (fun i => !isConfirmed l i)).foldl (fun s i => if 460 ≤ mget 100 old i then s else logTherm s 3 0x06 (srcNum 0xD i) (readingOf s i) 0 0 0 0) s

/-- A PLDM event message: in I3C mode it travels as an in-band interrupt, in SMBus mode it comes to wait and ALERT# is asserted for it
(R460). -/
def raiseEvent (s : State) : State :=
  if s.mgmt.i3c then emit s .inBand
  else if s.mgmt.event then s
  else
    let s := { s with mgmt := { s.mgmt with event := true } }
    if s.mgmt.alertShut then s else emit s (.alert true)

/-- Whether a sample of the PLDM sensors makes an event message wait is not stated (log entry 122). -/
def sensorEvent (s : State) : State :=
  let (k, s) := draw s
  if Config.unstated 7 k % 2 = 1 then raiseEvent s else s

/-- SENSOR_SAMPLE: every 100 µs of module time (R379-R390). While a shutdown is latched the sensors still answer. -/
def execSensorSample (readings : List (BitVec 12)) (s : State) : Host.Outcome State Fault Refusal :=
  .next (if s.boot.phase == .off then s
    else
      let s := advanceTo s (s.elapsed + (100 * Config.us - s.time % (100 * Config.us)))
      let old := s.thm.reading
      let s := sensorEvent (takeSample s readings)
      if s.boot.phase == .shutdown then s
      else
        let s := (List.range 9).foldl judgeStack (settleRuns (logSingles s old))
        match confirmed (scorched s) with
        | some (i, j) => shutDown s i j
        | none => haltAll (applyTether s))

/-- ENFORCE_AT_REACHED (R385). -/
def execEnforceAtReached (stack : BitVec 3) (s : State) : Host.Outcome State Fault Refusal :=
  let k := stack.toNat
  .next (match (thmOf s k).pending with
    | some (due, level) =>
      let s := settleRuns (advanceTo s due)
      setThm s k { thmOf s k with kThr := level, pending := none }
    | none => s)

/-! The temperature window (R392). -/

/-- Valid M-die sensors. -/
def validMdie (s : State) : List Nat := (sensorsOf 8).filter (fun i => !mget false s.thm.failed i)

/-- Whether flash and fuses may be written: at least two valid M-die sensors, each from 5 to 80 degrees. -/
def windowOpen (s : State) : Bool :=
  decide (2 ≤ (validMdie s).length) && (validMdie s).all (fun i => decide (20 ≤ readingOf s i) && decide (readingOf s i ≤ 320))

/-- The lowest of a list of readings. -/
def coolest (l : List Int) : Option Int := (hottest (l.map (fun x => -x))).map (fun x => -x)

/-- A write refused for the temperature, with the readings: the highest of the valid M-die sensors, then the sensor that reads lowest and its
reading, the two that bound the others; 0 where no sensor is valid (R392, Table 17.6; the model's choice of the two, log entry 131). -/
def logWindow (s : State) (num : Nat) : State :=
  let l := validMdie s
  let lo := (coolest (l.map (readingOf s))).getD 0
  logTherm s 2 num (thermSrc 8) ((hottest (l.map (readingOf s))).getD 0) 0 0 ((l.find? (fun i => readingOf s i == lo)).getD 0) lo

/-! The PLDM numeric sensors of the management path (R379). -/

/-- What a PLDM numeric sensor reads: the 544 sensors in their order, then each stack temperature, then the M-die temperature (log entry
122). -/
def pldmSensor (s : State) (n : Nat) : Option Int :=
  if n < 544 then some (readingOf s n) else if n < 553 then tempOf s (n - 544) else none

end Sys2Proof.Machine
end

