-- ==== Sys2Proof/Machine/Boot.lean ====
section
/-! DEFINITION. The power-on sequence, firmware trust, memory initialisation, the host link, PERST# and the resets (R393-R409, R458, R463). -/

namespace Sys2Proof.Machine

/-! Power and the first steps (R393, R397, R414, R463). -/

/-- POWER_GOOD (R463). -/
def execPowerGood (s : State) : Host.Outcome State Fault Refusal := .next (if s.boot.phase = .off then powerOn s else s)

/-- POWER_LOSS (R463): ALERT# is released (R460). -/
def execPowerLoss (s : State) : Host.Outcome State Fault Refusal :=
  .next (if s.boot.phase = .off then s
    else if s.mgmt.alertShut || s.mgmt.event then emit (powerOff s) (.alert false) else powerOff s)

/-- Start-up fails at a step: CAUSE and the log name it (R397). -/
def stepFailed (s : State) (step cause : Nat) : State :=
  logAdd { s with boot := { s.boot with cause := cause } } 3 (srcNum 0xE 0) 0x08 0x01 none none (leBytes 1 step ++ leBytes 1 cause)

/-- RAILS_UP (R393, Table 16.2). -/
def execRailsUp (ok : Bool) (s : State) : Host.Outcome State Fault Refusal :=
  .next (if s.boot.phase == .sequence && s.boot.step == 1 then
    if ok then { s with boot := { s.boot with step := 2 } }
    else stepFailed { s with boot := { s.boot with phase := .stuck } } 1 1
  else s)

/-- The fuse secret as it reads: only the ROM reads it, until it locks it at the end of step 3 (R413). -/
def fuseSecret (s : State) : Option (List Byte) := if s.boot.secretLocked then none else some s.fuses.secret

/-- ROM_DONE: the ROM has read the fuse secret, from which the attestation key is derived, and locks it; the entry of a power-on reset is
made (R393, R413, R414, log entry 51). -/
def execRomDone (s : State) : Host.Outcome State Fault Refusal :=
  .next (if s.boot.phase == .sequence && s.boot.step == 3 then
    let due := s.boot.resetDue
    let s := { s with
      mgmt := { s.mgmt with romSecret := fuseSecret s }
      boot := { s.boot with step := 4, keyReady := true, secretLocked := true, resetDue := false } }
    if due then logReset s 0 else s
  else s)

/-! Firmware (R398-R403). -/

/-- Bytes of an image header. -/
def imgBytes (i : Image) (lo n : Nat) : List Byte := (i.header.drop lo).take n
/-- A little-endian field of an image header (Table 16.4). -/
def imgNum (i : Image) (lo n : Nat) : Nat := leNat (imgBytes i lo n)

/-- MAGIC. -/
def magic : List Byte := [0x52, 0x4C, 0x35, 0x31, 0x32, 0x46, 0x57, 0x00]

/-- The context string of a firmware signature (Table 16.4). -/
def firmwareContext : List Byte := [0x52, 0x4C, 0x2D, 0x35, 0x31, 0x32, 0x20, 0x66, 0x69, 0x72, 0x6D, 0x77, 0x61, 0x72, 0x65]

/-- The checks of R399, in order. -/
def imageChecks (f : Fuses) (i : Image) : List Bool :=
  let len := imgNum i 8 4
  let key := imgNum i 18 1
  [ i.header.length == 1024 && imgBytes i 0 8 == magic && decide (len ≤ 28 * 2 ^ 20 - 1024)
      && (imgBytes i 19 45 ++ imgBytes i 413 99 ++ imgBytes i 626 398).all (· == 0),
    shake256 (imgBytes i 128 285) == f.keyHash,
    decide (key ≤ 4) && !(decide (key < 4) && bit f.revoked key),
    decide (f.svn.toNat ≤ imgNum i 16 2),
    Config.ed448Verify (imgBytes i (128 + 57 * key) 57) firmwareContext (imgBytes i 0 512) (imgBytes i 512 114),
    decide (len ≤ i.body.length) && shake256 (i.body.take len) == imgBytes i 64 64 ]

/-- The number of the first check of R399 that fails. -/
def imageFault (f : Fuses) (i : Image) : Option Nat := ((imageChecks f i).zipIdx.find? (fun e => !e.1)).map (fun e => e.2 + 1)

/-- The image of a slot: false A, true B. -/
def slotImage (s : State) (b : Bool) : Image := if b then s.flash.slotB else s.flash.slotA

/-- Whether a slot verifies. -/
def slotGood (s : State) (b : Bool) : Bool := (imageFault s.fuses (slotImage s b)).isNone

/-- Whether the second copy of the boot directory rules: valid, and the first is not or is older (Table 16.3). -/
def Flash.second (f : Flash) : Bool := f.dir1.valid && (!f.dir0.valid || decide (f.dir0.serial < f.dir1.serial))

/-- The copy of the boot directory that rules. -/
def Flash.ruling (f : Flash) : DirCopy := if f.second then f.dir1 else f.dir0

/-- The boot directory, a postponed write included: PREFERRED is B, TRIAL, TRIAL_ATTEMPTED. -/
def bootDir (s : State) : Bool × Bool × Bool :=
  let d := s.flash.ruling
  s.flash.postponed.getD (d.preferredB, d.trial, d.attempted)

/-- The boot directory written: the copy that does not rule takes it, and then rules (Table 16.3). -/
def storeDir (s : State) (d : Bool × Bool × Bool) : State :=
  let c : DirCopy := { preferredB := d.1, trial := d.2.1, attempted := d.2.2, valid := true, serial := s.flash.ruling.serial + 1 }
  if s.flash.second then { s with flash := { s.flash with dir0 := c, postponed := none } }
  else { s with flash := { s.flash with dir1 := c, postponed := none } }

/-- A directory write during start-up: with the window closed it is postponed and logged (R400). -/
def writeDir (s : State) (d : Bool × Bool × Bool) : State :=
  if windowOpen s then storeDir s d else logWindow { s with flash := { s.flash with postponed := some d } } 0x09

/-- Step 1 or 2 of R400. -/
def trialStep (s : State) : State :=
  match bootDir s with
  | (p, _, true) => writeDir s (!p, false, false)
  | (p, true, false) => writeDir s (p, true, true)
  | _ => s

/-- An invalid slot noted: CAUSE 2 or 3, and the failing check in the log. -/
def slotInvalid (s : State) (b : Bool) : State :=
  match imageFault s.fuses (slotImage s b) with
  | some c => logAdd { s with boot := { s.boot with cause := if b then 3 else 2 } } 3 (srcNum 0xE 0) 0x08 0x02 none none
      (leBytes 1 (b2n b) ++ leBytes 1 c)
  | none => s

/-- The firmware of a slot starts; measurement 4 is fixed (R400, Table 16.9). -/
def startFirmware (s : State) (b fallback : Bool) : State :=
  { s with boot := { s.boot with step := 5, slotB := b, fallback := fallback },
           mgmt := { s.mgmt with meas4 := leBytes 1 s.fuses.svn.toNat ++ leBytes 1 s.fuses.revoked.toNat ++ padTo 64 s.fuses.keyHash } }

/-- FIRMWARE_VERIFY (R400, R403). -/
def execFirmwareVerify (s : State) : Host.Outcome State Fault Refusal :=
  .next (if s.boot.phase == .sequence && s.boot.step == 4 then
    let s := trialStep s
    let p := (bootDir s).1
    if slotGood s p then startFirmware s p false
    else
      let s := slotInvalid s p
      if slotGood s (!p) then
        startFirmware (logAdd s 2 (srcNum 0xE 0) 0x08 0x03 none none (leBytes 1 (b2n !p) ++ leBytes 1 s.boot.cause)) (!p) true
      else
        let s := slotInvalid s (!p)
        stepFailed { s with boot := { s.boot with phase := .recovery } } 4 s.boot.cause
  else s)

/-- DIRECTORY_WRITE_RETRY (R400). -/
def execDirectoryWriteRetry (s : State) : Host.Outcome State Fault Refusal :=
  .next (match s.flash.postponed with
    | some d => if s.boot.phase == .sequence && windowOpen s then storeDir s d else s
    | none => s)

/-! Provisioning (R396, R442). -/

/-- The RWL bits of a register (Table 18.9). -/
def rwlMask (off : Nat) : Word64 :=
  if 0xC01000 ≤ off ∧ off < 0xC01800 then
    match (off - 0xC01000) % 0x20 with
    | 0x00 => 0xFFFFFFFFFFFFFFFF
    | 0x08 => 0xFFFFFFFFFFFFFFFF
    | 0x10 => 0x0007FFFFFFFFFFFF
    | _ => 0
  else
    match off with
    | 0xC00000 => 0x3F00
    | 0xC00008 => 0xFFFF
    | 0xC00030 => 0x1
    | 0xC00060 => 0x3F07FFF3
    | 0xC00068 => 0x3F07FFF3
    | 0xC00080 => 0xFFFFFFFFFFFFFFFF
    | 0xC00088 => 0xFFFFFFFFFFFFFFFF
    | 0xC00090 => 0xFFFFFFFFFFFFFFFF
    | 0xC00098 => 0xFFFFFFFFFFFFFFFF
    | 0xC000A0 => 0x0001FFFFFFFFFFFF
    | 0xC000A8 => 0x0001FFFFFFFFFFFF
    | _ => 0

/-- The registers that hold an RWL field, ascending. -/
def rwlRegs : List Nat :=
  [0xC00000, 0xC00008, 0xC00030, 0xC00060, 0xC00068, 0xC00080, 0xC00088, 0xC00090, 0xC00098, 0xC000A0, 0xC000A8]
    ++ (List.range 64).flatMap (fun m => [0xC01000 + 0x20 * m, 0xC01008 + 0x20 * m, 0xC01010 + 0x20 * m])

/-- An RWL field set. -/
def setRwl (s : State) (off : Nat) (v : Word64) : State := setReg s off ((reg s off &&& ~~~rwlMask off) ||| (v &&& rwlMask off))

/-- Step 5 loads the values of the provisioning record and its HOLD bit; measurement 5 is fixed (R396, R442, Table 16.9). -/
def loadProvision (s : State) : State :=
  let p := s.flash.provision
  let s := p.fields.foldl (fun s e => setRwl s e.1 e.2) s
  { s with mgmt := { s.mgmt with hold := p.hold, prov := some p } }

/-- Measurement 6: the digest of every RWL field (R442). -/
def rwlDigest (s : State) : List Byte := shake256 (rwlRegs.flatMap (fun o => leBytes 8 (reg s o &&& rwlMask o).toNat))

/-- MEM_ACTIVE set: from now on RWL fields are locked (R8, R396). -/
def setMemActive (s : State) : State :=
  { s with boot := { s.boot with memActive := true, awaitGo := false }, mgmt := { s.mgmt with meas6 := rwlDigest s } }

/-- LINK_TRAINING_DONE: step 5 ends; it waits while start-up coasts (R393-R397). -/
def execLinkTrainingDone (failed : Option (BitVec 3 × Bool)) (s : State) : Host.Outcome State Fault Refusal :=
  .next (if s.boot.phase == .sequence && s.boot.step == 5 && !s.clk.startCoast then
    let s := loadProvision { s with boot := { s.boot with step := 6 },
                                    clk := { s.clk with openLanes := (List.range 8).map (fun k => (k, true)) } }
    match failed with
    | some (k, arrays) =>
      stepFailed { s with boot := { s.boot with blocked := true, stack := k.toNat, deadStack := some k.toNat },
                          clk := { s.clk with openLanes := mset false s.clk.openLanes k.toNat false } } 5 (if arrays then 5 else 4)
    | none => s
  else s)

/-! Memory initialisation (R404, R407). -/

/-- Whether the ramps of step 6 are complete: every domain present and requested is ON, but for those of a stack that failed training (R397,
R469). -/
def rampsDone (s : State) : Bool :=
  (List.range 270).all (fun d => !(domPresent s d && domReq s d) || domDead s d || (domOf s d).st == .on)

/-- Every row of every bank holds zeros with the check byte 0x00, but in a stack that failed training (R397, R404). -/
def zeroMemory (s : State) : State :=
  { s with
    dram := s.dram.filter (fun e => s.boot.deadStack == some (e.1 / 2 ^ 36))
    check := s.check.filter (fun e => s.boot.deadStack == some (e.1 / 2 ^ 34)) }

/-- An initialisation that fails its read-back check in a bank. -/
def initFailed (s : State) (failed : Option (BitVec 12)) : State :=
  match failed with
  | some b => stepFailed { s with boot := { s.boot with buid := b.toNat } } 6 6
  | none => s

/-- Step 6 has ended: step 7 begins once PERST# is deasserted (R458). -/
def endInit (s : State) : State := { s with boot := { s.boot with initDone := true, step := if s.boot.perst then 6 else 7 } }

/-- MEMORY_INIT: step 6 ends once the domains are ON, at start-up, or after a CXL Reset with Mem Clr (R404, R407, R469). -/
def execMemoryInit (failed : Option (BitVec 12)) (s : State) : Host.Outcome State Fault Refusal :=
  .next (if s.boot.phase == .sequence && s.boot.step == 6 && !s.boot.initDone then
      if rampsDone s then
        let s := endInit (zeroMemory s)
        initFailed { s with boot := { s.boot with blocked := s.boot.blocked || failed.isSome, notReady := false } } failed
      else s
    else if s.boot.notReady then initFailed { zeroMemory s with boot := { s.boot with notReady := false } } failed
    else s)

/-! The host link and the end of start-up (R393, R395-R397, R400). -/

/-- Step 8: the trial has succeeded; MEM_ACTIVE or AWAIT_GO is set. A sequence that failed at step 5 or 6 ends with step 7 (R397, R400, log
entry 123). -/
def stepEight (s : State) : State :=
  if s.boot.blocked then s
  else
    let s := { s with boot := { s.boot with step := 8 } }
    let (p, t, a) := bootDir s
    let s := if t || a then writeDir s (p, false, false) else s
    if s.mgmt.hold then { s with boot := { s.boot with awaitGo := true } } else setMemActive s

/-- CXL_TRAIN_DONE: the link trains while PERST# is deasserted and the reference is there (R393, R395, Table 16.2). -/
def execCxlTrainDone (ok : Bool) (s : State) : Host.Outcome State Fault Refusal :=
  .next (if s.boot.phase == .sequence && decide (7 ≤ s.boot.step) && !s.boot.perst && !s.clk.coast && !s.boot.linkUp then
    if ok then
      let s := hostLinkUp s
      if s.boot.step = 7 then stepEight s else s
    else stepFailed s 7 7
  else s)

/-- FEAT_CTRL.GO (R396, Table 18.1). -/
def execFeatCtrlGo (s : State) : Host.Outcome State Fault Refusal := .next (viaHost s (if s.boot.awaitGo then setMemActive s else s))

/-- HDM_DECODER_COMMIT: any interleave but 1 way is rejected (R23). -/
def execHdmDecoderCommit (ways : Nat) (s : State) : Host.Outcome State Fault Refusal := .next (viaHost s (emit s (.decoder (ways == 1))))

/-! PERST# and the resets (R406, R407, R458). -/

/-- PERST_ASSERT: the assertion begins; after its 100 µs a cold reset follows if step 6 had ended as it began, or a restart from recovery
mode, nothing else before step 7 or in shutdown (R458, log entry 77). -/
def execPerstAssert (s : State) : Host.Outcome State Fault Refusal :=
  .next (if s.boot.perst then s
    else
      let acts := s.boot.phase == .recovery || (s.boot.phase == .sequence && decide (7 ≤ s.boot.step))
      let s := hostLinkDown (advanceTo { s with boot := { s.boot with perst := true } } (s.elapsed + 100 * Config.us))
      if acts then coldReset s else s)

/-- PERST_DEASSERT: step 7 begins if step 6 has ended (R395, R458). -/
def execPerstDeassert (s : State) : Host.Outcome State Fault Refusal :=
  .next { s with boot := { s.boot with perst := false, step := if s.boot.initDone && s.boot.step == 6 then 7 else s.boot.step } }

/-- A warm reset of a module whose M-die core runs: from step 4 on, recovery mode included (R406). -/
def warmIfUp (s : State) (memClr : Bool) : State :=
  if (s.boot.phase = .sequence ∧ 4 ≤ s.boot.step) ∨ s.boot.phase = .recovery then warmReset s memClr else s

/-- WARM_RESET (R406, R407). -/
def execWarmReset (memClr : Bool) (s : State) : Host.Outcome State Fault Refusal := .next (warmIfUp s memClr)

/-- FUNCTION_LEVEL_RESET: CXL.io function state alone, none of which this manual describes (R406, log entry 52). -/
def execFunctionLevelReset (s : State) : Host.Outcome State Fault Refusal := .next s

end Sys2Proof.Machine
end

