-- ==== Sys2Proof/Machine/Regs.lean ====
section
/-! DEFINITION. Writes to the setup registers: regions, retirement, power requests, homes, the debug view, the trace, and every register that
only stores (R5-R8, R31-R34, R245, R255, R286-R288, R355-R358, R438, R440-R452). -/

namespace Sys2Proof.Machine

/-- The offset of field o of region entry n (Table 18.6). -/
def rgnReg (n o : Nat) : Nat := 0x101000 + 0x40 * n + o

/-! Region entries (R31-R33, R288, R445). -/

/-- Whether an accepted, uncompleted descriptor names a region (BUSY). -/
def regionBusy (s : State) (n : Nat) : Bool := s.active.any (fun a => (namedRegions a.raw).contains n)

/-- Two spans of bytes that intersect. -/
def spansMeet (a n b m : Nat) : Bool := decide (a < b + m) && decide (b < a + n)

/-- Whether two CHECKED regions share a byte (condition 7 of R32). -/
def regionsMeet (a b : Region) : Bool :=
  a.linear == b.linear && spansMeet a.base a.size b.base b.size && (a.linear || spansMeet a.gFirst a.gCount b.gFirst b.gCount)

/-- Whether a page that another tenancy's valid entry maps holds a byte of a linear-view region (R288). -/
def pageMapped (s : State) (r : Region) : Bool :=
  (xlatAll s).any (fun e => e.linear && e.ten != r.owner && spansMeet (2 ^ 21 * e.ppage) (2 ^ 21) r.base r.size)

/-- The conditions of R32 on an entry, in order; R288 belongs to the seventh. -/
def regionConds (s : State) (n : Nat) (r : Region) : List Bool :=
  [ (tenOf s r.owner).enabled && (tenOf s r.owner).xlat == r.xlat,
    decide (2 ^ 21 ≤ r.size) && decide (r.size % 2 ^ 21 = 0) && decide (r.base % 2 ^ 21 = 0),
    r.xlat || !r.linear || (decide (4096 * split s ≤ r.base) && decide (r.base + r.size ≤ 2 ^ 39)),
    r.xlat || r.linear || (decide (r.base + r.size ≤ split s) && decide (r.gFirst + r.gCount ≤ 256)),
    r.linear || (List.range r.gCount).all (fun i => groupUsable s r.owner (r.gFirst + i)),
    !r.ring || !r.linear,
    r.xlat || (!(List.range 64).any (fun m => m != n && (regionOf s m).valid && !(regionOf s m).xlat && regionsMeet r (regionOf s m))
      && !(r.linear && pageMapped s r)) ]

/-- The first condition that fails. -/
def regionFault (s : State) (n : Nat) (r : Region) : Option Nat :=
  ((regionConds s n r).zipIdx.find? (fun e => !e.1)).map (fun e => e.2 + 1)

/-- The fields of RGN_CTRL as a write carries them. -/
def ctrlFields (r : Region) (v : Word64) : Region :=
  { r with linear := bit v 2, ring := bit v 3, xlat := bit v 4, owner := bits v 8 8, gFirst := bits v 16 8, gCount := bits v 32 9 }

/-- RGN_CTRLn written (R32, R33, R445). -/
def writeRegionCtrl (s : State) (n : Nat) (v : Word64) : State :=
  let r := regionOf s n
  if r.valid then
    if bit v 0 || regionBusy s n then logSetup s 2 0x04 (rgnReg n 0) none v.toNat
    else setRegion s n { r with valid := false }
  else if bits v 32 9 = 0 ∨ 256 < bits v 32 9 then logSetup s 2 0x04 (rgnReg n 0) none v.toNat
  else
    let r := ctrlFields r v
    let s := setRegion s n r
    if !bit v 0 then s
    else match regionFault s n r with
      | some c => logAdd s 2 (srcNum 0xB (rgnReg n 0 / 65536)) 0x03 0x03 none none (leBytes 4 (rgnReg n 0) ++ leBytes 1 c)
      | none => setRegion s n { r with valid := true, oobRd := 0, oobWr := 0 }

/-- Another field of a region entry written: dropped while VALID is 1 (R33). -/
def writeRegionField (s : State) (n o : Nat) (v : Word64) (f : Region → Region) : State :=
  if (regionOf s n).valid then logSetup s 2 0x04 (rgnReg n o) none v.toNat else setRegion s n (f (regionOf s n))

/-- RGN_CTRLn as it reads (Table 18.6). -/
def regionImage (s : State) (n : Nat) : Nat :=
  let r := regionOf s n
  b2n r.valid + 2 * b2n (regionBusy s n) + 4 * b2n r.linear + 8 * b2n r.ring + 16 * b2n r.xlat + r.owner * 2 ^ 8 + 2 ^ 16 * r.gFirst
    + 2 ^ 32 * r.gCount

/-- REGION_VALIDATE (R32, R445). -/
def execRegionValidate (n : BitVec 6) (value : Word64) (s : State) : Host.Outcome State Fault Refusal :=
  .next (viaHost s (writeRegionCtrl s n.toNat (value ||| 1)))
/-- REGION_INVALIDATE (R33, R445). -/
def execRegionInvalidate (n : BitVec 6) (value : Word64) (s : State) : Host.Outcome State Fault Refusal :=
  .next (viaHost s (writeRegionCtrl s n.toNat (value &&& ~~~1)))

/-- RGN_LINEAR_SPLIT written: only while nothing is allocated (R26, Table 18.6). -/
def writeSplit (s : State) (v : Nat) : State :=
  if 32 < v ∨ (s.regions.any (fun e => e.2.valid) || s.groupOwner.any (fun e => e.2.isSome) || !(xlatAll s).isEmpty) = true then
    logSetup s 2 0x02 0x100000 none v
  else setReg s 0x100000 (BitVec.ofNat 64 v)

/-- LINEAR_SPLIT_WRITE (R26). -/
def execLinearSplitWrite (value : BitVec 6) (s : State) : Host.Outcome State Fault Refusal := .next (viaHost s (writeSplit s value.toNat))

/-- The counters of the bank that RGN_ECC_SELECT names cleared (R349). -/
def clearEcc (s : State) : State := { s with ecc := mset Ecc.zero s.ecc (bits (reg s 0x100100) 0 12) Ecc.zero }

/-- RGN_ECC_CLEAR. -/
def execRgnEccClear (s : State) : Host.Outcome State Fault Refusal := .next (viaHost s (clearEcc s))

/-! Retirement (R355-R358, R446). -/

/-- RGN_RETIRE_ROWr written. -/
def writeRetireRow (s : State) (r : Nat) (v : Word64) : State :=
  logSetup { s with retireRows := mset 0 s.retireRows r (v &&& 0x00007FFF0FFF0001) } 1 0x08 (0x102000 + 8 * r) none v.toNat

/-- RETIRE_ROW_WRITE. -/
def execRetireRowWrite (r : BitVec 10) (value : Word64) (s : State) : Host.Outcome State Fault Refusal :=
  .next (viaHost s (writeRetireRow s r.toNat value))

/-- A bank retired: its unit's task and every descriptor for it end with RETIRED, and the unit is OFF (R357). -/
def retireUnit (s : State) (b : Nat) : State :=
  let s := endEntering s (.unit (buid b)) .retired
  let s := unitOff (drainCancelled (endCoreWork s (.unit (buid b)) .retired) b) b
  { s with retireBanks := mset false s.retireBanks b true }

/-- A bank returned: its unit holds no state, and works if its group's domain is ON (R357). -/
def returnUnit (s : State) (b : Nat) : State :=
  let s := { s with retireBanks := mset false s.retireBanks b false }
  if (domOf s (groupOf b)).st == .on then setUnit s b { BankUnit.off with st := .idle, idleSince := s.ck, runSince := s.ck } else s

/-- Whether the clearing of a bank's bit is refused. -/
def clearRefused (s : State) (w i : Nat) (v : Word64) : Bool :=
  !bit v i && bankRetired s (64 * w + i) && (mget none s.groupOwner (groupOf (64 * w + i))).isSome

/-- One bit of RGN_RETIRE_BANKw written. -/
def writeBankBit (s : State) (w i : Nat) (v : Word64) : State :=
  let b := 64 * w + i
  if bit v i && !bankRetired s b then retireUnit s b
  else if !bit v i && bankRetired s b && !clearRefused s w i v then returnUnit s b
  else s

/-- RGN_RETIRE_BANKw written (R446). -/
def writeRetireBank (s : State) (w : Nat) (v : Word64) : State :=
  let refused := (List.range 64).any (fun i => clearRefused s w i v)
  let changed := (List.range 64).any (fun i => bit v i != bankRetired s (64 * w + i) && !clearRefused s w i v)
  let s := (List.range 64).foldl (fun s i => writeBankBit s w i v) s
  let s := if refused then logSetup s 2 0x09 (0x104000 + 8 * w) none v.toNat else s
  if changed then logSetup s 1 0x08 (0x104000 + 8 * w) none v.toNat else s

/-- RETIRE_BANK_WRITE. -/
def execRetireBankWrite (w : BitVec 6) (value : Word64) (s : State) : Host.Outcome State Fault Refusal :=
  .next (viaHost s (writeRetireBank s w.toNat value))

/-- RGN_RETIRE_BANKw as it reads. -/
def retireImage (s : State) (w : Nat) : Nat := (List.range 64).foldl (fun n i => if bankRetired s (64 * w + i) then n + 2 ^ i else n) 0

/-! Power requests, homes, kites, the debug view (R245, R255, R369, R451). -/

/-- PWR_DOM_REQw written: each bit of a domain present. -/
def writeReqs (s : State) (w : Nat) (m v : Word64) : State :=
  (List.range 64).foldl (fun s i => if bit m i ∧ 64 * w + i < 270 then writeReq s (64 * w + i) (bit v i) else s) s

/-- PWR_DOM_REQ_WRITE. -/
def execPwrDomReqWrite (w : BitVec 3) (value : Word64) (s : State) : Host.Outcome State Fault Refusal :=
  .next (viaHost s (writeReqs s w.toNat (~~~0) value))

/-- SYN_BLOCK_HOME written (R245). -/
def writeHome (s : State) (blk v : Nat) : State :=
  if mget none s.blockOwner blk = none ∧ (v ≤ 8 ∨ (v = 9 ∧ s.net.pod = .member)) then setReg s (0x800000 + 8 * blk) (BitVec.ofNat 64 v)
  else logSetup s 2 0x07 (0x800000 + 8 * blk) none v

/-- SYN_BLOCK_HOME_WRITE. -/
def execSynBlockHomeWrite (blk : BitVec 8) (value : BitVec 4) (s : State) : Host.Outcome State Fault Refusal :=
  .next (viaHost s (writeHome s blk.toNat value.toNat))

/-- The 128 bytes of the debug window for a selection; of an object that does not exist the spec states nothing (log entry 53). -/
def debugRecord (s : State) (kind index k : Nat) : List Byte :=
  let none128 := (List.range 128).map (fun i => BitVec.ofNat 8 (Config.unstated 5 (s.free + i)))
  match kind with
  | 0 => padTo 128 (flagView s index)
  | 1 => if index < 1024 then padTo 128 (barrierView s index) else none128
  | 2 => if index < 4096 then padTo 128 (kiteView s index) else none128
  | _ => if index < 1024 then padTo 128 (unitMap (barOf s index).arrived k ++ unitMap (barOf s index).early k) else none128

/-- SYN_DBG_SELECT written: VALID cleared and a snapshot taken (R451). -/
def writeDebug (s : State) (v : Word64) : State :=
  let s := setReg s 0x801000 (v &&& 0x00000007FFFF0003)
  let r := debugRecord s (bits v 0 2) (bits v 16 16) (bits v 32 3)
  { s with free := s.free + 128, sync := { s.sync with dbgPend := some r, dbgView := none } }

/-- SYN_DBG_SELECT. -/
def execSynDbgSelect (value : Word64) (s : State) : Host.Outcome State Fault Refusal := .next (viaHost s (writeDebug s value))

/-- SYN_DBG_SNAPSHOT_READY (R451). -/
def execSynDbgSnapshotReady (s : State) : Host.Outcome State Fault Refusal :=
  .next (match s.sync.dbgPend with
    | some r => { s with sync := { s.sync with dbgPend := none, dbgView := some r } }
    | none => s)

/-- SYN_KITE_FREE. -/
def execSynKiteFree (k : BitVec 12) (s : State) : Host.Outcome State Fault Refusal := .next (viaHost s (dropKite s k.toNat))

/-! The trace (R438). -/

/-- LOG_TRACE_CTRL written: ENABLE from 0 to 1 empties the buffer and starts capture, 0 stops it. -/
def writeTrace (s : State) (v : Word64) : State :=
  let was := bit (reg s 0x40100) 0
  let s := setReg s 0x40100 (v &&& 0x7FFF0003)
  if bit v 0 then
    if was then s else { s with trace := { Trace.empty with running := true, lost := s.trace.lost } }
  else { s with trace := { s.trace with running := false } }

/-- TRACE_ENABLE. -/
def execTraceEnable (value : Word64) (s : State) : Host.Outcome State Fault Refusal := .next (viaHost s (writeTrace s value))

/-! Registers that only store (R5, R7, R440). -/

/-- The state that an outcome holds, or the one before it. -/
def after (s : State) (o : Host.Outcome State Fault Refusal) : State :=
  match o with
  | .next t => t
  | _ => s

/-- The RW bits of a register that has no behaviour of its own. -/
def rwMask (off : Nat) : Word64 :=
  if 0x400000 ≤ off ∧ off < 0x800000 then
    match off % 0x4000 with
    | 0x0008 => 0xFFFFFF
    | 0x0010 => 0x1FFF
    | 0x0018 => 0x1FFFF
    | 0x0020 => 0xFFFF
    | 0x0028 => 0xFFF
    | 0x0030 => 0x7
    | 0x0038 => 0x7
    | 0x0400 => 0x7FFFFFF
    | 0x0408 => 0x0001FFFF03FFFF07
    | 0x0888 => 0xFFFF
    | 0x0898 => 0xFFFFFFFFFFFFFFC0
    | _ => 0
  else
    match off with
    | 0x20008 => 0x3FF
    | 0x20010 => 0xFFFF
    | 0x20018 => 0xFFFFF
    | 0x30000 => 0x3FF
    | 0x30028 => 0x3FFF
    | 0x40108 => 0x7FFFFFFFFFFF01FF
    | 0x40110 => 0x0000FFFF0001FFFF
    | 0x40118 => 0x3FFF
    | 0x40120 => 0x3FFF
    | 0x40200 => 0x3FFF
    | 0x100100 => 0xFFF
    | 0xC00018 => 0xFFFFFFFFFFFFFFFF
    | 0xC00038 => 0xFFFFFF
    | 0xC00040 => 0xFFFFFF
    | 0xC00048 => 0xFFFFF
    | 0xC00050 => 0x1FFFF
    | _ => 0

/-- The field of a register that has a stated range: its lowest bit, its width, its least and greatest value (Tables 18.2-18.9). -/
def fieldRange (s : State) (off : Nat) : Option (Nat × Nat × Nat × Nat) :=
  if 0x400000 ≤ off ∧ off < 0x800000 then
    match off % 0x4000 with
    | 0x0008 => some (0, 24, 1, 10000000)
    | 0x0010 => some (0, 13, 0, 4096)
    | 0x0018 => some (0, 17, 0, 65536)
    | 0x0408 => some (40, 9, 1, 256)
    | _ => none
  else
    match off with
    | 0x20008 => some (0, 10, 200, 450)
    | 0x20018 => some (0, 20, 1, 1000000)
    | 0x30028 => some (0, 14, 500, 10000)
    | 0xC00038 => some (0, 24, 10, bits (reg s 0xC00040) 0 24)
    | 0xC00040 => some (0, 24, 50, 100000)
    | 0xC00048 => some (0, 20, 100, 1000000)
    | 0xC00050 => some (0, 17, 100, 100000)
    | _ => none

/-- A value with its ranged field at the nearest value of its range (R440). -/
def nearest (s : State) (off : Nat) (v : Word64) : Word64 :=
  match fieldRange s off with
  | some (lo, n, least, most) => putBits v lo n (max least (min most (bits v lo n)))
  | none => v

/-- A register's stored value with the written bits of a mask taken in. -/
def merge (old m v : Word64) : Word64 := (old &&& ~~~m) ||| (v &&& m)

/-- RW bits stored: of the written bits m, those that the register has. -/
def storeRw (s : State) (off : Nat) (m v : Word64) : State :=
  let m := m &&& rwMask off
  if m = 0 then s
  else if off = 0x30000 ∧ 543 < bits v 0 10 then s
  else setReg s off (nearest s off (merge (reg s off) m v))

/-- RWL bits written: stored while MEM_ACTIVE is clear; then kept, and a different value is logged (R5, R8). -/
def storeRwl (s : State) (off : Nat) (m v : Word64) : State :=
  let m := m &&& rwlMask off
  if m = 0 then s
  else if s.boot.memActive then
    if (v &&& m) = (reg s off &&& m) then s else logSetup s 2 0x01 off none v.toNat
  else setReg s off (merge (reg s off) m v)

/-- Whether every bit of a field was written: a WO field then acts (R440). -/
def covers (m : Word64) (lo n : Nat) : Bool := (List.range n).all (fun i => bit m (lo + i))

/-- A register of the NET_ block written (Table 18.9). -/
def writeNet (s : State) (off : Nat) (m v : Word64) : State :=
  match off with
  | 0xC00000 =>
    let s := storeRwl s off m v
    if !bit m 0 then s else if bit v 0 then after s (execPodEnable s) else after s (execPodDisable s)
  | 0xC00020 => if covers m 0 6 then after s (execNetExpel (BitVec.ofNat 6 (bits v 0 6)) s) else s
  | 0xC00028 => if covers m 0 6 then after s (execNetReadmit (BitVec.ofNat 6 (bits v 0 6)) s) else s
  | 0xC03000 =>
    if covers m 0 16 then after s (execNetLostClear (BitVec.ofNat 8 (bits v 0 8)) (BitVec.ofNat 6 (bits v 8 6)) (bit v 15) s) else s
  | _ =>
    if 0xC01000 ≤ off ∧ off < 0xC01800 ∧ (off - 0xC01000) % 0x20 = 0x18 then
      if bit m 1 && bit v 1 then
        modPeer s ((off - 0xC01000) / 0x20) (fun p => { p with logsat := p.logsat && p.logsatCk == some s.ck })
      else s
    else storeRw (storeRwl s off m v) off m v

/-- TEN_CTRL written: ENABLE and MODE (R274-R276). -/
def writeTenCtrl (s : State) (t : Nat) (m v : Word64) : State :=
  let x := tenOf s t
  let en := if bit m 0 then bit v 0 else x.enabled
  let mode := if bit m 1 then bit v 1 else x.xlat
  tenCtrlWrite s t mode en v.toNat

/-- TEN_RINGj_BASE, CTRL or START written (R48, R448). -/
def writeRing (s : State) (t o : Nat) (m v : Word64) : State :=
  let j := (o - 0x100) / 0x20
  let off := tenReg t o
  let r := ringOf s t j
  match (o - 0x100) % 0x20 with
  | 0x00 => if ringIdle s t j then setReg s off (merge (reg s off) (m &&& 0xFFFFFFFFFFFFF000) v) else logSetup s 2 0x05 off (some t) v.toNat
  | 0x08 =>
    let en := if bit m 0 then bit v 0 else r.enabled
    ringCtrl s t j (if bit m 8 then bits v 8 5 else r.log2) en v.toNat
  | 0x10 => if ringIdle s t j then setReg s off (merge (reg s off) (m &&& 0xFFFF) v) else logSetup s 2 0x05 off (some t) v.toNat
  | _ => s

/-- TEN_XLAT_CMD written with a value. -/
def writeXlatCmd (s : State) (t value : Nat) : State :=
  match value % 4 with
  | 1 => xlatCommand s t value (fun s => xlatWrite s t value)
  | 2 => xlatCommand s t value (fun s => xlatRead s t)
  | 3 => xlatCommand s t value (fun s => xlatInvalidate s t)
  | _ => s

/-- A register of a tenancy block written (Table 18.7). -/
def writeTen (s : State) (t o : Nat) (m v : Word64) : State :=
  let k := BitVec.ofNat 8 t
  if 0x100 ≤ o ∧ o < 0x1C0 then writeRing s t o m v
  else match o with
    | 0x000 => if bit m 0 || bit m 1 then writeTenCtrl s t m v else s
    | 0x200 => if covers m 0 3 && covers m 16 10 then switchWrite s t (bits v 0 3) (bits v 16 10) false v.toNat else s
    | 0x208 => if covers m 0 3 && covers m 16 10 then switchWrite s t (bits v 0 3) (bits v 16 10) true v.toNat else s
    | 0x410 => if covers m 0 2 then writeXlatCmd s t v.toNat else s
    | 0x880 => after s (execTenMeterSatWrite k (BitVec.ofNat 16 (bits (v &&& m) 0 16)) s)
    | 0x890 => if bit m 0 && bit v 0 then after s (execTenMeterClear k s) else s
    | 0x8A0 => if bit m 0 && bit v 0 then after s (execTenSnapGo k s) else s
    | _ => storeRw s (tenReg t o) m v

/-- A register of the RGN_ block written (Table 18.6). -/
def writeRgn (s : State) (o : Nat) (m v : Word64) : State :=
  if 0x1000 ≤ o ∧ o < 0x2000 then
    let n := (o - 0x1000) / 0x40
    let r := regionOf s n
    let w (old : Nat) : Word64 := merge (BitVec.ofNat 64 old) m v
    match (o - 0x1000) % 0x40 with
    | 0x00 => writeRegionCtrl s n (w (regionImage s n))
    | 0x08 => writeRegionField s n 0x08 v (fun q => { q with base := 2 ^ 21 * bits (w r.base) 21 27 })
    | 0x10 => writeRegionField s n 0x10 v (fun q => { q with size := 2 ^ 21 * bits (w r.size) 21 27 })
    | 0x18 => writeRegionField s n 0x18 v (fun q => { q with fill := BitVec.ofNat 32 (bits (w r.fill.toNat) 0 32) })
    | _ => s
  else if 0x2000 ≤ o ∧ o < 0x4000 then
    writeRetireRow s ((o - 0x2000) / 8) (merge (mget 0 s.retireRows ((o - 0x2000) / 8)) m v)
  else if 0x4000 ≤ o ∧ o < 0x4200 then
    writeRetireBank s ((o - 0x4000) / 8) (merge (BitVec.ofNat 64 (retireImage s ((o - 0x4000) / 8))) m v)
  else match o with
    | 0x0000 => if bit m 0 then writeSplit s (bits v 0 6) else s
    | 0x0110 => if bit m 0 && bit v 0 then clearEcc s else s
    | _ => storeRw s (0x100000 + o) m v

/-- A register of the SYN_ block written (Table 18.8). -/
def writeSyn (s : State) (o : Nat) (m v : Word64) : State :=
  if o < 0x800 then (if bit m 0 then writeHome s (o / 8) (bits v 0 4) else s)
  else match o with
    | 0x1000 => writeDebug s (merge (reg s 0x801000) m v)
    | 0x1010 => if covers m 0 12 then dropKite s (bits v 0 12) else s
    | _ => s

/-- A register of the FEAT_, CLK_, PWR_, THM_ and LOG_ blocks written (Tables 18.1-18.5). -/
def writeLow (s : State) (off : Nat) (m v : Word64) : State :=
  if 0x20100 ≤ off ∧ off < 0x20128 then writeReqs s ((off - 0x20100) / 8) m v
  else match off with
    | 0x00088 => if bit m 0 && bit v 0 then after s (execFeatCtrlGo s) else s
    | 0x10008 => if bit m 0 && bit v 0 then relockRequest s else s
    | 0x20000 => if bit m 8 && bit v 8 && s.pwr.capFloorCk != some s.ck then { s with pwr := { s.pwr with capFloor := false } } else s
    | 0x40100 => writeTrace s (merge (reg s 0x40100) m v)
    | _ => storeRw s off m v

/-- A BAR0 register written: of the bits m of the 8 bytes at an aligned offset (Table 2.8, R440). -/
def barWrite (s : State) (off : Nat) (m v : Word64) : State :=
  if off < 0x100000 then writeLow s off m v
  else if off < 0x200000 then writeRgn s (off - 0x100000) m v
  else if off < 0x400000 then s
  else if off < 0x800000 then writeTen s ((off - 0x400000) / 0x4000) ((off - 0x400000) % 0x4000) m v
  else if off < 0xC00000 then writeSyn s (off - 0x800000) m v
  else if s.variant = .rl512N then writeNet s off m v
  else s

/-- The bytes that an access writes: whole registers, or the low or the high half of one. -/
def barMask (off size : Nat) : Option Word64 :=
  if size = 8 ∧ off % 8 = 0 then some (~~~0)
  else if size = 4 ∧ off % 8 = 0 then some 0xFFFFFFFF
  else if size = 4 ∧ off % 8 = 4 then some 0xFFFFFFFF00000000
  else none

/-- REGISTER_WRITE: an access of any other size or alignment writes nothing (R440). -/
def execRegisterWrite (off : BitVec 24) (size : Nat) (value : Word64) (s : State) : Host.Outcome State Fault Refusal :=
  let o := off.toNat
  .next (viaHost s (match barMask o size with
    | some m => barWrite s (o / 8 * 8) m (if o % 8 = 4 then value <<< 32 else value)
    | none => s))

end Sys2Proof.Machine
end

