-- ==== Sys2Proof/Machine/BarRead.lean ====
section
/-! DEFINITION. What a BAR0 read returns: every register of the setup register reference (R440, R441, Tables 18.1-18.9). Reads change
nothing, so they are an observer of the state and no command. -/

namespace Sys2Proof.Machine

/-- A number with bit i set where a test holds, for i below n. -/
def maskOf (n : Nat) (f : Nat → Bool) : Nat := (List.range n).foldl (fun a i => if f i then a + 2 ^ i else a) 0

/-- A signed number in n bits. -/
def signBits (n : Nat) (v : Int) : Nat := (v % (2 ^ n : Nat)).toNat

/-- FEAT_ registers (Table 18.1). -/
def readFeat (s : State) (o : Nat) : Nat :=
  let n := s.variant == .rl512N
  if 0x100 ≤ o ∧ o < 0x300 then maskOf 64 (fun i => available s ((o - 0x100) / 8 * 64 + i))
  else match o with
    | 0x00 => Config.vendorId.toNat + 0x0512 * 2 ^ 16 + (if n then 0x4E else 0x48) * 2 ^ 40
    | 0x08 => 0x00004088
    | 0x10 => 0x00201000
    | 0x18 => 0x00010000
    | 0x20 => 0x00020800
    | 0x28 => 0x00002010
    | 0x30 => 0x08804020
    | 0x38 => 0x000007FF
    | 0x40 => 65536 + 1024 * 2 ^ 32 + 4096 * 2 ^ 48
    | 0x48 => 8 + 8 * 2 ^ 8 + 4 * 2 ^ 16 + (if n then 2 else 0) * 2 ^ 24 + 1024 * 2 ^ 32
    | 0x50 => 64 + 32 * 2 ^ 8 + 4096 * 2 ^ 16 + 1024 * 2 ^ 32 + 16 * 2 ^ 48 + 4 * 2 ^ 56
    | 0x58 => 256 + 256 * 2 ^ 16 + 64 * 2 ^ 32 + 65536 * 2 ^ 40
    | 0x60 => 0x8000000000
    | 0x80 => b2n s.boot.memActive + 2 * b2n s.boot.awaitGo
    | 0x90 => (if s.boot.notReady then 6 else s.boot.step) + 16 * b2n s.boot.fallback + 32 * b2n s.boot.slotB + s.boot.cause * 2 ^ 8
        + 2 ^ 16 * s.boot.stack + 2 ^ 20 * s.boot.buid
    | 0x98 => s.time
    | 0xA0 => s.unattrRd
    | 0xA8 => s.unattrWr
    | _ => 0

/-- Memory_Active of the CXL DVSEC range registers (R395). -/
def dvsecMemoryActive (s : State) : Bool := s.boot.memActive
/-- Memory_Active_Timeout of the CXL DVSEC range registers, in seconds (R395). -/
def dvsecMemoryActiveTimeout : Nat := 1

/-- CLK_ registers (Table 18.2). -/
def readClk (s : State) (o : Nat) : Nat :=
  if 0x10 ≤ o ∧ o < 0x50 then mget 0 s.clk.closures ((o - 0x10) / 8) else if o = 0 then clkStatus s else 0

/-- The state of a domain as PWR_DOM_STATE shows it: a group's ramp begins in the cycle after its sixteenth credit (R371). -/
def domCode (s : State) (d : Nat) : Nat :=
  let x := domOf s d
  (match x.st with | .off => 0 | .ramping => (if s.elapsed < x.since then 0 else 1) | .on => 2 | .draining => 3) + 4 * b2n x.reEnable

/-- PWR_ registers (Table 18.3). -/
def readPwr (s : State) (o : Nat) : Nat :=
  if 0x100 ≤ o ∧ o < 0x128 then maskOf 64 (fun i => domPresent s ((o - 0x100) / 8 * 64 + i) && domReq s ((o - 0x100) / 8 * 64 + i))
  else if 0x200 ≤ o ∧ o < 0x288 then (List.range 16).foldl (fun a k =>
    if (o - 0x200) / 8 * 16 + k < 270 then a + domCode s ((o - 0x200) / 8 * 16 + k) * 2 ^ (4 * k) else a) 0
  else match o with
    | 0x00 => pwrStatus s
    | 0x20 => maskOf 8 (fun k => !(mget [] s.pwr.queues k).isEmpty)
    | 0x28 => (List.range 8).foldl (fun a k => a + stackLevel s k * 2 ^ (5 * k)) 0
    | 0x30 => min 0xFFFF (powerAverage s) + 2 ^ 16 * s.pwr.volts
    | _ => (reg s (0x20000 + o)).toNat

/-- THM_ registers (Table 18.4). -/
def readThm (s : State) (o : Nat) : Nat :=
  let temp (k : Nat) : Nat := signBits 12 ((tempOf s k).getD 0)
  if 0x100 ≤ o ∧ o < 0x140 then temp ((o - 0x100) / 8)
  else if 0x200 ≤ o ∧ o < 0x248 then maskOf 64 (fun i => mget false s.thm.failed ((o - 0x200) / 8 * 64 + i))
  else if 0x300 ≤ o ∧ o < 0x380 then
    let x := thmOf s ((o - 0x300) / 16)
    if o % 16 = 0 then (if x.kThr = 16 then 0 else if x.kThr = 8 then 1 else 2) + 4 * b2n x.pending.isSome else x.enforceAt
  else match o with
    | 0x08 =>
      let i := bits (reg s 0x30000) 0 10
      signBits 12 (readingOf s i) + b2n (mget false s.thm.failed i) * 2 ^ 12
    | 0x10 => (List.range 8).foldl (fun a k => a + (thmOf s k).band * 2 ^ (2 * k)) 0
    | 0x18 => temp 8
    | 0x20 => (thmOf s 8).band
    | 0x30 => maskOf 9 (fun k => if k = 8 then (thmOf s 8).halted else stackHalted s k)
    | 0x38 => b2n s.thm.shutdown
    | 0x40 => b2n (windowOpen s) + 2 * b2n (decide ((validMdie s).length < 2))
    | _ => (reg s (0x30000 + o)).toNat

/-- The 16 bytes of a trace record (Table 17.10). -/
def TraceRec.bytes (r : TraceRec) : List Byte :=
  leBytes 6 r.time ++ leBytes 1 (r.event + 128 * b2n r.lost) ++ leBytes 1 r.ten ++ leBytes 2 r.source ++ leBytes 2 r.tag.toNat
    ++ leBytes 4 r.data.toNat

/-- Half h of the trace record that LOG_TRACE_INDEX names: 0 while capture runs or beyond the records held. -/
def traceData (s : State) (h : Nat) : Nat :=
  if s.trace.running then 0
  else match s.trace.recs[bits (reg s 0x40120) 0 14]? with
    | some r => leNat ((r.bytes.drop (8 * h)).take 8)
    | none => 0

/-- The history record that LOG_UNIT_SELECT names (R439). -/
def unitRecord (s : State) : Option TaskRec := (unitOf s (bits (reg s 0x40200) 0 12)).history[bits (reg s 0x40200) 12 2]?

/-- LOG_ registers (Table 18.5). -/
def readLogRegs (s : State) (o : Nat) : Nat :=
  match o with
  | 0x00 => s.log.next
  | 0x08 => s.log.count
  | 0x10 => s.log.overwr
  | 0x18 => s.log.lost
  | 0x20 => s.trace.lost
  | 0x28 => s.trace.epoch
  | 0x100 => (reg s 0x40100).toNat + 4 * b2n !s.trace.running
  | 0x128 => traceData s 0
  | 0x130 => traceData s 1
  | 0x138 => s.trace.recs.length
  | 0x208 => match unitRecord s with
    | some h => h.tag.toNat + 2 ^ 16 * h.status.code + b2n h.cask * 2 ^ 24 + 2 ^ 32 * h.pc
    | none => 0
  | 0x210 => match unitRecord s with
    | some h => h.startT + 2 ^ 32 * h.endT
    | none => 0
  | _ => (reg s (0x40000 + o)).toNat

/-- The log window (R424); what a place that holds no entry reads as is not stated. -/
def readWindow (s : State) (o : Nat) : Nat :=
  match mget none s.log.entries (o / 32) with
  | some e => leNat ((e.bytes.drop (o % 32)).take 8)
  | none => Config.unstated 6 o % 2 ^ 64

/-- RGN_ registers (Table 18.6). -/
def readRgn (s : State) (o : Nat) : Nat :=
  if 0x1000 ≤ o ∧ o < 0x2000 then
    let r := regionOf s ((o - 0x1000) / 0x40)
    match o % 0x40 with
    | 0x00 => regionImage s ((o - 0x1000) / 0x40)
    | 0x08 => r.base
    | 0x10 => r.size
    | 0x18 => r.fill.toNat
    | 0x20 => r.oobRd
    | 0x28 => r.oobWr
    | _ => 0
  else if 0x2000 ≤ o ∧ o < 0x4000 then (mget 0 s.retireRows ((o - 0x2000) / 8)).toNat
  else if 0x4000 ≤ o ∧ o < 0x4200 then retireImage s ((o - 0x4000) / 8)
  else match o with
    | 0x108 =>
      let e := mget Ecc.zero s.ecc (bits (reg s 0x100100) 0 12)
      e.ce + 2 ^ 16 * e.ue + 2 ^ 32 * e.pr
    | 0x118 => s.eccTot.ce
    | 0x120 => s.eccTot.ue
    | 0x128 => s.eccTot.pr
    | _ => (reg s (0x100000 + o)).toNat

/-- TEN_ENERGY_WEIGHTe in pJ (Table 11.7). -/
def energyWeight (e : Nat) : Nat := [16, 80, 1100, 10, 6, 40, 30, 20, 15].getD e 0

/-- TEN_ registers of one tenancy (Table 18.7). -/
def readTen (s : State) (t o : Nat) : Nat :=
  let x := tenOf s t
  let r := ringOf s t ((o - 0x100) / 0x20)
  if 0x100 ≤ o ∧ o < 0x1C0 ∧ o % 0x20 = 0x08 then b2n r.enabled + r.log2 * 2 ^ 8
  else if 0x100 ≤ o ∧ o < 0x1C0 ∧ o % 0x20 = 0x18 then r.head.toNat + 2 ^ 16 * r.tail.toNat + b2n r.held * 2 ^ 32
  else if 0x300 ≤ o ∧ o < 0x320 then maskOf 64 (fun i => ownsGroup s t ((o - 0x300) / 8 * 64 + i))
  else if 0x320 ≤ o ∧ o < 0x340 then maskOf 64 (fun i => mget none s.blockOwner ((o - 0x320) / 8 * 64 + i) == some t)
  else if 0x340 ≤ o ∧ o < 0x3C0 then maskOf 64 (fun i => mget none s.barOwner ((o - 0x340) / 8 * 64 + i) == some t)
  else if 0x800 ≤ o ∧ o < 0x880 then mget 0 x.meters ((o - 0x800) / 8)
  else if 0x900 ≤ o ∧ o < 0x948 then energyWeight ((o - 0x900) / 8)
  else match o with
    | 0x000 => b2n x.enabled + 2 * b2n x.xlat
    | 0x210 => b2n x.swBusy + x.swResult * 2 ^ 8 + 2 ^ 16 * x.swKind + 2 ^ 32 * x.swIndex
    | 0x3C0 => pressMap s t
    | 0x418 => b2n x.xBusy + 2 * b2n x.xError + 4 * b2n x.xFound + (s.xlat.filter (fun e => e.ten == t)).length * 2 ^ 32
    | 0x880 => x.sat.toNat
    | 0x8A8 => b2n x.snapBusy
    | _ => (reg s (tenReg t o)).toNat

/-- SYN_ registers (Table 18.8). -/
def readSyn (s : State) (o : Nat) : Nat :=
  if o < 0x800 then
    blockHome s (o / 8) + (match mget none s.blockOwner (o / 8) with | some t => t * 2 ^ 8 + 2 ^ 16 | none => 0)
  else if 0x2000 ≤ o ∧ o < 0x2080 then
    match s.sync.dbgView with
    | some v => leNat ((v.drop (o - 0x2000)).take 8)
    | none => 0
  else if 0x10000 ≤ o ∧ o < 0x12000 then maskOf 64 (fun i => flagOf s (8 * (o - 0x10000) + i))
  else match o with
    | 0x1008 => b2n s.sync.dbgView.isSome
    | _ => (reg s (0x800000 + o)).toNat

/-- NET_ registers (Table 18.9). -/
def readNet (s : State) (o : Nat) : Nat :=
  if 0x1000 ≤ o ∧ o < 0x1800 ∧ o % 0x20 = 0x18 then
    let p := peerOf s ((o - 0x1000) / 0x20)
    b2n p.quarantined + 2 * b2n p.logsat + 4 * b2n p.member + 8 * b2n p.moved + min 255 p.violations * 2 ^ 8
  else if 0x2000 ≤ o ∧ o < 0x2800 then (tenOf s ((o - 0x2000) / 8)).netLost.toNat
  else match o with
    | 0x10 => (match s.net.pod with | .alone => 0 | .joining => 1 | .member => 2 | .managing => 3) + 2 ^ 32 * s.net.incarn.toNat
    | 0x58 => b2n s.net.aligned + 2 * b2n s.net.lost + signBits 32 (max (-(2 ^ 31)) (min (2 ^ 31 - 1) s.net.offset)) * 2 ^ 32
    | 0x70 => maskOf 2 (linkUp s)
    | 0xC0 => s.net.rxOther
    | 0xC8 => s.net.rxUnknown
    | 0xD0 => s.net.rxErr
    | _ => (reg s (0xC00000 + o)).toNat

/-- The 64 bits of the register at an aligned BAR0 offset (Table 2.8); reserved offsets read 0 (R7). -/
def barRead (s : State) (off : Nat) : Nat :=
  if off < 0x10000 then readFeat s off
  else if off < 0x20000 then readClk s (off - 0x10000)
  else if off < 0x30000 then readPwr s (off - 0x20000)
  else if off < 0x40000 then readThm s (off - 0x30000)
  else if off < 0x50000 then readLogRegs s (off - 0x40000)
  else if off < 0x100000 then 0
  else if off < 0x110000 then readRgn s (off - 0x100000)
  else if off < 0x200000 then 0
  else if off < 0x400000 then readWindow s (off - 0x200000)
  else if off < 0x800000 then readTen s ((off - 0x400000) / 0x4000) ((off - 0x400000) % 0x4000)
  else if off < 0xC00000 then readSyn s (off - 0x800000)
  else if off < 0xD00000 ∧ s.variant = .rl512N then readNet s (off - 0xC00000)
  else 0

/-- A host read of BAR0: 8 or 4 aligned bytes; 0 for any other access (R440). -/
def hostBarRead (s : State) (off size : Nat) : Nat :=
  if size = 8 ∧ off % 8 = 0 then barRead s off
  else if size = 4 ∧ off % 4 = 0 then barRead s (off / 8 * 8) / 2 ^ (8 * (off % 8)) % 2 ^ 32
  else 0

end Sys2Proof.Machine
end

