-- ==== Sys2Proof/Machine/Mgmt.lean ====
section
/-! DEFINITION. The management path, firmware update and fuses, and the SPDM responder (R401-R403, R410-R416, R430, R435, R459, R460). -/

namespace Sys2Proof.Machine

/-! Management commands (R394, R411, Table 16.8). -/

/-- Whether the management path answers: from the end of step 3, and in every state that leaves VAUX powered (R394, R403, R428, R459). -/
def mgmtUp (s : State) : Bool :=
  match s.boot.phase with
  | .off => false
  | .sequence => decide (4 ≤ s.boot.step)
  | _ => true

/-- A reply with a status code. -/
def reply (s : State) (st : Status) : State := emit s (.reply st [])

/-- A management command: entered in the log, answered with BAD_FIELD during an Ehreg restart (R411, R435). -/
def command (s : State) (slot kind : Nat) (go : State → State) : State :=
  if !mgmtUp s then s
  else
    let s := logAdd s 1 (srcNum 0xE 0) 0x08 0x04 none none (leBytes 1 slot ++ [0] ++ leBytes 1 kind)
    if s.mgmt.restarting.isSome then reply s .badField else go s

/-- A flash or fuse write: outside the temperature window nothing changes, and the attempt is logged (R392). -/
def inWindow (s : State) (go : State → State) : State :=
  if windowOpen s then reply (go s) .ok else reply (logWindow s 0x08) .tempWindow

/-- SET_BOOT_SLOT. -/
def execSetBootSlot (slot trial : Bool) (s : State) : Host.Outcome State Fault Refusal :=
  .next (command s (b2n slot) 0 (fun s =>
    if slotGood s slot then inWindow s (fun s => storeDir s (slot, trial, (bootDir s).2.2)) else reply s .badField))

/-- Whether firmware runs: a slot has verified; a latched shutdown leaves the controller powered and it goes on (R391). -/
def firmwareRuns (s : State) : Bool := (s.boot.phase == .sequence || s.boot.phase == .shutdown) && decide (5 ≤ s.boot.step)

/-- COMMIT_SVN (R401). -/
def execCommitSvn (s : State) : Host.Outcome State Fault Refusal :=
  .next (command s 0 0 (fun s =>
    if (bootDir s).2.1 || !firmwareRuns s then reply s .badField
    else inWindow s (fun s => { s with fuses := { s.fuses with svn := BitVec.ofNat 6 (max s.fuses.svn.toNat (min 63 (imgNum (slotImage s s.boot.slotB) 16 2))) } })))

/-- Whether the image in a slot is signed with a key. -/
def signedWith (s : State) (b : Bool) (k : Nat) : Bool := imgBytes (slotImage s b) 0 8 == magic && imgNum (slotImage s b) 18 1 == k

/-- REVOKE_KEY (R402). -/
def execRevokeKey (k : BitVec 3) (s : State) : Host.Outcome State Fault Refusal :=
  .next (command s 0 0 (fun s =>
    if 4 ≤ k.toNat ∨ (signedWith s false k.toNat || signedWith s true k.toNat) = true then reply s .badField
    else inWindow s (fun s => { s with fuses := { s.fuses with revoked := s.fuses.revoked ||| (1#4 <<< k.toNat) } })))

/-- Whether a provisioning record names RWL fields alone. -/
def provisionOk (p : Provision) : Bool := p.fields.all (fun e => rwlMask e.1 != 0 && (e.2 &&& ~~~rwlMask e.1) == 0)

/-- WRITE_PROVISION: none stands for a record whose form is malformed. -/
def execWriteProvision (p : Option Provision) (s : State) : Host.Outcome State Fault Refusal :=
  .next (command s 0 0 (fun s =>
    match p with
    | none => reply s .badField
    | some p => if provisionOk p then inWindow s (fun s => { s with flash := { s.flash with provision := p } }) else reply s .badField))

/-- MODULE_RESET cold: no command clears a latched shutdown, and a module without rails waits for a power cycle (R391, R397, R403, R406). -/
def execModuleResetCold (s : State) : Host.Outcome State Fault Refusal :=
  .next (command s 0 1 (fun s =>
    let s := reply s .ok
    if s.boot.phase = .sequence ∨ s.boot.phase = .recovery then coldReset s else s))

/-- MODULE_RESET warm (R406). -/
def execModuleResetWarm (s : State) : Host.Outcome State Fault Refusal :=
  .next (command s 0 2 (fun s => warmIfUp (reply s .ok) false))

/-- CLK_RELOCK, by the register or as a management command (R363, R411). -/
def execClkRelock (managed : Bool) (s : State) : Host.Outcome State Fault Refusal :=
  .next (if managed then command s 0 0 (fun s => relockRequest (reply s .ok)) else relockRequest s)

/-- The SEQ of the oldest entry held (R429). -/
def logOldest (l : CellarLog) : Nat := (l.next + 2 ^ 32 - l.count) % 2 ^ 32

/-- n entries in SEQ order from one, as far as they are held. -/
def logEntries (l : CellarLog) (n q : Nat) : List LogEntry :=
  match n with
  | 0 => []
  | k + 1 =>
    if q = l.next then []
    else match mget none l.entries (q % 65536) with
      | some e => e :: logEntries l k ((q + 1) % 2 ^ 32)
      | none => []

/-- READ_LOG (R430). -/
def execReadLog (first : Word) (count : Nat) (s : State) : Host.Outcome State Fault Refusal :=
  .next (command s 0 0 (fun s =>
    if count = 0 ∨ 32 < count then reply s .badField
    else
      let old := logOldest s.log
      let ahead := (first.toNat + 2 ^ 32 - old) % 2 ^ 32
      let older := decide (2 ^ 31 ≤ ahead)
      let entries := if older then logEntries s.log count old
        else if ahead < s.log.count then logEntries s.log count first.toNat else []
      emit s (.logReply .ok old s.log.next older entries)))

/-- The slot that an update writes: the one that does not run; in recovery mode either, as the update asks, which no operand of the command
says (R403, R410, log entry 128). -/
def updateSlot (s : State) : Bool × State :=
  if firmwareRuns s then (!s.boot.slotB, s)
  else
    let (k, s) := draw s
    (Config.unstated 8 k % 2 == 1, s)

/-- FIRMWARE_UPDATE: the slot is written and verified, and activation prefers it on trial (R392, R403, R410). -/
def execFirmwareUpdate (img : Image) (s : State) : Host.Outcome State Fault Refusal :=
  .next (if !mgmtUp s then s
    else if s.mgmt.restarting.isSome then reply s .badField
    else if !windowOpen s then reply (logWindow s 0x08) .tempWindow
    else
      let (b, s) := updateSlot s
      let s := { s with flash := if b then { s.flash with slotB := img } else { s.flash with slotA := img } }
      if slotGood s b then reply (storeDir s (b, true, (bootDir s).2.2)) .ok
      else reply s .badField)

/-! The bus and its alert (R459, R460). -/

/-- I3C_ADDRESS_ASSIGN: from now on until the next power-on the bus runs as I3C; ALERT# is then never asserted for events, and an event message
that waits leaves as an in-band interrupt (R460). -/
def execI3cAddressAssign (addr : BitVec 7) (s : State) : Host.Outcome State Fault Refusal :=
  .next (if s.boot.phase = .off then s
    else
      let was := s.mgmt.event && !s.mgmt.i3c
      let low := was && !s.mgmt.alertShut
      let s := { s with mgmt := { s.mgmt with i3c := true, address := addr, event := if was then false else s.mgmt.event } }
      let s := if low then emit s (.alert false) else s
      if was then emit s .inBand else s)

/-- SMBUS_ALERT_RESPONSE: the module releases SMBALERT#; a shutdown keeps ALERT# asserted (R460). -/
def execSmbusAlertResponse (s : State) : Host.Outcome State Fault Refusal :=
  .next (if s.boot.phase = .off ∨ s.mgmt.i3c = true ∨ s.mgmt.event = false then s
    else
      let s := { s with mgmt := { s.mgmt with event := false } }
      if s.mgmt.alertShut then s else emit s (.alert false))

/-- EHREG_WATCHDOG_EXPIRY: the firmware restarts from the running slot, which the entry names; the data path goes on (R433, R435, Tables
17.6, 17.9). -/
def execEhregWatchdogExpiry (s : State) : Host.Outcome State Fault Refusal :=
  .next (if firmwareRuns s && s.mgmt.restarting.isNone then
    logAdd { s with mgmt := { s.mgmt with restarting := some s.elapsed } } 3 (srcNum 0xE 0) 0x08 0x05 none none (leBytes 1 (b2n s.boot.slotB))
  else s)

/-- EHREG_RESTART_DONE (R435). -/
def execEhregRestartDone (s : State) : Host.Outcome State Fault Refusal := .next { s with mgmt := { s.mgmt with restarting := none } }

/-! SPDM (R412-R416). Response codes: PRESUMED, SPDM 1.3 (log entry 8). -/

/-- The fuse secret as the ROM read it at step 3 (R413). -/
def romSecret (s : State) : List Byte := s.mgmt.romSecret.getD []

/-- Measurement 2: BODY_DIGEST of the running firmware (Table 16.9). -/
def bodyDigest (s : State) : List Byte := imgBytes (slotImage s s.boot.slotB) 64 64

/-- The attestation key, derived from the fuse secret and measurements 1 and 2 (R414). -/
def attestKey (s : State) : List Byte := Config.attestKey (romSecret s) Config.maskRom (bodyDigest s)

/-- The three certificates of slot 0: the root, the device identity, the attestation certificate with both measurements and the SVN (R413,
R414). -/
def certificates (s : State) : List (List Byte) :=
  [Config.rootCert, Config.identityCert (romSecret s),
   Config.attestCert (romSecret s) (attestKey s) Config.maskRom (bodyDigest s) (imgNum (slotImage s s.boot.slotB) 16 2)]

/-- The chain of slot 0. -/
def certChain (s : State) : List Byte := (certificates s).flatten

/-- A body with its signature by the attestation key. -/
def withSig (s : State) (ctx body : List Byte) : List Byte := body ++ Config.ed448Sign (attestKey s) ctx body

/-- A response: its code and its bytes, signed (R414, log entry 8). -/
def spdm (s : State) (code : Nat) (body : List Byte) : State := emit s (.spdm (code :: (withSig s [] body).map (·.toNat)))

/-- An ERROR response with its error code. -/
def spdmError (s : State) (code : Nat) : State := spdm s 0x7F (leBytes 1 code)
/-- InvalidRequest. -/
def invalidRequest : Nat := 0x01
/-- UnsupportedRequest (R412). -/
def unsupportedRequest : Nat := 0x07

/-- An SPDM request reaches the responder over the host link once the attestation key is there. -/
def spdmRequest (s : State) (go : State → State) : State := viaHost s (if s.boot.keyReady && firmwareRuns s then go s else s)

/-- GET_VERSION: 1.2 and 1.3. -/
def execGetVersion (s : State) : Host.Outcome State Fault Refusal := .next (spdmRequest s (fun s => spdm s 0x04 [0x12, 0x13]))
/-- GET_CAPABILITIES. -/
def execGetCapabilities (s : State) : Host.Outcome State Fault Refusal := .next (spdmRequest s (fun s => spdm s 0x61 []))
/-- The measurement hash "raw bit stream". -/
def rawBitStream : Nat := 2 ^ 0
/-- The base asymmetric algorithm EdDSA Ed448. -/
def edDsaEd448 : Nat := 2 ^ 11
/-- The base hash algorithm SHA3-512. -/
def sha3With512 : Nat := 2 ^ 5

/-- NEGOTIATE_ALGORITHMS: the measurement hash, the base asymmetric and the base hash algorithm that are negotiated (R412). -/
def execNegotiateAlgorithms (s : State) : Host.Outcome State Fault Refusal :=
  .next (spdmRequest s (fun s => spdm s 0x63 (leBytes 4 rawBitStream ++ leBytes 4 edDsaEd448 ++ leBytes 4 sha3With512)))
/-- GET_DIGESTS: slot 0. -/
def execGetDigests (s : State) : Host.Outcome State Fault Refusal :=
  .next (spdmRequest s (fun s => spdm s 0x01 (sha3 (certChain s))))
/-- GET_CERTIFICATE: slot 0 alone holds a chain. -/
def execGetCertificate (slot : BitVec 4) (s : State) : Host.Outcome State Fault Refusal :=
  .next (spdmRequest s (fun s => if slot = 0 then spdm s 0x02 (certChain s) else spdmError s invalidRequest))
/-- CHALLENGE. -/
def execChallenge (nonce : BitVec 256) (s : State) : Host.Outcome State Fault Refusal :=
  .next (spdmRequest s (fun s =>
    spdm s 0x03 (sha3 (certChain s) ++ leBytes 32 nonce.toNat)))

/-- A measurement block (Table 16.9). -/
def measurement (s : State) (i : Nat) : List Byte :=
  let img := slotImage s s.boot.slotB
  match i with
  | 1 => Config.maskRom
  | 2 => bodyDigest s
  | 3 => padTo 12 (imgBytes img 12 4 ++ imgBytes img 16 2 ++ imgBytes img 18 1 ++ leBytes 1 (b2n s.boot.slotB) ++ leBytes 1 (b2n s.boot.fallback))
  | 4 => s.mgmt.meas4
  | 5 => match s.mgmt.prov with
    | some p => Config.provisionDigest p.hold p.fields
    | none => List.replicate 64 0
  | 6 => s.mgmt.meas6
  | _ => []

/-- GET_MEASUREMENTS, with signature: the number of blocks for index 0, every block for 0xFF, else the one asked for. -/
def execGetMeasurements (index : BitVec 8) (nonce : BitVec 256) (s : State) : Host.Outcome State Fault Refusal :=
  .next (spdmRequest s (fun s =>
    let i := index.toNat
    let block (k : Nat) : List Byte := leBytes 1 k ++ measurement s k
    let tail := leBytes 32 nonce.toNat
    if i = 0 then spdm s 0x60 ([6] ++ tail)
    else if i = 255 then spdm s 0x60 ([1, 2, 3, 4, 5, 6].flatMap block ++ tail)
    else if i ≤ 6 then spdm s 0x60 (block i ++ tail)
    else spdmError s invalidRequest))

/-- The context string of a tenancy report. -/
def tenancyContext : List Byte := [0x52, 0x4C, 0x2D, 0x35, 0x31, 0x32, 0x20, 0x74, 0x65, 0x6E, 0x61, 0x6E, 0x63, 0x79]

/-- The report of a tenancy before its signature (R416). -/
def tenancyReport (s : State) (t : Nat) (nonce : BitVec 256) : List Byte :=
  let x := if (tenOf s t).enabled then tenOf s t else Tenancy.empty
  leBytes 1 t ++ leBytes 8 x.loads ++ leBytes 64 x.tm.toNat ++ leBytes 8 s.time ++ leBytes 32 nonce.toNat ++ measurement s 2

/-- VENDOR_DEFINED_REQUEST (R297, R416). -/
def execVendorDefinedRequest (cmd : Byte) (ten : BitVec 8) (nonce : BitVec 256) (s : State) : Host.Outcome State Fault Refusal :=
  .next (spdmRequest s (fun s =>
    if cmd = 1 then emit s (.spdm (0x7E :: (withSig s tenancyContext (tenancyReport s ten.toNat nonce)).map (·.toNat)))
    else spdmError s invalidRequest))

/-- SPDM_UNSUPPORTED: the error UnsupportedRequest. -/
def execSpdmUnsupported (_code : Byte) (s : State) : Host.Outcome State Fault Refusal := .next (spdmRequest s (fun s => spdmError s unsupportedRequest))

end Sys2Proof.Machine
end

