-- ==== Sys2Proof/Machine/Dispatch.lean ====
section
/-! DEFINITION. The meaning of each command: one arm for each constructor of Instr. -/

namespace Sys2Proof.Machine

def exec (i : Instr) (s : State) : Host.Outcome State Fault Refusal :=
  match i with
  | .powerGood => Sys2Proof.Machine.execPowerGood s
  | .powerLoss => Sys2Proof.Machine.execPowerLoss s
  | .railsUp ok => Sys2Proof.Machine.execRailsUp ok s
  | .pllLock => Sys2Proof.Machine.execPllLock s
  | .romDone => Sys2Proof.Machine.execRomDone s
  | .firmwareVerify => Sys2Proof.Machine.execFirmwareVerify s
  | .linkTrainingDone failed => Sys2Proof.Machine.execLinkTrainingDone failed s
  | .memoryInit failed => Sys2Proof.Machine.execMemoryInit failed s
  | .cxlTrainDone ok => Sys2Proof.Machine.execCxlTrainDone ok s
  | .perstAssert => Sys2Proof.Machine.execPerstAssert s
  | .perstDeassert => Sys2Proof.Machine.execPerstDeassert s
  | .warmReset memClr => Sys2Proof.Machine.execWarmReset memClr s
  | .functionLevelReset => Sys2Proof.Machine.execFunctionLevelReset s
  | .refclkLost => Sys2Proof.Machine.execRefclkLost s
  | .refGood => Sys2Proof.Machine.execRefGood s
  | .relockSwitch => Sys2Proof.Machine.execRelockSwitch s
  | .bypassClose stack => Sys2Proof.Machine.execBypassClose stack s
  | .bypassReopen stack => Sys2Proof.Machine.execBypassReopen stack s
  | .ehregWatchdogExpiry => Sys2Proof.Machine.execEhregWatchdogExpiry s
  | .directoryWriteRetry => Sys2Proof.Machine.execDirectoryWriteRetry s
  | .hostRead ma len => Sys2Proof.Machine.execHostRead ma len s
  | .hostWrite line enable data poison => Sys2Proof.Machine.execHostWrite line enable data poison s
  | .controlPageInvalidAccess ten off len write value => Sys2Proof.Machine.execControlPageInvalidAccess ten off len write value s
  | .doorbellSubmission ten off size value => Sys2Proof.Machine.execDoorbellSubmission ten off size value s
  | .doorbellHead ten off size value => Sys2Proof.Machine.execDoorbellHead ten off size value s
  | .directSlotWrite ten off size data => Sys2Proof.Machine.execDirectSlotWrite ten off size data s
  | .ringFetch ten ring => Sys2Proof.Machine.execRingFetch ten ring s
  | .fetchReturn id entries => Sys2Proof.Machine.execFetchReturn id entries s
  | .fetchTimeout id => Sys2Proof.Machine.execFetchTimeout id s
  | .nop ten src => Sys2Proof.Machine.execNop ten src s
  | .buRun ten src => Sys2Proof.Machine.execBuRun ten src s
  | .buLoad ten src => Sys2Proof.Machine.execBuLoad ten src s
  | .decantCopy ten src => Sys2Proof.Machine.execDecantCopy ten src s
  | .pressRun ten src => Sys2Proof.Machine.execPressRun ten src s
  | .pressLoad ten src => Sys2Proof.Machine.execPressLoad ten src s
  | .flagSet ten src => Sys2Proof.Machine.execFlagSet ten src s
  | .flagClear ten src => Sys2Proof.Machine.execFlagClear ten src s
  | .kiteArm ten src => Sys2Proof.Machine.execKiteArm ten src s
  | .barrierInit ten src => Sys2Proof.Machine.execBarrierInit ten src s
  | .fence ten src => Sys2Proof.Machine.execFence ten src s
  | .scrub ten src => Sys2Proof.Machine.execScrub ten src s
  | .netSend ten src => Sys2Proof.Machine.execNetSend ten src s
  | .meterSnap ten src => Sys2Proof.Machine.execMeterSnap ten src s
  | .descriptorEnqueue x => Sys2Proof.Machine.execDescriptorEnqueue x s
  | .descriptorWaitRegister x => Sys2Proof.Machine.execDescriptorWaitRegister x s
  | .waitLimitExpiry id => Sys2Proof.Machine.execWaitLimitExpiry id s
  | .descriptorStart x => Sys2Proof.Machine.execDescriptorStart x s
  | .workComplete x => Sys2Proof.Machine.execWorkComplete x s
  | .recordObservable id => Sys2Proof.Machine.execRecordObservable id s
  | .cacheWriteFail id => Sys2Proof.Machine.execCacheWriteFail id s
  | .stagedRecordDrain ten => Sys2Proof.Machine.execStagedRecordDrain ten s
  | .irqHoldoffExpiry ten vec => Sys2Proof.Machine.execIrqHoldoffExpiry ten vec s
  | .ballastWindow => Sys2Proof.Machine.execBallastWindow s
  | .ballastGrant stack => Sys2Proof.Machine.execBallastGrant stack s
  | .unitWakeDone b => Sys2Proof.Machine.execUnitWakeDone b s
  | .idleGateExpiry b => Sys2Proof.Machine.execIdleGateExpiry b s
  | .runPeriodTick => Sys2Proof.Machine.execRunPeriodTick s
  | .loadApply x => Sys2Proof.Machine.execLoadApply x s
  | .loadComplete x => Sys2Proof.Machine.execLoadComplete x s
  | .taskLimitExpiry x => Sys2Proof.Machine.execTaskLimitExpiry x s
  | .vectorBeat b => Sys2Proof.Machine.execVectorBeat b s
  | .add x => Sys2Proof.Machine.execAdd x s
  | .sub x => Sys2Proof.Machine.execSub x s
  | .and x => Sys2Proof.Machine.execAnd x s
  | .or x => Sys2Proof.Machine.execOr x s
  | .xor x => Sys2Proof.Machine.execXor x s
  | .shl x => Sys2Proof.Machine.execShl x s
  | .shr x => Sys2Proof.Machine.execShr x s
  | .sra x => Sys2Proof.Machine.execSra x s
  | .mul x => Sys2Proof.Machine.execMul x s
  | .min x => Sys2Proof.Machine.execMin x s
  | .max x => Sys2Proof.Machine.execMax x s
  | .slt x => Sys2Proof.Machine.execSlt x s
  | .sltu x => Sys2Proof.Machine.execSltu x s
  | .addi x => Sys2Proof.Machine.execAddi x s
  | .andi x => Sys2Proof.Machine.execAndi x s
  | .ori x => Sys2Proof.Machine.execOri x s
  | .xori x => Sys2Proof.Machine.execXori x s
  | .shli x => Sys2Proof.Machine.execShli x s
  | .shri x => Sys2Proof.Machine.execShri x s
  | .srai x => Sys2Proof.Machine.execSrai x s
  | .muli x => Sys2Proof.Machine.execMuli x s
  | .slti x => Sys2Proof.Machine.execSlti x s
  | .li x => Sys2Proof.Machine.execLi x s
  | .rds x => Sys2Proof.Machine.execRds x s
  | .ldw b => Sys2Proof.Machine.execLdw b s
  | .stw b => Sys2Proof.Machine.execStw b s
  | .b x => Sys2Proof.Machine.execB x s
  | .beq x => Sys2Proof.Machine.execBeq x s
  | .bne x => Sys2Proof.Machine.execBne x s
  | .blt x => Sys2Proof.Machine.execBlt x s
  | .bge x => Sys2Proof.Machine.execBge x s
  | .bltu x => Sys2Proof.Machine.execBltu x s
  | .bgeu x => Sys2Proof.Machine.execBgeu x s
  | .loop x => Sys2Proof.Machine.execLoop x s
  | .lend x => Sys2Proof.Machine.execLend x s
  | .lexit x => Sys2Proof.Machine.execLexit x s
  | .fset x => Sys2Proof.Machine.execFset x s
  | .fclr x => Sys2Proof.Machine.execFclr x s
  | .fwait x => Sys2Proof.Machine.execFwait x s
  | .barr b => Sys2Proof.Machine.execBarr b s
  | .send b => Sys2Proof.Machine.execSend b s
  | .halt b => Sys2Proof.Machine.execHalt b s
  | .shape b => Sys2Proof.Machine.execShape b s
  | .bstream b => Sys2Proof.Machine.execBstream b s
  | .vdot b => Sys2Proof.Machine.execVdot b s
  | .vaxpy b => Sys2Proof.Machine.execVaxpy b s
  | .vmul b => Sys2Proof.Machine.execVmul b s
  | .vadd b => Sys2Proof.Machine.execVadd b s
  | .vmax b => Sys2Proof.Machine.execVmax b s
  | .vexp b => Sys2Proof.Machine.execVexp b s
  | .vred b => Sys2Proof.Machine.execVred b s
  | .vcvt b => Sys2Proof.Machine.execVcvt b s
  | .vld b => Sys2Proof.Machine.execVld b s
  | .vst b => Sys2Proof.Machine.execVst b s
  | .bwrite b => Sys2Proof.Machine.execBwrite b s
  | .pressLdw e => Sys2Proof.Machine.execPressLdw e s
  | .pressStw e => Sys2Proof.Machine.execPressStw e s
  | .pshape e => Sys2Proof.Machine.execPshape e s
  | .pew e => Sys2Proof.Machine.execPew e s
  | .pred e => Sys2Proof.Machine.execPred e s
  | .pnorm e => Sys2Proof.Machine.execPnorm e s
  | .pact e => Sys2Proof.Machine.execPact e s
  | .prope e => Sys2Proof.Machine.execPrope e s
  | .pmerge e => Sys2Proof.Machine.execPmerge e s
  | .ptopk e => Sys2Proof.Machine.execPtopk e s
  | .pquant e => Sys2Proof.Machine.execPquant e s
  | .pcvt e => Sys2Proof.Machine.execPcvt e s
  | .pget e => Sys2Proof.Machine.execPget e s
  | .pput e => Sys2Proof.Machine.execPput e s
  | .pchan e => Sys2Proof.Machine.execPchan e s
  | .precv e => Sys2Proof.Machine.execPrecv e s
  | .pfree e => Sys2Proof.Machine.execPfree e s
  | .psend e => Sys2Proof.Machine.execPsend e s
  | .phalt e => Sys2Proof.Machine.execPhalt e s
  | .pressTaskStart e => Sys2Proof.Machine.execPressTaskStart e s
  | .recordLand e => Sys2Proof.Machine.execRecordLand e s
  | .inLimitExpiry e => Sys2Proof.Machine.execInLimitExpiry e s
  | .columnSlot b => Sys2Proof.Machine.execColumnSlot b s
  | .refreshOwed b => Sys2Proof.Machine.execRefreshOwed b s
  | .translationFill b => Sys2Proof.Machine.execTranslationFill b s
  | .flagHomeSet flag => Sys2Proof.Machine.execFlagHomeSet flag s
  | .flagHomeClear flag => Sys2Proof.Machine.execFlagHomeClear flag s
  | .flagHomeTestclr flag => Sys2Proof.Machine.execFlagHomeTestclr flag s
  | .flagHomeTest flag => Sys2Proof.Machine.execFlagHomeTest flag s
  | .kitePoll x => Sys2Proof.Machine.execKitePoll x s
  | .pollAnswer x => Sys2Proof.Machine.execPollAnswer x s
  | .barrierArrival bar b => Sys2Proof.Machine.execBarrierArrival bar b s
  | .trellisLevelArrival bar stack => Sys2Proof.Machine.execTrellisLevelArrival bar stack s
  | .barrierReleaseDown bar stack => Sys2Proof.Machine.execBarrierReleaseDown bar stack s
  | .syncWatchdogExpiry bar => Sys2Proof.Machine.execSyncWatchdogExpiry bar s
  | .switchDone ten => Sys2Proof.Machine.execSwitchDone ten s
  | .meterReport => Sys2Proof.Machine.execMeterReport s
  | .meterUsTick => Sys2Proof.Machine.execMeterUsTick s
  | .xlatBusyClear ten => Sys2Proof.Machine.execXlatBusyClear ten s
  | .domainMinOffExpiry dom => Sys2Proof.Machine.execDomainMinOffExpiry dom s
  | .domainRampDone dom => Sys2Proof.Machine.execDomainRampDone dom s
  | .domainDrained dom => Sys2Proof.Machine.execDomainDrained dom s
  | .drainLimitExpiry dom => Sys2Proof.Machine.execDrainLimitExpiry dom s
  | .powerSample power volts => Sys2Proof.Machine.execPowerSample power volts s
  | .capLoopTick => Sys2Proof.Machine.execCapLoopTick s
  | .sensorSample readings => Sys2Proof.Machine.execSensorSample readings s
  | .enforceAtReached stack => Sys2Proof.Machine.execEnforceAtReached stack s
  | .tenCtrlEnable ten mode => Sys2Proof.Machine.execTenCtrlEnable ten mode s
  | .tenCtrlDisable ten => Sys2Proof.Machine.execTenCtrlDisable ten s
  | .tenCtrlMode ten mode => Sys2Proof.Machine.execTenCtrlMode ten mode s
  | .tenTake ten kind index => Sys2Proof.Machine.execTenTake ten kind index s
  | .tenGive ten kind index => Sys2Proof.Machine.execTenGive ten kind index s
  | .xlatWrite ten => Sys2Proof.Machine.execXlatWrite ten s
  | .xlatRead ten => Sys2Proof.Machine.execXlatRead ten s
  | .xlatInvalidate ten => Sys2Proof.Machine.execXlatInvalidate ten s
  | .tenMeterClear ten => Sys2Proof.Machine.execTenMeterClear ten s
  | .tenMeterSatWrite ten value => Sys2Proof.Machine.execTenMeterSatWrite ten value s
  | .tenSnapGo ten => Sys2Proof.Machine.execTenSnapGo ten s
  | .ringEnable ten j log2 => Sys2Proof.Machine.execRingEnable ten j log2 s
  | .ringDisable ten j log2 => Sys2Proof.Machine.execRingDisable ten j log2 s
  | .regionValidate n value => Sys2Proof.Machine.execRegionValidate n value s
  | .regionInvalidate n value => Sys2Proof.Machine.execRegionInvalidate n value s
  | .linearSplitWrite value => Sys2Proof.Machine.execLinearSplitWrite value s
  | .rgnEccClear => Sys2Proof.Machine.execRgnEccClear s
  | .retireRowWrite r value => Sys2Proof.Machine.execRetireRowWrite r value s
  | .retireBankWrite w value => Sys2Proof.Machine.execRetireBankWrite w value s
  | .featCtrlGo => Sys2Proof.Machine.execFeatCtrlGo s
  | .clkRelock managed => Sys2Proof.Machine.execClkRelock managed s
  | .pwrDomReqWrite w value => Sys2Proof.Machine.execPwrDomReqWrite w value s
  | .synBlockHomeWrite blk value => Sys2Proof.Machine.execSynBlockHomeWrite blk value s
  | .synDbgSelect value => Sys2Proof.Machine.execSynDbgSelect value s
  | .synDbgSnapshotReady => Sys2Proof.Machine.execSynDbgSnapshotReady s
  | .synKiteFree k => Sys2Proof.Machine.execSynKiteFree k s
  | .traceEnable value => Sys2Proof.Machine.execTraceEnable value s
  | .podEnable => Sys2Proof.Machine.execPodEnable s
  | .podDisable => Sys2Proof.Machine.execPodDisable s
  | .leaveWaitExpiry => Sys2Proof.Machine.execLeaveWaitExpiry s
  | .netExpel m => Sys2Proof.Machine.execNetExpel m s
  | .netReadmit m => Sys2Proof.Machine.execNetReadmit m s
  | .netLostClear ten m all => Sys2Proof.Machine.execNetLostClear ten m all s
  | .registerWrite off size value => Sys2Proof.Machine.execRegisterWrite off size value s
  | .dppHello f => Sys2Proof.Machine.execDppHello f s
  | .joinRequest f => Sys2Proof.Machine.execJoinRequest f s
  | .joinAccept f => Sys2Proof.Machine.execJoinAccept f s
  | .joinRefuse f => Sys2Proof.Machine.execJoinRefuse f s
  | .joinAnnounce f => Sys2Proof.Machine.execJoinAnnounce f s
  | .joinLeave f => Sys2Proof.Machine.execJoinLeave f s
  | .joinReadmit f => Sys2Proof.Machine.execJoinReadmit f s
  | .joinReport f => Sys2Proof.Machine.execJoinReport f s
  | .timeSync f => Sys2Proof.Machine.execTimeSync f s
  | .timeDelayReq f => Sys2Proof.Machine.execTimeDelayReq f s
  | .timeDelayResp f => Sys2Proof.Machine.execTimeDelayResp f s
  | .timeStep f => Sys2Proof.Machine.execTimeStep f s
  | .dppWrite f => Sys2Proof.Machine.execDppWrite f s
  | .dppRead f => Sys2Proof.Machine.execDppRead f s
  | .dppFlagSet f => Sys2Proof.Machine.execDppFlagSet f s
  | .dppFlagClear f => Sys2Proof.Machine.execDppFlagClear f s
  | .dppFlagTestclr f => Sys2Proof.Machine.execDppFlagTestclr f s
  | .dppFlagTest f => Sys2Proof.Machine.execDppFlagTest f s
  | .dppFlagWatch f => Sys2Proof.Machine.execDppFlagWatch f s
  | .dppFlagWatchClr f => Sys2Proof.Machine.execDppFlagWatchClr f s
  | .dppFlagFire f => Sys2Proof.Machine.execDppFlagFire f s
  | .dppFlagResult f => Sys2Proof.Machine.execDppFlagResult f s
  | .dppArrive f => Sys2Proof.Machine.execDppArrive f s
  | .dppRelease f => Sys2Proof.Machine.execDppRelease f s
  | .dppPartial f => Sys2Proof.Machine.execDppPartial f s
  | .dppAck f => Sys2Proof.Machine.execDppAck f s
  | .dppNak f => Sys2Proof.Machine.execDppNak f s
  | .nonDppFrame port => Sys2Proof.Machine.execNonDppFrame port s
  | .retransmitTimeout m => Sys2Proof.Machine.execRetransmitTimeout m s
  | .ackTimer m => Sys2Proof.Machine.execAckTimer m s
  | .helloTimer m => Sys2Proof.Machine.execHelloTimer m s
  | .joinRetryTimer => Sys2Proof.Machine.execJoinRetryTimer s
  | .busyNakTimer m => Sys2Proof.Machine.execBusyNakTimer m s
  | .timePeriodTimer => Sys2Proof.Machine.execTimePeriodTimer s
  | .timeLostTimer => Sys2Proof.Machine.execTimeLostTimer s
  | .violationWindowExpiry m => Sys2Proof.Machine.execViolationWindowExpiry m s
  | .portLinkDown p => Sys2Proof.Machine.execPortLinkDown p s
  | .portLinkReturn p => Sys2Proof.Machine.execPortLinkReturn p s
  | .setBootSlot slot trial => Sys2Proof.Machine.execSetBootSlot slot trial s
  | .commitSvn => Sys2Proof.Machine.execCommitSvn s
  | .revokeKey k => Sys2Proof.Machine.execRevokeKey k s
  | .writeProvision p => Sys2Proof.Machine.execWriteProvision p s
  | .moduleResetCold => Sys2Proof.Machine.execModuleResetCold s
  | .moduleResetWarm => Sys2Proof.Machine.execModuleResetWarm s
  | .readLog first count => Sys2Proof.Machine.execReadLog first count s
  | .firmwareUpdate img => Sys2Proof.Machine.execFirmwareUpdate img s
  | .i3cAddressAssign addr => Sys2Proof.Machine.execI3cAddressAssign addr s
  | .getVersion => Sys2Proof.Machine.execGetVersion s
  | .getCapabilities => Sys2Proof.Machine.execGetCapabilities s
  | .negotiateAlgorithms => Sys2Proof.Machine.execNegotiateAlgorithms s
  | .getDigests => Sys2Proof.Machine.execGetDigests s
  | .getCertificate slot => Sys2Proof.Machine.execGetCertificate slot s
  | .challenge nonce => Sys2Proof.Machine.execChallenge nonce s
  | .getMeasurements index nonce => Sys2Proof.Machine.execGetMeasurements index nonce s
  | .vendorDefinedRequest cmd ten nonce => Sys2Proof.Machine.execVendorDefinedRequest cmd ten nonce s
  | .spdmUnsupported code => Sys2Proof.Machine.execSpdmUnsupported code s
  | .refclkStartTimeout => Sys2Proof.Machine.execRefclkStartTimeout s
  | .hdmDecoderCommit ways => Sys2Proof.Machine.execHdmDecoderCommit ways s
  | .badOpcodeDescriptor ten src => Sys2Proof.Machine.execBadOpcodeDescriptor ten src s
  | .undefinedOpcodeWord x => Sys2Proof.Machine.execUndefinedOpcodeWord x s
  | .dppUnknownType f => Sys2Proof.Machine.execDppUnknownType f s
  | .netRxErrFrame port => Sys2Proof.Machine.execNetRxErrFrame port s
  | .ehregRestartDone => Sys2Proof.Machine.execEhregRestartDone s
  | .programFetchReturn id words => Sys2Proof.Machine.execProgramFetchReturn id words s
  | .smbusAlertResponse => Sys2Proof.Machine.execSmbusAlertResponse s

end Sys2Proof.Machine
end

