-- ==== Sys2Proof/WellFormed.lean ====
section
/-! DEFINITION. Well-formed commands: operands that the hardware's own wires and formats can carry. The meanings do not rest on it. -/

namespace Sys2Proof

/-- An access of 1 to 64 bytes that stays in its 64-byte line (R21, R44). -/
def lineAccess (addr len : Nat) : Bool := decide (1 ≤ len) && decide (addr % 64 + len ≤ 64)

/-- A frame as the receiver hands it over: header fields in their widths, a payload of LENGTH bytes, and with POISON set one
map bit for each payload word (Table 12.3, R310). -/
def Frame.wf (f : Frame) : Bool :=
  decide (f.port < 2) && decide (f.version < 256) && decide (f.type < 256) && decide (f.length = f.payload.length)
    && decide (f.length < 65536) && (f.poison || f.poisonMap.isEmpty)
    && (!f.poison || decide (f.poisonMap.length = (f.length + 3) / 4))

/-- A firmware image: a header of 1,024 bytes, and with its body at most a slot's 28 MiB (R398, R403). -/
def Image.wf (i : Image) : Bool := decide (i.header.length = 1024) && decide (i.body.length ≤ 28 * 2 ^ 20 - 1024)

/-- Keys strictly rising. -/
def risingKeys {α : Type} (m : SMap α) : Bool :=
  match m with
  | [] => true
  | (k, _) :: t => t.all (fun e => decide (k < e.1)) && risingKeys t

/-- Whether a command's operands are such as the hardware can carry. -/
def Instr.wf : Instr → Bool
  | .hostRead ma len => lineAccess ma.toNat len
  | .controlPageInvalidAccess _ off len _ _ => lineAccess off.toNat len
  | .doorbellSubmission _ _ size _ => decide (1 ≤ size) && decide (size ≤ 64)
  | .doorbellHead _ _ size _ => decide (1 ≤ size) && decide (size ≤ 64)
  | .directSlotWrite _ off size _ => lineAccess off.toNat size
  | .registerWrite off size _ => lineAccess off.toNat size
  | .fetchReturn _ entries => decide (1 ≤ entries.length) && decide (entries.length ≤ 8)
  | .programFetchReturn _ (some ws) => decide (1 ≤ ws.length) && decide (ws.length ≤ 4096)
  | .sensorSample r => decide (r.length = 544)
  | .writeProvision (some p) => risingKeys p.fields
  | .firmwareUpdate i => i.wf
  | .readLog _ count => decide (count < 256)
  | .hdmDecoderCommit ways => decide (1 ≤ ways)
  | .dppHello f => f.wf
  | .joinRequest f => f.wf
  | .joinAccept f => f.wf
  | .joinRefuse f => f.wf
  | .joinAnnounce f => f.wf
  | .joinLeave f => f.wf
  | .joinReadmit f => f.wf
  | .joinReport f => f.wf
  | .timeSync f => f.wf
  | .timeDelayReq f => f.wf
  | .timeDelayResp f => f.wf
  | .timeStep f => f.wf
  | .dppWrite f => f.wf
  | .dppRead f => f.wf
  | .dppFlagSet f => f.wf
  | .dppFlagClear f => f.wf
  | .dppFlagTestclr f => f.wf
  | .dppFlagTest f => f.wf
  | .dppFlagWatch f => f.wf
  | .dppFlagWatchClr f => f.wf
  | .dppFlagFire f => f.wf
  | .dppFlagResult f => f.wf
  | .dppArrive f => f.wf
  | .dppRelease f => f.wf
  | .dppPartial f => f.wf
  | .dppAck f => f.wf
  | .dppNak f => f.wf
  | .dppUnknownType f => f.wf
  | .powerGood => true
  | .powerLoss => true
  | .railsUp _ => true
  | .pllLock => true
  | .romDone => true
  | .firmwareVerify => true
  | .linkTrainingDone _ => true
  | .memoryInit _ => true
  | .cxlTrainDone _ => true
  | .perstAssert => true
  | .perstDeassert => true
  | .warmReset _ => true
  | .functionLevelReset => true
  | .refclkLost => true
  | .refGood => true
  | .relockSwitch => true
  | .bypassClose _ => true
  | .bypassReopen _ => true
  | .ehregWatchdogExpiry => true
  | .directoryWriteRetry => true
  | .hostWrite _ _ _ _ => true
  | .ringFetch _ _ => true
  | .fetchTimeout _ => true
  | .nop _ _ => true
  | .buRun _ _ => true
  | .buLoad _ _ => true
  | .decantCopy _ _ => true
  | .pressRun _ _ => true
  | .pressLoad _ _ => true
  | .flagSet _ _ => true
  | .flagClear _ _ => true
  | .kiteArm _ _ => true
  | .barrierInit _ _ => true
  | .fence _ _ => true
  | .scrub _ _ => true
  | .netSend _ _ => true
  | .meterSnap _ _ => true
  | .descriptorEnqueue _ => true
  | .descriptorWaitRegister _ => true
  | .waitLimitExpiry _ => true
  | .descriptorStart _ => true
  | .workComplete _ => true
  | .recordObservable _ => true
  | .cacheWriteFail _ => true
  | .stagedRecordDrain _ => true
  | .irqHoldoffExpiry _ _ => true
  | .ballastWindow => true
  | .ballastGrant _ => true
  | .unitWakeDone _ => true
  | .idleGateExpiry _ => true
  | .runPeriodTick => true
  | .loadApply _ => true
  | .loadComplete _ => true
  | .taskLimitExpiry _ => true
  | .vectorBeat _ => true
  | .add _ => true
  | .sub _ => true
  | .and _ => true
  | .or _ => true
  | .xor _ => true
  | .shl _ => true
  | .shr _ => true
  | .sra _ => true
  | .mul _ => true
  | .min _ => true
  | .max _ => true
  | .slt _ => true
  | .sltu _ => true
  | .addi _ => true
  | .andi _ => true
  | .ori _ => true
  | .xori _ => true
  | .shli _ => true
  | .shri _ => true
  | .srai _ => true
  | .muli _ => true
  | .slti _ => true
  | .li _ => true
  | .rds _ => true
  | .ldw _ => true
  | .stw _ => true
  | .b _ => true
  | .beq _ => true
  | .bne _ => true
  | .blt _ => true
  | .bge _ => true
  | .bltu _ => true
  | .bgeu _ => true
  | .loop _ => true
  | .lend _ => true
  | .lexit _ => true
  | .fset _ => true
  | .fclr _ => true
  | .fwait _ => true
  | .barr _ => true
  | .send _ => true
  | .halt _ => true
  | .shape _ => true
  | .bstream _ => true
  | .vdot _ => true
  | .vaxpy _ => true
  | .vmul _ => true
  | .vadd _ => true
  | .vmax _ => true
  | .vexp _ => true
  | .vred _ => true
  | .vcvt _ => true
  | .vld _ => true
  | .vst _ => true
  | .bwrite _ => true
  | .pressLdw _ => true
  | .pressStw _ => true
  | .pshape _ => true
  | .pew _ => true
  | .pred _ => true
  | .pnorm _ => true
  | .pact _ => true
  | .prope _ => true
  | .pmerge _ => true
  | .ptopk _ => true
  | .pquant _ => true
  | .pcvt _ => true
  | .pget _ => true
  | .pput _ => true
  | .pchan _ => true
  | .precv _ => true
  | .pfree _ => true
  | .psend _ => true
  | .phalt _ => true
  | .pressTaskStart _ => true
  | .recordLand _ => true
  | .inLimitExpiry _ => true
  | .columnSlot _ => true
  | .refreshOwed _ => true
  | .translationFill _ => true
  | .flagHomeSet _ => true
  | .flagHomeClear _ => true
  | .flagHomeTestclr _ => true
  | .flagHomeTest _ => true
  | .kitePoll _ => true
  | .pollAnswer _ => true
  | .barrierArrival _ _ => true
  | .trellisLevelArrival _ _ => true
  | .barrierReleaseDown _ _ => true
  | .switchDone _ => true
  | .meterReport => true
  | .meterUsTick => true
  | .xlatBusyClear _ => true
  | .domainMinOffExpiry _ => true
  | .domainRampDone _ => true
  | .domainDrained _ => true
  | .drainLimitExpiry _ => true
  | .powerSample _ _ => true
  | .capLoopTick => true
  | .enforceAtReached _ => true
  | .tenCtrlEnable _ _ => true
  | .tenCtrlDisable _ => true
  | .tenCtrlMode _ _ => true
  | .xlatWrite _ => true
  | .xlatRead _ => true
  | .xlatInvalidate _ => true
  | .tenMeterClear _ => true
  | .tenMeterSatWrite _ _ => true
  | .tenSnapGo _ => true
  | .ringEnable _ _ _ => true
  | .ringDisable _ _ _ => true
  | .regionValidate _ _ => true
  | .regionInvalidate _ _ => true
  | .linearSplitWrite _ => true
  | .rgnEccClear => true
  | .retireRowWrite _ _ => true
  | .retireBankWrite _ _ => true
  | .featCtrlGo => true
  | .clkRelock _ => true
  | .pwrDomReqWrite _ _ => true
  | .synBlockHomeWrite _ _ => true
  | .synDbgSelect _ => true
  | .synDbgSnapshotReady => true
  | .synKiteFree _ => true
  | .traceEnable _ => true
  | .podEnable => true
  | .podDisable => true
  | .leaveWaitExpiry => true
  | .netExpel _ => true
  | .netReadmit _ => true
  | .netLostClear _ _ _ => true
  | .nonDppFrame _ => true
  | .retransmitTimeout _ => true
  | .ackTimer _ => true
  | .helloTimer _ => true
  | .joinRetryTimer => true
  | .busyNakTimer _ => true
  | .timePeriodTimer => true
  | .timeLostTimer => true
  | .violationWindowExpiry _ => true
  | .portLinkDown _ => true
  | .portLinkReturn _ => true
  | .setBootSlot _ _ => true
  | .commitSvn => true
  | .revokeKey _ => true
  | .writeProvision none => true
  | .moduleResetCold => true
  | .moduleResetWarm => true
  | .i3cAddressAssign _ => true
  | .getVersion => true
  | .getCapabilities => true
  | .negotiateAlgorithms => true
  | .getDigests => true
  | .getCertificate _ => true
  | .challenge _ => true
  | .getMeasurements _ _ => true
  | .vendorDefinedRequest _ _ _ => true
  | .refclkStartTimeout => true
  | .badOpcodeDescriptor _ _ => true
  | .undefinedOpcodeWord _ => true
  | .netRxErrFrame _ => true
  | .ehregRestartDone => true
  | .programFetchReturn _ none => true
  | .tenTake _ _ _ => true
  | .tenGive _ _ _ => true
  | .syncWatchdogExpiry _ => true
  | .spdmUnsupported _ => true
  | .smbusAlertResponse => true

end Sys2Proof
end

