-- ==== Sys2Proof/Safety.lean ====
section
/-! DEFINITION. What counts as a safe run, and the invariant that steps keep. -/

namespace Sys2Proof.Safety

open Sys2Proof.Machine

/-- A step that answers a next state. -/
def runs (s : State) : Prop := ∃ t, step s = .next t

/-- The memories of the module in canonical form: stored data and check bytes list rising addresses and no default byte. -/
def memoriesCanonical (s : State) : Prop := Memory.wf s.dram = true ∧ Memory.wf s.check = true

/-- A host access that lies in the module's HDM range (R21). -/
def inRange (c : Instr) : Prop :=
  match c with
  | .hostRead ma _ => ma.toNat < 512 * 2 ^ 30 + 256 * 2 ^ 20
  | .hostWrite line _ _ _ => 64 * line.toNat < 512 * 2 ^ 30 + 256 * 2 ^ 20
  | _ => True

/-! Terms of the statements about programs. -/

/-- Core x issues the word at its program counter, which lies in its cask, carries opcode op, and is not where an active loop level
asks for its LEND. -/
abbrev issuesOp (s : State) (x : CoreId) (op : Nat) : Prop :=
  mayIssue s x = true ∧ pcOutside x (procOf s x) = false ∧ bits (fetchWord (procOf s x)) 56 8 = op ∧ endClash (procOf s x) = []

/-- The word at a core's program counter. -/
def coreWord (s : State) (x : CoreId) : Word64 := fetchWord (procOf s x)

/-- The register that the field at bit lo of a core's word names. -/
def regAt (s : State) (x : CoreId) (lo : Nat) : PWord := rget (procOf s x) (rf (coreWord s x) lo)

/-- Core x's register rd written with a clean value and its program counter moved on; nothing else changes. -/
def writesReg (s : State) (x : CoreId) (rd : Nat) (v : Word) : State :=
  modProc s x (fun p => pnext (rset p rd { val := v, poison := false }))

/-- A core's task has stopped with a status and DETAIL, and its end waits to be reported. -/
def endedWith (s : State) (x : CoreId) (st : Status) (detail : Nat) : Prop :=
  (procOf s x).ended.map (fun e => (e.status, e.detail)) = some (st, detail)

/-- The payload of a fault of the instruction at core x's program counter (R175, R243, Tables 5.10, 9.8): SOURCE; the index with the live cask;
REASON; the opcode; the active loop levels; a unit's beat, or 0; INFO; a unit's stream columns since its last BSTREAM, or the records that hold in a
press's channel 0. -/
def faultBytes (s : State) (x : CoreId) (reason info : Nat) : List Byte :=
  let p := procOf s x
  let op := bits (coreWord s x) 56 8
  match x with
  | .unit b =>
    leBytes 2 (0x1000 + b.toNat) ++ leBytes 2 (p.pc % 2048 + (if p.live then 2048 else 0)) ++ leBytes 1 reason ++ leBytes 1 op
      ++ leBytes 1 p.loops.length ++ leBytes 1 (match p.vec with | some v => min v.beat 255 | none => 0) ++ leBytes 4 info
      ++ leBytes 4 (unitOf s b.toNat).spos
  | .press e =>
    leBytes 2 ((if e.toNat < 8 then 0x3000 else 0x4000) + e.toNat) ++ leBytes 2 (p.pc % 4096 + (if p.live then 4096 else 0))
      ++ leBytes 1 reason ++ leBytes 1 op ++ leBytes 1 p.loops.length ++ leBytes 1 0 ++ leBytes 4 info
      ++ leBytes 4 (mget Chan.empty (pressOf s e.toNat).chans 0).landed.length

/-- From s to t the instruction at core x's program counter has ended the task with a status: DETAIL 0, at the present time, with a fault record due
whose payload bears a REASON and an INFO (R175). -/
def endedBy (s t : State) (x : CoreId) (st : Status) (reason : Nat) : Prop :=
  ∃ info, (procOf t x).ended.map (fun e => (e.status, e.detail, e.time, e.report)) = some (st, 0, s.time, some (true, faultBytes s x reason info))

/-- From s to t the instruction at core x's program counter has ended the task with BU_FAULT and a REASON of Table 5.11. -/
def faulted (s t : State) (x : CoreId) (reason : Nat) : Prop := endedBy s t x .buFault reason

/-- Core x issues the word at its program counter, which lies in its cask and carries opcode op. -/
def issuesWord (s : State) (x : CoreId) (op : Nat) : Prop :=
  mayIssue s x = true ∧ pcOutside x (procOf s x) = false ∧ bits (coreWord s x) 56 8 = op

/-- Every field of a list, given by its lowest bit and its width, is 0 in core x's word. -/
def fieldsClear (s : State) (x : CoreId) (fs : List (Nat × Nat)) : Prop := ∀ f ∈ fs, bits (coreWord s x) f.1 f.2 = 0

/-- The byte address of a core's scalar access: s[RA] + IMM modulo 2^32 (R148, R471). -/
def accessAddr (s : State) (x : CoreId) : Nat := ((regAt s x 48).val.toNat + bits (coreWord s x) 0 32) % 2 ^ 32

/-- The commands by which unit b issues an instruction word. -/
def unitProgramCommand (b : BitVec 12) (c : Instr) : Prop :=
  c ∈ ([.add, .sub, .and, .or, .xor, .shl, .shr, .sra, .mul, .min, .max, .slt, .sltu, .addi, .andi, .ori, .xori, .shli, .shri, .srai, .muli,
    .slti, .li, .rds, .b, .beq, .bne, .blt, .bge, .bltu, .bgeu, .loop, .lend, .lexit, .fset, .fclr, .fwait, .undefinedOpcodeWord] :
      List (CoreId → Instr)).map (fun c => c (.unit b))
  ++ [.ldw b, .stw b, .barr b, .send b, .halt b, .shape b, .bstream b, .vdot b, .vaxpy b, .vmul b, .vadd b, .vmax b, .vexp b, .vred b,
      .vcvt b, .vld b, .vst b, .bwrite b]

/-- Byte a of local memory lies outside every row of an operand. -/
def outside (o : Rows) (a : Nat) : Prop := ∀ i < o.n, (a : Int) < o.row i ∨ o.row i + o.rl ≤ (a : Int)

/-- No word of a core's local memory is poisoned. -/
def memClean (s : State) (x : CoreId) : Prop := ∀ k, mget false (procOf s x).memPoison k = false

/-- The shape that a press word names. -/
def pressShape (s : State) (e : BitVec 4) : Shape := shapeOf (procOf s (.press e)) (pSh (coreWord s (.press e)))

/-- The rows of 4-byte elements that a press word's DST names under its shape. -/
def pressRows (s : State) (e : BitVec 4) : Rows :=
  { a := 32 * pDst (coreWord s (.press e)), rl := 4 * (pressShape s e).n0, n := (pressShape s e).n1, s := (pressShape s e).s1 }

/-- A press instruction is done: the pc has moved on and only scratch bytes of the operands in ds have changed, with free values drawn. -/
def pressDone (s : State) (e : BitVec 4) (c : Instr) (ds : List Rows) : Prop :=
  ∃ m k n, exec c s = .next (modProc { s with free := n } (.press e) (fun p => pnext { p with mem := m, memPoison := k })) ∧
    s.free ≤ n ∧ ∀ a, (∀ o ∈ ds, outside o a) → mget 0 m a = mget 0 (procOf s (.press e)).mem a

/-- A vector instruction has begun: its word waits at beat 0 of its beats. -/
def beatsBegin (s : State) (b : BitVec 12) (beats : Nat) : State :=
  modProc s (.unit b) (fun p => { p with vec := some { word := coreWord s (.unit b), beat := 0, total := beats } })

/-- Unit b, running and in its run, takes the beat v of the instruction in progress. -/
def beatReady (s : State) (b : BitVec 12) (v : Vec) : Prop :=
  (procOf s (.unit b)).vec = some v ∧ (procOf s (.unit b)).task ≠ none ∧ (procOf s (.unit b)).ended = none ∧
  (unitOf s b.toNat).st = .running ∧ unitRuns s b.toNat = true

/-- From s to t unit b goes past its beat v: to the next beat, or after the last to the next instruction; its registers, shapes and loops stay. -/
def beatOver (s t : State) (b : BitVec 12) (v : Vec) : Prop :=
  (v.beat + 1 < v.total → (procOf t (.unit b)).vec = some { v with beat := v.beat + 1 } ∧ (procOf t (.unit b)).pc = (procOf s (.unit b)).pc) ∧
  (v.total ≤ v.beat + 1 → (procOf t (.unit b)).vec = none ∧ (procOf t (.unit b)).pc = (procOf s (.unit b)).pc + 1) ∧
  (procOf t (.unit b)).regs = (procOf s (.unit b)).regs ∧ (procOf t (.unit b)).shapes = (procOf s (.unit b)).shapes ∧
  (procOf t (.unit b)).loops = (procOf s (.unit b)).loops ∧ (procOf t (.unit b)).ended = none

/-- A lane of unit b. -/
def lane (s : State) (b : BitVec 12) (g : Nat) : PWord := mget PWord.zero (unitOf s b.toNat).acc g

/-- The lanes of unit b outside a set keep their values and marks. -/
def lanesKept (s t : State) (b : BitVec 12) (inside : Nat → Prop) : Prop := ∀ g, ¬ inside g → lane t b g = lane s b g

/-- The bytes of a core's local memory outside a set keep their values. -/
def bytesKept (s t : State) (x : CoreId) (inside : Nat → Prop) : Prop :=
  ∀ a, ¬ inside a → mget 0 (procOf t x).mem a = mget 0 (procOf s x).mem a

/-- A word that holds a value: marked as its inputs were, and of unspecified value where it is marked (R345). -/
def holds (q : PWord) (v : Word) (bad : Bool) : Prop := q.poison = bad ∧ (bad = false → q.val = v)

/-- Inputs under the task's POISON_MODE: any marks under propagate, none under fault (R472). -/
def inputsGood (p : Proc) (bad : Prop) : Prop := propagates p = true ∨ ¬ bad

/-- A poisoned input of an instruction under fault. -/
def inputsFail (p : Proc) (bad : Prop) : Prop := propagates p = false ∧ bad

/-- The row operand of a VL word or of a VLD or VST, n0 elements of z bytes S0 apart in each of its rows. -/
def rowsOf (sh : Shape) (a z : Nat) : Rows := { a := a, rl := ((sh.n0 - 1) * sh.s0 + 1) * z, n := sh.n1, s := sh.s1 }

/-- An operand inside the local store whose rows do not share a byte. -/
def rowsApart (o : Rows) : Prop := o.range 65536 = [] ∧ (o.n = 1 ∨ o.rl ≤ o.s.natAbs)

/-- The address of element k of a shape, taken in row order, of an operand of z-byte elements. -/
def elemAt (sh : Shape) (a z k : Nat) : Nat := elemAddr sh a z (k / sh.n0) (k % sh.n0)

/-- A byte of the elements of a shape from k on, n of them. -/
def inElems (sh : Shape) (a z k n : Nat) (c : Nat) : Prop := ∃ i < n, elemAt sh a z (k + i) ≤ c ∧ c < elemAt sh a z (k + i) + z

/-- A value that is a sum of a list of FP32 values, added two at a time in some order, each sum rounded (R184). -/
inductive SumOf : List Word → Word → Prop where
  | one (v : Word) : SumOf [v] v
  | join (l r : List Word) (a b v : Word) : l.Perm (a :: b :: r) → SumOf (addF32 a b :: r) v → SumOf l v

/-- The aligned word at an address of a core's local memory, with its mark. -/
def wordAt (p : Proc) (a : Nat) : PWord := { val := BitVec.ofNat 32 (memNum p a 4), poison := memBad p a 4 }

/-- From s to t a press goes on to its next instruction, its registers, shapes and loops as they were. -/
def pressOn (s t : State) (e : BitVec 4) : Prop :=
  (procOf t (.press e)).pc = (procOf s (.press e)).pc + 1 ∧ (procOf t (.press e)).regs = (procOf s (.press e)).regs ∧
  (procOf t (.press e)).shapes = (procOf s (.press e)).shapes ∧ (procOf t (.press e)).loops = (procOf s (.press e)).loops ∧
  (procOf t (.press e)).ended = (procOf s (.press e)).ended

/-- A press instruction leaves value v i1 i0, marked bad i1 i0, in each FP32 element of its DST, or under fault ends with DATA_UNCORRECTABLE when
an input is marked. -/
def rowResult (s : State) (e : BitVec 4) (c : Instr) (v : Nat → Nat → Word) (bad : Nat → Nat → Bool) : Prop :=
  (inputsGood (procOf s (.press e)) (∃ i1 < (pressShape s e).n1, ∃ i0 < (pressShape s e).n0, bad i1 i0 = true) →
    ∃ t, exec c s = .next t ∧ pressOn s t e ∧ ∀ i1 < (pressShape s e).n1, ∀ i0 < (pressShape s e).n0,
      holds (wordAt (procOf t (.press e)) (pAddr (pressShape s e) (pDst (coreWord s (.press e))) 4 i1 i0)) (v i1 i0) (bad i1 i0)) ∧
  (inputsFail (procOf s (.press e)) (∃ i1 < (pressShape s e).n1, ∃ i0 < (pressShape s e).n0, bad i1 i0 = true) →
    ∃ t, exec c s = .next t ∧ endedWith t (.press e) .dataUncorrectable 0)

/-- The mean of a list of FP32 values: a sum of it in some order, divided by its length and rounded (R237). -/
def MeanOf (l : List Word) (v : Word) : Prop := ∃ x, SumOf l x ∧ v = toF32 ((ofF32 x).divNat l.length)

/-- Whether value i of a list ranks before value j for PTOPK: larger, or equal with the lower index (R242). -/
def ranksBefore (x : Nat → Word) (i j : Nat) : Prop := rankLt (x j) (x i) = true ∨ (rankLt (x i) (x j) = false ∧ i < j)

/-- A destination that is one of its operands or apart from them all (R140). -/
def destinationFree (d : Rows) (ops : List Rows) : Prop := (∃ o ∈ ops, d.same o = true) ∨ ∀ o ∈ ops, d.meets o = false

/-- The collecting queue of the cellar log has a place, so that an entry of class 0x01 or 0x02 is not lost (R427). -/
def logRoom (s : State) : Prop := s.log.queuedCk ≤ s.ck ∧ s.log.waiting s.ck < 256

/-- Exactly one entry of a class and number entered the cellar log, at the present time. -/
def loggedOnce (s t : State) (cls num : Nat) : Prop :=
  t.log.next = (s.log.next + 1) % 2 ^ 32 ∧ ∃ e, mget none t.log.entries (s.log.next % 65536) = some e ∧ e.cls = cls ∧ e.num = num ∧
    e.time = s.time ∧ e.seq = s.log.next

/-- The last entry of the cellar log has a class and number. -/
def lastEntered (t : State) (cls num : Nat) : Prop :=
  ∃ e, mget none t.log.entries ((t.log.next + (2 ^ 32 - 1)) % 2 ^ 32 % 65536) = some e ∧ e.cls = cls ∧ e.num = num

/-- No end of a task of an earlier cycle still has to be entered (R426). -/
def noEndDue (s : State) : Prop := ∀ x e, (procOf s x).ended = some e → s.ck ≤ e.ck ∨ e.report = none

/-- No record of another member is landing, or waits to land, in a channel of a press. -/
def channelQuiet (s : State) (e c : Nat) : Prop :=
  ∀ q ∈ s.net.peers, ∀ h, q.2.rx.gather = some h → ¬ (h.engine = e ∧ h.chan = c)

/-! Terms of the statements about frames. -/

/-- A frame passes the checks that are silent (R16, R299, R333): it comes over a port with link from peer m, the receive buffer has room for it, it
bears this pod and this member, and its sender is not quarantined. -/
def frameFrom (s : State) (f : Frame) (m : Nat) : Prop :=
  hasNet s = true ∧ linkUp s (f.port % 2) = true ∧ rxRoom s f = true ∧ senderOf s f = some m ∧ f.podId.toNat = podId s ∧ f.dst.toNat = selfMember s ∧
  (peerOf s m).quarantined = false

/-- A frame that acknowledges nothing new: no ACKNO, or that of the oldest unacknowledged frame, or of the next where none is. -/
def nothingAcked (p : Peer) (f : Frame) : Prop :=
  f.ackV = false ∨ (ackInRange p f.ackno.toNat = true ∧ f.ackno.toNat = match p.unacked with | g :: _ => g.seq | [] => p.nextSeq)

/-- A frame of a member under its recorded incarnation that is well formed and may be sent by it. -/
def frameOfMember (s : State) (f : Frame) (m : Nat) : Prop :=
  frameFrom s f m ∧ inPod s m = true ∧ f.incarnation = (peerOf s m).incarn ∧ nothingAcked (peerOf s m) f ∧ malformed s f = false ∧
  allowed s m f = true

/-- No frame of a pair is held, and none waits behind one. -/
def rxQuiet (s : State) (m : Nat) : Prop := (peerOf s m).heldRx = none ∧ (peerOf s m).waitRx = []

/-- A frame that a sender outside the pod sends, or a member under its recorded incarnation. -/
def ofIncarnation (s : State) (f : Frame) (m : Nat) : Prop := (peerOf s m).member = true → f.incarnation = (peerOf s m).incarn

/-- Neither port pauses its partner, since PFC is off. -/
def noPause (s : State) : Prop := ∀ p < 2, bit (reg s (0xC00060 + 8 * p)) 0 = false ∧ mget false s.net.paused p = false

/-- A sequenced frame in its turn. -/
def frameInTurn (s : State) (f : Frame) (m : Nat) : Prop :=
  frameOfMember s f m ∧ f.seq.toNat = (peerOf s m).expect ∧ rxQuiet s m

/-- The state in which a sequenced frame in its turn takes effect: its trace event, its tenancy noted, its payload metered. -/
def frameTaken (s : State) (m : Nat) (f : Frame) : State :=
  let s := traceEv s 0x0D f.tenancy.toNat (srcNum 5 m) f.tag f.seq.toNat 0
  let s := if f.type = 1 then s else modPeer s m (fun p => { p with tens := mset false p.tens f.tenancy.toNat true })
  if f.type = 1 ∨ f.payload.isEmpty = true then s else meter s f.tenancy.toNat 5 f.payload.length (20 * f.payload.length)

/-- The next SEQ expected of a member has passed one frame. -/
def oneFrameOn (s t : State) (m : Nat) : Prop := (peerOf t m).expect = ((peerOf s m).expect + 1) % 2 ^ 32

/-- Sequenced frames toward a member that are sent or wait to be sent. -/
def framesToward (s : State) (m : Nat) : Nat := (peerOf s m).unacked.length + (peerOf s m).backlog.length

/-! Terms of the statements about what few commands write. -/

/-- The commands in which stored data may change: host and peer writes, a host read that waits for the write slot of a read-modify-write, a frame of a peer behind which a WRITE waits, column slots, the work of the
engines, accesses through a press window, a program fetch or a send that reads where a write has begun, retirement, a group that ends its work, and
the resets. -/
def mayStore (c : Instr) : Bool :=
  match c with
  | .powerGood | .powerLoss | .memoryInit _ | .perstAssert | .warmReset _ | .moduleResetCold | .moduleResetWarm | .sensorSample _ => true
  | .hostRead _ _ | .hostWrite _ _ _ _ | .columnSlot _ | .descriptorStart _ | .workComplete _ | .programFetchReturn _ _ | .pget _ | .pput _ => true
  | .joinRequest _ | .joinAccept _ | .joinRefuse _ | .joinAnnounce _ | .joinLeave _ | .joinReadmit _ | .joinReport _ => true
  | .timeSync _ | .timeDelayReq _ | .timeDelayResp _ | .timeStep _ | .busyNakTimer _ => true
  | .dppHello _ | .dppWrite _ | .dppRead _ | .dppFlagSet _ | .dppFlagClear _ | .dppFlagTestclr _ | .dppFlagTest _ => true
  | .dppFlagWatch _ | .dppFlagWatchClr _ | .dppFlagFire _ | .dppFlagResult _ | .dppArrive _ | .dppRelease _ | .dppPartial _ => true
  | .dppAck _ | .dppNak _ => true
  | .switchDone _ | .drainLimitExpiry _ | .retireBankWrite _ _ | .registerWrite _ _ _ => true
  | _ => false

/-- The commands in which the thermal registers or the cap loop's level may change. -/
def mayHeat (c : Instr) : Bool :=
  match c with
  | .powerGood | .powerLoss | .perstAssert | .warmReset _ | .moduleResetCold | .moduleResetWarm => true
  | .sensorSample _ | .enforceAtReached _ | .capLoopTick => true
  | _ => false

/-- The rational value of a finite number. -/
def numVal (v : Machine.Num) : ℚ :=
  match v with
  | .fin n m e => (if n then -1 else 1) * (m : ℚ) * (2 : ℚ) ^ e
  | _ => 0

/-- Whether a number is finite. -/
def isFinite (v : Machine.Num) : Bool :=
  match v with
  | .fin _ _ _ => true
  | _ => false

/-! Terms of the statements about time and about set-up. -/

/-- From s to t time has passed to a ck cycle at or after a moment of elapsed time, if that lay ahead (while the rate correction has gathered less
than a tick, as it always has); exactly to it where the root is locked and module time is not corrected. -/
def timeUntil (s t : State) (due : Nat) : Prop :=
  s.elapsed ≤ t.elapsed ∧ (s.net.rateAcc < 65536 → due ≤ t.elapsed) ∧
  (s.clk.coast = false → s.net.slew = 0 → s.net.rate = 0 → t.elapsed = max s.elapsed due)

/-- From s to t time has passed until the ck cycle of a moment of elapsed time is over, if that was not over already: what happens in that cycle comes
first (R434). Where the root is locked and module time is not corrected a cycle is one tick. -/
def timePast (s t : State) (due : Nat) : Prop :=
  s.elapsed ≤ t.elapsed ∧ (s.net.rateAcc < 65536 → due ≤ t.elapsed) ∧
  (s.clk.coast = false → s.net.slew = 0 → s.net.rate = 0 → t.elapsed = if due < s.elapsed then s.elapsed else due + 1)

/-- An output is a frame that leaves over the port of the pair with member m, with a type and PARAM. -/
def frameTo (s : State) (m type param : Nat) (o : Output) : Prop :=
  ∃ g w, o = .frame (pairPort s m) g w ∧ g.dst = m ∧ g.type = type ∧ g.param = param

/-- The pair with member m can send: its port has link and its peer entry is valid. -/
def pairUp (s : State) (m : Nat) : Prop := linkUp s (pairPort s m) = true ∧ peerValid s m = true

/-- The entry that a step entered next in the cellar log has a class and number. -/
def entered (s t : State) (cls num : Nat) : Prop :=
  ∃ e, mget none t.log.entries (s.log.next % 65536) = some e ∧ e.cls = cls ∧ e.num = num

/-- Condition k of R32 on region entry n with the fields r; the pages that R288 keeps apart belong to the seventh. -/
def regionCondition (s : State) (n : Nat) (r : Region) (k : Nat) : Prop :=
  match k with
  | 1 => (tenOf s r.owner).enabled = true ∧ (tenOf s r.owner).xlat = r.xlat
  | 2 => 2 ^ 21 ≤ r.size ∧ r.base % 2 ^ 21 = 0 ∧ r.size % 2 ^ 21 = 0
  | 3 => r.xlat = false → r.linear = true → 4096 * split s ≤ r.base ∧ r.base + r.size ≤ 512 * 2 ^ 30
  | 4 => r.xlat = false → r.linear = false → r.base + r.size ≤ split s ∧ r.gFirst + r.gCount ≤ 256
  | 5 => r.linear = false → ∀ g, r.gFirst ≤ g → g < r.gFirst + r.gCount → mget none s.groupOwner g = some r.owner ∧ inTransit s 0 g = false
  | 6 => r.ring = true → r.linear = false
  | _ => r.xlat = false →
      (∀ m < 64, m ≠ n → (regionOf s m).valid = true → (regionOf s m).xlat = false → (regionOf s m).linear = r.linear →
        (r.linear = false → r.gFirst < (regionOf s m).gFirst + (regionOf s m).gCount → (regionOf s m).gFirst < r.gFirst + r.gCount →
          r.base + r.size ≤ (regionOf s m).base ∨ (regionOf s m).base + (regionOf s m).size ≤ r.base) ∧
        (r.linear = true → r.base + r.size ≤ (regionOf s m).base ∨ (regionOf s m).base + (regionOf s m).size ≤ r.base)) ∧
      (r.linear = true → ∀ e ∈ xlatAll s, e.linear = true → e.ten ≠ r.owner →
        r.base + r.size ≤ 2 ^ 21 * e.ppage ∨ 2 ^ 21 * (e.ppage + 1) ≤ r.base)

/-- A response of the SPDM responder: its code, then its bytes and their signature by the attestation key (R414). -/
def signedAnswer (s : State) (code : Nat) (body : List Byte) : Output :=
  .spdm (code :: (body ++ Config.ed448Sign (attestKey s) [] body).map (·.toNat))

/-! Terms of the statements about banks, the decant engines and the scrubber. -/

/-- The value that a stored word reads as; none where it reads poisoned. -/
def readsAs (s : State) (w : Nat) : Option Word :=
  match classify (dramWord s w) (dramCheck s w) with
  | .clean => some (dramWord s w)
  | .corrected v => some v
  | _ => none

/-- A stored word keeps its data and check byte. -/
def wordKept (s t : State) (w : Nat) : Prop := dramWord t w = dramWord s w ∧ dramCheck t w = dramCheck s w

/-- The byte that a stored address reads as. -/
def byteAt (s : State) (a : Nat) : Nat := bits ((readsAs s (a / 4)).getD 0) (8 * (a % 4)) 8

/-- How many of the eight words of a column decode to a class. -/
def countWords (s : State) (w : Nat) (p : WordClass → Bool) : Nat :=
  ((List.range 8).filter (fun k => p (classify (dramWord s (w + k)) (dramCheck s (w + k))))).length

/-- Whether a word decoded as corrected. -/
def isCorrected (c : WordClass) : Bool :=
  match c with
  | .corrected _ => true
  | _ => false

/-- The slot of a powered bank that no host access, forced refresh, copy or opened read-modify-write takes goes to its unit. -/
def slotFree (s : State) (b : BitVec 12) : Prop :=
  arraysOn s = true ∧ rmwOpen s b.toNat = false ∧ (bankOf s b.toNat).hostQ = [] ∧ (bankOf s b.toNat).owed < 8 ∧ copyAt s b.toNat = none

/-! Terms of the statements about work. -/

/-- A tenancy's completion ring has an entry free besides those reserved, and no record of it waits (R80, R81). -/
def ringRoom (s : State) (ten : Nat) : Prop :=
  (ringOf s ten cq).enabled = true ∧ (tenOf s ten).staging = [] ∧ (tenOf s ten).held = [] ∧ reservations s ten < cqFree s ten

/-- The write that follows those of s bears a fault record toward a tenancy's event ring: TYPE 1, the tag, the status, the module time and the
payload, on the vector of its events (R84, Table 3.15). -/
def faultWritten (s t : State) (ten : Nat) (tag : BitVec 16) (st : Status) (time : Nat) (pay : List Byte) : Prop :=
  ∃ w, t.hostWrites[s.hostWrites.length]? = some w ∧ w.ten = ten ∧ w.kind = .event (some (bits (reg s (tenReg ten 0x38)) 0 3)) ∧
    w.bytes = leBytes 1 1 ++ [0] ++ leBytes 2 tag.toNat ++ leBytes 4 st.code ++ leBytes 8 time ++ padTo 16 pay

/-- The end of a task is reported: its fault record leaves where there is one and the event ring has an entry free, and an end but OK is entered in
the log under class 0x00 with the source, tag, tenancy and time of the end and bytes 18 to 29 of the payload (R417, R418, R423). -/
def endReported (s t : State) (k : Task) (e : Ending) (fault : Bool) (pay : List Byte) : Prop :=
  (fault = true → 0 < eqFree s k.ten → faultWritten s t k.ten k.tag e.status e.time pay) ∧
  (e.status ≠ .ok → ∃ l, mget none t.log.entries (s.log.next % 65536) = some l ∧ l.cls = 0 ∧ l.num = e.status.code ∧ l.time = e.time ∧
    l.source = leNat (pay.take 2) ∧ l.tag = some k.tag ∧ l.ten = some k.ten ∧ l.detail = ((padTo 16 pay).drop 2).take 12)

/-- An access to a page is discarded as a violation: its entry of class 0x01 with the number, the place, SIZE, OFFSET, EXPECTED and VALUE, and a unit on
the meter of what is refused; no ring's tail or head, no slot and no work changes (R431, Table 17.4). -/
def discarded (s t : State) (ten num place size off expected value : Nat) : Prop :=
  (∃ e, mget none t.log.entries (s.log.next % 65536) = some e ∧ e.cls = 1 ∧ e.num = num ∧ e.ten = some ten ∧ e.tag = none ∧
    e.source = 0xA000 + place ∧
    e.detail = leBytes 1 num ++ leBytes 1 size ++ leBytes 2 off ++ leBytes 2 expected ++ leBytes 6 value) ∧
  t.log.next = (s.log.next + 1) % 2 ^ 32 ∧ t.meterQ[s.meterQ.length]? = some { ten := ten, meter := 11, amount := 1, pj := 0 } ∧
  (∀ j, (ringOf t ten j).tail = (ringOf s ten j).tail ∧ (ringOf t ten j).head = (ringOf s ten j).head) ∧ (tenOf t ten).slots = (tenOf s ten).slots ∧
  t.active = s.active

/-- The last part of a descriptor has ended: it is no longer held, and with room in an enabled completion ring, no SIGNAL_FLAG and a record
due (R50), the write toward the ring bears its tag, status, source, DETAIL and the time (Table 3.14). -/
def completes (s t : State) (a : Active) (st : Status) (detail : Nat) : Prop :=
  activeOf t a.id = none ∧
  (ringRoom s a.ten →
    dSignal a.raw = none → (st ≠ .ok ∨ dFlag a.raw 1 = false) → ∃ w, t.hostWrites.getLast? = some w ∧ w.ten = a.ten ∧
      w.bytes = leBytes 2 (dfield a.raw 2 2) ++ leBytes 1 st.code
        ++ leBytes 1 (match a.src with | .ring k => 16 * k.toNat | .slot k => 8 + 16 * k.toNat) ++ leBytes 4 detail ++ leBytes 8 t.time)

/-- The DETAIL of a descriptor whose one failing part is that of unit b (R59, Table 3.6). -/
def partDetail (a : Active) (st : Status) (b detail : Nat) : Nat :=
  if st ≠ .ok ∧ (dOp a.raw = 2 ∨ dOp a.raw = 3) then 1 + 2 ^ 16 * b else detail

/-- A descriptor has one part left, which is executor x's, and none has failed. -/
def lastPart (s : State) (a : Active) (x : Executor) : Prop :=
  activeOf s a.id = some a ∧ a.toFinish = [x] ∧ a.toEnter = [] ∧ a.low = none ∧ a.failed = 0 ∧ a.multi = false

end Sys2Proof.Safety
end

