-- ==== Sys2Proof/Certificates/Slice0/Obligations.lean ====
section
/-! DEFINITION. The statements of this model: what its commands do, over all states. A statement about many states names its conditions; the
values the model chose are named with their log entries. -/

open Sys2Proof Sys2Proof.Machine Sys2Proof.Safety

/-- A step runs the command at the front of the queue on the state with the rest of the queue. (R14, R393) -/
def Obligations.StepRunsFrontCommand : Prop :=
  ∀ (c : Instr) (rest : List Instr) (s : State), s.pending = c :: rest → step s = exec c { s with pending := rest }

/-- Every command answers a next state, but a host access outside the module's HDM range, which is a fault of the model's (log entry 100); on an
empty queue a step is one ck cycle (the model's choice, log entry 4). (R21, R22, R361) -/
def Obligations.EveryCommandAnswers : Prop :=
  (∀ (c : Instr) (s : State), inRange c → ∃ t, exec c s = .next t) ∧
  (∀ (ma : BitVec 40) (len : Nat) (s : State), 512 * 2 ^ 30 + 256 * 2 ^ 20 ≤ ma.toNat →
    exec (.hostRead ma len) s = .fault .outsideHdmRange) ∧
  (∀ (line : BitVec 34) (en : BitVec 64) (data : BitVec 512) (p : Bool) (s : State), 512 * 2 ^ 30 + 256 * 2 ^ 20 ≤ 64 * line.toNat →
    exec (.hostWrite line en data p) s = .fault .outsideHdmRange) ∧
  (∀ s : State, s.pending = [] → step s = .next (tick s))

/-- A step leaves the queue's rest, the ordering code, the key hash and the fuse secret alone, never lowers the SVN fuses, and never clears a
revocation fuse. (R2, R398, R401, R402) -/
def Obligations.StepKeepsIdentity : Prop :=
  ∀ (s t : State), step s = .next t →
    t.pending = s.pending.tail ∧ t.variant = s.variant ∧ t.fuses.keyHash = s.fuses.keyHash ∧ t.fuses.secret = s.fuses.secret ∧
    s.fuses.svn.toNat ≤ t.fuses.svn.toNat ∧
    ∀ i : Nat, bit s.fuses.revoked i = true → bit t.fuses.revoked i = true

/-- The stored data and the check bytes stay in canonical form. (R27, R337) -/
def Obligations.StepKeepsMemories : Prop :=
  ∀ (s t : State), step s = .next t → memoriesCanonical s → memoriesCanonical t

/-- Few commands write. The stored data and check bytes change only in the commands of mayStore, the thermal registers and the cap loop's level
only in those of mayHeat, and the fuses only in COMMIT_SVN and REVOKE_KEY. (R337, R377, R383, R385, R398, R401, R402) -/
def Obligations.FewCommandsWrite : Prop :=
  ∀ (c : Instr) (s t : State), exec c s = .next t →
    (mayStore c = false → t.dram = s.dram ∧ t.check = s.check) ∧
    (mayHeat c = false → t.thm = s.thm ∧ t.pwr.kCap = s.pwr.kCap) ∧
    ((c ≠ .commitSvn ∧ ∀ k, c ≠ .revokeKey k) → t.fuses = s.fuses)

/-- The state after reset: no memory listed, the queue empty, step 1 of the power-on sequence with MEM_ACTIVE clear, no tenancy, no owner, no
work; and the reset values of the setup registers as BAR0 shows them. That memory reads 0 with check byte 0 is the model's choice (log entry
12), and so is the moment of reset, with the link down (log entry 7). (R25, R100, R274, R366, R393, R425, R443, R444, R447, R452) -/
def Obligations.ResetState : Prop :=
  memoriesCanonical State.reset ∧ State.reset.pending = [] ∧ State.reset.boot.phase = .sequence ∧ State.reset.boot.step = 1 ∧
  State.reset.boot.memActive = false ∧ State.reset.boot.linkUp = false ∧ State.reset.time = 0 ∧ State.reset.active = [] ∧
  State.reset.log.next = 0 ∧ State.reset.log.count = 0 ∧ State.reset.net.pod = .alone ∧
  (∀ t, (tenOf State.reset t).enabled = false) ∧ (∀ n, (regionOf State.reset n).valid = false) ∧
  (∀ g, mget none State.reset.groupOwner g = none) ∧ (∀ e, mget none State.reset.pressOwner e = none) ∧
  (∀ b, (unitOf State.reset b).st = .off) ∧ (∀ d, (domOf State.reset d).st = .off ∧ domReq State.reset d = true) ∧
  (∀ f, flagOf State.reset f = false) ∧ (∀ n, (barOf State.reset n).st = .uninit) ∧ (∀ k, kiteOf State.reset k = none) ∧
  (∀ b, bankRetired State.reset b = false) ∧ (∀ w, dramWord State.reset w = 0 ∧ dramCheck State.reset w = 0) ∧
  hostBarRead State.reset 0x20008 8 = 450 ∧ hostBarRead State.reset 0x20010 8 = 1024 ∧ hostBarRead State.reset 0x20018 8 = 10000 ∧
  hostBarRead State.reset 0x30028 8 = 2000 ∧ hostBarRead State.reset 0x100000 8 = 16 ∧ hostBarRead State.reset 0x400008 8 = 100000 ∧
  hostBarRead State.reset 0x400010 8 = 64 ∧ hostBarRead State.reset 0x400018 8 = 1024 ∧ hostBarRead State.reset 0x400888 8 = 0xFFFF ∧
  hostBarRead State.reset 0xC00038 8 = 50 ∧ hostBarRead State.reset 0xC00040 8 = 3200 ∧ hostBarRead State.reset 0xC00048 8 = 1000 ∧
  hostBarRead State.reset 0xC00050 8 = 1000

/-- An access to a reserved address of the HDM range: a read returns all-ones, a write is dropped, and one entry of class 0x01, number 0x0B
enters the cellar log unless its collecting queue is full; nothing else changes. A write that enables no byte is entered too (log entry 89),
and the answer is the same before MEM_ACTIVE (log entry 106): both are the model's readings. Completes: hostRead, hostWrite. (R22, R431) -/
def Obligations.ReservedSpace : Prop :=
  (∀ (ma : BitVec 40) (len : Nat) (s : State), s.boot.linkUp = true → 512 * 2 ^ 30 + 16 * 2 ^ 20 ≤ ma.toNat →
    ma.toNat < 512 * 2 ^ 30 + 256 * 2 ^ 20 →
    ∃ t, exec (.hostRead ma len) s = .next t ∧ t = { s with log := t.log, out := .readData ma.toNat (List.replicate len 0xFF) false :: s.out } ∧
      (logRoom s → loggedOnce s t 0x01 0x0B)) ∧
  (∀ (line : BitVec 34) (en : BitVec 64) (data : BitVec 512) (p : Bool) (s : State), s.boot.linkUp = true →
    512 * 2 ^ 30 + 16 * 2 ^ 20 ≤ 64 * line.toNat → 64 * line.toNat < 512 * 2 ^ 30 + 256 * 2 ^ 20 →
    ∃ t, exec (.hostWrite line en data p) s = .next t ∧ t = { s with log := t.log } ∧ (logRoom s → loggedOnce s t 0x01 0x0B))

/-- Host accesses to the data range, where no pair of the unit is within its commit. A read returns the stored bytes of clean words, the
corrected data of corrected ones, and writes nothing back; with a marker, an uncorrectable word or a retired row it carries poison. A write
stores each whole word with its check byte, or the marker where it carries poison; a word written in part takes the new bytes over its
decoded old value, or becomes a marker, with entry 0x04_03 last, where that decodes as bad; bytes without enable and every other word stay.
In a retired row it is dropped. Before MEM_ACTIVE a read carries poison and a write is dropped. Completes: hostRead, hostWrite. (R21, R41,
R337, R339, R340, R342, R343, R344, R356, R395) -/
def Obligations.HostDataAccesses : Prop :=
  (∀ (ma : BitVec 40) (len b o : Nat) (s : State), s.boot.linkUp = true → s.boot.memActive = true → ma.toNat < 2 ^ 39 →
    maMap (split s) ma.toNat = (b, o) → ma.toNat % 64 + len ≤ 64 → heldPair s b o = none →
    (retiredAt s (dramAddr b o) = false →
      (∀ k < 16, classify (dramWord s (dramAddr b (o / 64 * 64) / 4 + k)) (dramCheck s (dramAddr b (o / 64 * 64) / 4 + k)) = .clean) →
      exec (.hostRead ma len) s = .next (emit (hostSlots (chargeHost s ma.toNat len false) ma.toNat 2)
        (.readData ma.toNat (mgetAll 0 s.dram (dramAddr b (o / 64 * 64) + o % 64) len) false))) ∧
    (retiredAt s (dramAddr b o) = false → (∀ k < 16, readsAs s (dramAddr b (o / 64 * 64) / 4 + k) ≠ none) →
      ∃ t, exec (.hostRead ma len) s = .next t ∧ t.dram = s.dram ∧ t.check = s.check ∧
        t.out = .readData ma.toNat ((List.range len).map (fun i => BitVec.ofNat 8 (byteAt s (dramAddr b o + i)))) false :: s.out) ∧
    (retiredAt s (dramAddr b o) = true ∨
      (∃ k < 16, classify (dramWord s (dramAddr b (o / 64 * 64) / 4 + k)) (dramCheck s (dramAddr b (o / 64 * 64) / 4 + k)) = .marker ∨
        classify (dramWord s (dramAddr b (o / 64 * 64) / 4 + k)) (dramCheck s (dramAddr b (o / 64 * 64) / 4 + k)) = .uncorrectable) →
      ∃ t bs, exec (.hostRead ma len) s = .next t ∧ t.out = .readData ma.toNat bs true :: s.out ∧ t.dram = s.dram ∧ t.check = s.check)) ∧
  (∀ (line : BitVec 34) (en : BitVec 64) (data : BitVec 512) (p : Bool) (b o : Nat) (s : State), s.boot.linkUp = true →
    s.boot.memActive = true → 64 * line.toNat < 2 ^ 39 → maMap (split s) (line.toNat * 64) = (b, o) → heldPair s b o = none →
    (retiredAt s (dramAddr b o) = true → ∃ t, exec (.hostWrite line en data p) s = .next t ∧ t.dram = s.dram ∧ t.check = s.check) ∧
    (retiredAt s (dramAddr b o) = false → ∃ t, exec (.hostWrite line en data p) s = .next t ∧
      (∀ k < 16, bits en (4 * k) 4 = 15 →
        (p = false → dramWord t (dramAddr b o / 4 + k) = BitVec.ofNat 32 (bits data (32 * k) 32) ∧
          dramCheck t (dramAddr b o / 4 + k) = encodeCheck (BitVec.ofNat 32 (bits data (32 * k) 32))) ∧
        (p = true → dramWord t (dramAddr b o / 4 + k) = 0 ∧ dramCheck t (dramAddr b o / 4 + k) = 0x7F)) ∧
      (∀ k < 16, bits en (4 * k) 4 = 0 → wordKept s t (dramAddr b o / 4 + k)) ∧
      (∀ k < 16, bits en (4 * k) 4 ≠ 0 → bits en (4 * k) 4 ≠ 15 →
        (∀ v, p = false → readsAs s (dramAddr b o / 4 + k) = some v →
          (∀ i < 4, bits (dramWord t (dramAddr b o / 4 + k)) (8 * i) 8 =
            if bit en (4 * k + i) then bits data (32 * k + 8 * i) 8 else bits v (8 * i) 8) ∧
          dramCheck t (dramAddr b o / 4 + k) = encodeCheck (dramWord t (dramAddr b o / 4 + k))) ∧
        (p = true ∨ readsAs s (dramAddr b o / 4 + k) = none →
          dramWord t (dramAddr b o / 4 + k) = 0 ∧ dramCheck t (dramAddr b o / 4 + k) = 0x7F ∧ lastEntered t 4 3)) ∧
      (∀ w, w < dramAddr b o / 4 ∨ dramAddr b o / 4 + 16 ≤ w → wordKept s t w))) ∧
  (∀ (ma : BitVec 40) (len : Nat) (s : State), s.boot.linkUp = true → s.boot.memActive = false → ma.toNat < 2 ^ 39 →
    ∃ t bs, exec (.hostRead ma len) s = .next t ∧ t.out = .readData ma.toNat bs true :: s.out ∧ t.dram = s.dram ∧ t.check = s.check) ∧
  (∀ (line : BitVec 34) (en : BitVec 64) (data : BitVec 512) (p : Bool) (s : State), s.boot.linkUp = true → s.boot.memActive = false →
    64 * line.toNat < 2 ^ 39 → ∃ t, exec (.hostWrite line en data p) s = .next t ∧ t.dram = s.dram ∧ t.check = s.check)

/-- The SECDED code: a word with its own check byte is clean; one wrong bit of the 39, data or check, is corrected; two are uncorrectable; the
poison marker is one, and stays unreadable with one bit of it wrong. (R336, R338, R343) -/
def Obligations.CodeCorrects : Prop :=
  ∀ d : Word,
    classify d (encodeCheck d) = .clean ∧
    (∀ i < 32, classify (d ^^^ (1#32 <<< i)) (encodeCheck d) = .corrected d) ∧
    (∀ j < 7, classify d (encodeCheck d ^^^ (1#8 <<< j)) = .corrected d) ∧
    (∀ i < 32, ∀ k < 32, i ≠ k → classify (d ^^^ (1#32 <<< i) ^^^ (1#32 <<< k)) (encodeCheck d) = .uncorrectable) ∧
    (∀ i < 32, ∀ j < 7, classify (d ^^^ (1#32 <<< i)) (encodeCheck d ^^^ (1#8 <<< j)) = .uncorrectable) ∧
    (∀ j < 7, ∀ k < 7, j ≠ k → classify d (encodeCheck d ^^^ (1#8 <<< j) ^^^ (1#8 <<< k)) = .uncorrectable) ∧
    classify 0 0x7F = .marker ∧
    (∀ i < 32, classify (1#32 <<< i) 0x7F = .uncorrectable) ∧ (∀ j < 7, classify 0 (0x7F ^^^ (1#8 <<< j)) = .uncorrectable)

/-- The address map: for every LINEAR_SPLIT the register admits, each data address has one byte of one bank, in range, and no two share it.
(R25, R27, R28, R30) -/
def Obligations.AddressMapIsOneToOne : Prop :=
  ∀ k ≤ 32, ∀ ma < 2 ^ 39,
    (maMap (2 ^ 22 * k) ma).1 < 4096 ∧ (maMap (2 ^ 22 * k) ma).2 < 2 ^ 27 ∧
    ∀ mb < 2 ^ 39, maMap (2 ^ 22 * k) ma = maMap (2 ^ 22 * k) mb → ma = mb

/-- Conversions round to nearest, ties to even. A finite value converted to FP32, BF16, FP8 or INT8 becomes, unless it overflows to infinity,
the nearest finite value of the format, and of two equally near the one whose last bit is 0; what a format holds converts to FP32 exactly.
(R176, R181, R182, R183) -/
def Obligations.RoundingIsNearest : Prop :=
  (∀ f ≤ 4, ∀ (n : Bool) (m : Nat) (e : Int) (r : Nat), r = encodeNum f (.fin n m e) → isFinite (decodeNum f r) = true →
    ∀ raw < 2 ^ (8 * fmtBytes f), isFinite (decodeNum f raw) = true →
      |numVal (decodeNum f r) - numVal (.fin n m e)| ≤ |numVal (decodeNum f raw) - numVal (.fin n m e)| ∧
      (|numVal (decodeNum f r) - numVal (.fin n m e)| = |numVal (decodeNum f raw) - numVal (.fin n m e)| →
        numVal (decodeNum f r) ≠ numVal (decodeNum f raw) → r % 2 = 0)) ∧
  (∀ f ≤ 4, ∀ raw < 2 ^ (8 * fmtBytes f), isFinite (decodeNum f raw) = true →
    isFinite (ofF32 (toF32 (decodeNum f raw))) = true ∧ numVal (ofF32 (toF32 (decodeNum f raw))) = numVal (decodeNum f raw))

/-- The results of the thirteen register instructions, as Table 5.4 gives them: RD receives the value, the pc moves on, and nothing else
changes. A scalar instruction with a poisoned source does not fault: RD becomes poisoned with an unspecified value (a free value, log entry
5), and the pc moves on. Completes: add, sub, and, or, xor, shl, shr, sra, mul, min, max, slt, sltu. (R134, R148, R345) -/
def Obligations.ScalarRegisterResults : Prop :=
  (
  ∀ e ∈ ([(.add, 0x01, fun a b => BitVec.ofInt 32 (a.toInt + b.toInt)),
          (.sub, 0x02, fun a b => BitVec.ofInt 32 (a.toInt - b.toInt)),
          (.and, 0x03, fun a b => BitVec.ofNat 32 (a.toNat &&& b.toNat)),
          (.or, 0x04, fun a b => BitVec.ofNat 32 (a.toNat ||| b.toNat)),
          (.xor, 0x05, fun a b => BitVec.ofNat 32 (a.toNat ^^^ b.toNat)),
          (.shl, 0x06, fun a b => BitVec.ofNat 32 (a.toNat * 2 ^ (b.toNat % 32))),
          (.shr, 0x07, fun a b => BitVec.ofNat 32 (a.toNat / 2 ^ (b.toNat % 32))),
          (.sra, 0x08, fun a b => BitVec.ofInt 32 (a.toInt / 2 ^ (b.toNat % 32))),
          (.mul, 0x09, fun a b => BitVec.ofInt 32 (a.toInt * b.toInt)),
          (.min, 0x0A, fun a b => BitVec.ofInt 32 (min a.toInt b.toInt)),
          (.max, 0x0B, fun a b => BitVec.ofInt 32 (max a.toInt b.toInt)),
          (.slt, 0x0C, fun a b => if a.toInt < b.toInt then 1 else 0),
          (.sltu, 0x0D, fun a b => if a.toNat < b.toNat then 1 else 0)] :
        List ((CoreId → Instr) × Nat × (Word → Word → Word))),
    ∀ (x : CoreId) (s : State), issuesOp s x e.2.1 → bits (coreWord s x) 0 44 = 0 →
      (regAt s x 48).poison = false → (regAt s x 44).poison = false →
      exec (e.1 x) s = .next (writesReg s x (rf (coreWord s x) 52) (e.2.2 (regAt s x 48).val (regAt s x 44).val))) ∧
  (
  ∀ e ∈ ([(.add, 0x01), (.sub, 0x02), (.and, 0x03), (.or, 0x04), (.xor, 0x05), (.shl, 0x06), (.shr, 0x07), (.sra, 0x08),
          (.mul, 0x09), (.min, 0x0A), (.max, 0x0B), (.slt, 0x0C), (.sltu, 0x0D)] : List ((CoreId → Instr) × Nat)),
    ∀ (x : CoreId) (s : State), issuesOp s x e.2 → bits (coreWord s x) 0 44 = 0 →
      ((regAt s x 48).poison = true ∨ (regAt s x 44).poison = true) →
      exec (e.1 x) s = .next (modProc (draw s).2 x
        (fun p => pnext (rset p (rf (coreWord s x) 52) { val := Config.poisonValue s.free, poison := true }))))

/-- The results of the immediate instructions and of LI (Table 5.4). The shifts need IMM[31:5] = 0, and then shift by IMM. Completes: addi,
andi, ori, xori, shli, shri, srai, muli, slti, li. (R134, R148) -/
def Obligations.ScalarImmediateResults : Prop :=
  (∀ e ∈ ([(.addi, 0x11, false, fun a i => BitVec.ofInt 32 (a.toInt + i.toInt)),
           (.andi, 0x13, false, fun a i => BitVec.ofNat 32 (a.toNat &&& i.toNat)),
           (.ori, 0x14, false, fun a i => BitVec.ofNat 32 (a.toNat ||| i.toNat)),
           (.xori, 0x15, false, fun a i => BitVec.ofNat 32 (a.toNat ^^^ i.toNat)),
           (.shli, 0x16, true, fun a i => BitVec.ofNat 32 (a.toNat * 2 ^ i.toNat)),
           (.shri, 0x17, true, fun a i => BitVec.ofNat 32 (a.toNat / 2 ^ i.toNat)),
           (.srai, 0x18, true, fun a i => BitVec.ofInt 32 (a.toInt / 2 ^ i.toNat)),
           (.muli, 0x19, false, fun a i => BitVec.ofInt 32 (a.toInt * i.toInt)),
           (.slti, 0x1C, false, fun a i => if a.toInt < i.toInt then 1 else 0)] :
         List ((CoreId → Instr) × Nat × Bool × (Word → Word → Word))),
     ∀ (x : CoreId) (s : State), issuesOp s x e.2.1 → bits (coreWord s x) 32 16 = 0 →
       (e.2.2.1 = true → bits (coreWord s x) 5 27 = 0) → (regAt s x 48).poison = false →
       exec (e.1 x) s = .next (writesReg s x (rf (coreWord s x) 52) (e.2.2.2 (regAt s x 48).val (BitVec.ofNat 32 (bits (coreWord s x) 0 32))))) ∧
  (∀ (x : CoreId) (s : State), issuesOp s x 0x1E → bits (coreWord s x) 32 20 = 0 →
     exec (.li x) s = .next (writesReg s x (rf (coreWord s x) 52) (BitVec.ofNat 32 (bits (coreWord s x) 0 32))))

/-- Register 0 reads 0 and discards writes; a write to another register is read back and leaves the rest alone. RDS copies a special register:
the tag, BUID or engine number, tenancy, time, loop counters, live cask, stream columns not yet handed out, the split and the constants of
R136; a number of Table 5.3 that names none ends the task with BU_FAULT. Completes: rds. (R134, R135, R136) -/
def Obligations.RegistersAndSpecials : Prop :=
  (
  ∀ (p : Proc) (i j : Nat) (v : PWord),
    rget p 0 = { val := 0, poison := false } ∧ rset p 0 v = p ∧
    (i ≠ 0 → rget (rset p i v) i = v) ∧ (i ≠ j → rget (rset p i v) j = rget p j) ∧
    (rset p i v).pc = p.pc ∧ (rset p i v).mem = p.mem ∧ (rset p i v).shapes = p.shapes ∧ (rset p i v).loops = p.loops) ∧
  (
  (∀ (x : CoreId) (s : State) (v : Nat), issuesOp s x 0x1F → bits (coreWord s x) 32 20 = 0 → bits (coreWord s x) 8 24 = 0 →
    special s x (bits (coreWord s x) 0 8) = some v →
    exec (.rds x) s = .next (writesReg s x (rf (coreWord s x) 52) (BitVec.ofNat 32 v))) ∧
  (∀ (x : CoreId) (s : State),
    special s x 0x00 = some (coreTag s x).toNat ∧
    special s x 0x01 = some (match x with | .unit b => b.toNat | .press e => e.toNat) ∧
    special s x 0x02 = some (coreTen s x) ∧ special s x 0x03 = some (s.time % 2 ^ 32) ∧
    special s x 0x06 = some (if (procOf s x).live then 1 else 0) ∧
    special s x 0x20 = some 0x00004088 ∧ special s x 0x21 = some 0x00201000 ∧ special s x 0x22 = some 0x00010000 ∧
    special s x 0x23 = some 0x00020800 ∧ special s x 0x24 = some 0x00002010 ∧ special s x 0x25 = some 0x08804020 ∧
    special s x 0x26 = some 0x000007FF ∧
    special s x 0x04 = some (((procOf s x).loops[0]?.map (·.count)).getD 0) ∧
    special s x 0x05 = some (((procOf s x).loops[1]?.map (·.count)).getD 0) ∧
    special s x 0x08 = some (bits (reg s 0x100000) 0 6)) ∧
  (∀ (b : BitVec 12) (s : State),
    (∀ y, (unitOf s b.toNat).stream = some y → special s (.unit b) 0x07 = some (y.count - y.taken)) ∧
    ((unitOf s b.toNat).stream = none → special s (.unit b) 0x07 = some 0)) ∧
  (∀ (x : CoreId) (s : State), issuesOp s x 0x1F → bits (coreWord s x) 32 20 = 0 → bits (coreWord s x) 8 24 = 0 →
    (8 < bits (coreWord s x) 0 8 ∧ bits (coreWord s x) 0 8 < 0x20 ∨ 0x26 < bits (coreWord s x) 0 8) →
    ∃ t, exec (.rds x) s = .next t ∧ faulted s t x 0x0D))

/-- LDW and STW of a unit and of a press, at address a = s[RA] + IMM modulo 2^32. Aligned and inside the local store or scratch: LDW writes RD
with the four bytes at a, least significant first; STW makes the four bytes at a those of RB, marks their word as RB is marked, and leaves
every other byte and mark of the memory alone; nothing but the core's part changes. Otherwise the task ends with BU_FAULT. Completes: ldw,
stw, pressLdw, pressStw. (R148, R345, R471) -/
def Obligations.ScalarMemory : Prop :=
  (∀ (c : Instr) (x : CoreId) (s : State),
    ((∃ b, c = .ldw b ∧ x = .unit b) ∨ (∃ e, c = .pressLdw e ∧ x = .press e)) →
    issuesOp s x 0x20 → bits (coreWord s x) 32 16 = 0 → (regAt s x 48).poison = false →
    (accessAddr s x % 4 = 0 → accessAddr s x + 4 ≤ coreMem x → memBad (procOf s x) (accessAddr s x) 4 = false →
      exec c s = .next (writesReg s x (rf (coreWord s x) 52)
        (BitVec.ofNat 32 (∑ i ∈ Finset.range 4, (mget 0 (procOf s x).mem (accessAddr s x + i)).toNat * 256 ^ i)))) ∧
    ((accessAddr s x % 4 ≠ 0 ∨ coreMem x < accessAddr s x + 4) → ∃ t, exec c s = .next t ∧ faulted s t x 0x05)) ∧
  (∀ (c : Instr) (x : CoreId) (s : State),
    ((∃ b, c = .stw b ∧ x = .unit b) ∨ (∃ e, c = .pressStw e ∧ x = .press e)) →
    issuesOp s x 0x21 → bits (coreWord s x) 32 16 = 0 → (regAt s x 48).poison = false →
    (accessAddr s x % 4 = 0 → accessAddr s x + 4 ≤ coreMem x →
      ∃ m k, exec c s = .next (modProc s x (fun p => pnext { p with mem := m, memPoison := k })) ∧
        (∀ i < 4, mget 0 m (accessAddr s x + i) = BitVec.ofNat 8 ((regAt s x 52).val.toNat / 256 ^ i)) ∧
        (∀ a, a < accessAddr s x ∨ accessAddr s x + 4 ≤ a → mget 0 m a = mget 0 (procOf s x).mem a) ∧
        mget false k (accessAddr s x / 4) = (regAt s x 52).poison ∧
        (∀ w, w ≠ accessAddr s x / 4 → mget false k w = mget false (procOf s x).memPoison w)) ∧
    ((accessAddr s x % 4 ≠ 0 ∨ coreMem x < accessAddr s x + 4) → ∃ t, exec c s = .next t ∧ faulted s t x 0x05))

/-- B branches always; the others branch exactly when their condition on RA and RB holds. A taken branch goes to TARGET and leaves the loop
levels that do not hold it; otherwise the pc moves on. Nothing else changes (unpoisoned RA and RB; poisoned ones: O22). The levels that a
taken branch leaves: the first whose body does not hold the target, and every level inside it; those outside it stay. Completes: b, beq,
bne, blt, bge, bltu, bgeu. (R149, R156) -/
def Obligations.BranchConditions : Prop :=
  (
  ∀ e ∈ ([(.b, 0x28, true, fun _ _ => true),
          (.beq, 0x29, false, fun a b => decide (a = b)),
          (.bne, 0x2A, false, fun a b => decide (a ≠ b)),
          (.blt, 0x2B, false, fun a b => decide (a.toInt < b.toInt)),
          (.bge, 0x2C, false, fun a b => decide (a.toInt ≥ b.toInt)),
          (.bltu, 0x2D, false, fun a b => decide (a.toNat < b.toNat)),
          (.bgeu, 0x2E, false, fun a b => decide (a.toNat ≥ b.toNat))] :
        List ((CoreId → Instr) × Nat × Bool × (Word → Word → Bool))),
    ∀ (x : CoreId) (s : State), issuesOp s x e.2.1 → bits (coreWord s x) (indexBits x) (48 - indexBits x) = 0 →
      (e.2.2.1 = true → bits (coreWord s x) 48 8 = 0) →
      (e.2.2.1 = false → (regAt s x 52).poison = false ∧ (regAt s x 48).poison = false) →
      exec (e.1 x) s = .next (modProc s x (fun p =>
        if e.2.2.2 (regAt s x 52).val (regAt s x 48).val then
          { p with pc := bits (coreWord s x) 0 (indexBits x), loops := keepLevels p.loops (bits (coreWord s x) 0 (indexBits x)) }
        else pnext p))) ∧
  (
  ∀ (ls : List LoopLevel) (target : Nat), ∃ left : List LoopLevel, ls = keepLevels ls target ++ left ∧
    (∀ l ∈ keepLevels ls target, l.body ≤ target ∧ target ≤ l.endIx) ∧
    (∀ l, left.head? = some l → target < l.body ∨ l.endIx < target))

/-- A unit that issues at an index past 2047, or beyond the last instruction of the most recent completed load into the live cask, ends its task
with BU_FAULT, whichever instruction it would issue. (R150) -/
def Obligations.RunningOutOfTheCask : Prop :=
  ∀ (b : BitVec 12) (s : State), mayIssue s (.unit b) = true →
    (2047 < (procOf s (.unit b)).pc ∨
      ∃ n, ((procOf s (.unit b)).cask (procOf s (.unit b)).live).loaded = some n ∧ n ≤ (procOf s (.unit b)).pc) →
    ∀ c, unitProgramCommand b c → ∃ t, exec c s = .next t ∧ faulted s t (.unit b) 0x0C

/-- LOOP opens a level with its count, or with a count of 0 goes on after END; a third level ends the task with LOOP_DEPTH; an END that is not
greater than the LOOP's own index, lies outside the cask, or is not less than the outer level's END ends it with BU_FAULT. lc0 and lc1 read
the counters of the first and the second active level, or 0. LEND at the END of the innermost level: the count falls; while it is not 0 the
body starts again, else the level is left and the pc moves on. Any other LEND ends the task with BU_FAULT. At an active level's END any
instruction of a unit but LEND, its registers unpoisoned, ends the task so: the command of the word there ends it, with REASON 0x0A or a
lesser one, and no command does anything else. LEXIT leaves the innermost active level and continues at its END + 1; with no active level
the task ends with BU_FAULT. Completes: loop, lend, lexit. (R151, R152, R153, R154, R155, R175, R236) -/
def Obligations.LoopsRepeatAndEnd : Prop :=
  (
  (∀ (x : CoreId) (s : State) (e n : Nat), issuesOp s x 0x30 →
    bits (coreWord s x) (32 + indexBits x) (20 - indexBits x) = 0 →
    (rf (coreWord s x) 52 = 0 ∨ bits (coreWord s x) 0 32 = 0) → (regAt s x 52).poison = false →
    e = bits (coreWord s x) 32 (indexBits x) →
    n = (if rf (coreWord s x) 52 = 0 then bits (coreWord s x) 0 32 else (regAt s x 52).val.toNat) →
    ((procOf s x).pc < e → e < coreCask x → (∀ l, (procOf s x).loops.getLast? = some l → e < l.endIx) →
      ((procOf s x).loops.length < 2 → 0 < n →
        exec (.loop x) s = .next (modProc s x (fun p => { p with
          pc := p.pc + 1, loops := p.loops ++ [{ body := p.pc + 1, endIx := e, count := n }] }))) ∧
      ((procOf s x).loops.length < 2 → n = 0 → exec (.loop x) s = .next (modProc s x (fun p => { p with pc := e + 1 }))) ∧
      (2 ≤ (procOf s x).loops.length → ∃ t, exec (.loop x) s = .next t ∧ endedBy s t x .loopDepth 0x00)) ∧
    ((e ≤ (procOf s x).pc ∨ coreCask x ≤ e ∨ ∃ l, (procOf s x).loops.getLast? = some l ∧ l.endIx ≤ e) →
      ∃ t, exec (.loop x) s = .next t ∧ faulted s t x 0x0B)) ∧
  (∀ (x : CoreId) (s : State),
    special s x 0x04 = some (match (procOf s x).loops with | l :: _ => l.count | [] => 0) ∧
    special s x 0x05 = some (match (procOf s x).loops with | _ :: l :: _ => l.count | _ => 0))) ∧
  (
  (∀ (x : CoreId) (s : State), mayIssue s x = true → pcOutside x (procOf s x) = false → bits (coreWord s x) 56 8 = 0x31 →
    bits (coreWord s x) 0 56 = 0 →
    (∀ l, (procOf s x).loops.getLast? = some l → l.endIx = (procOf s x).pc → 2 ≤ l.count →
      exec (.lend x) s = .next (modProc s x (fun p => { p with
        pc := l.body, loops := p.loops.dropLast ++ [{ l with count := l.count - 1 }] }))) ∧
    (∀ l, (procOf s x).loops.getLast? = some l → l.endIx = (procOf s x).pc → l.count = 1 →
      exec (.lend x) s = .next (modProc s x (fun p => { p with pc := l.endIx + 1, loops := p.loops.dropLast }))) ∧
    ((∀ l, (procOf s x).loops.getLast? = some l → l.endIx ≠ (procOf s x).pc) →
      ∃ t, exec (.lend x) s = .next t ∧ faulted s t x 0x0A)) ∧
  (∀ (b : BitVec 12) (s : State), mayIssue s (.unit b) = true → pcOutside (.unit b) (procOf s (.unit b)) = false →
    bits (coreWord s (.unit b)) 56 8 ≠ 0x31 → (∃ l ∈ (procOf s (.unit b)).loops, l.endIx = (procOf s (.unit b)).pc) →
    (∀ r, (rget (procOf s (.unit b)) r).poison = false) →
    (∀ c, unitProgramCommand b c → exec c s = .next s ∨ ∃ t, exec c s = .next t ∧ ∃ r ≤ 0x0A, faulted s t (.unit b) r) ∧
    ∃ c, unitProgramCommand b c ∧ ∃ t, exec c s = .next t ∧ ∃ r ≤ 0x0A, faulted s t (.unit b) r)) ∧
  (
  ∀ (x : CoreId) (s : State), issuesOp s x 0x32 → bits (coreWord s x) 0 56 = 0 →
    (∀ l, (procOf s x).loops.getLast? = some l →
      exec (.lexit x) s = .next (modProc s x (fun p => { p with pc := l.endIx + 1, loops := p.loops.dropLast }))) ∧
    ((procOf s x).loops = [] → ∃ t, exec (.lexit x) s = .next t ∧ faulted s t x 0x0A))

/-- SHAPE and PSHAPE write one shape register: N0, S0, N1 from the field or from RN, and S1, signed, in bytes for a unit and in 32-byte units
for a press. N1 above 4095 ends the task with BU_FAULT. Completes: shape. (R133, R138, R236) -/
def Obligations.ShapeWrites : Prop :=
  ∀ (c : Instr) (x : CoreId) (unit : Int) (s : State) (n1 : Nat),
    ((∃ b, c = .shape b ∧ x = .unit b ∧ unit = 1) ∨ (∃ e, c = .pshape e ∧ x = .press e ∧ unit = 32)) →
    issuesOp s x 0x40 → bits (coreWord s x) 48 1 = 0 → (rf (coreWord s x) 49 = 0 ∨ bits (coreWord s x) 16 12 = 0) →
    (regAt s x 49).poison = false →
    n1 = (if rf (coreWord s x) 49 = 0 then bits (coreWord s x) 16 12 else (regAt s x 49).val.toNat) →
    (n1 ≤ 4095 → ∃ m, exec c s = .next (modProc s x (fun p => pnext { p with shapes := m })) ∧
      ∀ k, mget Shape.zero m k = if k = bits (coreWord s x) 53 3 then
          { n0 := bits (coreWord s x) 36 12, s0 := bits (coreWord s x) 28 8, n1 := n1,
            s1 := (BitVec.ofNat 16 (bits (coreWord s x) 0 16)).toInt * unit }
        else mget Shape.zero (procOf s x).shapes k) ∧
    (4095 < n1 → ∃ t, exec c s = .next t ∧ faulted s t x 0x04)

/-- FSET and FCLR of an owned flag homed on the module: once every older write of the core has committed, the operation leaves for the home and
the pc moves on; until then the core waits. A flag of another tenancy ends the task with NOT_OWNER. FWAIT. With TEST it sends the test, or
with CLR the test-and-clear, and waits for the answer without a nap (log entry 135). Without, on a clear flag homed in the unit's own stack,
the unit naps with its watch at the home. Completes: fset, fclr, fwait. (R166, R167, R168, R246, R250) -/
def Obligations.FlagInstructions : Prop :=
  (
  ∀ e ∈ ([(.fset, 0x38, .set), (.fclr, 0x39, .clear)] : List ((CoreId → Instr) × Nat × FlagOp)),
    ∀ (x : CoreId) (s : State) (f : Nat), issuesOp s x e.2.1 → bits (coreWord s x) 16 24 = 0 → bits (coreWord s x) 40 8 = 0 →
      rf (coreWord s x) 52 = 0 → (rf (coreWord s x) 48 = 0 ∨ bits (coreWord s x) 0 16 = 0) → (regAt s x 48).poison = false →
      f = (if rf (coreWord s x) 48 = 0 then bits (coreWord s x) 0 16 else (regAt s x 48).val.toNat % 65536) →
      (ownsFlag s (coreTen s x) f = true → flagHome s f ≠ 9 → coreDrained s x = true →
        exec (e.1 x) s = .next (modProc { s with sync := { s.sync with msgs := s.sync.msgs ++
          [{ op := e.2.2, flag := f, ten := coreTen s x, who := coreWho x, tag := coreTag s x, reply := .none }] } } x pnext)) ∧
      (ownsFlag s (coreTen s x) f = true → flagHome s f ≠ 9 → coreDrained s x = false → exec (e.1 x) s = .next s) ∧
      (ownsFlag s (coreTen s x) f = false → ∃ t, exec (e.1 x) s = .next t ∧ endedBy s t x .notOwner 0x00)) ∧
  (
  ∀ (x : CoreId) (s : State) (f : Nat) (clr : Bool), issuesOp s x 0x3A → bits (coreWord s x) 16 24 = 0 → bits (coreWord s x) 42 6 = 0 →
    (rf (coreWord s x) 48 = 0 ∨ bits (coreWord s x) 0 16 = 0) → (regAt s x 48).poison = false →
    f = (if rf (coreWord s x) 48 = 0 then bits (coreWord s x) 0 16 else (regAt s x 48).val.toNat % 65536) →
    clr = bit (coreWord s x) 40 → ownsFlag s (coreTen s x) f = true → flagHome s f ≠ 9 →
    (bit (coreWord s x) 41 = true →
      exec (.fwait x) s = .next { modProc s x (fun p => { p with nap := some { why := .test f clr (rf (coreWord s x) 52), released := false,
                                                                                lastPoll := s.ck, answer := none } }) with
        sync := { s.sync with msgs := s.sync.msgs ++ [{ op := if clr then .testClr else .test, flag := f, ten := coreTen s x,
                                                        who := coreWho x, tag := coreTag s x, reply := .core x }] } }) ∧
    (bit (coreWord s x) 41 = false → rf (coreWord s x) 52 = 0 → ∀ b, x = .unit b → flagHome s f = stackOf b.toNat + 1 →
      flagOf s f = false → (∀ m ∈ s.sync.msgs, m.who ≠ coreWho x) →
      ∃ t, exec (.fwait x) s = .next t ∧ (unitOf t b.toNat).st = .napping ∧
        (procOf t x).nap = some { why := .flag f clr, released := false, lastPoll := s.ck, answer := none } ∧
        (procOf t x).pc = (procOf s x).pc ∧ flagOf t f = false ∧
        t.sync.watches = s.sync.watches ++ [{ flag := f, onClear := false, clr := clr, holder := .core x, kite := none,
                                              who := coreWho x, tag := coreTag s x }]))

/-- BARR at a barrier of the task's tenancy in which the unit takes part: once older pairs have committed, the arrival leaves for the B-die;
without WAIT the pc moves on, with WAIT the unit naps. SEND begins: with a free port, its LEN a nonzero multiple of 32 inside the local
store, and a channel of at most 15, its beats of 64 bytes start. HALT and PHALT end the task OK with CODE in DETAIL; HALT first waits for
the unit's port and arrivals. Completes: barr, send, halt, phalt. (R166, R170, R171, R172, R264) -/
def Obligations.ArrivalSendAndHalt : Prop :=
  (
  ∀ (b : BitVec 12) (s : State) (n : Nat), issuesOp s (.unit b) 0x3B → bits (coreWord s (.unit b)) 16 24 = 0 →
    bits (coreWord s (.unit b)) 41 7 = 0 → rf (coreWord s (.unit b)) 52 = 0 →
    (rf (coreWord s (.unit b)) 48 = 0 ∨ bits (coreWord s (.unit b)) 0 16 = 0) → (regAt s (.unit b) 48).poison = false →
    n = (if rf (coreWord s (.unit b)) 48 = 0 then bits (coreWord s (.unit b)) 0 16 else (regAt s (.unit b) 48).val.toNat % 65536) →
    n ≤ 1023 → mget none s.barOwner n = some (coreTen s (.unit b)) → participates s n b.toNat = true →
    coreDrained s (.unit b) = true →
    (bit (coreWord s (.unit b)) 40 = false → exec (.barr b) s = .next
      (modProc { s with sync := { s.sync with arrivals := s.sync.arrivals ++ [{ bar := n, unit := b.toNat, from_ := originOf s b.toNat }] } } (.unit b) pnext)) ∧
    (bit (coreWord s (.unit b)) 40 = true → ∃ t, exec (.barr b) s = .next t ∧
      t.sync.arrivals = s.sync.arrivals ++ [{ bar := n, unit := b.toNat, from_ := originOf s b.toNat }] ∧
      (unitOf t b.toNat).st = .napping ∧ (procOf t (.unit b)).pc = (procOf s (.unit b)).pc ∧
      (procOf t (.unit b)).nap = some { why := .barrier n, released := false, lastPoll := s.ck, answer := none })) ∧
  (
  (∀ (b : BitVec 12) (s : State), issuesOp s (.unit b) 0x3C → bits (coreWord s (.unit b)) 32 16 = 0 →
    (rf (coreWord s (.unit b)) 52 = 0 ∨ bits (coreWord s (.unit b)) 48 4 = 0) → (regAt s (.unit b) 52).poison = false →
    (unitOf s b.toNat).port = none →
    bits (coreWord s (.unit b)) 16 16 ≠ 0 → bits (coreWord s (.unit b)) 16 16 % 32 = 0 →
    bits (coreWord s (.unit b)) 0 16 + bits (coreWord s (.unit b)) 16 16 ≤ 65536 →
    (rf (coreWord s (.unit b)) 52 = 0 ∨ (regAt s (.unit b) 52).val.toNat ≤ 15) →
    exec (.send b) s = .next (modProc s (.unit b) (fun p => { p with
      vec := some { word := coreWord s (.unit b), beat := 0, total := (bits (coreWord s (.unit b)) 16 16 + 63) / 64 } }))) ∧
  (∀ (b : BitVec 12) (s : State), issuesOp s (.unit b) 0x3F → bits (coreWord s (.unit b)) 16 40 = 0 →
    (((unitOf s b.toNat).port = none ∧ ∀ a ∈ s.sync.arrivals, a.unit ≠ b.toNat) →
      ∃ t, exec (.halt b) s = .next t ∧ endedWith t (.unit b) .ok (bits (coreWord s (.unit b)) 0 16)) ∧
    (((unitOf s b.toNat).port ≠ none ∨ ∃ a ∈ s.sync.arrivals, a.unit = b.toNat) → exec (.halt b) s = .next s)) ∧
  (∀ (e : BitVec 4) (s : State), issuesOp s (.press e) 0x3F → bits (coreWord s (.press e)) 16 40 = 0 →
    ∃ t, exec (.phalt e) s = .next t ∧ endedWith t (.press e) .ok (bits (coreWord s (.press e)) 0 16)))

/-- A word whose opcode the unit or press does not define ends the task with BU_FAULT. A word with a bit set in a reserved field, or a field
that must be 0, ends its task with REASON 0x02, whichever other check would fail. A poisoned register that steers a branch, a loop, a shape
or a barrier, or that enters an address or an offset, ends its task with DATA_UNCORRECTABLE; that this comes before every check but that of
the fields is the model's reading (log entry 26). Completes: fwait, bwrite, pshape, pput, undefinedOpcodeWord. (R132, R133, R106, R174,
R175, R236, R243, R346) -/
def Obligations.UndefinedOpcodeEnds : Prop :=
  (
  ∀ (x : CoreId) (s : State), mayIssue s x = true → pcOutside x (procOf s x) = false →
    opDefined x (bits (coreWord s x) 56 8) = false →
    ∃ t, exec (.undefinedOpcodeWord x) s = .next t ∧ faulted s t x 0x01) ∧
  (
  (∀ e ∈ ([(.add, 0x01), (.sub, 0x02), (.and, 0x03), (.or, 0x04), (.xor, 0x05), (.shl, 0x06), (.shr, 0x07), (.sra, 0x08), (.mul, 0x09),
          (.min, 0x0A), (.max, 0x0B), (.slt, 0x0C), (.sltu, 0x0D)].map (fun c => (c.1, c.2, fun _ => [(0, 44)]))
        ++ [(.addi, 0x11), (.andi, 0x13), (.ori, 0x14), (.xori, 0x15), (.muli, 0x19), (.slti, 0x1C)].map
            (fun c => (c.1, c.2, fun _ => [(32, 16)]))
        ++ [(.shli, 0x16), (.shri, 0x17), (.srai, 0x18)].map (fun c => (c.1, c.2, fun _ => [(32, 16), (5, 27)]))
        ++ [(.li, 0x1E, fun _ => [(32, 20)]), (.rds, 0x1F, fun _ => [(32, 20), (8, 24)]), (.b, 0x28, fun i => [(i, 48 - i), (48, 8)])]
        ++ [(.beq, 0x29), (.bne, 0x2A), (.blt, 0x2B), (.bge, 0x2C), (.bltu, 0x2D), (.bgeu, 0x2E)].map
            (fun c => (c.1, c.2, fun i => [(i, 48 - i)]))
        ++ [(.loop, 0x30, fun i => [(32 + i, 20 - i)]), (.lend, 0x31, fun _ => [(0, 56)]), (.lexit, 0x32, fun _ => [(0, 56)]),
            (.fset, 0x38, fun _ => [(16, 24), (40, 8), (52, 4)]), (.fclr, 0x39, fun _ => [(16, 24), (40, 8), (52, 4)]),
            (.fwait, 0x3A, fun _ => [(16, 24), (42, 6)])] :
        List ((CoreId → Instr) × Nat × (Nat → List (Nat × Nat)))),
    ∀ (x : CoreId) (s : State), issuesWord s x e.2.1 → ¬ fieldsClear s x (e.2.2 (indexBits x)) →
      ∃ t, exec (e.1 x) s = .next t ∧ faulted s t x 0x02) ∧
  (∀ e ∈ ([(.ldw, 0x20, [(32, 16)]), (.stw, 0x21, [(32, 16)]), (.barr, 0x3B, [(16, 24), (41, 7), (52, 4)]), (.send, 0x3C, [(32, 16)]),
           (.halt, 0x3F, [(16, 40)]), (.shape, 0x40, [(48, 1)]), (.bstream, 0x41, [(32, 2)]), (.vdot, 0x48, [(4, 12)]), (.vaxpy, 0x49, [(4, 12)]),
           (.vred, 0x54, [(2, 14), (54, 2)]), (.vcvt, 0x55, [(1, 7), (48, 3), (54, 2)]), (.vld, 0x58, [(5, 11), (32, 8)]),
           (.vst, 0x59, [(5, 11), (32, 8)])] : List ((BitVec 12 → Instr) × Nat × List (Nat × Nat))),
    ∀ (b : BitVec 12) (s : State), issuesWord s (.unit b) e.2.1 → ¬ fieldsClear s (.unit b) e.2.2 →
      ∃ t, exec (e.1 b) s = .next t ∧ faulted s t (.unit b) 0x02) ∧
  (∀ e ∈ ([(.pressLdw, 0x20, [(32, 16)]), (.pressStw, 0x21, [(32, 16)]), (.phalt, 0x3F, [(16, 40)]), (.pshape, 0x40, [(48, 1)]),
           (.pew, 0x60, [(50, 3)]), (.pact, 0x63, [(50, 3)]), (.pred, 0x61, [(47, 6)]), (.pnorm, 0x62, [(46, 3)]), (.prope, 0x64, [(49, 4)]), (.pmerge, 0x65, [(47, 6)]), (.ptopk, 0x66, [(51, 2)]),
           (.pquant, 0x67, [(49, 4)]), (.pget, 0x70, [(46, 7), (8, 7)]), (.pput, 0x71, [(47, 6), (8, 7)]), (.pchan, 0x72, [(49, 4)]),
           (.precv, 0x73, [(49, 4)]), (.pfree, 0x74, [(49, 4)]), (.psend, 0x75, [(49, 4), (10, 5)])] :
          List ((BitVec 4 → Instr) × Nat × List (Nat × Nat))),
    ∀ (e' : BitVec 4) (s : State), issuesWord s (.press e') e.2.1 → ¬ fieldsClear s (.press e') e.2.2 →
      ∃ t, exec (e.1 e') s = .next t ∧ faulted s t (.press e') 0x02) ∧
  (∀ e ∈ ([(.loop, 0x30, fun w => rf w 52 ≠ 0 ∧ bits w 0 32 ≠ 0), (.fset, 0x38, fun w => rf w 48 ≠ 0 ∧ bits w 0 16 ≠ 0),
           (.fclr, 0x39, fun w => rf w 48 ≠ 0 ∧ bits w 0 16 ≠ 0), (.fwait, 0x3A, fun w => rf w 48 ≠ 0 ∧ bits w 0 16 ≠ 0),
           (.fwait, 0x3A, fun w => bit w 41 = false ∧ rf w 52 ≠ 0)] : List ((CoreId → Instr) × Nat × (Word64 → Prop))),
    ∀ (x : CoreId) (s : State), issuesWord s x e.2.1 → e.2.2 (coreWord s x) → ∃ t, exec (e.1 x) s = .next t ∧ faulted s t x 0x02) ∧
  (∀ e ∈ ([(.barr, 0x3B, fun w => rf w 48 ≠ 0 ∧ bits w 0 16 ≠ 0), (.send, 0x3C, fun w => rf w 52 ≠ 0 ∧ bits w 48 4 ≠ 0),
           (.shape, 0x40, fun w => rf w 49 ≠ 0 ∧ bits w 16 12 ≠ 0), (.vmul, 0x50, fun w => bits w 54 2 = 3), (.vadd, 0x51, fun w => bits w 54 2 = 3),
           (.vmax, 0x52, fun w => bits w 54 2 = 3), (.vexp, 0x53, fun w => bits w 54 2 = 3),
           (.vcvt, 0x55, fun w => bit w 0 = true ∧ bits w 16 16 ≠ 0), (.vld, 0x58, fun w => bit w 4 = true ∧ (bits w 16 16 ≠ 0 ∨ rf w 0 ≠ 0)),
           (.bwrite, 0x5A, fun w => bit w 36 = true ∧ bits w 0 16 ≠ 0),
           (.bwrite, 0x5A, fun w => bit w 36 = false ∧ (bits w 32 4 ≠ 0 ∨ bits w 37 9 ≠ 0))] : List ((BitVec 12 → Instr) × Nat × (Word64 → Prop))),
    ∀ (b : BitVec 12) (s : State), issuesWord s (.unit b) e.2.1 → e.2.2 (coreWord s (.unit b)) →
      ∃ t, exec (e.1 b) s = .next t ∧ faulted s t (.unit b) 0x02) ∧
  (∀ (e : BitVec 4) (s : State), issuesWord s (.press e) 0x40 → rf (coreWord s (.press e)) 49 ≠ 0 → bits (coreWord s (.press e)) 16 12 ≠ 0 →
    ∃ t, exec (.pshape e) s = .next t ∧ faulted s t (.press e) 0x02)) ∧
  (
  (∀ e ∈ ([(.beq, 0x29), (.bne, 0x2A), (.blt, 0x2B), (.bge, 0x2C), (.bltu, 0x2D), (.bgeu, 0x2E)].map
            (fun c => (c.1, c.2, fun i => [(i, 48 - i)], [52, 48]))
        ++ [(.loop, 0x30, fun i => [(32 + i, 20 - i), (0, 32)], [52]), (.fset, 0x38, fun _ => [(0, 48), (52, 4)], [48]),
            (.fclr, 0x39, fun _ => [(0, 48), (52, 4)], [48]), (.fwait, 0x3A, fun _ => [(0, 40), (41, 7), (52, 4)], [48])] :
        List ((CoreId → Instr) × Nat × (Nat → List (Nat × Nat)) × List Nat)),
    ∀ (x : CoreId) (s : State), issuesWord s x e.2.1 → fieldsClear s x (e.2.2.1 (indexBits x)) → (∃ lo ∈ e.2.2.2, (regAt s x lo).poison = true) →
      ∃ t, exec (e.1 x) s = .next t ∧ endedBy s t x .dataUncorrectable 0x00) ∧
  (∀ e ∈ ([(.ldw, 0x20, [(32, 16)], [48]), (.stw, 0x21, [(32, 16)], [48]), (.barr, 0x3B, [(0, 40), (41, 7), (52, 4)], [48]),
           (.send, 0x3C, [(32, 20)], [52]), (.shape, 0x40, [(48, 1), (16, 12)], [49]), (.bstream, 0x41, [(32, 2)], [42, 38, 34]),
           (.vdot, 0x48, [(4, 12)], [0]), (.vaxpy, 0x49, [(4, 12)], [0]), (.vld, 0x58, [(4, 12), (32, 8)], [0]),
           (.vst, 0x59, [(5, 11), (32, 8)], [0]), (.bwrite, 0x5A, [(32, 14)], [46])] :
          List ((BitVec 12 → Instr) × Nat × List (Nat × Nat) × List Nat)),
    ∀ (b : BitVec 12) (s : State), issuesWord s (.unit b) e.2.1 → fieldsClear s (.unit b) e.2.2.1 →
      (∃ lo ∈ e.2.2.2, (regAt s (.unit b) lo).poison = true) →
      ∃ t, exec (e.1 b) s = .next t ∧ endedBy s t (.unit b) .dataUncorrectable 0x00) ∧
  (∀ e ∈ ([(.pressLdw, 0x20, [(32, 16)], [48]), (.pressStw, 0x21, [(32, 16)], [48]), (.pshape, 0x40, [(48, 1), (16, 12)], [49]),
           (.pget, 0x70, [(46, 7), (8, 7)], [0, 4]), (.pput, 0x71, [(46, 7), (8, 7)], [0, 4]), (.precv, 0x73, [(49, 4)], [0]),
           (.pfree, 0x74, [(49, 4)], [0])] : List ((BitVec 4 → Instr) × Nat × List (Nat × Nat) × List Nat)),
    ∀ (e' : BitVec 4) (s : State), issuesWord s (.press e') e.2.1 → fieldsClear s (.press e') e.2.2.1 →
      (∃ lo ∈ e.2.2.2, (regAt s (.press e') lo).poison = true) →
      ∃ t, exec (e.1 e') s = .next t ∧ endedBy s t (.press e') .dataUncorrectable 0x00) ∧
  (∀ (x : CoreId) (s : State), issuesWord s x 0x3A → fieldsClear s x [(0, 40), (42, 6)] → bit (coreWord s x) 41 = true →
    (regAt s x 48).poison = true → ∃ t, exec (.fwait x) s = .next t ∧ endedBy s t x .dataUncorrectable 0x00) ∧
  (∀ (b : BitVec 12) (s : State), issuesWord s (.unit b) 0x5A → bit (coreWord s (.unit b)) 36 = true → fieldsClear s (.unit b) [(0, 16)] →
    (regAt s (.unit b) 46).poison = true → ∃ t, exec (.bwrite b) s = .next t ∧ endedBy s t (.unit b) .dataUncorrectable 0x00) ∧
  (∀ (e : BitVec 4) (s : State), issuesWord s (.press e) 0x71 → bit (coreWord s (.press e)) 46 = true → fieldsClear s (.press e) [(47, 6), (8, 7)] →
    (regAt s (.press e) 0).poison = true → ∃ t, exec (.pput e) s = .next t ∧ endedBy s t (.press e) .dataUncorrectable 0x00))

/-- BSTREAM opens the bank stream: with a format, an aligned start and stride, and a valid bank-view region of the unit's owner that holds its
group, the buffer is empty, the consumed count is 0 and the pc moves on. Completes: bstream. (R36, R117, R144) -/
def Obligations.StreamOpens : Prop :=
  ∀ (b : BitVec 12) (s : State) (w : Word64) (r : Region), w = coreWord s (.unit b) → r = regionOf s (bits w 46 6) →
    issuesOp s (.unit b) 0x41 → bits w 32 2 = 0 → (regAt s (.unit b) 42).poison = false → (regAt s (.unit b) 38).poison = false →
    (regAt s (.unit b) 34).poison = false → bits w 52 4 ≤ 0xA → (regAt s (.unit b) 42).val.toNat % 32 = 0 → bits w 0 32 % 32 = 0 →
    (scaleArray (bits w 52 4) = true ↔ rf w 34 ≠ 0) → r.valid = true → r.linear = false →
    mget none s.groupOwner (b.toNat / 16) = some r.owner → r.gFirst ≤ b.toNat / 16 → b.toNat / 16 < r.gFirst + r.gCount →
    exec (.bstream b) s = .next (modUnit s b.toNat (fun u => { u with
      stream := some { fmt := bits w 52 4, region := bits w 46 6, start := (regAt s (.unit b) 42).val.toNat,
                       count := (regAt s (.unit b) 38).val.toNat, stride := (BitVec.ofNat 32 (bits w 0 32)).toInt,
                       scaleOff := if rf w 34 = 0 then none else some (regAt s (.unit b) 34).val.toNat,
                       fetched := 0, taken := 0, buf := [], scaleCol := [] },
      spos := 0, miss := none, proc := pnext u.proc }))

/-- The range rule of local-memory operands: an operand passes exactly when it has no byte, or every byte of its first and last row lies in
memory; then every byte of every row does. That an operand with no byte passes is the model's reading (log entry 28). (R138, R139, R236) -/
def Obligations.OperandRange : Prop :=
  ∀ (o : Rows) (m : Nat),
    (o.range m = [] ↔ o.rl = 0 ∨ o.n = 0 ∨
      (0 ≤ o.row 0 ∧ 0 ≤ o.row (o.n - 1) ∧ o.row 0 + o.rl ≤ m ∧ o.row (o.n - 1) + o.rl ≤ m)) ∧
    (o.range m = [] → ∀ i < o.n, ∀ k < o.rl, 0 ≤ o.row i + (k : Int) ∧ o.row i + (k : Int) < m)

/-- The stream instructions begin. VDOT: CNT rows of N0 elements against N1 queries; VAXPY: N1 rows of CNT columns scaled by N0 scalars. Under
their checks (R158, R159, Table 5.7) they take the beats of Table 5.5. The local-store instructions begin: VMUL, VADD and VMAX take N1 rows
of 64-byte pieces, VEXP pieces of 8 elements and VRED of 16, once their operands lie in the local store and the destination obeys R140. The
beats of VRED on clean inputs: before the last nothing is written; the last writes each row's or column's canonical maximum, or a sum of it
in some order, to consecutive words at DST (that one element's NaN becomes canonical: log entry 63). The beats of VCVT: each element of the
piece, from the local store or from the stream's head column, takes its input converted from FIN to FOUT. No other byte and no lane changes.
Completes: vectorBeat, vdot, vaxpy, vmul, vadd, vmax, vexp, vred. (R108, R139, R140, R141, R158, R159, R160, R161, R162, R163) -/
def Obligations.ArithmeticBegins : Prop :=
  (
  (∀ (b : BitVec 12) (s : State) (w : Word64) (sh : Shape) (t : Stream), w = coreWord s (.unit b) →
    sh = shapeOf (procOf s (.unit b)) (bits w 44 3) → issuesOp s (.unit b) 0x48 → bits w 5 11 = 0 → bit w 4 = false →
    (regAt s (.unit b) 0).poison = false → (unitOf s b.toNat).stream = some t → bits w 40 4 ≤ 4 → dotPair t.fmt (bits w 40 4) = true →
    1 ≤ sh.n1 → sh.n1 ≤ 16 → 1 ≤ sh.n0 → sh.n0 % perColumn t.fmt = 0 → sh.s0 = 1 → 1 ≤ bits w 32 8 →
    vaLane w + bits w 32 8 * sh.n1 ≤ 512 →
    ({ a := vaAddr (procOf s (.unit b)) w, rl := sh.n0 * fmtBytes (bits w 40 4), n := sh.n1, s := sh.s1 } : Rows).range 65536 = [] →
    exec (.vdot b) s = .next (beatsBegin s b (bits w 32 8 * (sh.n0 / perColumn t.fmt) * ((sh.n1 + 1) / 2)))) ∧
  (∀ (b : BitVec 12) (s : State) (w : Word64) (sh : Shape) (t : Stream), w = coreWord s (.unit b) →
    sh = shapeOf (procOf s (.unit b)) (bits w 44 3) → issuesOp s (.unit b) 0x49 → bits w 5 11 = 0 → bit w 4 = false →
    (regAt s (.unit b) 0).poison = false → (unitOf s b.toNat).stream = some t → bits w 40 4 ≤ 1 → t.fmt ≠ 0 →
    1 ≤ sh.n0 → sh.n0 ≤ 16 → 1 ≤ sh.n1 → sh.s0 = 1 → bits w 47 5 = 0 → 1 ≤ bits w 32 8 →
    bits w 32 8 * perColumn t.fmt % 32 = 0 → bits w 52 4 + sh.n0 * (bits w 32 8 * perColumn t.fmt / 32) ≤ 16 →
    ({ a := vaAddr (procOf s (.unit b)) w, rl := sh.n0 * fmtBytes (bits w 40 4), n := sh.n1, s := sh.s1 } : Rows).range 65536 = [] →
    exec (.vaxpy b) s = .next (beatsBegin s b (sh.n1 * bits w 32 8 * ((sh.n0 + 1) / 2))))) ∧
  (
  (∀ e ∈ ([(.vmul, 0x50), (.vadd, 0x51), (.vmax, 0x52)] : List ((BitVec 12 → Instr) × Nat)),
    ∀ (b : BitVec 12) (s : State) (w : Word64) (sh : Shape), w = coreWord s (.unit b) → sh = vlShape (procOf s (.unit b)) w →
      issuesOp s (.unit b) e.2 → bits w 54 2 ≠ 3 → bits w 48 3 ≤ 1 → 1 ≤ sh.n0 → 1 ≤ sh.n1 → sh.s0 = 1 →
      (shapeRows sh (vlA w) (vlBytes w)).range 65536 = [] → (bRows sh (bits w 54 2) (vlB w) (vlBytes w)).range 65536 = [] →
      (shapeRows sh (vlDst w) (vlBytes w)).range 65536 = [] →
      destinationFree (shapeRows sh (vlDst w) (vlBytes w)) [shapeRows sh (vlA w) (vlBytes w), bRows sh (bits w 54 2) (vlB w) (vlBytes w)] →
      exec (e.1 b) s = .next (beatsBegin s b (sh.n1 * ((sh.n0 + 64 / vlBytes w - 1) / (64 / vlBytes w))))) ∧
  (∀ (b : BitVec 12) (s : State) (w : Word64) (sh : Shape), w = coreWord s (.unit b) → sh = vlShape (procOf s (.unit b)) w →
      issuesOp s (.unit b) 0x53 → bits w 54 2 ≠ 3 → bits w 48 3 ≤ 1 → 1 ≤ sh.n0 → 1 ≤ sh.n1 → sh.s0 = 1 →
      (shapeRows sh (vlA w) 4).range 65536 = [] → (bRows sh (bits w 54 2) (vlB w) 4).range 65536 = [] →
      (shapeRows sh (vlDst w) (vlBytes w)).range 65536 = [] →
      destinationFree (shapeRows sh (vlDst w) (vlBytes w)) [shapeRows sh (vlA w) 4, bRows sh (bits w 54 2) (vlB w) 4] →
      exec (.vexp b) s = .next (beatsBegin s b ((sh.n0 * sh.n1 + 7) / 8))) ∧
  (∀ (b : BitVec 12) (s : State) (w : Word64) (sh : Shape) (d : Rows), w = coreWord s (.unit b) → sh = vlShape (procOf s (.unit b)) w →
      d = { a := vlDst w, rl := 4 * (if bit w 0 then sh.n0 else sh.n1), n := 1, s := 0 } →
      issuesOp s (.unit b) 0x54 → bits w 2 14 = 0 → bits w 54 2 = 0 → bits w 48 3 = 0 → 1 ≤ sh.n0 → 1 ≤ sh.n1 → sh.s0 = 1 →
      (shapeRows sh (vlA w) 4).range 65536 = [] → d.range 65536 = [] → d.meets (shapeRows sh (vlA w) 4) = false →
      exec (.vred b) s = .next (beatsBegin s b
        (if sh.s1 = 4 * sh.n0 then (sh.n0 * sh.n1 + 15) / 16 else sh.n1 * ((sh.n0 + 15) / 16))))) ∧
  (
  (∀ (b : BitVec 12) (s : State) (v : Vec) (sh : Shape) (w : Word64) (p : Proc) (m : Nat) (vals : Nat → List Word), beatReady s b v →
    w = v.word → p = procOf s (.unit b) → bits w 56 8 = 0x54 → sh = vlShape p w → sh.s0 = 1 → 1 ≤ sh.n0 → 1 ≤ sh.n1 → memClean s (.unit b) →
    m = (if bit w 0 then sh.n0 else sh.n1) →
    (∀ r, vals r = (if bit w 0 then (List.range sh.n1).map (fun i1 => BitVec.ofNat 32 (memNum p (elemAddr sh (vlA w) 4 i1 r) 4))
      else (List.range sh.n0).map (fun i0 => BitVec.ofNat 32 (memNum p (elemAddr sh (vlA w) 4 r i0) 4)))) →
    ∃ u, exec (.vectorBeat b) s = .next u ∧ beatOver s u b v ∧ (unitOf u b.toNat).acc = (unitOf s b.toNat).acc ∧
      (v.beat + 1 < v.total → bytesKept s u (.unit b) (fun _ => False)) ∧
      (v.total ≤ v.beat + 1 → bytesKept s u (.unit b) (fun a => vlDst w ≤ a ∧ a < vlDst w + 4 * m) ∧ ∀ r < m,
        (bit w 1 = true → memNum (procOf u (.unit b)) (vlDst w + 4 * r) 4 = (canonF32 ((vals r).tail.foldl maxF32 ((vals r).headD 0))).toNat) ∧
        (bit w 1 = false → ∃ x, SumOf (vals r) x ∧ memNum (procOf u (.unit b)) (vlDst w + 4 * r) 4 = (canonF32 x).toNat))) ∧
  (∀ (b : BitVec 12) (s : State) (v : Vec) (sh : Shape) (w : Word64) (p : Proc) (zi zo n : Nat), beatReady s b v → w = v.word →
    p = procOf s (.unit b) → bits w 56 8 = 0x55 → bit w 0 = false → sh = vlShape p w → sh.s0 = 1 → 1 ≤ sh.n0 → memClean s (.unit b) →
    cvtIn w ≤ 4 → cvtOut w ≤ 4 → zi = fmtBytes (cvtIn w) → zo = fmtBytes (cvtOut w) → rowsApart (rowsOf sh (vlDst w) zo) →
    n = min (64 / zi) (sh.n0 * sh.n1 - v.beat * (64 / zi)) →
    ∃ u, exec (.vectorBeat b) s = .next u ∧ beatOver s u b v ∧ (unitOf u b.toNat).acc = (unitOf s b.toNat).acc ∧
      bytesKept s u (.unit b) (inElems sh (vlDst w) zo (v.beat * (64 / zi)) n) ∧
      ∀ i < n, memNum (procOf u (.unit b)) (elemAt sh (vlDst w) zo (v.beat * (64 / zi) + i)) zo =
        convertRaw (cvtIn w) (cvtOut w) (memNum p (elemAt sh (vlA w) zi (v.beat * (64 / zi) + i)) zi)) ∧
  (∀ (b : BitVec 12) (s : State) (v : Vec) (t : Stream) (c : StreamCol) (rest : List StreamCol) (sh : Shape) (w : Word64) (p : Proc) (ee zo n : Nat),
    beatReady s b v → w = v.word → p = procOf s (.unit b) → bits w 56 8 = 0x55 → bit w 0 = true → sh = vlShape p w → sh.s0 = 1 → 1 ≤ sh.n0 →
    (unitOf s b.toNat).stream = some t → t.taken < t.count → t.buf = c :: rest → c.mark = none → cvtOut w ≤ 4 → cvtIn w = t.fmt →
    ee = perColumn t.fmt → zo = fmtBytes (cvtOut w) → rowsApart (rowsOf sh (vlDst w) zo) → n = min ee (sh.n0 * sh.n1 - v.beat * ee) →
    (∀ i < n, (colElem t.fmt c i).2 = false) →
    ∃ u, exec (.vectorBeat b) s = .next u ∧ beatOver s u b v ∧ (unitOf u b.toNat).acc = (unitOf s b.toNat).acc ∧
      bytesKept s u (.unit b) (inElems sh (vlDst w) zo (v.beat * ee) n) ∧
      (unitOf u b.toNat).stream = some { t with taken := t.taken + 1, buf := rest } ∧
      ∀ i < n, memNum (procOf u (.unit b)) (elemAt sh (vlDst w) zo (v.beat * ee + i)) zo =
        (if cvtIn w = cvtOut w then colRaw t.fmt c.data.toNat i else encodeNum (cvtOut w) (colElem t.fmt c i).1) % 256 ^ zo))

/-- The moving instructions begin: VCVT from the local store or from the stream, VLD and VST, VLD with ZERO, and BWRITE to a valid region of the
unit's owner, one beat for each 64-byte pair it touches. With ZERO any FMT up to 4 and any S0 will do (log entry 119). The beats of BWRITE
and SEND. BWRITE puts one pair, with exactly its bytes of the beat's 64-byte line enabled and taken from the local store or from lanes
converted to FMT, behind the write queue; it waits while the queue holds four; out of bounds it drops and counts the bytes; a region that no
longer serves the unit ends the task. SEND's last beat gives its record to the stack press. Completes: vectorBeat, vcvt, vld, vst, bwrite.
(R36, R38, R108, R118, R139, R140, R163, R164, R165, R171) -/
def Obligations.MovingInstructionsBegin : Prop :=
  (
  (∀ (b : BitVec 12) (s : State) (w : Word64) (sh : Shape), w = coreWord s (.unit b) → sh = vlShape (procOf s (.unit b)) w →
      issuesOp s (.unit b) 0x55 → bits w 1 7 = 0 → bits w 48 3 = 0 → bits w 54 2 = 0 → 1 ≤ sh.n0 → 1 ≤ sh.n1 → sh.s0 = 1 →
      cvtOut w ≤ 4 → (shapeRows sh (vlDst w) (fmtBytes (cvtOut w))).range 65536 = [] →
      (bit w 0 = false → cvtIn w ≤ 4 → (shapeRows sh (vlA w) (fmtBytes (cvtIn w))).range 65536 = [] →
        (shapeRows sh (vlDst w) (fmtBytes (cvtOut w))).meets (shapeRows sh (vlA w) (fmtBytes (cvtIn w))) = false →
        exec (.vcvt b) s = .next (beatsBegin s b ((sh.n0 * sh.n1 * fmtBytes (cvtIn w) + 63) / 64))) ∧
      (∀ t, (unitOf s b.toNat).stream = some t → bit w 0 = true → vlA w = 0 → t.fmt = cvtIn w → cvtIn w ≤ 0xA →
        sh.n0 % perColumn t.fmt = 0 →
        exec (.vcvt b) s = .next (beatsBegin s b (sh.n0 * sh.n1 / perColumn t.fmt)))) ∧
  (∀ e ∈ ([(.vld, 0x58), (.vst, 0x59)] : List ((BitVec 12 → Instr) × Nat)),
    ∀ (b : BitVec 12) (s : State) (w : Word64) (sh : Shape), w = coreWord s (.unit b) →
      sh = shapeOf (procOf s (.unit b)) (bits w 44 3) → issuesOp s (.unit b) e.2 → bits w 5 11 = 0 → bits w 32 8 = 0 →
      (regAt s (.unit b) 0).poison = false → bits w 40 4 ≤ 4 → vaLane w + sh.n0 * sh.n1 ≤ 512 → 1 ≤ sh.n0 → 1 ≤ sh.n1 →
      (vldZero w = false → 1 ≤ sh.s0 →
        ({ a := vaAddr (procOf s (.unit b)) w, rl := ((sh.n0 - 1) * sh.s0 + 1) * fmtBytes (bits w 40 4), n := sh.n1, s := sh.s1 } :
          Rows).range 65536 = [] →
        exec (e.1 b) s = .next (beatsBegin s b (if sh.s0 = 1
          then (sh.n0 * sh.n1 + 64 / fmtBytes (bits w 40 4) - 1) / (64 / fmtBytes (bits w 40 4)) else (sh.n0 * sh.n1 + 7) / 8))) ∧
      (vldZero w = true → bits w 16 16 = 0 → rf w 0 = 0 → exec (e.1 b) s = .next (beatsBegin s b ((sh.n0 * sh.n1 + 31) / 32)))) ∧
  (∀ (b : BitVec 12) (s : State) (w : Word64) (r : Region) (o len : Nat), w = coreWord s (.unit b) → r = regionOf s (bits w 50 6) →
      o = (regAt s (.unit b) 46).val.toNat → len = bits w 16 16 →
      issuesOp s (.unit b) 0x5A → bit w 36 = false → bits w 32 4 = 0 → bits w 37 5 = 0 → bits w 42 4 = 0 →
      (regAt s (.unit b) 46).poison = false → 1 ≤ len → len ≤ 4096 → bits w 0 16 + len ≤ 65536 → r.valid = true → r.linear = false →
      mget none s.groupOwner (b.toNat / 16) = some r.owner → r.gFirst ≤ b.toNat / 16 → b.toNat / 16 < r.gFirst + r.gCount →
      exec (.bwrite b) s = .next (beatsBegin s b ((o + len - 1) / 64 - o / 64 + 1)))) ∧
  (
  (∀ (b : BitVec 12) (s : State) (v : Vec) (w : Word64) (p : Proc) (r : Region) (r0 len line lo hi : Nat) (byte : Nat → Byte), beatReady s b v →
    w = v.word → p = procOf s (.unit b) → bits w 56 8 = 0x5A → r = regionOf s (bits w 50 6) → r0 = (rget p (rf w 46)).val.toNat →
    len = bits w 16 16 → line = r0 / 64 + v.beat → lo = max r0 (64 * line) → hi = min (r0 + len) (64 * line + 64) → lo < hi →
    (∀ i, byte i = if bit w 36 then BitVec.ofNat 8 (convertRaw 0 (bits w 32 4) (lane s b (32 * bits w 42 4 + bits w 37 5 +
        (lo - r0 + i) / fmtBytes (bits w 32 4))).val.toNat / 256 ^ ((lo - r0 + i) % fmtBytes (bits w 32 4)))
      else mget 0 p.mem (bits w 0 16 + (lo - r0 + i))) →
    (unitRegion s b.toNat (bits w 50 6) = none → memClean s (.unit b) → (∀ g, (lane s b g).poison = false) →
      (∀ o, unitLoc s b.toNat r true lo = .mem o → o % 64 = lo % 64 → retiredAt s (dramAddr b.toNat o) = false → (unitOf s b.toNat).wq.length < 4 →
        ∃ u q, exec (.vectorBeat b) s = .next u ∧ beatOver s u b v ∧ (unitOf u b.toNat).wq = (unitOf s b.toNat).wq ++ [q] ∧
          q.addr = o / 64 * 64 ∧ q.begun = false ∧ q.read = false ∧ q.done = false ∧ q.poison = 0 ∧ (∀ j < 64, bit q.en j = decide (lo % 64 ≤ j ∧ j < lo % 64 + (hi - lo))) ∧
          (∀ i < hi - lo, BitVec.ofNat 8 (bits q.data (8 * (lo % 64 + i)) 8) = byte i) ∧
          (unitOf u b.toNat).acc = (unitOf s b.toNat).acc ∧ bytesKept s u (.unit b) (fun _ => False) ∧ u.dram = s.dram) ∧
      (∀ o, unitLoc s b.toNat r true lo = .mem o → retiredAt s (dramAddr b.toNat o) = false → 4 ≤ (unitOf s b.toNat).wq.length →
        exec (.vectorBeat b) s = .next s) ∧
      (∀ o, unitLoc s b.toNat r true lo = .mem o → retiredAt s (dramAddr b.toNat o) = true →
        ∃ u, exec (.vectorBeat b) s = .next u ∧ endedWith u (.unit b) .retired 0) ∧
      (unitLoc s b.toNat r true lo = .oob → ∃ u, exec (.vectorBeat b) s = .next u ∧ beatOver s u b v ∧
        (unitOf u b.toNat).wq = (unitOf s b.toNat).wq ∧ (regionOf u (bits w 50 6)).oobWr = min (2 ^ 32 - 1) (r.oobWr + (hi - lo)))) ∧
    (∀ st, unitRegion s b.toNat (bits w 50 6) = some st → st ≠ .fetchPoison →
      ∃ u, exec (.vectorBeat b) s = .next u ∧ endedWith u (.unit b) st 0)) ∧
  (∀ (b : BitVec 12) (s : State) (v : Vec) (w : Word64) (ch : Nat), beatReady s b v → w = v.word → bits w 56 8 = 0x3C → memClean s (.unit b) →
    ch = (if rf w 52 = 0 then bits w 48 4 else (rget (procOf s (.unit b)) (rf w 52)).val.toNat) →
    (v.beat + 1 < v.total → exec (.vectorBeat b) s = .next (modProc s (.unit b) (fun p => { p with vec := some { v with beat := v.beat + 1 } }))) ∧
    (v.total ≤ v.beat + 1 → ∃ r : Record, r.source = coreSrc (.unit b) ∧ r.ten = coreTen s (.unit b) ∧ r.tag = coreTag s (.unit b) ∧
      r.bytes = mgetAll 0 (procOf s (.unit b)).mem (bits w 0 16) (bits w 16 16) ∧ r.poison = List.replicate (bits w 16 16 / 4) false ∧
      r.at_ = s.ck ∧ exec (.vectorBeat b) s = .next (modProc (arrive (modUnit s b.toNat (fun u => { u with port := some (ch, r) }))
        (8 + b.toNat / 512) ch r) (.unit b) (fun p => pnext { p with vec := none })))))

/-- A beat of VLD with ZERO on a running unit: 32 lanes from its place become a clean 0 and every other lane keeps its value; the next beat
follows, or after the last beat the next instruction. The beats of VDOT and VAXPY on the column at the head of the stream. VDOT: for each of
its one or two queries, the lane of its row and query takes its old value plus the exact dot product of column and query rounded once.
VAXPY: for each of its one or two scalars, each lane of the column takes its old value plus scalar times element, rounded once. A lane is
marked when any input is; under fault a marked input ends the task. Other lanes and the local store stay; after its last beat the column
leaves the stream. An empty buffer stalls, an exhausted stream or a marked column ends the task. The beats of VLD and VST. VLD: the lane of
each element of the beat's piece, taken in row order, takes the element converted from FMT to FP32, marked as its bytes were. VST: each
element of the piece takes its lane converted to FMT, and with CLEAR the lane becomes +0; with FMT FP32 each stored word is marked as its
lane was. Nothing else of lanes and local store changes; under fault a marked input ends the task. The beats of VMUL, VADD, VMAX and VEXP.
Each element of the beat's piece, of a row for the first three and in row order for VEXP, takes the product, sum, maximum or 2^(a − b) of
its elements of A and of B, B as BMODE chooses it, rounded to FMT; with FMT FP32 its word is marked when an input was. No other byte and no
lane changes; under fault a marked input ends the task. Completes: vectorBeat. (R108, R115, R117, R141, R147, R158, R159, R160, R161, R164,
R345, R472) -/
def Obligations.ZeroBeatClearsLanes : Prop :=
  (
  ∀ (b : BitVec 12) (s : State) (v : Vec) (n : Nat) (sh : Shape), (procOf s (.unit b)).vec = some v → (procOf s (.unit b)).task ≠ none →
    (procOf s (.unit b)).ended = none → (unitOf s b.toNat).st = .running → unitRuns s b.toNat = true → vldZero v.word = true →
    sh = shapeOf (procOf s (.unit b)) (bits v.word 44 3) → 1 ≤ sh.n0 → n = min 32 (sh.n0 * sh.n1 - v.beat * 32) →
    ∃ t, exec (.vectorBeat b) s = .next t ∧
      (∀ g, mget PWord.zero (unitOf t b.toNat).acc g =
        if vaLane v.word + v.beat * 32 ≤ g ∧ g < vaLane v.word + v.beat * 32 + n then { val := 0, poison := false }
        else mget PWord.zero (unitOf s b.toNat).acc g) ∧
      (v.beat + 1 < v.total → (procOf t (.unit b)).vec = some { v with beat := v.beat + 1 } ∧ (procOf t (.unit b)).pc = (procOf s (.unit b)).pc) ∧
      (v.total ≤ v.beat + 1 → (procOf t (.unit b)).vec = none ∧ (procOf t (.unit b)).pc = (procOf s (.unit b)).pc + 1) ∧
      (procOf t (.unit b)).mem = (procOf s (.unit b)).mem ∧ (procOf t (.unit b)).regs = (procOf s (.unit b)).regs) ∧
  (
  (∀ (b : BitVec 12) (s : State) (v : Vec) (t : Stream) (c : StreamCol) (rest : List StreamCol) (sh : Shape) (lf ee h k row ci : Nat)
      (p : Proc) (q : Nat → Nat) (bad : Nat → Bool), beatReady s b v → p = procOf s (.unit b) → bits v.word 56 8 = 0x48 →
    (unitOf s b.toNat).stream = some t → t.taken < t.count → t.buf = c :: rest → c.mark = none →
    sh = shapeOf p (bits v.word 44 3) → lf = bits v.word 40 4 → 1 ≤ sh.n1 → ee = perColumn t.fmt → h = (sh.n1 + 1) / 2 →
    k = v.beat % h → row = v.beat / h / (sh.n0 / ee) → ci = v.beat / h % (sh.n0 / ee) →
    (∀ j, q j = ((vaAddr p v.word : Int) + (j : Int) * sh.s1 + ((ci * ee * fmtBytes lf : Nat) : Int)).toNat) →
    (∀ j, bad j = ((lane s b (vaLane v.word + row * sh.n1 + j)).poison || (List.range ee).any (fun i => (colElem t.fmt c i).2 ||
      memBad p (q j + i * fmtBytes lf) (fmtBytes lf)))) →
    (inputsGood p (∃ j, (j = k ∨ j = k + h) ∧ j < sh.n1 ∧ bad j = true) →
      ∃ u, exec (.vectorBeat b) s = .next u ∧
        (∀ j, (j = k ∨ j = k + h) → j < sh.n1 → holds (lane u b (vaLane v.word + row * sh.n1 + j))
          (addF32 (lane s b (vaLane v.word + row * sh.n1 + j)).val (toF32 (dotSum ((List.range ee).map (fun i =>
            (colElem t.fmt c i).1.mul (decodeNum lf (memNum p (q j + i * fmtBytes lf) (fmtBytes lf)))))))) (bad j)) ∧
        lanesKept s u b (fun g => ∃ j, (j = k ∨ j = k + h) ∧ j < sh.n1 ∧ g = vaLane v.word + row * sh.n1 + j) ∧
        bytesKept s u (.unit b) (fun _ => False) ∧ beatOver s u b v ∧
        (unitOf u b.toNat).stream = some (if k + 1 = h then { t with taken := t.taken + 1, buf := rest } else t)) ∧
    (inputsFail p (∃ j, (j = k ∨ j = k + h) ∧ j < sh.n1 ∧ bad j = true) →
      ∃ u, exec (.vectorBeat b) s = .next u ∧ endedWith u (.unit b) .dataUncorrectable 0)) ∧
  (∀ (b : BitVec 12) (s : State) (v : Vec) (t : Stream) (c : StreamCol) (rest : List StreamCol) (sh : Shape) (lf ee cnt h k row ci : Nat)
      (p : Proc) (q : Nat → Nat) (g : Nat → Nat → Nat) (bad : Nat → Nat → Bool), beatReady s b v → p = procOf s (.unit b) →
    bits v.word 56 8 = 0x49 → (unitOf s b.toNat).stream = some t → t.taken < t.count → t.buf = c :: rest → c.mark = none →
    sh = shapeOf p (bits v.word 44 3) → lf = bits v.word 40 4 → cnt = bits v.word 32 8 → 1 ≤ sh.n0 → 1 ≤ cnt → ee = perColumn t.fmt →
    cnt * ee % 32 = 0 → h = (sh.n0 + 1) / 2 → k = v.beat % h → row = v.beat / h / cnt → ci = v.beat / h % cnt →
    (∀ j, q j = ((vaAddr p v.word : Int) + (row : Int) * sh.s1 + ((j * fmtBytes lf : Nat) : Int)).toNat) →
    (∀ j i, g j i = 32 * (bits v.word 52 4 + j * (cnt * ee / 32)) + ci * ee + i) →
    (∀ j i, bad j i = ((lane s b (g j i)).poison || memBad p (q j) (fmtBytes lf) || (colElem t.fmt c i).2)) →
    (inputsGood p (∃ j i, (j = k ∨ j = k + h) ∧ j < sh.n0 ∧ i < ee ∧ bad j i = true) →
      ∃ u, exec (.vectorBeat b) s = .next u ∧
        (∀ j i, (j = k ∨ j = k + h) → j < sh.n0 → i < ee → holds (lane u b (g j i))
          (toF32 ((ofF32 (lane s b (g j i)).val).add ((decodeNum lf (memNum p (q j) (fmtBytes lf))).mul (colElem t.fmt c i).1))) (bad j i)) ∧
        lanesKept s u b (fun l => ∃ j i, (j = k ∨ j = k + h) ∧ j < sh.n0 ∧ i < ee ∧ l = g j i) ∧
        bytesKept s u (.unit b) (fun _ => False) ∧ beatOver s u b v ∧
        (unitOf u b.toNat).stream = some (if k + 1 = h then { t with taken := t.taken + 1, buf := rest } else t)) ∧
    (inputsFail p (∃ j i, (j = k ∨ j = k + h) ∧ j < sh.n0 ∧ i < ee ∧ bad j i = true) →
      ∃ u, exec (.vectorBeat b) s = .next u ∧ endedWith u (.unit b) .dataUncorrectable 0)) ∧
  (∀ (b : BitVec 12) (s : State) (v : Vec) (t : Stream), beatReady s b v →
    (bits v.word 56 8 = 0x48 ∨ bits v.word 56 8 = 0x49 ∨ (bits v.word 56 8 = 0x55 ∧ bit v.word 0 = true)) → (unitOf s b.toNat).stream = some t →
    (t.count ≤ t.taken → ∃ u, exec (.vectorBeat b) s = .next u ∧ faulted s u (.unit b) 0x08) ∧
    (t.taken < t.count → t.buf = [] → exec (.vectorBeat b) s = .next s) ∧
    (∀ c rest st, t.taken < t.count → t.buf = c :: rest → c.mark = some st → st ≠ .fetchPoison →
      ∃ u, exec (.vectorBeat b) s = .next u ∧ endedWith u (.unit b) st 0))) ∧
  (
  (∀ (b : BitVec 12) (s : State) (v : Vec) (sh : Shape) (f z per n : Nat) (p : Proc) (at_ : Nat → Nat), beatReady s b v →
    p = procOf s (.unit b) → bits v.word 56 8 = 0x58 → bit v.word 4 = false → sh = shapeOf p (bits v.word 44 3) → f = bits v.word 40 4 → f ≤ 4 →
    z = fmtBytes f → 1 ≤ sh.n0 → per = (if sh.s0 = 1 then 64 / z else 8) → n = min per (sh.n0 * sh.n1 - v.beat * per) →
    (∀ i, at_ i = elemAt sh (vaAddr p v.word) z (v.beat * per + i)) →
    (inputsGood p (∃ i < n, memBad p (at_ i) z = true) → ∃ u, exec (.vectorBeat b) s = .next u ∧
      (∀ i < n, holds (lane u b (vaLane v.word + v.beat * per + i)) (BitVec.ofNat 32 (convertRaw f 0 (memNum p (at_ i) z))) (memBad p (at_ i) z)) ∧
      lanesKept s u b (fun g => vaLane v.word + v.beat * per ≤ g ∧ g < vaLane v.word + v.beat * per + n) ∧
      bytesKept s u (.unit b) (fun _ => False) ∧ beatOver s u b v) ∧
    (inputsFail p (∃ i < n, memBad p (at_ i) z = true) → ∃ u, exec (.vectorBeat b) s = .next u ∧ endedWith u (.unit b) .dataUncorrectable 0)) ∧
  (∀ (b : BitVec 12) (s : State) (v : Vec) (sh : Shape) (f z per n : Nat) (p : Proc) (at_ ln : Nat → Nat), beatReady s b v →
    p = procOf s (.unit b) → bits v.word 56 8 = 0x59 → sh = shapeOf p (bits v.word 44 3) → f = bits v.word 40 4 → f ≤ 4 → z = fmtBytes f →
    1 ≤ sh.n0 → 1 ≤ sh.s0 → rowsApart (rowsOf sh (vaAddr p v.word) z) →
    per = (if sh.s0 = 1 then 64 / z else 8) → n = min per (sh.n0 * sh.n1 - v.beat * per) →
    (∀ i, at_ i = elemAt sh (vaAddr p v.word) z (v.beat * per + i)) → (∀ i, ln i = vaLane v.word + v.beat * per + i) →
    (inputsGood p (∃ i < n, (lane s b (ln i)).poison = true) → ∃ u, exec (.vectorBeat b) s = .next u ∧
      (∀ i < n, ((lane s b (ln i)).poison = false → memNum (procOf u (.unit b)) (at_ i) z = convertRaw 0 f (lane s b (ln i)).val.toNat) ∧
        (f = 0 → at_ i % 4 = 0 → mget false (procOf u (.unit b)).memPoison (at_ i / 4) = (lane s b (ln i)).poison)) ∧
      bytesKept s u (.unit b) (inElems sh (vaAddr p v.word) z (v.beat * per) n) ∧
      (bit v.word 4 = true → ∀ i < n, lane u b (ln i) = { val := 0, poison := false }) ∧
      lanesKept s u b (fun g => bit v.word 4 = true ∧ ln 0 ≤ g ∧ g < ln 0 + n) ∧ beatOver s u b v) ∧
    (inputsFail p (∃ i < n, (lane s b (ln i)).poison = true) → ∃ u, exec (.vectorBeat b) s = .next u ∧ endedWith u (.unit b) .dataUncorrectable 0))) ∧
  (
  ∀ (b : BitVec 12) (s : State) (v : Vec) (sh : Shape) (w : Word64) (op f za z k n : Nat) (p : Proc) (a2 b2 d2 : Nat → Nat) (bad : Nat → Bool),
    beatReady s b v → w = v.word → p = procOf s (.unit b) → op = bits w 56 8 → 0x50 ≤ op → op ≤ 0x53 → sh = vlShape p w →
    f = bits w 48 3 → f ≤ 1 → z = vlBytes w → za = (if op = 0x53 then 4 else z) → 1 ≤ sh.n0 → sh.s0 = 1 → rowsApart (rowsOf sh (vlDst w) z) →
    k = (if op = 0x53 then v.beat * 8 else v.beat / ((sh.n0 + 64 / z - 1) / (64 / z)) * sh.n0 + v.beat % ((sh.n0 + 64 / z - 1) / (64 / z)) * (64 / z)) →
    n = (if op = 0x53 then min 8 (sh.n0 * sh.n1 - k) else min (64 / z) (sh.n0 - v.beat % ((sh.n0 + 64 / z - 1) / (64 / z)) * (64 / z))) →
    k + n ≤ sh.n0 * sh.n1 →
    (∀ i, a2 i = elemAt sh (vlA w) za (k + i)) → (∀ i, d2 i = elemAt sh (vlDst w) z (k + i)) →
    (∀ i, b2 i = (if bits w 54 2 = 0 then elemAt sh (vlB w) za (k + i) else if bits w 54 2 = 1 then vlB w + (k + i) % sh.n0 * za else vlB w)) →
    (∀ i, bad i = (memBad p (a2 i) za || memBad p (b2 i) za)) →
    (inputsGood p (∃ i < n, bad i = true) → ∃ u, exec (.vectorBeat b) s = .next u ∧
      (∀ i < n, (bad i = false → memNum (procOf u (.unit b)) (d2 i) z =
          (if op = 0x50 then encodeNum f ((decodeNum f (memNum p (a2 i) za)).mul (decodeNum f (memNum p (b2 i) za)))
           else if op = 0x51 then encodeNum f ((decodeNum f (memNum p (a2 i) za)).add (decodeNum f (memNum p (b2 i) za)))
           else if op = 0x52 then encodeNum f ((decodeNum f (memNum p (a2 i) za)).max (decodeNum f (memNum p (b2 i) za)))
           else encodeNum f (ofF32 (exp2Diff (BitVec.ofNat 32 (memNum p (a2 i) za)) (BitVec.ofNat 32 (memNum p (b2 i) za)))))) ∧
        (f = 0 → d2 i % 4 = 0 → mget false (procOf u (.unit b)).memPoison (d2 i / 4) = bad i)) ∧
      bytesKept s u (.unit b) (inElems sh (vlDst w) z k n) ∧ (unitOf u b.toNat).acc = (unitOf s b.toNat).acc ∧ beatOver s u b v) ∧
    (inputsFail p (∃ i < n, bad i = true) → ∃ u, exec (.vectorBeat b) s = .next u ∧ endedWith u (.unit b) .dataUncorrectable 0))

/-- The element-wise and reducing press instructions on operands inside scratch and free of poison: PEW, PRED, PNORM, PACT and PROPE write their
results at DST, and no other scratch byte changes. The record and format instructions of a press on operands inside scratch and free of
poison: PMERGE, PTOPK, PQUANT and PCVT write their results at DST, PQUANT its scales at B, and no other scratch byte changes. The places of
records, scales and rows are log entries 39 and 101. The values of PMERGE on clean records. With INIT, DST becomes A, its header too; else
each query of DST and A merges with the larger maximum, the sums and vectors weighed by 2^(m − max), or with both maxima −∞ it becomes
empty. With FINISH each vector is then multiplied by the reciprocal of its sum, or is +0 where the sum is +0. The record's layout, the
copied header and STATE 1 only where every sum is +0 are log entry 39; a STATE of 2 stays (log entry 132). Under propagate a marked input, a
header word of INIT among them, makes STATE 2. The values of PQUANT and PCVT on clean inputs, and the block quantiser. A block with a NaN or
an infinity gets scale 0xFF and elements +0; a block of zeros scale 0; else its scale is the exponent of its largest magnitude less emax
plus 127, kept within 0 to 254, and each element is v / 2^(scale − 127) rounded to the element format. PQUANT packs each block's elements at
DST, with the scale in byte 24 of an MXFP6 block and else at B (log entry 39). PCVT converts each element of A, an MX element with its
block's scale (log entry 101). Completes: pnorm, prope, pmerge, pquant, pcvt. (R177, R180, R197, R198, R199, R236, R237, R241, R242) -/
def Obligations.PressRowsAndFormatsComplete : Prop :=
  (
  ∀ (e : BitVec 4) (s : State) (w : Word64) (sh : Shape), w = coreWord s (.press e) → sh = pressShape s e → memClean s (.press e) →
    1 ≤ sh.n0 → 1 ≤ sh.n1 → sh.s0 = 1 → pRange e (pA w) (4 * sh.n0) sh.n1 sh.s1 = [] →
    (issuesOp s (.press e) 0x60 → bits w 45 3 ≤ 4 → bits w 48 2 ≠ 3 → bits w 50 3 = 0 → pRange e (pDst w) (4 * sh.n0) sh.n1 sh.s1 = [] →
      pRange e (pB w) (4 * (if bits w 48 2 = 2 then 1 else sh.n0)) (if bits w 48 2 = 0 then sh.n1 else 1) sh.s1 = [] →
      pressDone s e (.pew e) [pressRows s e]) ∧
    (issuesOp s (.press e) 0x61 → bits w 47 6 = 0 → pRange e (pDst w) (4 * (if bit w 46 then sh.n0 else sh.n1)) 1 0 = [] →
      pressDone s e (.pred e) [{ a := 32 * pDst w, rl := 4 * (if bit w 46 then sh.n0 else sh.n1), n := 1, s := 0 }]) ∧
    (issuesOp s (.press e) 0x62 → bits w 46 3 = 0 → (rget (procOf s (.press e)) (bits w 49 4)).poison = false →
      pRange e (pDst w) (4 * sh.n0) sh.n1 sh.s1 = [] → pRange e (pB w) (4 * sh.n0 * (if bit w 45 then 2 else 1)) 1 0 = [] →
      pressDone s e (.pnorm e) [pressRows s e]) ∧
    (issuesOp s (.press e) 0x63 → bits w 45 4 ≤ 8 → bits w 50 3 = 0 → pRange e (pDst w) (4 * sh.n0) sh.n1 sh.s1 = [] →
      (bit w 49 = true → pRange e (pB w) (4 * sh.n0) sh.n1 sh.s1 = []) → pressDone s e (.pact e) [pressRows s e]) ∧
    (issuesOp s (.press e) 0x64 → bits w 49 4 = 0 → (rget (procOf s (.press e)) (bits w 45 4)).poison = false →
      pRange e (pDst w) (4 * sh.n0) sh.n1 sh.s1 = [] → pRange e (pB w) (4 * (sh.n0 / 2)) 1 0 = [] →
      pressDone s e (.prope e) [pressRows s e])) ∧
  (
  ∀ (e : BitVec 4) (s : State) (w : Word64) (sh : Shape), w = coreWord s (.press e) → sh = pressShape s e → memClean s (.press e) →
    1 ≤ sh.n0 → 1 ≤ sh.n1 → sh.s0 = 1 →
    (issuesOp s (.press e) 0x65 → bits w 47 6 = 0 → pRange e (pA w) (64 + 8 * sh.n1 + 4 * sh.n0 * sh.n1) 1 0 = [] →
      pRange e (pDst w) (64 + 8 * sh.n1 + 4 * sh.n0 * sh.n1) 1 0 = [] →
      pressDone s e (.pmerge e) [{ a := 32 * pDst w, rl := 64 + 8 * sh.n1 + 4 * sh.n0 * sh.n1, n := 1, s := 0 }]) ∧
    (issuesOp s (.press e) 0x66 → bits w 51 2 = 0 → pRange e (pA w) (4 * sh.n0) 1 0 = [] →
      pRange e (pDst w) (8 * (bits w 45 6 + 1)) 1 0 = [] →
      pressDone s e (.ptopk e) [{ a := 32 * pDst w, rl := 8 * (bits w 45 6 + 1), n := 1, s := 0 }]) ∧
    (issuesOp s (.press e) 0x67 → bits w 49 4 = 0 → isMx (bits w 45 4) = true → sh.n0 % 32 = 0 →
      pRange e (pA w) (4 * sh.n0) sh.n1 sh.s1 = [] → pRange e (pDst w) (sh.n0 / 32 * blockBytes (bits w 45 4)) sh.n1 sh.s1 = [] →
      (scaleArray (bits w 45 4) = true → pRange e (pB w) (sh.n0 / 32 * sh.n1) 1 0 = []) →
      pressDone s e (.pquant e)
        ([{ a := 32 * pDst w, rl := sh.n0 / 32 * blockBytes (bits w 45 4), n := sh.n1, s := sh.s1 }]
          ++ (if scaleArray (bits w 45 4) then [{ a := 32 * pB w, rl := sh.n0 / 32 * sh.n1, n := 1, s := 0 }] else []))) ∧
    (issuesOp s (.press e) 0x68 → bits w 49 4 ≤ 4 → bits w 45 4 ≤ 0xA → pRange e (pA w) (rowBytes (bits w 45 4) sh.n0) sh.n1 sh.s1 = [] →
      pRange e (pDst w) (sh.n0 * fmtBytes (bits w 49 4)) sh.n1 sh.s1 = [] →
      (scaleArray (bits w 45 4) = true → pRange e (pB w) ((sh.n0 + 31) / 32 * sh.n1) 1 0 = []) →
      pressDone s e (.pcvt e) [{ a := 32 * pDst w, rl := sh.n0 * fmtBytes (bits w 49 4), n := sh.n1, s := sh.s1 }])) ∧
  (
  (∀ (e : BitVec 4) (s : State) (w : Word64) (sh : Shape) (p : Proc) (init fin : Bool) (m l : Nat → Word) (o : Nat → Nat → Word)
       (rd : Nat → Word), w = coreWord s (.press e) → sh = pressShape s e → p = procOf s (.press e) → memClean s (.press e) → 1 ≤ sh.n1 →
     sh.s0 = 1 → issuesOp s (.press e) 0x65 → bits w 47 6 = 0 → init = bit w 45 → fin = bit w 46 →
     pRange e (pA w) (64 + 8 * sh.n1 + 4 * sh.n0 * sh.n1) 1 0 = [] → pRange e (pDst w) (64 + 8 * sh.n1 + 4 * sh.n0 * sh.n1) 1 0 = [] →
     (∀ x, rd x = BitVec.ofNat 32 (memNum p x 4)) →
     (∀ j, m j = if init then rd (recM (pA w) j) else maxF32 (rd (recM (pDst w) j)) (rd (recM (pA w) j))) →
     (∀ j, l j = if init then rd (recL sh (pA w) j) else if m j = 0xFF800000 then 0 else
       addF32 (mulF32 (exp2Diff (rd (recM (pDst w) j)) (m j)) (rd (recL sh (pDst w) j)))
         (mulF32 (exp2Diff (rd (recM (pA w) j)) (m j)) (rd (recL sh (pA w) j)))) →
     (∀ j d, o j d = if init then rd (recO sh (pA w) j d) else if m j = 0xFF800000 then 0 else
       addF32 (mulF32 (exp2Diff (rd (recM (pDst w) j)) (m j)) (rd (recO sh (pDst w) j d)))
         (mulF32 (exp2Diff (rd (recM (pA w) j)) (m j)) (rd (recO sh (pA w) j d)))) →
     ∃ t, exec (.pmerge e) s = .next t ∧ pressOn s t e ∧ memClean t (.press e) ∧
       (∀ j < sh.n1, memNum (procOf t (.press e)) (recM (pDst w) j) 4 = (m j).toNat ∧ memNum (procOf t (.press e)) (recL sh (pDst w) j) 4 = (l j).toNat ∧
         ∀ d < sh.n0, memNum (procOf t (.press e)) (recO sh (pDst w) j d) 4 =
           (if fin = false then o j d else if l j = 0 then 0 else mulF32 (o j d) (actF32 8 (l j))).toNat) ∧
       (∀ i < 64, i ≠ 24 → mget 0 (procOf t (.press e)).mem (32 * pDst w + i) = mget 0 p.mem ((if init then 32 * pA w else 32 * pDst w) + i)) ∧
       (fin = true → (∀ j < sh.n1, l j = 0) → mget 0 p.mem ((if init then 32 * pA w else 32 * pDst w) + 24) ≠ 2 →
         mget 0 (procOf t (.press e)).mem (32 * pDst w + 24) = 1) ∧
       (mget 0 p.mem ((if init then 32 * pA w else 32 * pDst w) + 24) = 2 → mget 0 (procOf t (.press e)).mem (32 * pDst w + 24) = 2)) ∧
  (∀ (e : BitVec 4) (s : State) (w : Word64) (sh : Shape) (p : Proc) (size : Nat), w = coreWord s (.press e) → sh = pressShape s e →
    p = procOf s (.press e) → propagates p = true → 1 ≤ sh.n1 → sh.s0 = 1 → issuesOp s (.press e) 0x65 → bits w 47 6 = 0 →
    size = 64 + 8 * sh.n1 + 4 * sh.n0 * sh.n1 → pRange e (pA w) size 1 0 = [] → pRange e (pDst w) size 1 0 = [] →
    (∃ i < size, memBad p (32 * pA w + i) 1 = true ∧ (bit w 45 = true ∨ 64 ≤ i) ∨
      memBad p (32 * pDst w + i) 1 = true ∧ bit w 45 = false ∧ 64 ≤ i) →
    ∃ t, exec (.pmerge e) s = .next t ∧ pressOn s t e ∧ mget 0 (procOf t (.press e)).mem (32 * pDst w + 24) = 2)) ∧
  (
  (∀ (f : Nat) (vs : List Word), isMx f = true →
    ((∃ v ∈ vs, isFinite (ofF32 v) = false) → quantBlock f vs = (255, vs.map (fun _ => 0))) ∧
    ((∀ v ∈ vs, isFinite (ofF32 v) = true) → (∀ v ∈ vs, numVal (ofF32 v) = 0) → (quantBlock f vs).1 = 0) ∧
    (∀ v n mm ee, v ∈ vs → (∀ u ∈ vs, isFinite (ofF32 u) = true ∧ |numVal (ofF32 u)| ≤ |numVal (ofF32 v)|) → ofF32 v = .fin n mm ee → mm ≠ 0 →
      quantBlock f vs = ((max 0 (min 254 (ee + (Nat.log2 mm : Nat) - emaxOf f + 127))).toNat,
        vs.map (fun u => encodeMxElem f ((ofF32 u).scale (127 - max 0 (min 254 (ee + (Nat.log2 mm : Nat) - emaxOf f + 127))))))) ) ∧
  (∀ (e : BitVec 4) (s : State) (w : Word64) (sh : Shape) (p : Proc) (f : Nat) (vs : Nat → Nat → List Word), w = coreWord s (.press e) →
    sh = pressShape s e → p = procOf s (.press e) → memClean s (.press e) → 1 ≤ sh.n0 → 1 ≤ sh.n1 → sh.s0 = 1 →
    issuesOp s (.press e) 0x67 → bits w 49 4 = 0 → f = bits w 45 4 → isMx f = true → sh.n0 % 32 = 0 →
    pRange e (pA w) (4 * sh.n0) sh.n1 sh.s1 = [] → pRange e (pDst w) (sh.n0 / 32 * blockBytes f) sh.n1 sh.s1 = [] →
    (scaleArray f = true → pRange e (pB w) (sh.n0 / 32 * sh.n1) 1 0 = []) → (sh.n1 = 1 ∨ sh.n0 / 32 * blockBytes f ≤ sh.s1.natAbs) →
    (scaleArray f = true → ∀ i1 < sh.n1, ∀ c, c < sh.n0 / 32 * blockBytes f →
      pAddr sh (pDst w) 1 i1 c < 32 * pB w ∨ 32 * pB w + sh.n0 / 32 * sh.n1 ≤ pAddr sh (pDst w) 1 i1 c) →
    (∀ i1 k, vs i1 k = (List.range 32).map (fun i => BitVec.ofNat 32 (memNum p (pAddr sh (pA w) 4 i1 (32 * k + i)) 4))) →
    ∃ t, exec (.pquant e) s = .next t ∧ pressOn s t e ∧ memClean t (.press e) ∧ ∀ i1 < sh.n1, ∀ k < sh.n0 / 32,
      (∀ i < 32, memNum (procOf t (.press e)) (pAddr sh (pDst w) (blockBytes f) i1 k) (blockBytes f) / 2 ^ (elemBits f * i) % 2 ^ elemBits f =
        (quantBlock f (vs i1 k)).2.getD i 0) ∧
      mget 0 (procOf t (.press e)).mem (if scaleArray f then 32 * pB w + i1 * (sh.n0 / 32) + k else pAddr sh (pDst w) (blockBytes f) i1 k + 24) =
        BitVec.ofNat 8 (quantBlock f (vs i1 k)).1) ∧
  (∀ (e : BitVec 4) (s : State) (w : Word64) (sh : Shape) (p : Proc) (fi fo : Nat), w = coreWord s (.press e) → sh = pressShape s e →
    p = procOf s (.press e) → memClean s (.press e) → 1 ≤ sh.n0 → 1 ≤ sh.n1 → sh.s0 = 1 → issuesOp s (.press e) 0x68 → fi = bits w 45 4 →
    fo = bits w 49 4 → fo ≤ 4 → fi ≤ 0xA → pRange e (pA w) (rowBytes fi sh.n0) sh.n1 sh.s1 = [] →
    pRange e (pDst w) (sh.n0 * fmtBytes fo) sh.n1 sh.s1 = [] → (scaleArray fi = true → pRange e (pB w) ((sh.n0 + 31) / 32 * sh.n1) 1 0 = []) →
    (sh.n1 = 1 ∨ sh.n0 * fmtBytes fo ≤ sh.s1.natAbs) →
    ∃ t, exec (.pcvt e) s = .next t ∧ pressOn s t e ∧ memClean t (.press e) ∧ ∀ i1 < sh.n1, ∀ i0 < sh.n0,
      memNum (procOf t (.press e)) (pAddr sh (pDst w) (fmtBytes fo) i1 i0) (fmtBytes fo) =
        (let raw := (rowElem p fi (pAddr sh (pA w) 0 i1 0) i0).1
         if isMx fi then encodeNum fo (decodeMx fi raw
           (mget 0 p.mem (if isFp6 fi then pAddr sh (pA w) 0 i1 0 + 32 * (i0 / 32) + 24 else 32 * pB w + i1 * ((sh.n0 + 31) / 32) + i0 / 32)).toNat)
         else if fi = fo then raw else encodeNum fo (decodeNum fi raw))))

/-- The values of PEW and PACT on one row of elements free of poison: element i of DST becomes the sum, difference, product, maximum or minimum
of element i of A and of B (or B's single value), rounded once; PACT's becomes the function of element i of A. The values and marks of the
row instructions of a press. PEW: the sum, difference, product, maximum or minimum of A's element and B's, B as BMODE chooses it. PACT: the
function of A's element, with GATE times B's. PROPE: each pair turned by the angle t × B[i]. PNORM: (x − μ) × rsqrt(mean square + ε) × γ +
β, with μ and β 0 for RMS; the order of its steps and PROPE's position are log entry 38. Each FP32 result is marked when an input of it was;
under fault a marked input ends the task. The values and marks of PRED and PTOPK. PRED: the canonical maximum of each row or column, or a
sum of it in some order, marked when any of its values was (one element's NaN becomes canonical: log entry 63). PTOPK: the k first values in
rank order, each marked as it was, then their indices. Completes: pew, pred, pnorm, pact, prope, ptopk. (R181, R186, R237, R238, R241, R242) -/
def Obligations.PressRowValues : Prop :=
  (
  ∀ (e : BitVec 4) (s : State) (w : Word64) (sh : Shape), w = coreWord s (.press e) → sh = pressShape s e → memClean s (.press e) →
    1 ≤ sh.n0 → sh.n1 = 1 → sh.s0 = 1 → pRange e (pA w) (4 * sh.n0) 1 sh.s1 = [] → pRange e (pDst w) (4 * sh.n0) 1 sh.s1 = [] →
    (issuesOp s (.press e) 0x60 → bits w 45 3 ≤ 4 → bits w 48 2 ≠ 3 → bits w 50 3 = 0 →
      pRange e (pB w) (4 * (if bits w 48 2 = 2 then 1 else sh.n0)) 1 sh.s1 = [] →
      ∃ t, exec (.pew e) s = .next t ∧ ∀ i < sh.n0,
        memNum (procOf t (.press e)) (32 * pDst w + 4 * i) 4 =
          (pewOp (bits w 45 3) (BitVec.ofNat 32 (memNum (procOf s (.press e)) (32 * pA w + 4 * i) 4))
            (BitVec.ofNat 32 (memNum (procOf s (.press e)) (32 * pB w + (if bits w 48 2 = 2 then 0 else 4 * i)) 4))).toNat) ∧
    (issuesOp s (.press e) 0x63 → bits w 45 4 ≤ 8 → bit w 49 = false → bits w 50 3 = 0 →
      ∃ t, exec (.pact e) s = .next t ∧ ∀ i < sh.n0,
        memNum (procOf t (.press e)) (32 * pDst w + 4 * i) 4 =
          (actF32 (bits w 45 4) (BitVec.ofNat 32 (memNum (procOf s (.press e)) (32 * pA w + 4 * i) 4))).toNat)) ∧
  (
  ∀ (e : BitVec 4) (s : State) (w : Word64) (sh : Shape) (p : Proc) (a g : Nat → Nat → PWord), w = coreWord s (.press e) → sh = pressShape s e →
    p = procOf s (.press e) → 1 ≤ sh.n0 → 1 ≤ sh.n1 → sh.s0 = 1 → pRange e (pA w) (4 * sh.n0) sh.n1 sh.s1 = [] →
    pRange e (pDst w) (4 * sh.n0) sh.n1 sh.s1 = [] → sh.s1 % 4 = 0 → (sh.n1 = 1 ∨ 4 * sh.n0 ≤ sh.s1.natAbs) →
    (∀ i1 i0, a i1 i0 = wordAt p (pAddr sh (pA w) 4 i1 i0)) → (∀ i1 i0, g i1 i0 = wordAt p (pAddr sh (pB w) 4 i1 i0)) →
    (∀ bb : Nat → Nat → PWord, issuesOp s (.press e) 0x60 → bits w 45 3 ≤ 4 → bits w 48 2 ≠ 3 → bits w 50 3 = 0 →
      pRange e (pB w) (4 * (if bits w 48 2 = 2 then 1 else sh.n0)) (if bits w 48 2 = 0 then sh.n1 else 1) sh.s1 = [] →
      (∀ i1 i0, bb i1 i0 = g (if bits w 48 2 = 0 then i1 else 0) (if bits w 48 2 = 2 then 0 else i0)) →
      rowResult s e (.pew e) (fun i1 i0 => match bits w 45 3 with
          | 0 => addF32 (a i1 i0).val (bb i1 i0).val
          | 1 => toF32 ((ofF32 (a i1 i0).val).add (ofF32 (bb i1 i0).val).neg)
          | 2 => mulF32 (a i1 i0).val (bb i1 i0).val
          | 3 => maxF32 (a i1 i0).val (bb i1 i0).val
          | _ => minF32 (a i1 i0).val (bb i1 i0).val) (fun i1 i0 => (a i1 i0).poison || (bb i1 i0).poison)) ∧
    (issuesOp s (.press e) 0x63 → bits w 45 4 ≤ 8 → bits w 50 3 = 0 → (bit w 49 = true → pRange e (pB w) (4 * sh.n0) sh.n1 sh.s1 = []) →
      rowResult s e (.pact e)
        (fun i1 i0 => if bit w 49 then mulF32 (actF32 (bits w 45 4) (a i1 i0).val) (g i1 i0).val else actF32 (bits w 45 4) (a i1 i0).val)
        (fun i1 i0 => (a i1 i0).poison || (bit w 49 && (g i1 i0).poison))) ∧
    (∀ (t : PWord) (h : Nat) (c si : Nat → Word), issuesOp s (.press e) 0x64 → bits w 49 4 = 0 → t = rget p (bits w 45 4) → sh.n0 = 2 * h →
      pRange e (pB w) (4 * h) 1 0 = [] → (∀ i, (c i, si i) = Machine.rotation t.val (wordAt p (32 * pB w + 4 * i)).val) →
      rowResult s e (.prope e)
        (fun i1 i0 => if i0 < h then toF32 ((ofF32 (mulF32 (a i1 i0).val (c i0))).add (ofF32 (mulF32 (a i1 (i0 + h)).val (si i0))).neg)
          else addF32 (mulF32 (a i1 (i0 - h)).val (si (i0 - h))) (mulF32 (a i1 i0).val (c (i0 - h))))
        (fun i1 i0 => (a i1 (i0 % h)).poison || (a i1 (i0 % h + h)).poison || (wordAt p (32 * pB w + 4 * (i0 % h))).poison || t.poison)) ∧
    (∀ (eps : PWord) (ly : Bool) (ga be : Nat → PWord), issuesOp s (.press e) 0x62 → bits w 46 3 = 0 → ly = bit w 45 → eps = rget p (bits w 49 4) →
      pRange e (pB w) (4 * sh.n0 * (if ly then 2 else 1)) 1 0 = [] → (∀ i, ga i = wordAt p (32 * pB w + 4 * i)) →
      (∀ i, be i = wordAt p (32 * pB w + 4 * (sh.n0 + i))) →
      ∃ mu var : Nat → Word, (∀ i1 < sh.n1,
          (if ly then MeanOf ((List.range sh.n0).map (fun i => (a i1 i).val)) (mu i1) else mu i1 = 0) ∧
          MeanOf ((List.range sh.n0).map (fun i => mulF32 (toF32 ((ofF32 (a i1 i).val).add (ofF32 (mu i1)).neg))
            (toF32 ((ofF32 (a i1 i).val).add (ofF32 (mu i1)).neg)))) (var i1)) ∧
        rowResult s e (.pnorm e)
          (fun i1 i0 => addF32 (mulF32 (mulF32 (toF32 ((ofF32 (a i1 i0).val).add (ofF32 (mu i1)).neg)) (actF32 7 (addF32 (var i1) eps.val))) (ga i0).val)
            (if ly then (be i0).val else 0))
          (fun i1 i0 => eps.poison || (List.range sh.n0).any (fun i => (a i1 i).poison) || (ga i0).poison || (ly && (be i0).poison)))) ∧
  (
  (∀ (e : BitVec 4) (s : State) (w : Word64) (sh : Shape) (p : Proc) (m n : Nat) (a : Nat → Nat → PWord), w = coreWord s (.press e) →
    sh = pressShape s e → p = procOf s (.press e) → 1 ≤ sh.n0 → 1 ≤ sh.n1 → sh.s0 = 1 → issuesOp s (.press e) 0x61 → bits w 47 6 = 0 →
    m = (if bit w 46 then sh.n0 else sh.n1) → n = (if bit w 46 then sh.n1 else sh.n0) →
    pRange e (pA w) (4 * sh.n0) sh.n1 sh.s1 = [] → pRange e (pDst w) (4 * m) 1 0 = [] →
    (∀ r i, a r i = wordAt p (if bit w 46 then pAddr sh (pA w) 4 i r else pAddr sh (pA w) 4 r i)) →
    (inputsGood p (∃ r < m, ∃ i < n, (a r i).poison = true) → ∃ t, exec (.pred e) s = .next t ∧ pressOn s t e ∧ ∀ r < m, ∃ v,
      holds (wordAt (procOf t (.press e)) (32 * pDst w + 4 * r)) (canonF32 v) ((List.range n).any (fun i => (a r i).poison)) ∧
      (bit w 45 = true → v = ((List.range n).map (fun i => (a r i).val)).tail.foldl maxF32 (a r 0).val) ∧
      (bit w 45 = false → SumOf ((List.range n).map (fun i => (a r i).val)) v)) ∧
    (inputsFail p (∃ r < m, ∃ i < n, (a r i).poison = true) → ∃ t, exec (.pred e) s = .next t ∧ endedWith t (.press e) .dataUncorrectable 0)) ∧
  (∀ (e : BitVec 4) (s : State) (w : Word64) (sh : Shape) (p : Proc) (k : Nat) (a : Nat → PWord) (x : Nat → Word), w = coreWord s (.press e) →
    sh = pressShape s e → p = procOf s (.press e) → sh.s0 = 1 → issuesOp s (.press e) 0x66 → bits w 51 2 = 0 → k = bits w 45 6 + 1 → k ≤ sh.n0 →
    pRange e (pA w) (4 * sh.n0) 1 0 = [] → pRange e (pDst w) (8 * k) 1 0 = [] → (∀ i, a i = wordAt p (32 * pA w + 4 * i)) →
    (∀ i, x i = canonF32 (a i).val) →
    (inputsGood p (∃ i < sh.n0, (a i).poison = true) → ∃ t, exec (.ptopk e) s = .next t ∧ pressOn s t e ∧ ∃ ix : Nat → Nat,
      (∀ r < k, ix r < sh.n0 ∧ holds (wordAt (procOf t (.press e)) (32 * pDst w + 4 * r)) (x (ix r)) (a (ix r)).poison ∧
        holds (wordAt (procOf t (.press e)) (32 * pDst w + 4 * (k + r))) (BitVec.ofNat 32 (ix r)) (a (ix r)).poison) ∧
      (∀ r r', r < r' → r' < k → ranksBefore x (ix r) (ix r')) ∧
      (∀ r < k, ∀ i < sh.n0, (∀ r' < k, ix r' ≠ i) → ranksBefore x (ix r) i)) ∧
    (inputsFail p (∃ i < sh.n0, (a i).poison = true) → ∃ t, exec (.ptopk e) s = .next t ∧ endedWith t (.press e) .dataUncorrectable 0)))

/-- PGET and PPUT. PGET from a region window brings LEN bytes of the window's region into scratch at A, when they are readable and clean, and
from a host window reads them of the host, free of poison (log entry 36); PPUT to a host window issues one host write of the scratch bytes
with their poison, and to a region window writes the bytes in the bank named, or in every bank of the window: each whole word of the places
that the bytes have there holds them with its check byte, and no word outside those places changes. An access outside the window ends the
task with RANGE. Completes: pget, pput. (R233, R237, R239, R340) -/
def Obligations.PressWindowsMove : Prop :=
  (∀ (e : BitVec 4) (s s' : State) (t : Task) (w : Word64) (win : Window) (n o bi : Nat) (bs : List (Byte × Bool)),
    w = coreWord s (.press e) → n = 32 * pDst w → o = (rget (procOf s (.press e)) (bits w 0 4)).val.toNat →
    bi = (rget (procOf s (.press e)) (bits w 4 4)).val.toNat → (procOf s (.press e)).task = some t → win = windowOf t.raw (bits w 45 1) →
    issuesOp s (.press e) 0x70 → bits w 46 7 = 0 → bits w 8 7 = 0 → (rget (procOf s (.press e)) (bits w 0 4)).poison = false →
    (rget (procOf s (.press e)) (bits w 4 4)).poison = false → pRange e (pA w) n 1 0 = [] →
    (win.used = true → win.host = false → o + n ≤ win.length → bi < win.banks →
      regionRead s (pressReader s e) win.region ((win.bank + bi : Nat) : Int) ((win.off + o : Nat) : Int) n = (.ok bs, s') →
      (∀ c ∈ bs, c.2 = false) →
      exec (.pget e) s = .next (meter (modProc (engineSlots s' false (coreTen s (.press e))
          (locateAll s (regionOf s win.region) false ((win.bank + bi : Nat) : Int) ((win.off + o : Nat) : Int) n)) (.press e)
          (fun p => pnext (storeUnits p (32 * pA w) bs))) (coreTen s (.press e)) 6 n 0)) ∧
    (win.used = true → win.host = true → o + n ≤ win.length → bi < win.banks →
      ∃ u, exec (.pget e) s = .next u ∧ pressOn s u e ∧ u.out = .hostRead (win.start + o) n :: s.out ∧
        bytesKept s u (.press e) (fun a => 32 * pA w ≤ a ∧ a < 32 * pA w + n) ∧
        ∀ k < 8 * pDst w, (wordAt (procOf u (.press e)) (32 * pA w + 4 * k)).poison = false) ∧
    ((win.used = false ∨ win.length < o + n ∨ win.banks ≤ bi) → ∃ u, exec (.pget e) s = .next u ∧ endedBy s u (.press e) .range 0x00)) ∧
  (∀ (e : BitVec 4) (s : State) (t : Task) (w : Word64) (win : Window) (n o bi : Nat),
    w = coreWord s (.press e) → n = 32 * pDst w → o = (rget (procOf s (.press e)) (bits w 0 4)).val.toNat →
    bi = (rget (procOf s (.press e)) (bits w 4 4)).val.toNat → (procOf s (.press e)).task = some t → win = windowOf t.raw (bits w 45 1) →
    issuesOp s (.press e) 0x71 → bits w 47 6 = 0 → bits w 8 7 = 0 → (rget (procOf s (.press e)) (bits w 0 4)).poison = false →
    (bit w 46 = false → (rget (procOf s (.press e)) (bits w 4 4)).poison = false) → pRange e (pA w) n 1 0 = [] → memClean s (.press e) →
    (win.used = false ∨ win.length < o + n ∨ bit w 46 = false ∧ win.banks ≤ bi →
      ∃ u, exec (.pput e) s = .next u ∧ endedBy s u (.press e) .range 0x00) ∧
    (win.used = true → o + n ≤ win.length → (bit w 46 = false → bi < win.banks) → win.host = true →
      exec (.pput e) s = .next (modProc (meter (modPress (hostWriteIssue s (coreTen s (.press e)) (.window e.toNat t.id) (win.start + o)
          (mgetAll 0 (procOf s (.press e)).mem (32 * pA w) n) (List.replicate n false)) e.toNat (fun q => { q with hostPending := q.hostPending + 1 }))
          (coreTen s (.press e)) 6 n 0) (.press e) pnext)) ∧
    (∀ (banks : List Nat) (ls : Nat → List Loc), win.used = true → o + n ≤ win.length → (bit w 46 = false → bi < win.banks) → win.host = false →
      banks = (if bit w 46 then List.range win.banks else [bi]) →
      (∀ k, ls k = locateAll s (regionOf s win.region) true ((win.bank + k : Nat) : Int) ((win.off + o : Nat) : Int) n) →
      (∀ k ∈ banks, locsStatus s (ls k) = none) → (∀ b, (unitOf s b).wq = []) →
      ∃ u, exec (.pput e) s = .next u ∧ pressOn s u e ∧ bytesKept s u (.press e) (fun _ => False) ∧
        u = modProc (meter (banks.foldl (fun s k => pputBank s e win o (loadUnits (procOf s (.press e)) (32 * pA w) n) k) s)
          (coreTen s (.press e)) 6 (n * banks.length) 0) (.press e) pnext ∧
        (∀ x, (∀ k ∈ banks, ∀ a, Loc.mem a ∈ ls k → a / 4 ≠ x) → wordKept s u x) ∧
        (∀ k ∈ banks, ∀ i x, (∀ j < 4, (ls k)[i + j]? = some (.mem (4 * x + j))) →
          (∀ k' ∈ banks, ∀ i', (∃ j < 4, (ls k')[i']? = some (.mem (4 * x + j))) → k' = k ∧ i ≤ i' ∧ i' < i + 4) →
          (∀ j < 4, bits (dramWord u x) (8 * j) 8 = (mget 0 (procOf s (.press e)).mem (32 * pA w + i + j)).toNat) ∧
          dramCheck u x = encodeCheck (dramWord u x))))

/-- PCHAN configures a channel's slots, empty; each record that still held one is entered in the cellar log as 0x07_05 under its own SOURCE and
tag (log entry 105; no record of another member lands there). PRECV with enough records landed writes its register with the oldest record's
slot; with fewer it waits. PFREE frees the oldest slots. Records. PSEND without NET sends its scratch as one record to the channel of a
press engine and holds the sender; RECORD_LAND lands the next record of the press's own tenancy whole in the next free slot, behind its
header; the sender then goes on if its task is still the one that sent; with no free slot the records wait. Completes: pchan, precv, pfree,
psend, recordLand. (R237, R240, R436) -/
def Obligations.PressChannelsAndRecords : Prop :=
  (
  (∀ (e : BitVec 4) (s : State) (w : Word64), w = coreWord s (.press e) → issuesOp s (.press e) 0x72 → bits w 49 4 = 0 →
    32 * (pDst w + pA w * pB w) ≤ coreMem (.press e) → channelQuiet s e.toNat (bits w 45 4) →
    ((chanOf s e.toNat (bits w 45 4)).landed = [] →
      exec (.pchan e) s = .next (modProc (setChan s e.toNat (bits w 45 4) { chanOf s e.toNat (bits w 45 4) with
        configured := true, base := pDst w, size := pA w, count := pB w, landed := [], next := 0 }) (.press e) pnext)) ∧
    (∀ l, (chanOf s e.toNat (bits w 45 4)).landed = l → l.length ≤ 65536 → s.log.next < 2 ^ 32 → noEndDue s →
      ∃ t, exec (.pchan e) s = .next t ∧ pressOn s t e ∧ t.log.next = (s.log.next + l.length) % 2 ^ 32 ∧
        chanOf t e.toNat (bits w 45 4) = { chanOf s e.toNat (bits w 45 4) with
          configured := true, base := pDst w, size := pA w, count := pB w, landed := [], next := 0 } ∧
        ∀ (i : Nat) (r : Landed), l[i]? = some r → ∃ x, mget none t.log.entries ((s.log.next + i) % 2 ^ 32 % 65536) = some x ∧
          x.cls = 7 ∧ x.num = 5 ∧ x.tag = some r.tag ∧ x.source = r.source)) ∧
  (∀ (e : BitVec 4) (s : State) (w : Word64) (k : Chan) (n : Nat), w = coreWord s (.press e) → k = chanOf s e.toNat (bits w 45 4) →
    n = (rget (procOf s (.press e)) (bits w 0 4)).val.toNat → issuesOp s (.press e) 0x73 → bits w 49 4 = 0 →
    (rget (procOf s (.press e)) (bits w 0 4)).poison = false → k.configured = true →
    (∀ i rest, k.landed = i :: rest → n ≤ k.landed.length → bits w 30 4 ≠ 0 →
      ∃ t, exec (.precv e) s = .next t ∧ rget (procOf t (.press e)) (bits w 30 4) = { val := BitVec.ofNat 32 i.slot, poison := false } ∧
        (procOf t (.press e)).pc = (procOf s (.press e)).pc + 1 ∧ (pressOf t e.toNat).recv = none ∧ (pressOf t e.toNat).chans = (pressOf s e.toNat).chans) ∧
    (k.landed.length < n → s.net.pod ≠ .managing →
      exec (.precv e) s = .next (modPress s e.toNat (fun q => { q with
        recv := some { chan := bits w 45 4, need := n, dst := bits w 30 4, start := s.elapsed } })))) ∧
  (∀ (e : BitVec 4) (s : State) (w : Word64) (k : Chan) (n : Nat), w = coreWord s (.press e) → k = chanOf s e.toNat (bits w 45 4) →
    n = (rget (procOf s (.press e)) (bits w 0 4)).val.toNat → issuesOp s (.press e) 0x74 → bits w 49 4 = 0 →
    (rget (procOf s (.press e)) (bits w 0 4)).poison = false → k.configured = true → n ≤ k.landed.length →
    exec (.pfree e) s = .next (modProc (setChan s e.toNat (bits w 45 4) { k with landed := k.landed.drop n }) (.press e) pnext))) ∧
  (
  (∀ (e : BitVec 4) (s : State) (w : Word64), w = coreWord s (.press e) → issuesOp s (.press e) 0x75 → bits w 49 4 = 0 → bits w 10 5 = 0 →
    bit w 3 = false → bits w 4 6 = 0 → pRange e (pA w) (32 * pDst w) 1 0 = [] → memClean s (.press e) →
    ∃ r : Record, r.source = coreSrc (.press e) ∧ r.task = taskId s (.press e) ∧ r.ten = coreTen s (.press e) ∧ r.tag = coreTag s (.press e) ∧ r.at_ = s.ck ∧
      r.bytes = mgetAll 0 (procOf s (.press e)).mem (32 * pA w) (32 * pDst w) ∧ r.poison = List.replicate (8 * pDst w) false ∧
      exec (.psend e) s = .next (modProc (meter (arrive s (bits w 0 3) (bits w 45 4) r) (coreTen s (.press e)) 6 (32 * pDst w) 0) (.press e)
        (fun p => { p with vec := some { word := w, beat := 0, total := 1 } }))) ∧
  (∀ (e : BitVec 4) (s : State) (c : Nat) (r : Record) (rest : List (Nat × Record)), (pressOf s e.toNat).input = (c, r) :: rest →
    mget none s.pressOwner e.toNat = some r.ten → (chanOf s e.toNat c).configured = true →
    (chanOf s e.toNat c).landed.length < (chanOf s e.toNat c).count → r.bytes.length + 32 ≤ 32 * (chanOf s e.toNat c).size →
    (pressOf s e.toNat).recv = none → channelQuiet s e.toNat c →
    ∃ t, exec (.recordLand e) s = .next t ∧ (pressOf t e.toNat).input = rest ∧
      (chanOf t e.toNat c).landed = (chanOf s e.toNat c).landed ++
        [{ slot := (chanOf s e.toNat c).next, source := r.source, tag := r.tag, ten := r.ten }] ∧
      (chanOf t e.toNat c).next = ((chanOf s e.toNat c).next + 1) % (chanOf s e.toNat c).count ∧ (chanOf t e.toNat c).drops = 0 ∧
      ∀ i < r.bytes.length, mget 0 (procOf t (.press e)).mem
        (32 * ((chanOf s e.toNat c).base + (chanOf s e.toNat c).next * (chanOf s e.toNat c).size) + 32 + i) = r.bytes.getD i 0) ∧
  (∀ (e x : BitVec 4) (s : State) (c : Nat) (r : Record) (rest : List (Nat × Record)) (v : Vec), x ≠ e →
    (pressOf s e.toNat).input = (c, r) :: rest → mget none s.pressOwner e.toNat = some r.ten → (chanOf s e.toNat c).configured = true →
    (chanOf s e.toNat c).landed.length < (chanOf s e.toNat c).count → r.source = coreSrc (.press x) → (procOf s (.press x)).vec = some v →
    taskId s (.press x) ≠ none → noEndDue s → channelQuiet s e.toNat c →
    ∃ t, exec (.recordLand e) s = .next t ∧
      (r.task = taskId s (.press x) → (procOf t (.press x)).vec = none ∧ (procOf t (.press x)).pc = (procOf s (.press x)).pc + 1) ∧
      (r.task ≠ taskId s (.press x) → procOf t (.press x) = procOf s (.press x))) ∧
  (∀ (e : BitVec 4) (s : State), (∀ q ∈ (pressOf s e.toNat).input, mget none s.pressOwner e.toNat = some q.2.ten ∧ chanFree s e.toNat q.1 = false) →
    exec (.recordLand e) s = .next s))

/-- A task starts: PRESS_TASK_START makes the named cask live, puts the pc at ENTRY, loads the argument registers and clears the rest; a press
that may not start stays as it was. Loads. LOAD_APPLY takes a load at the head of its queue whose cask no running task uses, waking a unit
that sleeps, and ends one into the live cask of a running task with CASK_BUSY; LOAD_COMPLETE puts its words at FIRST of the cask and records
the end of the load. Completes: loadApply, loadComplete, pressTaskStart. (R127, R128, R234, R235) -/
def Obligations.PressTasksAndLoads : Prop :=
  (
  ∀ (e : BitVec 4) (s : State),
    (∀ a, runReady s (.press e) = some a → ((procOf s (.press e)).cask (runCask a.raw)).incomplete = false →
      ∃ t, exec (.pressTaskStart e) s = .next t ∧ (procOf t (.press e)).live = runCask a.raw ∧
        (procOf t (.press e)).pc = runEntry a.raw ∧ (procOf t (.press e)).loops = [] ∧ (procOf t (.press e)).shapes = [] ∧
        (procOf t (.press e)).task.map (fun k => (k.id, k.ten, k.raw)) = some (a.id, a.ten, a.raw) ∧
        (dOp a.raw ≠ 2 → ∀ i < 4, rget (procOf t (.press e)) (i + 1) = { val := BitVec.ofNat 32 (dfield a.raw (20 + 4 * i) 4), poison := false }) ∧
        (procOf t (.press e)).queue = (procOf s (.press e)).queue.tail) ∧
    (runReady s (.press e) = none → exec (.pressTaskStart e) s = .next s)) ∧
  (
  (∀ (x : CoreId) (s : State) (a : Active), headActive s (ofCore x) = some a → isLoad a.raw = true → waitOver a = true →
    (procOf s x).load = none → canPlace s a.ten = true →
    (match x with | .unit b => (unitOf s b.toNat).st ≠ .off | .press _ => domainOn s (ofCore x) = true) →
    ((dfield a.raw 16 1 = 2 ∨ (procOf s x).task = none ∨ (dfield a.raw 16 1 == 1) ≠ (procOf s x).live) →
      ∃ t, exec (.loadApply x) s = .next t ∧ (procOf t x).queue = (procOf s x).queue.tail ∧
        (procOf t x).load = some { id := a.id, cask := (if dfield a.raw 16 1 = 2 then !(procOf s x).live else dfield a.raw 16 1 == 1),
                                   waking := (match x with | .unit b => (unitOf s b.toNat).st == .asleep | .press _ => false) } ∧
        (∀ b, x = .unit b → (unitOf s b.toNat).st = .asleep → (unitOf s b.toNat).wakeReq = false →
          (unitOf t b.toNat).wakeReq = true ∧ ballastWaits t (.wake b.toNat) = true)) ∧
    (dfield a.raw 16 1 ≠ 2 → (procOf s x).task ≠ none → (dfield a.raw 16 1 == 1) = (procOf s x).live →
      exec (.loadApply x) s = .next (dropPart (modActive s a.id (fun u => { u with refusedN := u.refusedN + 1 })) a.id (ofCore x) .caskBusy 0))) ∧
  (∀ (x : CoreId) (s : State) (l : LoadJob) (a : Active), (procOf s x).load = some l → activeOf s l.id = some a → l.waking = false →
    (needsPlace a (ofCore x) .ok = false ∨ canPlace s a.ten = true) →
    ∃ k, exec (.loadComplete x) s = .next (finishPart (modActive (let t := modProc s x (fun p => { p.setCask l.cask k with load := none });
        match x with | .unit b => modUnit t b.toNat (fun u => { u with idleSince := s.ck }) | .press _ => t) l.id
          (fun e => { e with applied := e.applied + 1 })) l.id (ofCore x) .ok 0) ∧
      k.loaded = some (loadFirst a.raw + (a.prog.getD []).length) ∧
      (∀ i < (a.prog.getD []).length, mget 0 k.words (loadFirst a.raw + i) = (a.prog.getD []).getD i 0) ∧
      (∀ j, j < loadFirst a.raw ∨ loadFirst a.raw + (a.prog.getD []).length ≤ j → mget 0 k.words j = mget 0 ((procOf s x).cask l.cask).words j)))

/-- The limits end tasks with WATCHDOG: TASK_LIMIT of a running task, a unit's with the payload of the instruction it was at, and IN_LIMIT of a
PRECV that waits. Units between tasks. UNIT_WAKE_DONE brings a unit whose wake has been admitted to IDLE; IDLE_GATE_EXPIRY puts an idle unit
with nothing queued to sleep. Completes: unitWakeDone, idleGateExpiry, taskLimitExpiry, inLimitExpiry. (R98, R99, R102, R106, R127, R175,
R240, R433, R434) -/
def Obligations.LimitsAndUnitStates : Prop :=
  (
  (∀ (x : CoreId) (s : State) (t : Task), (procOf s x).task = some t → (procOf s x).ended = none → runLimit t.raw ≠ 0 →
    ∃ u, exec (.taskLimitExpiry x) s = .next u ∧ endedWith u x .watchdog 0 ∧
      ∀ b, x = .unit b → (procOf u x).ended.bind (·.report) = some (true, faultBytes s x 0x00 0)) ∧
  (∀ (e : BitVec 4) (s : State) (t : Task) (r : Recv), (procOf s (.press e)).task = some t → (procOf s (.press e)).ended = none →
    (pressOf s e.toNat).recv = some r → ∃ u, exec (.inLimitExpiry e) s = .next u ∧ endedWith u (.press e) .watchdog 0)) ∧
  (
  (∀ (b : BitVec 12) (s : State), (unitOf s b.toNat).st = .asleep → (unitOf s b.toNat).wakeReq = true → (unitOf s b.toNat).startReq = false →
    ballastWaits s (.wake b.toNat) = false →
    ∃ t, exec (.unitWakeDone b) s = .next t ∧ (unitOf t b.toNat).st = .idle ∧ (unitOf t b.toNat).wakeReq = false ∧
      (procOf t (.unit b)).load = (procOf s (.unit b)).load.map (fun l => { l with waking := false })) ∧
  (∀ (b : BitVec 12) (s : State), (unitOf s b.toNat).st = .idle → (procOf s (.unit b)).queue = [] → (procOf s (.unit b)).task = none →
    (procOf s (.unit b)).load = none →
    ∃ t, exec (.idleGateExpiry b) s = .next t ∧ (unitOf t b.toNat).st = .asleep ∧ (procOf t (.unit b)) = procOf s (.unit b)))

/-- The ballast governor. BALLAST_WINDOW reaches the next window of 32 cycles, with no credit used; RUN_PERIOD_TICK reaches the next multiple of
1024 cycles. A grant at the stack whose turn it is uses one credit: a napping unit runs on, a task start begins its task, a wake leaves the
queue, and a group's ramp takes its credits one by one and with the last begins in the next cycle. Completes: ballastWindow, ballastGrant,
runPeriodTick. (R103, R258, R373, R374, R375) -/
def Obligations.BallastAdmits : Prop :=
  (∀ s : State, clockRuns s = true → s.pwr.window ≤ (s.ck + s.pwr.phase) / 32 →
    ∃ t, exec .ballastWindow s = .next t ∧ t.ck + t.pwr.phase = 32 * ((s.ck + s.pwr.phase) / 32 + 1) ∧ t.pwr.phase = s.pwr.phase ∧
      t.pwr.window = (t.ck + t.pwr.phase) / 32 ∧ t.pwr.usedMod = 0 ∧ t.pwr.used = []) ∧
  (∀ s : State, clockRuns s = true → ∃ t, exec .runPeriodTick s = .next t ∧ t.ck = 1024 * (s.ck / 1024 + 1)) ∧
  (∀ (k : BitVec 3) (s : State) (c : Nat) (a : Admit) (rest : List (Nat × Admit)), mget [] s.pwr.queues k.toNat = (c, a) :: rest →
    s.pwr.window = windowOf32 s → nextStack s = some k.toNat →
    ∃ t, exec (.ballastGrant k) s = .next t ∧ mget 0 t.pwr.used k.toNat = mget 0 s.pwr.used k.toNat + 1 ∧ t.pwr.usedMod = s.pwr.usedMod + 1 ∧
      t.pwr.lastStk = k.toNat ∧ (∀ j, j ≠ k.toNat → mget [] t.pwr.queues j = mget [] s.pwr.queues j) ∧
      (∀ b : BitVec 12, a = .nap b.toNat → (unitOf s b.toNat).st = .napping →
        (unitOf t b.toNat).st = .running ∧ (procOf t (.unit b)).nap = none ∧ (procOf t (.unit b)).pc = (procOf s (.unit b)).pc + 1 ∧
        mget [] t.pwr.queues k.toNat = rest) ∧
      (∀ (b : BitVec 12) (d : Active), a = .taskStart b.toNat → runReady s (.unit b) = some d →
        ((procOf s (.unit b)).cask (runCask d.raw)).incomplete = false →
        (unitOf t b.toNat).st = .running ∧ (unitOf t b.toNat).startReq = false ∧ (procOf t (.unit b)).live = runCask d.raw ∧
        (procOf t (.unit b)).pc = runEntry d.raw ∧ (procOf t (.unit b)).loops = [] ∧ (procOf t (.unit b)).shapes = [] ∧
        (procOf t (.unit b)).task.map (fun x => (x.id, x.ten, x.raw, x.startT)) = some (d.id, d.ten, d.raw, s.time) ∧
        (dOp d.raw = 2 → ∀ i < 8, rget (procOf t (.unit b)) (i + 1) = { val := BitVec.ofNat 32 (dfield d.raw (24 + 4 * i) 4), poison := false }) ∧
        (procOf t (.unit b)).queue = (procOf s (.unit b)).queue.tail ∧ mget [] t.pwr.queues k.toNat = rest) ∧
      (∀ b, a = .wake b → mget [] t.pwr.queues k.toNat = rest ∧ t.units = s.units) ∧
      (∀ g n, a = .ramp g (n + 2) → mget [] t.pwr.queues k.toNat = (c, .ramp g (n + 1)) :: rest ∧ t.pwr.dom = s.pwr.dom) ∧
      (∀ g, a = .ramp g 1 → mget [] t.pwr.queues k.toNat = rest ∧ (domOf t g).st = .ramping ∧ (domOf t g).since = s.elapsed + ckTicks s ∧
        ∀ d, d ≠ g → domOf t d = domOf s d))

/-- A bank's column controller. REFRESH_OWED comes at the end of the bank's present interval, 7.8125, 3.90625 or 1.953125 µs by its band, and
counts up to 8; the next interval follows the band as it is then. At 8, with no host-class access in progress, the slot refreshes and leaves
the bank precharged; with nothing to do it changes nothing. The intervals begin at reset (log entry 123). A range-table fill: the tenancy's
entry that serves the missing page enters the unit's table of 16 first, and the unit no longer misses; a full table drops its oldest entry
(log entry 35). A column slot by R121. The oldest host access gets it unless a refresh is forced; an owed refresh takes the place of the
precharge that its row change needs. The slots of the write queue's oldest pair. A column that holds a word written in part first takes a
read slot, which changes no word, and then the bank's very next slot. A column is written: a word written whole takes its data, one written
in part keeps its other bytes, and a marked word, or one whose old value does not decode, becomes a marker; no other changes. The
prefetcher's slot. Of a direct bank-view region it reads the column at BASE plus its offset, which a ring region takes modulo SIZE; each
word that decodes gives its value and each that does not a mark. Outside a tensor region the column holds the FILL byte of each offset
modulo 4. Of a retired row, or where a check fails, it enters marked. A step of a decant copy between equal formats, without padding and
apart from its source, over words that all decode: each destination byte takes its source byte, no other changes, and the bytes written are
counted. The scrubber's last column. Each of its eight words is counted as what it decodes to, and a corrected one is written back; no other
word changes. The summary that leaves for RESULT_ADDR holds the counts of words scanned, corrected, uncorrectable and poisoned. Completes:
workComplete, columnSlot, refreshOwed, translationFill. (R38, R39, R114, R115, R121, R125, R144, R208, R289, R340, R342, R354) -/
def Obligations.ColumnsAndRanges : Prop :=
  (
  (∀ (b : BitVec 12) (s : State) (k : Bank) (due : Nat), arraysOn s = true → k = bankOf s b.toNat →
    due = k.refFrom + (if k.refBand = 0 then 12500 else if k.refBand = 1 then 6250 else 3125) →
    ∃ t, exec (.refreshOwed b) s = .next t ∧ t.dram = s.dram ∧ t.units = s.units ∧
      bankOf t b.toNat = { k with owed := min 8 (k.owed + 1), refFrom := due, refBand := (thmOf s (b.toNat / 512)).band } ∧
      (clockRuns s = true → s.net.slew = 0 → s.net.rate = 0 → s.net.rateAcc < 65536 → due ≤ t.elapsed ∧ t.elapsed < max due (s.elapsed + 1) + ckTicks s)) ∧
  (∀ (b : BitVec 12) (s : State), arraysOn s = false → exec (.refreshOwed b) s = .next s ∧ exec (.columnSlot b) s = .next s) ∧
  (∀ (b : BitVec 12) (s : State), arraysOn s = true → rmwOpen s b.toNat = false → (bankOf s b.toNat).owed = 8 → (∀ h ∈ (bankOf s b.toNat).hostQ, h.begun = false) →
    exec (.columnSlot b) s = .next (setBank s b.toNat { bankOf s b.toNat with owed := 7, openRow := none })) ∧
  (∀ (b : BitVec 12) (s : State), (bankOf s b.toNat).owed = 0 → (bankOf s b.toNat).hostQ = [] → (unitOf s b.toNat).wq = [] →
    wantsColumn (unitOf s b.toNat) = false → copyAt s b.toNat = none → exec (.columnSlot b) s = .next s)) ∧
  (
  ∀ (b : BitVec 12) (s : State) (pg : Nat) (x : XEntry), (unitOf s b.toNat).miss = some pg →
    pageEntry s (coreTen s (.unit b)) pg (groupOf b.toNat) = some x →
    ∃ t, exec (.translationFill b) s = .next t ∧ (unitOf t b.toNat).miss = none ∧
      (unitOf t b.toNat).ranges = ({ tpage := pg, ppage := x.ppage, write := x.write } :: (unitOf s b.toNat).ranges).take 16 ∧
      t = setUnit s b.toNat { unitOf s b.toNat with miss := none, ranges := (unitOf t b.toNat).ranges }) ∧
  (
  ∀ (b : BitVec 12) (s : State) (h : SlotUse) (rest : List SlotUse), arraysOn s = true → rmwOpen s b.toNat = false →
    (bankOf s b.toNat).hostQ = h :: rest → (h.begun = true ∨ (bankOf s b.toNat).owed ≠ 8) → ∃ t, exec (.columnSlot b) s = .next t ∧ t.dram = s.dram ∧ t.check = s.check ∧
      t.units = s.units ∧ (bankOf t b.toNat).openRow = some h.row ∧
      (bankOf t b.toNat).hostQ = (if h.slots ≤ 1 then rest else { h with slots := h.slots - 1, begun := true } :: rest) ∧
      (bankOf t b.toNat).owed = (if (bankOf s b.toNat).openRow = some h.row ∨ (bankOf s b.toNat).openRow = none then (bankOf s b.toNat).owed
        else (bankOf s b.toNat).owed - 1)) ∧
  (
  ∀ (b : BitVec 12) (s : State) (p : WPair) (rest : List WPair) (c : Nat) (part : Prop), (unitOf s b.toNat).wq = p :: rest → p.addr % 64 = 0 →
    c = (if p.begun = false ∧ bits p.en 0 32 ≠ 0 then 0 else 1) →
    (part ↔ ∃ k < 8, bits p.en (32 * c + 4 * k) 4 ≠ 0 ∧ bits p.en (32 * c + 4 * k) 4 ≠ 15) →
    (slotFree s b → rest ≠ [] → part → ∃ t, exec (.columnSlot b) s = .next t ∧ (unitOf t b.toNat).wq = { p with read := true } :: rest ∧
      (bankOf t b.toNat).openRow = some (p.addr / 4096) ∧ t.dram = s.dram ∧ t.check = s.check) ∧
    (arraysOn s = true → p.done = false → (p.read = true ∨ slotFree s b ∧ rest ≠ [] ∧ ¬ part) → ∃ t, exec (.columnSlot b) s = .next t ∧
      (unitOf t b.toNat).wq = (if c = 0 ∧ bits p.en 32 32 ≠ 0 then { p with begun := true, read := false } :: rest else rest) ∧
      (∀ w, (∀ k < 8, w ≠ (2 ^ 27 * b.toNat + p.addr) / 4 + 8 * c + k) → wordKept s t w) ∧
      ∀ k < 8, ∀ w en : Nat, ∀ d : Word, w = (2 ^ 27 * b.toNat + p.addr) / 4 + 8 * c + k → en = bits p.en (32 * c + 4 * k) 4 →
        d = BitVec.ofNat 32 (bits p.data (256 * c + 32 * k) 32) →
        (en = 0 → wordKept s t w) ∧
        (en = 15 → bit p.poison (8 * c + k) = false → dramWord t w = d ∧ dramCheck t w = encodeCheck d) ∧
        (en ≠ 0 → bit p.poison (8 * c + k) = true → dramWord t w = 0 ∧ dramCheck t w = 0x7F) ∧
        (en ≠ 0 → en ≠ 15 → bit p.poison (8 * c + k) = false →
          (readsAs s w = none → dramWord t w = 0 ∧ dramCheck t w = 0x7F) ∧
          (∀ v, readsAs s w = some v → dramCheck t w = encodeCheck (dramWord t w) ∧ ∀ i < 4,
            bits (dramWord t w) (8 * i) 8 = if en.testBit i then bits d (8 * i) 8 else bits v (8 * i) 8)))) ∧
  (
  ∀ (b : BitVec 12) (s : State) (x : Stream) (r : Region) (off : Int), slotFree s b → (unitOf s b.toNat).wq = [] →
    (unitOf s b.toNat).stream = some x → (unitOf s b.toNat).miss = none → x.buf.length < 8 → x.fetched < x.count → x.scaleOff = none →
    r = regionOf s x.region → off = (x.start : Int) + x.fetched * x.stride →
    (∀ st, unitRegion s b.toNat x.region = some st → ∃ t y more, exec (.columnSlot b) s = .next t ∧ (unitOf t b.toNat).stream = some y ∧
      y.buf = x.buf ++ { data := 0, poison := 0, mark := some st, scales := [] } :: more) ∧
    (unitRegion s b.toNat x.region = none → r.ring = false → (off < 0 ∨ (r.size : Int) ≤ off) → ∃ t y col more,
      exec (.columnSlot b) s = .next t ∧ (unitOf t b.toNat).stream = some y ∧ y.buf = x.buf ++ col :: more ∧ col.mark = none ∧ col.poison = 0 ∧
      ∀ i < 32, bits col.data (8 * i) 8 = bits r.fill (8 * ((off + i) % 4).toNat) 8) ∧
    (unitRegion s b.toNat x.region = none → r.xlat = false → ∀ o : Nat,
      (if r.ring then 0 < r.size ∧ (o : Int) = r.base + off % r.size else 0 ≤ off ∧ off < r.size ∧ (o : Int) = r.base + off) → o < 2 ^ 27 →
      (retiredAt s (2 ^ 27 * b.toNat + o) = true → ∃ t y, exec (.columnSlot b) s = .next t ∧ (unitOf t b.toNat).stream = some y ∧
        y.fetched = x.fetched + 1 ∧ y.buf = x.buf ++ [{ data := 0, poison := 0, mark := some .retired, scales := [] }]) ∧
      (retiredAt s (2 ^ 27 * b.toNat + o) = false → ∃ t y col, exec (.columnSlot b) s = .next t ∧ (unitOf t b.toNat).stream = some y ∧
        y.fetched = x.fetched + 1 ∧ y.buf = x.buf ++ [col] ∧ col.mark = none ∧ (bankOf t b.toNat).openRow = some (o / 4096) ∧
        t.dram = s.dram ∧ t.check = s.check ∧ ∀ i < 8,
          (∀ v, readsAs s ((2 ^ 27 * b.toNat + o) / 4 + i) = some v → bits col.data (32 * i) 32 = v.toNat ∧ bit col.poison i = false) ∧
          (readsAs s ((2 ^ 27 * b.toNat + o) / 4 + i) = none → bit col.poison i = true)))) ∧
  (
  ∀ (b : BitVec 12) (s : State) (e : BitVec 2) (j : CopyJob) (a : Active) (c : Copy) (js : List (List Nat)) (src dst : List CopyByte)
      (pairs : List (Nat × Nat)),
    arraysOn s = true → j.saved = [] → (bankOf s b.toNat).hostQ = [] → (bankOf s b.toNat).owed < 8 → copyAt s b.toNat = some e → jobOf s e = some (j, a) → c = copyOf a.raw →
    c.sfmt = c.dfmt → c.padw = false → c.inplace = false → mayShare s c = false → (∀ u, (unitOf s u).wq = []) → (∀ w, readsAs s w ≠ none) →
    js = (c.stepIx s j.next).filter (fun i => !c.isPad i) → src = js.flatMap c.srcBytes → dst = js.flatMap c.dstBytes → src.length = dst.length →
    byteLocs s c.sregion false src = pairs.map (fun p => .mem p.1) → byteLocs s c.dregion true dst = pairs.map (fun p => .mem p.2) →
    (∀ p ∈ pairs, retiredAt s p.1 = false ∧ retiredAt s p.2 = false) → (pairs.map (·.2)).Nodup →
    (∀ i ∈ js, (c.srcBytes i).length = (c.dstBytes i).length) →
    ∃ t, exec (.columnSlot b) s = .next t ∧ (∀ p ∈ pairs, byteAt t p.2 = byteAt s p.1) ∧
      (∀ x, x ∉ pairs.map (·.2) → byteAt t x = byteAt s x) ∧
      (decantOf t e.toNat).job = some { j with next := j.next + 1, bytes := j.bytes + pairs.length }) ∧
  (
  ∀ (s : State) (j : ScrubJob) (a : Active) (x : Nat), s.scrub = some j → activeOf s j.id = some a → j.next + 1 = scrubTotal s a.raw →
    locate s (regionOf s (bits a.raw 128 6)) false ((j.next / scrubRun a.raw : Nat) : Int)
      ((dfield a.raw 24 8 + 32 * (j.next % scrubRun a.raw) : Nat) : Int) = .mem x →
    x % 32 = 0 → retiredAt s x = false → (∀ u, (unitOf s u).wq = []) → ∃ t h, exec (.workComplete .scrubber) s = .next t ∧ t.scrub = none ∧
      t.hostWrites = s.hostWrites ++ [h] ∧ h.kind = .summary a.id .ok ∧ h.addr = dfield a.raw 40 8 ∧
      leNat ((h.bytes.drop 8).take 8) = (j.scanned + 8) % 2 ^ 64 ∧
      leNat ((h.bytes.drop 16).take 8) = (j.ce + countWords s (x / 4) isCorrected) % 2 ^ 64 ∧
      leNat ((h.bytes.drop 24).take 8) = (j.ue + countWords s (x / 4) (· == .uncorrectable)) % 2 ^ 64 ∧
      leNat ((h.bytes.drop 32).take 8) = (j.pr + countWords s (x / 4) (· == .marker)) % 2 ^ 64 ∧
      ∀ w, (∀ v, x / 4 ≤ w → w < x / 4 + 8 → classify (dramWord s w) (dramCheck s w) = .corrected v →
          dramWord t w = v ∧ dramCheck t w = encodeCheck v) ∧
        (w < x / 4 ∨ x / 4 + 8 ≤ w ∨ isCorrected (classify (dramWord s w) (dramCheck s w)) = false → wordKept s t w))

/-- Flag operations at their home. The oldest message in flight is applied: a set of a clear flag releases every plain waiter, then the oldest
with CLR, which clears the flag again; a clear or a test-and-clear clears it; a test leaves it; the issuer of a test receives the value
before. A change that satisfies a host kite fires it: the kite is freed, and its message goes toward its owner's event ring, or with no room
there is dropped with EQ_OVERFLOW set. Polling. A waiter without a kite polls 1024 cycles after its last poll, a unit once its credit is
asked for, a press at once; an answer that found the flag set lets the waiter go on, one that found it clear leaves it waiting. Completes:
flagHomeSet, flagHomeClear, flagHomeTestclr, flagHomeTest, kitePoll, pollAnswer. (R246, R247, R249, R250, R252, R253, R254, R256) -/
def Obligations.FlagsAndPolls : Prop :=
  (
  ∀ (f : BitVec 16) (s : State) (m : FlagMsg) (rest : List FlagMsg), s.sync.msgs = m :: rest → m.flag = f.toNat →
    (m.op = .set → m.reply = .none → flagOf s f.toNat = true → exec (.flagHomeSet f) s = .next { s with sync := { s.sync with msgs := rest } }) ∧
    (m.op = .set → m.reply = .none → flagOf s f.toNat = false →
      (∀ w ∈ s.sync.watches, w.flag = f.toNat → w.onClear = false ∧ w.kite = none ∧ ∃ i, w.holder = .desc i) →
      ∃ t, exec (.flagHomeSet f) s = .next t ∧ t.sync.msgs = rest ∧
        flagOf t f.toNat = !s.sync.watches.any (fun w => w.flag == f.toNat && w.clr) ∧
        (∀ g, g ≠ f.toNat → flagOf t g = flagOf s g) ∧
        t.sync.watches = (s.sync.watches.filter (fun w => !(w.flag == f.toNat && !w.clr))).eraseP (fun w => w.flag == f.toNat && w.clr) ∧
        (∀ w ∈ s.sync.watches, w.flag = f.toNat → w.clr = false → ∀ a ∈ t.active, w.holder = .desc a.id → a.wait = .released)) ∧
    ((m.op = .clear ∨ m.op = .testClr) → m.reply = .none → (∀ w ∈ s.sync.watches, w.flag = f.toNat → w.onClear = false) →
      ∃ t, exec (if m.op = .clear then .flagHomeClear f else .flagHomeTestclr f) s = .next t ∧ t.sync.msgs = rest ∧
        t.sync.watches = s.sync.watches ∧ ∀ g, flagOf t g = if g = f.toNat then false else flagOf s g) ∧
    (∀ (x : CoreId) (n : Nap) (rd : Nat) (clr : Bool), m.op = .test → m.reply = .core x → (procOf s x).nap = some n →
      n.why = .test f.toNat clr rd →
      exec (.flagHomeTest f) s = .next (modProc { s with sync := { s.sync with msgs := rest } } x
        (fun p => pnext (rset { p with nap := none } rd { val := if flagOf s f.toNat then 1 else 0, poison := false })))) ∧
    (∀ (w : Watch) (k : Nat) (x : Kite) (c : Instr), s.sync.watches.filter (fun v => v.flag == f.toNat) = [w] → w.holder = .host k →
      w.kite = some k → kiteOf s k = some x → m.reply = .none →
      (c = .flagHomeSet f ∧ m.op = .set ∧ flagOf s f.toNat = false ∧ w.onClear = false ∧ w.clr = false ∨
        c = .flagHomeClear f ∧ m.op = .clear ∧ flagOf s f.toNat = true ∧ w.onClear = true) →
      ∃ t, exec c s = .next t ∧ flagOf t f.toNat = !w.onClear ∧ kiteOf t k = none ∧ (∀ v ∈ t.sync.watches, v.flag ≠ f.toNat) ∧
        (0 < eqFree s x.owner → ∃ h, t.hostWrites = s.hostWrites ++ [h] ∧ h.ten = x.owner ∧
          h.kind = .event (if bit x.notify 0 then some (bits x.notify 1 3) else none) ∧
          h.bytes = [3, 0] ++ leBytes 2 x.tag.toNat ++ leBytes 4 0 ++ leBytes 8 s.time ++ leBytes 2 x.flag ++ [if x.onClear then 1 else 0, 0]
            ++ leBytes 4 x.cookie.toNat ++ leBytes 2 k ++ leBytes 6 0) ∧
        (eqFree s x.owner = 0 → t.hostWrites = s.hostWrites ∧ (tenOf t x.owner).eqOverflow = true))) ∧
  (
  ∀ (x : CoreId) (s : State) (n : Nap) (f : Nat) (clr : Bool), (procOf s x).nap = some n → n.why = .poll f clr →
    (n.answer = none → clockRuns s = true → flagHome s f ≠ 9 →
      ∃ t, exec (.kitePoll x) s = .next t ∧ t.ck = max s.ck (n.lastPoll + 1024) ∧
        (∀ b, x = .unit b → mget [] s.pwr.queues (stackOf b.toNat) = [] →
          mget [] t.pwr.queues (stackOf b.toNat) = [(t.ck, .poll b.toNat)]) ∧
        (∀ e, x = .press e → t.sync.msgs = s.sync.msgs ++
          [{ op := if clr then .testClr else .test, flag := f, ten := coreTen s x, who := coreWho x, tag := coreTag s x, reply := .core x }])) ∧
    (n.answer = some true → (∀ b, x = .unit b → (unitOf s b.toNat).st = .napping) →
      ∃ t, exec (.pollAnswer x) s = .next t ∧ (procOf t x).nap = none ∧ (procOf t x).pc = (procOf s x).pc + 1 ∧
        (∀ b, x = .unit b → (unitOf t b.toNat).st = .running)) ∧
    (n.answer = some false → exec (.pollAnswer x) s = .next (modProc s x (fun p => { p with nap := some { n with answer := none } }))))

/-- A unit's arrival at an active barrier in which it takes part: it counts, is early in the next vintage, or overruns; the stack that it
completes sends its arrival up. The fault record of an overrun bears the place of its BARR. The release. The last stack's arrival flips the
vintage, sets RELEASE_FLAG if the barrier's tenancy owns its block (else a log entry, the model's choice of log entry 127) and starts the
release to every stack; at a stack it wakes the units that arrived and are not early, and clears their arrivals. The watchdog breaks the
barrier with cause 1, ends the tasks of the units that nap in it and discards its arrivals in flight. Completes: barrierArrival,
trellisLevelArrival, barrierReleaseDown, syncWatchdogExpiry. (R262, R263, R264, R265, R268) -/
def Obligations.BarriersCountAndRelease : Prop :=
  (
  (∀ (n : BitVec 10) (b : BitVec 12) (s : State), s.sync.arrivals.any (fun a => a.bar == n.toNat && a.unit == b.toNat) = true →
    participates s n.toNat b.toNat = true → (barOf s n.toNat).st = .active →
    (mget false (barOf s n.toNat).arrived b.toNat = false →
      (dieDone { barOf s n.toNat with arrived := mset false (barOf s n.toNat).arrived b.toNat true } (stackOf b.toNat) = false ∨
        2 ≤ (barStacks (barOf s n.toNat)).length) →
      ∃ t, exec (.barrierArrival n b) s = .next t ∧ t.sync.arrivals = s.sync.arrivals.eraseP (fun a => a.bar == n.toNat && a.unit == b.toNat) ∧
        (∀ u, mget false (barOf t n.toNat).arrived u = if u = b.toNat then true else mget false (barOf s n.toNat).arrived u) ∧
        (barOf t n.toNat).vintage = (barOf s n.toNat).vintage ∧ (barOf t n.toNat).early = (barOf s n.toNat).early ∧
        ((barOf s n.toNat).firstArr = none → (barOf s n.toNat).firstTime = none → (barOf t n.toNat).firstArr = some s.elapsed) ∧
        (barOf t n.toNat).stackUp = (barOf s n.toNat).stackUp ++
          (if dieDone { barOf s n.toNat with arrived := mset false (barOf s n.toNat).arrived b.toNat true } (stackOf b.toNat)
            then [stackOf b.toNat] else [])) ∧
    (mget false (barOf s n.toNat).arrived b.toNat = true → mget false (barOf s n.toNat).early b.toNat = false →
      exec (.barrierArrival n b) s = .next (setBar { s with sync := { s.sync with arrivals := s.sync.arrivals.eraseP (fun a => a.bar == n.toNat && a.unit == b.toNat) } } n.toNat
        { barOf s n.toNat with early := mset false (barOf s n.toNat).early b.toNat true })) ∧
    (mget false (barOf s n.toNat).arrived b.toNat = true → mget false (barOf s n.toNat).early b.toNat = true →
      (procOf s (.unit b)).task.isSome = true → (procOf s (.unit b)).ended = none →
      ∃ t, exec (.barrierArrival n b) s = .next t ∧ endedWith t (.unit b) .barrierOverrun 0 ∧
        ∃ a pay, s.sync.arrivals.find? (fun a => a.bar == n.toNat && a.unit == b.toNat) = some a ∧ (procOf t (.unit b)).ended.bind (·.report) = some (true, pay) ∧
          pay.take 7 = leBytes 2 (0x1000 + b.toNat) ++ leBytes 2 a.from_.pc ++ [0x00, 0x3B] ++ leBytes 1 a.from_.loops)) ∧
  (∀ (n : BitVec 10) (k : BitVec 3) (s : State), (barOf s n.toNat).st = .active → (barOf s n.toNat).stackUp.contains k.toNat = true →
    (barOf s n.toNat).mdCount.length + 1 < (barStacks (barOf s n.toNat)).length →
    exec (.trellisLevelArrival n k) s = .next (setBar s n.toNat { barOf s n.toNat with
      stackUp := (barOf s n.toNat).stackUp.erase k.toNat, mdCount := (barOf s n.toNat).mdCount ++ [k.toNat] }))) ∧
  (
  (∀ (n : BitVec 10) (k : BitVec 3) (s : State) (b : Barrier), b = barOf s n.toNat → b.st = .active → b.members = 0 →
    b.stackUp.contains k.toNat = true → b.mdCount.length + 1 = (barStacks b).length → flagHome s b.flag ≠ 9 →
    (∀ m ∈ s.sync.msgs, m.who ≠ { kind := 7, id := n.toNat }) → (∀ w ∈ s.sync.watches, w.flag ≠ b.flag) →
    ∃ t, exec (.trellisLevelArrival n k) s = .next t ∧ (barOf t n.toNat).vintage = !b.vintage ∧
      (ownsFlag s b.ten b.flag = true → flagOf t b.flag = true) ∧
      (ownsFlag s b.ten b.flag = false → t.sync.flags = s.sync.flags ∧ (logRoom s → loggedOnce s t 0x07 0x03)) ∧
      (barOf t n.toNat).down = barStacks b ∧ (barOf t n.toNat).mdCount = [] ∧ (barOf t n.toNat).arrived = b.arrived ∧
      (barOf t n.toNat).firstTime = none) ∧
  (∀ (n : BitVec 10) (k : BitVec 3) (s : State) (b : Barrier), b = barOf s n.toNat → b.down.contains k.toNat = true → earlyIn b k.toNat = [] →
    ∃ t, exec (.barrierReleaseDown n k) s = .next t ∧ (barOf t n.toNat).down = b.down.erase k.toNat ∧
      (barOf t n.toNat).arrived = b.arrived.filter (fun e => stackOf e.1 != k.toNat) ∧
      (∀ u < 4096, u ∈ nappersOf s n.toNat → stackOf u = k.toNat → mget false b.arrived u = true → mget false b.early u = false →
        s.sync.arrivals.any (fun a => a.bar == n.toNat && a.unit == u) = false → (unitOf s u).proc.nap ≠ none → ∃ a, (unitOf t u).proc.nap = some a ∧ a.released = true)) ∧
  (∀ (n : BitVec 10) (s : State) (t0 : Nat), (barOf s n.toNat).firstArr = some t0 → (barOf s n.toNat).st = .active →
    (barOf s n.toNat).members = 0 →
    ∃ t, exec (.syncWatchdogExpiry n) s = .next t ∧ (barOf t n.toNat).st = .broken ∧ (barOf t n.toNat).cause = 1 ∧
      (barOf t n.toNat).firstArr = none ∧ (∀ a ∈ t.sync.arrivals, a.bar ≠ n.toNat) ∧
      ∀ u : BitVec 12, u.toNat ∈ nappersOf s n.toNat → (procOf s (.unit u)).task ≠ none → (procOf s (.unit u)).ended = none →
        endedWith t (.unit u) .watchdog 0))

/-- TEN_TAKE and TEN_GIVE with no switch of the block in progress: the RESULT of each refusal, the objects that change owner at once, and the
switch that begins. KIND and INDEX are those of the last TAKE or GIVE, whatever its RESULT (log entry 106). A switch ends: the object has
its new owner, RESULT is 0, and every flag of a switched block reads clear with no waiter left. Completes: switchDone, tenTake, tenGive.
(R34, R279, R280, R284, R285) -/
def Obligations.ObjectsChangeOwner : Prop :=
  (
  ∀ (ten : BitVec 8) (kind : BitVec 3) (index : BitVec 10) (give : Bool) (c : Instr) (s : State),
    c = (if give then .tenGive ten kind index else .tenTake ten kind index) → s.boot.linkUp = true → (tenOf s ten.toNat).swBusy = false →
    ∃ t, exec c s = .next t ∧ (tenOf t ten.toNat).swKind = kind.toNat ∧ (tenOf t ten.toNat).swIndex = index.toNat ∧
      ((tenOf s ten.toNat).enabled = false → (tenOf t ten.toNat).swResult = 4) ∧
      ((tenOf s ten.toNat).enabled = true → badIndex s kind.toNat index.toNat = true → (tenOf t ten.toNat).swResult = 5) ∧
      ((tenOf s ten.toNat).enabled = true → badIndex s kind.toNat index.toNat = false →
        (inTransit s kind.toNat index.toNat = true → (tenOf t ten.toNat).swResult = 1) ∧
        (inTransit s kind.toNat index.toNat = false →
          (give = true → objectOwner s kind.toNat index.toNat ≠ some ten.toNat → (tenOf t ten.toNat).swResult = 3) ∧
          (give = false → (objectOwner s kind.toNat index.toNat = none ∨ objectOwner s kind.toNat index.toNat = some ten.toNat) →
            (tenOf t ten.toNat).swResult = 0 ∧ objectOwner t kind.toNat index.toNat = some ten.toNat) ∧
          (∀ o, objectOwner s kind.toNat index.toNat = some o → (give = true ↔ o = ten.toNat) →
            (covered s kind.toNat index.toNat o = true → (tenOf t ten.toNat).swResult = 2) ∧
            (covered s kind.toNat index.toNat o = false → (tenOf t ten.toNat).swBusy = true ∧
              t.switches = s.switches ++ [{ ten := ten.toNat, kind := kind.toNat, index := index.toNat, give := give, old := o }])))) ∧
      ((tenOf t ten.toNat).swBusy = false → (tenOf t ten.toNat).swResult ≠ 0 →
        objectOwner t kind.toNat index.toNat = objectOwner s kind.toNat index.toNat)) ∧
  (
  ∀ (ten : BitVec 8) (s : State) (w : Switch), s.switches.find? (fun v => v.ten == ten.toNat) = some w →
    ∃ t, exec (.switchDone ten) s = .next t ∧ objectOwner t w.kind w.index = (if w.give then none else some ten.toNat) ∧
      (tenOf t ten.toNat).swBusy = false ∧ (tenOf t ten.toNat).swResult = 0 ∧
      (w.kind = 1 → (∀ f, f / 256 = w.index → flagOf t f = false) ∧ ∀ v ∈ t.sync.watches, v.flag / 256 ≠ w.index))

/-- Translation commands: a valid entry enters the table, or with an entry of the same range replaced waits for BUSY to clear; a refused one
sets ERROR; a read answers the entry of least GROUP_FIRST; a command while BUSY is dropped. Completes: xlatBusyClear, xlatWrite, xlatRead,
xlatInvalidate. (R286, R287, R290, R449) -/
def Obligations.TranslationCommands : Prop :=
  (∀ (ten : BitVec 8) (s : State), s.boot.linkUp = true → (tenOf s ten.toNat).xBusy = false →
    (bit (reg s (tenReg ten.toNat 0x408)) 0 = true → xlatRefused s (xlatReg s ten.toNat) = false →
      (∀ x ∈ s.xlat, x.same (xlatReg s ten.toNat) = false) →
      ∃ t, exec (.xlatWrite ten) s = .next t ∧ t.xlat = s.xlat ++ [xlatReg s ten.toNat] ∧ (tenOf t ten.toNat).xBusy = false ∧
        (tenOf t ten.toNat).xError = false) ∧
    (bit (reg s (tenReg ten.toNat 0x408)) 0 = true → xlatRefused s (xlatReg s ten.toNat) = true →
      ∃ t, exec (.xlatWrite ten) s = .next t ∧ t.xlat = s.xlat ∧ (tenOf t ten.toNat).xError = true ∧ t.log.next = (s.log.next + 1) % 2 ^ 32) ∧
    (bit (reg s (tenReg ten.toNat 0x408)) 0 = false → (∃ x ∈ s.xlat, x.same (xlatReg s ten.toNat) = true) →
      ∃ t, exec (.xlatWrite ten) s = .next t ∧ t.xlat = s.xlat ∧ (tenOf t ten.toNat).xBusy = true) ∧
    (bit (reg s (tenReg ten.toNat 0x408)) 0 = true → xlatRefused s (xlatReg s ten.toNat) = false →
      (∃ x ∈ s.xlat, x.same (xlatReg s ten.toNat) = true) →
      ∃ t, exec (.xlatWrite ten) s = .next t ∧ t.xlat = s.xlat ∧ (tenOf t ten.toNat).xBusy = true ∧ (tenOf t ten.toNat).xError = false ∧
        ∃ u, exec (.xlatBusyClear ten) t = .next u ∧ (tenOf u ten.toNat).xBusy = false ∧
          u.xlat = s.xlat.filter (fun x => !x.same (xlatReg s ten.toNat)) ++ [xlatReg s ten.toNat]) ∧
    (∀ e, firstByGroup (s.xlat.filter (fun x => x.samePage (xlatReg s ten.toNat))) = some e →
      ∃ t, exec (.xlatRead ten) s = .next t ∧ (tenOf t ten.toNat).xFound = true ∧ reg t (tenReg ten.toNat 0x408) = xlatImage e ∧ t.xlat = s.xlat) ∧
    ((∀ x ∈ s.xlat, x.samePage (xlatReg s ten.toNat) = false) →
      ∃ t, exec (.xlatRead ten) s = .next t ∧ (tenOf t ten.toNat).xFound = false ∧ bit (reg t (tenReg ten.toNat 0x408)) 0 = false) ∧
    ((∃ x ∈ s.xlat, x.meets (xlatReg s ten.toNat) = true) →
      ∃ t, exec (.xlatInvalidate ten) s = .next t ∧ (tenOf t ten.toNat).xFound = true ∧ (tenOf t ten.toNat).xBusy = true ∧ t.xlat = s.xlat)) ∧
  (∀ (ten : BitVec 8) (s : State), s.boot.linkUp = true → (tenOf s ten.toNat).xBusy = true →
    ∀ c ∈ ([.xlatWrite ten, .xlatRead ten, .xlatInvalidate ten] : List Instr),
      ∃ t, exec c s = .next t ∧ t.xlat = s.xlat ∧ t.tens = s.tens ∧ t.bar = s.bar ∧ t.log.next = (s.log.next + 1) % 2 ^ 32) ∧
  (∀ (ten : BitVec 8) (s : State) (gone new : List XEntry), (tenOf s ten.toNat).xBusy = true →
    mget ([], []) s.xlatNext ten.toNat = (gone, new) →
    ∃ t, exec (.xlatBusyClear ten) s = .next t ∧ (tenOf t ten.toNat).xBusy = false ∧
      t.xlat = s.xlat.filter (fun e => !gone.contains e) ++ new)

/-- Meters. A report adds its amount, and its picojoules by whole microjoules to meter 8; a meter that would pass its maximum stays there and
sets its saturation bit; each microsecond adds the groups owned to meter 9; the operator clears them, and acknowledges a bit that is not set
in the same cycle; a snapshot in the cycle of a clear holds the meters before it. Completes: meterReport, meterUsTick, tenMeterClear,
tenMeterSatWrite, tenSnapGo. (R291, R292, R293, R294, R295, R450) -/
def Obligations.MetersCount : Prop :=
  (∀ (s : State) (e : MeterEv) (rest : List MeterEv), s.meterQ = e :: rest → e.meter < 16 → e.meter ≠ 8 →
    mget 0 (tenOf s e.ten).meters 8 + ((tenOf s e.ten).energy + e.pj) / 1000000 < 2 ^ 64 →
    (mget 0 (tenOf s e.ten).meters e.meter + e.amount < 2 ^ 64 →
      ∃ t, exec .meterReport s = .next t ∧ t.meterQ = rest ∧
        (∀ m, mget 0 (tenOf t e.ten).meters m = mget 0 (tenOf s e.ten).meters m + (if m = e.meter then e.amount else 0)
          + (if m = 8 then ((tenOf s e.ten).energy + e.pj) / 1000000 else 0)) ∧
        (tenOf t e.ten).energy = ((tenOf s e.ten).energy + e.pj) % 1000000 ∧ (tenOf t e.ten).sat = (tenOf s e.ten).sat) ∧
    (2 ^ 64 ≤ mget 0 (tenOf s e.ten).meters e.meter + e.amount → meterFlag s e.ten = 0xFFFF →
      ∃ t, exec .meterReport s = .next t ∧ mget 0 (tenOf t e.ten).meters e.meter = 2 ^ 64 - 1 ∧ bit (tenOf t e.ten).sat e.meter = true)) ∧
  (∀ (s : State) (t0 : Nat), (existing s).Nodup → t0 ∈ existing s →
    (∀ u, mget 0 (tenOf s u).meters 9 + 256 < 2 ^ 64 ∧ mget 0 (tenOf s u).meters 14 + 256 < 2 ^ 64) →
    ∃ t, exec .meterUsTick s = .next t ∧
      ∀ m, mget 0 (tenOf t t0).meters m = mget 0 (tenOf s t0).meters m + (if m = 9 then (groupsOwned s t0).length else 0)
        + (if m = 14 then ((groupsOwned s t0).filter (fun g => throttled s (g / 32))).length else 0)) ∧
  (∀ (ten : BitVec 8) (value : BitVec 16) (s : State), s.boot.linkUp = true →
    (∃ t, exec (.tenMeterClear ten) s = .next t ∧ (∀ m, mget 0 (tenOf t ten.toNat).meters m = 0) ∧ (tenOf t ten.toNat).energy = 0 ∧
      (tenOf t ten.toNat).sat = 0 ∧ ∀ u u', exec (.tenSnapGo ten) t = .next u → exec (.tenSnapGo ten) s = .next u' →
        u.hostWrites.map (·.bytes) = u'.hostWrites.map (·.bytes)) ∧
    (∃ t, exec (.tenMeterSatWrite ten value) s = .next t ∧ (tenOf t ten.toNat).meters = (tenOf s ten.toNat).meters ∧
      ∀ i : Nat, bit (tenOf t ten.toNat).sat i = (bit (tenOf s ten.toNat).sat i && (!bit value i || bit (satSet s ten.toNat) i))) ∧
    ((tenOf s ten.toNat).snapBusy = false → ∃ t w, exec (.tenSnapGo ten) s = .next t ∧ (tenOf t ten.toNat).snapBusy = true ∧
      (tenOf t ten.toNat).snapSeq = ((tenOf s ten.toNat).snapSeq + 1) % 2 ^ 32 ∧ t.hostWrites = s.hostWrites ++ [w] ∧
      w.addr = snapAddr s ten.toNat ∧ w.kind = .opSnapshot ∧ w.bytes.length = 192))

/-- Power domains. From step 6 on, two microseconds after OFF, a requested domain asks to ramp: a group queues for the 16 credits of its stack,
the others ramp at once. A ramp's end brings it ON with every array of its units zero, or into draining if it is no longer requested;
drained, or at the limit, it goes OFF and its units keep no state. That a unit is IDLE when the ramp ends is the model's reading (log entry
34). A write of PWR_DOM_REQ sets the request of each domain present. Completes: domainMinOffExpiry, domainRampDone, domainDrained,
drainLimitExpiry, pwrDomReqWrite. (R100, R366, R367, R368, R369, R370, R371) -/
def Obligations.DomainsRampAndDrain : Prop :=
  (∀ (d : BitVec 9) (s : State), mayRamp s d.toNat = true → clockRuns s = true →
    ∃ t, exec (.domainMinOffExpiry d) s = .next t ∧ timeUntil s t ((domOf s d.toNat).since + 2 * Config.us) ∧
      (d.toNat < 256 → (domOf t d.toNat).asked = true ∧ (domOf t d.toNat).st = .off ∧
        ((∀ q ∈ mget [] s.pwr.queues (d.toNat / 32), q.1 < t.ck) →
          mget [] t.pwr.queues (d.toNat / 32) = mget [] s.pwr.queues (d.toNat / 32) ++ [(t.ck, .ramp d.toNat 16)])) ∧
      (256 ≤ d.toNat → (domOf t d.toNat).st = .ramping ∧ (domOf t d.toNat).since = t.elapsed)) ∧
  (∀ (d : BitVec 9) (s : State), (domOf s d.toNat).st = .ramping →
    (domReq s d.toNat = true → ∃ t, exec (.domainRampDone d) s = .next t ∧ (domOf t d.toNat).st = .on ∧
      (clockRuns s = true → timeUntil s t ((domOf s d.toNat).since + rampTime d.toNat)) ∧
      (d.toNat < 256 → ∀ i < 16, bankRetired s (16 * d.toNat + i) = false →
        unitOf t (16 * d.toNat + i) = { BankUnit.off with st := .idle, idleSince := t.ck, runSince := t.ck })) ∧
    (domReq s d.toNat = false → (d.toNat < 256 → inTransit s 0 d.toNat = false) →
      ∃ t, exec (.domainRampDone d) s = .next t ∧ (domOf t d.toNat).st = .draining)) ∧
  (∀ (d : BitVec 9) (s : State), (domOf s d.toNat).st = .draining →
    (drained s d.toNat = true → ∃ t, exec (.domainDrained d) s = .next t ∧ (domOf t d.toNat).st = .off ∧
      (d.toNat < 256 → ∀ i < 16, unitOf t (16 * d.toNat + i) = BankUnit.off)) ∧
    (drained s d.toNat = false → ∃ t, exec (.drainLimitExpiry d) s = .next t ∧ (domOf t d.toNat).st = .off ∧
      (d.toNat < 256 → ∀ i < 16, unitOf t (16 * d.toNat + i) = BankUnit.off))) ∧
  (∀ (w : BitVec 3) (value : Word64) (s : State), s.boot.linkUp = true →
    ∃ t, exec (.pwrDomReqWrite w value) s = .next t ∧
      ∀ d, (domPresent s d = true → d / 64 = w.toNat → domReq t d = bit value (d % 64)) ∧
        ((domPresent s d = false ∨ d / 64 ≠ w.toNat) → domReq t d = domReq s d ∧ domOf t d = domOf s d))

/-- Power and heat. A power sample enters the last hundred; the cap loop lowers the level above the cap and raises it after 1 ms below it; a
sample of sensors that have not failed raises a stack's band to the one its highest reading reaches, and halts it at 110 degrees; two near
sensors at 115 degrees latch shutdown; at ENFORCE_AT the stack takes its new level. Ten and a hundred comparisons for 1 ms and 10 ms, over
the samples held, are the model's reading (log entry 48), and so is that MEM_ACTIVE keeps its value at a shutdown (log entry 138).
Completes: powerSample, capLoopTick, sensorSample, enforceAtReached. (R8, R376, R377, R381, R383, R385, R388, R389, R390) -/
def Obligations.PowerAndHeat : Prop :=
  (∀ (power volts : BitVec 16) (s : State), s.boot.phase ≠ .off → clockRuns s = true →
    ∃ t, exec (.powerSample power volts) s = .next t ∧ t.pwr.samples = (power.toNat :: s.pwr.samples).take 100 ∧ t.pwr.volts = volts.toNat ∧
      (s.net.rateAcc < 65536 → s.elapsed < t.elapsed) ∧ (s.clk.coast = false → s.net.slew = 0 → s.net.rate = 0 → t.elapsed % (10 * Config.us) = 0)) ∧
  (∀ s : State, s.boot.phase = .sequence →
    ∃ t, exec .capLoopTick s = .next t ∧
      (averageAbove s (capW s) = true → t.pwr.kCap = max 4 (s.pwr.kCap - 1)) ∧
      (averageAbove s (capW s) = false → averageBelow s (capW s - 10) = true → 9 ≤ s.pwr.belowFor → t.pwr.kCap = min 16 (s.pwr.kCap + 1)) ∧
      (averageAbove s (capW s) = false → averageBelow s (capW s - 10) = false → t.pwr.kCap = s.pwr.kCap) ∧
      (averageAbove s (capW s) = true → s.pwr.kCap = 4 → 99 ≤ s.pwr.floorFor → t.pwr.capFloor = true)) ∧
  (∀ (rs : List (BitVec 12)) (s : State), s.boot.phase = .sequence → s.thm.failed = [] → s.thm.diffs = [] →
    ((∀ i < 544, sampleOf rs i < 460) → ∃ t, exec (.sensorSample rs) s = .next t ∧
      ∀ k < 9, ∀ h : Int, (∀ i ∈ sensorsOf k, sampleOf rs i ≤ h) → (∃ i ∈ sensorsOf k, sampleOf rs i = h) → (thmOf s k).unseen = false →
        ((thmOf s k).band < bandFor h → (thmOf t k).band = bandFor h) ∧ ((thmOf s k).band ≤ bandFor h → bandFor h ≤ (thmOf t k).band) ∧
        (440 ≤ h → (thmOf t k).halted = true)) ∧
    (∀ i j, i < j → j < 544 → nearSensors i j = true → 460 ≤ sampleOf rs i → 460 ≤ sampleOf rs j →
      ∃ t, exec (.sensorSample rs) s = .next t ∧ t.boot.phase = .shutdown ∧ t.boot.memActive = s.boot.memActive ∧ t.boot.linkUp = false ∧
        t.thm.shutdown = true ∧ t.dram = [] ∧
        t.units = [] ∧ t.active = [])) ∧
  (∀ (k : BitVec 3) (s : State) (due level : Nat), (thmOf s k.toNat).pending = some (due, level) → clockRuns s = true →
    ∃ t, exec (.enforceAtReached k) s = .next t ∧ (thmOf t k.toNat).kThr = level ∧ (thmOf t k.toNat).pending = none ∧
      timeUntil s t due)

/-- Clocks. A lost reference makes the root coast and drops the links; a second loss drops a relock request; a good reference, a request, the
PLL's lock and the move bring it back, after which the host link waits to be trained; start-up goes on locked from time 0, or after the
timeout coasting; the bypass lanes close and reopen. That a request is latched whenever the module coasts, before REF_GOOD too, is the
model's reading (log entry 94). Completes: pllLock, cxlTrainDone, refclkLost, refGood, relockSwitch, bypassClose, bypassReopen, clkRelock,
refclkStartTimeout. (R360, R362, R363, R365, R394) -/
def Obligations.ClocksCoastAndRelock : Prop :=
  (∀ s : State, s.boot.phase = .sequence →
    (s.clk.coast = false → s.clk.locked = true → ∃ t, exec .refclkLost s = .next t ∧ t.clk.coast = true ∧ t.clk.locked = false ∧
      t.clk.refGood = false ∧ t.boot.linkUp = false ∧ linkUp t 0 = false ∧ linkUp t 1 = false ∧ t.dram = s.dram ∧
      t.boot.memActive = s.boot.memActive) ∧
    (s.clk.coast = true → s.clk.relock = true → ∃ t, exec .refclkLost s = .next t ∧ t.clk.relock = false ∧ t.clk.coast = true ∧
      t.log.next = (s.log.next + 1) % 2 ^ 32) ∧
    exec .refGood s = .next { s with clk := { s.clk with refGood := true } } ∧
    (s.clk.coast = true → exec (.clkRelock false) s = .next { s with clk := { s.clk with relock := true } }) ∧
    (s.clk.coast = true → 4 ≤ s.boot.step → s.mgmt.restarting = none → ∃ t, exec (.clkRelock true) s = .next t ∧ t.clk.relock = true ∧
      t.clk.coast = true ∧ t.out = Output.reply .ok [] :: s.out) ∧
    (s.boot.step = 2 → exec .pllLock s = .next { s with boot := { s.boot with step := 3 }, time := 0, elapsed := 0, ck := 0,
                                                         clk := { s.clk with locked := true, refGood := true },
                                                         pwr := { s.pwr with phase := 0, window := 0 } }) ∧
    (s.boot.step ≠ 2 → s.clk.coast = true → s.clk.refGood = true →
      (s.boot.memActive = true → s.clk.relock = true → exec .pllLock s = .next { s with clk := { s.clk with locked := true } }) ∧
      (s.boot.memActive = false → ∃ t, exec .pllLock s = .next t ∧ t.clk.coast = false ∧ t.clk.locked = true ∧
        (s.clk.startCoast = true → (t.ck + t.pwr.phase) % 32 = t.time % 32))) ∧
    (s.clk.coast = true → s.clk.locked = true → s.clk.relock = true → ∃ t, exec .relockSwitch s = .next t ∧ t.clk.coast = false ∧
      t.clk.relock = false ∧ t.clk.locked = true ∧ t.boot.linkUp = s.boot.linkUp ∧ t.net.link = s.net.link ∧ t.dram = s.dram ∧
      t.boot.memActive = s.boot.memActive) ∧
    (s.boot.step = 8 → s.boot.perst = false → s.clk.coast = false → s.boot.linkUp = false →
      exec (.cxlTrainDone true) s = .next (emit { s with boot := { s.boot with linkUp := true } } .linkUp)) ∧
    (s.boot.step = 2 → ∃ t, exec .refclkStartTimeout s = .next t ∧ t.boot.step = 3 ∧ t.clk.coast = true ∧ t.clk.locked = false ∧
      t.elapsed = 0 ∧ t.time = 0 ∧ t.ck = 0) ∧
    (6 ≤ s.boot.step → ∀ k : BitVec 3, exec (.bypassReopen k) s =
      .next { s with clk := { s.clk with openLanes := mset false s.clk.openLanes k.toNat true } })) ∧
  (∀ (k : BitVec 3) (s : State), mget false s.clk.openLanes k.toNat = true →
    ∃ t, exec (.bypassClose k) s = .next t ∧ mget false t.clk.openLanes k.toNat = false ∧
      mget 0 t.clk.closures k.toNat = min (2 ^ 32 - 1) (mget 0 s.clk.closures k.toNat + 1))

/-- Tenancies and rings. ENABLE creates a tenancy with the registers of its block at reset, every ring disabled and nothing counted; DISABLE
removes one that owns nothing and has every ring idle; MODE changes while it owns nothing; a ring changes while it is idle and its LOG2 is
from 6 to 16, and an enabled one starts at START with phase 1; enabling the completion ring clears CQ_LOST. That a write which leaves ENABLE
is judged, and dropped with an entry, as a write of MODE even with the present value is the model's reading (log entry 88). Completes:
tenCtrlEnable, tenCtrlDisable, tenCtrlMode, ringEnable, ringDisable. (R48, R79, R274, R275, R276, R447, R448) -/
def Obligations.TenanciesAndRings : Prop :=
  (∀ (ten : BitVec 8) (mode : Bool) (s : State), s.boot.linkUp = true →
    ((tenOf s ten.toNat).enabled = false → ∃ t, exec (.tenCtrlEnable ten mode) s = .next t ∧ (tenOf t ten.toNat).enabled = true ∧
      (tenOf t ten.toNat).xlat = mode ∧ (∀ j < 6, (ringOf t ten.toNat j).enabled = false) ∧ (tenOf t ten.toNat).meters = [] ∧
      (tenOf t ten.toNat).energy = 0 ∧ (tenOf t ten.toNat).sat = 0 ∧ reg t (tenReg ten.toNat 8) = 100000 ∧ reg t (tenReg ten.toNat 0x10) = 64 ∧
      reg t (tenReg ten.toNat 0x18) = 1024 ∧ reg t (tenReg ten.toNat 0x20) = 0 ∧ ∀ u, u ≠ ten.toNat → tenOf t u = tenOf s u) ∧
    ((tenOf s ten.toNat).enabled = true →
      (mayDisable s ten.toNat = true → exec (.tenCtrlDisable ten) s =
        .next (setTen s ten.toNat { tenOf s ten.toNat with enabled := false })) ∧
      (mayDisable s ten.toNat = false → ∃ t, exec (.tenCtrlDisable ten) s = .next t ∧ t.tens = s.tens ∧
        t.log.next = (s.log.next + 1) % 2 ^ 32) ∧
      exec (.tenCtrlEnable ten mode) s = exec (.tenCtrlMode ten mode) s) ∧
    (
      (groupsOwned s ten.toNat = [] → regionsOwned s ten.toNat = [] → (∀ e ∈ xlatAll s, e.ten ≠ ten.toNat) →
        exec (.tenCtrlMode ten mode) s = .next (setTen s ten.toNat { tenOf s ten.toNat with xlat := mode })) ∧
      ((groupsOwned s ten.toNat ≠ [] ∨ regionsOwned s ten.toNat ≠ [] ∨ ∃ e ∈ xlatAll s, e.ten = ten.toNat) →
        ∃ t, exec (.tenCtrlMode ten mode) s = .next t ∧ t.tens = s.tens ∧ t.log.next = (s.log.next + 1) % 2 ^ 32))) ∧
  (∀ (ten : BitVec 8) (j : BitVec 3) (log2 : BitVec 5) (s : State), s.boot.linkUp = true → j.toNat < 6 →
    (ringIdle s ten.toNat j.toNat = true → 6 ≤ log2.toNat → log2.toNat ≤ 16 →
      ((ringOf s ten.toNat j.toNat).enabled = false → (j.toNat ≠ 4 → exec (.ringEnable ten j log2) s = .next (setRing s ten.toNat j.toNat
        { enabled := true, log2 := log2.toNat, head := ringStart s ten.toNat j.toNat, tail := ringStart s ten.toNat j.toNat,
          held := false, phase := true })) ∧
        (j.toNat = 4 → ∃ t, exec (.ringEnable ten j log2) s = .next t ∧ (ringOf t ten.toNat 4).enabled = true ∧
          (tenOf t ten.toNat).cqLost = false ∧ ((tenOf s ten.toNat).staging = [] → (tenOf s ten.toNat).held = [] →
            (ringOf t ten.toNat 4).head = ringStart s ten.toNat 4 ∧ (ringOf t ten.toNat 4).tail = ringStart s ten.toNat 4))) ∧
      exec (.ringDisable ten j log2) s = .next (setRing s ten.toNat j.toNat
        { ringOf s ten.toNat j.toNat with enabled := false, log2 := log2.toNat })) ∧
    ((ringIdle s ten.toNat j.toNat = false ∨ log2.toNat < 6 ∨ 16 < log2.toNat) →
      ∀ c ∈ ([.ringEnable ten j log2, .ringDisable ten j log2] : List Instr),
        ∃ t, exec c s = .next t ∧ t.tens = s.tens ∧ t.log.next = (s.log.next + 1) % 2 ^ 32))

/-- Region entries and retirement. An entry that meets the seven conditions of R32 becomes valid with its out-of-bounds counts at 0; one that
fails one stores its fields and stays invalid, and the first failed condition is logged; GROUP_COUNT 0 or above 256 drops the write; a valid
entry changes no field and is cleared unless busy. The split changes only while nothing is allocated. A row's entry and a bank's bit are
stored; the bit of a bank whose group is owned is not cleared. That condition 5 asks that no named group is in transit (log entry 85), and
that every write of RGN_RETIRE_ROW makes an entry (log entry 105), are the model's readings. Completes: regionValidate, regionInvalidate,
linearSplitWrite, rgnEccClear, retireRowWrite, retireBankWrite. (R26, R31, R32, R33, R38, R355, R357, R445, R446) -/
def Obligations.RegionsAndRetirement : Prop :=
  (∀ (n : BitVec 6) (v : Word64) (s : State) (r : Region), s.boot.linkUp = true → r = ctrlFields (regionOf s n.toNat) (v ||| 1) →
    ((regionOf s n.toNat).valid = false → 1 ≤ bits v 32 9 → bits v 32 9 ≤ 256 →
      ((∀ k, 1 ≤ k → k ≤ 7 → regionCondition s n.toNat r k) → ∃ t, exec (.regionValidate n v) s = .next t ∧
        regionOf t n.toNat = { r with valid := true, oobRd := 0, oobWr := 0 } ∧ ∀ m, m ≠ n.toNat → regionOf t m = regionOf s m) ∧
      (∀ c, 1 ≤ c → c ≤ 7 → (∀ k, 1 ≤ k → k < c → regionCondition s n.toNat r k) → ¬ regionCondition s n.toNat r c →
        ∃ t e, exec (.regionValidate n v) s = .next t ∧ regionOf t n.toNat = r ∧ r.valid = false ∧
        mget none t.log.entries (s.log.next % 65536) = some e ∧ e.cls = 3 ∧ e.num = 3 ∧ e.detail.getD 4 0 = BitVec.ofNat 8 c)) ∧
    ((regionOf s n.toNat).valid = false → 1 ≤ bits v 32 9 → bits v 32 9 ≤ 256 →
      exec (.regionInvalidate n v) s = .next (setRegion s n.toNat (ctrlFields (regionOf s n.toNat) v))) ∧
    ((regionOf s n.toNat).valid = false → (bits v 32 9 = 0 ∨ 256 < bits v 32 9) →
      ∀ c ∈ ([.regionValidate n v, .regionInvalidate n v] : List Instr),
        ∃ t, exec c s = .next t ∧ t.regions = s.regions ∧ t.log.next = (s.log.next + 1) % 2 ^ 32 ∧ entered s t 3 4) ∧
    ((regionOf s n.toNat).valid = true → ∃ t, exec (.regionValidate n v) s = .next t ∧ t.regions = s.regions ∧
      t.log.next = (s.log.next + 1) % 2 ^ 32) ∧
    ((regionOf s n.toNat).valid = true → regionBusy s n.toNat = false →
      exec (.regionInvalidate n v) s = .next (setRegion s n.toNat { regionOf s n.toNat with valid := false })) ∧
    ((regionOf s n.toNat).valid = true → regionBusy s n.toNat = true → ∃ t, exec (.regionInvalidate n v) s = .next t ∧
      t.regions = s.regions ∧ t.log.next = (s.log.next + 1) % 2 ^ 32)) ∧
  (∀ (v : BitVec 6) (s : State), s.boot.linkUp = true →
    (v.toNat ≤ 32 → (∀ e ∈ s.regions, e.2.valid = false) → (∀ e ∈ s.groupOwner, e.2 = none) → xlatAll s = [] →
      ∃ t, exec (.linearSplitWrite v) s = .next t ∧ split t = 2 ^ 22 * v.toNat) ∧
    ((32 < v.toNat ∨ (∃ e ∈ s.regions, e.2.valid = true) ∨ (∃ e ∈ s.groupOwner, e.2.isSome = true) ∨ xlatAll s ≠ []) →
      ∃ t, exec (.linearSplitWrite v) s = .next t ∧ t.bar = s.bar ∧ t.log.next = (s.log.next + 1) % 2 ^ 32) ∧
    (∃ t, exec .rgnEccClear s = .next t ∧ ∀ b, mget Ecc.zero t.ecc b =
      if b = bits (reg s 0x100100) 0 12 then Ecc.zero else mget Ecc.zero s.ecc b)) ∧
  (∀ (r : BitVec 10) (v : Word64) (s : State), s.boot.linkUp = true → ∃ t e, exec (.retireRowWrite r v) s = .next t ∧
    (∀ k, mget 0 t.retireRows k = if k = r.toNat then v &&& 0x00007FFF0FFF0001 else mget 0 s.retireRows k) ∧
    mget none t.log.entries (s.log.next % 65536) = some e ∧ e.cls = 3 ∧ e.num = 8) ∧
  (∀ (w : BitVec 6) (v : Word64) (s : State), s.boot.linkUp = true → ∃ t, exec (.retireBankWrite w v) s = .next t ∧
    ∀ i < 64, bankRetired t (64 * w.toNat + i) =
      (bit v i || (bankRetired s (64 * w.toNat + i) && (mget none s.groupOwner (groupOf (64 * w.toNat + i))).isSome)))

/-- Setup registers. A whole register of RW bits takes them, its ranged field at the nearest value of its range; a write of another size or
alignment writes nothing; an RWL register is fixed while MEM_ACTIVE is set. The home of an unowned flag block, the debug view, a freed kite
and the trace's capture. Completes: synBlockHomeWrite, synDbgSelect, synDbgSnapshotReady, synKiteFree, traceEnable, registerWrite. (R5, R7,
R8, R245, R255, R273, R437, R440, R442, R451, R452) -/
def Obligations.SetupRegisters : Prop :=
  (∀ (off : BitVec 24) (v : Word64) (s : State), s.boot.linkUp = true →
    (off.toNat ∈ [0x20008, 0x20010, 0x20018, 0x30028, 0x40108, 0x40110, 0x40118, 0x100100] ∨
      ∃ k o, k < 256 ∧ o ∈ [0x8, 0x10, 0x18, 0x20, 0x28, 0x30, 0x38, 0x400, 0x408, 0x888, 0x898] ∧ off.toNat = tenReg k o) →
    exec (.registerWrite off 8 v) s =
      .next (setReg s off.toNat (nearest s off.toNat (merge (reg s off.toNat) (rwMask off.toNat) v)))) ∧
  (∀ (v : Word64) (s : State), s.boot.linkUp = true → ∃ t, exec (.registerWrite 0x20008 8 v) s = .next t ∧
    capW t = max 200 (min 450 (bits v 0 10))) ∧
  (∀ (off : BitVec 24) (size : Nat) (v : Word64) (s : State), (size ≠ 8 ∨ off.toNat % 8 ≠ 0) → (size ≠ 4 ∨ off.toNat % 4 ≠ 0) →
    exec (.registerWrite off size v) s = .next s) ∧
  (∀ (off : BitVec 24) (v : Word64) (s : State), s.boot.linkUp = true → s.variant = .rl512N →
    (off.toNat ∈ [0xC00008, 0xC00030, 0xC00060, 0xC00068, 0xC00080, 0xC00088, 0xC00090, 0xC00098, 0xC000A0, 0xC000A8] ∨
      ∃ m o, m < 64 ∧ o ∈ [0, 8, 0x10] ∧ off.toNat = 0xC01000 + 0x20 * m + o) →
    (s.boot.memActive = false → exec (.registerWrite off 8 v) s =
      .next (setReg s off.toNat (merge (reg s off.toNat) (rwlMask off.toNat) v))) ∧
    (s.boot.memActive = true → ∃ t, exec (.registerWrite off 8 v) s = .next t ∧ t.bar = s.bar ∧
      ((v &&& rwlMask off.toNat) ≠ (reg s off.toNat &&& rwlMask off.toNat) → t.log.next = (s.log.next + 1) % 2 ^ 32))) ∧
  (∀ (blk : BitVec 8) (v : BitVec 4) (s : State), s.boot.linkUp = true →
    (mget none s.blockOwner blk.toNat = none → (v.toNat ≤ 8 ∨ (v.toNat = 9 ∧ s.net.pod = .member)) →
      ∃ t, exec (.synBlockHomeWrite blk v) s = .next t ∧ ∀ f, f / 256 < 256 → flagHome t f = if f / 256 = blk.toNat then v.toNat else flagHome s f) ∧
    ((mget none s.blockOwner blk.toNat ≠ none ∨ 9 < v.toNat ∨ (v.toNat = 9 ∧ s.net.pod ≠ .member)) →
      ∃ t, exec (.synBlockHomeWrite blk v) s = .next t ∧ t.bar = s.bar ∧ t.log.next = (s.log.next + 1) % 2 ^ 32)) ∧
  (∀ (v : Word64) (s : State), s.boot.linkUp = true →
    (∃ t r, exec (.synDbgSelect v) s = .next t ∧ t.sync.dbgView = none ∧ t.sync.dbgPend = some r ∧
      (bits v 0 2 = 0 → r = padTo 128 (flagView s (bits v 16 16))) ∧ (bits v 0 2 = 1 → bits v 16 16 < 1024 → r = padTo 128 (barrierView s (bits v 16 16)))) ∧
    (∀ r, s.sync.dbgPend = some r → ∃ t, exec .synDbgSnapshotReady s = .next t ∧ t.sync.dbgView = some r ∧ t.sync.dbgPend = none) ∧
    (∀ (k : BitVec 12) (x : Kite), kiteOf s k.toNat = some x → ∃ t, exec (.synKiteFree k) s = .next t ∧ kiteOf t k.toNat = none ∧
      (∀ w ∈ t.sync.watches, w.kite ≠ some k.toNat) ∧ t.hostWrites = s.hostWrites) ∧
    (bit v 0 = true → bit (reg s 0x40100) 0 = false → ∃ t, exec (.traceEnable v) s = .next t ∧ t.trace.running = true ∧ t.trace.recs = []) ∧
    (bit v 0 = false → ∃ t, exec (.traceEnable v) s = .next t ∧ t.trace.running = false ∧ t.trace.recs = s.trace.recs))

/-- The power-on sequence. Each event ends its step and no other: power good, the rails, the mask ROM, the firmware of the preferred slot or
else of the other, the links with the provisioned values, memory initialised to zeros once the domains are ON, the host link, and MEM_ACTIVE
or, held, GO. A trial is noted, reverted after an attempt that failed, and settled at step 8. A failure leaves its CAUSE and does not set
MEM_ACTIVE; step 6 then runs for the other stacks, and the sequence stays at step 7 (the model's choice, log entry 123). That the entry of a
reset is made as step 3 ends (log entry 51), that MEMORY_INIT waits for every requested domain and leaves out a stack that failed training
(log entry 76), and that a directory write postponed is lost at power good (log entry 7), are the model's readings. Completes: powerGood,
railsUp, romDone, firmwareVerify, linkTrainingDone, memoryInit, cxlTrainDone, perstDeassert, featCtrlGo, hdmDecoderCommit. (R23, R393, R394,
R396, R397, R399, R400, R403, R404, R428, R463) -/
def Obligations.StartUpSteps : Prop :=
  (∀ s : State, s.boot.phase = .off → ∃ t, exec .powerGood s = .next t ∧ t.boot.phase = .sequence ∧ t.boot.step = 1 ∧ t.boot.memActive = false ∧
    t.boot.perst = s.boot.perst ∧ t.mgmt.address = 0x50 + s.mgmt.strap.zeroExtend 7 ∧ t.mgmt.i3c = false ∧ t.tens = [] ∧ t.regions = [] ∧ t.bar = [] ∧ t.flash = { s.flash with postponed := none } ∧ t.fuses = s.fuses) ∧
  (∀ s : State, exec .perstDeassert s = .next { s with boot := { s.boot with
    perst := false, step := if s.boot.initDone = true ∧ s.boot.step = 6 then 7 else s.boot.step } }) ∧
  (∀ s : State, s.boot.phase = .sequence →
    (s.boot.step = 1 → exec (.railsUp true) s = .next { s with boot := { s.boot with step := 2 } } ∧
      ∃ t, exec (.railsUp false) s = .next t ∧ t.boot.phase = .stuck ∧ t.boot.cause = 1) ∧
    (s.boot.step = 3 → ∃ t, exec .romDone s = .next t ∧ t.boot.step = 4 ∧ t.boot.keyReady = true ∧ t.boot.secretLocked = true ∧
      t.mgmt.romSecret = (if s.boot.secretLocked = true then none else some s.fuses.secret) ∧
      (s.boot.resetDue = true → ∃ e, mget none t.log.entries (s.log.next % 65536) = some e ∧ e.cls = 8 ∧ e.num = 6)) ∧
    (s.boot.step = 4 → s.flash.postponed = none → s.flash.ruling.trial = false → s.flash.ruling.attempted = false →
      (slotGood s s.flash.ruling.preferredB = true → ∃ t, exec .firmwareVerify s = .next t ∧ t.boot.step = 5 ∧
        t.boot.slotB = s.flash.ruling.preferredB ∧ t.boot.fallback = false ∧ t.flash = s.flash) ∧
      (slotGood s s.flash.ruling.preferredB = false → slotGood s (!s.flash.ruling.preferredB) = true → ∃ t, exec .firmwareVerify s = .next t ∧
        t.boot.step = 5 ∧ t.boot.slotB = !s.flash.ruling.preferredB ∧ t.boot.fallback = true) ∧
      (slotGood s s.flash.ruling.preferredB = false → slotGood s (!s.flash.ruling.preferredB) = false → ∃ t, exec .firmwareVerify s = .next t ∧
        t.boot.phase = .recovery ∧ t.boot.cause = (if s.flash.ruling.preferredB then 2 else 3))) ∧
    (s.boot.step = 4 → s.flash.postponed = none → windowOpen s = true → ∃ t, exec .firmwareVerify s = .next t ∧
      (s.flash.ruling.attempted = true → t.flash.ruling.preferredB = !s.flash.ruling.preferredB ∧ t.flash.ruling.trial = false ∧
        t.flash.ruling.attempted = false) ∧
      (s.flash.ruling.attempted = false → s.flash.ruling.trial = true → t.flash.ruling.preferredB = s.flash.ruling.preferredB ∧
        t.flash.ruling.trial = true ∧ t.flash.ruling.attempted = true)) ∧
    (s.boot.step = 5 → s.clk.startCoast = false →
      (∃ t, exec (.linkTrainingDone none) s = .next t ∧ t.boot.step = 6 ∧ t.mgmt.prov = some s.flash.provision ∧
        t.mgmt.hold = s.flash.provision.hold ∧ ∀ k < 8, mget false t.clk.openLanes k = true) ∧
      (∀ k a, ∃ t, exec (.linkTrainingDone (some (k, a))) s = .next t ∧ t.boot.step = 6 ∧ t.boot.blocked = true ∧
        t.boot.cause = (if a then 5 else 4) ∧ t.boot.stack = k.toNat ∧ t.boot.deadStack = some k.toNat)) ∧
    (s.boot.step = 6 → s.boot.initDone = false → (rampsDone s = false → ∀ f, exec (.memoryInit f) s = .next s) ∧
      (rampsDone s = true → (∃ t, exec (.memoryInit none) s = .next t ∧ t.boot.initDone = true ∧ t.boot.step = (if s.boot.perst then 6 else 7) ∧
        t.boot.blocked = s.boot.blocked ∧
        ∀ w, s.boot.deadStack ≠ some (w / 2 ^ 34) → dramWord t w = 0 ∧ dramCheck t w = 0) ∧
      (∀ b, ∃ t, exec (.memoryInit (some b)) s = .next t ∧ t.boot.initDone = true ∧ t.boot.blocked = true ∧ t.boot.cause = 6 ∧
        t.boot.buid = b.toNat))) ∧
    (7 ≤ s.boot.step → s.boot.notReady = true → ∃ t, exec (.memoryInit none) s = .next t ∧ t.boot.notReady = false ∧ t.boot.step = s.boot.step ∧
        ∀ w, s.boot.deadStack ≠ some (w / 2 ^ 34) → dramWord t w = 0 ∧ dramCheck t w = 0) ∧
    (s.boot.step = 7 → s.boot.perst = false → s.clk.coast = false → s.boot.linkUp = false →
      (∃ t, exec (.cxlTrainDone true) s = .next t ∧ t.boot.step = (if s.boot.blocked then 7 else 8) ∧ t.boot.linkUp = true ∧
        (s.boot.blocked = false → windowOpen s = true → ((bootDir s).2.1 = true ∨ (bootDir s).2.2 = true) →
          t.flash.ruling.trial = false ∧ t.flash.ruling.attempted = false ∧ t.flash.ruling.preferredB = (bootDir s).1) ∧
        (s.boot.blocked = false → s.mgmt.hold = false → t.boot.memActive = true) ∧
        (s.boot.blocked = false → s.mgmt.hold = true → t.boot.awaitGo = true ∧ t.boot.memActive = s.boot.memActive) ∧
        (s.boot.blocked = true → t.boot.memActive = s.boot.memActive ∧ t.boot.awaitGo = s.boot.awaitGo)) ∧
      (∃ t, exec (.cxlTrainDone false) s = .next t ∧ t.boot.linkUp = false ∧ t.boot.cause = 7 ∧ t.boot.step = 7))) ∧
  (∀ s : State, s.boot.linkUp = true → (s.boot.awaitGo = true → ∃ t, exec .featCtrlGo s = .next t ∧ t.boot.memActive = true ∧ t.boot.awaitGo = false) ∧
    (s.boot.awaitGo = false → exec .featCtrlGo s = .next s) ∧
    ∀ ways, exec (.hdmDecoderCommit ways) s = .next (emit s (.decoder (ways == 1))))

/-- Resets. A warm reset keeps the stored data, MEM_ACTIVE, the locked registers and the log, and clears tenancies, regions, owners, work and
synchronisation; a cold reset also clears the registers and starts again at step 3; power loss turns the module off. Each but the loss of
power is logged. A function level reset changes nothing the model holds. Which registers a warm reset keeps (log entry 49), that nothing
else changes in a function level reset (log entry 52), when PERST# is judged (log entry 77) and the loss of a postponed directory write (log
entry 7) are the model's readings. Completes: powerLoss, perstAssert, warmReset, functionLevelReset, moduleResetCold, moduleResetWarm.
(R272, R406, R408, R409, R428, R469) -/
def Obligations.ResetsKeepAndClear : Prop :=
  (∀ (c : Instr) (s : State), ((s.boot.phase = .sequence ∧ 4 ≤ s.boot.step) ∨ s.boot.phase = .recovery) →
    ((∃ m, c = .warmReset m) ∨ (c = .moduleResetWarm ∧ s.mgmt.restarting = none)) →
    ∃ t e, exec c s = .next t ∧ t.tens = [] ∧ t.regions = [] ∧ t.groupOwner = [] ∧ t.blockOwner = [] ∧ t.barOwner = [] ∧ t.pressOwner = [] ∧
      t.xlat = [] ∧ t.active = [] ∧ t.units = [] ∧ t.presses = [] ∧ t.sync = Sync.empty ∧ t.boot.linkUp = false ∧
      t.boot.memActive = s.boot.memActive ∧ t.boot.step = s.boot.step ∧
      t.boot.notReady = (s.boot.notReady || decide (c = .warmReset true)) ∧ t.retireBanks = s.retireBanks ∧ t.retireRows = s.retireRows ∧
      (∀ o, 0xC00000 ≤ o → reg t o = reg s o) ∧ (∀ o, 0x400000 ≤ o → o < 0x800000 → reg t o = barReset o) ∧
      ((∀ u ∈ s.units, u.2.wq = []) → t.dram = s.dram ∧ t.check = s.check) ∧
      (∀ d, (domOf t d).st = .off) ∧
      mget none t.log.entries ((t.log.next + 2 ^ 32 - 1) % 2 ^ 32 % 65536) = some e ∧ e.cls = 8 ∧ e.num = 6 ∧ e.detail.getD 2 0 = 2) ∧
  (∀ (c : Instr) (s : State), s.boot.phase = .sequence → 7 ≤ s.boot.step →
    ((c = .perstAssert ∧ s.boot.perst = false) ∨ (c = .moduleResetCold ∧ s.mgmt.restarting = none)) →
    ∃ t e, exec c s = .next t ∧ t.boot.phase = .sequence ∧ t.boot.step = 3 ∧ t.boot.memActive = false ∧ t.boot.linkUp = false ∧
      t.bar = [] ∧ t.tens = [] ∧ t.regions = [] ∧ t.retireBanks = [] ∧ t.units = [] ∧ t.active = [] ∧ t.flash = { s.flash with postponed := none } ∧ t.fuses = s.fuses ∧
      mget none t.log.entries ((t.log.next + 2 ^ 32 - 1) % 2 ^ 32 % 65536) = some e ∧ e.cls = 8 ∧ e.num = 6 ∧ e.detail.getD 2 0 = 1) ∧
  (∀ s : State, s.boot.phase ≠ .off → ∃ t, exec .powerLoss s = .next t ∧ t.boot.phase = .off ∧ t.boot.linkUp = false ∧ t.dram = [] ∧ t.tens = [] ∧
    t.log = CellarLog.empty ∧ t.bar = [] ∧ t.flash = { s.flash with postponed := none } ∧ t.fuses = s.fuses) ∧
  (∀ s : State, exec .functionLevelReset s = .next s)

/-- Management commands, once the path answers and no restart runs. Each is logged; a write of flash or fuses changes them in the temperature
window and is refused with TEMP_WINDOW outside it; a revoked key stays revoked; READ_LOG answers the oldest and the next number, and the
entries from the number asked for, or from the oldest, as many as are held. In a latched shutdown the firmware runs on. An event message
leaves in band on I3C. That SET_BOOT_SLOT keeps TRIAL_ATTEMPTED is the model's reading (log entry 80). The SPDM responder over the host
link: one signed answer to each request and no other effect. GET_VERSION names 1.2 and 1.3; the algorithms are Ed448, SHA3-512 and the raw
bit stream; a chain lies in slot 0 alone, and holds the three certificates; the other answers carry its digest, the nonce, the measurements
of Table 16.9 or the tenancy's report; what is not supported is answered with UnsupportedRequest. The response and algorithm codes, and that
the signature stands last, are the model's choice (log entry 8). Completes: ehregWatchdogExpiry, directoryWriteRetry, setBootSlot,
commitSvn, revokeKey, writeProvision, readLog, firmwareUpdate, i3cAddressAssign, getVersion, getCapabilities, negotiateAlgorithms,
getDigests, getCertificate, challenge, getMeasurements, vendorDefinedRequest, spdmUnsupported, ehregRestartDone, smbusAlertResponse. (R392,
R401, R402, R410, R411, R412, R415, R416, R430, R435, R459, R460) -/
def Obligations.ManagementAndAttestation : Prop :=
  (
  (∀ s : State, mgmtUp s = true → s.mgmt.restarting = none →
    (windowOpen s = true →
      (∀ slot trial, slotGood s slot = true → ∃ t, exec (.setBootSlot slot trial) s = .next t ∧ t.flash.ruling.preferredB = slot ∧
        t.flash.ruling.trial = trial ∧ t.flash.ruling.attempted = (bootDir s).2.2 ∧ (t.flash.dir0 = s.flash.dir0 ∨ t.flash.dir1 = s.flash.dir1) ∧ t.out = .reply .ok [] :: s.out ∧ t.log.next = (s.log.next + 1) % 2 ^ 32) ∧
      (firmwareRuns s = true → (bootDir s).2.1 = false → ∃ t, exec .commitSvn s = .next t ∧
        t.fuses = { s.fuses with svn := t.fuses.svn } ∧
        t.fuses.svn.toNat = max s.fuses.svn.toNat (min 63 (imgNum (slotImage s s.boot.slotB) 16 2)) ∧ t.out = .reply .ok [] :: s.out) ∧
      (∀ k : BitVec 3, k.toNat < 4 → signedWith s false k.toNat = false → signedWith s true k.toNat = false →
        ∃ t, exec (.revokeKey k) s = .next t ∧ (∀ i : Nat, i < 4 → bit t.fuses.revoked i = (bit s.fuses.revoked i || i == k.toNat)) ∧
          t.fuses.svn = s.fuses.svn ∧ t.out = .reply .ok [] :: s.out) ∧
      (∀ p, provisionOk p = true → ∃ t, exec (.writeProvision (some p)) s = .next t ∧ t.flash = { s.flash with provision := p } ∧
        t.out = .reply .ok [] :: s.out) ∧
      (∀ img, firmwareRuns s = true → (slotGood { s with flash := if s.boot.slotB then { s.flash with slotA := img } else { s.flash with slotB := img } } (!s.boot.slotB)) = true →
        ∃ t, exec (.firmwareUpdate img) s = .next t ∧ slotImage t (!s.boot.slotB) = img ∧ t.flash.ruling.preferredB = !s.boot.slotB ∧ t.flash.ruling.trial = true ∧
          slotImage t s.boot.slotB = slotImage s s.boot.slotB ∧ t.out = .reply .ok [] :: s.out) ∧
      (∀ img, firmwareRuns s = false → ∃ t b, exec (.firmwareUpdate img) s = .next t ∧ slotImage t b = img ∧
        slotImage t (!b) = slotImage s (!b))) ∧
    (windowOpen s = false → ∀ c : Instr,
      ((∃ slot trial, c = .setBootSlot slot trial ∧ slotGood s slot = true) ∨ (∃ img, c = .firmwareUpdate img) ∨
        (∃ p, c = .writeProvision (some p) ∧ provisionOk p = true) ∨
        (∃ k : BitVec 3, c = .revokeKey k ∧ k.toNat < 4 ∧ signedWith s false k.toNat = false ∧ signedWith s true k.toNat = false) ∨ (c = .commitSvn ∧ firmwareRuns s = true ∧ (bootDir s).2.1 = false)) →
      ∃ t, exec c s = .next t ∧ t.flash = s.flash ∧ t.fuses = s.fuses ∧ t.out = .reply .tempWindow [] :: s.out) ∧
    (∀ k : BitVec 3, 4 ≤ k.toNat → ∃ t, exec (.revokeKey k) s = .next t ∧ t.fuses = s.fuses ∧ t.out = .reply .badField [] :: s.out) ∧
    (∀ (first : Word) (count : Nat), 1 ≤ count → count ≤ 32 → s.log.count ≤ 65536 → ∃ t o n older es start held, exec (.readLog first count) s = .next t ∧
      t.out = .logReply .ok o n older es :: s.out ∧ n = (s.log.next + 1) % 2 ^ 32 ∧ n = t.log.next ∧ t.log.count = min 65536 (s.log.count + 1) ∧
      o = (n + 2 ^ 32 - t.log.count) % 2 ^ 32 ∧ (older = true ↔ 2 ^ 31 ≤ (first.toNat + 2 ^ 32 - o) % 2 ^ 32) ∧
      start = (if older then o else first.toNat) ∧ held = min count (t.log.count - (start + 2 ^ 32 - o) % 2 ^ 32) ∧
      (∀ i < es.length, mget none t.log.entries ((start + i) % 2 ^ 32 % 65536) = es[i]?) ∧ es.length ≤ held ∧
      ((∀ i < held, (mget none t.log.entries ((start + i) % 2 ^ 32 % 65536)).isSome = true) → es.length = held) ∧ t.flash = s.flash)) ∧
  (∀ (a : BitVec 7) (s : State), s.boot.phase ≠ .off → ∃ t, exec (.i3cAddressAssign a) s = .next t ∧ t.mgmt.i3c = true ∧ t.mgmt.address = a ∧
    (s.mgmt.i3c = false → s.mgmt.event = true → t.mgmt.event = false ∧ t.out.head? = some .inBand) ∧
    (s.mgmt.i3c = true ∨ s.mgmt.event = false → t.out = s.out ∧ t.mgmt.event = s.mgmt.event)) ∧
  (∀ s : State, s.boot.phase ≠ .off → s.mgmt.i3c = false → s.mgmt.event = true → s.mgmt.alertShut = false →
    exec .smbusAlertResponse s = .next (emit { s with mgmt := { s.mgmt with event := false } } (.alert false))) ∧
  (∀ s : State, firmwareRuns s = true → s.mgmt.restarting = none → ∃ t, exec .ehregWatchdogExpiry s = .next t ∧
    t.mgmt.restarting = some s.elapsed ∧ t.log.next = (s.log.next + 1) % 2 ^ 32 ∧
    (∃ e, mget none t.log.entries (s.log.next % 65536) = some e ∧ e.cls = 8 ∧ e.num = 5 ∧ e.detail.head? = some (if s.boot.slotB then 1 else 0)) ∧ t.units = s.units ∧ t.active = s.active) ∧
  (∀ s : State, firmwareRuns s = true ↔ ((s.boot.phase = .sequence ∨ s.boot.phase = .shutdown) ∧ 5 ≤ s.boot.step)) ∧
  (∀ s : State, exec .ehregRestartDone s = .next { s with mgmt := { s.mgmt with restarting := none } }) ∧
  (∀ (s : State) (d : Bool × Bool × Bool), s.flash.postponed = some d → s.boot.phase = .sequence → windowOpen s = true →
    ∃ t, exec .directoryWriteRetry s = .next t ∧ t.flash.ruling.preferredB = d.1 ∧ t.flash.ruling.trial = d.2.1 ∧
      t.flash.ruling.attempted = d.2.2 ∧ t.flash.postponed = none)) ∧
  (
  ∀ s : State, s.boot.linkUp = true → s.boot.keyReady = true → firmwareRuns s = true →
    exec .getVersion s = .next (emit s (signedAnswer s 0x04 [0x12, 0x13])) ∧
    exec .getCapabilities s = .next (emit s (signedAnswer s 0x61 [])) ∧
    exec .negotiateAlgorithms s = .next (emit s (signedAnswer s 0x63 (leBytes 4 (2 ^ 0) ++ leBytes 4 (2 ^ 11) ++ leBytes 4 (2 ^ 5)))) ∧
    exec .getDigests s = .next (emit s (signedAnswer s 0x01 (sha3 (certificates s).flatten))) ∧
    (certificates s).length = 3 ∧ exec (.getCertificate 0) s = .next (emit s (signedAnswer s 0x02 (certificates s).flatten)) ∧
    (∀ nonce, exec (.challenge nonce) s = .next (emit s (signedAnswer s 0x03 (sha3 (certificates s).flatten ++ leBytes 32 nonce.toNat)))) ∧
    (∀ nonce, exec (.getMeasurements 0 nonce) s = .next (emit s (signedAnswer s 0x60 (6 :: leBytes 32 nonce.toNat)))) ∧
    (∀ (i : BitVec 8) nonce, 1 ≤ i.toNat → i.toNat ≤ 6 → exec (.getMeasurements i nonce) s =
      .next (emit s (signedAnswer s 0x60 (leBytes 1 i.toNat ++ measurement s i.toNat ++ leBytes 32 nonce.toNat)))) ∧
    (∀ nonce, exec (.getMeasurements 255 nonce) s = .next (emit s (signedAnswer s 0x60
      ([1, 2, 3, 4, 5, 6].flatMap (fun i => leBytes 1 i ++ measurement s i) ++ leBytes 32 nonce.toNat)))) ∧
    (∀ (ten : BitVec 8) nonce, exec (.vendorDefinedRequest 1 ten nonce) s = .next (emit s (.spdm (0x7E ::
      (tenancyReport s ten.toNat nonce ++ Config.ed448Sign (attestKey s) tenancyContext (tenancyReport s ten.toNat nonce)).map (·.toNat))))) ∧
    (∀ k, exec (.spdmUnsupported k) s = .next (emit s (signedAnswer s 0x7F [0x07]))) ∧
    (∀ c : Instr, ((∃ slot, c = .getCertificate slot ∧ slot ≠ 0) ∨
        (∃ i nonce, c = .getMeasurements i nonce ∧ 7 ≤ i.toNat ∧ i.toNat ≤ 254) ∨ (∃ k ten nonce, c = .vendorDefinedRequest k ten nonce ∧ k ≠ 1)) →
      exec c s = .next (emit s (signedAnswer s 0x7F [0x01]))))

/-- A tenancy's page. Reads give the status word, 0 from write-only locations, all-ones elsewhere; a tail within the ring's reach enters its
ring and any other holds it; a head of the module's rings frees entries; a free slot takes a whole descriptor. Every other access is
discarded and logged with its violation number. That an access which spans a location of the page and reserved offsets counts whole as one
to a reserved offset is the model's choice (log entry 109). What a page discards. A doorbell of another size or place is violation 0x01; one
whose ring id names no ring, or a ring that is not enabled, or with reserved bits, is 0x02; a tail or head out of reach is 0x03, 0x04 or
0x05: 0x02 to 0x05 also leave a fault record. A write to a part of a slot or across slots is 0x06. A write of any kind to the page of a
tenancy that does not exist is 0x0A. Completes: controlPageInvalidAccess, doorbellSubmission, doorbellHead, directSlotWrite. (R42, R44, R66,
R67, R68, R69, R74, R75, R76, R88, R431) -/
def Obligations.PageAccesses : Prop :=
  (
  (∀ (ten : BitVec 8) (off : BitVec 16) (len : Nat) (v : Word64) (s : State), s.boot.linkUp = true → logRoom s →
    ((tenOf s ten.toNat).enabled = true →
      ((off.toNat + len ≤ 8 ∨ (0x1000 ≤ off.toNat ∧ off.toNat + len ≤ 0x1400)) → exec (.controlPageInvalidAccess ten off len false v) s =
        .next (emit s (.readData (pageMa ten.toNat off.toNat) (List.replicate len 0) false))) ∧
      (0x100 ≤ off.toNat → off.toNat + len ≤ 0x108 → exec (.controlPageInvalidAccess ten off len false v) s =
        .next (emit s (.readData (pageMa ten.toNat off.toNat) (((leBytes 8 (statusWord s ten.toNat).toNat).drop (off.toNat - 0x100)).take len) false)))) ∧
    (((tenOf s ten.toNat).enabled = false ∨ (8 < off.toNat + len ∧ (off.toNat < 0x1000 ∨ 0x1400 < off.toNat + len) ∧
        (off.toNat < 0x100 ∨ 0x108 < off.toNat + len))) →
      ∃ t e, exec (.controlPageInvalidAccess ten off len false v) s = .next t ∧
        t.out = .readData (pageMa ten.toNat off.toNat) (List.replicate len 0xFF) false :: s.out ∧ t.tens = s.tens ∧
        mget none t.log.entries (s.log.next % 65536) = some e ∧ e.cls = 1 ∧ e.num = (if (tenOf s ten.toNat).enabled then 9 else 10)) ∧
    ((tenOf s ten.toNat).enabled = true → 8 ≤ off.toNat → (off.toNat < 0x1000 ∨ 0x1400 ≤ off.toNat) →
      ∃ t e, exec (.controlPageInvalidAccess ten off len true v) s = .next t ∧ t.tens = s.tens ∧ t.active = s.active ∧
        mget none t.log.entries (s.log.next % 65536) = some e ∧ e.cls = 1 ∧
        e.num = (if 0x100 ≤ off.toNat ∧ off.toNat + len ≤ 0x108 then 8 else 9))) ∧
  (∀ (ten : BitVec 8) (v : Word64) (s : State) (j : Nat) (r : Ring), s.boot.linkUp = true → (tenOf s ten.toNat).enabled = true →
    logRoom s → bits v 16 4 = j → j < 4 → bits v 20 44 = 0 → ringOf s ten.toNat j = r → r.enabled = true →
    ((r.tail - r.head).toNat ≤ (BitVec.ofNat 16 (bits v 0 16) - r.head).toNat →
      (BitVec.ofNat 16 (bits v 0 16) - r.head).toNat ≤ 2 ^ r.log2 - 1 →
      ∃ t, exec (.doorbellSubmission ten 0 8 v) s = .next t ∧
        ringOf t ten.toNat j = { r with tail := BitVec.ofNat 16 (bits v 0 16), held := false } ∧ t.log = s.log) ∧
    (((BitVec.ofNat 16 (bits v 0 16) - r.head).toNat < (r.tail - r.head).toNat ∨
        2 ^ r.log2 - 1 < (BitVec.ofNat 16 (bits v 0 16) - r.head).toNat) →
      ∃ t, exec (.doorbellSubmission ten 0 8 v) s = .next t ∧ ringOf t ten.toNat j = { r with held := true } ∧
        t.log.next = (s.log.next + 1) % 2 ^ 32)) ∧
  (∀ (ten : BitVec 8) (v : Word64) (s : State) (j : Nat) (r : Ring), s.boot.linkUp = true → (tenOf s ten.toNat).enabled = true →
    logRoom s → (bits v 16 4 = 8 ∧ j = 4 ∨ bits v 16 4 = 9 ∧ j = 5) → bits v 20 44 = 0 → ringOf s ten.toNat j = r → r.enabled = true →
    ((BitVec.ofNat 16 (bits v 0 16) - r.head).toNat ≤ (r.tail - r.head).toNat →
      ∃ t, exec (.doorbellHead ten 0 8 v) s = .next t ∧ (ringOf t ten.toNat j).head = BitVec.ofNat 16 (bits v 0 16) ∧
        (j = 4 → (tenOf t ten.toNat).cqLost = false) ∧ (j = 5 → (tenOf t ten.toNat).eqOverflow = false)) ∧
    ((r.tail - r.head).toNat < (BitVec.ofNat 16 (bits v 0 16) - r.head).toNat →
      ∃ t, exec (.doorbellHead ten 0 8 v) s = .next t ∧ (ringOf t ten.toNat j).head = r.head ∧ t.log.next = (s.log.next + 1) % 2 ^ 32)) ∧
  (∀ (ten : BitVec 8) (k : BitVec 4) (off : BitVec 16) (d : Descriptor) (s : State), s.boot.linkUp = true →
    (tenOf s ten.toNat).enabled = true → logRoom s → off.toNat = 0x1000 + 64 * k.toNat →
    (mget none (tenOf s ten.toNat).slots k.toNat = none → exec (.directSlotWrite ten off 64 d) s =
      .next (modTen s ten.toNat (fun x => { x with slots := mset none x.slots k.toNat (some d) }))) ∧
    (mget none (tenOf s ten.toNat).slots k.toNat ≠ none → ∃ t e, exec (.directSlotWrite ten off 64 d) s = .next t ∧ t.tens = s.tens ∧
      mget none t.log.entries (s.log.next % 65536) = some e ∧ e.cls = 1 ∧ e.num = 7))) ∧
  (
  (∀ (ten : BitVec 8) (off : BitVec 3) (size : Nat) (v : Word64) (s : State), s.boot.linkUp = true → (tenOf s ten.toNat).enabled = true → logRoom s →
    ∀ c ∈ ([.doorbellSubmission ten off size v, .doorbellHead ten off size v] : List Instr),
    ((size ≠ 8 ∨ off ≠ 0) → ∃ t, exec c s = .next t ∧ discarded s t ten.toNat 1 0 size off.toNat 0 v.toNat ∧ t.tens = s.tens) ∧
    (size = 8 → off = 0 → ∀ id, id = bits v 16 4 →
      ((∀ j, ¬ ((id < 4 ∧ j = id) ∨ (id = 8 ∧ j = 4) ∨ (id = 9 ∧ j = 5)) ∨ bits v 20 44 ≠ 0 ∨ (ringOf s ten.toNat j).enabled = false) →
        ∃ t, exec c s = .next t ∧ discarded s t ten.toNat 2 id 8 0 0 v.toNat ∧ (∀ j, ringOf t ten.toNat j = ringOf s ten.toNat j) ∧
          (0 < eqFree s ten.toNat → faultWritten s t ten.toNat 0 .badField s.time (leBytes 2 (0xA000 + id) ++ [2, 8, 0, 0, 0, 0] ++ leBytes 8 v.toNat))) ∧
      (∀ (j : Nat) (r : Ring) (ahead : Nat), bits v 20 44 = 0 → ringOf s ten.toNat j = r → r.enabled = true →
        ahead = (BitVec.ofNat 16 (bits v 0 16) - r.head).toNat →
        (id < 4 → j = id → (2 ^ r.log2 - 1 < ahead ∨ ahead < (r.tail - r.head).toNat) →
          ∃ t n, exec c s = .next t ∧ n = (if 2 ^ r.log2 - 1 < ahead then 3 else 4) ∧ discarded s t ten.toNat n id 8 0 r.tail.toNat v.toNat ∧
            (ringOf t ten.toNat j).held = true ∧
            (0 < eqFree s ten.toNat → faultWritten s t ten.toNat 0 .ringIndexInvalid s.time
              (leBytes 2 (0xA000 + id) ++ [BitVec.ofNat 8 n, 8, 0, 0] ++ leBytes 2 r.tail.toNat ++ leBytes 8 v.toNat))) ∧
        ((id = 8 ∧ j = 4 ∨ id = 9 ∧ j = 5) → (r.tail - r.head).toNat < ahead →
          ∃ t, exec c s = .next t ∧ discarded s t ten.toNat 5 id 8 0 r.head.toNat v.toNat ∧ ringOf t ten.toNat j = r ∧
            (0 < eqFree s ten.toNat → faultWritten s t ten.toNat 0 .ringIndexInvalid s.time
              (leBytes 2 (0xA000 + id) ++ [5, 8, 0, 0] ++ leBytes 2 r.head.toNat ++ leBytes 8 v.toNat)))))) ∧
  (∀ (ten : BitVec 8) (off : BitVec 16) (size : Nat) (d : Descriptor) (v : Word64) (s : State), s.boot.linkUp = true →
    ((tenOf s ten.toNat).enabled = true →
      (logRoom s → 0x1000 ≤ off.toNat → off.toNat < 0x1400 → (size ≠ 64 ∨ off.toNat % 64 ≠ 0) →
        ∃ t, exec (.directSlotWrite ten off size d) s = .next t ∧
          discarded s t ten.toNat 6 (16 + (off.toNat - 0x1000) / 64) size off.toNat 0 (dfield d 0 8) ∧ t.tens = s.tens) ∧
      exec (.controlPageInvalidAccess ten off size true v) s = exec (.directSlotWrite ten off size (BitVec.ofNat 512 v.toNat)) s ∧
      (off.toNat < 8 → exec (.controlPageInvalidAccess ten off size true v) s = exec (.doorbellSubmission ten (BitVec.ofNat 3 off.toNat) size v) s)) ∧
    ((tenOf s ten.toNat).enabled = false → logRoom s →
      ∀ c ∈ ([.doorbellSubmission ten (BitVec.ofNat 3 off.toNat) size v, .doorbellHead ten (BitVec.ofNat 3 off.toNat) size v,
              .directSlotWrite ten off size d, .controlPageInvalidAccess ten off size true v] : List Instr),
        ∃ t, exec c s = .next t ∧ t.tens = s.tens ∧ t.active = s.active ∧ t.meterQ = s.meterQ ∧ entered s t 1 10)))

/-- Fetches. A ring with room reads its next entries from host memory and its head passes them; answered entries enter the M-die queue in index
order; a failed one completes with FETCH_POISON and its ring index; a program that arrives whole belongs to its load, and a load whose fetch
fails completes. Completes: ringFetch, fetchReturn, fetchTimeout, programFetchReturn. (R61, R63, R70, R71, R83, R86) -/
def Obligations.FetchesReturn : Prop :=
  (∀ (ten : BitVec 8) (j : BitVec 2) (s : State), (∀ f, oldestFetch s ten.toNat j.toNat = some f → f.answer = none) →
    (fetchCount s ten.toNat j.toNat = 0 → exec (.ringFetch ten j) s = .next s) ∧
    (0 < fetchCount s ten.toNat j.toNat → fetchCount s ten.toNat j.toNat ≤ 8 ∧ ∃ t, exec (.ringFetch ten j) s = .next t ∧
      t.fetches = s.fetches ++ [{ id := s.nextId, ten := ten.toNat, ring := j.toNat, first := (ringOf s ten.toNat j.toNat).head,
                                  count := fetchCount s ten.toNat j.toNat, at_ := s.elapsed, answer := none }] ∧
      t.out = .hostRead (ringBase s ten.toNat j.toNat + (ringOf s ten.toNat j.toNat).head.toNat % 2 ^ (ringOf s ten.toNat j.toNat).log2 * 64)
        (64 * fetchCount s ten.toNat j.toNat) :: s.out ∧
      (ringOf t ten.toNat j.toNat).head = (ringOf s ten.toNat j.toNat).head + BitVec.ofNat 16 (fetchCount s ten.toNat j.toNat))) ∧
  (∀ (s : State) (f : Fetch), f ∈ s.fetches → (s.fetches.map (·.id)).Nodup → f.answer = none → oldestFetch s f.ten f.ring = some f → f.count ≤ 8 →
    (∀ g ∈ s.fetches, g.ten = f.ten → g.ring = f.ring → g.answer = none) →
    (∀ ds : List Descriptor, ds.length = f.count → ∃ t, exec (.fetchReturn f.id (ds.map some)) s = .next t ∧
      t.fetched = s.fetched ++ ds.zipIdx.map (fun d =>
        { ten := f.ten, src := .ring (BitVec.ofNat 2 f.ring), index := f.first + BitVec.ofNat 16 d.2, raw := d.1 }) ∧
      ∀ g ∈ t.fetches, g.id ≠ f.id) ∧
    (f.count = 1 → ringRoom s f.ten →
      ∀ c ∈ ([.fetchReturn f.id [none], .fetchTimeout f.id] : List Instr), ∃ t w, exec c s = .next t ∧ t.hostWrites = s.hostWrites ++ [w] ∧
        w.ten = f.ten ∧ w.kind = .completion none ∧ w.bytes.take 3 = [0, 0, 0x0A] ∧ (w.bytes.drop 4).take 4 = leBytes 4 f.first.toNat ∧ t.fetched = s.fetched)) ∧
  (∀ (s : State) (a : Active) (id : Nat), activeOf s id = some a → isLoad a.raw = true → a.prog = none → dfield a.raw 17 1 = 0 →
    (∀ ws : List Word64, ws.length = dfield a.raw 20 2 → ∃ t b, exec (.programFetchReturn id (some ws)) s = .next t ∧
      b ∈ t.active ∧ b.id = id ∧ b.prog = some ws ∧ b.raw = a.raw) ∧
    (∃ t, exec (.programFetchReturn id none) s = .next t ∧ activeOf t id = none) ∧
    (a.fetchAt.isSome = true → (∀ f ∈ s.fetches, f.id ≠ id) → ∃ t, exec (.fetchTimeout id) s = .next t ∧ activeOf t id = none))

/-- The dispatcher. It takes the tenancies round robin, of each the slots in order and then its rings round robin. The head of the source whose
turn it is is judged by R54: accepted it becomes an active descriptor, refused it leaves a completion record with its status; any other head
stays. That a head which may not be taken yet gives its turn to the next is the model's choice (log entry 20). What acceptance decides. An
OPCODE outside 1 to 14 is BAD_OPCODE; a NOP or FENCE with every other field zero and no flag is accepted; a nonzero reserved field is
BAD_FIELD; a flag of another tenancy is NOT_OWNER. That NOT_OWNER comes before PEER_UNREACHABLE for a flag homed at the manager is the
model's reading (log entry 21). Completes: nop, buRun, buLoad, decantCopy, pressRun, pressLoad, flagSet, flagClear, kiteArm, barrierInit,
fence, scrub, netSend, meterSnap, badOpcodeDescriptor. (R14, R51, R52, R53, R54, R55, R72, R245, R291) -/
def Obligations.AcceptanceJudged : Prop :=
  (
  (∀ e ∈ ([(.nop, (· == 0x01)), (.buRun, (· == 0x02)), (.buLoad, (· == 0x03)), (.decantCopy, (· == 0x04)), (.pressRun, (· == 0x05)),
          (.pressLoad, (· == 0x06)), (.flagSet, (· == 0x07)), (.flagClear, (· == 0x08)), (.kiteArm, (· == 0x09)), (.barrierInit, (· == 0x0A)),
          (.fence, (· == 0x0B)), (.scrub, (· == 0x0C)), (.netSend, (· == 0x0D)), (.meterSnap, (· == 0x0E)),
          (.badOpcodeDescriptor, (fun o => o == 0 || decide (14 < o)))] :
        List ((BitVec 8 → Sys2Proof.Source → Instr) × (Nat → Bool))),
    ∀ (ten : BitVec 8) (src : Sys2Proof.Source) (s : State) (d : Descriptor), headOf s ten.toNat src = some d →
      ((e.2 (dOp d) = false ∨ nextSource s ≠ some (ten.toNat, src)) → exec (e.1 ten src) s = .next s) ∧
      (e.2 (dOp d) = true → nextSource s = some (ten.toNat, src) →
        (acceptStatus s ten.toNat src d = none → activeOf s s.nextId = none → (∀ x ∈ executorsOf s ten.toNat d, partHalted s x = false) →
          ∃ t a, exec (e.1 ten src) s = .next t ∧ activeOf t s.nextId = some a ∧ a.raw = d ∧ a.ten = ten.toNat ∧ a.src = src ∧
            a.index = headIndex s ten.toNat src ∧ a.started = none ∧ a.wait = (if (dWait d).isSome then .waiting else .none) ∧ a.toFinish = executorsOf s ten.toNat d ∧
            t.meterQ = s.meterQ ++ [{ ten := ten.toNat, meter := 10, amount := 1, pj := 0 }] ∧ t.log = s.log) ∧
        (∀ st, acceptStatus s ten.toNat src d = some st → dFlag d 2 = false → ringRoom s ten.toNat →
          ∃ t w, exec (e.1 ten src) s = .next t ∧ t.active = s.active ∧ t.hostWrites = s.hostWrites ++ [w] ∧ w.ten = ten.toNat ∧
            w.bytes.take 3 = leBytes 2 (dTag d).toNat ++ leBytes 1 st.code ∧ t.meterQ = s.meterQ ++ [{ ten := ten.toNat, meter := 11, amount := 1, pj := 0 }]))) ∧
  (∀ (s : State) (ten : Nat) (src : Sys2Proof.Source), nextSource s = some (ten, src) →
    headReady s ten src = true ∧ (∀ k, headReady s ten (.slot k) = true → ∃ j, src = .slot j ∧ j.toNat ≤ k.toNat) ∧
    (∀ k j, src = .ring k → headReady s ten (.ring j) = true →
      (k.toNat + 3 + 4 - (tenOf s ten).ringLast % 4) % 4 ≤ (j.toNat + 3 + 4 - (tenOf s ten).ringLast % 4) % 4) ∧
    ((existing s).Pairwise (· < ·) → s.dispLast < 256 → ∀ u ∈ existing s, (∀ v ∈ existing s, v < 256) → (∃ x, headReady s u x = true) →
      (ten + 255 - s.dispLast) % 256 ≤ (u + 255 - s.dispLast) % 256)) ∧
  (∀ s : State, nextSource s = none → ∀ t ∈ existing s, ∀ x, headReady s t x = false)) ∧
  (
  ∀ (s : State) (t : Nat) (src : Sys2Proof.Source) (d : Descriptor),
    ((dOp d = 0 ∨ 14 < dOp d) → acceptStatus s t src d = some .badOpcode) ∧
    (1 ≤ dOp d → dOp d ≤ 14 → (dOp d ≠ 13 ∨ s.variant = .rl512N) → bits d 13 3 ≠ 0 → acceptStatus s t src d = some .badField) ∧
    ((dOp d = 1 ∨ dOp d = 11) → bits d 13 3 = 0 → dFlag d 4 = false → dfield d 8 56 = 0 →
      (dWait d = none → dSignal d = none → acceptStatus s t src d = none) ∧
      (∀ f, dWait d = some f → ownsFlag s t f = false → acceptStatus s t src d = some .notOwner) ∧
      (∀ f, dWait d = some f → dSignal d = none → ownsFlag s t f = true → inTransit s 1 (f / 256) = false →
        (flagHome s f ≠ 9 → acceptStatus s t src d = none) ∧
        (flagHome s f = 9 → s.net.pod ≠ .member → acceptStatus s t src d = some .peerUnreachable))))

/-- The life of a descriptor. It enters its executor's queue behind the others; at the head it registers its wait, or is released at once by a
set flag; it starts, and the sync unit, the meter unit and the dispatcher act on it; with its last part it completes; the wait limit ends
it. The start of a descriptor at the head of its executor's queue. A unit's run asks for its credit, and a unit asleep to be woken, and its
task does not start before; a press's task starts; a decant engine and the scrubber begin their work, nothing of it done; the network engine
sends the READ, or the frames of the WRITE and the SET of RSIGNAL; for a member out of reach (not in the pod, quarantined, or whose peer
entry is not valid) it ends with PEER_UNREACHABLE. The end of work. A unit's task that has ended is reported once its write queue is empty
and its arrivals are judged: the unit is IDLE, its history holds the task first, and the descriptor completes with the task's status and
DETAIL; until then nothing changes. A press's waits for its host writes. A fault of either leaves its fault record, and an end but OK its
entry in the log, with the time of the end. A decant engine completes with the bytes written once every step is done, the network engine
with its oldest send that is over. Completes: descriptorEnqueue, descriptorWaitRegister, waitLimitExpiry, descriptorStart, workComplete,
pressTaskStart. (R56, R57, R59, R64, R73, R106, R225, R251, R256, R260, R295, R323) -/
def Obligations.DescriptorsLive : Prop :=
  (
  (∀ (x : Executor) (s : State),
    (∀ a, s.active.find? (fun a => mayEnter s a x || mayPlace s a x) = some a →
      (a.placed = true → ∃ t, exec (.descriptorEnqueue x) s = .next t ∧ execQueue t x = execQueue s x ++ [a.id]) ∧
      (a.placed = false → ∃ t, exec (.descriptorEnqueue x) s = .next t ∧
        ∀ b ∈ t.active, b.id = a.id → b.placed = true ∧ b.toFinish = [x])) ∧
    (s.active.find? (fun a => mayEnter s a x || mayPlace s a x) = none → exec (.descriptorEnqueue x) s = .next s)) ∧
  (∀ (x : Executor) (s : State) (a : Active) (f : Nat), (heads s x).find? (fun a => a.wait == .waiting) = some a → dWait a.raw = some f →
    flagHome s f ≠ 9 → (∀ m ∈ s.sync.msgs, m.who ≠ execWho x a.src) →
    (flagOf s f = false → ∃ t, exec (.descriptorWaitRegister x) s = .next t ∧ t.sync.watches = s.sync.watches ++
        [{ flag := f, onClear := false, clr := dFlag a.raw 3, holder := .desc a.id, kite := none, who := execWho x a.src, tag := dTag a.raw }] ∧
      ∀ b ∈ t.active, b.id = a.id → b.wait = .registered s.elapsed) ∧
    (flagOf s f = true → dFlag a.raw 3 = false → ∃ t, exec (.descriptorWaitRegister x) s = .next t ∧ t.sync = s.sync ∧
      ∀ b ∈ t.active, b.id = a.id → b.wait = .released)) ∧
  (∀ (s : State) (a : Active), (heads s .dispatcher).find? waitOver = some a →
    ∃ t, exec (.descriptorStart .dispatcher) s = .next t ∧ t.dispDQ = unqueue s.dispDQ a.id ∧
      ∀ b ∈ t.active, b.id = a.id → b.started = some s.time) ∧
  (∀ (s : State) (a : Active) (f : Nat), (heads s .sync).find? waitOver = some a → f = dfield a.raw 16 2 →
    ((dOp a.raw = 7 ∨ dOp a.raw = 8) → flagHome s f ≠ 9 → ∃ t, exec (.descriptorStart .sync) s = .next t ∧ t.sync.msgs = s.sync.msgs ++
      [{ op := if dOp a.raw = 7 then .set else .clear, flag := f, ten := a.ten, who := execWho .sync a.src, tag := dTag a.raw, reply := .desc a.id }] ∧
      t.syncDQ = unqueue s.syncDQ a.id) ∧
    (dOp a.raw = 9 → flagHome s f ≠ 9 → bit a.raw 144 = false → flagOf s f = false → (∀ m ∈ s.sync.msgs, m.who ≠ { kind := 6, id := srcId a.src }) →
      ∀ k, freeKiteFor s a.ten = some k → ∃ t x, exec (.descriptorStart .sync) s = .next t ∧ kiteOf t k = some x ∧ x.owner = a.ten ∧
        x.flag = f ∧ x.onClear = false ∧ x.cookie = BitVec.ofNat 32 (dfield a.raw 20 4) ∧
        (∃ w, t.sync.watches = s.sync.watches ++ [w] ∧ w.flag = f ∧ w.kite = some k ∧ w.holder = .host k) ∧
        ∀ b ∈ t.active, b.id = a.id → b.answered = true ∧ b.detail = k) ∧
    (dOp a.raw = 10 → nappersOf s (bits a.raw 128 10) = [] → ∃ t, exec (.descriptorStart .sync) s = .next t ∧
      (barOf t (bits a.raw 128 10)).st = .active ∧ (barOf t (bits a.raw 128 10)).vintage = false ∧
      (barOf t (bits a.raw 128 10)).flag = dfield a.raw 18 2 ∧ (barOf t (bits a.raw 128 10)).arrived = [] ∧
      (∀ u < 4096, participates t (bits a.raw 128 10) u = (bit a.raw (192 + u / 16) && !bankRetired s u)))) ∧
  (∀ (s : State) (a : Active), (heads s .meter).find? waitOver = some a → ∃ t w, exec (.descriptorStart .meter) s = .next t ∧
    t.hostWrites = s.hostWrites ++ [w] ∧ w.kind = .snapshot a.id ∧ w.addr = dfield a.raw 16 8 ∧ w.bytes.length = 192 ∧
    t.meterDQ = unqueue s.meterDQ a.id) ∧
  (∀ (x : Executor) (s : State) (a : Active), (x = .dispatcher ∨ x = .sync ∧ a.answered = true) →
    s.active.find? (fun b => b.toFinish.contains x && b.started.isSome && (x != .sync || b.answered)) = some a → activeOf s a.id = some a →
    a.toFinish = [x] → a.toEnter = [] → ∃ t, exec (.workComplete x) s = .next t ∧ activeOf t a.id = none) ∧
  (∀ (s : State) (a : Active) (id since : Nat) (x : Executor), activeOf s id = some a → a.wait = .registered since → a.toFinish = [x] →
    a.toEnter = [] → ∃ t, exec (.waitLimitExpiry id) s = .next t ∧ activeOf t id = none ∧ ∀ w ∈ t.sync.watches, w.holder ≠ .desc id)) ∧
  (
  (∀ (b : BitVec 12) (s : State),
    (∀ a, runReady s (.unit b) = some a → (unitOf s b.toNat).startReq = false → ∃ t, exec (.descriptorStart (.unit b)) s = .next t ∧
      (unitOf t b.toNat).startReq = true ∧ (unitOf t b.toNat).st = (unitOf s b.toNat).st ∧ (procOf t (.unit b)).task = none ∧
      ((unitOf s b.toNat).st = .idle → ballastWaits t (.taskStart b.toNat) = true) ∧
      ((unitOf s b.toNat).st = .asleep → (unitOf t b.toNat).wakeReq = true ∧
        ((unitOf s b.toNat).wakeReq = false → ballastWaits t (.wake b.toNat) = true))) ∧
    (runReady s (.unit b) = none → exec (.descriptorStart (.unit b)) s = .next s)) ∧
  (∀ (e : BitVec 4) (s : State) (a : Active), runReady s (.press e) = some a →
    ((procOf s (.press e)).cask (runCask a.raw)).incomplete = false → ∃ t, exec (.descriptorStart (.press e)) s = .next t ∧
      exec (.pressTaskStart e) s = .next t ∧ (procOf t (.press e)).task.map (·.id) = some a.id ∧ (procOf t (.press e)).pc = runEntry a.raw) ∧
  (∀ (e : BitVec 2) (s : State) (a : Active), (heads s (.decant e)).find? waitOver = some a → partHalted s (.decant e) = false →
    domainOn s (.decant e) = true → (decantOf s e.toNat).job = none → ∃ t, exec (.descriptorStart (.decant e)) s = .next t ∧
      (decantOf t e.toNat).job = some { id := a.id, next := 0, bytes := 0, saved := [] } ∧ t.dram = s.dram ∧
      (decantOf t e.toNat).queue = (decantOf s e.toNat).queue.tail ∧ ∀ x ∈ t.active, x.id = a.id → x.started = some s.time) ∧
  (∀ (s : State) (a : Active), (heads s .scrubber).find? waitOver = some a → partHalted s .scrubber = false → domainOn s .scrubber = true →
    s.scrub = none → (∀ k < 8, (thmOf s k).halted = false) → ∃ t j, exec (.descriptorStart .scrubber) s = .next t ∧ t.scrub = some j ∧
      j.id = a.id ∧ j.next = 0 ∧ j.scanned = 0 ∧ j.ce = 0 ∧ j.ue = 0 ∧ j.pr = 0 ∧ j.first = none ∧ t.dram = s.dram ∧ t.scrubQ = s.scrubQ.tail) ∧
  (∀ (s : State) (a : Active) (m : Nat), (heads s .net).find? waitOver = some a → domainOn s .net = true → m = bits a.raw 64 6 →
    (reachable s m = true ↔ (s.net.pod = .member ∨ s.net.pod = .managing) ∧ (peerOf s m).member = true ∧ (peerOf s m).quarantined = false ∧
      bit (reg s (0xC01010 + 0x20 * m)) 49 = true) ∧
    ((reachable s m = false ∨ s.net.leaving.isSome = true) → lastPart s a .net → ∃ t, exec (.descriptorStart .net) s = .next t ∧
      completes s t a .peerUnreachable (partDetail a .peerUnreachable 0 0)) ∧
    (reachable s m = true → s.net.leaving = none → bit a.raw 72 = true → ∃ t, exec (.descriptorStart .net) s = .next t ∧
      t.net.sends = s.net.sends ++ [{ id := a.id, peer := m, read := true, poisoned := 0, done := none }] ∧ t.netDQ = s.netDQ.tail ∧
      framesToward t m = framesToward s m + 1) ∧
    (reachable s m = true → s.net.leaving = none → bit a.raw 72 = false → ∀ (p : Place) bs, p = placeOf (dfield a.raw 16 6) →
      (regionRead s (netReader a) (bits a.raw 112 6) p.bank p.off (dfield a.raw 28 4)).1 = .ok bs → ∃ t n,
        exec (.descriptorStart .net) s = .next t ∧
        t.net.sends = s.net.sends ++ [{ id := a.id, peer := m, read := false, poisoned := n, done := none }] ∧
        (bs.all (fun q => !q.2) = true → n = 0) ∧
        framesToward t m = framesToward s m + ceilDiv bs.length (mtu s) + (if bit a.raw 80 then 1 else 0)))) ∧
  (
  (∀ (b : BitVec 12) (s : State) (k : Task) (e : Ending) (a : Active), (procOf s (.unit b)).task = some k → (procOf s (.unit b)).ended = some e →
    e.ck ≠ s.ck → lastPart s a (.unit b) → k.id = a.id → k.ten = a.ten →
    ((unitOf s b.toNat).wq = [] → (∀ q ∈ s.sync.arrivals, q.unit ≠ b.toNat) → canPlace s k.ten = true → ∃ t h, exec (.workComplete (.unit b)) s = .next t ∧
      (unitOf t b.toNat).st = .idle ∧ (procOf t (.unit b)).task = none ∧ (procOf t (.unit b)).ended = none ∧
      (unitOf t b.toNat).history = (h :: (unitOf s b.toNat).history).take 4 ∧ h.tag = k.tag ∧ h.status = e.status ∧
      h.cask = (procOf s (.unit b)).live ∧ h.pc = (procOf s (.unit b)).pc % 2048 ∧ h.startT = k.startT % 2 ^ 32 ∧ h.endT = e.time % 2 ^ 32 ∧
      completes s t a e.status (partDetail a e.status b.toNat e.detail) ∧
      (∀ fault pay, e.report = some (fault, pay) → ringRoom s k.ten → dSignal a.raw = none → endReported s t k e fault pay)) ∧
    ((unitOf s b.toNat).wq ≠ [] ∨ (∃ q ∈ s.sync.arrivals, q.unit = b.toNat) → e.report = none → exec (.workComplete (.unit b)) s = .next s)) ∧
  (∀ (x : BitVec 4) (s : State) (k : Task) (e : Ending) (a : Active), (procOf s (.press x)).task = some k →
    (procOf s (.press x)).ended = some e → e.ck ≠ s.ck → lastPart s a (.press x) → k.id = a.id → k.ten = a.ten →
    ((pressOf s x.toNat).hostPending = 0 → canPlace s k.ten = true → ∃ t, exec (.workComplete (.press x)) s = .next t ∧
      (procOf t (.press x)).task = none ∧ (procOf t (.press x)).ended = none ∧
      completes s t a e.status (partDetail a e.status 0 e.detail) ∧
      (∀ fault pay, e.report = some (fault, pay) → ringRoom s k.ten → dSignal a.raw = none → endReported s t k e fault pay)) ∧
    ((pressOf s x.toNat).hostPending ≠ 0 → e.report = none → exec (.workComplete (.press x)) s = .next s)) ∧
  (∀ (e : BitVec 2) (s : State) (j : CopyJob) (a : Active), (decantOf s e.toNat).job = some j → (decantOf s e.toNat).ended = none →
    lastPart s a (.decant e) → j.id = a.id → (copyOf a.raw).steps s ≤ j.next → ∃ t, exec (.workComplete (.decant e)) s = .next t ∧
      (decantOf t e.toNat).job = none ∧ completes s t a .ok (min (2 ^ 32 - 1) j.bytes)) ∧
  (∀ (s : State) (j : SendJob) (a : Active), s.net.sends.find? (fun j => j.done.isSome) = some j → lastPart s a .net → j.id = a.id →
    ∃ t, exec (.workComplete .net) s = .next t ∧
      t.net.sends = s.net.sends.filter (fun k => k.id != j.id) ∧ completes s t a (j.done.getD .ok) (partDetail a (j.done.getD .ok) 0 (min (2 ^ 32 - 1) j.poisoned))))

/-- Records on their way. An observable completion lands at its ring's tail with the ring's PHASE, which flips as the tail wraps, and its
interrupt is sent, or held within the holdoff; into a disabled ring, after a failed write, or later than 10 ms it is lost; a failed window
write ends the press's task; a staged record leaves for a ring with space; the holdoff's end sends the held message. That a record whose
ring is disabled meanwhile is lost, and that one later than 10 ms has failed, are the model's readings (log entry 68). Completes:
recordObservable, cacheWriteFail, stagedRecordDrain, irqHoldoffExpiry. (R78, R79, R80, R86, R87, R89, R90) -/
def Obligations.RecordsReachHost : Prop :=
  (∀ (s : State) (w : HostWrite) (irq : Option Nat) (r : Ring), s.hostWrites.find? (fun v => v.id == w.id) = some w → w.kind = .completion irq →
    inOrder s w = true → s.elapsed ≤ w.at_ + 10 * Config.ms → ringOf s w.ten cq = r →
    (r.enabled = true → ∃ t, exec (.recordObservable w.id) s = .next t ∧
      t.hostWrites = s.hostWrites.filter (fun v => v.id != w.id) ∧
      ringOf t w.ten cq = { r with tail := r.tail + 1, phase := if r.tail.toNat % 2 ^ r.log2 + 1 = 2 ^ r.log2 then !r.phase else r.phase } ∧
      (irq = none → t.out = .hostWrite (ringBase s w.ten cq + (r.tail.toNat % 2 ^ r.log2) * 16)
        (w.bytes.set 3 (w.bytes.getD 3 0 ||| (if r.phase then 1 else 0))) [] :: s.out) ∧
      (∀ v, irq = some v → inHoldoff s w.ten (mget VecState.empty (tenOf s w.ten).vecs v) = false →
        ∃ o, t.out = .msix (8 * w.ten + v) :: o :: s.out) ∧
      (∀ v, irq = some v → inHoldoff s w.ten (mget VecState.empty (tenOf s w.ten).vecs v) = true →
        (mget VecState.empty (tenOf t w.ten).vecs v).held = true)) ∧
    (r.enabled = false → ∃ t, exec (.recordObservable w.id) s = .next t ∧ (tenOf t w.ten).cqLost = true ∧ t.out = s.out)) ∧
  (∀ (s : State) (w : HostWrite) (irq : Option Nat), s.hostWrites.find? (fun v => v.id == w.id) = some w →
    (w.kind = .completion irq → ∃ t, exec (.cacheWriteFail w.id) s = .next t ∧ (tenOf t w.ten).cqLost = true ∧
      t.hostWrites = s.hostWrites.filter (fun v => v.id != w.id)) ∧
    (w.kind = .event irq → ∃ t, exec (.cacheWriteFail w.id) s = .next t ∧ (tenOf t w.ten).eqOverflow = true ∧
      t.hostWrites = s.hostWrites.filter (fun v => v.id != w.id)) ∧
    (s.elapsed > w.at_ + 10 * Config.ms → exec (.recordObservable w.id) s = exec (.cacheWriteFail w.id) s) ∧
    (∀ (e : BitVec 4) (k : Task), w.kind = .window e.toNat k.id → (procOf s (.press e)).task = some k →
      ((procOf s (.press e)).ended = none ∨ ∃ d, (procOf s (.press e)).ended = some d ∧ d.status = .ok) →
      ∃ t, exec (.cacheWriteFail w.id) s = .next t ∧ (procOf t (.press e)).ended.map (·.status) = some .fetchPoison)) ∧
  (∀ (ten : BitVec 8) (s : State) (r : CRec) (rest : List CRec), (tenOf s ten.toNat).staging = r :: rest →
    (0 < cqFree s ten.toNat → (∀ u, (tenOf s u).held = []) → ∃ t w, exec (.stagedRecordDrain ten) s = .next t ∧ (tenOf t ten.toNat).staging = rest ∧
      t.hostWrites = s.hostWrites ++ [w] ∧ w.ten = ten.toNat ∧ w.bytes = r.bytes) ∧
    (cqFree s ten.toNat = 0 → exec (.stagedRecordDrain ten) s = .next s)) ∧
  (∀ (ten : BitVec 8) (vec : BitVec 3) (s : State) (l : Nat), (mget VecState.empty (tenOf s ten.toNat).vecs vec.toNat).held = true →
    (mget VecState.empty (tenOf s ten.toNat).vecs vec.toNat).last = some l →
    ∃ t, exec (.irqHoldoffExpiry ten vec) s = .next t ∧ t.out = .msix (8 * ten.toNat + vec.toNat) :: s.out ∧
      (mget VecState.empty (tenOf t ten.toNat).vecs vec.toNat).held = false ∧
      (mget VecState.empty (tenOf t ten.toNat).vecs vec.toNat).last = some t.elapsed)

/-- Membership. The manager admits a worker on its list, with SEQ 1 in both directions; an accepted worker is a member and knows the manager, a
refused one is alone; an announced member is recorded, one that left is not a member, nor is one that leaves; an expelled worker is alone; a
readmitted member is no longer quarantined; a report is logged; a late REQUEST of the incarnation before changes nothing. That a REPORT
makes the entry 0x02_31 and does nothing else is the model's reading (log entry 59); the layout of the membership payload is presumed (log
entry 19). Completes: joinRequest, joinAccept, joinRefuse, joinAnnounce, joinLeave, joinReadmit, joinReport. (R299, R300, R301, R302, R303,
R304, R320, R333, R334) -/
def Obligations.MembershipFrames : Prop :=
  ∀ (f : Frame) (s : State) (m : Nat), frameFrom s f m → f.type = 2 → f.seq = 0 → malformed s f = false → allowed s m f = true →
    rxQuiet s m → (frameOp f ≠ 1 → ofIncarnation s f m) →
    (frameOp f = 1 → isManager s = true → m = f.src.toNat → m ≠ 0 → bit (reg s 0xC00018) m = true → (peerOf s m).member = false →
      ((peerOf s m).oldIncarn = some f.incarnation → f.incarnation = (peerOf s m).incarn) → logRoom s → ∃ t, exec (.joinRequest f) s = .next t ∧ (peerOf t m).member = true ∧ (peerOf t m).incarn = f.incarnation ∧ (peerOf t m).nextSeq = 1 ∧
        (peerOf t m).expect = 1 ∧ (peerOf t m).quarantined = (peerOf s m).quarantined ∧ (peerOf t m).violations = (peerOf s m).violations ∧
        t.log.next = (s.log.next + 1) % 2 ^ 32) ∧
    (frameOp f = 1 → (peerOf s m).oldIncarn = some f.incarnation → f.incarnation ≠ (peerOf s m).incarn →
      ∃ t, exec (.joinRequest f) s = .next t ∧ t.net = s.net ∧ t.log = s.log ∧ t.out = s.out) ∧
    (frameOp f = 2 → s.net.pod = .joining → m = 0 → ∃ t, exec (.joinAccept f) s = .next t ∧ t.net.pod = .member ∧
      (peerOf t 0).member = true ∧ (peerOf t 0).incarn = f.incarnation ∧ (peerOf t 0).nextSeq = 1 ∧ (peerOf t 0).expect = 1) ∧
    (frameOp f = 3 → s.net.pod = .joining → m = 0 → ∃ t, exec (.joinRefuse f) s = .next t ∧ t.net.pod = .alone) ∧
    (frameOp f = 4 → m = 0 → s.net.pod = .member → inPod s 0 = true → f.incarnation = (peerOf s 0).incarn → nothingAcked (peerOf s 0) f →
      joinSubject f % 64 ≠ selfMember s →
      (bit f.param 16 = true → (peerOf s (joinSubject f % 64)).member = false → ∃ t, exec (.joinAnnounce f) s = .next t ∧
        (peerOf t (joinSubject f % 64)).member = true ∧ (peerOf t (joinSubject f % 64)).incarn = incarnOf f.payload (joinSubject f % 64) ∧
        (peerOf t (joinSubject f % 64)).expect = 1) ∧
      (bit f.param 16 = false → (peerOf s (joinSubject f % 64)).member = true → ∃ t, exec (.joinAnnounce f) s = .next t ∧
        (peerOf t (joinSubject f % 64)).member = false)) ∧
    (frameOp f = 5 → inPod s m = true → f.incarnation = (peerOf s m).incarn → nothingAcked (peerOf s m) f →
      (isManager s = true → ∃ t, exec (.joinLeave f) s = .next t ∧ (peerOf t m).member = false) ∧
      (isManager s = false → m = 0 → ∃ t, exec (.joinLeave f) s = .next t ∧ t.net.pod = .alone)) ∧
    (frameOp f = 6 → m = 0 → (peerOf s (joinSubject f % 64)).quarantined = true → ∃ t, exec (.joinReadmit f) s = .next t ∧
      (peerOf t (joinSubject f % 64)).quarantined = false ∧ (peerOf t (joinSubject f % 64)).violations = 0) ∧
    (frameOp f = 7 → isManager s = true → inPod s m = true → f.incarnation = (peerOf s m).incarn → nothingAcked (peerOf s m) f →
      logRoom s → ∃ t e, exec (.joinReport f) s = .next t ∧ mget none t.log.entries (s.log.next % 65536) = some e ∧ e.cls = 2 ∧ e.num = 0x31 ∧ e.level = 3 ∧
        t.net.peers = s.net.peers)

/-- Pod time. SYNC is stamped and answered by a DELAY_REQ that bears the stamp of its arrival and echoes the SYNC's; DELAY_REQ is answered with
the manager's time and the stamp it bears; DELAY_RESP gives the offset, by which the worker slews, or steps forward where it lags by more
than 16,000 ticks; STEP moves a worker that is behind, never back. That the STEP of a worker which is ahead carries its offset, and that the
manager steps by it, is the model's choice (log entry 42). Completes: timeSync, timeDelayReq, timeDelayResp, timeStep. (R330, R331, R332) -/
def Obligations.TimeFrames : Prop :=
  ∀ (f : Frame) (s : State) (m : Nat), frameOfMember s f m → f.type = 3 → f.seq = 0 → rxQuiet s m → noPause s →
    (frameOp f = 1 → m = 0 → ∃ t, exec (.timeSync f) s = .next t ∧ t.net.syncT1 = some (timeStamp f, s.time, s.time) ∧ t.time = s.time ∧
      (pairUp s 0 → ∃ g w, t.out = .frame (pairPort s 0) g w :: s.out ∧ g.type = 3 ∧ g.dst = 0 ∧ g.param = 2 ∧
        g.payload = leBytes 8 s.time ++ leBytes 8 (timeStamp f) ++ leBytes 16 0)) ∧
    (frameOp f = 2 → linkUp s (pairPort s m) = true → peerValid s m = true → ∃ t g w, exec (.timeDelayReq f) s = .next t ∧
      t.out = .frame (pairPort s m) g w :: s.out ∧ g.type = 3 ∧ g.dst = m ∧ g.param = 3 ∧
      g.payload = leBytes 8 s.time ++ leBytes 8 (timeStamp f) ++ leBytes 16 0) ∧
    (∀ t1 t2 t3 : Nat, frameOp f = 3 → s.net.syncT1 = some (t1, t2, t3) → timeEcho f = t3 →
      ∃ t, exec (.timeDelayResp f) s = .next t ∧ t.net.offset = exchangeOffset t1 t2 t3 (timeStamp f) ∧ t.net.lost = false ∧
        t.net.pathDelay = exchangeDelay t1 t2 t3 (timeStamp f) ∧
        (t.net.aligned = true ↔ (exchangeOffset t1 t2 t3 (timeStamp f)).natAbs ≤ 80) ∧
        ((exchangeOffset t1 t2 t3 (timeStamp f)).natAbs ≤ 16000 → t.net.slew = -exchangeOffset t1 t2 t3 (timeStamp f) ∧ t.time = s.time) ∧
        (exchangeOffset t1 t2 t3 (timeStamp f) < -16000 → t.time = s.time + (exchangeOffset t1 t2 t3 (timeStamp f)).natAbs) ∧
        (16000 < exchangeOffset t1 t2 t3 (timeStamp f) → linkUp s (pairPort s 0) = true → peerValid s 0 = true → t.time = s.time ∧
          ∃ g w, t.out = .frame (pairPort s 0) g w :: s.out ∧ g.type = 3 ∧ g.dst = 0 ∧ g.param = 4 ∧
            g.payload = leBytes 8 s.time ++ leBytes 8 (exchangeOffset t1 t2 t3 (timeStamp f)).natAbs ++ leBytes 16 0)) ∧
    (frameOp f = 4 → isManager s = true → ∃ t, exec (.timeStep f) s = .next t ∧ t.time = s.time + timeEcho f) ∧
    (frameOp f = 4 → isManager s = false →
      (s.time < timeStamp f → logRoom s → ∃ t, exec (.timeStep f) s = .next t ∧ t.time = timeStamp f ∧ t.log.next = (s.log.next + 1) % 2 ^ 32) ∧
      (timeStamp f ≤ s.time → ∃ t, exec (.timeStep f) s = .next t ∧ t.time = s.time ∧ t.log = s.log))

/-- Frames of data. A WRITE that the region admits commits its bytes; one that it does not, or of a tenancy that does not exist, changes no
memory; a READ is answered by as many frames as its bytes fill; a record takes its channel's next slot, in which it lands with its last
frame, or waits where the channel is full; each takes its turn. That a later frame of a WRITE which passed the checks at FIRST for its
tenancy and region is judged by the extent it adds, one that continues none as a first frame, and a REPLY by the READ's length, are the
model's readings (log entry 41). An ACK takes the frames it names off the list; a NAK ends the work of its frame; an unknown type is a
violation; other frames are counted. Completes: dppHello, dppWrite, dppRead, dppPartial, dppAck, dppNak, nonDppFrame, dppUnknownType,
netRxErrFrame. (R240, R310, R312, R313, R314, R317, R322, R323, R324, R329, R333, R334) -/
def Obligations.DataFrames : Prop :=
  (∀ (f : Frame) (s : State) (m : Nat), frameInTurn s f m →
    (f.type = 1 → (noPause s → exec (.dppHello f) s = .next (processed (frameTaken s m f) m)) ∧
      ∃ t, exec (.dppHello f) s = .next t ∧ oneFrameOn s t m ∧ t.dram = s.dram ∧ t.active = s.active) ∧
    (f.type = 4 → ((peerOf s m).rx.drop = false ∨ f.first = true) →
      ∀ nak : Option Nat, nak = (
          if f.first then accessNak s f.tenancy.toNat (bits f.param 0 6) (bits f.param 42 12) (bits f.param 8 34 * 32) (messageLen s m f)
          else if (peerOf s m).rx.write = some (f.tenancy.toNat, bits f.param 0 6) then
            (if extOk (regionOf s (bits f.param 0 6)) (spanExt (bits f.param 42 12) (bits f.param 8 34 * 32) f.payload.length) then none else some 0x07)
          else accessNak s f.tenancy.toNat (bits f.param 0 6) (bits f.param 42 12) (bits f.param 8 34 * 32) f.payload.length) →
      (f.reply = false → messageLen s m f = f.payload.length) ∧
      (∀ j a, f.reply = true → readJob s m = some j → activeOf s j.id = some a → messageLen s m f = max f.payload.length (dfield a.raw 28 4)) ∧
      (nak = none →
        ∀ u, regionWrite (frameTaken s m f) (peerReader m f) (bits f.param 0 6) (bits f.param 42 12 : Nat) (bits f.param 8 34 * 32 : Nat)
            (framePayload f) = (none, u) →
          ∃ t, exec (.dppWrite f) s = .next t ∧ t.dram = u.dram ∧ t.check = u.check ∧ oneFrameOn s t m ∧
            (peerOf t m).rx = { RxMsg.idle with write := if f.last then none else some (f.tenancy.toNat, bits f.param 0 6) }) ∧
      (nak ≠ none →
        ∃ t, exec (.dppWrite f) s = .next t ∧ t.dram = s.dram ∧ t.check = s.check)) ∧
    (f.type = 5 → ∀ v n, v = leNat (f.payload.take 18) → n = v / 2 ^ 112 % 2 ^ 32 → n % 32 = 0 → n ≠ 0 → n ≤ 2 ^ 26 →
      accessNak s f.tenancy.toNat (v / 2 ^ 8 % 64) (v / 2 ^ 64 % 2 ^ 46 / 2 ^ 34) (v / 2 ^ 64 % 2 ^ 46 % 2 ^ 34 * 32) n = none →
      ∀ bs u, regionRead (frameTaken s m f) (peerReader m f) (v / 2 ^ 8 % 64) (v / 2 ^ 64 % 2 ^ 46 / 2 ^ 34 : Nat)
          (v / 2 ^ 64 % 2 ^ 46 % 2 ^ 34 * 32 : Nat) n = (.ok bs, u) →
        ∃ t, exec (.dppRead f) s = .next t ∧ framesToward t m = framesToward s m + ceilDiv bs.length (mtu s) ∧
          ((peerOf t m).backlog.any (·.reply) = false → oneFrameOn s t m ∧ (peerOf t m).heldRx = none) ∧
          ((peerOf t m).backlog.any (·.reply) = true → (peerOf t m).expect = (peerOf s m).expect ∧ (peerOf t m).heldRx = some f)) ∧
    (f.type = 9 → f.first = true → f.last = true → (tenOf s f.tenancy.toNat).enabled = true →
      mget none s.pressOwner (bits f.param 0 3) = some f.tenancy.toNat → bits f.param 8 16 = 0 → bits f.param 24 16 * 32 = f.payload.length →
      f.payload.length + 32 ≤ 32 * (chanOf s (bits f.param 0 3) (bits f.param 4 4)).size →
      (chanFree s (bits f.param 0 3) (bits f.param 4 4) = true →
        (∀ q ∈ (pressOf s (bits f.param 0 3)).input, q.1 = bits f.param 4 4 → s.ck < q.2.at_) →
        channelQuiet s (bits f.param 0 3) (bits f.param 4 4) → ∃ t, exec (.dppPartial f) s = .next t ∧ oneFrameOn s t m ∧
        (peerOf t m).heldRx = none ∧
        (chanOf t (bits f.param 0 3) (bits f.param 4 4)).landed.length = (chanOf s (bits f.param 0 3) (bits f.param 4 4)).landed.length + 1) ∧
      (chanFree s (bits f.param 0 3) (bits f.param 4 4) = false ∨
          (∃ q ∈ (pressOf s (bits f.param 0 3)).input, q.1 = bits f.param 4 4 ∧ q.2.at_ ≤ s.ck) → ∃ t, exec (.dppPartial f) s = .next t ∧
        (peerOf t m).heldRx = some f ∧ (peerOf t m).busyAt = some s.elapsed ∧ (peerOf t m).expect = (peerOf s m).expect ∧ t.presses = s.presses)) ∧
    (∀ g, f.type = 9 → f.first = false → (peerOf s m).rx.drop = false → (peerOf s m).rx.gather = some g → (tenOf s f.tenancy.toNat).enabled = true →
      mget none s.pressOwner g.engine = some f.tenancy.toNat → g.engine = bits f.param 0 3 → g.chan = bits f.param 4 4 → g.ten = f.tenancy.toNat →
      g.len = bits f.param 24 16 * 32 → g.got = bits f.param 8 16 * 32 → g.got + f.payload.length ≤ g.len →
      (f.last = false → ∃ t h, exec (.dppPartial f) s = .next t ∧ oneFrameOn s t m ∧ (peerOf t m).rx.gather = some h ∧
        h.got = g.got + f.payload.length ∧ h.len = g.len ∧ chanOf t g.engine g.chan = chanOf s g.engine g.chan) ∧
      (f.last = true → g.got + f.payload.length = g.len → ∃ t, exec (.dppPartial f) s = .next t ∧ oneFrameOn s t m ∧ (peerOf t m).rx = RxMsg.idle ∧
        (chanOf t g.engine g.chan).landed.length = (chanOf s g.engine g.chan).landed.length + 1))) ∧
  (∀ (f : Frame) (s : State) (m : Nat), frameFrom s f m → inPod s m = true → f.incarnation = (peerOf s m).incarn → malformed s f = false →
    f.seq = 0 → (peerOf s m).waitRx = [] →
    (f.type = 10 → f.ackV = true → ackInRange (peerOf s m) f.ackno.toNat = true → (peerOf s m).backlog = [] → s.net.leaving = none →
      ∃ t, exec (.dppAck f) s = .next t ∧ (peerOf t m).lastAck = some f.ackno.toNat ∧
        ∀ g rest, (peerOf s m).unacked = g :: rest →
          (peerOf t m).unacked = (peerOf s m).unacked.drop ((f.ackno.toNat + 2 ^ 32 - g.seq) % 2 ^ 32)) ∧
    (f.type = 11 → f.ackV = false → ∀ g, (peerOf s m).unacked.find? (fun g => g.seq == bits f.param 0 32) = some g →
      (bits f.param 32 8 = 0x0B → ∃ t, exec (.dppNak f) s = .next t ∧ (peerOf t m).unacked = (peerOf s m).unacked ∧ t.active = s.active ∧
        ((peerOf s m).timerAt.isSome = true → (peerOf t m).timerAt = some (s.elapsed + (peerOf s m).rto))) ∧
      (∀ st i a j, nakStatus (bits f.param 32 8) = some st → bits f.param 32 8 ≠ 0x0B → g.send = some i →
        s.net.sends.find? (fun j => j.id == i && j.done.isNone) = some j → activeOf s i = some a → a.toFinish = [.net] → a.toEnter = [] →
        ∃ t, exec (.dppNak f) s = .next t ∧ activeOf t i = none))) ∧
  (∀ (f : Frame) (s : State) (m : Nat), frameFrom s f m → (f.type = 0 ∨ 11 < f.type) → (peerOf s m).vStart = none → ofIncarnation s f m →
    ∃ t, exec (.dppUnknownType f) s = .next t ∧ (peerOf t m).violations = 1 ∧ (peerOf t m).vStart = some s.elapsed ∧ t.active = s.active ∧
      t.dram = s.dram) ∧
  (∀ (p : BitVec 1) (s : State), hasNet s = true → linkUp s p.toNat = true →
    exec (.nonDppFrame p) s = .next { s with net := { s.net with rxOther := min (2 ^ 64 - 1) (s.net.rxOther + 1) } } ∧
    exec (.netRxErrFrame p) s = .next { s with net := { s.net with rxErr := min (2 ^ 64 - 1) (s.net.rxErr + 1) } })

/-- Flags and barriers across the pod. At the flag's home an operation of a member applies as one of the module's own, and a RESULT answers it
unless WAITER names none; a watch takes a kite; at the member FIRE releases the waiting descriptor and a RESULT gives a test its value;
ARRIVE counts its member and RELEASE flips the vintage, or breaks the barrier. A FIRE or RELEASE of a tenancy that does not exist, or that
is not the waiter's or the barrier's, changes nothing of them. That RELEASE sets the flag only where the barrier's tenancy owns it is the
model's reading (log entry 127). Completes: dppFlagSet, dppFlagClear, dppFlagTestclr, dppFlagTest, dppFlagWatch, dppFlagWatchClr,
dppFlagFire, dppFlagResult, dppArrive, dppRelease. (R262, R263, R310, R326, R327, R328) -/
def Obligations.FlagFrames : Prop :=
  ∀ (f : Frame) (s : State) (m : Nat), frameInTurn s f m →
    (f.type = 6 → (tenOf s f.tenancy.toNat).enabled = true → ownsFlag s f.tenancy.toNat (ffFlag f) = true → flagHome s (ffFlag f) ≠ 9 →
      (∀ w ∈ s.sync.watches, w.flag ≠ ffFlag f) →
      (∀ e ∈ ([(1, .dppFlagSet f, true), (2, .dppFlagClear f, false), (3, .dppFlagTestclr f, false), (4, .dppFlagTest f, flagOf s (ffFlag f))] :
          List (Nat × Instr × Bool)), ffOp f = e.1 → ∃ t, exec e.2.1 s = .next t ∧ oneFrameOn s t m ∧
          (∀ g, flagOf t g = if g = ffFlag f then e.2.2 else flagOf s g) ∧
          framesToward t m = framesToward s m + (if ffWaiter f = 0xFFFF then 0 else 1)) ∧
      (∀ e ∈ ([(5, .dppFlagWatch f, false), (6, .dppFlagWatchClr f, true)] : List (Nat × Instr × Bool)), ffOp f = e.1 →
        flagOf s (ffFlag f) = false → ∀ k, freeKiteFor s f.tenancy.toNat = some k → ∃ t x, exec e.2.1 s = .next t ∧ oneFrameOn s t m ∧
          kiteOf t k = some x ∧ x.owner = f.tenancy.toNat ∧ x.flag = ffFlag f ∧
          t.sync.watches = s.sync.watches ++ [{ flag := ffFlag f, onClear := false, clr := e.2.2, holder := .member m (ffWaiter f),
                                                kite := some k, who := { kind := 5, id := m }, tag := f.tag }])) ∧
    (f.type = 6 → ffOp f = 7 → ∀ r rest i, s.net.remote = r :: rest → r.waiter = ffWaiter f → r.watch = true → r.reply = .desc i →
      (tenOf s f.tenancy.toNat).enabled = true → (∀ q ∈ s.net.remote, q.waiter = ffWaiter f → q.watch = true → replyTen s q.reply = some f.tenancy.toNat) →
      ∃ t, exec (.dppFlagFire f) s = .next t ∧ oneFrameOn s t m ∧ t.net.remote = rest ∧ ∀ a ∈ t.active, a.id = i → a.wait = .released) ∧
    (f.type = 6 → ffOp f = 7 → (peerOf s m).vStart = none →
      ((tenOf s f.tenancy.toNat).enabled = false ∨
        ∃ q ∈ s.net.remote, q.waiter = ffWaiter f ∧ q.watch = true ∧ replyTen s q.reply ≠ some f.tenancy.toNat) →
      ∃ t, exec (.dppFlagFire f) s = .next t ∧ oneFrameOn s t m ∧ t.net.remote = s.net.remote ∧ t.active = s.active ∧ (peerOf t m).violations = 1) ∧
    (f.type = 6 → ffOp f = 8 → ffWaiter f ≠ 0xFFFF → ∀ r rest x n k clr rd, s.net.remote = r :: rest → r.waiter = ffWaiter f → r.watch = false →
      r.reply = .core x → (procOf s x).nap = some n → n.why = .test k clr rd →
      (tenOf s f.tenancy.toNat).enabled = true → (∀ q ∈ s.net.remote, q.waiter = ffWaiter f → replyTen s q.reply = some f.tenancy.toNat) →
      ∃ t, exec (.dppFlagResult f) s = .next t ∧ oneFrameOn s t m ∧ t.net.remote = rest ∧ (procOf t x).nap = none ∧
        (procOf t x).pc = (procOf s x).pc + 1 ∧ (rd ≠ 0 → rget (procOf t x) rd = { val := if ffValue f then 1 else 0, poison := false })) ∧
    (f.type = 7 → ∀ b, b = barOf s (bfBar f) → (tenOf s f.tenancy.toNat).enabled = true → mget none s.barOwner (bfBar f) = some f.tenancy.toNat →
      b.st = .active → b.members ≠ 0 → b.members.toNat = leNat (f.payload.take 8) → bit b.members m = true → b.podCount ||| (1#64 <<< m) ≠ b.members →
      ∃ t, exec (.dppArrive f) s = .next t ∧ oneFrameOn s t m ∧ (barOf t (bfBar f)).podCount = b.podCount ||| (1#64 <<< m) ∧
        (barOf t (bfBar f)).vintage = b.vintage) ∧
    (f.type = 8 → isManager s = false → (peerOf s m).vStart = none →
      ((tenOf s f.tenancy.toNat).enabled = false ∨ mget none s.barOwner (bfBar f) ≠ some f.tenancy.toNat) →
      ∃ t, exec (.dppRelease f) s = .next t ∧ oneFrameOn s t m ∧ t.sync = s.sync ∧ (peerOf t m).violations = 1) ∧
    (f.type = 8 → isManager s = false → (tenOf s f.tenancy.toNat).enabled = true → mget none s.barOwner (bfBar f) = some f.tenancy.toNat →
      ∀ b, b = barOf s (bfBar f) → b.st = .active → b.members ≠ 0 →
      (bit f.param 11 = false → bit f.param 10 = b.vintage → flagHome s b.flag ≠ 9 → (∀ q ∈ s.sync.msgs, q.who ≠ { kind := 7, id := bfBar f }) →
        (∀ w ∈ s.sync.watches, w.flag ≠ b.flag) → ∃ t, exec (.dppRelease f) s = .next t ∧ oneFrameOn s t m ∧
          (barOf t (bfBar f)).vintage = !b.vintage ∧ (barOf t (bfBar f)).down = barStacks b ∧
          flagOf t b.flag = (ownsFlag s b.ten b.flag || flagOf s b.flag)) ∧
      (bit f.param 11 = true → nappersOf s (bfBar f) = [] → ∃ t, exec (.dppRelease f) s = .next t ∧
        (barOf t (bfBar f)).st = .broken ∧ (barOf t (bfBar f)).cause = 1))

/-- The network engine's timers. Each unacknowledged frame is sent again, in order, with the period doubled up to its maximum, and after the
eighth try the peer is lost, once the cycle of the expiry is over; an acknowledgement that is due leaves; HELLO joins the stream after its
period; a JOIN REQUEST leaves each millisecond, a SYNC to every member at its period; time is lost after 100 ms; a violation window ends; a
record that waited lands once its channel is free; pairs leave a port without link and return to it. Completes: retransmitTimeout, ackTimer,
helloTimer, joinRetryTimer, busyNakTimer, timePeriodTimer, timeLostTimer, violationWindowExpiry, portLinkDown, portLinkReturn. (R301, R306,
R313, R315, R317, R318, R319, R330, R332, R334) -/
def Obligations.NetTimers : Prop :=
  (∀ (k : BitVec 6) (s : State) (due : Nat), (peerOf s k.toNat).timerAt = some due →
    (clockRuns s = true → ∃ t, exec (.retransmitTimeout k) s = .next t ∧ timePast s t due) ∧
    ((peerOf s k.toNat).tries < 8 → ∃ t, exec (.retransmitTimeout k) s = .next t ∧ (peerOf t k.toNat).tries = (peerOf s k.toNat).tries + 1 ∧
      (peerOf t k.toNat).rto = min (rtoMax s) (2 * (peerOf s k.toNat).rto) ∧
      (peerOf t k.toNat).timerAt = some (max due s.elapsed + (peerOf t k.toNat).rto) ∧ (peerOf t k.toNat).unacked = (peerOf s k.toNat).unacked ∧
      (pairUp s k.toNat → ∃ os : List Output, t.out = os.reverse ++ s.out ∧ os.length = (peerOf s k.toNat).unacked.length ∧
        ∀ (i : Nat) (f : TxFrame), (peerOf s k.toNat).unacked[i]? = some f → ∃ g w, os[i]? = some (.frame (pairPort s k.toNat) g w) ∧
          g.retx = true ∧ g.seq = f.seq ∧ g.type = f.type ∧ g.dst = f.dst ∧ g.param = f.param ∧ g.payload = f.payload)) ∧
    (8 ≤ (peerOf s k.toNat).tries → ∃ t, exec (.retransmitTimeout k) s = .next t ∧ (peerOf t k.toNat).member = false)) ∧
  (∀ (k : BitVec 6) (s : State), (peerOf s k.toNat).ackDue.isSome = true → ∃ t, exec (.ackTimer k) s = .next t ∧
    (clockRuns s = true → timeUntil s t ((peerOf s k.toNat).ackDue.getD 0)) ∧
    (peerOf t k.toNat).ackDue = none ∧ (peerOf t k.toNat).ackCount = 0 ∧
    (linkUp s (pairPort s k.toNat) = true → peerValid s k.toNat = true → ∃ g w, t.out = .frame (pairPort s k.toNat) g w :: s.out ∧ g.type = 10 ∧
      g.ackno = ackNo (peerOf s k.toNat))) ∧
  (∀ (k : BitVec 6) (s : State), inPod s k.toNat = true → ∃ t, exec (.helloTimer k) s = .next t ∧
    framesToward t k.toNat = framesToward s k.toNat + 1 ∧
    (clockRuns s = true → timeUntil s t ((peerOf s k.toNat).lastTx + Config.us * bits (reg s 0xC00048) 0 20)) ∧
    (pairUp s k.toNat → (peerOf s k.toNat).backlog = [] → (peerOf s k.toNat).unacked.length < 256 →
      ∃ o, t.out = o :: s.out ∧ frameTo s k.toNat 1 0 o)) ∧
  (∀ s : State, s.net.pod = .joining → ∃ t, exec .joinRetryTimer s = .next t ∧
    (clockRuns s = true → timeUntil s t (s.net.joinSent + Config.ms)) ∧ t.net.joinSent = t.elapsed ∧ t.net.pod = .joining ∧
    (pairUp s 0 → ∃ o, t.out = o :: s.out ∧ frameTo s 0 2 1 o)) ∧
  (∀ s : State, isManager s = true → ∃ (t : State) (os : List Output), exec .timePeriodTimer s = .next t ∧ t.net.syncAt = t.elapsed ∧
    (clockRuns s = true → timeUntil s t (s.net.syncAt + Config.us * bits (reg s 0xC00050) 0 17)) ∧ t.out = os ++ s.out ∧
    ∀ m < 64, (peerOf s m).member = true → pairUp s m → ∃ g w, .frame (pairPort s m) g w ∈ os ∧ g.type = 3 ∧ g.dst = m ∧ g.param = 1 ∧
      g.payload = leBytes 8 t.time ++ leBytes 8 0 ++ leBytes 16 0) ∧
  (∀ s : State, s.net.pod = .member → s.net.lost = false → logRoom s → ∃ t, exec .timeLostTimer s = .next t ∧ t.net.lost = true ∧
    (clockRuns s = true → timeUntil s t (s.net.lastExch + 100 * Config.ms)) ∧
    t.log.next = (s.log.next + 1) % 2 ^ 32) ∧
  (∀ (k : BitVec 6) (s : State), (peerOf s k.toNat).vStart.isSome = true → ∃ t, exec (.violationWindowExpiry k) s = .next t ∧
    (peerOf t k.toNat).violations = 0 ∧ (peerOf t k.toNat).vStart = none) ∧
  (∀ (k : BitVec 6) (s : State) (f : Frame) (g : PartialMsg) (b : Nat), (peerOf s k.toNat).heldRx = some f → (peerOf s k.toNat).busyAt = some b →
    (peerOf s k.toNat).rx.gather = some g → mget none s.pressOwner g.engine = some g.ten → g.engine < 16 → (peerOf s k.toNat).waitRx = [] →
    (chanFree s g.engine g.chan = true → g.len + 32 ≤ 32 * (chanOf s g.engine g.chan).size →
      (∀ q ∈ (pressOf s g.engine).input, q.1 = g.chan → g.at_ < q.2.at_) →
      (∀ q ∈ s.net.peers, ∀ h, q.2.rx.gather = some h → h.engine = g.engine → h.chan = g.chan → q.1 = k.toNat ∧ h.landing = false) →
      ∃ t, exec (.busyNakTimer k) s = .next t ∧ (peerOf t k.toNat).heldRx = none ∧ oneFrameOn s t k.toNat ∧
        (f.last = true → (chanOf t g.engine g.chan).landed.length = (chanOf s g.engine g.chan).landed.length + 1) ∧
        (f.last = false → ∃ h, (peerOf t k.toNat).rx.gather = some h ∧ h.landing = true ∧ h.got = g.got + f.payload.length)) ∧
    (chanFree s g.engine g.chan = false → ∃ t, exec (.busyNakTimer k) s = .next t ∧ (peerOf t k.toNat).heldRx = some f ∧
      (peerOf t k.toNat).busyAt = some t.elapsed ∧ (clockRuns s = true → timeUntil s t (b + 50 * Config.us)))) ∧
  (∀ (p : BitVec 1) (s : State), hasNet s = true → linkUp s p.toNat = true → ∃ t, exec (.portLinkDown p) s = .next t ∧ linkUp t p.toNat = false ∧
    ∀ m < 64, (peerOf s m).member = true → (peerOf t m).moved = (if pairPort s m = p.toNat ∧ linkUp s (1 - p.toNat) = true then !(peerOf s m).moved else (peerOf s m).moved)) ∧
  (∀ (p : BitVec 1) (s : State), hasNet s = true → (domOf s (268 + p.toNat)).st = .on → s.clk.coast = false →
    ∃ t, exec (.portLinkReturn p) s = .next t ∧ linkUp t p.toNat = true ∧
      ∀ m < 64, (peerOf s m).member = true → peerPort s m = p.toNat → (peerOf t m).moved = false)

/-- The operator's commands to the pod. Enabled, a worker joins and the manager manages, under the next incarnation; disabled, the manager and a
joining worker are alone and a member leaves; a wait for acknowledgements ends; a member is expelled, a quarantined one readmitted, a lost
mark cleared. Completes: podEnable, podDisable, leaveWaitExpiry, netExpel, netReadmit, netLostClear. (R301, R304, R320, R321, R334, R452) -/
def Obligations.PodCommands : Prop :=
  (∀ s : State, s.boot.linkUp = true → hasNet s = true → bit (reg s 0xC00000) 0 = false → s.net.pod = .alone →
    ∃ t, exec .podEnable s = .next t ∧ bit (reg t 0xC00000) 0 = true ∧ t.net.incarn = s.net.incarn + 1 ∧
      t.net.pod = (if selfMember s = 0 then .managing else .joining)) ∧
  (∀ s : State, s.boot.linkUp = true → bit (reg s 0xC00000) 0 = true → ∃ t, exec .podDisable s = .next t ∧
    bit (reg t 0xC00000) 0 = false ∧ (s.net.pod ≠ .member → t.net.pod = .alone) ∧
    (s.net.pod = .member → (t.net.leaving = some s.elapsed ∧ t.net.pod = .member ∧ t.net.sends = s.net.sends) ∨ t.net.pod = .alone)) ∧
  (∀ s : State, s.net.leaving.isSome = true → ∃ t, exec .leaveWaitExpiry s = .next t ∧ t.net.pod = .alone ∧ t.net.leaving = none) ∧
  (∀ (m : BitVec 6) (s : State), s.boot.linkUp = true → isManager s = true →
    ((peerOf s m.toNat).member = true → ∃ t, exec (.netExpel m) s = .next t ∧ (peerOf t m.toNat).member = false) ∧
    ((peerOf s m.toNat).member = false → exec (.netExpel m) s = .next s) ∧
    ((peerOf s m.toNat).quarantined = true → ∃ t, exec (.netReadmit m) s = .next t ∧ (peerOf t m.toNat).quarantined = false ∧
      (peerOf t m.toNat).violations = 0)) ∧
  (∀ (ten : BitVec 8) (m : BitVec 6) (s : State), s.boot.linkUp = true →
    (∃ t, exec (.netLostClear ten m true) s = .next t ∧ (tenOf t ten.toNat).netLost = 0) ∧
    (∃ t, exec (.netLostClear ten m false) s = .next t ∧ ∀ i : Nat, i < 64 →
      bit (tenOf t ten.toNat).netLost i = (bit (tenOf s ten.toNat).netLost i && i != m.toNat)))
end

