-- ==== Sys2Proof/Laws/Store.lean ====
section
/-! SUPPORT. Sparse tables: a read after a write, and the canonical form that every write keeps. -/

namespace Sys2Proof.Machine

variable {α : Type}

/-- What holds of the default and of every entry holds of what is read. -/
theorem mget_of_all (p : α → Prop) {d : α} {m : SMap α} {k : Nat} (hd : p d) (h : ∀ e ∈ m, p e.2) : p (mget d m k) := by
  induction m with
  | nil => exact hd
  | cons e t ih =>
    unfold mget
    split
    · exact h e (by simp)
    · exact ih fun x hx => h x (by simp [hx])

/-- Dropping a key leaves every other key as it was. -/
theorem mget_mdrop_ne (d : α) (m : SMap α) {k j : Nat} (h : j ≠ k) : mget d (mdrop m k) j = mget d m j := by
  induction m with
  | nil => rfl
  | cons e t ih =>
    obtain ⟨i, v⟩ := e
    by_cases hik : i = k
    · subst hik
      simpa [mdrop, mget, Ne.symm h] using ih
    · by_cases hij : i = j <;> simp_all [mdrop, mget]

/-- A dropped key reads as the default. -/
theorem mget_mdrop_self (d : α) (m : SMap α) (k : Nat) : mget d (mdrop m k) k = d := by
  induction m with
  | nil => rfl
  | cons e t ih =>
    obtain ⟨i, v⟩ := e
    by_cases hik : i = k <;> simp_all [mdrop, mget]

/-- An inserted key reads as its value, where it was not listed. -/
theorem mget_minsert_self (d v : α) (m : SMap α) (k : Nat) (h : ∀ e ∈ m, e.1 ≠ k) : mget d (minsert m k v) k = v := by
  induction m with
  | nil => simp [minsert, mget]
  | cons e t ih =>
    obtain ⟨i, w⟩ := e
    have hi : i ≠ k := h (i, w) (by simp)
    by_cases hki : k < i
    · simp [minsert, mget, hki]
    · simp [minsert, mget, hki, hi, ih (fun e he => h e (by simp [he]))]

/-- Inserting a key leaves every other key as it was. -/
theorem mget_minsert_ne (d v : α) (m : SMap α) {k j : Nat} (h : j ≠ k) : mget d (minsert m k v) j = mget d m j := by
  induction m with
  | nil => simp [minsert, mget, Ne.symm h]
  | cons e t ih =>
    obtain ⟨i, w⟩ := e
    by_cases hki : k < i
    · simp [minsert, mget, hki, Ne.symm h]
    · simp only [minsert, hki, if_false, mget, ih]

/-- A dropped key is not listed. -/
theorem not_mem_mdrop (m : SMap α) (k : Nat) : ∀ e ∈ mdrop m k, e.1 ≠ k := by simp [mdrop]

/-- The keys of a table with one more entry. -/
theorem mem_minsert (m : SMap α) (k : Nat) (v : α) (e : Nat × α) (h : e ∈ minsert m k v) : e = (k, v) ∨ e ∈ m := by
  induction m with
  | nil => simpa [minsert] using h
  | cons f t ih =>
    obtain ⟨i, w⟩ := f
    by_cases hki : k < i
    · simpa [minsert, hki] using h
    · simp only [minsert, hki, if_false, List.mem_cons] at h
      rcases h with h | h
      · simp [h]
      · rcases ih h with h | h <;> simp [h]

variable [DecidableEq α]

/-- A read after a write to the same key gives the value written. -/
@[simp] theorem mget_mset_self (d v : α) (m : SMap α) (k : Nat) : mget d (mset d m k v) k = v := by
  unfold mset
  split
  · next h => rw [h, mget_mdrop_self]
  · exact mget_minsert_self d v _ k (not_mem_mdrop m k)

/-- A write leaves every other key as it was. -/
theorem mget_mset_ne (d v : α) (m : SMap α) {k j : Nat} (h : j ≠ k) : mget d (mset d m k v) j = mget d m j := by
  unfold mset
  split
  · exact mget_mdrop_ne d m h
  · rw [mget_minsert_ne d v _ h, mget_mdrop_ne d m h]

/-- A write leaves every other key as it was, whatever default the read has. -/
theorem mget_mset_ne_default (d e v : α) (m : SMap α) {k j : Nat} (h : j ≠ k) : mget e (mset d m k v) j = mget e m j := by
  unfold mset
  split
  · exact mget_mdrop_ne e m h
  · rw [mget_minsert_ne e v _ h, mget_mdrop_ne e m h]

/-- Both cases of a read after a write. -/
theorem mget_mset (d v : α) (m : SMap α) (k j : Nat) : mget d (mset d m k v) j = if j = k then v else mget d m j := by
  split
  · next h => rw [h, mget_mset_self]
  · next h => exact mget_mset_ne d v m h

/-- Keeping some of the entries keeps the canonical form. -/
theorem mwf_filter (d : α) (p : Nat × α → Bool) (m : SMap α) (h : mwf d m = true) : mwf d (m.filter p) = true := by
  induction m with
  | nil => rfl
  | cons e t ih =>
    obtain ⟨i, v⟩ := e
    simp only [mwf, Bool.and_eq_true, decide_eq_true_eq, List.all_eq_true] at h
    obtain ⟨⟨hv, hall⟩, ht⟩ := h
    rw [List.filter_cons]
    split
    · simp only [mwf, Bool.and_eq_true, decide_eq_true_eq, List.all_eq_true]
      exact ⟨⟨hv, fun e he => hall e (List.mem_of_mem_filter he)⟩, ih ht⟩
    · exact ih ht

/-- Dropping a key keeps the canonical form. -/
theorem mwf_mdrop (d : α) (m : SMap α) (k : Nat) (h : mwf d m = true) : mwf d (mdrop m k) = true := mwf_filter d _ m h

/-- Inserting an unlisted key with another value than the default keeps the canonical form. -/
theorem mwf_minsert (d v : α) (m : SMap α) (k : Nat) (hv : v ≠ d) (hk : ∀ e ∈ m, e.1 ≠ k) (h : mwf d m = true) :
    mwf d (minsert m k v) = true := by
  induction m with
  | nil => simp [minsert, mwf, hv]
  | cons f t ih =>
    obtain ⟨i, w⟩ := f
    have hik : i ≠ k := hk (i, w) (by simp)
    have h0 := h
    simp only [mwf, Bool.and_eq_true, decide_eq_true_eq, List.all_eq_true] at h
    obtain ⟨⟨hw, hall⟩, ht⟩ := h
    by_cases hki : k < i
    · simp only [minsert, hki, if_true, mwf, Bool.and_eq_true, decide_eq_true_eq, List.all_eq_true, List.mem_cons]
      refine ⟨⟨hv, ?_⟩, ⟨hw, hall⟩, ht⟩
      rintro e (rfl | he)
      · exact hki
      · exact hki.trans (hall e he)
    · simp only [minsert, hki, if_false, mwf, Bool.and_eq_true, decide_eq_true_eq, List.all_eq_true]
      refine ⟨⟨hw, fun e he => ?_⟩, ih (fun e he => hk e (by simp [he])) ht⟩
      rcases mem_minsert t k v e he with rfl | he
      · simp only; omega
      · exact hall e he

/-- A write keeps the canonical form. -/
theorem mwf_mset (d v : α) (m : SMap α) (k : Nat) (h : mwf d m = true) : mwf d (mset d m k v) = true := by
  unfold mset
  split
  · exact mwf_mdrop d m k h
  · next hv => exact mwf_minsert d v _ k hv (not_mem_mdrop m k) (mwf_mdrop d m k h)

/-- A write of consecutive keys keeps the canonical form. -/
theorem mwf_msetAll (d : α) (vs : List α) (m : SMap α) (k : Nat) (h : mwf d m = true) : mwf d (msetAll d m k vs) = true := by
  induction vs generalizing m k with
  | nil => exact h
  | cons v t ih => exact ih _ _ (mwf_mset d v m k h)

end Sys2Proof.Machine
end

