-- ==== Sys2Proof/Laws/State.lean ====
section
/-! SUPPORT. What each shared update of the state changes, and that it leaves every other field as it was. -/

namespace Sys2Proof.Machine

/-- `setUnit` leaves every field but units as it was. -/
@[simp] theorem setUnit_frame (s : State) (b : Nat) (u : BankUnit) :
    (setUnit s b u).pending = s.pending ∧ (setUnit s b u).out = s.out ∧ (setUnit s b u).free = s.free ∧
    (setUnit s b u).variant = s.variant ∧ (setUnit s b u).time = s.time ∧ (setUnit s b u).elapsed = s.elapsed ∧
    (setUnit s b u).ck = s.ck ∧ (setUnit s b u).nextId = s.nextId ∧ (setUnit s b u).boot = s.boot ∧
    (setUnit s b u).flash = s.flash ∧ (setUnit s b u).fuses = s.fuses ∧ (setUnit s b u).mgmt = s.mgmt ∧
    (setUnit s b u).clk = s.clk ∧ (setUnit s b u).pwr = s.pwr ∧ (setUnit s b u).thm = s.thm ∧ (setUnit s b u).log = s.log ∧
    (setUnit s b u).trace = s.trace ∧ (setUnit s b u).bar = s.bar ∧ (setUnit s b u).regions = s.regions ∧
    (setUnit s b u).retireRows = s.retireRows ∧ (setUnit s b u).retireBanks = s.retireBanks ∧ (setUnit s b u).ecc = s.ecc ∧
    (setUnit s b u).eccTot = s.eccTot ∧ (setUnit s b u).eccLog = s.eccLog ∧ (setUnit s b u).ueLog = s.ueLog ∧
    (setUnit s b u).unattrRd = s.unattrRd ∧ (setUnit s b u).unattrWr = s.unattrWr ∧ (setUnit s b u).dram = s.dram ∧
    (setUnit s b u).check = s.check ∧ (setUnit s b u).banks = s.banks ∧ (setUnit s b u).presses = s.presses ∧
    (setUnit s b u).decants = s.decants ∧ (setUnit s b u).scrubQ = s.scrubQ ∧ (setUnit s b u).scrub = s.scrub ∧
    (setUnit s b u).meterDQ = s.meterDQ ∧ (setUnit s b u).netDQ = s.netDQ ∧ (setUnit s b u).syncDQ = s.syncDQ ∧
    (setUnit s b u).dispDQ = s.dispDQ ∧ (setUnit s b u).tens = s.tens ∧ (setUnit s b u).groupOwner = s.groupOwner ∧
    (setUnit s b u).blockOwner = s.blockOwner ∧ (setUnit s b u).barOwner = s.barOwner ∧
    (setUnit s b u).pressOwner = s.pressOwner ∧ (setUnit s b u).switches = s.switches ∧
    (setUnit s b u).dispLast = s.dispLast ∧ (setUnit s b u).dispCk = s.dispCk ∧ (setUnit s b u).xlat = s.xlat ∧
    (setUnit s b u).xlatNext = s.xlatNext ∧ (setUnit s b u).fetched = s.fetched ∧ (setUnit s b u).fetches = s.fetches ∧
    (setUnit s b u).active = s.active ∧ (setUnit s b u).batches = s.batches ∧ (setUnit s b u).hostWrites = s.hostWrites ∧
    (setUnit s b u).sync = s.sync ∧ (setUnit s b u).net = s.net ∧ (setUnit s b u).meterQ = s.meterQ ∧
    (setUnit s b u).violation0C = s.violation0C :=
  ⟨rfl, rfl, rfl, rfl, rfl, rfl, rfl, rfl, rfl, rfl, rfl, rfl, rfl, rfl, rfl, rfl, rfl, rfl, rfl, rfl, rfl, rfl, rfl, rfl,
    rfl, rfl, rfl, rfl, rfl, rfl, rfl, rfl, rfl, rfl, rfl, rfl, rfl, rfl, rfl, rfl, rfl, rfl, rfl, rfl, rfl, rfl, rfl, rfl,
    rfl, rfl, rfl, rfl, rfl, rfl, rfl, rfl, rfl⟩

/-- `setPress` leaves every field but presses as it was. -/
@[simp] theorem setPress_frame (s : State) (e : Nat) (p : Press) :
    (setPress s e p).pending = s.pending ∧ (setPress s e p).out = s.out ∧ (setPress s e p).free = s.free ∧
    (setPress s e p).variant = s.variant ∧ (setPress s e p).time = s.time ∧ (setPress s e p).elapsed = s.elapsed ∧
    (setPress s e p).ck = s.ck ∧ (setPress s e p).nextId = s.nextId ∧ (setPress s e p).boot = s.boot ∧
    (setPress s e p).flash = s.flash ∧ (setPress s e p).fuses = s.fuses ∧ (setPress s e p).mgmt = s.mgmt ∧
    (setPress s e p).clk = s.clk ∧ (setPress s e p).pwr = s.pwr ∧ (setPress s e p).thm = s.thm ∧
    (setPress s e p).log = s.log ∧ (setPress s e p).trace = s.trace ∧ (setPress s e p).bar = s.bar ∧
    (setPress s e p).regions = s.regions ∧ (setPress s e p).retireRows = s.retireRows ∧
    (setPress s e p).retireBanks = s.retireBanks ∧ (setPress s e p).ecc = s.ecc ∧ (setPress s e p).eccTot = s.eccTot ∧
    (setPress s e p).eccLog = s.eccLog ∧ (setPress s e p).ueLog = s.ueLog ∧ (setPress s e p).unattrRd = s.unattrRd ∧
    (setPress s e p).unattrWr = s.unattrWr ∧ (setPress s e p).dram = s.dram ∧ (setPress s e p).check = s.check ∧
    (setPress s e p).banks = s.banks ∧ (setPress s e p).units = s.units ∧ (setPress s e p).decants = s.decants ∧
    (setPress s e p).scrubQ = s.scrubQ ∧ (setPress s e p).scrub = s.scrub ∧ (setPress s e p).meterDQ = s.meterDQ ∧
    (setPress s e p).netDQ = s.netDQ ∧ (setPress s e p).syncDQ = s.syncDQ ∧ (setPress s e p).dispDQ = s.dispDQ ∧
    (setPress s e p).tens = s.tens ∧ (setPress s e p).groupOwner = s.groupOwner ∧
    (setPress s e p).blockOwner = s.blockOwner ∧ (setPress s e p).barOwner = s.barOwner ∧
    (setPress s e p).pressOwner = s.pressOwner ∧ (setPress s e p).switches = s.switches ∧
    (setPress s e p).dispLast = s.dispLast ∧ (setPress s e p).dispCk = s.dispCk ∧ (setPress s e p).xlat = s.xlat ∧
    (setPress s e p).xlatNext = s.xlatNext ∧ (setPress s e p).fetched = s.fetched ∧ (setPress s e p).fetches = s.fetches ∧
    (setPress s e p).active = s.active ∧ (setPress s e p).batches = s.batches ∧ (setPress s e p).hostWrites = s.hostWrites ∧
    (setPress s e p).sync = s.sync ∧ (setPress s e p).net = s.net ∧ (setPress s e p).meterQ = s.meterQ ∧
    (setPress s e p).violation0C = s.violation0C :=
  ⟨rfl, rfl, rfl, rfl, rfl, rfl, rfl, rfl, rfl, rfl, rfl, rfl, rfl, rfl, rfl, rfl, rfl, rfl, rfl, rfl, rfl, rfl, rfl, rfl,
    rfl, rfl, rfl, rfl, rfl, rfl, rfl, rfl, rfl, rfl, rfl, rfl, rfl, rfl, rfl, rfl, rfl, rfl, rfl, rfl, rfl, rfl, rfl, rfl,
    rfl, rfl, rfl, rfl, rfl, rfl, rfl, rfl, rfl⟩

/-- `setDecant` leaves every field but decants as it was. -/
@[simp] theorem setDecant_frame (s : State) (e : Nat) (d : Decant) :
    (setDecant s e d).pending = s.pending ∧ (setDecant s e d).out = s.out ∧ (setDecant s e d).free = s.free ∧
    (setDecant s e d).variant = s.variant ∧ (setDecant s e d).time = s.time ∧ (setDecant s e d).elapsed = s.elapsed ∧
    (setDecant s e d).ck = s.ck ∧ (setDecant s e d).nextId = s.nextId ∧ (setDecant s e d).boot = s.boot ∧
    (setDecant s e d).flash = s.flash ∧ (setDecant s e d).fuses = s.fuses ∧ (setDecant s e d).mgmt = s.mgmt ∧
    (setDecant s e d).clk = s.clk ∧ (setDecant s e d).pwr = s.pwr ∧ (setDecant s e d).thm = s.thm ∧
    (setDecant s e d).log = s.log ∧ (setDecant s e d).trace = s.trace ∧ (setDecant s e d).bar = s.bar ∧
    (setDecant s e d).regions = s.regions ∧ (setDecant s e d).retireRows = s.retireRows ∧
    (setDecant s e d).retireBanks = s.retireBanks ∧ (setDecant s e d).ecc = s.ecc ∧ (setDecant s e d).eccTot = s.eccTot ∧
    (setDecant s e d).eccLog = s.eccLog ∧ (setDecant s e d).ueLog = s.ueLog ∧ (setDecant s e d).unattrRd = s.unattrRd ∧
    (setDecant s e d).unattrWr = s.unattrWr ∧ (setDecant s e d).dram = s.dram ∧ (setDecant s e d).check = s.check ∧
    (setDecant s e d).banks = s.banks ∧ (setDecant s e d).units = s.units ∧ (setDecant s e d).presses = s.presses ∧
    (setDecant s e d).scrubQ = s.scrubQ ∧ (setDecant s e d).scrub = s.scrub ∧ (setDecant s e d).meterDQ = s.meterDQ ∧
    (setDecant s e d).netDQ = s.netDQ ∧ (setDecant s e d).syncDQ = s.syncDQ ∧ (setDecant s e d).dispDQ = s.dispDQ ∧
    (setDecant s e d).tens = s.tens ∧ (setDecant s e d).groupOwner = s.groupOwner ∧
    (setDecant s e d).blockOwner = s.blockOwner ∧ (setDecant s e d).barOwner = s.barOwner ∧
    (setDecant s e d).pressOwner = s.pressOwner ∧ (setDecant s e d).switches = s.switches ∧
    (setDecant s e d).dispLast = s.dispLast ∧ (setDecant s e d).dispCk = s.dispCk ∧ (setDecant s e d).xlat = s.xlat ∧
    (setDecant s e d).xlatNext = s.xlatNext ∧ (setDecant s e d).fetched = s.fetched ∧ (setDecant s e d).fetches = s.fetches ∧
    (setDecant s e d).active = s.active ∧ (setDecant s e d).batches = s.batches ∧
    (setDecant s e d).hostWrites = s.hostWrites ∧ (setDecant s e d).sync = s.sync ∧ (setDecant s e d).net = s.net ∧
    (setDecant s e d).meterQ = s.meterQ ∧ (setDecant s e d).violation0C = s.violation0C :=
  ⟨rfl, rfl, rfl, rfl, rfl, rfl, rfl, rfl, rfl, rfl, rfl, rfl, rfl, rfl, rfl, rfl, rfl, rfl, rfl, rfl, rfl, rfl, rfl, rfl,
    rfl, rfl, rfl, rfl, rfl, rfl, rfl, rfl, rfl, rfl, rfl, rfl, rfl, rfl, rfl, rfl, rfl, rfl, rfl, rfl, rfl, rfl, rfl, rfl,
    rfl, rfl, rfl, rfl, rfl, rfl, rfl, rfl, rfl⟩

/-- `setTen` leaves every field but tens as it was. -/
@[simp] theorem setTen_frame (s : State) (t : Nat) (x : Tenancy) :
    (setTen s t x).pending = s.pending ∧ (setTen s t x).out = s.out ∧ (setTen s t x).free = s.free ∧
    (setTen s t x).variant = s.variant ∧ (setTen s t x).time = s.time ∧ (setTen s t x).elapsed = s.elapsed ∧
    (setTen s t x).ck = s.ck ∧ (setTen s t x).nextId = s.nextId ∧ (setTen s t x).boot = s.boot ∧
    (setTen s t x).flash = s.flash ∧ (setTen s t x).fuses = s.fuses ∧ (setTen s t x).mgmt = s.mgmt ∧
    (setTen s t x).clk = s.clk ∧ (setTen s t x).pwr = s.pwr ∧ (setTen s t x).thm = s.thm ∧ (setTen s t x).log = s.log ∧
    (setTen s t x).trace = s.trace ∧ (setTen s t x).bar = s.bar ∧ (setTen s t x).regions = s.regions ∧
    (setTen s t x).retireRows = s.retireRows ∧ (setTen s t x).retireBanks = s.retireBanks ∧ (setTen s t x).ecc = s.ecc ∧
    (setTen s t x).eccTot = s.eccTot ∧ (setTen s t x).eccLog = s.eccLog ∧ (setTen s t x).ueLog = s.ueLog ∧
    (setTen s t x).unattrRd = s.unattrRd ∧ (setTen s t x).unattrWr = s.unattrWr ∧ (setTen s t x).dram = s.dram ∧
    (setTen s t x).check = s.check ∧ (setTen s t x).banks = s.banks ∧ (setTen s t x).units = s.units ∧
    (setTen s t x).presses = s.presses ∧ (setTen s t x).decants = s.decants ∧ (setTen s t x).scrubQ = s.scrubQ ∧
    (setTen s t x).scrub = s.scrub ∧ (setTen s t x).meterDQ = s.meterDQ ∧ (setTen s t x).netDQ = s.netDQ ∧
    (setTen s t x).syncDQ = s.syncDQ ∧ (setTen s t x).dispDQ = s.dispDQ ∧ (setTen s t x).groupOwner = s.groupOwner ∧
    (setTen s t x).blockOwner = s.blockOwner ∧ (setTen s t x).barOwner = s.barOwner ∧
    (setTen s t x).pressOwner = s.pressOwner ∧ (setTen s t x).switches = s.switches ∧ (setTen s t x).dispLast = s.dispLast ∧
    (setTen s t x).dispCk = s.dispCk ∧ (setTen s t x).xlat = s.xlat ∧ (setTen s t x).xlatNext = s.xlatNext ∧
    (setTen s t x).fetched = s.fetched ∧ (setTen s t x).fetches = s.fetches ∧ (setTen s t x).active = s.active ∧
    (setTen s t x).batches = s.batches ∧ (setTen s t x).hostWrites = s.hostWrites ∧ (setTen s t x).sync = s.sync ∧
    (setTen s t x).net = s.net ∧ (setTen s t x).meterQ = s.meterQ ∧ (setTen s t x).violation0C = s.violation0C :=
  ⟨rfl, rfl, rfl, rfl, rfl, rfl, rfl, rfl, rfl, rfl, rfl, rfl, rfl, rfl, rfl, rfl, rfl, rfl, rfl, rfl, rfl, rfl, rfl, rfl,
    rfl, rfl, rfl, rfl, rfl, rfl, rfl, rfl, rfl, rfl, rfl, rfl, rfl, rfl, rfl, rfl, rfl, rfl, rfl, rfl, rfl, rfl, rfl, rfl,
    rfl, rfl, rfl, rfl, rfl, rfl, rfl, rfl, rfl⟩

/-- `setRing` leaves every field but tens as it was. -/
@[simp] theorem setRing_frame (s : State) (t j : Nat) (r : Ring) :
    (setRing s t j r).pending = s.pending ∧ (setRing s t j r).out = s.out ∧ (setRing s t j r).free = s.free ∧
    (setRing s t j r).variant = s.variant ∧ (setRing s t j r).time = s.time ∧ (setRing s t j r).elapsed = s.elapsed ∧
    (setRing s t j r).ck = s.ck ∧ (setRing s t j r).nextId = s.nextId ∧ (setRing s t j r).boot = s.boot ∧
    (setRing s t j r).flash = s.flash ∧ (setRing s t j r).fuses = s.fuses ∧ (setRing s t j r).mgmt = s.mgmt ∧
    (setRing s t j r).clk = s.clk ∧ (setRing s t j r).pwr = s.pwr ∧ (setRing s t j r).thm = s.thm ∧
    (setRing s t j r).log = s.log ∧ (setRing s t j r).trace = s.trace ∧ (setRing s t j r).bar = s.bar ∧
    (setRing s t j r).regions = s.regions ∧ (setRing s t j r).retireRows = s.retireRows ∧
    (setRing s t j r).retireBanks = s.retireBanks ∧ (setRing s t j r).ecc = s.ecc ∧ (setRing s t j r).eccTot = s.eccTot ∧
    (setRing s t j r).eccLog = s.eccLog ∧ (setRing s t j r).ueLog = s.ueLog ∧ (setRing s t j r).unattrRd = s.unattrRd ∧
    (setRing s t j r).unattrWr = s.unattrWr ∧ (setRing s t j r).dram = s.dram ∧ (setRing s t j r).check = s.check ∧
    (setRing s t j r).banks = s.banks ∧ (setRing s t j r).units = s.units ∧ (setRing s t j r).presses = s.presses ∧
    (setRing s t j r).decants = s.decants ∧ (setRing s t j r).scrubQ = s.scrubQ ∧ (setRing s t j r).scrub = s.scrub ∧
    (setRing s t j r).meterDQ = s.meterDQ ∧ (setRing s t j r).netDQ = s.netDQ ∧ (setRing s t j r).syncDQ = s.syncDQ ∧
    (setRing s t j r).dispDQ = s.dispDQ ∧ (setRing s t j r).groupOwner = s.groupOwner ∧
    (setRing s t j r).blockOwner = s.blockOwner ∧ (setRing s t j r).barOwner = s.barOwner ∧
    (setRing s t j r).pressOwner = s.pressOwner ∧ (setRing s t j r).switches = s.switches ∧
    (setRing s t j r).dispLast = s.dispLast ∧ (setRing s t j r).dispCk = s.dispCk ∧ (setRing s t j r).xlat = s.xlat ∧
    (setRing s t j r).xlatNext = s.xlatNext ∧ (setRing s t j r).fetched = s.fetched ∧ (setRing s t j r).fetches = s.fetches ∧
    (setRing s t j r).active = s.active ∧ (setRing s t j r).batches = s.batches ∧
    (setRing s t j r).hostWrites = s.hostWrites ∧ (setRing s t j r).sync = s.sync ∧ (setRing s t j r).net = s.net ∧
    (setRing s t j r).meterQ = s.meterQ ∧ (setRing s t j r).violation0C = s.violation0C :=
  ⟨rfl, rfl, rfl, rfl, rfl, rfl, rfl, rfl, rfl, rfl, rfl, rfl, rfl, rfl, rfl, rfl, rfl, rfl, rfl, rfl, rfl, rfl, rfl, rfl,
    rfl, rfl, rfl, rfl, rfl, rfl, rfl, rfl, rfl, rfl, rfl, rfl, rfl, rfl, rfl, rfl, rfl, rfl, rfl, rfl, rfl, rfl, rfl, rfl,
    rfl, rfl, rfl, rfl, rfl, rfl, rfl, rfl, rfl⟩

/-- `setBank` leaves every field but banks as it was. -/
@[simp] theorem setBank_frame (s : State) (b : Nat) (k : Bank) :
    (setBank s b k).pending = s.pending ∧ (setBank s b k).out = s.out ∧ (setBank s b k).free = s.free ∧
    (setBank s b k).variant = s.variant ∧ (setBank s b k).time = s.time ∧ (setBank s b k).elapsed = s.elapsed ∧
    (setBank s b k).ck = s.ck ∧ (setBank s b k).nextId = s.nextId ∧ (setBank s b k).boot = s.boot ∧
    (setBank s b k).flash = s.flash ∧ (setBank s b k).fuses = s.fuses ∧ (setBank s b k).mgmt = s.mgmt ∧
    (setBank s b k).clk = s.clk ∧ (setBank s b k).pwr = s.pwr ∧ (setBank s b k).thm = s.thm ∧ (setBank s b k).log = s.log ∧
    (setBank s b k).trace = s.trace ∧ (setBank s b k).bar = s.bar ∧ (setBank s b k).regions = s.regions ∧
    (setBank s b k).retireRows = s.retireRows ∧ (setBank s b k).retireBanks = s.retireBanks ∧ (setBank s b k).ecc = s.ecc ∧
    (setBank s b k).eccTot = s.eccTot ∧ (setBank s b k).eccLog = s.eccLog ∧ (setBank s b k).ueLog = s.ueLog ∧
    (setBank s b k).unattrRd = s.unattrRd ∧ (setBank s b k).unattrWr = s.unattrWr ∧ (setBank s b k).dram = s.dram ∧
    (setBank s b k).check = s.check ∧ (setBank s b k).units = s.units ∧ (setBank s b k).presses = s.presses ∧
    (setBank s b k).decants = s.decants ∧ (setBank s b k).scrubQ = s.scrubQ ∧ (setBank s b k).scrub = s.scrub ∧
    (setBank s b k).meterDQ = s.meterDQ ∧ (setBank s b k).netDQ = s.netDQ ∧ (setBank s b k).syncDQ = s.syncDQ ∧
    (setBank s b k).dispDQ = s.dispDQ ∧ (setBank s b k).tens = s.tens ∧ (setBank s b k).groupOwner = s.groupOwner ∧
    (setBank s b k).blockOwner = s.blockOwner ∧ (setBank s b k).barOwner = s.barOwner ∧
    (setBank s b k).pressOwner = s.pressOwner ∧ (setBank s b k).switches = s.switches ∧
    (setBank s b k).dispLast = s.dispLast ∧ (setBank s b k).dispCk = s.dispCk ∧ (setBank s b k).xlat = s.xlat ∧
    (setBank s b k).xlatNext = s.xlatNext ∧ (setBank s b k).fetched = s.fetched ∧ (setBank s b k).fetches = s.fetches ∧
    (setBank s b k).active = s.active ∧ (setBank s b k).batches = s.batches ∧ (setBank s b k).hostWrites = s.hostWrites ∧
    (setBank s b k).sync = s.sync ∧ (setBank s b k).net = s.net ∧ (setBank s b k).meterQ = s.meterQ ∧
    (setBank s b k).violation0C = s.violation0C :=
  ⟨rfl, rfl, rfl, rfl, rfl, rfl, rfl, rfl, rfl, rfl, rfl, rfl, rfl, rfl, rfl, rfl, rfl, rfl, rfl, rfl, rfl, rfl, rfl, rfl,
    rfl, rfl, rfl, rfl, rfl, rfl, rfl, rfl, rfl, rfl, rfl, rfl, rfl, rfl, rfl, rfl, rfl, rfl, rfl, rfl, rfl, rfl, rfl, rfl,
    rfl, rfl, rfl, rfl, rfl, rfl, rfl, rfl, rfl⟩

/-- `setRegion` leaves every field but regions as it was. -/
@[simp] theorem setRegion_frame (s : State) (n : Nat) (r : Region) :
    (setRegion s n r).pending = s.pending ∧ (setRegion s n r).out = s.out ∧ (setRegion s n r).free = s.free ∧
    (setRegion s n r).variant = s.variant ∧ (setRegion s n r).time = s.time ∧ (setRegion s n r).elapsed = s.elapsed ∧
    (setRegion s n r).ck = s.ck ∧ (setRegion s n r).nextId = s.nextId ∧ (setRegion s n r).boot = s.boot ∧
    (setRegion s n r).flash = s.flash ∧ (setRegion s n r).fuses = s.fuses ∧ (setRegion s n r).mgmt = s.mgmt ∧
    (setRegion s n r).clk = s.clk ∧ (setRegion s n r).pwr = s.pwr ∧ (setRegion s n r).thm = s.thm ∧
    (setRegion s n r).log = s.log ∧ (setRegion s n r).trace = s.trace ∧ (setRegion s n r).bar = s.bar ∧
    (setRegion s n r).retireRows = s.retireRows ∧ (setRegion s n r).retireBanks = s.retireBanks ∧
    (setRegion s n r).ecc = s.ecc ∧ (setRegion s n r).eccTot = s.eccTot ∧ (setRegion s n r).eccLog = s.eccLog ∧
    (setRegion s n r).ueLog = s.ueLog ∧ (setRegion s n r).unattrRd = s.unattrRd ∧ (setRegion s n r).unattrWr = s.unattrWr ∧
    (setRegion s n r).dram = s.dram ∧ (setRegion s n r).check = s.check ∧ (setRegion s n r).banks = s.banks ∧
    (setRegion s n r).units = s.units ∧ (setRegion s n r).presses = s.presses ∧ (setRegion s n r).decants = s.decants ∧
    (setRegion s n r).scrubQ = s.scrubQ ∧ (setRegion s n r).scrub = s.scrub ∧ (setRegion s n r).meterDQ = s.meterDQ ∧
    (setRegion s n r).netDQ = s.netDQ ∧ (setRegion s n r).syncDQ = s.syncDQ ∧ (setRegion s n r).dispDQ = s.dispDQ ∧
    (setRegion s n r).tens = s.tens ∧ (setRegion s n r).groupOwner = s.groupOwner ∧
    (setRegion s n r).blockOwner = s.blockOwner ∧ (setRegion s n r).barOwner = s.barOwner ∧
    (setRegion s n r).pressOwner = s.pressOwner ∧ (setRegion s n r).switches = s.switches ∧
    (setRegion s n r).dispLast = s.dispLast ∧ (setRegion s n r).dispCk = s.dispCk ∧ (setRegion s n r).xlat = s.xlat ∧
    (setRegion s n r).xlatNext = s.xlatNext ∧ (setRegion s n r).fetched = s.fetched ∧ (setRegion s n r).fetches = s.fetches ∧
    (setRegion s n r).active = s.active ∧ (setRegion s n r).batches = s.batches ∧
    (setRegion s n r).hostWrites = s.hostWrites ∧ (setRegion s n r).sync = s.sync ∧ (setRegion s n r).net = s.net ∧
    (setRegion s n r).meterQ = s.meterQ ∧ (setRegion s n r).violation0C = s.violation0C :=
  ⟨rfl, rfl, rfl, rfl, rfl, rfl, rfl, rfl, rfl, rfl, rfl, rfl, rfl, rfl, rfl, rfl, rfl, rfl, rfl, rfl, rfl, rfl, rfl, rfl,
    rfl, rfl, rfl, rfl, rfl, rfl, rfl, rfl, rfl, rfl, rfl, rfl, rfl, rfl, rfl, rfl, rfl, rfl, rfl, rfl, rfl, rfl, rfl, rfl,
    rfl, rfl, rfl, rfl, rfl, rfl, rfl, rfl, rfl⟩

/-- `setPeer` leaves every field but net as it was. -/
@[simp] theorem setPeer_frame (s : State) (m : Nat) (p : Peer) :
    (setPeer s m p).pending = s.pending ∧ (setPeer s m p).out = s.out ∧ (setPeer s m p).free = s.free ∧
    (setPeer s m p).variant = s.variant ∧ (setPeer s m p).time = s.time ∧ (setPeer s m p).elapsed = s.elapsed ∧
    (setPeer s m p).ck = s.ck ∧ (setPeer s m p).nextId = s.nextId ∧ (setPeer s m p).boot = s.boot ∧
    (setPeer s m p).flash = s.flash ∧ (setPeer s m p).fuses = s.fuses ∧ (setPeer s m p).mgmt = s.mgmt ∧
    (setPeer s m p).clk = s.clk ∧ (setPeer s m p).pwr = s.pwr ∧ (setPeer s m p).thm = s.thm ∧ (setPeer s m p).log = s.log ∧
    (setPeer s m p).trace = s.trace ∧ (setPeer s m p).bar = s.bar ∧ (setPeer s m p).regions = s.regions ∧
    (setPeer s m p).retireRows = s.retireRows ∧ (setPeer s m p).retireBanks = s.retireBanks ∧ (setPeer s m p).ecc = s.ecc ∧
    (setPeer s m p).eccTot = s.eccTot ∧ (setPeer s m p).eccLog = s.eccLog ∧ (setPeer s m p).ueLog = s.ueLog ∧
    (setPeer s m p).unattrRd = s.unattrRd ∧ (setPeer s m p).unattrWr = s.unattrWr ∧ (setPeer s m p).dram = s.dram ∧
    (setPeer s m p).check = s.check ∧ (setPeer s m p).banks = s.banks ∧ (setPeer s m p).units = s.units ∧
    (setPeer s m p).presses = s.presses ∧ (setPeer s m p).decants = s.decants ∧ (setPeer s m p).scrubQ = s.scrubQ ∧
    (setPeer s m p).scrub = s.scrub ∧ (setPeer s m p).meterDQ = s.meterDQ ∧ (setPeer s m p).netDQ = s.netDQ ∧
    (setPeer s m p).syncDQ = s.syncDQ ∧ (setPeer s m p).dispDQ = s.dispDQ ∧ (setPeer s m p).tens = s.tens ∧
    (setPeer s m p).groupOwner = s.groupOwner ∧ (setPeer s m p).blockOwner = s.blockOwner ∧
    (setPeer s m p).barOwner = s.barOwner ∧ (setPeer s m p).pressOwner = s.pressOwner ∧
    (setPeer s m p).switches = s.switches ∧ (setPeer s m p).dispLast = s.dispLast ∧ (setPeer s m p).dispCk = s.dispCk ∧
    (setPeer s m p).xlat = s.xlat ∧ (setPeer s m p).xlatNext = s.xlatNext ∧ (setPeer s m p).fetched = s.fetched ∧
    (setPeer s m p).fetches = s.fetches ∧ (setPeer s m p).active = s.active ∧ (setPeer s m p).batches = s.batches ∧
    (setPeer s m p).hostWrites = s.hostWrites ∧ (setPeer s m p).sync = s.sync ∧ (setPeer s m p).meterQ = s.meterQ ∧
    (setPeer s m p).violation0C = s.violation0C :=
  ⟨rfl, rfl, rfl, rfl, rfl, rfl, rfl, rfl, rfl, rfl, rfl, rfl, rfl, rfl, rfl, rfl, rfl, rfl, rfl, rfl, rfl, rfl, rfl, rfl,
    rfl, rfl, rfl, rfl, rfl, rfl, rfl, rfl, rfl, rfl, rfl, rfl, rfl, rfl, rfl, rfl, rfl, rfl, rfl, rfl, rfl, rfl, rfl, rfl,
    rfl, rfl, rfl, rfl, rfl, rfl, rfl, rfl, rfl⟩

/-- `setDom` leaves every field but pwr as it was. -/
@[simp] theorem setDom_frame (s : State) (d : Nat) (x : Domain) :
    (setDom s d x).pending = s.pending ∧ (setDom s d x).out = s.out ∧ (setDom s d x).free = s.free ∧
    (setDom s d x).variant = s.variant ∧ (setDom s d x).time = s.time ∧ (setDom s d x).elapsed = s.elapsed ∧
    (setDom s d x).ck = s.ck ∧ (setDom s d x).nextId = s.nextId ∧ (setDom s d x).boot = s.boot ∧
    (setDom s d x).flash = s.flash ∧ (setDom s d x).fuses = s.fuses ∧ (setDom s d x).mgmt = s.mgmt ∧
    (setDom s d x).clk = s.clk ∧ (setDom s d x).thm = s.thm ∧ (setDom s d x).log = s.log ∧ (setDom s d x).trace = s.trace ∧
    (setDom s d x).bar = s.bar ∧ (setDom s d x).regions = s.regions ∧ (setDom s d x).retireRows = s.retireRows ∧
    (setDom s d x).retireBanks = s.retireBanks ∧ (setDom s d x).ecc = s.ecc ∧ (setDom s d x).eccTot = s.eccTot ∧
    (setDom s d x).eccLog = s.eccLog ∧ (setDom s d x).ueLog = s.ueLog ∧ (setDom s d x).unattrRd = s.unattrRd ∧
    (setDom s d x).unattrWr = s.unattrWr ∧ (setDom s d x).dram = s.dram ∧ (setDom s d x).check = s.check ∧
    (setDom s d x).banks = s.banks ∧ (setDom s d x).units = s.units ∧ (setDom s d x).presses = s.presses ∧
    (setDom s d x).decants = s.decants ∧ (setDom s d x).scrubQ = s.scrubQ ∧ (setDom s d x).scrub = s.scrub ∧
    (setDom s d x).meterDQ = s.meterDQ ∧ (setDom s d x).netDQ = s.netDQ ∧ (setDom s d x).syncDQ = s.syncDQ ∧
    (setDom s d x).dispDQ = s.dispDQ ∧ (setDom s d x).tens = s.tens ∧ (setDom s d x).groupOwner = s.groupOwner ∧
    (setDom s d x).blockOwner = s.blockOwner ∧ (setDom s d x).barOwner = s.barOwner ∧
    (setDom s d x).pressOwner = s.pressOwner ∧ (setDom s d x).switches = s.switches ∧ (setDom s d x).dispLast = s.dispLast ∧
    (setDom s d x).dispCk = s.dispCk ∧ (setDom s d x).xlat = s.xlat ∧ (setDom s d x).xlatNext = s.xlatNext ∧
    (setDom s d x).fetched = s.fetched ∧ (setDom s d x).fetches = s.fetches ∧ (setDom s d x).active = s.active ∧
    (setDom s d x).batches = s.batches ∧ (setDom s d x).hostWrites = s.hostWrites ∧ (setDom s d x).sync = s.sync ∧
    (setDom s d x).net = s.net ∧ (setDom s d x).meterQ = s.meterQ ∧ (setDom s d x).violation0C = s.violation0C :=
  ⟨rfl, rfl, rfl, rfl, rfl, rfl, rfl, rfl, rfl, rfl, rfl, rfl, rfl, rfl, rfl, rfl, rfl, rfl, rfl, rfl, rfl, rfl, rfl, rfl,
    rfl, rfl, rfl, rfl, rfl, rfl, rfl, rfl, rfl, rfl, rfl, rfl, rfl, rfl, rfl, rfl, rfl, rfl, rfl, rfl, rfl, rfl, rfl, rfl,
    rfl, rfl, rfl, rfl, rfl, rfl, rfl, rfl, rfl⟩

/-- `setThm` leaves every field but thm as it was. -/
@[simp] theorem setThm_frame (s : State) (k : Nat) (x : ThmStack) :
    (setThm s k x).pending = s.pending ∧ (setThm s k x).out = s.out ∧ (setThm s k x).free = s.free ∧
    (setThm s k x).variant = s.variant ∧ (setThm s k x).time = s.time ∧ (setThm s k x).elapsed = s.elapsed ∧
    (setThm s k x).ck = s.ck ∧ (setThm s k x).nextId = s.nextId ∧ (setThm s k x).boot = s.boot ∧
    (setThm s k x).flash = s.flash ∧ (setThm s k x).fuses = s.fuses ∧ (setThm s k x).mgmt = s.mgmt ∧
    (setThm s k x).clk = s.clk ∧ (setThm s k x).pwr = s.pwr ∧ (setThm s k x).log = s.log ∧ (setThm s k x).trace = s.trace ∧
    (setThm s k x).bar = s.bar ∧ (setThm s k x).regions = s.regions ∧ (setThm s k x).retireRows = s.retireRows ∧
    (setThm s k x).retireBanks = s.retireBanks ∧ (setThm s k x).ecc = s.ecc ∧ (setThm s k x).eccTot = s.eccTot ∧
    (setThm s k x).eccLog = s.eccLog ∧ (setThm s k x).ueLog = s.ueLog ∧ (setThm s k x).unattrRd = s.unattrRd ∧
    (setThm s k x).unattrWr = s.unattrWr ∧ (setThm s k x).dram = s.dram ∧ (setThm s k x).check = s.check ∧
    (setThm s k x).banks = s.banks ∧ (setThm s k x).units = s.units ∧ (setThm s k x).presses = s.presses ∧
    (setThm s k x).decants = s.decants ∧ (setThm s k x).scrubQ = s.scrubQ ∧ (setThm s k x).scrub = s.scrub ∧
    (setThm s k x).meterDQ = s.meterDQ ∧ (setThm s k x).netDQ = s.netDQ ∧ (setThm s k x).syncDQ = s.syncDQ ∧
    (setThm s k x).dispDQ = s.dispDQ ∧ (setThm s k x).tens = s.tens ∧ (setThm s k x).groupOwner = s.groupOwner ∧
    (setThm s k x).blockOwner = s.blockOwner ∧ (setThm s k x).barOwner = s.barOwner ∧
    (setThm s k x).pressOwner = s.pressOwner ∧ (setThm s k x).switches = s.switches ∧ (setThm s k x).dispLast = s.dispLast ∧
    (setThm s k x).dispCk = s.dispCk ∧ (setThm s k x).xlat = s.xlat ∧ (setThm s k x).xlatNext = s.xlatNext ∧
    (setThm s k x).fetched = s.fetched ∧ (setThm s k x).fetches = s.fetches ∧ (setThm s k x).active = s.active ∧
    (setThm s k x).batches = s.batches ∧ (setThm s k x).hostWrites = s.hostWrites ∧ (setThm s k x).sync = s.sync ∧
    (setThm s k x).net = s.net ∧ (setThm s k x).meterQ = s.meterQ ∧ (setThm s k x).violation0C = s.violation0C :=
  ⟨rfl, rfl, rfl, rfl, rfl, rfl, rfl, rfl, rfl, rfl, rfl, rfl, rfl, rfl, rfl, rfl, rfl, rfl, rfl, rfl, rfl, rfl, rfl, rfl,
    rfl, rfl, rfl, rfl, rfl, rfl, rfl, rfl, rfl, rfl, rfl, rfl, rfl, rfl, rfl, rfl, rfl, rfl, rfl, rfl, rfl, rfl, rfl, rfl,
    rfl, rfl, rfl, rfl, rfl, rfl, rfl, rfl, rfl⟩

/-- `setBar` leaves every field but sync as it was. -/
@[simp] theorem setBar_frame (s : State) (n : Nat) (x : Barrier) :
    (setBar s n x).pending = s.pending ∧ (setBar s n x).out = s.out ∧ (setBar s n x).free = s.free ∧
    (setBar s n x).variant = s.variant ∧ (setBar s n x).time = s.time ∧ (setBar s n x).elapsed = s.elapsed ∧
    (setBar s n x).ck = s.ck ∧ (setBar s n x).nextId = s.nextId ∧ (setBar s n x).boot = s.boot ∧
    (setBar s n x).flash = s.flash ∧ (setBar s n x).fuses = s.fuses ∧ (setBar s n x).mgmt = s.mgmt ∧
    (setBar s n x).clk = s.clk ∧ (setBar s n x).pwr = s.pwr ∧ (setBar s n x).thm = s.thm ∧ (setBar s n x).log = s.log ∧
    (setBar s n x).trace = s.trace ∧ (setBar s n x).bar = s.bar ∧ (setBar s n x).regions = s.regions ∧
    (setBar s n x).retireRows = s.retireRows ∧ (setBar s n x).retireBanks = s.retireBanks ∧ (setBar s n x).ecc = s.ecc ∧
    (setBar s n x).eccTot = s.eccTot ∧ (setBar s n x).eccLog = s.eccLog ∧ (setBar s n x).ueLog = s.ueLog ∧
    (setBar s n x).unattrRd = s.unattrRd ∧ (setBar s n x).unattrWr = s.unattrWr ∧ (setBar s n x).dram = s.dram ∧
    (setBar s n x).check = s.check ∧ (setBar s n x).banks = s.banks ∧ (setBar s n x).units = s.units ∧
    (setBar s n x).presses = s.presses ∧ (setBar s n x).decants = s.decants ∧ (setBar s n x).scrubQ = s.scrubQ ∧
    (setBar s n x).scrub = s.scrub ∧ (setBar s n x).meterDQ = s.meterDQ ∧ (setBar s n x).netDQ = s.netDQ ∧
    (setBar s n x).syncDQ = s.syncDQ ∧ (setBar s n x).dispDQ = s.dispDQ ∧ (setBar s n x).tens = s.tens ∧
    (setBar s n x).groupOwner = s.groupOwner ∧ (setBar s n x).blockOwner = s.blockOwner ∧
    (setBar s n x).barOwner = s.barOwner ∧ (setBar s n x).pressOwner = s.pressOwner ∧ (setBar s n x).switches = s.switches ∧
    (setBar s n x).dispLast = s.dispLast ∧ (setBar s n x).dispCk = s.dispCk ∧ (setBar s n x).xlat = s.xlat ∧
    (setBar s n x).xlatNext = s.xlatNext ∧ (setBar s n x).fetched = s.fetched ∧ (setBar s n x).fetches = s.fetches ∧
    (setBar s n x).active = s.active ∧ (setBar s n x).batches = s.batches ∧ (setBar s n x).hostWrites = s.hostWrites ∧
    (setBar s n x).net = s.net ∧ (setBar s n x).meterQ = s.meterQ ∧ (setBar s n x).violation0C = s.violation0C :=
  ⟨rfl, rfl, rfl, rfl, rfl, rfl, rfl, rfl, rfl, rfl, rfl, rfl, rfl, rfl, rfl, rfl, rfl, rfl, rfl, rfl, rfl, rfl, rfl, rfl,
    rfl, rfl, rfl, rfl, rfl, rfl, rfl, rfl, rfl, rfl, rfl, rfl, rfl, rfl, rfl, rfl, rfl, rfl, rfl, rfl, rfl, rfl, rfl, rfl,
    rfl, rfl, rfl, rfl, rfl, rfl, rfl, rfl, rfl⟩

/-- `setKite` leaves every field but sync as it was. -/
@[simp] theorem setKite_frame (s : State) (k : Nat) (x : Option Kite) :
    (setKite s k x).pending = s.pending ∧ (setKite s k x).out = s.out ∧ (setKite s k x).free = s.free ∧
    (setKite s k x).variant = s.variant ∧ (setKite s k x).time = s.time ∧ (setKite s k x).elapsed = s.elapsed ∧
    (setKite s k x).ck = s.ck ∧ (setKite s k x).nextId = s.nextId ∧ (setKite s k x).boot = s.boot ∧
    (setKite s k x).flash = s.flash ∧ (setKite s k x).fuses = s.fuses ∧ (setKite s k x).mgmt = s.mgmt ∧
    (setKite s k x).clk = s.clk ∧ (setKite s k x).pwr = s.pwr ∧ (setKite s k x).thm = s.thm ∧ (setKite s k x).log = s.log ∧
    (setKite s k x).trace = s.trace ∧ (setKite s k x).bar = s.bar ∧ (setKite s k x).regions = s.regions ∧
    (setKite s k x).retireRows = s.retireRows ∧ (setKite s k x).retireBanks = s.retireBanks ∧ (setKite s k x).ecc = s.ecc ∧
    (setKite s k x).eccTot = s.eccTot ∧ (setKite s k x).eccLog = s.eccLog ∧ (setKite s k x).ueLog = s.ueLog ∧
    (setKite s k x).unattrRd = s.unattrRd ∧ (setKite s k x).unattrWr = s.unattrWr ∧ (setKite s k x).dram = s.dram ∧
    (setKite s k x).check = s.check ∧ (setKite s k x).banks = s.banks ∧ (setKite s k x).units = s.units ∧
    (setKite s k x).presses = s.presses ∧ (setKite s k x).decants = s.decants ∧ (setKite s k x).scrubQ = s.scrubQ ∧
    (setKite s k x).scrub = s.scrub ∧ (setKite s k x).meterDQ = s.meterDQ ∧ (setKite s k x).netDQ = s.netDQ ∧
    (setKite s k x).syncDQ = s.syncDQ ∧ (setKite s k x).dispDQ = s.dispDQ ∧ (setKite s k x).tens = s.tens ∧
    (setKite s k x).groupOwner = s.groupOwner ∧ (setKite s k x).blockOwner = s.blockOwner ∧
    (setKite s k x).barOwner = s.barOwner ∧ (setKite s k x).pressOwner = s.pressOwner ∧
    (setKite s k x).switches = s.switches ∧ (setKite s k x).dispLast = s.dispLast ∧ (setKite s k x).dispCk = s.dispCk ∧
    (setKite s k x).xlat = s.xlat ∧ (setKite s k x).xlatNext = s.xlatNext ∧ (setKite s k x).fetched = s.fetched ∧
    (setKite s k x).fetches = s.fetches ∧ (setKite s k x).active = s.active ∧ (setKite s k x).batches = s.batches ∧
    (setKite s k x).hostWrites = s.hostWrites ∧ (setKite s k x).net = s.net ∧ (setKite s k x).meterQ = s.meterQ ∧
    (setKite s k x).violation0C = s.violation0C :=
  ⟨rfl, rfl, rfl, rfl, rfl, rfl, rfl, rfl, rfl, rfl, rfl, rfl, rfl, rfl, rfl, rfl, rfl, rfl, rfl, rfl, rfl, rfl, rfl, rfl,
    rfl, rfl, rfl, rfl, rfl, rfl, rfl, rfl, rfl, rfl, rfl, rfl, rfl, rfl, rfl, rfl, rfl, rfl, rfl, rfl, rfl, rfl, rfl, rfl,
    rfl, rfl, rfl, rfl, rfl, rfl, rfl, rfl, rfl⟩

/-- `setReg` leaves every field but bar as it was. -/
@[simp] theorem setReg_frame (s : State) (off : Nat) (v : Word64) :
    (setReg s off v).pending = s.pending ∧ (setReg s off v).out = s.out ∧ (setReg s off v).free = s.free ∧
    (setReg s off v).variant = s.variant ∧ (setReg s off v).time = s.time ∧ (setReg s off v).elapsed = s.elapsed ∧
    (setReg s off v).ck = s.ck ∧ (setReg s off v).nextId = s.nextId ∧ (setReg s off v).boot = s.boot ∧
    (setReg s off v).flash = s.flash ∧ (setReg s off v).fuses = s.fuses ∧ (setReg s off v).mgmt = s.mgmt ∧
    (setReg s off v).clk = s.clk ∧ (setReg s off v).pwr = s.pwr ∧ (setReg s off v).thm = s.thm ∧
    (setReg s off v).log = s.log ∧ (setReg s off v).trace = s.trace ∧ (setReg s off v).regions = s.regions ∧
    (setReg s off v).retireRows = s.retireRows ∧ (setReg s off v).retireBanks = s.retireBanks ∧
    (setReg s off v).ecc = s.ecc ∧ (setReg s off v).eccTot = s.eccTot ∧ (setReg s off v).eccLog = s.eccLog ∧
    (setReg s off v).ueLog = s.ueLog ∧ (setReg s off v).unattrRd = s.unattrRd ∧ (setReg s off v).unattrWr = s.unattrWr ∧
    (setReg s off v).dram = s.dram ∧ (setReg s off v).check = s.check ∧ (setReg s off v).banks = s.banks ∧
    (setReg s off v).units = s.units ∧ (setReg s off v).presses = s.presses ∧ (setReg s off v).decants = s.decants ∧
    (setReg s off v).scrubQ = s.scrubQ ∧ (setReg s off v).scrub = s.scrub ∧ (setReg s off v).meterDQ = s.meterDQ ∧
    (setReg s off v).netDQ = s.netDQ ∧ (setReg s off v).syncDQ = s.syncDQ ∧ (setReg s off v).dispDQ = s.dispDQ ∧
    (setReg s off v).tens = s.tens ∧ (setReg s off v).groupOwner = s.groupOwner ∧
    (setReg s off v).blockOwner = s.blockOwner ∧ (setReg s off v).barOwner = s.barOwner ∧
    (setReg s off v).pressOwner = s.pressOwner ∧ (setReg s off v).switches = s.switches ∧
    (setReg s off v).dispLast = s.dispLast ∧ (setReg s off v).dispCk = s.dispCk ∧ (setReg s off v).xlat = s.xlat ∧
    (setReg s off v).xlatNext = s.xlatNext ∧ (setReg s off v).fetched = s.fetched ∧ (setReg s off v).fetches = s.fetches ∧
    (setReg s off v).active = s.active ∧ (setReg s off v).batches = s.batches ∧ (setReg s off v).hostWrites = s.hostWrites ∧
    (setReg s off v).sync = s.sync ∧ (setReg s off v).net = s.net ∧ (setReg s off v).meterQ = s.meterQ ∧
    (setReg s off v).violation0C = s.violation0C :=
  ⟨rfl, rfl, rfl, rfl, rfl, rfl, rfl, rfl, rfl, rfl, rfl, rfl, rfl, rfl, rfl, rfl, rfl, rfl, rfl, rfl, rfl, rfl, rfl, rfl,
    rfl, rfl, rfl, rfl, rfl, rfl, rfl, rfl, rfl, rfl, rfl, rfl, rfl, rfl, rfl, rfl, rfl, rfl, rfl, rfl, rfl, rfl, rfl, rfl,
    rfl, rfl, rfl, rfl, rfl, rfl, rfl, rfl, rfl⟩

/-- `modUnit` leaves every field but units as it was. -/
@[simp] theorem modUnit_frame (s : State) (b : Nat) (f : BankUnit → BankUnit) :
    (modUnit s b f).pending = s.pending ∧ (modUnit s b f).out = s.out ∧ (modUnit s b f).free = s.free ∧
    (modUnit s b f).variant = s.variant ∧ (modUnit s b f).time = s.time ∧ (modUnit s b f).elapsed = s.elapsed ∧
    (modUnit s b f).ck = s.ck ∧ (modUnit s b f).nextId = s.nextId ∧ (modUnit s b f).boot = s.boot ∧
    (modUnit s b f).flash = s.flash ∧ (modUnit s b f).fuses = s.fuses ∧ (modUnit s b f).mgmt = s.mgmt ∧
    (modUnit s b f).clk = s.clk ∧ (modUnit s b f).pwr = s.pwr ∧ (modUnit s b f).thm = s.thm ∧ (modUnit s b f).log = s.log ∧
    (modUnit s b f).trace = s.trace ∧ (modUnit s b f).bar = s.bar ∧ (modUnit s b f).regions = s.regions ∧
    (modUnit s b f).retireRows = s.retireRows ∧ (modUnit s b f).retireBanks = s.retireBanks ∧ (modUnit s b f).ecc = s.ecc ∧
    (modUnit s b f).eccTot = s.eccTot ∧ (modUnit s b f).eccLog = s.eccLog ∧ (modUnit s b f).ueLog = s.ueLog ∧
    (modUnit s b f).unattrRd = s.unattrRd ∧ (modUnit s b f).unattrWr = s.unattrWr ∧ (modUnit s b f).dram = s.dram ∧
    (modUnit s b f).check = s.check ∧ (modUnit s b f).banks = s.banks ∧ (modUnit s b f).presses = s.presses ∧
    (modUnit s b f).decants = s.decants ∧ (modUnit s b f).scrubQ = s.scrubQ ∧ (modUnit s b f).scrub = s.scrub ∧
    (modUnit s b f).meterDQ = s.meterDQ ∧ (modUnit s b f).netDQ = s.netDQ ∧ (modUnit s b f).syncDQ = s.syncDQ ∧
    (modUnit s b f).dispDQ = s.dispDQ ∧ (modUnit s b f).tens = s.tens ∧ (modUnit s b f).groupOwner = s.groupOwner ∧
    (modUnit s b f).blockOwner = s.blockOwner ∧ (modUnit s b f).barOwner = s.barOwner ∧
    (modUnit s b f).pressOwner = s.pressOwner ∧ (modUnit s b f).switches = s.switches ∧
    (modUnit s b f).dispLast = s.dispLast ∧ (modUnit s b f).dispCk = s.dispCk ∧ (modUnit s b f).xlat = s.xlat ∧
    (modUnit s b f).xlatNext = s.xlatNext ∧ (modUnit s b f).fetched = s.fetched ∧ (modUnit s b f).fetches = s.fetches ∧
    (modUnit s b f).active = s.active ∧ (modUnit s b f).batches = s.batches ∧ (modUnit s b f).hostWrites = s.hostWrites ∧
    (modUnit s b f).sync = s.sync ∧ (modUnit s b f).net = s.net ∧ (modUnit s b f).meterQ = s.meterQ ∧
    (modUnit s b f).violation0C = s.violation0C :=
  ⟨rfl, rfl, rfl, rfl, rfl, rfl, rfl, rfl, rfl, rfl, rfl, rfl, rfl, rfl, rfl, rfl, rfl, rfl, rfl, rfl, rfl, rfl, rfl, rfl,
    rfl, rfl, rfl, rfl, rfl, rfl, rfl, rfl, rfl, rfl, rfl, rfl, rfl, rfl, rfl, rfl, rfl, rfl, rfl, rfl, rfl, rfl, rfl, rfl,
    rfl, rfl, rfl, rfl, rfl, rfl, rfl, rfl, rfl⟩

/-- `modPress` leaves every field but presses as it was. -/
@[simp] theorem modPress_frame (s : State) (e : Nat) (f : Press → Press) :
    (modPress s e f).pending = s.pending ∧ (modPress s e f).out = s.out ∧ (modPress s e f).free = s.free ∧
    (modPress s e f).variant = s.variant ∧ (modPress s e f).time = s.time ∧ (modPress s e f).elapsed = s.elapsed ∧
    (modPress s e f).ck = s.ck ∧ (modPress s e f).nextId = s.nextId ∧ (modPress s e f).boot = s.boot ∧
    (modPress s e f).flash = s.flash ∧ (modPress s e f).fuses = s.fuses ∧ (modPress s e f).mgmt = s.mgmt ∧
    (modPress s e f).clk = s.clk ∧ (modPress s e f).pwr = s.pwr ∧ (modPress s e f).thm = s.thm ∧
    (modPress s e f).log = s.log ∧ (modPress s e f).trace = s.trace ∧ (modPress s e f).bar = s.bar ∧
    (modPress s e f).regions = s.regions ∧ (modPress s e f).retireRows = s.retireRows ∧
    (modPress s e f).retireBanks = s.retireBanks ∧ (modPress s e f).ecc = s.ecc ∧ (modPress s e f).eccTot = s.eccTot ∧
    (modPress s e f).eccLog = s.eccLog ∧ (modPress s e f).ueLog = s.ueLog ∧ (modPress s e f).unattrRd = s.unattrRd ∧
    (modPress s e f).unattrWr = s.unattrWr ∧ (modPress s e f).dram = s.dram ∧ (modPress s e f).check = s.check ∧
    (modPress s e f).banks = s.banks ∧ (modPress s e f).units = s.units ∧ (modPress s e f).decants = s.decants ∧
    (modPress s e f).scrubQ = s.scrubQ ∧ (modPress s e f).scrub = s.scrub ∧ (modPress s e f).meterDQ = s.meterDQ ∧
    (modPress s e f).netDQ = s.netDQ ∧ (modPress s e f).syncDQ = s.syncDQ ∧ (modPress s e f).dispDQ = s.dispDQ ∧
    (modPress s e f).tens = s.tens ∧ (modPress s e f).groupOwner = s.groupOwner ∧
    (modPress s e f).blockOwner = s.blockOwner ∧ (modPress s e f).barOwner = s.barOwner ∧
    (modPress s e f).pressOwner = s.pressOwner ∧ (modPress s e f).switches = s.switches ∧
    (modPress s e f).dispLast = s.dispLast ∧ (modPress s e f).dispCk = s.dispCk ∧ (modPress s e f).xlat = s.xlat ∧
    (modPress s e f).xlatNext = s.xlatNext ∧ (modPress s e f).fetched = s.fetched ∧ (modPress s e f).fetches = s.fetches ∧
    (modPress s e f).active = s.active ∧ (modPress s e f).batches = s.batches ∧ (modPress s e f).hostWrites = s.hostWrites ∧
    (modPress s e f).sync = s.sync ∧ (modPress s e f).net = s.net ∧ (modPress s e f).meterQ = s.meterQ ∧
    (modPress s e f).violation0C = s.violation0C :=
  ⟨rfl, rfl, rfl, rfl, rfl, rfl, rfl, rfl, rfl, rfl, rfl, rfl, rfl, rfl, rfl, rfl, rfl, rfl, rfl, rfl, rfl, rfl, rfl, rfl,
    rfl, rfl, rfl, rfl, rfl, rfl, rfl, rfl, rfl, rfl, rfl, rfl, rfl, rfl, rfl, rfl, rfl, rfl, rfl, rfl, rfl, rfl, rfl, rfl,
    rfl, rfl, rfl, rfl, rfl, rfl, rfl, rfl, rfl⟩

/-- `modTen` leaves every field but tens as it was. -/
@[simp] theorem modTen_frame (s : State) (t : Nat) (f : Tenancy → Tenancy) :
    (modTen s t f).pending = s.pending ∧ (modTen s t f).out = s.out ∧ (modTen s t f).free = s.free ∧
    (modTen s t f).variant = s.variant ∧ (modTen s t f).time = s.time ∧ (modTen s t f).elapsed = s.elapsed ∧
    (modTen s t f).ck = s.ck ∧ (modTen s t f).nextId = s.nextId ∧ (modTen s t f).boot = s.boot ∧
    (modTen s t f).flash = s.flash ∧ (modTen s t f).fuses = s.fuses ∧ (modTen s t f).mgmt = s.mgmt ∧
    (modTen s t f).clk = s.clk ∧ (modTen s t f).pwr = s.pwr ∧ (modTen s t f).thm = s.thm ∧ (modTen s t f).log = s.log ∧
    (modTen s t f).trace = s.trace ∧ (modTen s t f).bar = s.bar ∧ (modTen s t f).regions = s.regions ∧
    (modTen s t f).retireRows = s.retireRows ∧ (modTen s t f).retireBanks = s.retireBanks ∧ (modTen s t f).ecc = s.ecc ∧
    (modTen s t f).eccTot = s.eccTot ∧ (modTen s t f).eccLog = s.eccLog ∧ (modTen s t f).ueLog = s.ueLog ∧
    (modTen s t f).unattrRd = s.unattrRd ∧ (modTen s t f).unattrWr = s.unattrWr ∧ (modTen s t f).dram = s.dram ∧
    (modTen s t f).check = s.check ∧ (modTen s t f).banks = s.banks ∧ (modTen s t f).units = s.units ∧
    (modTen s t f).presses = s.presses ∧ (modTen s t f).decants = s.decants ∧ (modTen s t f).scrubQ = s.scrubQ ∧
    (modTen s t f).scrub = s.scrub ∧ (modTen s t f).meterDQ = s.meterDQ ∧ (modTen s t f).netDQ = s.netDQ ∧
    (modTen s t f).syncDQ = s.syncDQ ∧ (modTen s t f).dispDQ = s.dispDQ ∧ (modTen s t f).groupOwner = s.groupOwner ∧
    (modTen s t f).blockOwner = s.blockOwner ∧ (modTen s t f).barOwner = s.barOwner ∧
    (modTen s t f).pressOwner = s.pressOwner ∧ (modTen s t f).switches = s.switches ∧ (modTen s t f).dispLast = s.dispLast ∧
    (modTen s t f).dispCk = s.dispCk ∧ (modTen s t f).xlat = s.xlat ∧ (modTen s t f).xlatNext = s.xlatNext ∧
    (modTen s t f).fetched = s.fetched ∧ (modTen s t f).fetches = s.fetches ∧ (modTen s t f).active = s.active ∧
    (modTen s t f).batches = s.batches ∧ (modTen s t f).hostWrites = s.hostWrites ∧ (modTen s t f).sync = s.sync ∧
    (modTen s t f).net = s.net ∧ (modTen s t f).meterQ = s.meterQ ∧ (modTen s t f).violation0C = s.violation0C :=
  ⟨rfl, rfl, rfl, rfl, rfl, rfl, rfl, rfl, rfl, rfl, rfl, rfl, rfl, rfl, rfl, rfl, rfl, rfl, rfl, rfl, rfl, rfl, rfl, rfl,
    rfl, rfl, rfl, rfl, rfl, rfl, rfl, rfl, rfl, rfl, rfl, rfl, rfl, rfl, rfl, rfl, rfl, rfl, rfl, rfl, rfl, rfl, rfl, rfl,
    rfl, rfl, rfl, rfl, rfl, rfl, rfl, rfl, rfl⟩

/-- `modPeer` leaves every field but net as it was. -/
@[simp] theorem modPeer_frame (s : State) (m : Nat) (f : Peer → Peer) :
    (modPeer s m f).pending = s.pending ∧ (modPeer s m f).out = s.out ∧ (modPeer s m f).free = s.free ∧
    (modPeer s m f).variant = s.variant ∧ (modPeer s m f).time = s.time ∧ (modPeer s m f).elapsed = s.elapsed ∧
    (modPeer s m f).ck = s.ck ∧ (modPeer s m f).nextId = s.nextId ∧ (modPeer s m f).boot = s.boot ∧
    (modPeer s m f).flash = s.flash ∧ (modPeer s m f).fuses = s.fuses ∧ (modPeer s m f).mgmt = s.mgmt ∧
    (modPeer s m f).clk = s.clk ∧ (modPeer s m f).pwr = s.pwr ∧ (modPeer s m f).thm = s.thm ∧ (modPeer s m f).log = s.log ∧
    (modPeer s m f).trace = s.trace ∧ (modPeer s m f).bar = s.bar ∧ (modPeer s m f).regions = s.regions ∧
    (modPeer s m f).retireRows = s.retireRows ∧ (modPeer s m f).retireBanks = s.retireBanks ∧ (modPeer s m f).ecc = s.ecc ∧
    (modPeer s m f).eccTot = s.eccTot ∧ (modPeer s m f).eccLog = s.eccLog ∧ (modPeer s m f).ueLog = s.ueLog ∧
    (modPeer s m f).unattrRd = s.unattrRd ∧ (modPeer s m f).unattrWr = s.unattrWr ∧ (modPeer s m f).dram = s.dram ∧
    (modPeer s m f).check = s.check ∧ (modPeer s m f).banks = s.banks ∧ (modPeer s m f).units = s.units ∧
    (modPeer s m f).presses = s.presses ∧ (modPeer s m f).decants = s.decants ∧ (modPeer s m f).scrubQ = s.scrubQ ∧
    (modPeer s m f).scrub = s.scrub ∧ (modPeer s m f).meterDQ = s.meterDQ ∧ (modPeer s m f).netDQ = s.netDQ ∧
    (modPeer s m f).syncDQ = s.syncDQ ∧ (modPeer s m f).dispDQ = s.dispDQ ∧ (modPeer s m f).tens = s.tens ∧
    (modPeer s m f).groupOwner = s.groupOwner ∧ (modPeer s m f).blockOwner = s.blockOwner ∧
    (modPeer s m f).barOwner = s.barOwner ∧ (modPeer s m f).pressOwner = s.pressOwner ∧
    (modPeer s m f).switches = s.switches ∧ (modPeer s m f).dispLast = s.dispLast ∧ (modPeer s m f).dispCk = s.dispCk ∧
    (modPeer s m f).xlat = s.xlat ∧ (modPeer s m f).xlatNext = s.xlatNext ∧ (modPeer s m f).fetched = s.fetched ∧
    (modPeer s m f).fetches = s.fetches ∧ (modPeer s m f).active = s.active ∧ (modPeer s m f).batches = s.batches ∧
    (modPeer s m f).hostWrites = s.hostWrites ∧ (modPeer s m f).sync = s.sync ∧ (modPeer s m f).meterQ = s.meterQ ∧
    (modPeer s m f).violation0C = s.violation0C :=
  ⟨rfl, rfl, rfl, rfl, rfl, rfl, rfl, rfl, rfl, rfl, rfl, rfl, rfl, rfl, rfl, rfl, rfl, rfl, rfl, rfl, rfl, rfl, rfl, rfl,
    rfl, rfl, rfl, rfl, rfl, rfl, rfl, rfl, rfl, rfl, rfl, rfl, rfl, rfl, rfl, rfl, rfl, rfl, rfl, rfl, rfl, rfl, rfl, rfl,
    rfl, rfl, rfl, rfl, rfl, rfl, rfl, rfl, rfl⟩

/-- `emit` leaves every field but out as it was. -/
@[simp] theorem emit_frame (s : State) (o : Output) :
    (emit s o).pending = s.pending ∧ (emit s o).free = s.free ∧ (emit s o).variant = s.variant ∧ (emit s o).time = s.time ∧
    (emit s o).elapsed = s.elapsed ∧ (emit s o).ck = s.ck ∧ (emit s o).nextId = s.nextId ∧ (emit s o).boot = s.boot ∧
    (emit s o).flash = s.flash ∧ (emit s o).fuses = s.fuses ∧ (emit s o).mgmt = s.mgmt ∧ (emit s o).clk = s.clk ∧
    (emit s o).pwr = s.pwr ∧ (emit s o).thm = s.thm ∧ (emit s o).log = s.log ∧ (emit s o).trace = s.trace ∧
    (emit s o).bar = s.bar ∧ (emit s o).regions = s.regions ∧ (emit s o).retireRows = s.retireRows ∧
    (emit s o).retireBanks = s.retireBanks ∧ (emit s o).ecc = s.ecc ∧ (emit s o).eccTot = s.eccTot ∧
    (emit s o).eccLog = s.eccLog ∧ (emit s o).ueLog = s.ueLog ∧ (emit s o).unattrRd = s.unattrRd ∧
    (emit s o).unattrWr = s.unattrWr ∧ (emit s o).dram = s.dram ∧ (emit s o).check = s.check ∧ (emit s o).banks = s.banks ∧
    (emit s o).units = s.units ∧ (emit s o).presses = s.presses ∧ (emit s o).decants = s.decants ∧
    (emit s o).scrubQ = s.scrubQ ∧ (emit s o).scrub = s.scrub ∧ (emit s o).meterDQ = s.meterDQ ∧ (emit s o).netDQ = s.netDQ ∧
    (emit s o).syncDQ = s.syncDQ ∧ (emit s o).dispDQ = s.dispDQ ∧ (emit s o).tens = s.tens ∧
    (emit s o).groupOwner = s.groupOwner ∧ (emit s o).blockOwner = s.blockOwner ∧ (emit s o).barOwner = s.barOwner ∧
    (emit s o).pressOwner = s.pressOwner ∧ (emit s o).switches = s.switches ∧ (emit s o).dispLast = s.dispLast ∧
    (emit s o).dispCk = s.dispCk ∧ (emit s o).xlat = s.xlat ∧ (emit s o).xlatNext = s.xlatNext ∧
    (emit s o).fetched = s.fetched ∧ (emit s o).fetches = s.fetches ∧ (emit s o).active = s.active ∧
    (emit s o).batches = s.batches ∧ (emit s o).hostWrites = s.hostWrites ∧ (emit s o).sync = s.sync ∧
    (emit s o).net = s.net ∧ (emit s o).meterQ = s.meterQ ∧ (emit s o).violation0C = s.violation0C :=
  ⟨rfl, rfl, rfl, rfl, rfl, rfl, rfl, rfl, rfl, rfl, rfl, rfl, rfl, rfl, rfl, rfl, rfl, rfl, rfl, rfl, rfl, rfl, rfl, rfl,
    rfl, rfl, rfl, rfl, rfl, rfl, rfl, rfl, rfl, rfl, rfl, rfl, rfl, rfl, rfl, rfl, rfl, rfl, rfl, rfl, rfl, rfl, rfl, rfl,
    rfl, rfl, rfl, rfl, rfl, rfl, rfl, rfl, rfl⟩

/-- `meter` leaves every field but meterQ as it was. -/
@[simp] theorem meter_frame (s : State) (t m n p : Nat) :
    (meter s t m n p).pending = s.pending ∧ (meter s t m n p).out = s.out ∧ (meter s t m n p).free = s.free ∧
    (meter s t m n p).variant = s.variant ∧ (meter s t m n p).time = s.time ∧ (meter s t m n p).elapsed = s.elapsed ∧
    (meter s t m n p).ck = s.ck ∧ (meter s t m n p).nextId = s.nextId ∧ (meter s t m n p).boot = s.boot ∧
    (meter s t m n p).flash = s.flash ∧ (meter s t m n p).fuses = s.fuses ∧ (meter s t m n p).mgmt = s.mgmt ∧
    (meter s t m n p).clk = s.clk ∧ (meter s t m n p).pwr = s.pwr ∧ (meter s t m n p).thm = s.thm ∧
    (meter s t m n p).log = s.log ∧ (meter s t m n p).trace = s.trace ∧ (meter s t m n p).bar = s.bar ∧
    (meter s t m n p).regions = s.regions ∧ (meter s t m n p).retireRows = s.retireRows ∧
    (meter s t m n p).retireBanks = s.retireBanks ∧ (meter s t m n p).ecc = s.ecc ∧ (meter s t m n p).eccTot = s.eccTot ∧
    (meter s t m n p).eccLog = s.eccLog ∧ (meter s t m n p).ueLog = s.ueLog ∧ (meter s t m n p).unattrRd = s.unattrRd ∧
    (meter s t m n p).unattrWr = s.unattrWr ∧ (meter s t m n p).dram = s.dram ∧ (meter s t m n p).check = s.check ∧
    (meter s t m n p).banks = s.banks ∧ (meter s t m n p).units = s.units ∧ (meter s t m n p).presses = s.presses ∧
    (meter s t m n p).decants = s.decants ∧ (meter s t m n p).scrubQ = s.scrubQ ∧ (meter s t m n p).scrub = s.scrub ∧
    (meter s t m n p).meterDQ = s.meterDQ ∧ (meter s t m n p).netDQ = s.netDQ ∧ (meter s t m n p).syncDQ = s.syncDQ ∧
    (meter s t m n p).dispDQ = s.dispDQ ∧ (meter s t m n p).tens = s.tens ∧ (meter s t m n p).groupOwner = s.groupOwner ∧
    (meter s t m n p).blockOwner = s.blockOwner ∧ (meter s t m n p).barOwner = s.barOwner ∧
    (meter s t m n p).pressOwner = s.pressOwner ∧ (meter s t m n p).switches = s.switches ∧
    (meter s t m n p).dispLast = s.dispLast ∧ (meter s t m n p).dispCk = s.dispCk ∧ (meter s t m n p).xlat = s.xlat ∧
    (meter s t m n p).xlatNext = s.xlatNext ∧ (meter s t m n p).fetched = s.fetched ∧ (meter s t m n p).fetches = s.fetches ∧
    (meter s t m n p).active = s.active ∧ (meter s t m n p).batches = s.batches ∧
    (meter s t m n p).hostWrites = s.hostWrites ∧ (meter s t m n p).sync = s.sync ∧ (meter s t m n p).net = s.net ∧
    (meter s t m n p).violation0C = s.violation0C :=
  ⟨rfl, rfl, rfl, rfl, rfl, rfl, rfl, rfl, rfl, rfl, rfl, rfl, rfl, rfl, rfl, rfl, rfl, rfl, rfl, rfl, rfl, rfl, rfl, rfl,
    rfl, rfl, rfl, rfl, rfl, rfl, rfl, rfl, rfl, rfl, rfl, rfl, rfl, rfl, rfl, rfl, rfl, rfl, rfl, rfl, rfl, rfl, rfl, rfl,
    rfl, rfl, rfl, rfl, rfl, rfl, rfl, rfl, rfl⟩

/-- `logAdd` leaves every field but log as it was. -/
@[simp] theorem logAdd_frame (s : State) (lv sr cl nu : Nat) (tag : Option (BitVec 16)) (tn : Option Nat) (d : List Byte) :
    (logAdd s lv sr cl nu tag tn d).pending = s.pending ∧ (logAdd s lv sr cl nu tag tn d).out = s.out ∧
    (logAdd s lv sr cl nu tag tn d).free = s.free ∧ (logAdd s lv sr cl nu tag tn d).variant = s.variant ∧
    (logAdd s lv sr cl nu tag tn d).time = s.time ∧ (logAdd s lv sr cl nu tag tn d).elapsed = s.elapsed ∧
    (logAdd s lv sr cl nu tag tn d).ck = s.ck ∧ (logAdd s lv sr cl nu tag tn d).nextId = s.nextId ∧
    (logAdd s lv sr cl nu tag tn d).boot = s.boot ∧ (logAdd s lv sr cl nu tag tn d).flash = s.flash ∧
    (logAdd s lv sr cl nu tag tn d).fuses = s.fuses ∧ (logAdd s lv sr cl nu tag tn d).mgmt = s.mgmt ∧
    (logAdd s lv sr cl nu tag tn d).clk = s.clk ∧ (logAdd s lv sr cl nu tag tn d).pwr = s.pwr ∧
    (logAdd s lv sr cl nu tag tn d).thm = s.thm ∧ (logAdd s lv sr cl nu tag tn d).trace = s.trace ∧
    (logAdd s lv sr cl nu tag tn d).bar = s.bar ∧ (logAdd s lv sr cl nu tag tn d).regions = s.regions ∧
    (logAdd s lv sr cl nu tag tn d).retireRows = s.retireRows ∧ (logAdd s lv sr cl nu tag tn d).retireBanks = s.retireBanks ∧
    (logAdd s lv sr cl nu tag tn d).ecc = s.ecc ∧ (logAdd s lv sr cl nu tag tn d).eccTot = s.eccTot ∧
    (logAdd s lv sr cl nu tag tn d).eccLog = s.eccLog ∧ (logAdd s lv sr cl nu tag tn d).ueLog = s.ueLog ∧
    (logAdd s lv sr cl nu tag tn d).unattrRd = s.unattrRd ∧ (logAdd s lv sr cl nu tag tn d).unattrWr = s.unattrWr ∧
    (logAdd s lv sr cl nu tag tn d).dram = s.dram ∧ (logAdd s lv sr cl nu tag tn d).check = s.check ∧
    (logAdd s lv sr cl nu tag tn d).banks = s.banks ∧ (logAdd s lv sr cl nu tag tn d).units = s.units ∧
    (logAdd s lv sr cl nu tag tn d).presses = s.presses ∧ (logAdd s lv sr cl nu tag tn d).decants = s.decants ∧
    (logAdd s lv sr cl nu tag tn d).scrubQ = s.scrubQ ∧ (logAdd s lv sr cl nu tag tn d).scrub = s.scrub ∧
    (logAdd s lv sr cl nu tag tn d).meterDQ = s.meterDQ ∧ (logAdd s lv sr cl nu tag tn d).netDQ = s.netDQ ∧
    (logAdd s lv sr cl nu tag tn d).syncDQ = s.syncDQ ∧ (logAdd s lv sr cl nu tag tn d).dispDQ = s.dispDQ ∧
    (logAdd s lv sr cl nu tag tn d).tens = s.tens ∧ (logAdd s lv sr cl nu tag tn d).groupOwner = s.groupOwner ∧
    (logAdd s lv sr cl nu tag tn d).blockOwner = s.blockOwner ∧ (logAdd s lv sr cl nu tag tn d).barOwner = s.barOwner ∧
    (logAdd s lv sr cl nu tag tn d).pressOwner = s.pressOwner ∧ (logAdd s lv sr cl nu tag tn d).switches = s.switches ∧
    (logAdd s lv sr cl nu tag tn d).dispLast = s.dispLast ∧ (logAdd s lv sr cl nu tag tn d).dispCk = s.dispCk ∧
    (logAdd s lv sr cl nu tag tn d).xlat = s.xlat ∧ (logAdd s lv sr cl nu tag tn d).xlatNext = s.xlatNext ∧
    (logAdd s lv sr cl nu tag tn d).fetched = s.fetched ∧ (logAdd s lv sr cl nu tag tn d).fetches = s.fetches ∧
    (logAdd s lv sr cl nu tag tn d).active = s.active ∧ (logAdd s lv sr cl nu tag tn d).batches = s.batches ∧
    (logAdd s lv sr cl nu tag tn d).hostWrites = s.hostWrites ∧ (logAdd s lv sr cl nu tag tn d).sync = s.sync ∧
    (logAdd s lv sr cl nu tag tn d).net = s.net ∧ (logAdd s lv sr cl nu tag tn d).meterQ = s.meterQ ∧
    (logAdd s lv sr cl nu tag tn d).violation0C = s.violation0C :=
  ⟨rfl, rfl, rfl, rfl, rfl, rfl, rfl, rfl, rfl, rfl, rfl, rfl, rfl, rfl, rfl, rfl, rfl, rfl, rfl, rfl, rfl, rfl, rfl, rfl,
    rfl, rfl, rfl, rfl, rfl, rfl, rfl, rfl, rfl, rfl, rfl, rfl, rfl, rfl, rfl, rfl, rfl, rfl, rfl, rfl, rfl, rfl, rfl, rfl,
    rfl, rfl, rfl, rfl, rfl, rfl, rfl, rfl, rfl⟩

/-- `logSetup` leaves every field but log as it was. -/
@[simp] theorem logSetup_frame (s : State) (lv nu off : Nat) (tn : Option Nat) (v : Nat) :
    (logSetup s lv nu off tn v).pending = s.pending ∧ (logSetup s lv nu off tn v).out = s.out ∧
    (logSetup s lv nu off tn v).free = s.free ∧ (logSetup s lv nu off tn v).variant = s.variant ∧
    (logSetup s lv nu off tn v).time = s.time ∧ (logSetup s lv nu off tn v).elapsed = s.elapsed ∧
    (logSetup s lv nu off tn v).ck = s.ck ∧ (logSetup s lv nu off tn v).nextId = s.nextId ∧
    (logSetup s lv nu off tn v).boot = s.boot ∧ (logSetup s lv nu off tn v).flash = s.flash ∧
    (logSetup s lv nu off tn v).fuses = s.fuses ∧ (logSetup s lv nu off tn v).mgmt = s.mgmt ∧
    (logSetup s lv nu off tn v).clk = s.clk ∧ (logSetup s lv nu off tn v).pwr = s.pwr ∧
    (logSetup s lv nu off tn v).thm = s.thm ∧ (logSetup s lv nu off tn v).trace = s.trace ∧
    (logSetup s lv nu off tn v).bar = s.bar ∧ (logSetup s lv nu off tn v).regions = s.regions ∧
    (logSetup s lv nu off tn v).retireRows = s.retireRows ∧ (logSetup s lv nu off tn v).retireBanks = s.retireBanks ∧
    (logSetup s lv nu off tn v).ecc = s.ecc ∧ (logSetup s lv nu off tn v).eccTot = s.eccTot ∧
    (logSetup s lv nu off tn v).eccLog = s.eccLog ∧ (logSetup s lv nu off tn v).ueLog = s.ueLog ∧
    (logSetup s lv nu off tn v).unattrRd = s.unattrRd ∧ (logSetup s lv nu off tn v).unattrWr = s.unattrWr ∧
    (logSetup s lv nu off tn v).dram = s.dram ∧ (logSetup s lv nu off tn v).check = s.check ∧
    (logSetup s lv nu off tn v).banks = s.banks ∧ (logSetup s lv nu off tn v).units = s.units ∧
    (logSetup s lv nu off tn v).presses = s.presses ∧ (logSetup s lv nu off tn v).decants = s.decants ∧
    (logSetup s lv nu off tn v).scrubQ = s.scrubQ ∧ (logSetup s lv nu off tn v).scrub = s.scrub ∧
    (logSetup s lv nu off tn v).meterDQ = s.meterDQ ∧ (logSetup s lv nu off tn v).netDQ = s.netDQ ∧
    (logSetup s lv nu off tn v).syncDQ = s.syncDQ ∧ (logSetup s lv nu off tn v).dispDQ = s.dispDQ ∧
    (logSetup s lv nu off tn v).tens = s.tens ∧ (logSetup s lv nu off tn v).groupOwner = s.groupOwner ∧
    (logSetup s lv nu off tn v).blockOwner = s.blockOwner ∧ (logSetup s lv nu off tn v).barOwner = s.barOwner ∧
    (logSetup s lv nu off tn v).pressOwner = s.pressOwner ∧ (logSetup s lv nu off tn v).switches = s.switches ∧
    (logSetup s lv nu off tn v).dispLast = s.dispLast ∧ (logSetup s lv nu off tn v).dispCk = s.dispCk ∧
    (logSetup s lv nu off tn v).xlat = s.xlat ∧ (logSetup s lv nu off tn v).xlatNext = s.xlatNext ∧
    (logSetup s lv nu off tn v).fetched = s.fetched ∧ (logSetup s lv nu off tn v).fetches = s.fetches ∧
    (logSetup s lv nu off tn v).active = s.active ∧ (logSetup s lv nu off tn v).batches = s.batches ∧
    (logSetup s lv nu off tn v).hostWrites = s.hostWrites ∧ (logSetup s lv nu off tn v).sync = s.sync ∧
    (logSetup s lv nu off tn v).net = s.net ∧ (logSetup s lv nu off tn v).meterQ = s.meterQ ∧
    (logSetup s lv nu off tn v).violation0C = s.violation0C :=
  ⟨rfl, rfl, rfl, rfl, rfl, rfl, rfl, rfl, rfl, rfl, rfl, rfl, rfl, rfl, rfl, rfl, rfl, rfl, rfl, rfl, rfl, rfl, rfl, rfl,
    rfl, rfl, rfl, rfl, rfl, rfl, rfl, rfl, rfl, rfl, rfl, rfl, rfl, rfl, rfl, rfl, rfl, rfl, rfl, rfl, rfl, rfl, rfl, rfl,
    rfl, rfl, rfl, rfl, rfl, rfl, rfl, rfl, rfl⟩

/-- `setProc` leaves every field but units, presses as it was. -/
@[simp] theorem setProc_frame (s : State) (x : CoreId) (p : Proc) :
    (setProc s x p).pending = s.pending ∧ (setProc s x p).out = s.out ∧ (setProc s x p).free = s.free ∧
    (setProc s x p).variant = s.variant ∧ (setProc s x p).time = s.time ∧ (setProc s x p).elapsed = s.elapsed ∧
    (setProc s x p).ck = s.ck ∧ (setProc s x p).nextId = s.nextId ∧ (setProc s x p).boot = s.boot ∧
    (setProc s x p).flash = s.flash ∧ (setProc s x p).fuses = s.fuses ∧ (setProc s x p).mgmt = s.mgmt ∧
    (setProc s x p).clk = s.clk ∧ (setProc s x p).pwr = s.pwr ∧ (setProc s x p).thm = s.thm ∧ (setProc s x p).log = s.log ∧
    (setProc s x p).trace = s.trace ∧ (setProc s x p).bar = s.bar ∧ (setProc s x p).regions = s.regions ∧
    (setProc s x p).retireRows = s.retireRows ∧ (setProc s x p).retireBanks = s.retireBanks ∧ (setProc s x p).ecc = s.ecc ∧
    (setProc s x p).eccTot = s.eccTot ∧ (setProc s x p).eccLog = s.eccLog ∧ (setProc s x p).ueLog = s.ueLog ∧
    (setProc s x p).unattrRd = s.unattrRd ∧ (setProc s x p).unattrWr = s.unattrWr ∧ (setProc s x p).dram = s.dram ∧
    (setProc s x p).check = s.check ∧ (setProc s x p).banks = s.banks ∧ (setProc s x p).decants = s.decants ∧
    (setProc s x p).scrubQ = s.scrubQ ∧ (setProc s x p).scrub = s.scrub ∧ (setProc s x p).meterDQ = s.meterDQ ∧
    (setProc s x p).netDQ = s.netDQ ∧ (setProc s x p).syncDQ = s.syncDQ ∧ (setProc s x p).dispDQ = s.dispDQ ∧
    (setProc s x p).tens = s.tens ∧ (setProc s x p).groupOwner = s.groupOwner ∧ (setProc s x p).blockOwner = s.blockOwner ∧
    (setProc s x p).barOwner = s.barOwner ∧ (setProc s x p).pressOwner = s.pressOwner ∧
    (setProc s x p).switches = s.switches ∧ (setProc s x p).dispLast = s.dispLast ∧ (setProc s x p).dispCk = s.dispCk ∧
    (setProc s x p).xlat = s.xlat ∧ (setProc s x p).xlatNext = s.xlatNext ∧ (setProc s x p).fetched = s.fetched ∧
    (setProc s x p).fetches = s.fetches ∧ (setProc s x p).active = s.active ∧ (setProc s x p).batches = s.batches ∧
    (setProc s x p).hostWrites = s.hostWrites ∧ (setProc s x p).sync = s.sync ∧ (setProc s x p).net = s.net ∧
    (setProc s x p).meterQ = s.meterQ ∧ (setProc s x p).violation0C = s.violation0C :=
  by cases x <;> exact ⟨rfl, rfl, rfl, rfl, rfl, rfl, rfl, rfl, rfl, rfl, rfl, rfl, rfl, rfl, rfl, rfl, rfl, rfl, rfl,
    rfl, rfl, rfl, rfl, rfl, rfl, rfl, rfl, rfl, rfl, rfl, rfl, rfl, rfl, rfl, rfl, rfl, rfl, rfl, rfl, rfl, rfl, rfl, rfl,
    rfl, rfl, rfl, rfl, rfl, rfl, rfl, rfl, rfl, rfl, rfl, rfl, rfl⟩

/-- `modProc` leaves every field but units, presses as it was. -/
@[simp] theorem modProc_frame (s : State) (x : CoreId) (f : Proc → Proc) :
    (modProc s x f).pending = s.pending ∧ (modProc s x f).out = s.out ∧ (modProc s x f).free = s.free ∧
    (modProc s x f).variant = s.variant ∧ (modProc s x f).time = s.time ∧ (modProc s x f).elapsed = s.elapsed ∧
    (modProc s x f).ck = s.ck ∧ (modProc s x f).nextId = s.nextId ∧ (modProc s x f).boot = s.boot ∧
    (modProc s x f).flash = s.flash ∧ (modProc s x f).fuses = s.fuses ∧ (modProc s x f).mgmt = s.mgmt ∧
    (modProc s x f).clk = s.clk ∧ (modProc s x f).pwr = s.pwr ∧ (modProc s x f).thm = s.thm ∧ (modProc s x f).log = s.log ∧
    (modProc s x f).trace = s.trace ∧ (modProc s x f).bar = s.bar ∧ (modProc s x f).regions = s.regions ∧
    (modProc s x f).retireRows = s.retireRows ∧ (modProc s x f).retireBanks = s.retireBanks ∧ (modProc s x f).ecc = s.ecc ∧
    (modProc s x f).eccTot = s.eccTot ∧ (modProc s x f).eccLog = s.eccLog ∧ (modProc s x f).ueLog = s.ueLog ∧
    (modProc s x f).unattrRd = s.unattrRd ∧ (modProc s x f).unattrWr = s.unattrWr ∧ (modProc s x f).dram = s.dram ∧
    (modProc s x f).check = s.check ∧ (modProc s x f).banks = s.banks ∧ (modProc s x f).decants = s.decants ∧
    (modProc s x f).scrubQ = s.scrubQ ∧ (modProc s x f).scrub = s.scrub ∧ (modProc s x f).meterDQ = s.meterDQ ∧
    (modProc s x f).netDQ = s.netDQ ∧ (modProc s x f).syncDQ = s.syncDQ ∧ (modProc s x f).dispDQ = s.dispDQ ∧
    (modProc s x f).tens = s.tens ∧ (modProc s x f).groupOwner = s.groupOwner ∧ (modProc s x f).blockOwner = s.blockOwner ∧
    (modProc s x f).barOwner = s.barOwner ∧ (modProc s x f).pressOwner = s.pressOwner ∧
    (modProc s x f).switches = s.switches ∧ (modProc s x f).dispLast = s.dispLast ∧ (modProc s x f).dispCk = s.dispCk ∧
    (modProc s x f).xlat = s.xlat ∧ (modProc s x f).xlatNext = s.xlatNext ∧ (modProc s x f).fetched = s.fetched ∧
    (modProc s x f).fetches = s.fetches ∧ (modProc s x f).active = s.active ∧ (modProc s x f).batches = s.batches ∧
    (modProc s x f).hostWrites = s.hostWrites ∧ (modProc s x f).sync = s.sync ∧ (modProc s x f).net = s.net ∧
    (modProc s x f).meterQ = s.meterQ ∧ (modProc s x f).violation0C = s.violation0C :=
  by cases x <;> exact ⟨rfl, rfl, rfl, rfl, rfl, rfl, rfl, rfl, rfl, rfl, rfl, rfl, rfl, rfl, rfl, rfl, rfl, rfl, rfl,
    rfl, rfl, rfl, rfl, rfl, rfl, rfl, rfl, rfl, rfl, rfl, rfl, rfl, rfl, rfl, rfl, rfl, rfl, rfl, rfl, rfl, rfl, rfl, rfl,
    rfl, rfl, rfl, rfl, rfl, rfl, rfl, rfl, rfl, rfl, rfl, rfl, rfl⟩

/-- Time passing changes module time, elapsed time, the cycle count and the slew, and nothing else. -/
theorem advance_eq (s : State) (n : Nat) : ∃ a b c d, advance s n = { s with time := a, elapsed := b, ck := c, net := d } := by
  unfold advance
  split
  · exact ⟨_, _, _, _, rfl⟩
  · exact ⟨s.time, s.elapsed, s.ck, s.net, rfl⟩

/-- `advance` leaves every field but time, elapsed, ck, net as it was. -/
@[simp] theorem advance_frame (s : State) (n : Nat) :
    (advance s n).pending = s.pending ∧ (advance s n).out = s.out ∧ (advance s n).free = s.free ∧
    (advance s n).variant = s.variant ∧ (advance s n).nextId = s.nextId ∧ (advance s n).boot = s.boot ∧
    (advance s n).flash = s.flash ∧ (advance s n).fuses = s.fuses ∧ (advance s n).mgmt = s.mgmt ∧ (advance s n).clk = s.clk ∧
    (advance s n).pwr = s.pwr ∧ (advance s n).thm = s.thm ∧ (advance s n).log = s.log ∧ (advance s n).trace = s.trace ∧
    (advance s n).bar = s.bar ∧ (advance s n).regions = s.regions ∧ (advance s n).retireRows = s.retireRows ∧
    (advance s n).retireBanks = s.retireBanks ∧ (advance s n).ecc = s.ecc ∧ (advance s n).eccTot = s.eccTot ∧
    (advance s n).eccLog = s.eccLog ∧ (advance s n).ueLog = s.ueLog ∧ (advance s n).unattrRd = s.unattrRd ∧
    (advance s n).unattrWr = s.unattrWr ∧ (advance s n).dram = s.dram ∧ (advance s n).check = s.check ∧
    (advance s n).banks = s.banks ∧ (advance s n).units = s.units ∧ (advance s n).presses = s.presses ∧
    (advance s n).decants = s.decants ∧ (advance s n).scrubQ = s.scrubQ ∧ (advance s n).scrub = s.scrub ∧
    (advance s n).meterDQ = s.meterDQ ∧ (advance s n).netDQ = s.netDQ ∧ (advance s n).syncDQ = s.syncDQ ∧
    (advance s n).dispDQ = s.dispDQ ∧ (advance s n).tens = s.tens ∧ (advance s n).groupOwner = s.groupOwner ∧
    (advance s n).blockOwner = s.blockOwner ∧ (advance s n).barOwner = s.barOwner ∧ (advance s n).pressOwner = s.pressOwner ∧
    (advance s n).switches = s.switches ∧ (advance s n).dispLast = s.dispLast ∧ (advance s n).dispCk = s.dispCk ∧
    (advance s n).xlat = s.xlat ∧ (advance s n).xlatNext = s.xlatNext ∧ (advance s n).fetched = s.fetched ∧
    (advance s n).fetches = s.fetches ∧ (advance s n).active = s.active ∧ (advance s n).batches = s.batches ∧
    (advance s n).hostWrites = s.hostWrites ∧ (advance s n).sync = s.sync ∧ (advance s n).meterQ = s.meterQ ∧
    (advance s n).violation0C = s.violation0C :=
  by obtain ⟨a, b, c, d, h⟩ := advance_eq s n; rw [h]; exact ⟨rfl, rfl, rfl, rfl, rfl, rfl, rfl, rfl, rfl, rfl, rfl, rfl,
    rfl, rfl, rfl, rfl, rfl, rfl, rfl, rfl, rfl, rfl, rfl, rfl, rfl, rfl, rfl, rfl, rfl, rfl, rfl, rfl, rfl, rfl, rfl, rfl,
    rfl, rfl, rfl, rfl, rfl, rfl, rfl, rfl, rfl, rfl, rfl, rfl, rfl, rfl, rfl, rfl, rfl, rfl⟩

/-- `advanceTo` leaves every field but time, elapsed, ck, net as it was. -/
@[simp] theorem advanceTo_frame (s : State) (n : Nat) :
    (advanceTo s n).pending = s.pending ∧ (advanceTo s n).out = s.out ∧ (advanceTo s n).free = s.free ∧
    (advanceTo s n).variant = s.variant ∧ (advanceTo s n).nextId = s.nextId ∧ (advanceTo s n).boot = s.boot ∧
    (advanceTo s n).flash = s.flash ∧ (advanceTo s n).fuses = s.fuses ∧ (advanceTo s n).mgmt = s.mgmt ∧
    (advanceTo s n).clk = s.clk ∧ (advanceTo s n).pwr = s.pwr ∧ (advanceTo s n).thm = s.thm ∧ (advanceTo s n).log = s.log ∧
    (advanceTo s n).trace = s.trace ∧ (advanceTo s n).bar = s.bar ∧ (advanceTo s n).regions = s.regions ∧
    (advanceTo s n).retireRows = s.retireRows ∧ (advanceTo s n).retireBanks = s.retireBanks ∧ (advanceTo s n).ecc = s.ecc ∧
    (advanceTo s n).eccTot = s.eccTot ∧ (advanceTo s n).eccLog = s.eccLog ∧ (advanceTo s n).ueLog = s.ueLog ∧
    (advanceTo s n).unattrRd = s.unattrRd ∧ (advanceTo s n).unattrWr = s.unattrWr ∧ (advanceTo s n).dram = s.dram ∧
    (advanceTo s n).check = s.check ∧ (advanceTo s n).banks = s.banks ∧ (advanceTo s n).units = s.units ∧
    (advanceTo s n).presses = s.presses ∧ (advanceTo s n).decants = s.decants ∧ (advanceTo s n).scrubQ = s.scrubQ ∧
    (advanceTo s n).scrub = s.scrub ∧ (advanceTo s n).meterDQ = s.meterDQ ∧ (advanceTo s n).netDQ = s.netDQ ∧
    (advanceTo s n).syncDQ = s.syncDQ ∧ (advanceTo s n).dispDQ = s.dispDQ ∧ (advanceTo s n).tens = s.tens ∧
    (advanceTo s n).groupOwner = s.groupOwner ∧ (advanceTo s n).blockOwner = s.blockOwner ∧
    (advanceTo s n).barOwner = s.barOwner ∧ (advanceTo s n).pressOwner = s.pressOwner ∧
    (advanceTo s n).switches = s.switches ∧ (advanceTo s n).dispLast = s.dispLast ∧ (advanceTo s n).dispCk = s.dispCk ∧
    (advanceTo s n).xlat = s.xlat ∧ (advanceTo s n).xlatNext = s.xlatNext ∧ (advanceTo s n).fetched = s.fetched ∧
    (advanceTo s n).fetches = s.fetches ∧ (advanceTo s n).active = s.active ∧ (advanceTo s n).batches = s.batches ∧
    (advanceTo s n).hostWrites = s.hostWrites ∧ (advanceTo s n).sync = s.sync ∧ (advanceTo s n).meterQ = s.meterQ ∧
    (advanceTo s n).violation0C = s.violation0C :=
  advance_frame s _

/-- `tick` leaves every field but time, elapsed, ck, net as it was. -/
@[simp] theorem tick_frame (s : State)  :
    (tick s).pending = s.pending ∧ (tick s).out = s.out ∧ (tick s).free = s.free ∧ (tick s).variant = s.variant ∧
    (tick s).nextId = s.nextId ∧ (tick s).boot = s.boot ∧ (tick s).flash = s.flash ∧ (tick s).fuses = s.fuses ∧
    (tick s).mgmt = s.mgmt ∧ (tick s).clk = s.clk ∧ (tick s).pwr = s.pwr ∧ (tick s).thm = s.thm ∧ (tick s).log = s.log ∧
    (tick s).trace = s.trace ∧ (tick s).bar = s.bar ∧ (tick s).regions = s.regions ∧ (tick s).retireRows = s.retireRows ∧
    (tick s).retireBanks = s.retireBanks ∧ (tick s).ecc = s.ecc ∧ (tick s).eccTot = s.eccTot ∧ (tick s).eccLog = s.eccLog ∧
    (tick s).ueLog = s.ueLog ∧ (tick s).unattrRd = s.unattrRd ∧ (tick s).unattrWr = s.unattrWr ∧ (tick s).dram = s.dram ∧
    (tick s).check = s.check ∧ (tick s).banks = s.banks ∧ (tick s).units = s.units ∧ (tick s).presses = s.presses ∧
    (tick s).decants = s.decants ∧ (tick s).scrubQ = s.scrubQ ∧ (tick s).scrub = s.scrub ∧ (tick s).meterDQ = s.meterDQ ∧
    (tick s).netDQ = s.netDQ ∧ (tick s).syncDQ = s.syncDQ ∧ (tick s).dispDQ = s.dispDQ ∧ (tick s).tens = s.tens ∧
    (tick s).groupOwner = s.groupOwner ∧ (tick s).blockOwner = s.blockOwner ∧ (tick s).barOwner = s.barOwner ∧
    (tick s).pressOwner = s.pressOwner ∧ (tick s).switches = s.switches ∧ (tick s).dispLast = s.dispLast ∧
    (tick s).dispCk = s.dispCk ∧ (tick s).xlat = s.xlat ∧ (tick s).xlatNext = s.xlatNext ∧ (tick s).fetched = s.fetched ∧
    (tick s).fetches = s.fetches ∧ (tick s).active = s.active ∧ (tick s).batches = s.batches ∧
    (tick s).hostWrites = s.hostWrites ∧ (tick s).sync = s.sync ∧ (tick s).meterQ = s.meterQ ∧
    (tick s).violation0C = s.violation0C :=
  advance_frame s _

/-- A captured record changes the trace buffer and nothing else. -/
theorem tracePush_eq (s : State) (r : TraceRec) (g : Bool) : ∃ x, tracePush s r g = { s with trace := x } := by
  unfold tracePush
  extract_lets tr inCk
  split <;> exact ⟨_, rfl⟩

/-- `tracePush` leaves every field but trace as it was. -/
@[simp] theorem tracePush_frame (s : State) (r : TraceRec) (g : Bool) :
    (tracePush s r g).pending = s.pending ∧ (tracePush s r g).out = s.out ∧ (tracePush s r g).free = s.free ∧
    (tracePush s r g).variant = s.variant ∧ (tracePush s r g).time = s.time ∧ (tracePush s r g).elapsed = s.elapsed ∧
    (tracePush s r g).ck = s.ck ∧ (tracePush s r g).nextId = s.nextId ∧ (tracePush s r g).boot = s.boot ∧
    (tracePush s r g).flash = s.flash ∧ (tracePush s r g).fuses = s.fuses ∧ (tracePush s r g).mgmt = s.mgmt ∧
    (tracePush s r g).clk = s.clk ∧ (tracePush s r g).pwr = s.pwr ∧ (tracePush s r g).thm = s.thm ∧
    (tracePush s r g).log = s.log ∧ (tracePush s r g).bar = s.bar ∧ (tracePush s r g).regions = s.regions ∧
    (tracePush s r g).retireRows = s.retireRows ∧ (tracePush s r g).retireBanks = s.retireBanks ∧
    (tracePush s r g).ecc = s.ecc ∧ (tracePush s r g).eccTot = s.eccTot ∧ (tracePush s r g).eccLog = s.eccLog ∧
    (tracePush s r g).ueLog = s.ueLog ∧ (tracePush s r g).unattrRd = s.unattrRd ∧ (tracePush s r g).unattrWr = s.unattrWr ∧
    (tracePush s r g).dram = s.dram ∧ (tracePush s r g).check = s.check ∧ (tracePush s r g).banks = s.banks ∧
    (tracePush s r g).units = s.units ∧ (tracePush s r g).presses = s.presses ∧ (tracePush s r g).decants = s.decants ∧
    (tracePush s r g).scrubQ = s.scrubQ ∧ (tracePush s r g).scrub = s.scrub ∧ (tracePush s r g).meterDQ = s.meterDQ ∧
    (tracePush s r g).netDQ = s.netDQ ∧ (tracePush s r g).syncDQ = s.syncDQ ∧ (tracePush s r g).dispDQ = s.dispDQ ∧
    (tracePush s r g).tens = s.tens ∧ (tracePush s r g).groupOwner = s.groupOwner ∧
    (tracePush s r g).blockOwner = s.blockOwner ∧ (tracePush s r g).barOwner = s.barOwner ∧
    (tracePush s r g).pressOwner = s.pressOwner ∧ (tracePush s r g).switches = s.switches ∧
    (tracePush s r g).dispLast = s.dispLast ∧ (tracePush s r g).dispCk = s.dispCk ∧ (tracePush s r g).xlat = s.xlat ∧
    (tracePush s r g).xlatNext = s.xlatNext ∧ (tracePush s r g).fetched = s.fetched ∧ (tracePush s r g).fetches = s.fetches ∧
    (tracePush s r g).active = s.active ∧ (tracePush s r g).batches = s.batches ∧
    (tracePush s r g).hostWrites = s.hostWrites ∧ (tracePush s r g).sync = s.sync ∧ (tracePush s r g).net = s.net ∧
    (tracePush s r g).meterQ = s.meterQ ∧ (tracePush s r g).violation0C = s.violation0C :=
  by obtain ⟨x, h⟩ := tracePush_eq s r g; rw [h]; exact ⟨rfl, rfl, rfl, rfl, rfl, rfl, rfl, rfl, rfl, rfl, rfl, rfl, rfl,
    rfl, rfl, rfl, rfl, rfl, rfl, rfl, rfl, rfl, rfl, rfl, rfl, rfl, rfl, rfl, rfl, rfl, rfl, rfl, rfl, rfl, rfl, rfl, rfl,
    rfl, rfl, rfl, rfl, rfl, rfl, rfl, rfl, rfl, rfl, rfl, rfl, rfl, rfl, rfl, rfl, rfl, rfl, rfl, rfl⟩

/-- A trace event changes the trace buffer and nothing else. -/
theorem traceEv_eq (s : State) (e tn sr : Nat) (tag : BitVec 16) (d st : Nat) :
    ∃ x, traceEv s e tn sr tag d st = { s with trace := x } := by
  unfold traceEv
  split
  · exact tracePush_eq ..
  · exact ⟨s.trace, rfl⟩

/-- `traceEv` leaves every field but trace as it was. -/
@[simp] theorem traceEv_frame (s : State) (e tn sr : Nat) (tag : BitVec 16) (d st : Nat) :
    (traceEv s e tn sr tag d st).pending = s.pending ∧ (traceEv s e tn sr tag d st).out = s.out ∧
    (traceEv s e tn sr tag d st).free = s.free ∧ (traceEv s e tn sr tag d st).variant = s.variant ∧
    (traceEv s e tn sr tag d st).time = s.time ∧ (traceEv s e tn sr tag d st).elapsed = s.elapsed ∧
    (traceEv s e tn sr tag d st).ck = s.ck ∧ (traceEv s e tn sr tag d st).nextId = s.nextId ∧
    (traceEv s e tn sr tag d st).boot = s.boot ∧ (traceEv s e tn sr tag d st).flash = s.flash ∧
    (traceEv s e tn sr tag d st).fuses = s.fuses ∧ (traceEv s e tn sr tag d st).mgmt = s.mgmt ∧
    (traceEv s e tn sr tag d st).clk = s.clk ∧ (traceEv s e tn sr tag d st).pwr = s.pwr ∧
    (traceEv s e tn sr tag d st).thm = s.thm ∧ (traceEv s e tn sr tag d st).log = s.log ∧
    (traceEv s e tn sr tag d st).bar = s.bar ∧ (traceEv s e tn sr tag d st).regions = s.regions ∧
    (traceEv s e tn sr tag d st).retireRows = s.retireRows ∧ (traceEv s e tn sr tag d st).retireBanks = s.retireBanks ∧
    (traceEv s e tn sr tag d st).ecc = s.ecc ∧ (traceEv s e tn sr tag d st).eccTot = s.eccTot ∧
    (traceEv s e tn sr tag d st).eccLog = s.eccLog ∧ (traceEv s e tn sr tag d st).ueLog = s.ueLog ∧
    (traceEv s e tn sr tag d st).unattrRd = s.unattrRd ∧ (traceEv s e tn sr tag d st).unattrWr = s.unattrWr ∧
    (traceEv s e tn sr tag d st).dram = s.dram ∧ (traceEv s e tn sr tag d st).check = s.check ∧
    (traceEv s e tn sr tag d st).banks = s.banks ∧ (traceEv s e tn sr tag d st).units = s.units ∧
    (traceEv s e tn sr tag d st).presses = s.presses ∧ (traceEv s e tn sr tag d st).decants = s.decants ∧
    (traceEv s e tn sr tag d st).scrubQ = s.scrubQ ∧ (traceEv s e tn sr tag d st).scrub = s.scrub ∧
    (traceEv s e tn sr tag d st).meterDQ = s.meterDQ ∧ (traceEv s e tn sr tag d st).netDQ = s.netDQ ∧
    (traceEv s e tn sr tag d st).syncDQ = s.syncDQ ∧ (traceEv s e tn sr tag d st).dispDQ = s.dispDQ ∧
    (traceEv s e tn sr tag d st).tens = s.tens ∧ (traceEv s e tn sr tag d st).groupOwner = s.groupOwner ∧
    (traceEv s e tn sr tag d st).blockOwner = s.blockOwner ∧ (traceEv s e tn sr tag d st).barOwner = s.barOwner ∧
    (traceEv s e tn sr tag d st).pressOwner = s.pressOwner ∧ (traceEv s e tn sr tag d st).switches = s.switches ∧
    (traceEv s e tn sr tag d st).dispLast = s.dispLast ∧ (traceEv s e tn sr tag d st).dispCk = s.dispCk ∧
    (traceEv s e tn sr tag d st).xlat = s.xlat ∧ (traceEv s e tn sr tag d st).xlatNext = s.xlatNext ∧
    (traceEv s e tn sr tag d st).fetched = s.fetched ∧ (traceEv s e tn sr tag d st).fetches = s.fetches ∧
    (traceEv s e tn sr tag d st).active = s.active ∧ (traceEv s e tn sr tag d st).batches = s.batches ∧
    (traceEv s e tn sr tag d st).hostWrites = s.hostWrites ∧ (traceEv s e tn sr tag d st).sync = s.sync ∧
    (traceEv s e tn sr tag d st).net = s.net ∧ (traceEv s e tn sr tag d st).meterQ = s.meterQ ∧
    (traceEv s e tn sr tag d st).violation0C = s.violation0C :=
  by obtain ⟨x, h⟩ := traceEv_eq s e tn sr tag d st; rw [h]; exact ⟨rfl, rfl, rfl, rfl, rfl, rfl, rfl, rfl, rfl, rfl, rfl,
    rfl, rfl, rfl, rfl, rfl, rfl, rfl, rfl, rfl, rfl, rfl, rfl, rfl, rfl, rfl, rfl, rfl, rfl, rfl, rfl, rfl, rfl, rfl, rfl,
    rfl, rfl, rfl, rfl, rfl, rfl, rfl, rfl, rfl, rfl, rfl, rfl, rfl, rfl, rfl, rfl, rfl, rfl, rfl, rfl, rfl, rfl⟩

/-! Each part of the state after an update of a part of the same kind. -/

@[simp] theorem unitOf_setUnit (s : State) (b c : Nat) (u : BankUnit) : unitOf (setUnit s b u) c = if c = b then u else unitOf s c :=
  mget_mset ..
@[simp] theorem pressOf_setPress (s : State) (e c : Nat) (p : Press) : pressOf (setPress s e p) c = if c = e then p else pressOf s c :=
  mget_mset ..
@[simp] theorem decantOf_setDecant (s : State) (e c : Nat) (d : Decant) :
    decantOf (setDecant s e d) c = if c = e then d else decantOf s c := mget_mset ..
@[simp] theorem tenOf_setTen (s : State) (t c : Nat) (x : Tenancy) : tenOf (setTen s t x) c = if c = t then x else tenOf s c :=
  mget_mset ..
@[simp] theorem bankOf_setBank (s : State) (b c : Nat) (k : Bank) : bankOf (setBank s b k) c = if c = b then k else bankOf s c :=
  mget_mset ..
@[simp] theorem regionOf_setRegion (s : State) (n c : Nat) (r : Region) :
    regionOf (setRegion s n r) c = if c = n then r else regionOf s c := mget_mset ..
@[simp] theorem peerOf_setPeer (s : State) (m c : Nat) (p : Peer) : peerOf (setPeer s m p) c = if c = m then p else peerOf s c :=
  mget_mset ..
@[simp] theorem domOf_setDom (s : State) (d c : Nat) (x : Domain) : domOf (setDom s d x) c = if c = d then x else domOf s c :=
  mget_mset ..
@[simp] theorem thmOf_setThm (s : State) (k c : Nat) (x : ThmStack) : thmOf (setThm s k x) c = if c = k then x else thmOf s c :=
  mget_mset ..
@[simp] theorem barOf_setBar (s : State) (n c : Nat) (x : Barrier) : barOf (setBar s n x) c = if c = n then x else barOf s c :=
  mget_mset ..
@[simp] theorem kiteOf_setKite (s : State) (k c : Nat) (x : Option Kite) : kiteOf (setKite s k x) c = if c = k then x else kiteOf s c :=
  mget_mset ..

/-- A stored register after a write of one. -/
@[simp] theorem reg_setReg (s : State) (o c : Nat) (v : Word64) : reg (setReg s o v) c = if c = o then v else reg s c := by
  unfold reg setReg
  by_cases h : c = o
  · subst h; simp
  · simp only [h, if_false]; exact mget_mset_ne_default _ _ _ _ h

/-- The processor part of a core after an update of that of the same core. -/
@[simp] theorem procOf_setProc_self (s : State) (x : CoreId) (p : Proc) : procOf (setProc s x p) x = p := by
  cases x <;> simp [procOf, setProc, modUnit, modPress]

/-- An update of one core's processor part leaves every other core's as it was. -/
theorem procOf_setProc_ne (s : State) (x y : CoreId) (p : Proc) (h : y ≠ x) : procOf (setProc s x p) y = procOf s y := by
  cases x with
  | unit b =>
    cases y with
    | unit c =>
      have hn : c.toNat ≠ b.toNat := fun e => h (by rw [BitVec.eq_of_toNat_eq e])
      simp [procOf, setProc, modUnit, hn]
    | press e => simp [procOf, setProc, modUnit, pressOf]
  | press e =>
    cases y with
    | unit b => simp [procOf, setProc, modPress, unitOf]
    | press c =>
      have hn : c.toNat ≠ e.toNat := fun q => h (by rw [BitVec.eq_of_toNat_eq q])
      simp [procOf, setProc, modPress, hn]

@[simp] theorem procOf_modProc_self (s : State) (x : CoreId) (f : Proc → Proc) : procOf (modProc s x f) x = f (procOf s x) := by
  simp [modProc]

end Sys2Proof.Machine
end

