-- ==== Sys2Proof/Laws/Kept.lean ====
section
/-! SUPPORT. What the update operations leave alone: the projections restOf, memOf and identOf, and one lemma for each operation. -/

open Sys2Proof

namespace Sys2Proof.Machine
/-- The parts that no command but a privileged few writes: the queue, the variant, the fuses, the thermal registers and the cap loop's fraction. -/
def restOf (s : State) : List Instr × Variant × Fuses × Thm × Nat := (s.pending, s.variant, s.fuses, s.thm, s.pwr.kCap)
/-- The stored data and its check bytes. -/
def memOf (s : State) : List Host.Cell × List Host.Cell := (s.dram, s.check)
@[simp] theorem rest_mk pending out free variant time elapsed ck nextId boot flash fuses mgmt clk pwr thm log trace bar regions retireRows retireBanks ecc eccTot eccLog ueLog unattrRd unattrWr dram check banks units presses decants scrubQ scrub meterDQ netDQ syncDQ dispDQ tens groupOwner blockOwner barOwner pressOwner switches dispLast dispCk xlat xlatNext fetched fetches active batches hostWrites sync net meterQ violation0C : restOf (State.mk pending out free variant time elapsed ck nextId boot flash fuses mgmt clk pwr thm log trace bar regions retireRows retireBanks ecc eccTot eccLog ueLog unattrRd unattrWr dram check banks units presses decants scrubQ scrub meterDQ netDQ syncDQ dispDQ tens groupOwner blockOwner barOwner pressOwner switches dispLast dispCk xlat xlatNext fetched fetches active batches hostWrites sync net meterQ violation0C) = (pending, variant, fuses, thm, pwr.kCap) := rfl
@[simp] theorem mem_mk pending out free variant time elapsed ck nextId boot flash fuses mgmt clk pwr thm log trace bar regions retireRows retireBanks ecc eccTot eccLog ueLog unattrRd unattrWr dram check banks units presses decants scrubQ scrub meterDQ netDQ syncDQ dispDQ tens groupOwner blockOwner barOwner pressOwner switches dispLast dispCk xlat xlatNext fetched fetches active batches hostWrites sync net meterQ violation0C : memOf (State.mk pending out free variant time elapsed ck nextId boot flash fuses mgmt clk pwr thm log trace bar regions retireRows retireBanks ecc eccTot eccLog ueLog unattrRd unattrWr dram check banks units presses decants scrubQ scrub meterDQ netDQ syncDQ dispDQ tens groupOwner blockOwner barOwner pressOwner switches dispLast dispCk xlat xlatNext fetched fetches active batches hostWrites sync net meterQ violation0C) = (dram, check) := rfl
@[simp] theorem rest_fold (s : State) : (s.pending, s.variant, s.fuses, s.thm, s.pwr.kCap) = restOf s := rfl
@[simp] theorem mem_fold (s : State) : (s.dram, s.check) = memOf s := rfl
theorem foldl_rest {α : Type} (l : List α) (f : State → α → State) (h : ∀ s a, restOf (f s a) = restOf s) (s : State) : restOf (l.foldl f s) = restOf s := by
  induction l generalizing s with
  | nil => rfl
  | cons a t ih => rw [List.foldl_cons, ih, h]
theorem foldl_mem {α : Type} (l : List α) (f : State → α → State) (h : ∀ s a, memOf (f s a) = memOf s) (s : State) : memOf (l.foldl f s) = memOf s := by
  induction l generalizing s with
  | nil => rfl
  | cons a t ih => rw [List.foldl_cons, ih, h]
@[simp] theorem setUnit_kept (s : State) (b : Nat) (u : BankUnit) : restOf (setUnit s b u) = restOf s ∧ memOf (setUnit s b u) = memOf s := by
  exact ⟨rfl, rfl⟩
@[simp] theorem setPress_kept (s : State) (e : Nat) (p : Press) : restOf (setPress s e p) = restOf s ∧ memOf (setPress s e p) = memOf s := by
  exact ⟨rfl, rfl⟩
@[simp] theorem setDecant_kept (s : State) (e : Nat) (d : Decant) : restOf (setDecant s e d) = restOf s ∧ memOf (setDecant s e d) = memOf s := by
  exact ⟨rfl, rfl⟩
@[simp] theorem setTen_kept (s : State) (t : Nat) (x : Tenancy) : restOf (setTen s t x) = restOf s ∧ memOf (setTen s t x) = memOf s := by
  exact ⟨rfl, rfl⟩
@[simp] theorem setRing_kept (s : State) (t j : Nat) (r : Ring) : restOf (setRing s t j r) = restOf s ∧ memOf (setRing s t j r) = memOf s := by
  exact ⟨rfl, rfl⟩
@[simp] theorem setBank_kept (s : State) (b : Nat) (k : Bank) : restOf (setBank s b k) = restOf s ∧ memOf (setBank s b k) = memOf s := by
  exact ⟨rfl, rfl⟩
@[simp] theorem setRegion_kept (s : State) (n : Nat) (r : Region) : restOf (setRegion s n r) = restOf s ∧ memOf (setRegion s n r) = memOf s := by
  exact ⟨rfl, rfl⟩
@[simp] theorem setPeer_kept (s : State) (m : Nat) (p : Peer) : restOf (setPeer s m p) = restOf s ∧ memOf (setPeer s m p) = memOf s := by
  exact ⟨rfl, rfl⟩
@[simp] theorem setDom_kept (s : State) (d : Nat) (x : Domain) : restOf (setDom s d x) = restOf s ∧ memOf (setDom s d x) = memOf s := by
  exact ⟨rfl, rfl⟩
@[simp] theorem setBar_kept (s : State) (n : Nat) (x : Barrier) : restOf (setBar s n x) = restOf s ∧ memOf (setBar s n x) = memOf s := by
  exact ⟨rfl, rfl⟩
@[simp] theorem setKite_kept (s : State) (k : Nat) (x : Option Kite) : restOf (setKite s k x) = restOf s ∧ memOf (setKite s k x) = memOf s := by
  exact ⟨rfl, rfl⟩
@[simp] theorem setReg_kept (s : State) (off : Nat) (v : Word64) : restOf (setReg s off v) = restOf s ∧ memOf (setReg s off v) = memOf s := by
  exact ⟨rfl, rfl⟩
@[simp] theorem modUnit_kept (s : State) (b : Nat) (f : BankUnit → BankUnit) : restOf (modUnit s b f) = restOf s ∧ memOf (modUnit s b f) = memOf s := by
  exact ⟨rfl, rfl⟩
@[simp] theorem modPress_kept (s : State) (e : Nat) (f : Press → Press) : restOf (modPress s e f) = restOf s ∧ memOf (modPress s e f) = memOf s := by
  exact ⟨rfl, rfl⟩
@[simp] theorem modTen_kept (s : State) (t : Nat) (f : Tenancy → Tenancy) : restOf (modTen s t f) = restOf s ∧ memOf (modTen s t f) = memOf s := by
  exact ⟨rfl, rfl⟩
@[simp] theorem modPeer_kept (s : State) (m : Nat) (f : Peer → Peer) : restOf (modPeer s m f) = restOf s ∧ memOf (modPeer s m f) = memOf s := by
  exact ⟨rfl, rfl⟩
@[simp] theorem emit_kept (s : State) (o : Output) : restOf (emit s o) = restOf s ∧ memOf (emit s o) = memOf s := by
  exact ⟨rfl, rfl⟩
@[simp] theorem meter_kept (s : State) (t m n p : Nat) : restOf (meter s t m n p) = restOf s ∧ memOf (meter s t m n p) = memOf s := by
  exact ⟨rfl, rfl⟩
@[simp] theorem logAdd_kept (s : State) (lv sr cl nu : Nat) (tag : Option (BitVec 16)) (tn : Option Nat) (d : List Byte) : restOf (logAdd s lv sr cl nu tag tn d) = restOf s ∧ memOf (logAdd s lv sr cl nu tag tn d) = memOf s := by
  exact ⟨rfl, rfl⟩
@[simp] theorem logSetup_kept (s : State) (lv nu off : Nat) (tn : Option Nat) (v : Nat) : restOf (logSetup s lv nu off tn v) = restOf s ∧ memOf (logSetup s lv nu off tn v) = memOf s := by
  exact ⟨rfl, rfl⟩
@[simp] theorem setProc_kept (s : State) (x : CoreId) (p : Proc) : restOf (setProc s x p) = restOf s ∧ memOf (setProc s x p) = memOf s := by
  cases x <;> exact ⟨rfl, rfl⟩
@[simp] theorem modProc_kept (s : State) (x : CoreId) (f : Proc → Proc) : restOf (modProc s x f) = restOf s ∧ memOf (modProc s x f) = memOf s := by
  cases x <;> exact ⟨rfl, rfl⟩
@[simp] theorem advance_kept (s : State) (n : Nat) : restOf (advance s n) = restOf s ∧ memOf (advance s n) = memOf s := by
  simp [restOf, memOf, -rest_fold, -mem_fold]
@[simp] theorem advanceTo_kept (s : State) (n : Nat) : restOf (advanceTo s n) = restOf s ∧ memOf (advanceTo s n) = memOf s := by
  simp [restOf, memOf, -rest_fold, -mem_fold]
@[simp] theorem tick_kept (s : State)  : restOf (tick s ) = restOf s ∧ memOf (tick s ) = memOf s := by
  simp [restOf, memOf, -rest_fold, -mem_fold]
@[simp] theorem tracePush_kept (s : State) (r : TraceRec) (g : Bool) : restOf (tracePush s r g) = restOf s ∧ memOf (tracePush s r g) = memOf s := by
  simp [restOf, memOf, -rest_fold, -mem_fold]
@[simp] theorem traceEv_kept (s : State) (e tn sr : Nat) (tag : BitVec 16) (d st : Nat) : restOf (traceEv s e tn sr tag d st) = restOf s ∧ memOf (traceEv s e tn sr tag d st) = memOf s := by
  simp [restOf, memOf, -rest_fold, -mem_fold]
/-- A check that answers a state answers one with the same rest and memory. -/
def okKept (s : State) (r : Except (Status × Nat) State) : Prop := ∀ t, r = .ok t → restOf t = restOf s ∧ memOf t = memOf s
@[simp] theorem setDom_kCap (s : State) (d : Nat) (x : Domain) : (setDom s d x).pwr.kCap = s.pwr.kCap := rfl
/-- The parts that only the fuse commands write: queue, variant and fuses. -/
def identOf (s : State) : List Instr × Variant × Fuses :=
  ((restOf s).1, (restOf s).2.1, (restOf s).2.2.1)
theorem identOf_of_rest {s t : State} (h : restOf t = restOf s) : identOf t = identOf s := by simp only [identOf, h]
@[simp] theorem setThm_ident (s : State) (k : Nat) (x : ThmStack) : identOf (setThm s k x) = identOf s ∧ memOf (setThm s k x) = memOf s ∧
    (setThm s k x).pwr = s.pwr := ⟨rfl, rfl, rfl⟩
theorem foldl_ident {α : Type} (l : List α) (f : State → α → State) (h : ∀ s a, identOf (f s a) = identOf s) (s : State) : identOf (l.foldl f s) = identOf s := by
  induction l generalizing s with
  | nil => rfl
  | cons a t ih => rw [List.foldl_cons, ih, h]
theorem ident_upd (c : State) (d m : List Host.Cell) (th : Thm) (b : Boot) :
    identOf { c with dram := d, check := m, thm := th, boot := b } = identOf c := rfl
@[simp] theorem after_next (s t : State) : after s (.next t) = t := rfl
@[simp] theorem after_fault (s : State) (r : Fault) : after s (.fault r) = s := rfl
@[simp] theorem after_refused (s : State) (r : Refusal) : after s (.refused r) = s := rfl
theorem viaHost_if (s t : State) : viaHost s t = if s.boot.linkUp then t else s := rfl
theorem ident_pwr (c : State) (p : Pwr) : identOf { c with pwr := p } = identOf c := rfl
theorem ite_ident (c : Prop) [Decidable c] (a b : State) {s : State} (ha : identOf a = identOf s) (hb : identOf b = identOf s) :
    identOf (if c then a else b) = identOf s := by
  split
  · exact ha
  · exact hb
theorem ite_kept (c : Prop) [Decidable c] (a b : State) {s : State} (ha : restOf a = restOf s ∧ memOf a = memOf s)
    (hb : restOf b = restOf s ∧ memOf b = memOf s) :
    restOf (if c then a else b) = restOf s ∧ memOf (if c then a else b) = memOf s := by
  split
  · exact ha
  · exact hb
theorem foldl_kept {α : Type} (l : List α) (f : State → α → State) (h : ∀ s a, restOf (f s a) = restOf s ∧ memOf (f s a) = memOf s)
    (s t : State) (ht : restOf t = restOf s ∧ memOf t = memOf s) : restOf (l.foldl f t) = restOf s ∧ memOf (l.foldl f t) = memOf s :=
  ⟨(foldl_rest l f (fun s a => (h s a).1) t).trans ht.1, (foldl_mem l f (fun s a => (h s a).2) t).trans ht.2⟩
theorem okKept_foldl {α : Type} (s : State) (l : List α) (f : Except (Status × Nat) State → α → Except (Status × Nat) State)
    (h : ∀ r a, okKept s r → okKept s (f r a)) (r : Except (Status × Nat) State) (hr : okKept s r) : okKept s (l.foldl f r) := by
  induction l generalizing r with
  | nil => exact hr
  | cons a t ih => exact ih _ (h r a hr)
theorem okKept_ok (s t : State) (h : restOf t = restOf s ∧ memOf t = memOf s) : okKept s (.ok t) := by
  intro u hu; cases hu; exact h
theorem okKept_error (s : State) (e : Status × Nat) : okKept s (.error e) := by
  intro u hu; cases hu
end Sys2Proof.Machine
end

