-- ==== Sys2Proof/Laws/KeptCores.lean ====
section
/-! SUPPORT. One lemma f_kept for each function f on states: what f leaves alone, for the shared operations, the bank units' programs and their issue. -/

open Sys2Proof

namespace Sys2Proof.Machine

@[simp] theorem nextMultiple_kept (s : State) (n : Nat) : restOf (nextMultiple s n) = restOf s ∧ memOf (nextMultiple s n) = memOf s := by
  simp [nextMultiple]

@[simp] theorem pastDue_kept (s : State) (due : Nat) : restOf (pastDue s due) = restOf s ∧ memOf (pastDue s due) = memOf s := by
  simp [pastDue, apply_ite restOf, apply_ite memOf]

theorem viaHost_kept (s t : State) (h : restOf t = restOf s ∧ memOf t = memOf s) :
    restOf (viaHost s t) = restOf s ∧ memOf (viaHost s t) = memOf s := by
  unfold viaHost; split <;> simp [h]

@[simp] theorem draw_kept (s : State) : restOf (draw s).2 = restOf s ∧ memOf (draw s).2 = memOf s := by
  simp [draw]

@[simp] theorem newId_kept (s : State) : restOf (newId s).2 = restOf s ∧ memOf (newId s).2 = memOf s := by
  simp [newId]

@[simp] theorem logAddAt_kept (s : State) (time level source cls num : Nat) (tag : Option (BitVec 16)) (ten : Option Nat) (detail : List Byte) : restOf (logAddAt s time level source cls num tag ten detail) = restOf s ∧ memOf (logAddAt s time level source cls num tag ten detail) = memOf s := by
  simp [logAddAt]

@[simp] theorem ballastAsk_kept (s : State) (a : Admit) : restOf (ballastAsk s a) = restOf s ∧ memOf (ballastAsk s a) = memOf s := by
  simp [ballastAsk]

@[simp] theorem ballastDrop_kept (s : State) (b : Nat) : restOf (ballastDrop s b) = restOf s ∧ memOf (ballastDrop s b) = memOf s := by
  simp [ballastDrop]

@[simp] theorem settleRun_kept (s : State) (b : Nat) : restOf (settleRun s b) = restOf s ∧ memOf (settleRun s b) = memOf s := by
  unfold settleRun
  dsimp only
  (repeat' split) <;> simp

@[simp] theorem enterState_kept (s : State) (b : Nat) (st : UnitState) : restOf (enterState s b st) = restOf s ∧ memOf (enterState s b st) = memOf s := by
  simp [enterState]

@[simp] theorem putWord_kept (s : State) (w : Nat) (d : Word) (c : Byte) : restOf (putWord s w d c) = restOf s := by
  simp [putWord]

@[simp] theorem countEcc_kept (s : State) (b ce ue pr : Nat) : restOf (countEcc s b ce ue pr) = restOf s ∧ memOf (countEcc s b ce ue pr) = memOf s := by
  simp [countEcc]

@[simp] theorem logEcc_kept (s : State) (rd : Reader) (level num w count : Nat) : restOf (logEcc s rd level num w count) = restOf s ∧ memOf (logEcc s rd level num w count) = memOf s := by
  simp [logEcc]

@[simp] theorem noteCorrected_kept (s : State) (rd : Reader) (w : Nat) : restOf (noteCorrected s rd w) = restOf s ∧ memOf (noteCorrected s rd w) = memOf s := by
  unfold noteCorrected
  dsimp only
  (repeat' split) <;> simp

@[simp] theorem noteUncorrectable_kept (s : State) (rd : Reader) (w : Nat) : restOf (noteUncorrectable s rd w) = restOf s ∧ memOf (noteUncorrectable s rd w) = memOf s := by
  simp [noteUncorrectable, apply_ite restOf, apply_ite memOf]

@[simp] theorem poisoned_kept (s : State) : restOf (poisoned s).2 = restOf s ∧ memOf (poisoned s).2 = memOf s := by
  simp [poisoned]

@[simp] theorem readWord_kept (s : State) (rd : Reader) (w : Nat) : restOf (readWord s rd w).2 = restOf s ∧ memOf (readWord s rd w).2 = memOf s := by
  unfold readWord
  generalize classify _ _ = c
  cases c <;> simp

@[simp] theorem readWords_kept (s : State) (rd : Reader) (w n : Nat) :
    restOf (readWords s rd w n).2 = restOf s ∧ memOf (readWords s rd w n).2 = memOf s := by
  induction n generalizing s w with
  | zero => simp [readWords]
  | succ k ih => simp [readWords, ih]

@[simp] theorem putMarker_kept (s : State) (w : Nat) : restOf (putMarker s w) = restOf s := by
  simp [putMarker]

@[simp] theorem writeWord_kept (s : State) (rd : Reader) (w : Nat) (d : Word) (en : Nat) (poison : Bool) : restOf (writeWord s rd w d en poison).2 = restOf s := by
  unfold writeWord
  dsimp only
  (repeat' split) <;> simp

@[simp] theorem writeWordsFrom_kept (s : State) (rd : Reader) (w : Nat) (ws : List (Word × Nat × Bool)) :
    restOf (writeWordsFrom s rd w ws).2 = restOf s := by
  induction ws generalizing s w with
  | nil => simp [writeWordsFrom]
  | cons a t ih => simp [writeWordsFrom, ih]

@[simp] theorem writeOp_kept (s : State) (rd : Reader) (w : Nat) (ws : List (Word × Nat × Bool)) : restOf (writeOp s rd w ws) = restOf s := by
  unfold writeOp
  dsimp only
  (repeat' split) <;> simp

@[simp] theorem writeBytes_kept (s : State) (rd : Reader) (a : Nat) (bs : List (Option Byte)) (ps : List Bool) : restOf (writeBytes s rd a bs ps) = restOf s := by
  simp [writeBytes]

@[simp] theorem readBytes_kept (s : State) (rd : Reader) (a n : Nat) : restOf (readBytes s rd a n).2 = restOf s ∧ memOf (readBytes s rd a n).2 = memOf s := by
  unfold readBytes
  (repeat' split) <;> simp

@[simp] theorem settlePort_kept (s : State) (m : Nat) : restOf (settlePort s m) = restOf s ∧ memOf (settlePort s m) = memOf s := by
  simp [settlePort, apply_ite restOf, apply_ite memOf]

@[simp] theorem putFrame_kept (s : State) (m : Nat) (f : TxFrame) : restOf (putFrame s m f) = restOf s ∧ memOf (putFrame s m f) = memOf s := by
  simp [putFrame, apply_ite restOf, apply_ite memOf]

@[simp] theorem sendUnseq_kept (s : State) (f : TxFrame) : restOf (sendUnseq s f) = restOf s ∧ memOf (sendUnseq s f) = memOf s := by
  simp [sendUnseq]

@[simp] theorem transmit_kept (s : State) (f : TxFrame) : restOf (transmit s f) = restOf s ∧ memOf (transmit s f) = memOf s := by
  simp [transmit, apply_ite restOf, apply_ite memOf]

@[simp] theorem pump_kept (fuel : Nat) (s : State) (m : Nat) : restOf (pump fuel s m) = restOf s ∧ memOf (pump fuel s m) = memOf s := by
  induction fuel generalizing s with
  | zero => simp [pump]
  | succ k ih =>
    simp only [pump]
    split
    · simp
    · split <;> simp [ih]

@[simp] theorem sendSeq_kept (s : State) (f : TxFrame) : restOf (sendSeq s f) = restOf s ∧ memOf (sendSeq s f) = memOf s := by
  simp [sendSeq]

@[simp] theorem sendFlag_kept (s : State) (m ten : Nat) (tag : BitVec 16) (flag op : Nat) (value : Bool) (waiter : Nat) : restOf (sendFlag s m ten tag flag op value waiter) = restOf s ∧ memOf (sendFlag s m ten tag flag op value waiter) = memOf s := by
  simp [sendFlag]

@[simp] theorem newWaiter_kept (s : State) (flag : Nat) (reply : Reply) (watch clr tested onClear : Bool) : restOf (newWaiter s flag reply watch clr tested onClear).2 = restOf s ∧ memOf (newWaiter s flag reply watch clr tested onClear).2 = memOf s := by
  simp [newWaiter]

@[simp] theorem hostWriteIssue_kept (s : State) (t : Nat) (kind : HwKind) (addr : Nat) (bytes : List Byte) (poison : List Bool) : restOf (hostWriteIssue s t kind addr bytes poison) = restOf s ∧ memOf (hostWriteIssue s t kind addr bytes poison) = memOf s := by
  simp [hostWriteIssue]

@[simp] theorem writeRecord_kept (s : State) (t : Nat) (r : CRec) : restOf (writeRecord s t r) = restOf s ∧ memOf (writeRecord s t r) = memOf s := by
  simp [writeRecord]

@[simp] theorem loseRecord_kept (s : State) (t : Nat) (r : CRec) : restOf (loseRecord s t r) = restOf s ∧ memOf (loseRecord s t r) = memOf s := by
  simp [loseRecord, apply_ite restOf, apply_ite memOf]

@[simp] theorem postRecord_kept (s : State) (t : Nat) (r : CRec) : restOf (postRecord s t r) = restOf s ∧ memOf (postRecord s t r) = memOf s := by
  simp [postRecord, apply_ite restOf, apply_ite memOf]

@[simp] theorem setHeld_kept (s : State) (t : Nat) (l : List CRec) : restOf (setHeld s t l) = restOf s ∧ memOf (setHeld s t l) = memOf s := by
  simp [setHeld]

@[simp] theorem settleOne_kept (s : State) (t : Nat) : restOf (settleOne s t) = restOf s ∧ memOf (settleOne s t) = memOf s := by
  unfold settleOne
  split <;> simp

@[simp] theorem settleHeld_kept (n : Nat) (s : State) : restOf (settleHeld n s) = restOf s ∧ memOf (settleHeld n s) = memOf s := by
  induction n generalizing s with
  | zero => simp [settleHeld]
  | succ n ih =>
    simp only [settleHeld]
    split <;> simp [ih]

@[simp] theorem settleAll_kept (s : State) : restOf (settleAll s) = restOf s ∧ memOf (settleAll s) = memOf s := by
  simp [settleAll]

@[simp] theorem drainStaged_kept (s : State) (t : Nat) : restOf (drainStaged s t) = restOf s ∧ memOf (drainStaged s t) = memOf s := by
  unfold drainStaged
  (repeat' split) <;> simp

@[simp] theorem logDroppedEvent_kept (s : State) (t type : Nat) (tag : BitVec 16) (payload : List Byte) : restOf (logDroppedEvent s t type tag payload) = restOf s ∧ memOf (logDroppedEvent s t type tag payload) = memOf s := by
  simp [logDroppedEvent]

@[simp] theorem postEventAt_kept (s : State) (time t type : Nat) (tag : BitVec 16) (code : Nat) (payload : List Byte) (irq : Option Nat) : restOf (postEventAt s time t type tag code payload irq) = restOf s ∧ memOf (postEventAt s time t type tag code payload irq) = memOf s := by
  simp [postEventAt, apply_ite restOf, apply_ite memOf]

@[simp] theorem postEvent_kept (s : State) (t type : Nat) (tag : BitVec 16) (code : Nat) (payload : List Byte) (irq : Option Nat) : restOf (postEvent s t type tag code payload irq) = restOf s ∧ memOf (postEvent s t type tag code payload irq) = memOf s := by
  simp [postEvent]

@[simp] theorem faultRecordAt_kept (s : State) (time t : Nat) (tag : BitVec 16) (st : Status) (payload : List Byte) : restOf (faultRecordAt s time t tag st payload) = restOf s ∧ memOf (faultRecordAt s time t tag st payload) = memOf s := by
  simp [faultRecordAt]

@[simp] theorem faultRecord_kept (s : State) (t : Nat) (tag : BitVec 16) (st : Status) (payload : List Byte) : restOf (faultRecord s t tag st payload) = restOf s ∧ memOf (faultRecord s t tag st payload) = memOf s := by
  simp [faultRecord]

@[simp] theorem logEndAt_kept (s : State) (time t : Nat) (tag : BitVec 16) (st : Status) (acceptance : Bool) (payload : List Byte) : restOf (logEndAt s time t tag st acceptance payload) = restOf s ∧ memOf (logEndAt s time t tag st acceptance payload) = memOf s := by
  simp [logEndAt, apply_ite restOf, apply_ite memOf]

@[simp] theorem logEnd_kept (s : State) (t : Nat) (tag : BitVec 16) (st : Status) (acceptance : Bool) (payload : List Byte) : restOf (logEnd s t tag st acceptance payload) = restOf s ∧ memOf (logEnd s t tag st acceptance payload) = memOf s := by
  simp [logEnd]

@[simp] theorem reportEndAt_kept (s : State) (time t : Nat) (tag : BitVec 16) (st : Status) (payload : List Byte) (fault : Bool) : restOf (reportEndAt s time t tag st payload fault) = restOf s ∧ memOf (reportEndAt s time t tag st payload fault) = memOf s := by
  simp [reportEndAt, apply_ite restOf, apply_ite memOf]

@[simp] theorem reportEnd_kept (s : State) (t : Nat) (tag : BitVec 16) (st : Status) (payload : List Byte) (fault : Bool) : restOf (reportEnd s t tag st payload fault) = restOf s ∧ memOf (reportEnd s t tag st payload fault) = memOf s := by
  simp [reportEnd]

@[simp] theorem noteEnd_kept (s : State) (x : CoreId) : restOf (noteEnd s x) = restOf s ∧ memOf (noteEnd s x) = memOf s := by
  unfold noteEnd
  (repeat' split) <;> simp

@[simp] theorem settleEnd_kept (s : State) (x : CoreId) : restOf (settleEnd s x) = restOf s ∧ memOf (settleEnd s x) = memOf s := by
  unfold settleEnd
  (repeat' split) <;> simp

@[simp] theorem sendIrq_kept (s : State) (t vec : Nat) : restOf (sendIrq s t vec) = restOf s ∧ memOf (sendIrq s t vec) = memOf s := by
  simp [sendIrq]

@[simp] theorem raiseIrq_kept (s : State) (t vec : Nat) : restOf (raiseIrq s t vec) = restOf s ∧ memOf (raiseIrq s t vec) = memOf s := by
  simp [raiseIrq, apply_ite restOf, apply_ite memOf]

@[simp] theorem landRecord_kept (s : State) (t j size flagByte : Nat) (bytes : List Byte) (irq : Option Nat) : restOf (landRecord s t j size flagByte bytes irq) = restOf s ∧ memOf (landRecord s t j size flagByte bytes irq) = memOf s := by
  unfold landRecord
  (repeat' split) <;> simp

@[simp] theorem noteChange_kept (s : State) (f : Nat) (who : Who) (tag : BitVec 16) (ten op : Nat) : restOf (noteChange s f who tag ten op) = restOf s ∧ memOf (noteChange s f who tag ten op) = memOf s := by
  simp [noteChange]

@[simp] theorem freeKite_kept (s : State) (k : Nat) : restOf (freeKite s k) = restOf s ∧ memOf (freeKite s k) = memOf s := by
  simp [freeKite]

@[simp] theorem wakeCore_kept (s : State) (x : CoreId) : restOf (wakeCore s x) = restOf s ∧ memOf (wakeCore s x) = memOf s := by
  unfold wakeCore
  (repeat' split) <;> simp

@[simp] theorem modActive_kept (s : State) (i : Nat) (f : Active → Active) : restOf (modActive s i f) = restOf s ∧ memOf (modActive s i f) = memOf s := by
  simp [modActive]

@[simp] theorem hostKite_kept (s : State) (x : Kite) (k : Nat) : restOf (hostKite s x k) = restOf s ∧ memOf (hostKite s x k) = memOf s := by
  simp [hostKite]

@[simp] theorem releaseWatch_kept (s : State) (w : Watch) : restOf (releaseWatch s w) = restOf s ∧ memOf (releaseWatch s w) = memOf s := by
  unfold releaseWatch
  dsimp only
  (repeat' split) <;> simp

@[simp] theorem releaseAll_kept (s : State) (ws : List Watch) : restOf (releaseAll s ws) = restOf s ∧ memOf (releaseAll s ws) = memOf s := by
  unfold releaseAll
  exact ⟨foldl_rest _ _ (fun s a => by simp) _, foldl_mem _ _ (fun s a => by simp) _⟩

@[simp] theorem putFlag_kept (s : State) (f : Nat) (v : Bool) : restOf (putFlag s f v) = restOf s ∧ memOf (putFlag s f v) = memOf s := by
  simp [putFlag]

@[simp] theorem homeSet_kept (s : State) (f : Nat) (who : Who) (tag : BitVec 16) (ten : Nat) : restOf (homeSet s f who tag ten) = restOf s ∧ memOf (homeSet s f who tag ten) = memOf s := by
  unfold homeSet
  dsimp only
  (repeat' split) <;> simp

@[simp] theorem homeClear_kept (s : State) (f : Nat) (who : Who) (tag : BitVec 16) (ten op : Nat) : restOf (homeClear s f who tag ten op) = restOf s ∧ memOf (homeClear s f who tag ten op) = memOf s := by
  simp [homeClear, apply_ite restOf, apply_ite memOf]

@[simp] theorem registerWatch_kept (s : State) (w : Watch) (ten : Nat) : restOf (registerWatch s w ten) = restOf s ∧ memOf (registerWatch s w ten) = memOf s := by
  simp [registerWatch, apply_ite restOf, apply_ite memOf]

@[simp] theorem replyTo_kept (s : State) (r : Reply) (v : Bool) : restOf (replyTo s r v) = restOf s ∧ memOf (replyTo s r v) = memOf s := by
  unfold replyTo
  (repeat' split) <;> simp

@[simp] theorem applyMsg_kept (s : State) (m : FlagMsg) : restOf (applyMsg s m) = restOf s ∧ memOf (applyMsg s m) = memOf s := by
  unfold applyMsg
  (repeat' split) <;> simp

@[simp] theorem deliver_kept (s : State) (op : FlagOp) (f : Nat) : restOf (deliver s op f) = restOf s ∧ memOf (deliver s op f) = memOf s := by
  unfold deliver
  (repeat' split) <;> simp

@[simp] theorem flushOwn_kept (fuel : Nat) (s : State) (who : Who) (home : Nat) :
    restOf (flushOwn fuel s who home) = restOf s ∧ memOf (flushOwn fuel s who home) = memOf s := by
  induction fuel generalizing s with
  | zero => simp [flushOwn]
  | succ n ih =>
    simp only [flushOwn]
    split <;> simp [ih]

@[simp] theorem issueFlagOp_kept (s : State) (m : FlagMsg) : restOf (issueFlagOp s m) = restOf s ∧ memOf (issueFlagOp s m) = memOf s := by
  unfold issueFlagOp
  dsimp only
  (repeat' split) <;> simp

@[simp] theorem logUnowned_kept (s : State) (src : Nat) (tag : Option (BitVec 16)) (ten f : Nat) : restOf (logUnowned s src tag ten f) = restOf s ∧ memOf (logUnowned s src tag ten f) = memOf s := by
  simp [logUnowned]

@[simp] theorem signalFlag_kept (s : State) (f ten : Nat) (tag : BitVec 16) (who : Who) : restOf (signalFlag s f ten tag who) = restOf s ∧ memOf (signalFlag s f ten tag who) = memOf s := by
  simp [signalFlag, apply_ite restOf, apply_ite memOf]

@[simp] theorem registerWait_kept (s : State) (w : Watch) (ten : Nat) (reply : Reply) : restOf (registerWait s w ten reply) = restOf s ∧ memOf (registerWait s w ten reply) = memOf s := by
  simp [registerWait, apply_ite restOf, apply_ite memOf]

@[simp] theorem dropWaits_kept (s : State) (i : Nat) : restOf (dropWaits s i) = restOf s ∧ memOf (dropWaits s i) = memOf s := by
  simp [dropWaits]

@[simp] theorem dropCoreWaits_kept (s : State) (x : CoreId) : restOf (dropCoreWaits s x) = restOf s ∧ memOf (dropCoreWaits s x) = memOf s := by
  simp [dropCoreWaits]

@[simp] theorem dropKite_kept (s : State) (k : Nat) : restOf (dropKite s k) = restOf s ∧ memOf (dropKite s k) = memOf s := by
  unfold dropKite
  (repeat' split) <;> simp

@[simp] theorem dropKites_kept (s : State) (p : Kite → Bool) : restOf (dropKites s p) = restOf s ∧ memOf (dropKites s p) = memOf s := by
  unfold dropKites
  exact foldl_kept _ _ (fun s a => by simp) _ _ (by simp)


@[simp] theorem measureLoad_kept (s : State) (a : Active) : restOf (measureLoad s a) = restOf s ∧ memOf (measureLoad s a) = memOf s := by
  simp [measureLoad, apply_ite restOf, apply_ite memOf]

@[simp] theorem finishDesc_kept (s : State) (a : Active) (x : Executor) (st : Status) (detail : Nat) : restOf (finishDesc s a x st detail) = restOf s ∧ memOf (finishDesc s a x st detail) = memOf s := by
  unfold finishDesc
  dsimp only
  (repeat' split) <;> simp

@[simp] theorem finishPart_kept (s : State) (i : Nat) (x : Executor) (st : Status) (detail : Nat) : restOf (finishPart s i x st detail) = restOf s ∧ memOf (finishPart s i x st detail) = memOf s := by
  unfold finishPart
  dsimp only
  (repeat' split) <;> simp

@[simp] theorem setQueue_kept (s : State) (x : Executor) (q : List Nat) : restOf (setQueue s x q) = restOf s ∧ memOf (setQueue s x q) = memOf s := by
  unfold setQueue
  (repeat' split) <;> simp

@[simp] theorem withdraw_kept (s : State) (i : Nat) : restOf (withdraw s i) = restOf s ∧ memOf (withdraw s i) = memOf s := by
  unfold withdraw
  simp only [rest_mk, mem_mk, rest_fold, mem_fold]
  refine ⟨(foldl_rest _ _ (fun s a => by split <;> simp) _).trans ((foldl_rest _ _ (fun s a => by split <;> simp) _).trans (by simp)),
    (foldl_mem _ _ (fun s a => by split <;> simp) _).trans ((foldl_mem _ _ (fun s a => by split <;> simp) _).trans (by simp))⟩

@[simp] theorem endDesc_kept (s : State) (i : Nat) (st : Status) (x : Executor) (info detail : Nat) : restOf (endDesc s i st x info detail) = restOf s ∧ memOf (endDesc s i st x info detail) = memOf s := by
  unfold endDesc
  (repeat' split) <;> simp

@[simp] theorem settleExec_kept (s : State) (x : Executor) : restOf (settleExec s x) = restOf s ∧ memOf (settleExec s x) = memOf s := by
  unfold settleExec
  split <;> simp

@[simp] theorem endScrub_kept (s : State) (a : Active) (j : ScrubJob) (st : Status) : restOf (endScrub s a j st) = restOf s ∧ memOf (endScrub s a j st) = memOf s := by
  simp [endScrub]

@[simp] theorem cutScrub_kept (s : State) (a : Active) (st : Status) : restOf (cutScrub s a st) = restOf s ∧ memOf (cutScrub s a st) = memOf s := by
  simp [cutScrub]

@[simp] theorem dropPart_kept (s : State) (i : Nat) (x : Executor) (st : Status) (info : Nat) : restOf (dropPart s i x st info) = restOf s ∧ memOf (dropPart s i x st info) = memOf s := by
  unfold dropPart
  (repeat' split) <;> simp

@[simp] theorem dropParts_kept (s : State) (i : Nat) (st : Status) (info : Nat) :
    restOf (dropParts s i st info) = restOf s ∧ memOf (dropParts s i st info) = memOf s := by
  unfold dropParts
  split
  · simp
  · exact ⟨(foldl_rest _ _ (fun s a => by simp) _).trans (by simp), (foldl_mem _ _ (fun s a => by simp) _).trans (by simp)⟩

@[simp] theorem haltParts_kept (s : State) (i : Nat) : restOf (haltParts s i) = restOf s ∧ memOf (haltParts s i) = memOf s := by
  unfold haltParts
  split
  · simp
  · exact ⟨foldl_rest _ _ (fun s a => by split <;> simp) _, foldl_mem _ _ (fun s a => by split <;> simp) _⟩

@[simp] theorem refuseDesc_kept (s : State) (t : Nat) (src : Sys2Proof.Source) (d : Descriptor) (st : Status) : restOf (refuseDesc s t src d st) = restOf s ∧ memOf (refuseDesc s t src d st) = memOf s := by
  unfold refuseDesc
  dsimp only
  (repeat' split) <;> simp

@[simp] theorem stopTask_kept (s : State) (x : CoreId) (e : Ending) : restOf (stopTask s x e) = restOf s ∧ memOf (stopTask s x e) = memOf s := by
  unfold stopTask
  dsimp only
  (repeat' split) <;> simp

@[simp] theorem faultTask_kept (s : State) (x : CoreId) (st : Status) (reason info chan : Nat) : restOf (faultTask s x st reason info chan) = restOf s ∧ memOf (faultTask s x st reason info chan) = memOf s := by
  unfold faultTask
  (repeat' split) <;> simp

@[simp] theorem faultAt_kept (s : State) (x : CoreId) (st : Status) (reason info chan ck time : Nat) : restOf (faultAt s x st reason info chan ck time) = restOf s ∧ memOf (faultAt s x st reason info chan ck time) = memOf s := by
  unfold faultAt
  (repeat' split) <;> simp

@[simp] theorem faultOlder_kept (s : State) (b : Nat) (o : Origin) (op : Nat) (st : Status) (reason info : Nat) : restOf (faultOlder s b o op st reason info) = restOf s ∧ memOf (faultOlder s b o op st reason info) = memOf s := by
  unfold faultOlder
  dsimp only
  (repeat' split) <;> simp

@[simp] theorem cancelWait_kept (s : State) (x : CoreId) (info : Nat) : restOf (cancelWait s x info) = restOf s ∧ memOf (cancelWait s x info) = memOf s := by
  unfold cancelWait
  dsimp only
  (repeat' split) <;> simp

@[simp] theorem traceEnd_kept (s : State) (x : CoreId) (t : Task) (st : Status) : restOf (traceEnd s x t st) = restOf s ∧ memOf (traceEnd s x t st) = memOf s := by
  unfold traceEnd
  (repeat' split) <;> simp

@[simp] theorem cancelTask_kept (s : State) (x : CoreId) (st : Status) (reportFault : Bool) : restOf (cancelTask s x st reportFault) = restOf s ∧ memOf (cancelTask s x st reportFault) = memOf s := by
  unfold cancelTask
  dsimp only
  (repeat' split) <;> simp

@[simp] theorem commitColumn_kept (s : State) (b : Nat) (p : WPair) (c : Nat) : restOf (commitColumn s b p c) = restOf s := by
  simp [commitColumn]

@[simp] theorem settlePair_kept (s : State) (b : Nat) (p : WPair) : restOf (settlePair s b p) = restOf s := by
  simp [settlePair, apply_ite restOf]

@[simp] theorem settleLine_kept (s : State) (a : Nat) : restOf (settleLine s a) = restOf s := by
  unfold settleLine
  (repeat' split) <;> simp

@[simp] theorem countOob_kept (s : State) (n : Nat) (write : Bool) (k : Nat) : restOf (countOob s n write k) = restOf s ∧ memOf (countOob s n write k) = memOf s := by
  simp [countOob, apply_ite restOf, apply_ite memOf]

@[simp] theorem readOnce_kept (s : State) (rd : Reader) (seen : List (Nat × PWord)) (w : Nat) : restOf (readOnce s rd seen w).2 = restOf s ∧ memOf (readOnce s rd seen w).2 = memOf s := by
  unfold readOnce
  split <;> simp

@[simp] theorem readLocs_kept (s : State) (rd : Reader) (seen : List (Nat × PWord)) (ls : List Loc) :
    restOf (readLocs s rd seen ls).2 = restOf s ∧ memOf (readLocs s rd seen ls).2 = memOf s := by
  induction ls generalizing s seen with
  | nil => simp [readLocs]
  | cons a t ih =>
    cases a with
    | mem a => simp [readLocs, ih]
    | oob f => simp [readLocs, ih]
    | fault => simp [readLocs, ih]

@[simp] theorem writeGathered_kept (s : State) (rd : Reader) (ws : List (Nat × Word × Nat × Bool)) :
    restOf (writeGathered s rd ws).2 = restOf s := by
  induction ws generalizing s with
  | nil => simp [writeGathered]
  | cons a t ih => simp [writeGathered, ih]

@[simp] theorem writeLocs_kept (s : State) (rd : Reader) (ls : List (Loc × Byte × Bool)) : restOf (writeLocs s rd ls) = restOf s := by
  unfold writeLocs
  dsimp only
  (repeat' split) <;> simp

@[simp] theorem settleLocs_kept (s : State) (ls : List Loc) : restOf (settleLocs s ls) = restOf s := by
  unfold settleLocs
  exact foldl_rest _ _ (fun s a => by split <;> simp) _

@[simp] theorem regionRead_kept (s : State) (rd : Reader) (n : Nat) (bi off : Int) (k : Nat) : restOf (regionRead s rd n bi off k).2 = restOf s := by
  unfold regionRead
  dsimp only
  (repeat' split) <;> simp

@[simp] theorem regionWrite_kept (s : State) (rd : Reader) (n : Nat) (bi off : Int) (bs : List (Byte × Bool)) : restOf (regionWrite s rd n bi off bs).2 = restOf s := by
  unfold regionWrite
  dsimp only
  (repeat' split) <;> simp


@[simp] theorem enterPart_kept (s : State) (a : Active) (x : Executor) : restOf (enterPart s a x) = restOf s ∧ memOf (enterPart s a x) = memOf s := by
  simp [enterPart]

@[simp] theorem enterAll_kept (s : State) (i : Nat) : restOf (enterAll s i) = restOf s ∧ memOf (enterAll s i) = memOf s := by
  unfold enterAll
  split
  · simp
  · exact ⟨foldl_rest _ _ (fun s a => by (repeat' split) <;> simp) _, foldl_mem _ _ (fun s a => by (repeat' split) <;> simp) _⟩

@[simp] theorem markDomainWait_kept (s : State) (i : Nat) : restOf (markDomainWait s i) = restOf s ∧ memOf (markDomainWait s i) = memOf s := by
  simp [markDomainWait]

@[simp] theorem acceptDesc_kept (s : State) (t : Nat) (src : Sys2Proof.Source) (index : Nat) (d : Descriptor) : restOf (acceptDesc s t src index d) = restOf s ∧ memOf (acceptDesc s t src index d) = memOf s := by
  unfold acceptDesc
  dsimp only
  (repeat' split) <;> simp

@[simp] theorem stepBatch_kept (s : State) (t : Nat) (src : Sys2Proof.Source) (d : Descriptor) (accepted : Bool) : restOf (stepBatch s t src d accepted) = restOf s ∧ memOf (stepBatch s t src d accepted) = memOf s := by
  simp [stepBatch, apply_ite restOf, apply_ite memOf]

@[simp] theorem takeHead_kept (s : State) (t : Nat) (src : Sys2Proof.Source) : restOf (takeHead s t src) = restOf s ∧ memOf (takeHead s t src) = memOf s := by
  unfold takeHead
  (repeat' split) <;> simp

@[simp] theorem takeTurn_kept (s : State) (t : Nat) (src : Sys2Proof.Source) : restOf (takeTurn s t src) = restOf s ∧ memOf (takeTurn s t src) = memOf s := by
  unfold takeTurn
  (repeat' split) <;> simp

@[simp] theorem judgeHead_kept (s : State) (ten : BitVec 8) (src : Sys2Proof.Source) (op : Nat → Bool) : restOf (judgeHead s ten src op) = restOf s ∧ memOf (judgeHead s ten src op) = memOf s := by
  unfold judgeHead
  dsimp only
  (repeat' split) <;> simp

@[simp] theorem execNop_kept (ten : BitVec 8) (src : Sys2Proof.Source) (s : State) : restOf (after s (execNop ten src s)) = restOf s ∧ memOf (after s (execNop ten src s)) = memOf s := by
  simp [execNop]

@[simp] theorem execBuRun_kept (ten : BitVec 8) (src : Sys2Proof.Source) (s : State) : restOf (after s (execBuRun ten src s)) = restOf s ∧ memOf (after s (execBuRun ten src s)) = memOf s := by
  simp [execBuRun]

@[simp] theorem execBuLoad_kept (ten : BitVec 8) (src : Sys2Proof.Source) (s : State) : restOf (after s (execBuLoad ten src s)) = restOf s ∧ memOf (after s (execBuLoad ten src s)) = memOf s := by
  simp [execBuLoad]

@[simp] theorem execDecantCopy_kept (ten : BitVec 8) (src : Sys2Proof.Source) (s : State) : restOf (after s (execDecantCopy ten src s)) = restOf s ∧ memOf (after s (execDecantCopy ten src s)) = memOf s := by
  simp [execDecantCopy]

@[simp] theorem execPressRun_kept (ten : BitVec 8) (src : Sys2Proof.Source) (s : State) : restOf (after s (execPressRun ten src s)) = restOf s ∧ memOf (after s (execPressRun ten src s)) = memOf s := by
  simp [execPressRun]

@[simp] theorem execPressLoad_kept (ten : BitVec 8) (src : Sys2Proof.Source) (s : State) : restOf (after s (execPressLoad ten src s)) = restOf s ∧ memOf (after s (execPressLoad ten src s)) = memOf s := by
  simp [execPressLoad]

@[simp] theorem execFlagSet_kept (ten : BitVec 8) (src : Sys2Proof.Source) (s : State) : restOf (after s (execFlagSet ten src s)) = restOf s ∧ memOf (after s (execFlagSet ten src s)) = memOf s := by
  simp [execFlagSet]

@[simp] theorem execFlagClear_kept (ten : BitVec 8) (src : Sys2Proof.Source) (s : State) : restOf (after s (execFlagClear ten src s)) = restOf s ∧ memOf (after s (execFlagClear ten src s)) = memOf s := by
  simp [execFlagClear]

@[simp] theorem execKiteArm_kept (ten : BitVec 8) (src : Sys2Proof.Source) (s : State) : restOf (after s (execKiteArm ten src s)) = restOf s ∧ memOf (after s (execKiteArm ten src s)) = memOf s := by
  simp [execKiteArm]

@[simp] theorem execBarrierInit_kept (ten : BitVec 8) (src : Sys2Proof.Source) (s : State) : restOf (after s (execBarrierInit ten src s)) = restOf s ∧ memOf (after s (execBarrierInit ten src s)) = memOf s := by
  simp [execBarrierInit]

@[simp] theorem execFence_kept (ten : BitVec 8) (src : Sys2Proof.Source) (s : State) : restOf (after s (execFence ten src s)) = restOf s ∧ memOf (after s (execFence ten src s)) = memOf s := by
  simp [execFence]

@[simp] theorem execScrub_kept (ten : BitVec 8) (src : Sys2Proof.Source) (s : State) : restOf (after s (execScrub ten src s)) = restOf s ∧ memOf (after s (execScrub ten src s)) = memOf s := by
  simp [execScrub]

@[simp] theorem execNetSend_kept (ten : BitVec 8) (src : Sys2Proof.Source) (s : State) : restOf (after s (execNetSend ten src s)) = restOf s ∧ memOf (after s (execNetSend ten src s)) = memOf s := by
  simp [execNetSend]

@[simp] theorem execMeterSnap_kept (ten : BitVec 8) (src : Sys2Proof.Source) (s : State) : restOf (after s (execMeterSnap ten src s)) = restOf s ∧ memOf (after s (execMeterSnap ten src s)) = memOf s := by
  simp [execMeterSnap]

@[simp] theorem execBadOpcodeDescriptor_kept (ten : BitVec 8) (src : Sys2Proof.Source) (s : State) : restOf (after s (execBadOpcodeDescriptor ten src s)) = restOf s ∧ memOf (after s (execBadOpcodeDescriptor ten src s)) = memOf s := by
  simp [execBadOpcodeDescriptor]

theorem issue_rest (s : State) (x : CoreId) (op : Nat) (z : Word64 → Bool) (run : State → Proc → Word64 → State)
    (h : ∀ p w, restOf (run s p w) = restOf s) : restOf (issue s x op z run) = restOf s := by
  unfold issue
  dsimp only
  (repeat' split) <;> simp [h]
theorem issue_mem (s : State) (x : CoreId) (op : Nat) (z : Word64 → Bool) (run : State → Proc → Word64 → State)
    (h : ∀ p w, memOf (run s p w) = memOf s) : memOf (issue s x op z run) = memOf s := by
  unfold issue
  dsimp only
  (repeat' split) <;> simp [h]
theorem issue_kept (s : State) (x : CoreId) (op : Nat) (z : Word64 → Bool) (run : State → Proc → Word64 → State)
    (h : ∀ p w, restOf (run s p w) = restOf s ∧ memOf (run s p w) = memOf s) :
    restOf (issue s x op z run) = restOf s ∧ memOf (issue s x op z run) = memOf s :=
  ⟨issue_rest s x op z run (fun p w => (h p w).1), issue_mem s x op z run (fun p w => (h p w).2)⟩

@[simp] theorem issueUndefined_kept (s : State) (x : CoreId) : restOf (issueUndefined s x) = restOf s ∧ memOf (issueUndefined s x) = memOf s := by
  simp [issueUndefined, apply_ite restOf, apply_ite memOf]

theorem judge_rest (s : State) (x : CoreId) (p : Proc) (regs : List Nat) (checks : List (Nat × Nat)) (go : State) (h : restOf go = restOf s) :
    restOf (judge s x p regs checks go) = restOf s := by
  unfold judge
  (repeat' split) <;> simp [h]
theorem judge_mem (s : State) (x : CoreId) (p : Proc) (regs : List Nat) (checks : List (Nat × Nat)) (go : State) (h : memOf go = memOf s) :
    memOf (judge s x p regs checks go) = memOf s := by
  unfold judge
  (repeat' split) <;> simp [h]
theorem judge_kept (s : State) (x : CoreId) (p : Proc) (regs : List Nat) (checks : List (Nat × Nat)) (go : State)
    (h : restOf go = restOf s ∧ memOf go = memOf s) :
    restOf (judge s x p regs checks go) = restOf s ∧ memOf (judge s x p regs checks go) = memOf s :=
  ⟨judge_rest s x p regs checks go h.1, judge_mem s x p regs checks go h.2⟩

@[simp] theorem settle_kept (s : State) (v : Word) (p : Bool) : restOf (settle s v p).2 = restOf s ∧ memOf (settle s v p).2 = memOf s := by
  unfold settle
  (repeat' split) <;> simp

@[simp] theorem finishScalar_kept (s : State) (x : CoreId) (rd : Nat) (v : Word) (poison : Bool) : restOf (finishScalar s x rd v poison) = restOf s ∧ memOf (finishScalar s x rd v poison) = memOf s := by
  simp [finishScalar]

@[simp] theorem stepOn_kept (s : State) (x : CoreId) : restOf (stepOn s x) = restOf s ∧ memOf (stepOn s x) = memOf s := by
  simp [stepOn]

@[simp] theorem arrive_kept (s : State) (e ch : Nat) (r : Record) : restOf (arrive s e ch r) = restOf s ∧ memOf (arrive s e ch r) = memOf s := by
  simp [arrive]

@[simp] theorem scalarS_kept (s : State) (x : CoreId) (op : Nat) (f : Word → Word → Word) : restOf (scalarS s x op f) = restOf s ∧ memOf (scalarS s x op f) = memOf s := by
  unfold scalarS
  refine issue_kept _ _ _ _ _ (fun p w => ?_)
  dsimp only
  refine judge_kept _ _ _ _ _ _ ?_
  refine ⟨?_, ?_⟩ <;> (repeat' split) <;> simp

@[simp] theorem scalarI_kept (s : State) (x : CoreId) (op : Nat) (shift : Bool) (f : Word → Word → Word) : restOf (scalarI s x op shift f) = restOf s ∧ memOf (scalarI s x op shift f) = memOf s := by
  unfold scalarI
  refine issue_kept _ _ _ _ _ (fun p w => ?_)
  dsimp only
  refine judge_kept _ _ _ _ _ _ ?_
  refine ⟨?_, ?_⟩ <;> (repeat' split) <;> simp

@[simp] theorem execAdd_kept (x : CoreId) (s : State) : restOf (after s (execAdd x s)) = restOf s ∧ memOf (after s (execAdd x s)) = memOf s := by
  simp [execAdd]

@[simp] theorem execSub_kept (x : CoreId) (s : State) : restOf (after s (execSub x s)) = restOf s ∧ memOf (after s (execSub x s)) = memOf s := by
  simp [execSub]

@[simp] theorem execAnd_kept (x : CoreId) (s : State) : restOf (after s (execAnd x s)) = restOf s ∧ memOf (after s (execAnd x s)) = memOf s := by
  simp [execAnd]

@[simp] theorem execOr_kept (x : CoreId) (s : State) : restOf (after s (execOr x s)) = restOf s ∧ memOf (after s (execOr x s)) = memOf s := by
  simp [execOr]

@[simp] theorem execXor_kept (x : CoreId) (s : State) : restOf (after s (execXor x s)) = restOf s ∧ memOf (after s (execXor x s)) = memOf s := by
  simp [execXor]

@[simp] theorem execShl_kept (x : CoreId) (s : State) : restOf (after s (execShl x s)) = restOf s ∧ memOf (after s (execShl x s)) = memOf s := by
  simp [execShl]

@[simp] theorem execShr_kept (x : CoreId) (s : State) : restOf (after s (execShr x s)) = restOf s ∧ memOf (after s (execShr x s)) = memOf s := by
  simp [execShr]

@[simp] theorem execSra_kept (x : CoreId) (s : State) : restOf (after s (execSra x s)) = restOf s ∧ memOf (after s (execSra x s)) = memOf s := by
  simp [execSra]

@[simp] theorem execMul_kept (x : CoreId) (s : State) : restOf (after s (execMul x s)) = restOf s ∧ memOf (after s (execMul x s)) = memOf s := by
  simp [execMul]

@[simp] theorem execMin_kept (x : CoreId) (s : State) : restOf (after s (execMin x s)) = restOf s ∧ memOf (after s (execMin x s)) = memOf s := by
  simp [execMin]

@[simp] theorem execMax_kept (x : CoreId) (s : State) : restOf (after s (execMax x s)) = restOf s ∧ memOf (after s (execMax x s)) = memOf s := by
  simp [execMax]

@[simp] theorem execSlt_kept (x : CoreId) (s : State) : restOf (after s (execSlt x s)) = restOf s ∧ memOf (after s (execSlt x s)) = memOf s := by
  simp [execSlt]

@[simp] theorem execSltu_kept (x : CoreId) (s : State) : restOf (after s (execSltu x s)) = restOf s ∧ memOf (after s (execSltu x s)) = memOf s := by
  simp [execSltu]

@[simp] theorem execAddi_kept (x : CoreId) (s : State) : restOf (after s (execAddi x s)) = restOf s ∧ memOf (after s (execAddi x s)) = memOf s := by
  simp [execAddi]

@[simp] theorem execAndi_kept (x : CoreId) (s : State) : restOf (after s (execAndi x s)) = restOf s ∧ memOf (after s (execAndi x s)) = memOf s := by
  simp [execAndi]

@[simp] theorem execOri_kept (x : CoreId) (s : State) : restOf (after s (execOri x s)) = restOf s ∧ memOf (after s (execOri x s)) = memOf s := by
  simp [execOri]

@[simp] theorem execXori_kept (x : CoreId) (s : State) : restOf (after s (execXori x s)) = restOf s ∧ memOf (after s (execXori x s)) = memOf s := by
  simp [execXori]

@[simp] theorem execShli_kept (x : CoreId) (s : State) : restOf (after s (execShli x s)) = restOf s ∧ memOf (after s (execShli x s)) = memOf s := by
  simp [execShli]

@[simp] theorem execShri_kept (x : CoreId) (s : State) : restOf (after s (execShri x s)) = restOf s ∧ memOf (after s (execShri x s)) = memOf s := by
  simp [execShri]

@[simp] theorem execSrai_kept (x : CoreId) (s : State) : restOf (after s (execSrai x s)) = restOf s ∧ memOf (after s (execSrai x s)) = memOf s := by
  simp [execSrai]

@[simp] theorem execMuli_kept (x : CoreId) (s : State) : restOf (after s (execMuli x s)) = restOf s ∧ memOf (after s (execMuli x s)) = memOf s := by
  simp [execMuli]

@[simp] theorem execSlti_kept (x : CoreId) (s : State) : restOf (after s (execSlti x s)) = restOf s ∧ memOf (after s (execSlti x s)) = memOf s := by
  simp [execSlti]

@[simp] theorem execLi_kept (x : CoreId) (s : State) : restOf (after s (execLi x s)) = restOf s ∧ memOf (after s (execLi x s)) = memOf s := by
  unfold execLi
  simp only [after_next]
  refine issue_kept _ _ _ _ _ (fun p w => ?_)
  refine judge_kept _ _ _ _ _ _ ?_
  refine ⟨?_, ?_⟩ <;> (repeat' split) <;> simp

@[simp] theorem execRds_kept (x : CoreId) (s : State) : restOf (after s (execRds x s)) = restOf s ∧ memOf (after s (execRds x s)) = memOf s := by
  unfold execRds
  simp only [after_next]
  refine issue_kept _ _ _ _ _ (fun p w => ?_)
  split
  · exact judge_kept _ _ _ _ _ _ (by simp)
  · exact judge_kept _ _ _ _ _ _ ⟨rfl, rfl⟩

@[simp] theorem loadWord_kept (s : State) (x : CoreId) : restOf (loadWord s x) = restOf s ∧ memOf (loadWord s x) = memOf s := by
  unfold loadWord
  refine issue_kept _ _ _ _ _ (fun p w => ?_)
  dsimp only
  refine judge_kept _ _ _ _ _ _ ?_
  refine ⟨?_, ?_⟩ <;> (repeat' split) <;> simp

@[simp] theorem storeWord_kept (s : State) (x : CoreId) : restOf (storeWord s x) = restOf s ∧ memOf (storeWord s x) = memOf s := by
  unfold storeWord
  refine issue_kept _ _ _ _ _ (fun p w => ?_)
  dsimp only
  refine judge_kept _ _ _ _ _ _ ?_
  refine ⟨?_, ?_⟩ <;> (repeat' split) <;> simp

@[simp] theorem execLdw_kept (b : BitVec 12) (s : State) : restOf (after s (execLdw b s)) = restOf s ∧ memOf (after s (execLdw b s)) = memOf s := by
  simp [execLdw]

@[simp] theorem execStw_kept (b : BitVec 12) (s : State) : restOf (after s (execStw b s)) = restOf s ∧ memOf (after s (execStw b s)) = memOf s := by
  simp [execStw]

@[simp] theorem execPressLdw_kept (e : BitVec 4) (s : State) : restOf (after s (execPressLdw e s)) = restOf s ∧ memOf (after s (execPressLdw e s)) = memOf s := by
  simp [execPressLdw]

@[simp] theorem execPressStw_kept (e : BitVec 4) (s : State) : restOf (after s (execPressStw e s)) = restOf s ∧ memOf (after s (execPressStw e s)) = memOf s := by
  simp [execPressStw]

@[simp] theorem branch_kept (s : State) (x : CoreId) (op : Nat) (always : Bool) (f : Word → Word → Bool) : restOf (branch s x op always f) = restOf s ∧ memOf (branch s x op always f) = memOf s := by
  unfold branch
  refine issue_kept _ _ _ _ _ (fun p w => ?_)
  dsimp only
  refine judge_kept _ _ _ _ _ _ ?_
  refine ⟨?_, ?_⟩ <;> (repeat' split) <;> simp

@[simp] theorem execB_kept (x : CoreId) (s : State) : restOf (after s (execB x s)) = restOf s ∧ memOf (after s (execB x s)) = memOf s := by
  simp [execB]

@[simp] theorem execBeq_kept (x : CoreId) (s : State) : restOf (after s (execBeq x s)) = restOf s ∧ memOf (after s (execBeq x s)) = memOf s := by
  simp [execBeq]

@[simp] theorem execBne_kept (x : CoreId) (s : State) : restOf (after s (execBne x s)) = restOf s ∧ memOf (after s (execBne x s)) = memOf s := by
  simp [execBne]

@[simp] theorem execBlt_kept (x : CoreId) (s : State) : restOf (after s (execBlt x s)) = restOf s ∧ memOf (after s (execBlt x s)) = memOf s := by
  simp [execBlt]

@[simp] theorem execBge_kept (x : CoreId) (s : State) : restOf (after s (execBge x s)) = restOf s ∧ memOf (after s (execBge x s)) = memOf s := by
  simp [execBge]

@[simp] theorem execBltu_kept (x : CoreId) (s : State) : restOf (after s (execBltu x s)) = restOf s ∧ memOf (after s (execBltu x s)) = memOf s := by
  simp [execBltu]

@[simp] theorem execBgeu_kept (x : CoreId) (s : State) : restOf (after s (execBgeu x s)) = restOf s ∧ memOf (after s (execBgeu x s)) = memOf s := by
  simp [execBgeu]

@[simp] theorem execLoop_kept (x : CoreId) (s : State) : restOf (after s (execLoop x s)) = restOf s ∧ memOf (after s (execLoop x s)) = memOf s := by
  unfold execLoop
  simp only [after_next]
  refine issue_kept _ _ _ _ _ (fun p w => ?_)
  refine judge_kept _ _ _ _ _ _ ?_
  refine ⟨?_, ?_⟩ <;> (repeat' split) <;> simp

@[simp] theorem execLend_kept (x : CoreId) (s : State) : restOf (after s (execLend x s)) = restOf s ∧ memOf (after s (execLend x s)) = memOf s := by
  unfold execLend
  simp only [after_next]
  refine issue_kept _ _ _ _ _ (fun p w => ?_)
  refine ⟨?_, ?_⟩ <;> (repeat' split) <;> simp

@[simp] theorem execLexit_kept (x : CoreId) (s : State) : restOf (after s (execLexit x s)) = restOf s ∧ memOf (after s (execLexit x s)) = memOf s := by
  unfold execLexit
  simp only [after_next]
  refine issue_kept _ _ _ _ _ (fun p w => ?_)
  split
  · exact judge_kept _ _ _ _ _ _ (by simp)
  · exact judge_kept _ _ _ _ _ _ ⟨rfl, rfl⟩

@[simp] theorem execUndefinedOpcodeWord_kept (x : CoreId) (s : State) : restOf (after s (execUndefinedOpcodeWord x s)) = restOf s ∧ memOf (after s (execUndefinedOpcodeWord x s)) = memOf s := by
  simp [execUndefinedOpcodeWord]

theorem withFlag_kept (s : State) (x : CoreId) (f : Nat) (go : State) (h : restOf go = restOf s ∧ memOf go = memOf s) :
    restOf (withFlag s x f go) = restOf s ∧ memOf (withFlag s x f go) = memOf s := by
  unfold withFlag
  refine ⟨?_, ?_⟩ <;> (repeat' split) <;> simp [h]

@[simp] theorem sendFlagOp_kept (s : State) (x : CoreId) (code : Nat) (op : FlagOp) :
    restOf (sendFlagOp s x code op) = restOf s ∧ memOf (sendFlagOp s x code op) = memOf s := by
  unfold sendFlagOp
  refine issue_kept _ _ _ _ _ (fun p w => judge_kept _ _ _ _ _ _ (withFlag_kept _ _ _ _ ?_))
  refine ⟨?_, ?_⟩ <;> split <;> simp

@[simp] theorem execFset_kept (x : CoreId) (s : State) : restOf (after s (execFset x s)) = restOf s ∧ memOf (after s (execFset x s)) = memOf s := by
  simp [execFset]

@[simp] theorem execFclr_kept (x : CoreId) (s : State) : restOf (after s (execFclr x s)) = restOf s ∧ memOf (after s (execFclr x s)) = memOf s := by
  simp [execFclr]

@[simp] theorem beginNap_kept (s : State) (x : CoreId) (why : NapWhy) : restOf (beginNap s x why) = restOf s ∧ memOf (beginNap s x why) = memOf s := by
  unfold beginNap
  (repeat' split) <;> simp

@[simp] theorem notePolling_kept (s : State) (x : CoreId) (f : Nat) : restOf (notePolling s x f) = restOf s ∧ memOf (notePolling s x f) = memOf s := by
  unfold notePolling
  (repeat' split) <;> simp

@[simp] theorem waitFlag_kept (s : State) (x : CoreId) (f : Nat) (clr : Bool) : restOf (waitFlag s x f clr) = restOf s ∧ memOf (waitFlag s x f clr) = memOf s := by
  unfold waitFlag
  dsimp only
  (repeat' split) <;> simp

@[simp] theorem execFwait_kept (x : CoreId) (s : State) : restOf (after s (execFwait x s)) = restOf s ∧ memOf (after s (execFwait x s)) = memOf s := by
  unfold execFwait
  simp only [after_next]
  refine issue_kept _ _ _ _ _ (fun p w => judge_kept _ _ _ _ _ _ (withFlag_kept _ _ _ _ ?_))
  exact ite_kept _ _ _ (by simp) (by simp)

@[simp] theorem execBarr_kept (b : BitVec 12) (s : State) : restOf (after s (execBarr b s)) = restOf s ∧ memOf (after s (execBarr b s)) = memOf s := by
  unfold execBarr
  simp only [after_next]
  refine issue_kept _ _ _ _ _ (fun p w => ?_)
  refine judge_kept _ _ _ _ _ _ ?_
  refine ⟨?_, ?_⟩ <;> (repeat' split) <;> simp

@[simp] theorem execSend_kept (b : BitVec 12) (s : State) : restOf (after s (execSend b s)) = restOf s ∧ memOf (after s (execSend b s)) = memOf s := by
  unfold execSend
  simp only [after_next]
  refine issue_kept _ _ _ _ _ (fun p w => ?_)
  refine judge_kept _ _ _ _ _ _ ?_
  refine ⟨?_, ?_⟩ <;> (repeat' split) <;> simp

@[simp] theorem execHalt_kept (b : BitVec 12) (s : State) : restOf (after s (execHalt b s)) = restOf s ∧ memOf (after s (execHalt b s)) = memOf s := by
  unfold execHalt
  simp only [after_next]
  refine issue_kept _ _ _ _ _ (fun p w => ?_)
  refine judge_kept _ _ _ _ _ _ ?_
  refine ⟨?_, ?_⟩ <;> (repeat' split) <;> simp

@[simp] theorem setShape_kept (s : State) (x : CoreId) (unit : Int) : restOf (setShape s x unit) = restOf s ∧ memOf (setShape s x unit) = memOf s := by
  unfold setShape
  refine issue_kept _ _ _ _ _ (fun p w => ?_)
  dsimp only
  refine judge_kept _ _ _ _ _ _ ?_
  refine ⟨?_, ?_⟩ <;> (repeat' split) <;> simp

@[simp] theorem execShape_kept (b : BitVec 12) (s : State) : restOf (after s (execShape b s)) = restOf s ∧ memOf (after s (execShape b s)) = memOf s := by
  simp [execShape]

@[simp] theorem execPshape_kept (e : BitVec 4) (s : State) : restOf (after s (execPshape e s)) = restOf s ∧ memOf (after s (execPshape e s)) = memOf s := by
  simp [execPshape]

@[simp] theorem execBstream_kept (b : BitVec 12) (s : State) : restOf (after s (execBstream b s)) = restOf s ∧ memOf (after s (execBstream b s)) = memOf s := by
  unfold execBstream
  simp only [after_next]
  refine issue_kept _ _ _ _ _ (fun p w => ?_)
  refine judge_kept _ _ _ _ _ _ ?_
  refine ⟨?_, ?_⟩ <;> (repeat' split) <;> simp

@[simp] theorem execPhalt_kept (e : BitVec 4) (s : State) : restOf (after s (execPhalt e s)) = restOf s ∧ memOf (after s (execPhalt e s)) = memOf s := by
  unfold execPhalt
  simp only [after_next]
  refine issue_kept _ _ _ _ _ (fun p w => ?_)
  refine judge_kept _ _ _ _ _ _ ?_
  refine ⟨?_, ?_⟩ <;> (repeat' split) <;> simp

@[simp] theorem violateTag_kept (s : State) (t : Nat) (tag : Option (BitVec 16)) (num ident size off expected value : Nat) : restOf (violateTag s t tag num ident size off expected value) = restOf s ∧ memOf (violateTag s t tag num ident size off expected value) = memOf s := by
  simp [violateTag, apply_ite restOf, apply_ite memOf]

@[simp] theorem violate_kept (s : State) (t num ident size off expected value : Nat) : restOf (violate s t num ident size off expected value) = restOf s ∧ memOf (violate s t num ident size off expected value) = memOf s := by
  simp [violate]

@[simp] theorem violationFault_kept (s : State) (t : Nat) (st : Status) (num ident size off expected value : Nat) : restOf (violationFault s t st num ident size off expected value) = restOf s ∧ memOf (violationFault s t st num ident size off expected value) = memOf s := by
  simp [violationFault]

@[simp] theorem poisonEntry_kept (s : State) (t ring : Nat) (index : BitVec 16) : restOf (poisonEntry s t ring index) = restOf s ∧ memOf (poisonEntry s t ring index) = memOf s := by
  simp [poisonEntry]

@[simp] theorem putFetch_kept (s : State) (f : Fetch) : restOf (putFetch s f) = restOf s ∧ memOf (putFetch s f) = memOf s := by
  simp [putFetch, apply_ite restOf, apply_ite memOf]

@[simp] theorem releaseRing_kept (fuel : Nat) (s : State) (t ring : Nat) :
    restOf (releaseRing fuel s t ring) = restOf s ∧ memOf (releaseRing fuel s t ring) = memOf s := by
  induction fuel generalizing s with
  | zero => simp [releaseRing]
  | succ n ih =>
    simp only [releaseRing]
    refine ⟨?_, ?_⟩ <;> (repeat' split) <;> simp [ih]

@[simp] theorem releaseRings_kept (s : State) (t : Nat) : restOf (releaseRings s t) = restOf s ∧ memOf (releaseRings s t) = memOf s := by
  unfold releaseRings
  exact ⟨foldl_rest _ _ (fun s a => by simp) _, foldl_mem _ _ (fun s a => by simp) _⟩

@[simp] theorem execRingFetch_kept (ten : BitVec 8) (ring : BitVec 2) (s : State) : restOf (after s (execRingFetch ten ring s)) = restOf s ∧ memOf (after s (execRingFetch ten ring s)) = memOf s := by
  unfold execRingFetch
  simp only [after_next]
  refine ⟨?_, ?_⟩ <;> (repeat' split) <;> simp

@[simp] theorem answerFetch_kept (s : State) (i : Nat) (entries : List (Option Descriptor)) : restOf (answerFetch s i entries) = restOf s ∧ memOf (answerFetch s i entries) = memOf s := by
  unfold answerFetch
  (repeat' split) <;> simp

@[simp] theorem execFetchReturn_kept (id : Nat) (entries : List (Option Descriptor)) (s : State) : restOf (after s (execFetchReturn id entries s)) = restOf s ∧ memOf (after s (execFetchReturn id entries s)) = memOf s := by
  simp [execFetchReturn]

@[simp] theorem failProgram_kept (s : State) (i : Nat) : restOf (failProgram s i) = restOf s ∧ memOf (failProgram s i) = memOf s := by
  unfold failProgram
  (repeat' split) <;> simp

@[simp] theorem execFetchTimeout_kept (id : Nat) (s : State) : restOf (after s (execFetchTimeout id s)) = restOf s ∧ memOf (after s (execFetchTimeout id s)) = memOf s := by
  unfold execFetchTimeout
  simp only [after_next]
  refine ⟨?_, ?_⟩ <;> (repeat' split) <;> simp

@[simp] theorem tailDoorbell_kept (s : State) (t j : Nat) (value : Word64) : restOf (tailDoorbell s t j value) = restOf s ∧ memOf (tailDoorbell s t j value) = memOf s := by
  simp [tailDoorbell, apply_ite restOf, apply_ite memOf]

@[simp] theorem headDoorbell_kept (s : State) (t j id : Nat) (value : Word64) : restOf (headDoorbell s t j id value) = restOf s ∧ memOf (headDoorbell s t j id value) = memOf s := by
  simp [headDoorbell, apply_ite restOf, apply_ite memOf]

@[simp] theorem doorbell_kept (s : State) (t off size : Nat) (value : Word64) : restOf (doorbell s t off size value) = restOf s ∧ memOf (doorbell s t off size value) = memOf s := by
  unfold doorbell
  dsimp only
  (repeat' split) <;> simp

@[simp] theorem execDoorbellSubmission_kept (ten : BitVec 8) (off : BitVec 3) (size : Nat) (value : Word64) (s : State) : restOf (after s (execDoorbellSubmission ten off size value s)) = restOf s ∧ memOf (after s (execDoorbellSubmission ten off size value s)) = memOf s := by
  unfold execDoorbellSubmission
  simp only [after_next, viaHost_if]
  refine ⟨?_, ?_⟩ <;> (repeat' split) <;> simp

@[simp] theorem execDoorbellHead_kept (ten : BitVec 8) (off : BitVec 3) (size : Nat) (value : Word64) (s : State) : restOf (after s (execDoorbellHead ten off size value s)) = restOf s ∧ memOf (after s (execDoorbellHead ten off size value s)) = memOf s := by
  unfold execDoorbellHead
  simp only [after_next, viaHost_if]
  refine ⟨?_, ?_⟩ <;> (repeat' split) <;> simp

@[simp] theorem slotWrite_kept (s : State) (t off size : Nat) (data : Descriptor) : restOf (slotWrite s t off size data) = restOf s ∧ memOf (slotWrite s t off size data) = memOf s := by
  simp [slotWrite, apply_ite restOf, apply_ite memOf]

@[simp] theorem pageWrite_kept (s : State) (t off size : Nat) (data : Descriptor) : restOf (pageWrite s t off size data) = restOf s ∧ memOf (pageWrite s t off size data) = memOf s := by
  simp [pageWrite, apply_ite restOf, apply_ite memOf]

@[simp] theorem pageRead_kept (s : State) (t off size : Nat) : restOf (pageRead s t off size) = restOf s ∧ memOf (pageRead s t off size) = memOf s := by
  simp [pageRead, apply_ite restOf, apply_ite memOf]

@[simp] theorem execControlPageInvalidAccess_kept (ten : BitVec 8) (off : BitVec 16) (len : Nat) (write : Bool) (value : Word64) (s : State) : restOf (after s (execControlPageInvalidAccess ten off len write value s)) = restOf s ∧ memOf (after s (execControlPageInvalidAccess ten off len write value s)) = memOf s := by
  unfold execControlPageInvalidAccess
  simp only [after_next, viaHost_if]
  refine ⟨?_, ?_⟩ <;> (repeat' split) <;> simp

@[simp] theorem execDirectSlotWrite_kept (ten : BitVec 8) (off : BitVec 16) (size : Nat) (data : Descriptor) (s : State) : restOf (after s (execDirectSlotWrite ten off size data s)) = restOf s ∧ memOf (after s (execDirectSlotWrite ten off size data s)) = memOf s := by
  unfold execDirectSlotWrite
  simp only [after_next, viaHost_if]
  refine ⟨?_, ?_⟩ <;> (repeat' split) <;> simp

@[simp] theorem dropHostWrite_kept (s : State) (i : Nat) : restOf (dropHostWrite s i) = restOf s ∧ memOf (dropHostWrite s i) = memOf s := by
  simp [dropHostWrite]

@[simp] theorem loseEvent_kept (s : State) (w : HostWrite) : restOf (loseEvent s w) = restOf s ∧ memOf (loseEvent s w) = memOf s := by
  simp [loseEvent, apply_ite restOf, apply_ite memOf]

@[simp] theorem windowOver_kept (s : State) (e i : Nat) : restOf (windowOver s e i) = restOf s ∧ memOf (windowOver s e i) = memOf s := by
  unfold windowOver
  (repeat' split) <;> simp

@[simp] theorem observe_kept (s : State) (w : HostWrite) : restOf (observe s w) = restOf s ∧ memOf (observe s w) = memOf s := by
  unfold observe
  dsimp only
  (repeat' split) <;> simp

@[simp] theorem failWindow_kept (s : State) (e i : Nat) : restOf (failWindow s e i) = restOf s ∧ memOf (failWindow s e i) = memOf s := by
  unfold failWindow
  dsimp only
  (repeat' split) <;> simp

@[simp] theorem failWrite_kept (s : State) (w : HostWrite) : restOf (failWrite s w) = restOf s ∧ memOf (failWrite s w) = memOf s := by
  unfold failWrite
  (repeat' split) <;> simp

@[simp] theorem execRecordObservable_kept (id : Nat) (s : State) : restOf (after s (execRecordObservable id s)) = restOf s ∧ memOf (after s (execRecordObservable id s)) = memOf s := by
  unfold execRecordObservable
  simp only [after_next]
  refine ⟨?_, ?_⟩ <;> (repeat' split) <;> simp

@[simp] theorem execCacheWriteFail_kept (id : Nat) (s : State) : restOf (after s (execCacheWriteFail id s)) = restOf s ∧ memOf (after s (execCacheWriteFail id s)) = memOf s := by
  unfold execCacheWriteFail
  simp only [after_next]
  refine ⟨?_, ?_⟩ <;> (repeat' split) <;> simp

@[simp] theorem execStagedRecordDrain_kept (ten : BitVec 8) (s : State) : restOf (after s (execStagedRecordDrain ten s)) = restOf s ∧ memOf (after s (execStagedRecordDrain ten s)) = memOf s := by
  simp [execStagedRecordDrain]

@[simp] theorem execIrqHoldoffExpiry_kept (ten : BitVec 8) (vec : BitVec 3) (s : State) : restOf (after s (execIrqHoldoffExpiry ten vec s)) = restOf s ∧ memOf (after s (execIrqHoldoffExpiry ten vec s)) = memOf s := by
  unfold execIrqHoldoffExpiry
  simp only [after_next]
  refine ⟨?_, ?_⟩ <;> (repeat' split) <;> simp


@[simp] theorem startVec_kept (s : State) (b : BitVec 12) (w : Word64) (total : Nat) : restOf (startVec s b w total) = restOf s ∧ memOf (startVec s b w total) = memOf s := by
  simp [startVec, apply_ite restOf, apply_ite memOf]

theorem needStream_kept (s : State) (b : BitVec 12) (go : State) (h : restOf go = restOf s ∧ memOf go = memOf s) :
    restOf (needStream s b go) = restOf s ∧ memOf (needStream s b go) = memOf s := by
  unfold needStream
  split <;> simp [h]

@[simp] theorem execVdot_kept (b : BitVec 12) (s : State) : restOf (after s (execVdot b s)) = restOf s ∧ memOf (after s (execVdot b s)) = memOf s := by
  unfold execVdot
  simp only [after_next]
  refine issue_kept _ _ _ _ _ (fun p w => judge_kept _ _ _ _ _ _ (needStream_kept _ _ _ (by simp)))

@[simp] theorem execVaxpy_kept (b : BitVec 12) (s : State) : restOf (after s (execVaxpy b s)) = restOf s ∧ memOf (after s (execVaxpy b s)) = memOf s := by
  unfold execVaxpy
  simp only [after_next]
  refine issue_kept _ _ _ _ _ (fun p w => judge_kept _ _ _ _ _ _ (ite_kept _ _ _ (by simp) (needStream_kept _ _ _ (by simp))))

@[simp] theorem elementwise_kept (s : State) (b : BitVec 12) (op zin : Nat) (beats : Shape → Word64 → Nat) : restOf (elementwise s b op zin beats) = restOf s ∧ memOf (elementwise s b op zin beats) = memOf s := by
  unfold elementwise
  refine issue_kept _ _ _ _ _ (fun p w => ?_)
  dsimp only
  refine judge_kept _ _ _ _ _ _ ?_
  refine ⟨?_, ?_⟩ <;> (repeat' split) <;> simp

@[simp] theorem execVmul_kept (b : BitVec 12) (s : State) : restOf (after s (execVmul b s)) = restOf s ∧ memOf (after s (execVmul b s)) = memOf s := by
  simp [execVmul]

@[simp] theorem execVadd_kept (b : BitVec 12) (s : State) : restOf (after s (execVadd b s)) = restOf s ∧ memOf (after s (execVadd b s)) = memOf s := by
  simp [execVadd]

@[simp] theorem execVmax_kept (b : BitVec 12) (s : State) : restOf (after s (execVmax b s)) = restOf s ∧ memOf (after s (execVmax b s)) = memOf s := by
  simp [execVmax]

@[simp] theorem execVexp_kept (b : BitVec 12) (s : State) : restOf (after s (execVexp b s)) = restOf s ∧ memOf (after s (execVexp b s)) = memOf s := by
  simp [execVexp]

@[simp] theorem execVred_kept (b : BitVec 12) (s : State) : restOf (after s (execVred b s)) = restOf s ∧ memOf (after s (execVred b s)) = memOf s := by
  unfold execVred
  simp only [after_next]
  refine issue_kept _ _ _ _ _ (fun p w => ?_)
  refine judge_kept _ _ _ _ _ _ ?_
  refine ⟨?_, ?_⟩ <;> (repeat' split) <;> simp

@[simp] theorem execVcvt_kept (b : BitVec 12) (s : State) : restOf (after s (execVcvt b s)) = restOf s ∧ memOf (after s (execVcvt b s)) = memOf s := by
  unfold execVcvt
  simp only [after_next]
  refine issue_kept _ _ _ _ _ (fun p w => judge_kept _ _ _ _ _ _ (ite_kept _ _ _ (by simp)
    (ite_kept _ _ _ (needStream_kept _ _ _ (by simp)) (by simp))))

@[simp] theorem laneMove_kept (s : State) (b : BitVec 12) (op : Nat) : restOf (laneMove s b op) = restOf s ∧ memOf (laneMove s b op) = memOf s := by
  unfold laneMove
  refine issue_kept _ _ _ _ _ (fun p w => ?_)
  dsimp only
  refine judge_kept _ _ _ _ _ _ ?_
  refine ⟨?_, ?_⟩ <;> (repeat' split) <;> simp

@[simp] theorem execVld_kept (b : BitVec 12) (s : State) : restOf (after s (execVld b s)) = restOf s ∧ memOf (after s (execVld b s)) = memOf s := by
  simp [execVld]

@[simp] theorem execVst_kept (b : BitVec 12) (s : State) : restOf (after s (execVst b s)) = restOf s ∧ memOf (after s (execVst b s)) = memOf s := by
  simp [execVst]

@[simp] theorem execBwrite_kept (b : BitVec 12) (s : State) : restOf (after s (execBwrite b s)) = restOf s ∧ memOf (after s (execBwrite b s)) = memOf s := by
  unfold execBwrite
  simp only [after_next]
  refine issue_kept _ _ _ _ _ (fun p w => ?_)
  refine judge_kept _ _ _ _ _ _ ?_
  refine ⟨?_, ?_⟩ <;> (repeat' split) <;> simp

@[simp] theorem endBeat_kept (s : State) (b : BitVec 12) : restOf (endBeat s b) = restOf s ∧ memOf (endBeat s b) = memOf s := by
  simp [endBeat]

theorem closeBeat_kept (s : State) (b : BitVec 12) (r : Except (Status × Nat) State) (h : okKept s r) :
    restOf (closeBeat s b r) = restOf s ∧ memOf (closeBeat s b r) = memOf s := by
  unfold closeBeat
  split
  · simp
  · next s' => simp [h s' rfl]

theorem withHead_kept (s : State) (b : BitVec 12) (go : Stream → StreamCol → State)
    (h : ∀ t c, restOf (go t c) = restOf s ∧ memOf (go t c) = memOf s) :
    restOf (withHead s b go) = restOf s ∧ memOf (withHead s b go) = memOf s := by
  unfold withHead
  refine ⟨?_, ?_⟩ <;> (repeat' split) <;> simp [h]

@[simp] theorem dropHead_kept (s : State) (b : BitVec 12) : restOf (dropHead s b) = restOf s ∧ memOf (dropHead s b) = memOf s := by
  simp [dropHead]

@[simp] theorem putLane_kept (s : State) (b : BitVec 12) (g : Nat) (v : Word) (poison : Bool) : restOf (putLane s b g v poison) = restOf s ∧ memOf (putLane s b g v poison) = memOf s := by
  simp [putLane]

theorem takeInput_kept (s : State) (p : Proc) (poison : Bool) (info : Nat) (r : Except (Status × Nat) State) (h : okKept s r) :
    okKept s (takeInput p poison info r) := by
  unfold takeInput
  split
  · intro t ht; cases ht
  · exact h

theorem dotStep_kept (b : BitVec 12) (p : Proc) (lf : Nat) (es : List (Num × Bool)) (x g : Nat) (s : State) :
    okKept s (dotStep b p lf es x g s) := by
  unfold dotStep
  dsimp only
  refine takeInput_kept _ _ _ _ _ (takeInput_kept _ _ _ _ _ ?_)
  intro t ht
  cases ht
  simp

@[simp] theorem vdotBeat_kept (s : State) (b : BitVec 12) (p : Proc) (v : Vec) : restOf (vdotBeat s b p v) = restOf s ∧ memOf (vdotBeat s b p v) = memOf s := by
  unfold vdotBeat
  refine withHead_kept _ _ _ (fun t c => closeBeat_kept _ _ _ ?_)
  split
  · next t' ht =>
    have := okKept_foldl s _ _ (fun r a hr => by
      split
      · exact okKept_error _ _
      · next u => intro t2 h2; rw [(dotStep_kept _ _ _ _ _ _ _ t2 h2).1, (dotStep_kept _ _ _ _ _ _ _ t2 h2).2]; exact hr u rfl)
      _ (takeInput_kept _ _ _ _ _ (okKept_ok s s ⟨rfl, rfl⟩)) t' ht
    refine okKept_ok _ _ ?_
    split <;> simp [this]
  · exact okKept_error _ _

theorem axpyStep_kept (b : BitVec 12) (p : Proc) (lf : Nat) (es : List (Num × Bool)) (x g : Nat) (s : State) :
    okKept s (axpyStep b p lf es x g s) := by
  unfold axpyStep
  refine takeInput_kept _ _ _ _ _ (okKept_foldl _ _ _ ?_ _ (okKept_ok _ _ (by simp)))
  intro r a hr
  split
  · exact okKept_error _ _
  · next t =>
    dsimp only
    refine takeInput_kept _ _ _ _ _ (okKept_ok _ _ ?_)
    simpa using hr t rfl

@[simp] theorem vaxpyBeat_kept (s : State) (b : BitVec 12) (p : Proc) (v : Vec) : restOf (vaxpyBeat s b p v) = restOf s ∧ memOf (vaxpyBeat s b p v) = memOf s := by
  unfold vaxpyBeat
  refine withHead_kept _ _ _ (fun t c => closeBeat_kept _ _ _ ?_)
  split
  · next t' ht =>
    have := okKept_foldl s _ _ (fun r a hr => by
      split
      · exact okKept_error _ _
      · next u => intro t2 h2; rw [(axpyStep_kept _ _ _ _ _ _ _ t2 h2).1, (axpyStep_kept _ _ _ _ _ _ _ t2 h2).2]; exact hr u rfl)
      _ (takeInput_kept _ _ _ _ _ (okKept_ok s s ⟨rfl, rfl⟩)) t' ht
    refine okKept_ok _ _ ?_
    split <;> simp [this]
  · exact okKept_error _ _

@[simp] theorem settleRaw_kept (s : State) (raw : Nat) (poison : Bool) : restOf (settleRaw s raw poison).2 = restOf s ∧ memOf (settleRaw s raw poison).2 = memOf s := by
  unfold settleRaw
  dsimp only
  (repeat' split) <;> simp

@[simp] theorem cellsOf_kept (s : State) (outs : List (Nat × Nat × Nat × Bool)) :
    restOf (cellsOf s outs).2 = restOf s ∧ memOf (cellsOf s outs).2 = memOf s := by
  induction outs generalizing s with
  | nil => simp [cellsOf]
  | cons a t ih => simp [cellsOf, ih]

@[simp] theorem storeOuts_kept (s : State) (b : BitVec 12) (outs : List (Nat × Nat × Nat × Bool)) : restOf (storeOuts s b outs) = restOf s ∧ memOf (storeOuts s b outs) = memOf s := by
  simp [storeOuts]

theorem takeAll_kept (s : State) (p : Proc) (l : List (Nat × Bool)) (r : Except (Status × Nat) State) (h : okKept s r) :
    okKept s (takeAll p l r) := by
  unfold takeAll
  split
  · exact takeInput_kept _ _ _ _ _ h
  · exact h

@[simp] theorem elemBeat_kept (s : State) (b : BitVec 12) (p : Proc) (v : Vec) : restOf (elemBeat s b p v) = restOf s ∧ memOf (elemBeat s b p v) = memOf s := by
  unfold elemBeat
  exact closeBeat_kept _ _ _ (takeAll_kept _ _ _ _ (okKept_ok _ _ (by simp)))

@[simp] theorem reduceAll_kept (s : State) (op : Bool) (a : Nat) (ls : List (List (Word × Bool))) :
    restOf (reduceAll s op a ls).2 = restOf s ∧ memOf (reduceAll s op a ls).2 = memOf s := by
  induction ls generalizing s a with
  | nil => simp [reduceAll]
  | cons l t ih => simp [reduceAll, ih]

@[simp] theorem vredBeat_kept (s : State) (b : BitVec 12) (p : Proc) (v : Vec) : restOf (vredBeat s b p v) = restOf s ∧ memOf (vredBeat s b p v) = memOf s := by
  unfold vredBeat
  refine closeBeat_kept _ _ _ (takeAll_kept _ _ _ _ (okKept_ok _ _ ?_))
  refine ⟨?_, ?_⟩ <;> split <;> simp

@[simp] theorem vcvtBeat_kept (s : State) (b : BitVec 12) (p : Proc) (v : Vec) : restOf (vcvtBeat s b p v) = restOf s ∧ memOf (vcvtBeat s b p v) = memOf s := by
  unfold vcvtBeat
  exact closeBeat_kept _ _ _ (takeAll_kept _ _ _ _ (okKept_ok _ _ (by simp)))

@[simp] theorem vcvtStreamBeat_kept (s : State) (b : BitVec 12) (p : Proc) (v : Vec) : restOf (vcvtStreamBeat s b p v) = restOf s ∧ memOf (vcvtStreamBeat s b p v) = memOf s := by
  unfold vcvtStreamBeat
  exact withHead_kept _ _ _ (fun t c => closeBeat_kept _ _ _ (takeInput_kept _ _ _ _ _ (okKept_ok _ _ (by simp))))

@[simp] theorem vldBeat_kept (s : State) (b : BitVec 12) (p : Proc) (v : Vec) : restOf (vldBeat s b p v) = restOf s ∧ memOf (vldBeat s b p v) = memOf s := by
  unfold vldBeat
  dsimp only
  have hf : ∀ (l : List ((Nat × Nat))) (f : Nat × Nat → Word) (g : Nat × Nat → Bool),
      restOf (l.foldl (fun s i => putLane s b i.2 (f i) (g i)) s) = restOf s ∧
      memOf (l.foldl (fun s i => putLane s b i.2 (f i) (g i)) s) = memOf s := fun l f g =>
    ⟨foldl_rest _ _ (fun s a => by simp) _, foldl_mem _ _ (fun s a => by simp) _⟩
  split
  · exact closeBeat_kept _ _ _ (okKept_ok _ _ (hf _ (fun _ => 0) (fun _ => false)))
  · exact closeBeat_kept _ _ _ (takeAll_kept _ _ _ _ (okKept_ok _ _ (hf _ (fun i => _) (fun i => _))))

@[simp] theorem vstBeat_kept (s : State) (b : BitVec 12) (p : Proc) (v : Vec) : restOf (vstBeat s b p v) = restOf s ∧ memOf (vstBeat s b p v) = memOf s := by
  unfold vstBeat
  dsimp only
  refine closeBeat_kept _ _ _ (takeAll_kept _ _ _ _ (okKept_ok _ _ ?_))
  split
  · exact ⟨(foldl_rest _ _ (fun s a => by simp) _).trans (by simp), (foldl_mem _ _ (fun s a => by simp) _).trans (by simp)⟩
  · simp

@[simp] theorem sendBeat_kept (s : State) (b : BitVec 12) (p : Proc) (v : Vec) : restOf (sendBeat s b p v) = restOf s ∧ memOf (sendBeat s b p v) = memOf s := by
  unfold sendBeat
  dsimp only
  refine closeBeat_kept _ _ _ (takeAll_kept _ _ _ _ (okKept_ok _ _ ?_))
  split <;> simp

@[simp] theorem bwriteBeat_kept (s : State) (b : BitVec 12) (p : Proc) (v : Vec) : restOf (bwriteBeat s b p v) = restOf s ∧ memOf (bwriteBeat s b p v) = memOf s := by
  unfold bwriteBeat
  dsimp only
  (repeat' split) <;> simp

@[simp] theorem execVectorBeat_kept (b : BitVec 12) (s : State) : restOf (after s (execVectorBeat b s)) = restOf s ∧ memOf (after s (execVectorBeat b s)) = memOf s := by
  unfold execVectorBeat
  simp only [after_next]
  refine ⟨?_, ?_⟩ <;> (repeat' split) <;> simp

end Sys2Proof.Machine
end

