-- ==== Sys2Proof/Laws/KeptPress.lean ====
section
/-! SUPPORT. One lemma f_kept for each function f on states: what f leaves alone, for bank and decant work and the presses. -/

open Sys2Proof

namespace Sys2Proof.Machine

@[simp] theorem chargeHost_kept (s : State) (ma n : Nat) (write : Bool) : restOf (chargeHost s ma n write) = restOf s ∧ memOf (chargeHost s ma n write) = memOf s := by
  unfold chargeHost
  (repeat' split) <;> simp

@[simp] theorem hostSlots_kept (s : State) (ma slots : Nat) : restOf (hostSlots s ma slots) = restOf s ∧ memOf (hostSlots s ma slots) = memOf s := by
  simp [hostSlots]

@[simp] theorem takeSlots_kept (s : State) (write : Bool) (ten : Nat) (cols : List (Nat × Nat)) :
    restOf (takeSlots s write ten cols) = restOf s ∧ memOf (takeSlots s write ten cols) = memOf s := by
  unfold takeSlots
  exact foldl_kept _ _ (fun s a => by simp) _ _ ⟨rfl, rfl⟩

@[simp] theorem engineSlots_kept (s : State) (write : Bool) (ten : Nat) (ls : List Loc) : restOf (engineSlots s write ten ls) = restOf s ∧ memOf (engineSlots s write ten ls) = memOf s := by
  simp [engineSlots]

@[simp] theorem stridedSlots_kept (s : State) (ten : Nat) (ls : List (List Loc)) : restOf (stridedSlots s ten ls) = restOf s ∧ memOf (stridedSlots s ten ls) = memOf s := by
  simp [stridedSlots]

@[simp] theorem violateNone_kept (s : State) (num size : Nat) (value : Nat) : restOf (violateNone s num size value) = restOf s ∧ memOf (violateNone s num size value) = memOf s := by
  simp [violateNone]

@[simp] theorem violateEarly_kept (s : State) (size value : Nat) : restOf (violateEarly s size value) = restOf s ∧ memOf (violateEarly s size value) = memOf s := by
  simp [violateEarly, apply_ite restOf, apply_ite memOf]

@[simp] theorem lineWord_kept (s : State) (pair : Option WPair) (w k : Nat) : restOf (lineWord s pair w k).2 = restOf s ∧ memOf (lineWord s pair w k).2 = memOf s := by
  unfold lineWord
  dsimp only
  (repeat' split) <;> simp

@[simp] theorem lineWords_kept (s : State) (pair : Option WPair) (w : Nat) (ks : List Nat) :
    restOf (lineWords s pair w ks).2 = restOf s ∧ memOf (lineWords s pair w ks).2 = memOf s := by
  induction ks generalizing s with
  | nil => simp [lineWords]
  | cons k t ih => simp [lineWords, ih]

@[simp] theorem closeRead_kept (s : State) (b o : Nat) : restOf (closeRead s b o) = restOf s := by
  unfold closeRead
  (repeat' split) <;> simp

@[simp] theorem hostReadData_kept (s : State) (ma len : Nat) : restOf (hostReadData s ma len) = restOf s := by
  simp [hostReadData, apply_ite restOf]

@[simp] theorem execHostRead_kept (ma : BitVec 40) (len : Nat) (s : State) : restOf (after s (execHostRead ma len s)) = restOf s := by
  unfold execHostRead
  simp only [after_next, viaHost_if]
  (repeat' split) <;> simp

@[simp] theorem hostWriteData_kept (s : State) (ma : Nat) (en : BitVec 64) (data : BitVec 512) (poison : Bool) : restOf (hostWriteData s ma en data poison) = restOf s := by
  unfold hostWriteData
  dsimp only
  (repeat' split) <;> simp

@[simp] theorem windowWrite_kept (s : State) (a : Nat) (en : BitVec 64) (data : BitVec 512) : restOf (windowWrite s a en data) = restOf s ∧ memOf (windowWrite s a en data) = memOf s := by
  simp [windowWrite, apply_ite restOf, apply_ite memOf]

@[simp] theorem execHostWrite_kept (line : BitVec 34) (enable : BitVec 64) (data : BitVec 512) (poison : Bool) (s : State) : restOf (after s (execHostWrite line enable data poison s)) = restOf s := by
  unfold execHostWrite
  simp only [after_next, viaHost_if]
  (repeat' split) <;> simp

@[simp] theorem openRow_kept (s : State) (b row : Nat) : restOf (openRow s b row).2 = restOf s ∧ memOf (openRow s b row).2 = memOf s := by
  unfold openRow
  dsimp only
  (repeat' split) <;> simp

@[simp] theorem chargeUnit_kept (s : State) (b n : Nat) (changed : Bool) : restOf (chargeUnit s b n changed) = restOf s ∧ memOf (chargeUnit s b n changed) = memOf s := by
  unfold chargeUnit
  (repeat' split) <;> simp

@[simp] theorem refresh_kept (s : State) (b : Nat) : restOf (refresh s b) = restOf s ∧ memOf (refresh s b) = memOf s := by
  simp [refresh]

@[simp] theorem hostSlot_kept (s : State) (b : Nat) (h : SlotUse) (rest : List SlotUse) : restOf (hostSlot s b h rest) = restOf s ∧ memOf (hostSlot s b h rest) = memOf s := by
  unfold hostSlot
  dsimp only
  (repeat' split) <;> simp

@[simp] theorem writeSlot_kept (s : State) (b : Nat) (p : WPair) (rest : List WPair) : restOf (writeSlot s b p rest) = restOf s := by
  simp [writeSlot, apply_ite restOf]

@[simp] theorem readColumn_kept (s : State) (b o : Nat) : restOf (readColumn s b o).2 = restOf s ∧ memOf (readColumn s b o).2 = memOf s := by
  simp [readColumn]

@[simp] theorem prefetchCol_kept (s : State) (b : Nat) (t : Stream) (off : Int) : restOf (prefetchCol s b t off).2 = restOf s ∧ memOf (prefetchCol s b t off).2 = memOf s := by
  unfold prefetchCol
  dsimp only
  (repeat' split) <;> simp

@[simp] theorem prefetch_kept (fuel : Nat) (s : State) (b : Nat) :
    restOf (prefetch fuel s b).2 = restOf s ∧ memOf (prefetch fuel s b).2 = memOf s := by
  induction fuel generalizing s with
  | zero => simp [prefetch]
  | succ n ih =>
    simp only [prefetch]
    split
    · simp
    · next t ht =>
      split
      · simp
      · split
        · next s' h =>
          have h1 := congrArg (fun p => restOf p.2) h
          have h2 := congrArg (fun p => memOf p.2) h
          simp only [prefetchCol_kept] at h1 h2
          simp [h1, h2]
        · next c slot s' h =>
          have h1 := congrArg (fun p => restOf p.2) h
          have h2 := congrArg (fun p => memOf p.2) h
          simp only [prefetchCol_kept] at h1 h2
          refine ⟨?_, ?_⟩ <;> split <;> simp [ih, h1, h2]

@[simp] theorem drainSlot_kept (s : State) (b : Nat) : restOf (drainSlot s b) = restOf s := by
  unfold drainSlot
  split <;> simp

@[simp] theorem grantSlot_kept (s : State) (b : Nat) : restOf (grantSlot s b) = restOf s := by
  unfold grantSlot
  dsimp only
  (repeat' split) <;> simp

@[simp] theorem bankSlot_kept (b : BitVec 12) (s : State) : restOf (bankSlot b s) = restOf s := by
  simp [bankSlot]

@[simp] theorem execRefreshOwed_kept (b : BitVec 12) (s : State) : restOf (after s (execRefreshOwed b s)) = restOf s ∧ memOf (after s (execRefreshOwed b s)) = memOf s := by
  unfold execRefreshOwed
  simp only [after_next]
  split <;> simp

@[simp] theorem missFault_kept (s : State) (b : BitVec 12) (pg : Nat) : restOf (missFault s b pg) = restOf s ∧ memOf (missFault s b pg) = memOf s := by
  unfold missFault
  dsimp only
  (repeat' split) <;> simp

@[simp] theorem execTranslationFill_kept (b : BitVec 12) (s : State) : restOf (after s (execTranslationFill b s)) = restOf s ∧ memOf (after s (execTranslationFill b s)) = memOf s := by
  unfold execTranslationFill
  simp only [after_next]
  refine ⟨?_, ?_⟩ <;> (repeat' split) <;> simp

@[simp] theorem putBack_kept (s : State) (saved : SMap (Option (Word × Byte))) : restOf (putBack s saved) = restOf s := by
  unfold putBack
  exact foldl_rest _ _ (fun s a => by split <;> simp) _

@[simp] theorem copyStep_kept (s : State) (e : BitVec 2) (a : Active) (saved : SMap (Option (Word × Byte))) (k : Nat) : restOf (copyStep s e a saved k).2 = restOf s := by
  unfold copyStep
  dsimp only
  (repeat' split) <;> simp

@[simp] theorem endCopy_kept (s : State) (e : BitVec 2) (j : CopyJob) (a : Active) (r : CopyErr) : restOf (endCopy s e j a r) = restOf s ∧ memOf (endCopy s e j a r) = memOf s := by
  simp [endCopy]

@[simp] theorem advanceCopy_kept (s : State) (e : BitVec 2) : restOf (advanceCopy s e) = restOf s := by
  unfold advanceCopy
  split
  · rfl
  · next j a _ =>
    split
    · rfl
    · have h := copyStep_kept s e a j.saved j.next
      split
      · next n saved t ht => rw [ht] at h; simpa using h
      · next r t ht => rw [ht] at h; simpa using h

@[simp] theorem idleSteps_kept (n : Nat) (s : State) (e : BitVec 2) : restOf (idleSteps n s e) = restOf s := by
  induction n generalizing s with
  | zero => simp [idleSteps]
  | succ k ih => simp only [idleSteps]; split <;> simp [ih]

@[simp] theorem startCopy_kept (s : State) (e : BitVec 2) (a : Active) : restOf (startCopy s e a) = restOf s ∧ memOf (startCopy s e a) = memOf s := by
  simp [startCopy, apply_ite restOf, apply_ite memOf]

@[simp] theorem finishCopy_kept (s : State) (e : BitVec 2) : restOf (finishCopy s e) = restOf s ∧ memOf (finishCopy s e) = memOf s := by
  unfold finishCopy
  dsimp only
  (repeat' split) <;> simp

@[simp] theorem completeCopy_kept (s : State) (e : BitVec 2) : restOf (completeCopy s e) = restOf s := by
  unfold completeCopy
  dsimp only
  (repeat' split) <;> simp

@[simp] theorem abortCopy_kept (s : State) (e : BitVec 2) (st : Status) : restOf (abortCopy s e st) = restOf s ∧ memOf (abortCopy s e st) = memOf s := by
  unfold abortCopy
  (repeat' split) <;> simp

@[simp] theorem scrubWord_kept (s : State) (rd : Reader) (j : ScrubJob) (w col bi : Nat) :
    restOf (scrubWord s rd j w col bi).2.2 = restOf s := by
  unfold scrubWord
  generalize classify _ _ = c
  cases c <;> simp

@[simp] theorem scrubWords_kept (s : State) (rd : Reader) (j : ScrubJob) (w col bi n : Nat) :
    restOf (scrubWords s rd j w col bi n).2.2 = restOf s := by
  induction n generalizing s j w with
  | zero => simp [scrubWords]
  | succ k ih => simp [scrubWords, ih]

theorem scrubColumn_kept (s : State) (a : Active) (j : ScrubJob) (r : ScrubJob × State) (h : scrubColumn s a j = some r) :
    restOf r.2 = restOf s := by
  unfold scrubColumn at h
  dsimp only at h
  split at h
  · cases h
  · cases h; simp
  · split at h <;> cases h <;> simp

@[simp] theorem advanceScrub_kept (n : Nat) (s : State) : restOf (advanceScrub n s) = restOf s := by
  induction n generalizing s with
  | zero => simp [advanceScrub]
  | succ k ih =>
    simp only [advanceScrub]
    split
    · simp
    · split
      · simp
      · split
        · simp
        · split
          · simp
          · next h => simp [ih, scrubColumn_kept _ _ _ _ h]

@[simp] theorem startScrub_kept (s : State) (a : Active) : restOf (startScrub s a) = restOf s ∧ memOf (startScrub s a) = memOf s := by
  simp [startScrub, apply_ite restOf, apply_ite memOf]

@[simp] theorem completeScrub_kept (s : State) : restOf (completeScrub s) = restOf s := by
  unfold completeScrub
  dsimp only
  (repeat' split) <;> simp

@[simp] theorem abortScrub_kept (s : State) (st : Status) : restOf (abortScrub s st) = restOf s := by
  unfold abortScrub
  dsimp only
  (repeat' split) <;> simp

@[simp] theorem execColumnSlot_kept (b : BitVec 12) (s : State) : restOf (after s (execColumnSlot b s)) = restOf s := by
  unfold execColumnSlot
  simp only [after_next, viaHost_if]
  (repeat' split) <;> simp


@[simp] theorem popQueue_kept (s : State) (x : Executor) : restOf (popQueue s x) = restOf s ∧ memOf (popQueue s x) = memOf s := by
  simp [popQueue]

@[simp] theorem startTask_kept (s : State) (x : CoreId) (a : Active) : restOf (startTask s x a) = restOf s ∧ memOf (startTask s x a) = memOf s := by
  unfold startTask
  dsimp only
  (repeat' split) <;> simp

@[simp] theorem askStart_kept (s : State) (b : BitVec 12) : restOf (askStart s b) = restOf s ∧ memOf (askStart s b) = memOf s := by
  unfold askStart
  dsimp only
  (repeat' split) <;> simp

@[simp] theorem admitStart_kept (s : State) (b : BitVec 12) : restOf (admitStart s b) = restOf s ∧ memOf (admitStart s b) = memOf s := by
  unfold admitStart
  (repeat' split) <;> simp

@[simp] theorem pressStart_kept (s : State) (e : BitVec 4) : restOf (pressStart s e) = restOf s ∧ memOf (pressStart s e) = memOf s := by
  unfold pressStart
  (repeat' split) <;> simp

@[simp] theorem execPressTaskStart_kept (e : BitVec 4) (s : State) : restOf (after s (execPressTaskStart e s)) = restOf s ∧ memOf (after s (execPressTaskStart e s)) = memOf s := by
  simp [execPressTaskStart]

@[simp] theorem loadApply_kept (s : State) (x : CoreId) : restOf (loadApply s x) = restOf s ∧ memOf (loadApply s x) = memOf s := by
  unfold loadApply
  dsimp only
  (repeat' split) <;> simp

@[simp] theorem execLoadApply_kept (x : CoreId) (s : State) : restOf (after s (execLoadApply x s)) = restOf s ∧ memOf (after s (execLoadApply x s)) = memOf s := by
  simp [execLoadApply]

@[simp] theorem loadComplete_kept (s : State) (x : CoreId) : restOf (loadComplete s x) = restOf s ∧ memOf (loadComplete s x) = memOf s := by
  unfold loadComplete
  dsimp only
  (repeat' split) <;> simp

@[simp] theorem execLoadComplete_kept (x : CoreId) (s : State) : restOf (after s (execLoadComplete x s)) = restOf s ∧ memOf (after s (execLoadComplete x s)) = memOf s := by
  simp [execLoadComplete]

@[simp] theorem cutLoad_kept (s : State) (x : CoreId) (st : Status) : restOf (cutLoad s x st) = restOf s ∧ memOf (cutLoad s x st) = memOf s := by
  unfold cutLoad
  dsimp only
  (repeat' split) <;> simp

@[simp] theorem endCycleOver_kept (s : State) (x : CoreId) : restOf (endCycleOver s x) = restOf s ∧ memOf (endCycleOver s x) = memOf s := by
  unfold endCycleOver
  (repeat' split) <;> simp

@[simp] theorem reportUnit_kept (s : State) (b : BitVec 12) : restOf (reportUnit s b) = restOf s ∧ memOf (reportUnit s b) = memOf s := by
  unfold reportUnit
  dsimp only
  (repeat' split) <;> simp

@[simp] theorem chargePress_kept (s : State) (e : Nat) (t : Task) : restOf (chargePress s e t) = restOf s ∧ memOf (chargePress s e t) = memOf s := by
  simp [chargePress, apply_ite restOf, apply_ite memOf]

@[simp] theorem settleRuns_kept (s : State) : restOf (settleRuns s) = restOf s ∧ memOf (settleRuns s) = memOf s := by
  unfold settleRuns
  exact foldl_kept _ _ (fun s a => by simp) _ _ ⟨rfl, rfl⟩

@[simp] theorem settlePresses_kept (s : State) : restOf (settlePresses s) = restOf s ∧ memOf (settlePresses s) = memOf s := by
  unfold settlePresses
  exact foldl_kept _ _ (fun s a => by split <;> simp) _ _ ⟨rfl, rfl⟩

@[simp] theorem reportPress_kept (s : State) (e : BitVec 4) : restOf (reportPress s e) = restOf s ∧ memOf (reportPress s e) = memOf s := by
  unfold reportPress
  dsimp only
  (repeat' split) <;> simp

@[simp] theorem faultPast_kept (s : State) (due : Nat) (x : CoreId) (st : Status) (reason info chan : Nat) : restOf (faultPast s due x st reason info chan) = restOf s ∧ memOf (faultPast s due x st reason info chan) = memOf s := by
  unfold faultPast
  dsimp only
  (repeat' split) <;> simp

@[simp] theorem execTaskLimitExpiry_kept (x : CoreId) (s : State) : restOf (after s (execTaskLimitExpiry x s)) = restOf s ∧ memOf (after s (execTaskLimitExpiry x s)) = memOf s := by
  unfold execTaskLimitExpiry
  simp only [after_next]
  refine ⟨?_, ?_⟩ <;> (repeat' split) <;> simp

@[simp] theorem freshWindow_kept (s : State) : restOf (freshWindow s) = restOf s ∧ memOf (freshWindow s) = memOf s := by
  simp [freshWindow, apply_ite restOf, apply_ite memOf]

@[simp] theorem execBallastWindow_kept (s : State) : restOf (after s (execBallastWindow s)) = restOf s ∧ memOf (after s (execBallastWindow s)) = memOf s := by
  simp [execBallastWindow]

@[simp] theorem takeCredit_kept (s : State) (k : Nat) : restOf (takeCredit s k) = restOf s ∧ memOf (takeCredit s k) = memOf s := by
  simp [takeCredit]

@[simp] theorem countWake_kept (s : State) (b : Nat) : restOf (countWake s b) = restOf s ∧ memOf (countWake s b) = memOf s := by
  unfold countWake
  (repeat' split) <;> simp

@[simp] theorem resumeUnit_kept (s : State) (b : Nat) : restOf (resumeUnit s b) = restOf s ∧ memOf (resumeUnit s b) = memOf s := by
  simp [resumeUnit, apply_ite restOf, apply_ite memOf]

@[simp] theorem sendPoll_kept (s : State) (x : CoreId) : restOf (sendPoll s x) = restOf s ∧ memOf (sendPoll s x) = memOf s := by
  unfold sendPoll
  (repeat' split) <;> simp

@[simp] theorem admitOne_kept (s : State) (a : Admit) : restOf (admitOne s a) = restOf s ∧ memOf (admitOne s a) = memOf s := by
  unfold admitOne
  (repeat' split) <;> simp

@[simp] theorem grantCycle_kept (s : State) : restOf (grantCycle s) = restOf s ∧ memOf (grantCycle s) = memOf s := by
  simp [grantCycle, apply_ite restOf, apply_ite memOf]

@[simp] theorem grantHead_kept (s : State) (k : Nat) : restOf (grantHead s k) = restOf s ∧ memOf (grantHead s k) = memOf s := by
  unfold grantHead
  dsimp only
  (repeat' split) <;> simp

@[simp] theorem clearCredit_kept (s : State) (b : Nat) : restOf (clearCredit s b) = restOf s ∧ memOf (clearCredit s b) = memOf s := by
  simp [clearCredit, apply_ite restOf, apply_ite memOf]

@[simp] theorem execBallastGrant_kept (stack : BitVec 3) (s : State) : restOf (after s (execBallastGrant stack s)) = restOf s ∧ memOf (after s (execBallastGrant stack s)) = memOf s := by
  simp [execBallastGrant]

@[simp] theorem execUnitWakeDone_kept (b : BitVec 12) (s : State) : restOf (after s (execUnitWakeDone b s)) = restOf s ∧ memOf (after s (execUnitWakeDone b s)) = memOf s := by
  unfold execUnitWakeDone
  simp only [after_next]
  refine ⟨?_, ?_⟩ <;> (repeat' split) <;> simp

@[simp] theorem execIdleGateExpiry_kept (b : BitVec 12) (s : State) : restOf (after s (execIdleGateExpiry b s)) = restOf s ∧ memOf (after s (execIdleGateExpiry b s)) = memOf s := by
  unfold execIdleGateExpiry
  simp only [after_next]
  refine ⟨?_, ?_⟩ <;> (repeat' split) <;> simp

@[simp] theorem execRunPeriodTick_kept (s : State) : restOf (after s (execRunPeriodTick s)) = restOf s ∧ memOf (after s (execRunPeriodTick s)) = memOf s := by
  simp [execRunPeriodTick]

@[simp] theorem pressWork_kept (s : State) (e : BitVec 4) (p : Proc) (reads : List (Nat × Bool)) (outs : List (Nat × Nat × Nat × Bool)) : restOf (pressWork s e p reads outs) = restOf s ∧ memOf (pressWork s e p reads outs) = memOf s := by
  unfold pressWork
  dsimp only
  (repeat' split) <;> simp

@[simp] theorem execPew_kept (e : BitVec 4) (s : State) : restOf (after s (execPew e s)) = restOf s ∧ memOf (after s (execPew e s)) = memOf s := by
  unfold execPew
  simp only [after_next]
  refine issue_kept _ _ _ _ _ (fun p w => ?_)
  refine judge_kept _ _ _ _ _ _ ?_
  refine ⟨?_, ?_⟩ <;> (repeat' split) <;> simp

@[simp] theorem execPred_kept (e : BitVec 4) (s : State) : restOf (after s (execPred e s)) = restOf s ∧ memOf (after s (execPred e s)) = memOf s := by
  unfold execPred
  simp only [after_next]
  refine issue_kept _ _ _ _ _ (fun p w => ?_)
  refine judge_kept _ _ _ _ _ _ ?_
  refine ⟨?_, ?_⟩ <;> (repeat' split) <;> simp

@[simp] theorem execPnorm_kept (e : BitVec 4) (s : State) : restOf (after s (execPnorm e s)) = restOf s ∧ memOf (after s (execPnorm e s)) = memOf s := by
  unfold execPnorm
  simp only [after_next]
  refine issue_kept _ _ _ _ _ (fun p w => ?_)
  refine judge_kept _ _ _ _ _ _ ?_
  refine ⟨?_, ?_⟩ <;> (repeat' split) <;> simp

@[simp] theorem execPact_kept (e : BitVec 4) (s : State) : restOf (after s (execPact e s)) = restOf s ∧ memOf (after s (execPact e s)) = memOf s := by
  unfold execPact
  simp only [after_next]
  refine issue_kept _ _ _ _ _ (fun p w => ?_)
  refine judge_kept _ _ _ _ _ _ ?_
  refine ⟨?_, ?_⟩ <;> (repeat' split) <;> simp

@[simp] theorem execPrope_kept (e : BitVec 4) (s : State) : restOf (after s (execPrope e s)) = restOf s ∧ memOf (after s (execPrope e s)) = memOf s := by
  unfold execPrope
  simp only [after_next]
  refine issue_kept _ _ _ _ _ (fun p w => ?_)
  refine judge_kept _ _ _ _ _ _ ?_
  refine ⟨?_, ?_⟩ <;> (repeat' split) <;> simp

@[simp] theorem execPmerge_kept (e : BitVec 4) (s : State) : restOf (after s (execPmerge e s)) = restOf s ∧ memOf (after s (execPmerge e s)) = memOf s := by
  unfold execPmerge
  simp only [after_next]
  refine issue_kept _ _ _ _ _ (fun p w => ?_)
  refine judge_kept _ _ _ _ _ _ ?_
  refine ⟨?_, ?_⟩ <;> (repeat' split) <;> simp

@[simp] theorem execPtopk_kept (e : BitVec 4) (s : State) : restOf (after s (execPtopk e s)) = restOf s ∧ memOf (after s (execPtopk e s)) = memOf s := by
  unfold execPtopk
  simp only [after_next]
  refine issue_kept _ _ _ _ _ (fun p w => ?_)
  refine judge_kept _ _ _ _ _ _ ?_
  refine ⟨?_, ?_⟩ <;> (repeat' split) <;> simp

@[simp] theorem execPquant_kept (e : BitVec 4) (s : State) : restOf (after s (execPquant e s)) = restOf s ∧ memOf (after s (execPquant e s)) = memOf s := by
  unfold execPquant
  simp only [after_next]
  refine issue_kept _ _ _ _ _ (fun p w => ?_)
  refine judge_kept _ _ _ _ _ _ ?_
  refine ⟨?_, ?_⟩ <;> (repeat' split) <;> simp

@[simp] theorem execPcvt_kept (e : BitVec 4) (s : State) : restOf (after s (execPcvt e s)) = restOf s ∧ memOf (after s (execPcvt e s)) = memOf s := by
  unfold execPcvt
  simp only [after_next]
  refine issue_kept _ _ _ _ _ (fun p w => ?_)
  refine judge_kept _ _ _ _ _ _ ?_
  refine ⟨?_, ?_⟩ <;> (repeat' split) <;> simp

@[simp] theorem hostBytes_kept (s : State) (n : Nat) : restOf (hostBytes s n).2 = restOf s ∧ memOf (hostBytes s n).2 = memOf s := by
  simp [hostBytes]

@[simp] theorem pget_kept (s : State) (e : BitVec 4) (p : Proc) (win : Window) (o bi a n : Nat) : restOf (pget s e p win o bi a n) = restOf s := by
  unfold pget
  dsimp only
  split
  · simp
  · split <;> next h =>
      have h1 := congrArg (fun p => restOf p.2) h
      simp only [regionRead_kept] at h1
      first
        | (split <;> simp [h1]; done)
        | simp [h1]

@[simp] theorem pputBank_kept (s : State) (e : BitVec 4) (win : Window) (o : Nat) (bs : List (Byte × Bool)) (bi : Nat) : restOf (pputBank s e win o bs bi) = restOf s := by
  simp [pputBank]

@[simp] theorem pput_kept (s : State) (e : BitVec 4) (p : Proc) (win : Window) (o a n : Nat) (banks : List Nat) : restOf (pput s e p win o a n banks) = restOf s := by
  unfold pput
  dsimp only
  split
  · simp
  · split
    · simp
    · split
      · simp
      · simp only [stepOn_kept, meter_kept]
        exact foldl_rest _ _ (fun s a => by simp) _

@[simp] theorem windowOp_kept (s : State) (e : BitVec 4) (op : Nat) (put : Bool) : restOf (windowOp s e op put) = restOf s := by
  unfold windowOp
  refine issue_rest _ _ _ _ _ (fun p w => ?_)
  dsimp only
  split
  · rfl
  · refine judge_rest _ _ _ _ _ _ ?_
    (repeat' split) <;> simp

@[simp] theorem execPget_kept (e : BitVec 4) (s : State) : restOf (after s (execPget e s)) = restOf s := by
  simp [execPget]

@[simp] theorem execPput_kept (e : BitVec 4) (s : State) : restOf (after s (execPput e s)) = restOf s := by
  simp [execPput]

@[simp] theorem settleSrc_kept (s : State) (src : Nat) : restOf (settleSrc s src) = restOf s ∧ memOf (settleSrc s src) = memOf s := by
  unfold settleSrc
  split <;> simp

@[simp] theorem logDrop_kept (s : State) (e src : Nat) (tag : Option (BitVec 16)) (ten : Option Nat) : restOf (logDrop s e src tag ten) = restOf s ∧ memOf (logDrop s e src tag ten) = memOf s := by
  simp [logDrop]

@[simp] theorem setChan_kept (s : State) (e c : Nat) (k : Chan) : restOf (setChan s e c k) = restOf s ∧ memOf (setChan s e c k) = memOf s := by
  simp [setChan]

@[simp] theorem dropLanding_kept (s : State) (e : Nat) (hit : Nat → Bool) : restOf (dropLanding s e hit) = restOf s ∧ memOf (dropLanding s e hit) = memOf s := by
  unfold dropLanding
  exact foldl_kept _ _ (fun s a => by (repeat' split) <;> simp) _ _ ⟨rfl, rfl⟩

@[simp] theorem execPchan_kept (e : BitVec 4) (s : State) : restOf (after s (execPchan e s)) = restOf s ∧ memOf (after s (execPchan e s)) = memOf s := by
  unfold execPchan
  simp only [after_next]
  refine issue_kept _ _ _ _ _ (fun p w => judge_kept _ _ _ _ _ _ ?_)
  simp only [stepOn_kept, setChan_kept, dropLanding_kept]
  exact foldl_kept _ _ (fun s a => by simp) _ _ ⟨rfl, rfl⟩

@[simp] theorem finishRecv_kept (s : State) (e : BitVec 4) (r : Recv) : restOf (finishRecv s e r) = restOf s ∧ memOf (finishRecv s e r) = memOf s := by
  simp [finishRecv]

@[simp] theorem recvCheck_kept (s : State) (e : BitVec 4) : restOf (recvCheck s e) = restOf s ∧ memOf (recvCheck s e) = memOf s := by
  unfold recvCheck
  (repeat' split) <;> simp

@[simp] theorem execPrecv_kept (e : BitVec 4) (s : State) : restOf (after s (execPrecv e s)) = restOf s ∧ memOf (after s (execPrecv e s)) = memOf s := by
  unfold execPrecv
  simp only [after_next]
  refine issue_kept _ _ _ _ _ (fun p w => ?_)
  refine judge_kept _ _ _ _ _ _ ?_
  refine ⟨?_, ?_⟩ <;> (repeat' split) <;> simp

@[simp] theorem execPfree_kept (e : BitVec 4) (s : State) : restOf (after s (execPfree e s)) = restOf s ∧ memOf (after s (execPfree e s)) = memOf s := by
  unfold execPfree
  simp only [after_next]
  refine issue_kept _ _ _ _ _ (fun p w => ?_)
  refine judge_kept _ _ _ _ _ _ ?_
  refine ⟨?_, ?_⟩ <;> (repeat' split) <;> simp

@[simp] theorem holdSend_kept (s : State) (e : BitVec 4) (w : Word64) : restOf (holdSend s e w) = restOf s ∧ memOf (holdSend s e w) = memOf s := by
  simp [holdSend]

@[simp] theorem endSend_kept (s : State) (e : BitVec 4) : restOf (endSend s e) = restOf s ∧ memOf (endSend s e) = memOf s := by
  simp [endSend]

@[simp] theorem execPsend_kept (e : BitVec 4) (s : State) : restOf (after s (execPsend e s)) = restOf s ∧ memOf (after s (execPsend e s)) = memOf s := by
  unfold execPsend
  simp only [after_next]
  refine issue_kept _ _ _ _ _ (fun p w => judge_kept _ _ _ _ _ _ (ite_kept _ _ _ (ite_kept _ _ _ (by simp) ?_)
    (ite_kept _ _ _ (by simp) (by simp))))
  simp only [holdSend_kept, meter_kept]
  exact foldl_kept _ _ (fun s a => by simp) _ _ ⟨rfl, rfl⟩

@[simp] theorem releaseSender_kept (s : State) (r : Record) (st : Status) : restOf (releaseSender s r st) = restOf s ∧ memOf (releaseSender s r st) = memOf s := by
  simp [releaseSender, apply_ite restOf, apply_ite memOf]

@[simp] theorem dropLong_kept (s : State) (e : BitVec 4) (c source : Nat) (tag : BitVec 16) (ten : Nat) : restOf (dropLong s e c source tag ten) = restOf s ∧ memOf (dropLong s e c source tag ten) = memOf s := by
  simp [dropLong]

@[simp] theorem landBytes_kept (s : State) (e : BitVec 4) (c at_ : Nat) (bs : List (Byte × Bool)) : restOf (landBytes s e c at_ bs) = restOf s ∧ memOf (landBytes s e c at_ bs) = memOf s := by
  simp [landBytes]

@[simp] theorem landHead_kept (s : State) (e : BitVec 4) (c source : Nat) (tag : BitVec 16) (ten n : Nat) (bad : Bool) : restOf (landHead s e c source tag ten n bad) = restOf s ∧ memOf (landHead s e c source tag ten n bad) = memOf s := by
  simp [landHead]

@[simp] theorem landRecordAt_kept (s : State) (e : BitVec 4) (c : Nat) (r : Record) : restOf (landRecordAt s e c r) = restOf s ∧ memOf (landRecordAt s e c r) = memOf s := by
  simp [landRecordAt, apply_ite restOf, apply_ite memOf]

@[simp] theorem execRecordLand_kept (e : BitVec 4) (s : State) : restOf (after s (execRecordLand e s)) = restOf s ∧ memOf (after s (execRecordLand e s)) = memOf s := by
  unfold execRecordLand
  simp only [after_next]
  refine ⟨?_, ?_⟩ <;> (repeat' split) <;> simp

@[simp] theorem execInLimitExpiry_kept (e : BitVec 4) (s : State) : restOf (after s (execInLimitExpiry e s)) = restOf s ∧ memOf (after s (execInLimitExpiry e s)) = memOf s := by
  unfold execInLimitExpiry
  simp only [after_next]
  refine ⟨?_, ?_⟩ <;> (repeat' split) <;> simp

end Sys2Proof.Machine
end

