-- ==== Sys2Proof/Laws/KeptModule.lean ====
section
/-! SUPPORT. One lemma f_kept for each function f on states: what f leaves alone, for dispatch of work, the pod, tenancies, power, boot, registers and management. -/

open Sys2Proof

namespace Sys2Proof.Machine

@[simp] theorem execFlagHomeSet_kept (flag : BitVec 16) (s : State) : restOf (after s (execFlagHomeSet flag s)) = restOf s ∧ memOf (after s (execFlagHomeSet flag s)) = memOf s := by
  simp [execFlagHomeSet]

@[simp] theorem execFlagHomeClear_kept (flag : BitVec 16) (s : State) : restOf (after s (execFlagHomeClear flag s)) = restOf s ∧ memOf (after s (execFlagHomeClear flag s)) = memOf s := by
  simp [execFlagHomeClear]

@[simp] theorem execFlagHomeTestclr_kept (flag : BitVec 16) (s : State) : restOf (after s (execFlagHomeTestclr flag s)) = restOf s ∧ memOf (after s (execFlagHomeTestclr flag s)) = memOf s := by
  simp [execFlagHomeTestclr]

@[simp] theorem execFlagHomeTest_kept (flag : BitVec 16) (s : State) : restOf (after s (execFlagHomeTest flag s)) = restOf s ∧ memOf (after s (execFlagHomeTest flag s)) = memOf s := by
  simp [execFlagHomeTest]

@[simp] theorem execKitePoll_kept (x : CoreId) (s : State) : restOf (after s (execKitePoll x s)) = restOf s ∧ memOf (after s (execKitePoll x s)) = memOf s := by
  unfold execKitePoll
  simp only [after_next]
  refine ⟨?_, ?_⟩ <;> (repeat' split) <;> simp

@[simp] theorem execPollAnswer_kept (x : CoreId) (s : State) : restOf (after s (execPollAnswer x s)) = restOf s ∧ memOf (after s (execPollAnswer x s)) = memOf s := by
  unfold execPollAnswer
  simp only [after_next]
  refine ⟨?_, ?_⟩ <;> (repeat' split) <;> simp

@[simp] theorem endNapper_kept (s : State) (u : Nat) (st : Status) (n : Nat) : restOf (endNapper s u st n) = restOf s ∧ memOf (endNapper s u st n) = memOf s := by
  simp [endNapper, apply_ite restOf, apply_ite memOf]

theorem breakWith_kept (s : State) (n cause : Nat) (st : Status) (go : State → Nat → State)
    (h : ∀ t u, restOf (go t u) = restOf t ∧ memOf (go t u) = memOf t) :
    restOf (breakWith s n cause st go) = restOf s ∧ memOf (breakWith s n cause st go) = memOf s := by
  unfold breakWith
  dsimp only
  split <;> exact foldl_kept _ _ (fun s a => h s a) _ _ (by simp)

@[simp] theorem breakBarrier_kept (s : State) (n cause : Nat) (st : Status) :
    restOf (breakBarrier s n cause st) = restOf s ∧ memOf (breakBarrier s n cause st) = memOf s :=
  breakWith_kept _ _ _ _ _ (fun t u => by simp)

@[simp] theorem discardBarrier_kept (s : State) (n : Nat) (st : Status) : restOf (discardBarrier s n st) = restOf s ∧ memOf (discardBarrier s n st) = memOf s := by
  unfold discardBarrier
  exact foldl_kept _ _ (fun s a => by simp) _ _ (by simp)

@[simp] theorem sendReleases_kept (s : State) (n : Nat) (b : Barrier) (broken : Bool) : restOf (sendReleases s n b broken) = restOf s ∧ memOf (sendReleases s n b broken) = memOf s := by
  unfold sendReleases
  exact foldl_kept _ _ (fun s a => by split <;> simp) _ _ (by simp)

@[simp] theorem releaseTop_kept (s : State) (n : Nat) : restOf (releaseTop s n) = restOf s ∧ memOf (releaseTop s n) = memOf s := by
  simp [releaseTop, apply_ite restOf, apply_ite memOf]

@[simp] theorem podCounted_kept (s : State) (n m : Nat) : restOf (podCounted s n m) = restOf s ∧ memOf (podCounted s n m) = memOf s := by
  simp [podCounted, apply_ite restOf, apply_ite memOf]

@[simp] theorem localDone_kept (s : State) (n : Nat) : restOf (localDone s n) = restOf s ∧ memOf (localDone s n) = memOf s := by
  simp [localDone, apply_ite restOf, apply_ite memOf]

@[simp] theorem dieComplete_kept (s : State) (n k : Nat) : restOf (dieComplete s n k) = restOf s ∧ memOf (dieComplete s n k) = memOf s := by
  simp [dieComplete, apply_ite restOf, apply_ite memOf]

@[simp] theorem countArrival_kept (s : State) (n u : Nat) : restOf (countArrival s n u) = restOf s ∧ memOf (countArrival s n u) = memOf s := by
  simp [countArrival, apply_ite restOf, apply_ite memOf]

@[simp] theorem releaseDie_kept (s : State) (n k : Nat) : restOf (releaseDie s n k) = restOf s ∧ memOf (releaseDie s n k) = memOf s := by
  unfold releaseDie
  exact foldl_kept _ _ (fun s a => by simp) _ _ (foldl_kept _ _ (fun s a => by simp) _ _ (by simp))

theorem takeArrival_kept (s : State) (n u : Nat) (o : Origin) (t : State) (h : takeArrival s n u = some (o, t)) :
    restOf t = restOf s ∧ memOf t = memOf s := by
  unfold takeArrival at h
  split at h
  · cases h; simp
  · cases h

@[simp] theorem execBarrierArrival_kept (bar : BitVec 10) (b : BitVec 12) (s : State) : restOf (after s (execBarrierArrival bar b s)) = restOf s ∧ memOf (after s (execBarrierArrival bar b s)) = memOf s := by
  unfold execBarrierArrival
  simp only [after_next]
  split
  · exact ⟨rfl, rfl⟩
  · next o t h =>
    have h1 := takeArrival_kept _ _ _ _ _ h
    refine ⟨?_, ?_⟩ <;> (repeat' split) <;> simp [h1]

@[simp] theorem execTrellisLevelArrival_kept (bar : BitVec 10) (stack : BitVec 3) (s : State) : restOf (after s (execTrellisLevelArrival bar stack s)) = restOf s ∧ memOf (after s (execTrellisLevelArrival bar stack s)) = memOf s := by
  unfold execTrellisLevelArrival
  simp only [after_next]
  refine ⟨?_, ?_⟩ <;> (repeat' split) <;> simp

@[simp] theorem execBarrierReleaseDown_kept (bar : BitVec 10) (stack : BitVec 3) (s : State) : restOf (after s (execBarrierReleaseDown bar stack s)) = restOf s ∧ memOf (after s (execBarrierReleaseDown bar stack s)) = memOf s := by
  unfold execBarrierReleaseDown
  simp only [after_next]
  refine ⟨?_, ?_⟩ <;> (repeat' split) <;> simp

@[simp] theorem trellisFault_kept (s : State) (n : Nat) (b : Barrier) (level stack missing who : Nat) : restOf (trellisFault s n b level stack missing who) = restOf s ∧ memOf (trellisFault s n b level stack missing who) = memOf s := by
  simp [trellisFault]

@[simp] theorem stackFault_kept (s : State) (n : Nat) (b : Barrier) (k : Nat) : restOf (stackFault s n b k) = restOf s ∧ memOf (stackFault s n b k) = memOf s := by
  simp [stackFault, apply_ite restOf, apply_ite memOf]

@[simp] theorem watchdogFires_kept (s : State) (n time : Nat) : restOf (watchdogFires s n time) = restOf s ∧ memOf (watchdogFires s n time) = memOf s := by
  unfold watchdogFires
  dsimp only
  have h0 := breakWith_kept s n 1 .watchdog (fun s u => faultAt s (.unit (buid u)) .watchdog 0 n 0 (s.ck - 1) time) (fun t u => by simp)
  have h := foldl_kept (barStacks (barOf s n)) (fun t k => stackFault t n (barOf s n) k) (fun s a => by simp) s _ h0
  refine ⟨?_, ?_⟩ <;> (repeat' split) <;> simp [h]

@[simp] theorem execSyncWatchdogExpiry_kept (bar : BitVec 10) (s : State) : restOf (after s (execSyncWatchdogExpiry bar s)) = restOf s ∧ memOf (after s (execSyncWatchdogExpiry bar s)) = memOf s := by
  unfold execSyncWatchdogExpiry
  simp only [after_next]
  refine ⟨?_, ?_⟩ <;> (repeat' split) <;> simp

@[simp] theorem initBarrier_kept (s : State) (n ten flag limit : Nat) (tag : BitVec 16) (groups : List Nat) (members : BitVec 64) : restOf (initBarrier s n ten flag limit tag groups members) = restOf s ∧ memOf (initBarrier s n ten flag limit tag groups members) = memOf s := by
  simp [initBarrier]

@[simp] theorem logPod_kept (s : State) (level num src : Nat) (tag : Option (BitVec 16)) (ten : Option Nat) (m type hflags reason seq incarn : Nat) : restOf (logPod s level num src tag ten m type hflags reason seq incarn) = restOf s ∧ memOf (logPod s level num src tag ten m type hflags reason seq incarn) = memOf s := by
  simp [logPod]

@[simp] theorem logMember_kept (s : State) (num m : Nat) : restOf (logMember s num m) = restOf s ∧ memOf (logMember s num m) = memOf s := by
  simp [logMember]

@[simp] theorem logFrame_kept (s : State) (num src m reason : Nat) (f : Frame) : restOf (logFrame s num src m reason f) = restOf s ∧ memOf (logFrame s num src m reason f) = memOf s := by
  simp [logFrame]

@[simp] theorem endSendJob_kept (s : State) (j : SendJob) (st : Status) : restOf (endSendJob s j st) = restOf s ∧ memOf (endSendJob s j st) = memOf s := by
  unfold endSendJob
  dsimp only
  (repeat' split) <;> simp

@[simp] theorem dropFrames_kept (s : State) (m : Nat) (gone : TxFrame → Bool) : restOf (dropFrames s m gone) = restOf s ∧ memOf (dropFrames s m gone) = memOf s := by
  simp [dropFrames]

@[simp] theorem startNet_kept (s : State) (a : Active) : restOf (startNet s a) = restOf s := by
  unfold startNet
  dsimp only
  split
  · simp
  · split
    · simp
    · split <;> next h =>
        have h1 := congrArg (fun p => restOf p.2) h
        simp only [regionRead_kept, traceEv_kept, modActive_kept, rest_mk, rest_fold] at h1
        first
          | (simp [h1]; done)
          | (have hf := fun (t : State) (ht : restOf t = restOf s) (l : List TxFrame) =>
              (foldl_rest l sendSeq (fun s a => by simp) t).trans ht
             split
             · simp only [sendSeq_kept]
               exact hf _ (by simp [h1]) _
             · exact hf _ (by simp [h1]) _)

@[simp] theorem completeSend_kept (s : State) : restOf (completeSend s) = restOf s ∧ memOf (completeSend s) = memOf s := by
  unfold completeSend
  (repeat' split) <;> simp

@[simp] theorem endSends_kept (s : State) (m : Nat) : restOf (endSends s m) = restOf s ∧ memOf (endSends s m) = memOf s := by
  unfold endSends
  exact foldl_kept _ _ (fun s a => by split <;> simp) _ _ (foldl_kept _ _ (fun s a => by
    refine ⟨?_, ?_⟩ <;> (repeat' split) <;> simp) _ _ (foldl_kept _ _ (fun s a => by simp) _ _ (by simp)))

@[simp] theorem loseCore_kept (s : State) (m : Nat) : restOf (loseCore s m) = restOf s ∧ memOf (loseCore s m) = memOf s := by
  unfold loseCore
  exact foldl_kept _ _ (fun s a => by split <;> simp) _ _ (by simp)

@[simp] theorem endRemote_kept (s : State) (r : RemoteWait) : restOf (endRemote s r) = restOf s ∧ memOf (endRemote s r) = memOf s := by
  unfold endRemote
  (repeat' split) <;> simp

@[simp] theorem endPoller_kept (s : State) (x : CoreId) : restOf (endPoller s x) = restOf s ∧ memOf (endPoller s x) = memOf s := by
  unfold endPoller
  (repeat' split) <;> simp

@[simp] theorem loseManager_kept (s : State) : restOf (loseManager s) = restOf s ∧ memOf (loseManager s) = memOf s := by
  unfold loseManager
  exact foldl_kept _ _ (fun s a => by simp) _ _ (foldl_kept _ _ (fun s a => by simp) _ _ (by
    simp only [rest_mk, mem_mk, rest_fold, mem_fold]
    exact foldl_kept _ _ (fun s a => by simp) _ _ (by simp)))

@[simp] theorem sendJoin_kept (s : State) (m op subject : Nat) (joined : Bool) (payload : List Byte) : restOf (sendJoin s m op subject joined payload) = restOf s ∧ memOf (sendJoin s m op subject joined payload) = memOf s := by
  simp [sendJoin]

@[simp] theorem announce_kept (s : State) (m : Nat) (joined : Bool) : restOf (announce s m joined) = restOf s ∧ memOf (announce s m joined) = memOf s := by
  unfold announce
  exact foldl_kept _ _ (fun s a => by split <;> simp) _ _ (by simp)

@[simp] theorem markLost_kept (s : State) (m t : Nat) : restOf (markLost s m t) = restOf s ∧ memOf (markLost s m t) = memOf s := by
  unfold markLost
  exact foldl_kept _ _ (fun s a => by split <;> simp) _ _ (by simp)

@[simp] theorem managerLoses_kept (s : State) (m : Nat) (tens : List Nat) : restOf (managerLoses s m tens) = restOf s ∧ memOf (managerLoses s m tens) = memOf s := by
  unfold managerLoses
  simp only [announce_kept]
  exact foldl_kept _ _ (fun s a => by simp) _ _ (foldl_kept _ _ (fun s a => by split <;> simp) _ _ (by simp))

@[simp] theorem enterAlone_kept (s : State) : restOf (enterAlone s) = restOf s ∧ memOf (enterAlone s) = memOf s := by
  unfold enterAlone
  simp only [rest_mk, mem_mk, rest_fold, mem_fold]
  split
  · exact foldl_kept _ _ (fun s a => by simp) _ _ (by simp)
  · exact foldl_kept _ _ (fun s a => by simp) _ _ (by simp)
  · exact ⟨rfl, rfl⟩

@[simp] theorem losePeer_kept (s : State) (m num : Nat) : restOf (losePeer s m num) = restOf s ∧ memOf (losePeer s m num) = memOf s := by
  unfold losePeer
  dsimp only
  (repeat' split) <;> simp

@[simp] theorem leavePod_kept (s : State) : restOf (leavePod s) = restOf s ∧ memOf (leavePod s) = memOf s := by
  simp [leavePod]

@[simp] theorem quarantine_kept (s : State) (m : Nat) : restOf (quarantine s m) = restOf s ∧ memOf (quarantine s m) = memOf s := by
  simp [quarantine, apply_ite restOf, apply_ite memOf]

@[simp] theorem violation_kept (s : State) (m : Nat) : restOf (violation s m) = restOf s ∧ memOf (violation s m) = memOf s := by
  simp [violation, apply_ite restOf, apply_ite memOf]

@[simp] theorem logRefusal_kept (s : State) (m reason : Nat) (f : Frame) : restOf (logRefusal s m reason f) = restOf s ∧ memOf (logRefusal s m reason f) = memOf s := by
  simp [logRefusal, apply_ite restOf, apply_ite memOf]

@[simp] theorem sendNak_kept (s : State) (m reason : Nat) (f : Frame) : restOf (sendNak s m reason f) = restOf s ∧ memOf (sendNak s m reason f) = memOf s := by
  simp [sendNak]

@[simp] theorem nak_kept (s : State) (m reason : Nat) (f : Frame) : restOf (nak s m reason f) = restOf s ∧ memOf (nak s m reason f) = memOf s := by
  simp [nak, apply_ite restOf, apply_ite memOf]

@[simp] theorem sendAck_kept (s : State) (m : Nat) : restOf (sendAck s m) = restOf s ∧ memOf (sendAck s m) = memOf s := by
  simp [sendAck]

@[simp] theorem processed_kept (s : State) (m : Nat) : restOf (processed s m) = restOf s ∧ memOf (processed s m) = memOf s := by
  simp [processed, apply_ite restOf, apply_ite memOf]

@[simp] theorem refuse_kept (s : State) (m reason : Nat) (f : Frame) : restOf (refuse s m reason f) = restOf s ∧ memOf (refuse s m reason f) = memOf s := by
  simp [refuse, apply_ite restOf, apply_ite memOf]

@[simp] theorem duplicate_kept (s : State) (m : Nat) : restOf (duplicate s m) = restOf s ∧ memOf (duplicate s m) = memOf s := by
  simp [duplicate, apply_ite restOf, apply_ite memOf]

@[simp] theorem leaveIfDone_kept (s : State) : restOf (leaveIfDone s) = restOf s ∧ memOf (leaveIfDone s) = memOf s := by
  simp [leaveIfDone, apply_ite restOf, apply_ite memOf]

@[simp] theorem answerRead_kept (s : State) (m : Nat) : restOf (answerRead s m) = restOf s ∧ memOf (answerRead s m) = memOf s := by
  unfold answerRead
  dsimp only
  (repeat' split) <;> simp

@[simp] theorem acked_kept (s : State) (m ackno : Nat) : restOf (acked s m ackno) = restOf s ∧ memOf (acked s m ackno) = memOf s := by
  unfold acked
  refine ite_kept _ _ _ ⟨rfl, rfl⟩ ?_
  simp only [leaveIfDone_kept, answerRead_kept, pump_kept]
  exact foldl_kept _ _ (fun s a => by split <;> simp) _ _ (by simp)

@[simp] theorem takeAck_kept (s : State) (m : Nat) (f : Frame) : restOf (takeAck s m f) = restOf s ∧ memOf (takeAck s m f) = memOf s := by
  simp [takeAck, apply_ite restOf, apply_ite memOf]

@[simp] theorem resend_kept (s : State) (m : Nat) : restOf (resend s m) = restOf s ∧ memOf (resend s m) = memOf s := by
  unfold resend
  exact foldl_kept _ _ (fun s a => by simp) _ _ (by simp)

@[simp] theorem fastResend_kept (s : State) (m ackno : Nat) : restOf (fastResend s m ackno) = restOf s ∧ memOf (fastResend s m ackno) = memOf s := by
  simp [fastResend, apply_ite restOf, apply_ite memOf]

@[simp] theorem dropUnknown_kept (s : State) (num src m : Nat) (f : Frame) : restOf (dropUnknown s num src m f) = restOf s ∧ memOf (dropUnknown s num src m f) = memOf s := by
  simp [dropUnknown]

theorem received_rest (s : State) (f : Frame) (go : State → Nat → State) (h : ∀ t m, restOf (go t m) = restOf t) :
    restOf (received s f go) = restOf s := by
  unfold received
  dsimp only
  (repeat' split) <;> simp [h]

theorem received_mem (s : State) (f : Frame) (go : State → Nat → State) (h : ∀ t m, memOf (go t m) = memOf t) :
    memOf (received s f go) = memOf s := by
  unfold received
  dsimp only
  (repeat' split) <;> simp [h]
theorem received_kept (s : State) (f : Frame) (go : State → Nat → State) (h : ∀ t m, restOf (go t m) = restOf t ∧ memOf (go t m) = memOf t) :
    restOf (received s f go) = restOf s ∧ memOf (received s f go) = memOf s :=
  ⟨received_rest s f go (fun t m => (h t m).1), received_mem s f go (fun t m => (h t m).2)⟩

@[simp] theorem stale_kept (s : State) (m : Nat) (f : Frame) : restOf (stale s m f) = restOf s ∧ memOf (stale s m f) = memOf s := by
  simp [stale, apply_ite restOf, apply_ite memOf]

theorem fromMember_rest (s : State) (m : Nat) (f : Frame) (go : State → State) (h : ∀ t, restOf (go t) = restOf t) :
    restOf (fromMember s m f go) = restOf s := by
  unfold fromMember
  dsimp only
  (repeat' split) <;> simp [h]

@[simp] theorem admitPeer_kept (s : State) (m : Nat) (inc : BitVec 32) : restOf (admitPeer s m inc) = restOf s ∧ memOf (admitPeer s m inc) = memOf s := by
  simp [admitPeer]

@[simp] theorem joinReq_kept (s : State) (f : Frame) (m : Nat) : restOf (joinReq s f m) = restOf s ∧ memOf (joinReq s f m) = memOf s := by
  simp [joinReq, apply_ite restOf, apply_ite memOf]

@[simp] theorem sendTime_kept (s : State) (m op stamp echo : Nat) : restOf (sendTime s m op stamp echo) = restOf s ∧ memOf (sendTime s m op stamp echo) = memOf s := by
  simp [sendTime]

@[simp] theorem stepTime_kept (s : State) (t m : Nat) : restOf (stepTime s t m) = restOf s ∧ memOf (stepTime s t m) = memOf s := by
  simp [stepTime, apply_ite restOf, apply_ite memOf]

@[simp] theorem correctTime_kept (s : State) (off delay : Int) : restOf (correctTime s off delay) = restOf s ∧ memOf (correctTime s off delay) = memOf s := by
  simp [correctTime, apply_ite restOf, apply_ite memOf]

@[simp] theorem failRead_kept (s : State) (m reason : Nat) (f : Frame) : restOf (failRead s m reason f) = restOf s ∧ memOf (failRead s m reason f) = memOf s := by
  unfold failRead
  (repeat' split) <;> simp

@[simp] theorem refuseMessage_kept (s : State) (m reason : Nat) (f : Frame) : restOf (refuseMessage s m reason f) = restOf s ∧ memOf (refuseMessage s m reason f) = memOf s := by
  simp [refuseMessage]

@[simp] theorem readDone_kept (s : State) (m : Nat) (j : SendJob) : restOf (readDone s m j) = restOf s ∧ memOf (readDone s m j) = memOf s := by
  unfold readDone
  dsimp only
  (repeat' split) <;> simp

@[simp] theorem modRx_kept (s : State) (m : Nat) (g : RxMsg → RxMsg) : restOf (modRx s m g) = restOf s ∧ memOf (modRx s m g) = memOf s := by
  simp [modRx]

@[simp] theorem dropRest_kept (s : State) (m : Nat) (f : Frame) : restOf (dropRest s m f) = restOf s ∧ memOf (dropRest s m f) = memOf s := by
  simp [dropRest]

@[simp] theorem writeFrame_kept (s : State) (m : Nat) (f : Frame) : restOf (writeFrame s m f) = restOf s := by
  unfold writeFrame
  extract_lets ten region off bank bs ls
  split
  · simp
  · split
    · simp
    · split <;> next h =>
        have h1 := congrArg (fun p => restOf p.2) h
        simp only [regionWrite_kept] at h1
        first
          | (simp [h1]; done)
          | (simp only [processed_kept]
             (repeat' split) <;> simp [h1])

@[simp] theorem readFrame_kept (s : State) (m : Nat) (f : Frame) : restOf (readFrame s m f) = restOf s := by
  unfold readFrame
  extract_lets ten v lregion rregion lstart rstart n bank off ls
  split
  · simp
  · split
    · simp
    · split <;> next h =>
        have h1 := congrArg (fun p => restOf p.2) h
        simp only [regionRead_kept] at h1
        first
          | (simp [h1]; done)
          | (simp only [answerRead_kept, modPeer_kept]
             exact (foldl_rest _ _ (fun s a => by simp) _).trans (by simp [h1]))

theorem remoteFlag_kept (s : State) (m : Nat) (f : Frame) (go : State → State) (h : restOf (go s) = restOf s ∧ memOf (go s) = memOf s) :
    restOf (remoteFlag s m f go) = restOf s ∧ memOf (remoteFlag s m f go) = memOf s := by
  unfold remoteFlag
  dsimp only
  refine ⟨?_, ?_⟩ <;> (repeat' split) <;> simp [h]

@[simp] theorem sendResult_kept (s : State) (m : Nat) (f : Frame) (v : Bool) : restOf (sendResult s m f v) = restOf s ∧ memOf (sendResult s m f v) = memOf s := by
  simp [sendResult, apply_ite restOf, apply_ite memOf]

@[simp] theorem remoteOp_kept (s : State) (m : Nat) (f : Frame) : restOf (remoteOp s m f) = restOf s ∧ memOf (remoteOp s m f) = memOf s := by
  unfold remoteOp
  (repeat' split) <;> simp

@[simp] theorem remoteWatch_kept (s : State) (m : Nat) (f : Frame) : restOf (remoteWatch s m f) = restOf s ∧ memOf (remoteWatch s m f) = memOf s := by
  unfold remoteWatch
  dsimp only
  (repeat' split) <;> simp

@[simp] theorem takeRemote_kept (s : State) (p : RemoteWait → Bool) : restOf (takeRemote s p).2 = restOf s ∧ memOf (takeRemote s p).2 = memOf s := by
  unfold takeRemote
  (repeat' split) <;> simp

@[simp] theorem releaseRemote_kept (s : State) (r : Reply) : restOf (releaseRemote s r) = restOf s ∧ memOf (releaseRemote s r) = memOf s := by
  unfold releaseRemote
  (repeat' split) <;> simp

@[simp] theorem retest_kept (s : State) (r : RemoteWait) (f : Frame) : restOf (retest s r f) = restOf s ∧ memOf (retest s r f) = memOf s := by
  simp [retest]

@[simp] theorem remoteResult_kept (s : State) (r : RemoteWait) (f : Frame) : restOf (remoteResult s r f) = restOf s ∧ memOf (remoteResult s r f) = memOf s := by
  simp [remoteResult, apply_ite restOf, apply_ite memOf]

@[simp] theorem remoteNoKite_kept (s : State) (r : RemoteWait) (f : Frame) : restOf (remoteNoKite s r f) = restOf s ∧ memOf (remoteNoKite s r f) = memOf s := by
  unfold remoteNoKite
  (repeat' split) <;> simp

theorem forTenancy_kept (s : State) (m : Nat) (f : Frame) (mine : RemoteWait → Bool) (go : State)
    (h : restOf go = restOf s ∧ memOf go = memOf s) :
    restOf (forTenancy s m f mine go) = restOf s ∧ memOf (forTenancy s m f mine go) = memOf s := by
  unfold forTenancy
  exact ite_kept _ _ _ (by simp) (ite_kept _ _ _ (by simp) h)

@[simp] theorem fireFrame_kept (s : State) (m : Nat) (f : Frame) : restOf (fireFrame s m f) = restOf s ∧ memOf (fireFrame s m f) = memOf s := by
  unfold fireFrame
  refine forTenancy_kept _ _ _ _ _ ?_
  dsimp only
  (repeat' split) <;> simp

@[simp] theorem resultFrame_kept (s : State) (m : Nat) (f : Frame) : restOf (resultFrame s m f) = restOf s ∧ memOf (resultFrame s m f) = memOf s := by
  unfold resultFrame
  dsimp only
  refine ite_kept _ _ _ (ite_kept _ _ _ (by simp) ?_) (forTenancy_kept _ _ _ _ _ ?_) <;> split <;> simp

@[simp] theorem flagFrame_kept (s : State) (m : Nat) (f : Frame) :
    restOf (flagFrame s m f) = restOf s ∧ memOf (flagFrame s m f) = memOf s := by
  unfold flagFrame
  split
  · exact remoteFlag_kept _ _ _ _ (by simp)
  · exact remoteFlag_kept _ _ _ _ (by simp)
  · simp
  · simp
  · exact remoteFlag_kept _ _ _ _ (by simp)

@[simp] theorem arriveFrame_kept (s : State) (m : Nat) (f : Frame) : restOf (arriveFrame s m f) = restOf s ∧ memOf (arriveFrame s m f) = memOf s := by
  simp [arriveFrame, apply_ite restOf, apply_ite memOf]

@[simp] theorem releaseFrame_kept (s : State) (m : Nat) (f : Frame) :
    restOf (releaseFrame s m f) = restOf s ∧ memOf (releaseFrame s m f) = memOf s := by
  unfold releaseFrame
  dsimp only
  refine ite_kept _ _ _ (by simp) (ite_kept _ _ _ (by simp) ?_)
  simp only [processed_kept]
  refine ite_kept _ _ _ ⟨rfl, rfl⟩ (ite_kept _ _ _ ?_ (ite_kept _ _ _ (by simp) ⟨rfl, rfl⟩))
  exact foldl_kept _ _ (fun s a => by simp) _ _ (by simp)

@[simp] theorem partialBytes_kept (s : State) (m : Nat) (f : Frame) (g : PartialMsg) : restOf (partialBytes s m f g) = restOf s ∧ memOf (partialBytes s m f g) = memOf s := by
  simp [partialBytes, apply_ite restOf, apply_ite memOf]

@[simp] theorem openPartial_kept (s : State) (m : Nat) (f : Frame) (g : PartialMsg) : restOf (openPartial s m f g) = restOf s ∧ memOf (openPartial s m f g) = memOf s := by
  simp [openPartial, apply_ite restOf, apply_ite memOf]

@[simp] theorem partialFrame_kept (s : State) (m : Nat) (f : Frame) : restOf (partialFrame s m f) = restOf s ∧ memOf (partialFrame s m f) = memOf s := by
  unfold partialFrame
  dsimp only
  refine ite_kept _ _ _ (by simp) (ite_kept _ _ _ (by simp) (ite_kept _ _ _ (by simp) ?_))
  split
  · exact ite_kept _ _ _ (by simp) (by simp)
  · exact ite_kept _ _ _ (by simp) (by simp)
  · simp

@[simp] theorem nakFlag_kept (s : State) (g : TxFrame) (st : Status) : restOf (nakFlag s g st) = restOf s ∧ memOf (nakFlag s g st) = memOf s := by
  unfold nakFlag
  dsimp only
  (repeat' split) <;> simp

@[simp] theorem nakArrive_kept (s : State) (n : Nat) (st : Status) : restOf (nakArrive s n st) = restOf s ∧ memOf (nakArrive s n st) = memOf s := by
  simp [nakArrive, apply_ite restOf, apply_ite memOf]

@[simp] theorem nakWork_kept (s : State) (m : Nat) (g : TxFrame) (st : Status) : restOf (nakWork s m g st) = restOf s ∧ memOf (nakWork s m g st) = memOf s := by
  unfold nakWork
  dsimp only
  (repeat' split) <;> simp

@[simp] theorem frameEffect_kept (s : State) (m : Nat) (f : Frame) : restOf (frameEffect s m f) = restOf s := by
  unfold frameEffect
  split <;> simp

@[simp] theorem takeFrame_kept (s : State) (m : Nat) (f : Frame) : restOf (takeFrame s m f) = restOf s := by
  simp [takeFrame, apply_ite restOf]

@[simp] theorem drainRx_kept (fuel : Nat) (s : State) (m : Nat) : restOf (drainRx fuel s m) = restOf s := by
  induction fuel generalizing s with
  | zero => simp [drainRx]
  | succ n ih => simp only [drainRx]; split <;> simp [ih]

@[simp] theorem pfcPort_kept (s : State) (p : Nat) : restOf (pfcPort s p) = restOf s ∧ memOf (pfcPort s p) = memOf s := by
  simp [pfcPort, apply_ite restOf, apply_ite memOf]

@[simp] theorem settleRx_kept (s : State) (m : Nat) : restOf (settleRx s m) = restOf s := by
  simp [settleRx]

@[simp] theorem holdFrame_kept (s : State) (m : Nat) (f : Frame) : restOf (holdFrame s m f) = restOf s ∧ memOf (holdFrame s m f) = memOf s := by
  simp [holdFrame]

@[simp] theorem sequenced_kept (s : State) (f : Frame) : restOf (sequenced s f) = restOf s := by
  unfold sequenced
  refine received_rest _ _ _ (fun t m => fromMember_rest _ _ _ _ (fun u => ?_))
  dsimp only
  (repeat' split) <;> simp

theorem current_rest (s : State) (m : Nat) (f : Frame) (go : State → State) (h : ∀ t, restOf (go t) = restOf t) :
    restOf (current s m f go) = restOf s := by
  unfold current
  (repeat' split) <;> simp [h]

theorem unsequenced_rest (s : State) (f : Frame) (go : State → Nat → State) (h : ∀ t m, restOf (go t m) = restOf t) :
    restOf (unsequenced s f go) = restOf s := by
  unfold unsequenced
  refine received_rest _ _ _ (fun t m => current_rest _ _ _ _ (fun u => ?_))
  (repeat' split) <;> simp [h]

@[simp] theorem execDppHello_kept (f : Frame) (s : State) : restOf (after s (execDppHello f s)) = restOf s := by
  unfold execDppHello
  simp only [after_next]
  split <;> simp

@[simp] theorem execJoinRequest_kept (f : Frame) (s : State) : restOf (after s (execJoinRequest f s)) = restOf s := by
  unfold execJoinRequest
  simp only [after_next]
  split
  · refine unsequenced_rest _ _ _ (fun t m => ?_)
    (repeat' split) <;> simp
  · rfl

@[simp] theorem execJoinAccept_kept (f : Frame) (s : State) : restOf (after s (execJoinAccept f s)) = restOf s := by
  unfold execJoinAccept
  simp only [after_next]
  split
  · refine unsequenced_rest _ _ _ (fun t m => ?_)
    split
    · simp only [logMember_kept, rest_mk, rest_fold]
      exact (foldl_rest _ _ (fun s a => by split <;> simp) _).trans (by simp)
    · rfl
  · rfl

@[simp] theorem execJoinRefuse_kept (f : Frame) (s : State) : restOf (after s (execJoinRefuse f s)) = restOf s := by
  unfold execJoinRefuse
  simp only [after_next]
  split
  · refine unsequenced_rest _ _ _ (fun t m => ?_)
    (repeat' split) <;> simp
  · rfl

@[simp] theorem execJoinAnnounce_kept (f : Frame) (s : State) : restOf (after s (execJoinAnnounce f s)) = restOf s := by
  unfold execJoinAnnounce
  simp only [after_next]
  split
  · refine unsequenced_rest _ _ _ (fun t m => ?_)
    split
    · rfl
    · refine fromMember_rest _ _ _ _ (fun u => ?_)
      (repeat' split) <;> simp
  · rfl

@[simp] theorem execJoinLeave_kept (f : Frame) (s : State) : restOf (after s (execJoinLeave f s)) = restOf s := by
  unfold execJoinLeave
  simp only [after_next]
  split
  · refine unsequenced_rest _ _ _ (fun t m => ?_)
    refine fromMember_rest _ _ _ _ (fun u => ?_)
    (repeat' split) <;> simp
  · rfl

@[simp] theorem execJoinReadmit_kept (f : Frame) (s : State) : restOf (after s (execJoinReadmit f s)) = restOf s := by
  unfold execJoinReadmit
  simp only [after_next]
  split
  · refine unsequenced_rest _ _ _ (fun t m => ?_)
    (repeat' split) <;> simp
  · rfl

@[simp] theorem execJoinReport_kept (f : Frame) (s : State) : restOf (after s (execJoinReport f s)) = restOf s := by
  unfold execJoinReport
  simp only [after_next]
  split
  · refine unsequenced_rest _ _ _ (fun t m => ?_)
    refine fromMember_rest _ _ _ _ (fun u => ?_)
    (repeat' split) <;> simp
  · rfl

@[simp] theorem execTimeSync_kept (f : Frame) (s : State) : restOf (after s (execTimeSync f s)) = restOf s := by
  unfold execTimeSync
  simp only [after_next]
  split
  · refine unsequenced_rest _ _ _ (fun t m => ?_)
    refine fromMember_rest _ _ _ _ (fun u => ?_)
    (repeat' split) <;> simp
  · rfl

@[simp] theorem execTimeDelayReq_kept (f : Frame) (s : State) : restOf (after s (execTimeDelayReq f s)) = restOf s := by
  unfold execTimeDelayReq
  simp only [after_next]
  split
  · refine unsequenced_rest _ _ _ (fun t m => ?_)
    refine fromMember_rest _ _ _ _ (fun u => ?_)
    (repeat' split) <;> simp
  · rfl

@[simp] theorem execTimeDelayResp_kept (f : Frame) (s : State) : restOf (after s (execTimeDelayResp f s)) = restOf s := by
  unfold execTimeDelayResp
  simp only [after_next]
  split
  · refine unsequenced_rest _ _ _ (fun t m => ?_)
    refine fromMember_rest _ _ _ _ (fun u => ?_)
    (repeat' split) <;> simp
  · rfl

@[simp] theorem execTimeStep_kept (f : Frame) (s : State) : restOf (after s (execTimeStep f s)) = restOf s := by
  unfold execTimeStep
  simp only [after_next]
  split
  · refine unsequenced_rest _ _ _ (fun t m => ?_)
    refine fromMember_rest _ _ _ _ (fun u => ?_)
    split
    · split
      · exact (foldl_rest _ _ (fun s a => by simp) _).trans (by simp)
      · rfl
    · simp
  · rfl

@[simp] theorem execDppWrite_kept (f : Frame) (s : State) : restOf (after s (execDppWrite f s)) = restOf s := by
  unfold execDppWrite
  simp only [after_next]
  split <;> simp

@[simp] theorem execDppRead_kept (f : Frame) (s : State) : restOf (after s (execDppRead f s)) = restOf s := by
  unfold execDppRead
  simp only [after_next]
  split <;> simp

@[simp] theorem flagSequenced_kept (s : State) (f : Frame) (op : Nat) : restOf (flagSequenced s f op) = restOf s := by
  unfold flagSequenced
  split <;> simp

@[simp] theorem execDppFlagSet_kept (f : Frame) (s : State) : restOf (after s (execDppFlagSet f s)) = restOf s := by
  unfold execDppFlagSet
  simp only [after_next]
  simp

@[simp] theorem execDppFlagClear_kept (f : Frame) (s : State) : restOf (after s (execDppFlagClear f s)) = restOf s := by
  unfold execDppFlagClear
  simp only [after_next]
  simp

@[simp] theorem execDppFlagTestclr_kept (f : Frame) (s : State) : restOf (after s (execDppFlagTestclr f s)) = restOf s := by
  unfold execDppFlagTestclr
  simp only [after_next]
  simp

@[simp] theorem execDppFlagTest_kept (f : Frame) (s : State) : restOf (after s (execDppFlagTest f s)) = restOf s := by
  unfold execDppFlagTest
  simp only [after_next]
  simp

@[simp] theorem execDppFlagWatch_kept (f : Frame) (s : State) : restOf (after s (execDppFlagWatch f s)) = restOf s := by
  unfold execDppFlagWatch
  simp only [after_next]
  simp

@[simp] theorem execDppFlagWatchClr_kept (f : Frame) (s : State) : restOf (after s (execDppFlagWatchClr f s)) = restOf s := by
  unfold execDppFlagWatchClr
  simp only [after_next]
  simp

@[simp] theorem execDppFlagFire_kept (f : Frame) (s : State) : restOf (after s (execDppFlagFire f s)) = restOf s := by
  unfold execDppFlagFire
  simp only [after_next]
  simp

@[simp] theorem execDppFlagResult_kept (f : Frame) (s : State) : restOf (after s (execDppFlagResult f s)) = restOf s := by
  unfold execDppFlagResult
  simp only [after_next]
  simp

@[simp] theorem execDppArrive_kept (f : Frame) (s : State) : restOf (after s (execDppArrive f s)) = restOf s := by
  unfold execDppArrive
  simp only [after_next]
  split <;> simp

@[simp] theorem execDppRelease_kept (f : Frame) (s : State) : restOf (after s (execDppRelease f s)) = restOf s := by
  unfold execDppRelease
  simp only [after_next]
  split <;> simp

@[simp] theorem execDppPartial_kept (f : Frame) (s : State) : restOf (after s (execDppPartial f s)) = restOf s := by
  unfold execDppPartial
  simp only [after_next]
  split <;> simp

@[simp] theorem execBusyNakTimer_kept (m : BitVec 6) (s : State) : restOf (after s (execBusyNakTimer m s)) = restOf s := by
  unfold execBusyNakTimer
  simp only [after_next, viaHost_if]
  (repeat' split) <;> simp

@[simp] theorem execDppAck_kept (f : Frame) (s : State) : restOf (after s (execDppAck f s)) = restOf s := by
  unfold execDppAck
  simp only [after_next]
  split
  · refine unsequenced_rest _ _ _ (fun t m => ?_)
    refine fromMember_rest _ _ _ _ (fun u => ?_)
    (repeat' split) <;> simp
  · rfl

@[simp] theorem execDppNak_kept (f : Frame) (s : State) : restOf (after s (execDppNak f s)) = restOf s := by
  unfold execDppNak
  simp only [after_next]
  split
  · refine unsequenced_rest _ _ _ (fun t m => ?_)
    (repeat' split) <;> simp
  · rfl

@[simp] theorem execDppUnknownType_kept (f : Frame) (s : State) : restOf (after s (execDppUnknownType f s)) = restOf s ∧ memOf (after s (execDppUnknownType f s)) = memOf s := by
  unfold execDppUnknownType
  simp only [after_next]
  split
  · refine received_kept _ _ _ (fun t m => ?_)
    unfold current
    exact ite_kept _ _ _ ⟨rfl, rfl⟩ (ite_kept _ _ _ (by simp) (by simp))
  · exact ⟨rfl, rfl⟩

@[simp] theorem execNonDppFrame_kept (port : BitVec 1) (s : State) : restOf (after s (execNonDppFrame port s)) = restOf s ∧ memOf (after s (execNonDppFrame port s)) = memOf s := by
  unfold execNonDppFrame
  simp only [after_next]
  refine ⟨?_, ?_⟩ <;> (repeat' split) <;> simp

@[simp] theorem execNetRxErrFrame_kept (port : BitVec 1) (s : State) : restOf (after s (execNetRxErrFrame port s)) = restOf s ∧ memOf (after s (execNetRxErrFrame port s)) = memOf s := by
  unfold execNetRxErrFrame
  simp only [after_next]
  refine ⟨?_, ?_⟩ <;> (repeat' split) <;> simp

@[simp] theorem execRetransmitTimeout_kept (m : BitVec 6) (s : State) : restOf (after s (execRetransmitTimeout m s)) = restOf s ∧ memOf (after s (execRetransmitTimeout m s)) = memOf s := by
  unfold execRetransmitTimeout
  simp only [after_next]
  refine ⟨?_, ?_⟩ <;> (repeat' split) <;> simp

@[simp] theorem execAckTimer_kept (m : BitVec 6) (s : State) : restOf (after s (execAckTimer m s)) = restOf s ∧ memOf (after s (execAckTimer m s)) = memOf s := by
  unfold execAckTimer
  simp only [after_next]
  refine ⟨?_, ?_⟩ <;> (repeat' split) <;> simp

@[simp] theorem execHelloTimer_kept (m : BitVec 6) (s : State) : restOf (after s (execHelloTimer m s)) = restOf s ∧ memOf (after s (execHelloTimer m s)) = memOf s := by
  unfold execHelloTimer
  simp only [after_next]
  refine ⟨?_, ?_⟩ <;> (repeat' split) <;> simp

@[simp] theorem sendRequest_kept (s : State) : restOf (sendRequest s) = restOf s ∧ memOf (sendRequest s) = memOf s := by
  simp [sendRequest]

@[simp] theorem execJoinRetryTimer_kept (s : State) : restOf (after s (execJoinRetryTimer s)) = restOf s ∧ memOf (after s (execJoinRetryTimer s)) = memOf s := by
  unfold execJoinRetryTimer
  simp only [after_next]
  refine ⟨?_, ?_⟩ <;> (repeat' split) <;> simp

@[simp] theorem execTimePeriodTimer_kept  (s : State) : restOf (after s (execTimePeriodTimer s)) = restOf s ∧ memOf (after s (execTimePeriodTimer s)) = memOf s := by
  unfold execTimePeriodTimer
  simp only [after_next]
  exact ite_kept _ _ _ (foldl_kept _ _ (fun s a => by simp) _ _ (by simp)) ⟨rfl, rfl⟩

@[simp] theorem execTimeLostTimer_kept (s : State) : restOf (after s (execTimeLostTimer s)) = restOf s ∧ memOf (after s (execTimeLostTimer s)) = memOf s := by
  unfold execTimeLostTimer
  simp only [after_next]
  refine ⟨?_, ?_⟩ <;> (repeat' split) <;> simp

@[simp] theorem execViolationWindowExpiry_kept (m : BitVec 6) (s : State) : restOf (after s (execViolationWindowExpiry m s)) = restOf s ∧ memOf (after s (execViolationWindowExpiry m s)) = memOf s := by
  unfold execViolationWindowExpiry
  simp only [after_next]
  refine ⟨?_, ?_⟩ <;> (repeat' split) <;> simp

@[simp] theorem movePairs_kept (s : State) : restOf (movePairs s) = restOf s ∧ memOf (movePairs s) = memOf s := by
  unfold movePairs
  exact foldl_kept _ _ (fun s a => by split <;> simp) _ _ (by simp)

@[simp] theorem portDown_kept (s : State) (p : Nat) : restOf (portDown s p) = restOf s ∧ memOf (portDown s p) = memOf s := by
  simp [portDown, apply_ite restOf, apply_ite memOf]

@[simp] theorem portUp_kept (s : State) (p : Nat) : restOf (portUp s p) = restOf s ∧ memOf (portUp s p) = memOf s := by
  simp [portUp, apply_ite restOf, apply_ite memOf]

@[simp] theorem execPortLinkDown_kept (p : BitVec 1) (s : State) : restOf (after s (execPortLinkDown p s)) = restOf s ∧ memOf (after s (execPortLinkDown p s)) = memOf s := by
  unfold execPortLinkDown
  simp only [after_next]
  refine ⟨?_, ?_⟩ <;> (repeat' split) <;> simp

@[simp] theorem execPortLinkReturn_kept (p : BitVec 1) (s : State) : restOf (after s (execPortLinkReturn p s)) = restOf s ∧ memOf (after s (execPortLinkReturn p s)) = memOf s := by
  unfold execPortLinkReturn
  simp only [after_next]
  exact ite_kept _ _ _ (foldl_kept _ _ (fun s a => by split <;> simp) _ _ (by simp)) ⟨rfl, rfl⟩

@[simp] theorem setPodEnable_kept (s : State) (v : Bool) : restOf (setPodEnable s v) = restOf s ∧ memOf (setPodEnable s v) = memOf s := by
  simp [setPodEnable]

@[simp] theorem execPodEnable_kept (s : State) : restOf (after s (execPodEnable s)) = restOf s ∧ memOf (after s (execPodEnable s)) = memOf s := by
  unfold execPodEnable
  simp only [after_next, viaHost_if]
  refine ⟨?_, ?_⟩ <;> (repeat' split) <;> simp

@[simp] theorem execPodDisable_kept  (s : State) : restOf (after s (execPodDisable s)) = restOf s ∧ memOf (after s (execPodDisable s)) = memOf s := by
  unfold execPodDisable
  simp only [after_next]
  refine viaHost_kept _ _ (ite_kept _ _ _ ?_ ⟨rfl, rfl⟩)
  split
  · simp
  · simp
  · simp only [leaveIfDone_kept, rest_mk, mem_mk, rest_fold, mem_fold]
    exact foldl_kept _ _ (fun s a => by split <;> simp) _ _ (by simp)
  · simp only [enterAlone_kept]
    exact foldl_kept _ _ (fun s a => by simp) _ _ (by simp)

@[simp] theorem execLeaveWaitExpiry_kept (s : State) : restOf (after s (execLeaveWaitExpiry s)) = restOf s ∧ memOf (after s (execLeaveWaitExpiry s)) = memOf s := by
  unfold execLeaveWaitExpiry
  simp only [after_next]
  refine ⟨?_, ?_⟩ <;> (repeat' split) <;> simp

@[simp] theorem execNetExpel_kept (m : BitVec 6) (s : State) : restOf (after s (execNetExpel m s)) = restOf s ∧ memOf (after s (execNetExpel m s)) = memOf s := by
  unfold execNetExpel
  simp only [after_next, viaHost_if]
  refine ⟨?_, ?_⟩ <;> (repeat' split) <;> simp

@[simp] theorem execNetReadmit_kept (m : BitVec 6) (s : State) : restOf (after s (execNetReadmit m s)) = restOf s ∧ memOf (after s (execNetReadmit m s)) = memOf s := by
  unfold execNetReadmit
  simp only [after_next]
  refine viaHost_kept _ _ (ite_kept _ _ _ ?_ ⟨rfl, rfl⟩)
  have h : ∀ l : List Nat, restOf (l.foldl (fun s j => sendJoin s j 6 m.toNat false []) s) = restOf s ∧
      memOf (l.foldl (fun s j => sendJoin s j 6 m.toNat false []) s) = memOf s :=
    fun l => foldl_kept _ _ (fun s a => by simp) _ _ ⟨rfl, rfl⟩
  exact ite_kept _ _ _ (by simp [h]) (h _)

@[simp] theorem execNetLostClear_kept (ten : BitVec 8) (m : BitVec 6) (all : Bool) (s : State) : restOf (after s (execNetLostClear ten m all s)) = restOf s ∧ memOf (after s (execNetLostClear ten m all s)) = memOf s := by
  unfold execNetLostClear
  simp only [after_next, viaHost_if]
  refine ⟨?_, ?_⟩ <;> (repeat' split) <;> simp

@[simp] theorem markWaits_kept (s : State) : restOf (markWaits s) = restOf s ∧ memOf (markWaits s) = memOf s := by
  unfold markWaits
  exact foldl_kept _ _ (fun s a => by simp) _ _ (by simp)

@[simp] theorem clearWaits_kept (s : State) : restOf (clearWaits s) = restOf s ∧ memOf (clearWaits s) = memOf s := by
  simp [clearWaits]

@[simp] theorem unitsOn_kept (s : State) (g : Nat) : restOf (unitsOn s g) = restOf s ∧ memOf (unitsOn s g) = memOf s := by
  unfold unitsOn
  exact foldl_kept _ _ (fun s a => by split <;> simp) _ _ ⟨rfl, rfl⟩

@[simp] theorem domainReady_kept (s : State) (d : Nat) : restOf (domainReady s d) = restOf s ∧ memOf (domainReady s d) = memOf s := by
  simp [domainReady, apply_ite restOf, apply_ite memOf]

@[simp] theorem beginDrain_kept (s : State) (d : Nat) : restOf (beginDrain s d) = restOf s ∧ memOf (beginDrain s d) = memOf s := by
  simp [beginDrain, apply_ite restOf, apply_ite memOf]

@[simp] theorem settleDomain_kept (s : State) (d : Nat) : restOf (settleDomain s d) = restOf s ∧ memOf (settleDomain s d) = memOf s := by
  simp [settleDomain, apply_ite restOf, apply_ite memOf]

@[simp] theorem askRamp_kept (s : State) (d : Nat) : restOf (askRamp s d) = restOf s ∧ memOf (askRamp s d) = memOf s := by
  simp [askRamp, apply_ite restOf, apply_ite memOf]

@[simp] theorem dropRamp_kept (s : State) (g : Nat) : restOf (dropRamp s g) = restOf s ∧ memOf (dropRamp s g) = memOf s := by
  simp [dropRamp]

@[simp] theorem writeReq_kept (s : State) (d : Nat) (v : Bool) : restOf (writeReq s d v) = restOf s ∧ memOf (writeReq s d v) = memOf s := by
  unfold writeReq
  dsimp only
  (repeat' split) <;> simp

@[simp] theorem execDescriptorEnqueue_kept (x : Executor) (s : State) : restOf (after s (execDescriptorEnqueue x s)) = restOf s ∧ memOf (after s (execDescriptorEnqueue x s)) = memOf s := by
  unfold execDescriptorEnqueue
  simp only [after_next]
  refine ⟨?_, ?_⟩ <;> (repeat' split) <;> simp

@[simp] theorem execDescriptorWaitRegister_kept (x : Executor) (s : State) : restOf (after s (execDescriptorWaitRegister x s)) = restOf s ∧ memOf (after s (execDescriptorWaitRegister x s)) = memOf s := by
  unfold execDescriptorWaitRegister
  simp only [after_next]
  refine ⟨?_, ?_⟩ <;> (repeat' split) <;> simp

@[simp] theorem dropDomainParts_kept (s : State) (a : Active) : restOf (dropDomainParts s a) = restOf s ∧ memOf (dropDomainParts s a) = memOf s := by
  unfold dropDomainParts
  exact foldl_kept _ _ (fun s a => by split <;> simp) _ _ (by simp)

@[simp] theorem execWaitLimitExpiry_kept (id : Nat) (s : State) : restOf (after s (execWaitLimitExpiry id s)) = restOf s ∧ memOf (after s (execWaitLimitExpiry id s)) = memOf s := by
  unfold execWaitLimitExpiry
  simp only [after_next]
  refine ⟨?_, ?_⟩ <;> (repeat' split) <;> simp

@[simp] theorem beginDesc_kept (s : State) (x : Executor) (a : Active) : restOf (beginDesc s x a) = restOf s ∧ memOf (beginDesc s x a) = memOf s := by
  simp [beginDesc]

@[simp] theorem startKite_kept (s : State) (a : Active) : restOf (startKite s a) = restOf s ∧ memOf (startKite s a) = memOf s := by
  unfold startKite
  dsimp only
  (repeat' split) <;> simp

@[simp] theorem startSync_kept (s : State) (a : Active) : restOf (startSync s a) = restOf s ∧ memOf (startSync s a) = memOf s := by
  unfold startSync
  dsimp only
  (repeat' split) <;> simp

@[simp] theorem nextSeq_kept (s : State) (t : Nat) : restOf (nextSeq s t).2 = restOf s ∧ memOf (nextSeq s t).2 = memOf s := by
  simp [nextSeq]

@[simp] theorem startMeter_kept (s : State) (a : Active) : restOf (startMeter s a) = restOf s ∧ memOf (startMeter s a) = memOf s := by
  simp [startMeter]

@[simp] theorem startDesc_kept (s : State) (x : Executor) : restOf (startDesc s x) = restOf s := by
  unfold startDesc
  (repeat' split) <;> simp

@[simp] theorem execDescriptorStart_kept (x : Executor) (s : State) : restOf (after s (execDescriptorStart x s)) = restOf s := by
  simp [execDescriptorStart]

@[simp] theorem completeStarted_kept (s : State) (x : Executor) (ok : Active → Bool) : restOf (completeStarted s x ok) = restOf s ∧ memOf (completeStarted s x ok) = memOf s := by
  unfold completeStarted
  (repeat' split) <;> simp

@[simp] theorem execWorkComplete_kept (x : Executor) (s : State) : restOf (after s (execWorkComplete x s)) = restOf s := by
  unfold execWorkComplete
  simp only [after_next, viaHost_if]
  (repeat' split) <;> simp

@[simp] theorem readProgram_kept (n : Nat) (s : State) (rd : Reader) (region : Nat) (off : Nat) :
    restOf ((readProgram n s rd region off).2) = restOf s := by
  induction n generalizing s off with
  | zero => simp [readProgram]
  | succ k ih =>
    simp only [readProgram]
    (repeat' split) <;> simp [ih]

@[simp] theorem programHere_kept (s : State) (a : Active) (ws : List Word64) : restOf (programHere s a ws) = restOf s ∧ memOf (programHere s a ws) = memOf s := by
  simp [programHere, apply_ite restOf, apply_ite memOf]

@[simp] theorem execProgramFetchReturn_kept (id : Nat) (words : Option (List Word64)) (s : State) :
    restOf (after s (execProgramFetchReturn id words s)) = restOf s := by
  unfold execProgramFetchReturn
  simp only [after_next]
  split
  · rfl
  · split
    · rfl
    · split
      · (repeat' split) <;> simp
      · split <;> next h =>
          have h1 := congrArg (fun p => restOf p.2) h
          simp only [readProgram_kept] at h1
          simp [h1]

@[simp] theorem endEntering_kept (s : State) (x : Executor) (st : Status) : restOf (endEntering s x st) = restOf s ∧ memOf (endEntering s x st) = memOf s := by
  unfold endEntering
  exact foldl_kept _ _ (fun s a => by simp) _ _ (by simp)

@[simp] theorem endCoreWork_kept (s : State) (x : CoreId) (st : Status) : restOf (endCoreWork s x st) = restOf s ∧ memOf (endCoreWork s x st) = memOf s := by
  unfold endCoreWork
  exact foldl_kept _ _ (fun s a => by simp) _ _ (by simp)

@[simp] theorem drainCancelled_kept (s : State) (b : Nat) : restOf (drainCancelled s b) = restOf s := by
  unfold drainCancelled
  simp only [modUnit_kept]
  exact foldl_rest _ _ (fun s a => by simp) _

@[simp] theorem dropTen_kept (s : State) (t o value : Nat) : restOf (dropTen s t o value) = restOf s ∧ memOf (dropTen s t o value) = memOf s := by
  simp [dropTen]

@[simp] theorem writeMode_kept (s : State) (t : Nat) (mode : Bool) (value : Nat) : restOf (writeMode s t mode value) = restOf s ∧ memOf (writeMode s t mode value) = memOf s := by
  simp [writeMode, apply_ite restOf, apply_ite memOf]

@[simp] theorem createTenancy_kept (s : State) (t : Nat) (mode : Bool) : restOf (createTenancy s t mode) = restOf s ∧ memOf (createTenancy s t mode) = memOf s := by
  simp [createTenancy]

@[simp] theorem tenCtrlWrite_kept (s : State) (t : Nat) (mode en : Bool) (value : Nat) : restOf (tenCtrlWrite s t mode en value) = restOf s ∧ memOf (tenCtrlWrite s t mode en value) = memOf s := by
  simp [tenCtrlWrite, apply_ite restOf, apply_ite memOf]

@[simp] theorem execTenCtrlEnable_kept (ten : BitVec 8) (mode : Bool) (s : State) : restOf (after s (execTenCtrlEnable ten mode s)) = restOf s ∧ memOf (after s (execTenCtrlEnable ten mode s)) = memOf s := by
  unfold execTenCtrlEnable
  simp only [after_next, viaHost_if]
  refine ⟨?_, ?_⟩ <;> (repeat' split) <;> simp

@[simp] theorem execTenCtrlDisable_kept (ten : BitVec 8) (s : State) : restOf (after s (execTenCtrlDisable ten s)) = restOf s ∧ memOf (after s (execTenCtrlDisable ten s)) = memOf s := by
  unfold execTenCtrlDisable
  simp only [after_next, viaHost_if]
  refine ⟨?_, ?_⟩ <;> (repeat' split) <;> simp

@[simp] theorem execTenCtrlMode_kept (ten : BitVec 8) (mode : Bool) (s : State) : restOf (after s (execTenCtrlMode ten mode s)) = restOf s ∧ memOf (after s (execTenCtrlMode ten mode s)) = memOf s := by
  unfold execTenCtrlMode
  simp only [after_next, viaHost_if]
  refine ⟨?_, ?_⟩ <;> (repeat' split) <;> simp

@[simp] theorem setOwner_kept (s : State) (kind index : Nat) (o : Option Nat) : restOf (setOwner s kind index o) = restOf s ∧ memOf (setOwner s kind index o) = memOf s := by
  unfold setOwner
  (repeat' split) <;> simp

@[simp] theorem switchWrite_kept (s : State) (t kind index : Nat) (give : Bool) (value : Nat) : restOf (switchWrite s t kind index give value) = restOf s ∧ memOf (switchWrite s t kind index give value) = memOf s := by
  unfold switchWrite
  dsimp only
  (repeat' split) <;> simp

@[simp] theorem execTenTake_kept (ten : BitVec 8) (kind : BitVec 3) (index : BitVec 10) (s : State) : restOf (after s (execTenTake ten kind index s)) = restOf s ∧ memOf (after s (execTenTake ten kind index s)) = memOf s := by
  unfold execTenTake
  simp only [after_next, viaHost_if]
  refine ⟨?_, ?_⟩ <;> (repeat' split) <;> simp

@[simp] theorem execTenGive_kept (ten : BitVec 8) (kind : BitVec 3) (index : BitVec 10) (s : State) : restOf (after s (execTenGive ten kind index s)) = restOf s ∧ memOf (after s (execTenGive ten kind index s)) = memOf s := by
  unfold execTenGive
  simp only [after_next, viaHost_if]
  refine ⟨?_, ?_⟩ <;> (repeat' split) <;> simp

@[simp] theorem clearUnitSync_kept (s : State) (b : Nat) : restOf (clearUnitSync s b) = restOf s ∧ memOf (clearUnitSync s b) = memOf s := by
  simp [clearUnitSync]

@[simp] theorem cancelUnit_kept (s : State) (b : Nat) : restOf (cancelUnit s b) = restOf s := by
  simp [cancelUnit]

@[simp] theorem clearUnit_kept (s : State) (b : Nat) : restOf (clearUnit s b) = restOf s := by
  simp [clearUnit, apply_ite restOf, apply_ite memOf]

theorem eachUnit_rest (s : State) (g : Nat) (f : State → Nat → State) (h : ∀ t b, restOf (f t b) = restOf t) :
    restOf (eachUnit s g f) = restOf s := by
  unfold eachUnit
  exact foldl_rest _ _ (fun s a => h s _) _

@[simp] theorem clearBarriers_kept (s : State) (g old : Nat) : restOf (clearBarriers s g old) = restOf s ∧ memOf (clearBarriers s g old) = memOf s := by
  unfold clearBarriers
  refine foldl_kept _ _ (fun s a => ?_) _ _ ⟨rfl, rfl⟩
  dsimp only
  refine ite_kept _ _ _ ?_ ?_
  · simp only [breakBarrier_kept]; exact ite_kept _ _ _ (by simp) ⟨rfl, rfl⟩
  · exact ite_kept _ _ _ (by simp) ⟨rfl, rfl⟩

@[simp] theorem clearGroup_kept (s : State) (g old : Nat) : restOf (clearGroup s g old) = restOf s := by
  unfold clearGroup
  dsimp only
  refine (eachUnit_rest _ _ _ (fun t b => by simp)).trans ((clearBarriers_kept _ _ _).1.trans ?_)
  exact (eachUnit_rest _ _ _ (fun t b => by simp)).trans
    ((eachUnit_rest _ _ _ (fun t b => by simp)).trans (eachUnit_rest _ _ _ (fun t b => by simp)))

@[simp] theorem clearBlock_kept (s : State) (blk : Nat) : restOf (clearBlock s blk) = restOf s ∧ memOf (clearBlock s blk) = memOf s := by
  unfold clearBlock
  simp only [rest_mk, mem_mk, rest_fold, mem_fold, dropKites_kept]
  refine foldl_kept _ _ (fun s a => ?_) _ _
    (foldl_kept _ _ (fun s a => by simp) _ _ (foldl_kept _ _ (fun s a => by simp) _ _ (by simp)))
  refine ⟨?_, ?_⟩ <;> (repeat' split) <;> simp

@[simp] theorem clearBarrier_kept (s : State) (n : Nat) : restOf (clearBarrier s n) = restOf s ∧ memOf (clearBarrier s n) = memOf s := by
  unfold clearBarrier
  simp only [rest_mk, mem_mk, rest_fold, mem_fold, discardBarrier_kept]
  exact foldl_kept _ _ (fun s a => by simp) _ _ (by simp)

@[simp] theorem clearPress_kept (s : State) (e : Nat) (st : Status) : restOf (clearPress s e st) = restOf s ∧ memOf (clearPress s e st) = memOf s := by
  unfold clearPress
  simp only [setPress_kept, dropLanding_kept]
  refine foldl_kept _ _ (fun s a => by simp) _ _ ?_
  refine ⟨?_, ?_⟩ <;> split <;> simp

@[simp] theorem clearObject_kept (s : State) (kind index old : Nat) : restOf (clearObject s kind index old) = restOf s := by
  unfold clearObject
  (repeat' split) <;> simp

@[simp] theorem execSwitchDone_kept (ten : BitVec 8) (s : State) : restOf (after s (execSwitchDone ten s)) = restOf s := by
  unfold execSwitchDone
  simp only [after_next, viaHost_if]
  (repeat' split) <;> simp

@[simp] theorem dropXlat_kept (s : State) (t cmd : Nat) : restOf (dropXlat s t cmd) = restOf s ∧ memOf (dropXlat s t cmd) = memOf s := by
  simp [dropXlat]

@[simp] theorem xlatPend_kept (s : State) (t : Nat) (gone new : List XEntry) : restOf (xlatPend s t gone new) = restOf s ∧ memOf (xlatPend s t gone new) = memOf s := by
  simp [xlatPend]

theorem xlatCommand_kept (s : State) (t v : Nat) (go : State → State) (h : ∀ u, restOf (go u) = restOf u ∧ memOf (go u) = memOf u) :
    restOf (xlatCommand s t v go) = restOf s ∧ memOf (xlatCommand s t v go) = memOf s := by
  unfold xlatCommand
  refine ⟨?_, ?_⟩ <;> (repeat' split) <;> simp [h]

@[simp] theorem xlatWrite_kept (s : State) (t value : Nat) : restOf (xlatWrite s t value) = restOf s ∧ memOf (xlatWrite s t value) = memOf s := by
  simp [xlatWrite, apply_ite restOf, apply_ite memOf]

@[simp] theorem execXlatWrite_kept (ten : BitVec 8) (s : State) : restOf (after s (execXlatWrite ten s)) = restOf s ∧ memOf (after s (execXlatWrite ten s)) = memOf s := by
  unfold execXlatWrite
  simp only [after_next]
  refine viaHost_kept _ _ (xlatCommand_kept _ _ _ _ (fun t => ?_))
  refine ⟨?_, ?_⟩ <;> (repeat' split) <;> simp

@[simp] theorem xlatRead_kept (s : State) (t : Nat) : restOf (xlatRead s t) = restOf s ∧ memOf (xlatRead s t) = memOf s := by
  unfold xlatRead
  (repeat' split) <;> simp

@[simp] theorem execXlatRead_kept (ten : BitVec 8) (s : State) : restOf (after s (execXlatRead ten s)) = restOf s ∧ memOf (after s (execXlatRead ten s)) = memOf s := by
  unfold execXlatRead
  simp only [after_next]
  refine viaHost_kept _ _ (xlatCommand_kept _ _ _ _ (fun t => ?_))
  refine ⟨?_, ?_⟩ <;> (repeat' split) <;> simp

@[simp] theorem xlatInvalidate_kept (s : State) (t : Nat) : restOf (xlatInvalidate s t) = restOf s ∧ memOf (xlatInvalidate s t) = memOf s := by
  simp [xlatInvalidate, apply_ite restOf, apply_ite memOf]

@[simp] theorem execXlatInvalidate_kept (ten : BitVec 8) (s : State) : restOf (after s (execXlatInvalidate ten s)) = restOf s ∧ memOf (after s (execXlatInvalidate ten s)) = memOf s := by
  unfold execXlatInvalidate
  simp only [after_next]
  refine viaHost_kept _ _ (xlatCommand_kept _ _ _ _ (fun t => ?_))
  refine ⟨?_, ?_⟩ <;> (repeat' split) <;> simp

@[simp] theorem execXlatBusyClear_kept (ten : BitVec 8) (s : State) : restOf (after s (execXlatBusyClear ten s)) = restOf s ∧ memOf (after s (execXlatBusyClear ten s)) = memOf s := by
  unfold execXlatBusyClear
  simp only [after_next]
  refine ⟨?_, ?_⟩ <;> (repeat' split) <;> simp

@[simp] theorem meterFlagSet_kept (s : State) (t : Nat) : restOf (meterFlagSet s t) = restOf s ∧ memOf (meterFlagSet s t) = memOf s := by
  simp [meterFlagSet, apply_ite restOf, apply_ite memOf]

@[simp] theorem addMeter_kept (s : State) (t m n : Nat) : restOf (addMeter s t m n) = restOf s ∧ memOf (addMeter s t m n) = memOf s := by
  simp [addMeter, apply_ite restOf, apply_ite memOf]

@[simp] theorem addEnergy_kept (s : State) (t pj : Nat) : restOf (addEnergy s t pj) = restOf s ∧ memOf (addEnergy s t pj) = memOf s := by
  simp [addEnergy]

@[simp] theorem execMeterReport_kept (s : State) : restOf (after s (execMeterReport s)) = restOf s ∧ memOf (after s (execMeterReport s)) = memOf s := by
  unfold execMeterReport
  simp only [after_next]
  refine ⟨?_, ?_⟩ <;> (repeat' split) <;> simp

@[simp] theorem execMeterUsTick_kept  (s : State) : restOf (after s (execMeterUsTick s)) = restOf s ∧ memOf (after s (execMeterUsTick s)) = memOf s := by
  unfold execMeterUsTick
  simp only [after_next]
  exact foldl_kept _ _ (fun s a => by simp) _ _ (by simp)

@[simp] theorem execTenMeterClear_kept (ten : BitVec 8) (s : State) : restOf (after s (execTenMeterClear ten s)) = restOf s ∧ memOf (after s (execTenMeterClear ten s)) = memOf s := by
  unfold execTenMeterClear
  simp only [after_next, viaHost_if]
  refine ⟨?_, ?_⟩ <;> (repeat' split) <;> simp

@[simp] theorem execTenMeterSatWrite_kept (ten : BitVec 8) (value : BitVec 16) (s : State) : restOf (after s (execTenMeterSatWrite ten value s)) = restOf s ∧ memOf (after s (execTenMeterSatWrite ten value s)) = memOf s := by
  unfold execTenMeterSatWrite
  simp only [after_next, viaHost_if]
  refine ⟨?_, ?_⟩ <;> (repeat' split) <;> simp

@[simp] theorem execTenSnapGo_kept (ten : BitVec 8) (s : State) : restOf (after s (execTenSnapGo ten s)) = restOf s ∧ memOf (after s (execTenSnapGo ten s)) = memOf s := by
  unfold execTenSnapGo
  simp only [after_next, viaHost_if]
  refine ⟨?_, ?_⟩ <;> (repeat' split) <;> simp

@[simp] theorem ringEnabled_kept (s : State) (t j : Nat) : restOf (ringEnabled s t j) = restOf s ∧ memOf (ringEnabled s t j) = memOf s := by
  simp [ringEnabled, apply_ite restOf, apply_ite memOf]

@[simp] theorem ringCtrl_kept (s : State) (t j log2 : Nat) (enable : Bool) (value : Nat) : restOf (ringCtrl s t j log2 enable value) = restOf s ∧ memOf (ringCtrl s t j log2 enable value) = memOf s := by
  simp [ringCtrl, apply_ite restOf, apply_ite memOf]

@[simp] theorem execRingEnable_kept (ten : BitVec 8) (j : BitVec 3) (log2 : BitVec 5) (s : State) : restOf (after s (execRingEnable ten j log2 s)) = restOf s ∧ memOf (after s (execRingEnable ten j log2 s)) = memOf s := by
  unfold execRingEnable
  simp only [after_next, viaHost_if]
  refine ⟨?_, ?_⟩ <;> (repeat' split) <;> simp

@[simp] theorem execRingDisable_kept (ten : BitVec 8) (j : BitVec 3) (log2 : BitVec 5) (s : State) : restOf (after s (execRingDisable ten j log2 s)) = restOf s ∧ memOf (after s (execRingDisable ten j log2 s)) = memOf s := by
  unfold execRingDisable
  simp only [after_next, viaHost_if]
  refine ⟨?_, ?_⟩ <;> (repeat' split) <;> simp

@[simp] theorem logClk_kept (s : State) (level num : Nat) : restOf (logClk s level num) = restOf s ∧ memOf (logClk s level num) = memOf s := by
  simp [logClk]

@[simp] theorem logPwr_kept (s : State) (level num d : Nat) : restOf (logPwr s level num d) = restOf s ∧ memOf (logPwr s level num d) = memOf s := by
  simp [logPwr]

@[simp] theorem portsDown_kept (s : State) : restOf (portsDown s) = restOf s ∧ memOf (portsDown s) = memOf s := by
  simp [portsDown]

@[simp] theorem hostLinkDown_kept (s : State) : restOf (hostLinkDown s) = restOf s ∧ memOf (hostLinkDown s) = memOf s := by
  simp [hostLinkDown, apply_ite restOf, apply_ite memOf]

@[simp] theorem hostLinkUp_kept (s : State) : restOf (hostLinkUp s) = restOf s ∧ memOf (hostLinkUp s) = memOf s := by
  simp [hostLinkUp, apply_ite restOf, apply_ite memOf]

@[simp] theorem enterCoast_kept (s : State) : restOf (enterCoast s) = restOf s ∧ memOf (enterCoast s) = memOf s := by
  simp [enterCoast]

@[simp] theorem execRefclkLost_kept (s : State) : restOf (after s (execRefclkLost s)) = restOf s ∧ memOf (after s (execRefclkLost s)) = memOf s := by
  unfold execRefclkLost
  simp only [after_next]
  refine ⟨?_, ?_⟩ <;> (repeat' split) <;> simp

@[simp] theorem execRefGood_kept (s : State) : restOf (after s (execRefGood s)) = restOf s ∧ memOf (after s (execRefGood s)) = memOf s := by
  unfold execRefGood
  simp only [after_next]
  refine ⟨?_, ?_⟩ <;> (repeat' split) <;> simp

@[simp] theorem relockRequest_kept (s : State) : restOf (relockRequest s) = restOf s ∧ memOf (relockRequest s) = memOf s := by
  simp [relockRequest, apply_ite restOf, apply_ite memOf]

@[simp] theorem firstLock_kept (s : State) : restOf (firstLock s) = restOf s ∧ memOf (firstLock s) = memOf s := by
  simp [firstLock]

@[simp] theorem endCoast_kept (s : State) : restOf (endCoast s) = restOf s ∧ memOf (endCoast s) = memOf s := by
  simp [endCoast, apply_ite restOf, apply_ite memOf]

@[simp] theorem execPllLock_kept (s : State) : restOf (after s (execPllLock s)) = restOf s ∧ memOf (after s (execPllLock s)) = memOf s := by
  unfold execPllLock
  simp only [after_next]
  refine ⟨?_, ?_⟩ <;> (repeat' split) <;> simp

@[simp] theorem execRelockSwitch_kept (s : State) : restOf (after s (execRelockSwitch s)) = restOf s ∧ memOf (after s (execRelockSwitch s)) = memOf s := by
  unfold execRelockSwitch
  simp only [after_next]
  refine ⟨?_, ?_⟩ <;> (repeat' split) <;> simp

@[simp] theorem execRefclkStartTimeout_kept (s : State) : restOf (after s (execRefclkStartTimeout s)) = restOf s ∧ memOf (after s (execRefclkStartTimeout s)) = memOf s := by
  unfold execRefclkStartTimeout
  simp only [after_next]
  refine ⟨?_, ?_⟩ <;> (repeat' split) <;> simp

@[simp] theorem execBypassClose_kept (stack : BitVec 3) (s : State) : restOf (after s (execBypassClose stack s)) = restOf s ∧ memOf (after s (execBypassClose stack s)) = memOf s := by
  unfold execBypassClose
  simp only [after_next]
  refine ⟨?_, ?_⟩ <;> (repeat' split) <;> simp

@[simp] theorem execBypassReopen_kept (stack : BitVec 3) (s : State) : restOf (after s (execBypassReopen stack s)) = restOf s ∧ memOf (after s (execBypassReopen stack s)) = memOf s := by
  unfold execBypassReopen
  simp only [after_next]
  refine ⟨?_, ?_⟩ <;> (repeat' split) <;> simp

@[simp] theorem execDomainMinOffExpiry_kept (dom : BitVec 9) (s : State) : restOf (after s (execDomainMinOffExpiry dom s)) = restOf s ∧ memOf (after s (execDomainMinOffExpiry dom s)) = memOf s := by
  unfold execDomainMinOffExpiry
  simp only [after_next]
  refine ⟨?_, ?_⟩ <;> (repeat' split) <;> simp

@[simp] theorem execDomainRampDone_kept (dom : BitVec 9) (s : State) : restOf (after s (execDomainRampDone dom s)) = restOf s ∧ memOf (after s (execDomainRampDone dom s)) = memOf s := by
  unfold execDomainRampDone
  simp only [after_next]
  refine ⟨?_, ?_⟩ <;> (repeat' split) <;> simp

@[simp] theorem unitOff_kept (s : State) (b : Nat) : restOf (unitOff s b) = restOf s ∧ memOf (unitOff s b) = memOf s := by
  simp [unitOff]

@[simp] theorem pressOff_kept (s : State) (e : Nat) : restOf (pressOff s e) = restOf s ∧ memOf (pressOff s e) = memOf s := by
  unfold pressOff
  simp only [setPress_kept, dropLanding_kept]
  exact foldl_kept _ _ (fun s a => foldl_kept _ _ (fun s a => by simp) _ _ ⟨rfl, rfl⟩) _ _ ⟨rfl, rfl⟩

@[simp] theorem domainOff_kept (s : State) (d : Nat) : restOf (domainOff s d) = restOf s ∧ memOf (domainOff s d) = memOf s := by
  unfold domainOff
  simp only [setDom_kept]
  exact ite_kept _ _ _ (foldl_kept _ _ (fun s a => by simp) _ _ ⟨rfl, rfl⟩)
    (ite_kept _ _ _ (by simp) (ite_kept _ _ _ (by simp) ⟨rfl, rfl⟩))

@[simp] theorem execDomainDrained_kept (dom : BitVec 9) (s : State) : restOf (after s (execDomainDrained dom s)) = restOf s ∧ memOf (after s (execDomainDrained dom s)) = memOf s := by
  unfold execDomainDrained
  simp only [after_next]
  refine ⟨?_, ?_⟩ <;> (repeat' split) <;> simp

@[simp] theorem abortDomain_kept (s : State) (d : Nat) : restOf (abortDomain s d) = restOf s := by
  unfold abortDomain
  split
  · exact foldl_rest _ _ (fun s a => by simp) _
  · split
    · dsimp only
      split <;> simp
    · (repeat' split) <;> simp

@[simp] theorem execDrainLimitExpiry_kept (dom : BitVec 9) (s : State) : restOf (after s (execDrainLimitExpiry dom s)) = restOf s := by
  unfold execDrainLimitExpiry
  simp only [after_next, viaHost_if]
  (repeat' split) <;> simp

@[simp] theorem execPowerSample_kept (power volts : BitVec 16) (s : State) : restOf (after s (execPowerSample power volts s)) = restOf s ∧ memOf (after s (execPowerSample power volts s)) = memOf s := by
  unfold execPowerSample
  simp only [after_next]
  refine ⟨?_, ?_⟩ <;> (repeat' split) <;> simp

@[simp] theorem execCapLoopTick_ident  (s : State) : identOf (after s (execCapLoopTick s)) = identOf s ∧ memOf (after s (execCapLoopTick s)) = memOf s := by
  unfold execCapLoopTick
  simp only [after_next]
  have h : identOf (settleRuns (nextMultiple s (100 * Config.us))) = identOf s := identOf_of_rest (by simp)
  refine ⟨ite_ident _ _ _ rfl (ite_ident _ _ _ ((identOf_of_rest (logPwr_kept _ _ _ _).1).trans ((ident_pwr _ _).trans h))
    ((ident_pwr _ _).trans h)), ?_⟩
  (repeat' split) <;> simp

@[simp] theorem stopWork_kept (s : State) : restOf (stopWork s) = restOf s := by
  unfold stopWork
  exact foldl_rest _ _ (fun s a => by simp) _

@[simp] theorem clearCore_ident (s : State) : identOf (clearCore s) = identOf s := by
  unfold clearCore
  simp [identOf, restOf, -rest_fold]
  have h := stopWork_kept s
  simp only [restOf, Prod.mk.injEq] at h
  simp [h, draw]

@[simp] theorem logReset_kept (s : State) (kind : Nat) : restOf (logReset s kind) = restOf s ∧ memOf (logReset s kind) = memOf s := by
  simp [logReset]

@[simp] theorem rejoin_kept (s : State) : restOf (rejoin s) = restOf s ∧ memOf (rejoin s) = memOf s := by
  simp [rejoin, apply_ite restOf, apply_ite memOf]

@[simp] theorem warmReset_ident (s : State) (memClr : Bool) : identOf (warmReset s memClr) = identOf s := by
  unfold warmReset
  have h := clearCore_ident (hostLinkDown s)
  simp only [identOf, logReset_kept, rejoin_kept, rest_mk, rest_fold, hostLinkDown_kept] at h ⊢
  exact h

@[simp] theorem coldReset_ident (s : State) : identOf (coldReset s) = identOf s := by
  unfold coldReset
  have h0 := (hostLinkDown_kept s).1
  have h := clearCore_ident (hostLinkDown s)
  simp only [identOf, logReset_kept, rest_mk]
  simp only [identOf, restOf, Prod.mk.injEq] at h h0 ⊢
  exact ⟨h.1.trans h0.1, h.2.1.trans h0.2.1, h.2.2.trans h0.2.2.1⟩

@[simp] theorem powerOff_ident (s : State) : identOf (powerOff s) = identOf s := by
  unfold powerOff
  have h0 := (hostLinkDown_kept s).1
  simp only [identOf, restOf, Prod.mk.injEq] at h0 ⊢
  exact ⟨h0.1, h0.2.1, h0.2.2.1⟩

@[simp] theorem powerOn_ident (s : State) : identOf (powerOn s) = identOf s := by
  rfl

@[simp] theorem logTherm_kept (s : State) (level num src : Nat) (reading : Int) (old new second : Nat) (second' : Int) : restOf (logTherm s level num src reading old new second second') = restOf s ∧ memOf (logTherm s level num src reading old new second second') = memOf s := by
  simp [logTherm]

@[simp] theorem takeSample_ident (s : State) (rs : List (BitVec 12)) : identOf (takeSample s rs) = identOf s ∧ memOf (takeSample s rs) = memOf s := by
  unfold takeSample
  extract_lets counts fresh failed values readings kept th t
  have h := foldl_kept fresh (fun s i => logTherm s 2 0x02 (srcNum 0xD i) (sampleOf rs i) 0 0 0 0) (fun s a => by simp) t t ⟨rfl, rfl⟩
  refine ⟨?_, ?_⟩
  · rw [identOf_of_rest h.1]; rfl
  · rw [h.2]; rfl

@[simp] theorem judgeStack_ident (s : State) (k : Nat) : identOf (judgeStack s k) = identOf s ∧ memOf (judgeStack s k) = memOf s := by
  unfold judgeStack
  have hl : ∀ t lv nu sr a b c d e, identOf (logTherm t lv nu sr a b c d e) = identOf t ∧ memOf (logTherm t lv nu sr a b c d e) = memOf t :=
    fun t lv nu sr a b c d e => ⟨identOf_of_rest (by simp), by simp⟩
  dsimp only
  refine ⟨?_, ?_⟩ <;> (repeat' split) <;> simp [hl]

@[simp] theorem throttleRecord_kept (s : State) (ks : List Nat) (fraction band at_ : Nat) : restOf (throttleRecord s ks fraction band at_) = restOf s ∧ memOf (throttleRecord s ks fraction band at_) = memOf s := by
  unfold throttleRecord
  exact foldl_kept _ _ (fun s a => by split <;> simp) _ _ ⟨rfl, rfl⟩

@[simp] theorem applyTether_ident (s : State) : identOf (applyTether s) = identOf s ∧ memOf (applyTether s) = memOf s := by
  unfold applyTether
  extract_lets ys t recs
  have h := foldl_kept recs (fun s r => throttleRecord s ((List.range 8).filter (fun k => match ys[k]? with
      | some (y, some q) => (q.1, y.tband, q.2) == r
      | _ => false)) r.1 r.2.1 r.2.2) (fun s a => by simp) t t ⟨rfl, rfl⟩
  refine ⟨(identOf_of_rest h.1).trans ?_, h.2.trans ?_⟩
  · exact foldl_ident _ _ (fun s a => by simp) _
  · exact foldl_mem _ _ (fun s a => by simp) _

@[simp] theorem haltCore_kept (s : State) (x : CoreId) : restOf (haltCore s x) = restOf s ∧ memOf (haltCore s x) = memOf s := by
  unfold haltCore
  exact ite_kept _ _ _ (foldl_kept _ _ (fun s a => by simp) _ _ (by simp)) ⟨rfl, rfl⟩

@[simp] theorem haltDecant_kept (s : State) (e : Nat) : restOf (haltDecant s e) = restOf s := by
  unfold haltDecant
  refine (foldl_rest _ _ (fun s a => by simp) _).trans ?_
  split <;> simp

@[simp] theorem haltAll_kept (s : State) : restOf (haltAll s) = restOf s := by
  unfold haltAll
  extract_lets t1 t2 t3
  have h1 : restOf t1 = restOf s := foldl_rest _ _ (fun s a => by simp) _
  have h2 : restOf t2 = restOf s := (foldl_rest _ _ (fun s a => by simp) _).trans h1
  have h3 : restOf t3 = restOf s := by
    simp only [t3]; split <;> simp [h2]
  split
  · exact (foldl_rest _ _ (fun s a => by simp) _).trans ((foldl_rest _ _ (fun s a => by simp) _).trans h3)
  · exact h3

@[simp] theorem shutDown_ident (s : State) (i j : Nat) : identOf (shutDown s i j) = identOf s := by
  unfold shutDown
  exact (ident_upd _ _ _ _ _).trans ((clearCore_ident _).trans (identOf_of_rest (by simp)))

@[simp] theorem logSingles_kept (s : State) (old : SMap Int) : restOf (logSingles s old) = restOf s ∧ memOf (logSingles s old) = memOf s := by
  unfold logSingles
  exact foldl_kept _ _ (fun s a => by split <;> simp) _ _ ⟨rfl, rfl⟩

@[simp] theorem raiseEvent_kept (s : State) : restOf (raiseEvent s) = restOf s ∧ memOf (raiseEvent s) = memOf s := by
  simp [raiseEvent, apply_ite restOf, apply_ite memOf]

@[simp] theorem sensorEvent_kept (s : State) : restOf (sensorEvent s) = restOf s ∧ memOf (sensorEvent s) = memOf s := by
  simp [sensorEvent, apply_ite restOf, apply_ite memOf]

@[simp] theorem execSensorSample_ident (readings : List (BitVec 12)) (s : State) : identOf (after s (execSensorSample readings s)) = identOf s := by
  unfold execSensorSample
  simp only [after_next]
  split
  · rfl
  · generalize hu : advanceTo s (s.elapsed + (100 * Config.us - s.time % (100 * Config.us))) = u
    have h0 : identOf u = identOf s := by
      rw [← hu]; exact identOf_of_rest (advanceTo_kept _ _).1
    have h : identOf (sensorEvent (takeSample u readings)) = identOf s :=
      (identOf_of_rest (sensorEvent_kept _).1).trans ((takeSample_ident u readings).1.trans h0)
    split
    · exact h
    · split
      · refine (shutDown_ident _ _ _).trans ?_
        refine (foldl_ident _ _ (fun s a => (judgeStack_ident s a).1) _).trans ?_
        exact (identOf_of_rest (settleRuns_kept _).1).trans ((identOf_of_rest (logSingles_kept _ _).1).trans h)
      · refine (identOf_of_rest (haltAll_kept _)).trans ((applyTether_ident _).1.trans ?_)
        refine (foldl_ident _ _ (fun s a => (judgeStack_ident s a).1) _).trans ?_
        exact (identOf_of_rest (settleRuns_kept _).1).trans ((identOf_of_rest (logSingles_kept _ _).1).trans h)

@[simp] theorem execEnforceAtReached_ident (stack : BitVec 3) (s : State) : identOf (after s (execEnforceAtReached stack s)) = identOf s ∧ memOf (after s (execEnforceAtReached stack s)) = memOf s := by
  unfold execEnforceAtReached
  simp only [after_next]
  split
  · next due level h =>
    refine ⟨(setThm_ident _ _ _).1.trans ?_, (setThm_ident _ _ _).2.1.trans ?_⟩
    · exact (identOf_of_rest (settleRuns_kept _).1).trans (identOf_of_rest (advanceTo_kept _ _).1)
    · simp
  · exact ⟨rfl, rfl⟩

@[simp] theorem logWindow_kept (s : State) (num : Nat) : restOf (logWindow s num) = restOf s ∧ memOf (logWindow s num) = memOf s := by
  simp [logWindow]

@[simp] theorem execPowerGood_ident  (s : State) : identOf (after s (execPowerGood s)) = identOf s := by
  unfold execPowerGood
  simp only [after_next]
  split
  · exact powerOn_ident s
  · rfl

@[simp] theorem execPowerLoss_ident  (s : State) : identOf (after s (execPowerLoss s)) = identOf s := by
  unfold execPowerLoss
  simp only [after_next]
  exact ite_ident _ _ _ rfl (ite_ident _ _ _ ((identOf_of_rest (emit_kept _ _).1).trans (powerOff_ident s)) (powerOff_ident s))

@[simp] theorem stepFailed_kept (s : State) (step cause : Nat) : restOf (stepFailed s step cause) = restOf s ∧ memOf (stepFailed s step cause) = memOf s := by
  simp [stepFailed]

@[simp] theorem execRailsUp_kept (ok : Bool) (s : State) : restOf (after s (execRailsUp ok s)) = restOf s ∧ memOf (after s (execRailsUp ok s)) = memOf s := by
  unfold execRailsUp
  simp only [after_next]
  refine ⟨?_, ?_⟩ <;> (repeat' split) <;> simp

@[simp] theorem execRomDone_kept (s : State) : restOf (after s (execRomDone s)) = restOf s ∧ memOf (after s (execRomDone s)) = memOf s := by
  unfold execRomDone
  simp only [after_next]
  refine ⟨?_, ?_⟩ <;> (repeat' split) <;> simp

@[simp] theorem storeDir_kept (s : State) (d : Bool × Bool × Bool) : restOf (storeDir s d) = restOf s ∧ memOf (storeDir s d) = memOf s := by
  simp [storeDir, apply_ite restOf, apply_ite memOf]

@[simp] theorem writeDir_kept (s : State) (d : Bool × Bool × Bool) : restOf (writeDir s d) = restOf s ∧ memOf (writeDir s d) = memOf s := by
  simp [writeDir, apply_ite restOf, apply_ite memOf]

@[simp] theorem trialStep_kept (s : State) : restOf (trialStep s) = restOf s ∧ memOf (trialStep s) = memOf s := by
  unfold trialStep
  (repeat' split) <;> simp

@[simp] theorem slotInvalid_kept (s : State) (b : Bool) : restOf (slotInvalid s b) = restOf s ∧ memOf (slotInvalid s b) = memOf s := by
  unfold slotInvalid
  (repeat' split) <;> simp

@[simp] theorem startFirmware_kept (s : State) (b fallback : Bool) : restOf (startFirmware s b fallback) = restOf s ∧ memOf (startFirmware s b fallback) = memOf s := by
  simp [startFirmware]

@[simp] theorem execFirmwareVerify_kept (s : State) : restOf (after s (execFirmwareVerify s)) = restOf s ∧ memOf (after s (execFirmwareVerify s)) = memOf s := by
  unfold execFirmwareVerify
  simp only [after_next]
  refine ⟨?_, ?_⟩ <;> (repeat' split) <;> simp

@[simp] theorem execDirectoryWriteRetry_kept (s : State) : restOf (after s (execDirectoryWriteRetry s)) = restOf s ∧ memOf (after s (execDirectoryWriteRetry s)) = memOf s := by
  unfold execDirectoryWriteRetry
  simp only [after_next]
  refine ⟨?_, ?_⟩ <;> (repeat' split) <;> simp

@[simp] theorem setRwl_kept (s : State) (off : Nat) (v : Word64) : restOf (setRwl s off v) = restOf s ∧ memOf (setRwl s off v) = memOf s := by
  simp [setRwl]

@[simp] theorem loadProvision_kept (s : State) : restOf (loadProvision s) = restOf s ∧ memOf (loadProvision s) = memOf s := by
  unfold loadProvision
  simp only [rest_mk, mem_mk, rest_fold, mem_fold]
  exact foldl_kept _ _ (fun s a => by simp) _ _ ⟨rfl, rfl⟩

@[simp] theorem setMemActive_kept (s : State) : restOf (setMemActive s) = restOf s ∧ memOf (setMemActive s) = memOf s := by
  simp [setMemActive]

@[simp] theorem execLinkTrainingDone_kept (failed : Option (BitVec 3 × Bool)) (s : State) : restOf (after s (execLinkTrainingDone failed s)) = restOf s ∧ memOf (after s (execLinkTrainingDone failed s)) = memOf s := by
  unfold execLinkTrainingDone
  simp only [after_next]
  refine ⟨?_, ?_⟩ <;> (repeat' split) <;> simp

@[simp] theorem zeroMemory_kept (s : State) : restOf (zeroMemory s) = restOf s := by
  simp [zeroMemory]

@[simp] theorem initFailed_kept (s : State) (failed : Option (BitVec 12)) : restOf (initFailed s failed) = restOf s ∧ memOf (initFailed s failed) = memOf s := by
  unfold initFailed
  (repeat' split) <;> simp

@[simp] theorem endInit_kept (s : State) : restOf (endInit s) = restOf s ∧ memOf (endInit s) = memOf s := by
  simp [endInit]

@[simp] theorem execMemoryInit_kept (failed : Option (BitVec 12)) (s : State) : restOf (after s (execMemoryInit failed s)) = restOf s := by
  unfold execMemoryInit
  simp only [after_next, viaHost_if]
  (repeat' split) <;> simp

@[simp] theorem stepEight_kept (s : State) : restOf (stepEight s) = restOf s ∧ memOf (stepEight s) = memOf s := by
  simp [stepEight, apply_ite restOf, apply_ite memOf]

@[simp] theorem execCxlTrainDone_kept (ok : Bool) (s : State) : restOf (after s (execCxlTrainDone ok s)) = restOf s ∧ memOf (after s (execCxlTrainDone ok s)) = memOf s := by
  unfold execCxlTrainDone
  simp only [after_next]
  refine ⟨?_, ?_⟩ <;> (repeat' split) <;> simp

@[simp] theorem execFeatCtrlGo_kept (s : State) : restOf (after s (execFeatCtrlGo s)) = restOf s ∧ memOf (after s (execFeatCtrlGo s)) = memOf s := by
  unfold execFeatCtrlGo
  simp only [after_next, viaHost_if]
  refine ⟨?_, ?_⟩ <;> (repeat' split) <;> simp

@[simp] theorem execHdmDecoderCommit_kept (ways : Nat) (s : State) : restOf (after s (execHdmDecoderCommit ways s)) = restOf s ∧ memOf (after s (execHdmDecoderCommit ways s)) = memOf s := by
  unfold execHdmDecoderCommit
  simp only [after_next, viaHost_if]
  refine ⟨?_, ?_⟩ <;> (repeat' split) <;> simp

@[simp] theorem execPerstAssert_ident  (s : State) : identOf (after s (execPerstAssert s)) = identOf s := by
  unfold execPerstAssert
  simp only [after_next]
  split
  · rfl
  · generalize hu : hostLinkDown (advanceTo { s with boot := { s.boot with perst := true } } (s.elapsed + 100 * Config.us)) = u
    have h0 : identOf u = identOf s := by
      rw [← hu]
      exact (identOf_of_rest (hostLinkDown_kept _).1).trans ((identOf_of_rest (advanceTo_kept _ _).1).trans rfl)
    split
    · exact (coldReset_ident _).trans h0
    · exact h0

@[simp] theorem execPerstDeassert_kept (s : State) : restOf (after s (execPerstDeassert s)) = restOf s ∧ memOf (after s (execPerstDeassert s)) = memOf s := by
  simp [execPerstDeassert]

@[simp] theorem warmIfUp_ident (s : State) (memClr : Bool) : identOf (warmIfUp s memClr) = identOf s := by
  unfold warmIfUp
  split
  · exact warmReset_ident s memClr
  · rfl

@[simp] theorem execWarmReset_ident (memClr : Bool) (s : State) : identOf (after s (execWarmReset memClr s)) = identOf s := by
  unfold execWarmReset
  simp only [after_next]
  exact warmIfUp_ident s memClr

@[simp] theorem execFunctionLevelReset_kept (s : State) : restOf (after s (execFunctionLevelReset s)) = restOf s ∧ memOf (after s (execFunctionLevelReset s)) = memOf s := by
  simp [execFunctionLevelReset]

@[simp] theorem writeRegionCtrl_kept (s : State) (n : Nat) (v : Word64) : restOf (writeRegionCtrl s n v) = restOf s ∧ memOf (writeRegionCtrl s n v) = memOf s := by
  unfold writeRegionCtrl
  dsimp only
  (repeat' split) <;> simp

@[simp] theorem writeRegionField_kept (s : State) (n o : Nat) (v : Word64) (f : Region → Region) : restOf (writeRegionField s n o v f) = restOf s ∧ memOf (writeRegionField s n o v f) = memOf s := by
  simp [writeRegionField, apply_ite restOf, apply_ite memOf]

@[simp] theorem execRegionValidate_kept (n : BitVec 6) (value : Word64) (s : State) : restOf (after s (execRegionValidate n value s)) = restOf s ∧ memOf (after s (execRegionValidate n value s)) = memOf s := by
  unfold execRegionValidate
  simp only [after_next, viaHost_if]
  refine ⟨?_, ?_⟩ <;> (repeat' split) <;> simp

@[simp] theorem execRegionInvalidate_kept (n : BitVec 6) (value : Word64) (s : State) : restOf (after s (execRegionInvalidate n value s)) = restOf s ∧ memOf (after s (execRegionInvalidate n value s)) = memOf s := by
  unfold execRegionInvalidate
  simp only [after_next, viaHost_if]
  refine ⟨?_, ?_⟩ <;> (repeat' split) <;> simp

@[simp] theorem writeSplit_kept (s : State) (v : Nat) : restOf (writeSplit s v) = restOf s ∧ memOf (writeSplit s v) = memOf s := by
  simp [writeSplit, apply_ite restOf, apply_ite memOf]

@[simp] theorem execLinearSplitWrite_kept (value : BitVec 6) (s : State) : restOf (after s (execLinearSplitWrite value s)) = restOf s ∧ memOf (after s (execLinearSplitWrite value s)) = memOf s := by
  unfold execLinearSplitWrite
  simp only [after_next, viaHost_if]
  refine ⟨?_, ?_⟩ <;> (repeat' split) <;> simp

@[simp] theorem clearEcc_kept (s : State) : restOf (clearEcc s) = restOf s ∧ memOf (clearEcc s) = memOf s := by
  simp [clearEcc]

@[simp] theorem execRgnEccClear_kept (s : State) : restOf (after s (execRgnEccClear s)) = restOf s ∧ memOf (after s (execRgnEccClear s)) = memOf s := by
  unfold execRgnEccClear
  simp only [after_next, viaHost_if]
  refine ⟨?_, ?_⟩ <;> (repeat' split) <;> simp

@[simp] theorem writeRetireRow_kept (s : State) (r : Nat) (v : Word64) : restOf (writeRetireRow s r v) = restOf s ∧ memOf (writeRetireRow s r v) = memOf s := by
  simp [writeRetireRow]

@[simp] theorem execRetireRowWrite_kept (r : BitVec 10) (value : Word64) (s : State) : restOf (after s (execRetireRowWrite r value s)) = restOf s ∧ memOf (after s (execRetireRowWrite r value s)) = memOf s := by
  unfold execRetireRowWrite
  simp only [after_next, viaHost_if]
  refine ⟨?_, ?_⟩ <;> (repeat' split) <;> simp

@[simp] theorem retireUnit_kept (s : State) (b : Nat) : restOf (retireUnit s b) = restOf s := by
  simp [retireUnit]

@[simp] theorem returnUnit_kept (s : State) (b : Nat) : restOf (returnUnit s b) = restOf s ∧ memOf (returnUnit s b) = memOf s := by
  simp [returnUnit, apply_ite restOf, apply_ite memOf]

@[simp] theorem writeBankBit_kept (s : State) (w i : Nat) (v : Word64) : restOf (writeBankBit s w i v) = restOf s := by
  simp [writeBankBit, apply_ite restOf, apply_ite memOf]

@[simp] theorem writeRetireBank_kept (s : State) (w : Nat) (v : Word64) : restOf (writeRetireBank s w v) = restOf s := by
  unfold writeRetireBank
  dsimp only
  have h : restOf ((List.range 64).foldl (fun s i => writeBankBit s w i v) s) = restOf s := foldl_rest _ _ (fun s a => by simp) _
  (repeat' split) <;> simp [h]

@[simp] theorem execRetireBankWrite_kept (w : BitVec 6) (value : Word64) (s : State) : restOf (after s (execRetireBankWrite w value s)) = restOf s := by
  unfold execRetireBankWrite
  simp only [after_next, viaHost_if]
  (repeat' split) <;> simp

@[simp] theorem writeReqs_kept (s : State) (w : Nat) (m v : Word64) : restOf (writeReqs s w m v) = restOf s ∧ memOf (writeReqs s w m v) = memOf s := by
  unfold writeReqs
  exact foldl_kept _ _ (fun s a => by split <;> simp) _ _ ⟨rfl, rfl⟩

@[simp] theorem execPwrDomReqWrite_kept (w : BitVec 3) (value : Word64) (s : State) : restOf (after s (execPwrDomReqWrite w value s)) = restOf s ∧ memOf (after s (execPwrDomReqWrite w value s)) = memOf s := by
  unfold execPwrDomReqWrite
  simp only [after_next, viaHost_if]
  refine ⟨?_, ?_⟩ <;> (repeat' split) <;> simp

@[simp] theorem writeHome_kept (s : State) (blk v : Nat) : restOf (writeHome s blk v) = restOf s ∧ memOf (writeHome s blk v) = memOf s := by
  simp [writeHome, apply_ite restOf, apply_ite memOf]

@[simp] theorem execSynBlockHomeWrite_kept (blk : BitVec 8) (value : BitVec 4) (s : State) : restOf (after s (execSynBlockHomeWrite blk value s)) = restOf s ∧ memOf (after s (execSynBlockHomeWrite blk value s)) = memOf s := by
  unfold execSynBlockHomeWrite
  simp only [after_next, viaHost_if]
  refine ⟨?_, ?_⟩ <;> (repeat' split) <;> simp

@[simp] theorem writeDebug_kept (s : State) (v : Word64) : restOf (writeDebug s v) = restOf s ∧ memOf (writeDebug s v) = memOf s := by
  simp [writeDebug]

@[simp] theorem execSynDbgSelect_kept (value : Word64) (s : State) : restOf (after s (execSynDbgSelect value s)) = restOf s ∧ memOf (after s (execSynDbgSelect value s)) = memOf s := by
  unfold execSynDbgSelect
  simp only [after_next, viaHost_if]
  refine ⟨?_, ?_⟩ <;> (repeat' split) <;> simp

@[simp] theorem execSynDbgSnapshotReady_kept (s : State) : restOf (after s (execSynDbgSnapshotReady s)) = restOf s ∧ memOf (after s (execSynDbgSnapshotReady s)) = memOf s := by
  unfold execSynDbgSnapshotReady
  simp only [after_next]
  refine ⟨?_, ?_⟩ <;> (repeat' split) <;> simp

@[simp] theorem execSynKiteFree_kept (k : BitVec 12) (s : State) : restOf (after s (execSynKiteFree k s)) = restOf s ∧ memOf (after s (execSynKiteFree k s)) = memOf s := by
  unfold execSynKiteFree
  simp only [after_next, viaHost_if]
  refine ⟨?_, ?_⟩ <;> (repeat' split) <;> simp

@[simp] theorem writeTrace_kept (s : State) (v : Word64) : restOf (writeTrace s v) = restOf s ∧ memOf (writeTrace s v) = memOf s := by
  simp [writeTrace, apply_ite restOf, apply_ite memOf]

@[simp] theorem execTraceEnable_kept (value : Word64) (s : State) : restOf (after s (execTraceEnable value s)) = restOf s ∧ memOf (after s (execTraceEnable value s)) = memOf s := by
  unfold execTraceEnable
  simp only [after_next, viaHost_if]
  refine ⟨?_, ?_⟩ <;> (repeat' split) <;> simp


@[simp] theorem storeRw_kept (s : State) (off : Nat) (m v : Word64) : restOf (storeRw s off m v) = restOf s ∧ memOf (storeRw s off m v) = memOf s := by
  simp [storeRw, apply_ite restOf, apply_ite memOf]

@[simp] theorem storeRwl_kept (s : State) (off : Nat) (m v : Word64) : restOf (storeRwl s off m v) = restOf s ∧ memOf (storeRwl s off m v) = memOf s := by
  simp [storeRwl, apply_ite restOf, apply_ite memOf]

@[simp] theorem writeNet_kept (s : State) (off : Nat) (m v : Word64) : restOf (writeNet s off m v) = restOf s ∧ memOf (writeNet s off m v) = memOf s := by
  unfold writeNet
  (repeat' split) <;> simp

@[simp] theorem writeTenCtrl_kept (s : State) (t : Nat) (m v : Word64) : restOf (writeTenCtrl s t m v) = restOf s ∧ memOf (writeTenCtrl s t m v) = memOf s := by
  simp [writeTenCtrl, apply_ite restOf, apply_ite memOf]

theorem logSetup_one (s : State) (a b c : Nat) (d : Option Nat) (e : Nat) :
    restOf (logSetup s a b c d e) = restOf s ∧ memOf (logSetup s a b c d e) = memOf s := ⟨rfl, rfl⟩
@[simp] theorem writeRing_kept (s : State) (t o : Nat) (m v : Word64) :
    restOf (writeRing s t o m v) = restOf s ∧ memOf (writeRing s t o m v) = memOf s := by
  unfold writeRing
  extract_lets j off r
  split
  · exact ite_kept _ _ _ ⟨rfl, rfl⟩ ⟨rfl, rfl⟩
  · exact ringCtrl_kept _ _ _ _ _ _
  · exact ite_kept _ _ _ ⟨rfl, rfl⟩ ⟨rfl, rfl⟩
  · exact ⟨rfl, rfl⟩

@[simp] theorem writeXlatCmd_kept (s : State) (t value : Nat) :
    restOf (writeXlatCmd s t value) = restOf s ∧ memOf (writeXlatCmd s t value) = memOf s := by
  unfold writeXlatCmd
  split
  · exact xlatCommand_kept _ _ _ _ (fun u => by simp)
  · exact xlatCommand_kept _ _ _ _ (fun u => by simp)
  · exact xlatCommand_kept _ _ _ _ (fun u => by simp)
  · exact ⟨rfl, rfl⟩

@[simp] theorem writeTen_kept (s : State) (t o : Nat) (m v : Word64) : restOf (writeTen s t o m v) = restOf s ∧ memOf (writeTen s t o m v) = memOf s := by
  unfold writeTen
  (repeat' split) <;> simp

@[simp] theorem writeRgn_kept (s : State) (o : Nat) (m v : Word64) : restOf (writeRgn s o m v) = restOf s := by
  unfold writeRgn
  extract_lets n r w
  split
  · split
    · exact (writeRegionCtrl_kept _ _ _).1
    · exact (writeRegionField_kept _ _ _ _ _).1
    · exact (writeRegionField_kept _ _ _ _ _).1
    · exact (writeRegionField_kept _ _ _ _ _).1
    · rfl
  · split
    · exact (writeRetireRow_kept _ _ _).1
    · split
      · exact writeRetireBank_kept _ _ _
      · split
        · split
          · exact (writeSplit_kept _ _).1
          · rfl
        · split
          · exact (clearEcc_kept _).1
          · rfl
        · exact (storeRw_kept _ _ _ _).1

@[simp] theorem writeSyn_kept (s : State) (o : Nat) (m v : Word64) : restOf (writeSyn s o m v) = restOf s ∧ memOf (writeSyn s o m v) = memOf s := by
  unfold writeSyn
  (repeat' split) <;> simp

@[simp] theorem writeLow_kept (s : State) (off : Nat) (m v : Word64) : restOf (writeLow s off m v) = restOf s ∧ memOf (writeLow s off m v) = memOf s := by
  unfold writeLow
  (repeat' split) <;> simp

@[simp] theorem barWrite_kept (s : State) (off : Nat) (m v : Word64) : restOf (barWrite s off m v) = restOf s := by
  simp [barWrite, apply_ite restOf, apply_ite memOf]

@[simp] theorem execRegisterWrite_kept (off : BitVec 24) (size : Nat) (value : Word64) (s : State) : restOf (after s (execRegisterWrite off size value s)) = restOf s := by
  unfold execRegisterWrite
  simp only [after_next, viaHost_if]
  (repeat' split) <;> simp


@[simp] theorem reply_kept (s : State) (st : Status) : restOf (reply s st) = restOf s ∧ memOf (reply s st) = memOf s := by
  simp [reply]

theorem command_kept (s : State) (slot kind : Nat) (go : State → State) (h : ∀ t, restOf (go t) = restOf t ∧ memOf (go t) = memOf t) :
    restOf (command s slot kind go) = restOf s ∧ memOf (command s slot kind go) = memOf s := by
  unfold command
  try dsimp only
  refine ⟨?_, ?_⟩ <;> (repeat' split) <;> simp [h]
theorem command_ident (s : State) (slot kind : Nat) (go : State → State) (h : ∀ t, identOf (go t) = identOf t) :
    identOf (command s slot kind go) = identOf s := by
  unfold command
  try dsimp only
  split
  · rfl
  · split
    · exact (identOf_of_rest (reply_kept _ _).1).trans rfl
    · exact (h _).trans rfl

theorem inWindow_kept (s : State) (go : State → State) (h : ∀ t, restOf (go t) = restOf t ∧ memOf (go t) = memOf t) :
    restOf (inWindow s go) = restOf s ∧ memOf (inWindow s go) = memOf s := by
  unfold inWindow
  split <;> simp [h]

@[simp] theorem execSetBootSlot_kept (slot trial : Bool) (s : State) : restOf (after s (execSetBootSlot slot trial s)) = restOf s ∧ memOf (after s (execSetBootSlot slot trial s)) = memOf s := by
  unfold execSetBootSlot
  simp only [after_next]
  exact command_kept _ _ _ _ (fun t => ite_kept _ _ _ (inWindow_kept _ _ (fun u => storeDir_kept _ _)) (reply_kept _ _))



@[simp] theorem execWriteProvision_kept (p : Option Provision) (s : State) : restOf (after s (execWriteProvision p s)) = restOf s ∧ memOf (after s (execWriteProvision p s)) = memOf s := by
  unfold execWriteProvision
  simp only [after_next]
  refine command_kept _ _ _ _ (fun t => ?_)
  split
  · exact reply_kept _ _
  · exact ite_kept _ _ _ (inWindow_kept _ _ (fun u => ⟨rfl, rfl⟩)) (reply_kept _ _)

@[simp] theorem execModuleResetCold_ident  (s : State) : identOf (after s (execModuleResetCold s)) = identOf s := by
  unfold execModuleResetCold
  simp only [after_next]
  refine command_ident _ _ _ _ (fun t => ?_)
  try dsimp only
  split
  · exact (coldReset_ident _).trans (identOf_of_rest (reply_kept _ _).1)
  · exact identOf_of_rest (reply_kept _ _).1

@[simp] theorem execModuleResetWarm_ident  (s : State) : identOf (after s (execModuleResetWarm s)) = identOf s := by
  unfold execModuleResetWarm
  simp only [after_next]
  refine command_ident _ _ _ _ (fun t => ?_)
  try dsimp only
  first
    | exact (warmIfUp_ident _ _).trans (identOf_of_rest (reply_kept _ _).1)
    | (split
       · exact (warmReset_ident _ _).trans (identOf_of_rest (reply_kept _ _).1)
       · exact identOf_of_rest (reply_kept _ _).1)

@[simp] theorem execClkRelock_kept (managed : Bool) (s : State) : restOf (after s (execClkRelock managed s)) = restOf s ∧ memOf (after s (execClkRelock managed s)) = memOf s := by
  unfold execClkRelock
  simp only [after_next]
  refine ite_kept _ _ _ (command_kept _ _ _ _ (fun t => ?_)) (relockRequest_kept _)
  simp

@[simp] theorem execReadLog_kept (first : Word) (count : Nat) (s : State) : restOf (after s (execReadLog first count s)) = restOf s ∧ memOf (after s (execReadLog first count s)) = memOf s := by
  unfold execReadLog
  simp only [after_next]
  exact command_kept _ _ _ _ (fun t => ite_kept _ _ _ (reply_kept _ _) ⟨rfl, rfl⟩)

@[simp] theorem updateSlot_kept (s : State) : restOf (updateSlot s).2 = restOf s ∧ memOf (updateSlot s).2 = memOf s := by
  unfold updateSlot
  dsimp only
  (repeat' split) <;> simp

@[simp] theorem execFirmwareUpdate_kept (img : Image) (s : State) : restOf (after s (execFirmwareUpdate img s)) = restOf s ∧ memOf (after s (execFirmwareUpdate img s)) = memOf s := by
  unfold execFirmwareUpdate
  simp only [after_next]
  refine ⟨?_, ?_⟩ <;> (repeat' split) <;> simp

@[simp] theorem execI3cAddressAssign_kept (addr : BitVec 7) (s : State) : restOf (after s (execI3cAddressAssign addr s)) = restOf s ∧ memOf (after s (execI3cAddressAssign addr s)) = memOf s := by
  unfold execI3cAddressAssign
  simp only [after_next]
  refine ⟨?_, ?_⟩ <;> (repeat' split) <;> simp

@[simp] theorem execSmbusAlertResponse_kept (s : State) : restOf (after s (execSmbusAlertResponse s)) = restOf s ∧ memOf (after s (execSmbusAlertResponse s)) = memOf s := by
  unfold execSmbusAlertResponse
  simp only [after_next]
  refine ⟨?_, ?_⟩ <;> (repeat' split) <;> simp

@[simp] theorem execEhregWatchdogExpiry_kept (s : State) : restOf (after s (execEhregWatchdogExpiry s)) = restOf s ∧ memOf (after s (execEhregWatchdogExpiry s)) = memOf s := by
  unfold execEhregWatchdogExpiry
  simp only [after_next]
  refine ⟨?_, ?_⟩ <;> (repeat' split) <;> simp

@[simp] theorem execEhregRestartDone_kept (s : State) : restOf (after s (execEhregRestartDone s)) = restOf s ∧ memOf (after s (execEhregRestartDone s)) = memOf s := by
  simp [execEhregRestartDone]

@[simp] theorem spdm_kept (s : State) (code : Nat) (body : List Byte) : restOf (spdm s code body) = restOf s ∧ memOf (spdm s code body) = memOf s := by
  simp [spdm]

@[simp] theorem spdmError_kept (s : State) (code : Nat) : restOf (spdmError s code) = restOf s ∧ memOf (spdmError s code) = memOf s := by
  simp [spdmError]

theorem spdmRequest_kept (s : State) (go : State → State) (h : ∀ t, restOf (go t) = restOf t ∧ memOf (go t) = memOf t) :
    restOf (spdmRequest s go) = restOf s ∧ memOf (spdmRequest s go) = memOf s := by
  unfold spdmRequest
  exact viaHost_kept _ _ (ite_kept _ _ _ (h s) ⟨rfl, rfl⟩)

@[simp] theorem execGetVersion_kept  (s : State) : restOf (after s (execGetVersion s)) = restOf s ∧ memOf (after s (execGetVersion s)) = memOf s := by
  unfold execGetVersion
  simp only [after_next]
  refine spdmRequest_kept _ _ (fun t => ?_)
  refine ⟨?_, ?_⟩ <;> (repeat' split) <;> simp

@[simp] theorem execGetCapabilities_kept  (s : State) : restOf (after s (execGetCapabilities s)) = restOf s ∧ memOf (after s (execGetCapabilities s)) = memOf s := by
  unfold execGetCapabilities
  simp only [after_next]
  refine spdmRequest_kept _ _ (fun t => ?_)
  refine ⟨?_, ?_⟩ <;> (repeat' split) <;> simp

@[simp] theorem execNegotiateAlgorithms_kept  (s : State) : restOf (after s (execNegotiateAlgorithms s)) = restOf s ∧ memOf (after s (execNegotiateAlgorithms s)) = memOf s := by
  unfold execNegotiateAlgorithms
  simp only [after_next]
  refine spdmRequest_kept _ _ (fun t => ?_)
  refine ⟨?_, ?_⟩ <;> (repeat' split) <;> simp

@[simp] theorem execGetDigests_kept  (s : State) : restOf (after s (execGetDigests s)) = restOf s ∧ memOf (after s (execGetDigests s)) = memOf s := by
  unfold execGetDigests
  simp only [after_next]
  refine spdmRequest_kept _ _ (fun t => ?_)
  refine ⟨?_, ?_⟩ <;> (repeat' split) <;> simp

@[simp] theorem execGetCertificate_kept (slot : BitVec 4) (s : State) : restOf (after s (execGetCertificate slot s)) = restOf s ∧ memOf (after s (execGetCertificate slot s)) = memOf s := by
  unfold execGetCertificate
  simp only [after_next]
  refine spdmRequest_kept _ _ (fun t => ?_)
  refine ⟨?_, ?_⟩ <;> (repeat' split) <;> simp

@[simp] theorem execChallenge_kept (nonce : BitVec 256) (s : State) : restOf (after s (execChallenge nonce s)) = restOf s ∧ memOf (after s (execChallenge nonce s)) = memOf s := by
  unfold execChallenge
  simp only [after_next]
  refine spdmRequest_kept _ _ (fun t => ?_)
  refine ⟨?_, ?_⟩ <;> (repeat' split) <;> simp

@[simp] theorem execGetMeasurements_kept (index : BitVec 8) (nonce : BitVec 256) (s : State) : restOf (after s (execGetMeasurements index nonce s)) = restOf s ∧ memOf (after s (execGetMeasurements index nonce s)) = memOf s := by
  unfold execGetMeasurements
  simp only [after_next]
  refine spdmRequest_kept _ _ (fun t => ?_)
  refine ⟨?_, ?_⟩ <;> (repeat' split) <;> simp

@[simp] theorem execVendorDefinedRequest_kept (cmd : Byte) (ten : BitVec 8) (nonce : BitVec 256) (s : State) : restOf (after s (execVendorDefinedRequest cmd ten nonce s)) = restOf s ∧ memOf (after s (execVendorDefinedRequest cmd ten nonce s)) = memOf s := by
  unfold execVendorDefinedRequest
  simp only [after_next]
  refine spdmRequest_kept _ _ (fun t => ?_)
  refine ⟨?_, ?_⟩ <;> (repeat' split) <;> simp

@[simp] theorem execSpdmUnsupported_kept (code : Byte) (s : State) : restOf (after s (execSpdmUnsupported code s)) = restOf s ∧ memOf (after s (execSpdmUnsupported code s)) = memOf s := by
  unfold execSpdmUnsupported
  simp only [after_next]
  refine spdmRequest_kept _ _ (fun t => ?_)
  refine ⟨?_, ?_⟩ <;> (repeat' split) <;> simp

end Sys2Proof.Machine
end

