-- ==== Sys2Proof/Laws/Memory.lean ====
section
/-! SUPPORT. The memories keep their canonical form and the fuses only rise: one lemma for each function that writes them, and one over all commands. -/

open Sys2Proof

namespace Sys2Proof.Machine
/-- The memories of a state in canonical form. -/
def memOk (s : State) : Prop := Memory.wf s.dram = true ∧ Memory.wf s.check = true

/-- Equal memories have the same form. -/
theorem memOk_of_mem {s t : State} (h : memOf t = memOf s) (hs : memOk s) : memOk t := by
  simp only [memOf, Prod.mk.injEq] at h
  unfold memOk
  rw [h.1, h.2]
  exact hs

/-- A fold whose every step keeps the form keeps it. -/
theorem foldl_ok {α : Type} (l : List α) (f : State → α → State) (h : ∀ s a, memOk s → memOk (f s a)) (s : State) (hs : memOk s) :
    memOk (l.foldl f s) := by
  induction l generalizing s with
  | nil => exact hs
  | cons a t ih => exact ih _ (h s a hs)

theorem ite_ok (c : Prop) [Decidable c] (a b : State) (ha : memOk a) (hb : memOk b) : memOk (if c then a else b) := by
  split
  · exact ha
  · exact hb

theorem putWord_ok (s : State) (w : Nat) (d : Word) (c : Byte) (h : memOk s) : memOk (putWord s w d c) :=
  ⟨mwf_msetAll 0 _ _ _ h.1, mwf_mset 0 _ _ _ h.2⟩

theorem putMarker_ok (s : State) (w : Nat) (h : memOk s) : memOk (putMarker s w) := putWord_ok _ _ _ _ h

theorem writeWord_ok (s : State) (rd : Reader) (w : Nat) (d : Word) (en : Nat) (poison : Bool) (h : memOk s) :
    memOk (writeWord s rd w d en poison).2 := by
  have hr : memOk (readWord s rd w).2 := memOk_of_mem (readWord_kept s rd w).2 h
  unfold writeWord
  split
  · exact h
  · split
    · exact ite_ok _ _ _ (putMarker_ok _ _ h) (putWord_ok _ _ _ _ h)
    · dsimp only
      split
      · exact putMarker_ok _ _ hr
      · exact putWord_ok _ _ _ _ hr

theorem writeWordsFrom_ok (s : State) (rd : Reader) (w : Nat) (ws : List (Word × Nat × Bool)) (h : memOk s) :
    memOk (writeWordsFrom s rd w ws).2 := by
  induction ws generalizing s w with
  | nil => exact h
  | cons a t ih => exact ih _ _ (writeWord_ok _ _ _ _ _ _ h)

theorem writeOp_ok (s : State) (rd : Reader) (w : Nat) (ws : List (Word × Nat × Bool)) (h : memOk s) : memOk (writeOp s rd w ws) := by
  have hw := writeWordsFrom_ok s rd w ws h
  unfold writeOp
  dsimp only
  split
  · exact memOk_of_mem (logEcc_kept _ _ _ _ _ _).2 hw
  · exact hw

theorem writeBytes_ok (s : State) (rd : Reader) (a : Nat) (bs : List (Option Byte)) (ps : List Bool) (h : memOk s) :
    memOk (writeBytes s rd a bs ps) := writeOp_ok _ _ _ _ h

theorem commitColumn_ok (s : State) (b : Nat) (p : WPair) (c : Nat) (h : memOk s) : memOk (commitColumn s b p c) :=
  writeOp_ok _ _ _ _ (memOk_of_mem (settleEnd_kept _ _).2 h)

theorem settlePair_ok (s : State) (b : Nat) (p : WPair) (h : memOk s) : memOk (settlePair s b p) :=
  memOk_of_mem (modUnit_kept _ _ _).2 (commitColumn_ok _ _ _ _ (ite_ok _ _ _ (commitColumn_ok _ _ _ _ h) h))

theorem closeRead_ok (s : State) (b o : Nat) (h : memOk s) : memOk (closeRead s b o) := by
  unfold closeRead
  split
  · exact ite_ok _ _ _ (settlePair_ok _ _ _ h) h
  · exact h

theorem settleLine_ok (s : State) (a : Nat) (h : memOk s) : memOk (settleLine s a) := by
  unfold settleLine
  split
  · exact settlePair_ok _ _ _ h
  · exact h

theorem settleLocs_ok (s : State) (ls : List Loc) (h : memOk s) : memOk (settleLocs s ls) := by
  unfold settleLocs
  refine foldl_ok _ _ (fun s a hs => ?_) _ h
  split
  · exact settleLine_ok _ _ hs
  · exact hs

theorem regionRead_ok (s : State) (rd : Reader) (n : Nat) (bi off : Int) (k : Nat) (h : memOk s) :
    memOk (regionRead s rd n bi off k).2 := by
  unfold regionRead
  dsimp only
  split
  · exact h
  · exact memOk_of_mem (countOob_kept _ _ _ _).2 (memOk_of_mem (readLocs_kept _ _ _ _).2 (settleLocs_ok _ _ h))

theorem writeGathered_ok (s : State) (rd : Reader) (ws : List (Nat × Word × Nat × Bool)) (h : memOk s) :
    memOk (writeGathered s rd ws).2 := by
  induction ws generalizing s with
  | nil => exact h
  | cons a t ih => exact ih _ (writeWord_ok _ _ _ _ _ _ h)

theorem writeLocs_ok (s : State) (rd : Reader) (ls : List (Loc × Byte × Bool)) (h : memOk s) : memOk (writeLocs s rd ls) := by
  have hw := writeGathered_ok s rd (gatherLocs ls) h
  unfold writeLocs
  dsimp only
  split
  · exact memOk_of_mem (logEcc_kept _ _ _ _ _ _).2 hw
  · exact hw

theorem regionWrite_ok (s : State) (rd : Reader) (n : Nat) (bi off : Int) (bs : List (Byte × Bool)) (h : memOk s) :
    memOk (regionWrite s rd n bi off bs).2 := by
  unfold regionWrite
  dsimp only
  split
  · exact h
  · exact memOk_of_mem (countOob_kept _ _ _ _).2 (writeLocs_ok _ _ _ (settleLocs_ok _ _ h))

theorem hostWriteData_ok (s : State) (ma : Nat) (en : BitVec 64) (data : BitVec 512) (poison : Bool) (h : memOk s) :
    memOk (hostWriteData s ma en data poison) := by
  unfold hostWriteData
  dsimp only
  have h1 : memOk (hostSlots (chargeHost s ma ((List.range 64).filter (fun i => bit en i)).length true) ma (writeSlots en)) :=
    memOk_of_mem (by simp) h
  generalize hostSlots (chargeHost s ma _ true) ma (writeSlots en) = t at h1 ⊢
  refine ite_ok _ _ _ h1 ?_
  have h2 : memOk (match heldPair t (maMap (split s) ma).1 (maMap (split s) ma).2 with
      | some p => settlePair t (maMap (split s) ma).1 p
      | none => t) := by
    split
    · exact settlePair_ok _ _ _ h1
    · exact h1
  exact ite_ok _ _ _ (memOk_of_mem (logEcc_kept _ _ _ _ _ _).2 (writeWordsFrom_ok _ _ _ _ h2)) (writeOp_ok _ _ _ _ h2)

theorem hostReadData_ok (s : State) (ma len : Nat) (h : memOk s) : memOk (hostReadData s ma len) := by
  unfold hostReadData
  dsimp only
  have h1 : memOk (hostSlots (chargeHost s ma len false) ma 2) := memOk_of_mem (by simp) h
  generalize hostSlots (chargeHost s ma len false) ma 2 = t at h1 ⊢
  exact ite_ok _ _ _ (memOk_of_mem (emit_kept _ _).2 h1)
    (memOk_of_mem (emit_kept _ _).2 (memOk_of_mem (lineWords_kept _ _ _ _).2 (closeRead_ok _ _ _ h1)))

theorem writeSlot_ok (s : State) (b : Nat) (p : WPair) (rest : List WPair) (h : memOk s) : memOk (writeSlot s b p rest) := by
  have h1 : memOk (chargeUnit (openRow s b (p.addr / 4096)).2 b 1 (openRow s b (p.addr / 4096)).1) :=
    memOk_of_mem (chargeUnit_kept _ _ _ _).2 (memOk_of_mem (openRow_kept _ _ _).2 h)
  exact ite_ok _ _ _ (memOk_of_mem (modUnit_kept _ _ _).2 h1)
    (memOk_of_mem (modUnit_kept _ _ _).2 (ite_ok _ _ _ h1 (commitColumn_ok _ _ _ _ h1)))

theorem drainSlot_ok (s : State) (b : Nat) (h : memOk s) : memOk (drainSlot s b) := by
  unfold drainSlot
  split
  · exact h
  · exact writeSlot_ok _ _ _ _ h

theorem grantSlot_ok (s : State) (b : Nat) (h : memOk s) : memOk (grantSlot s b) := by
  have hl : ∀ t : State, memOk t → memOk (if !(unitOf t b).wq.isEmpty then drainSlot t b
      else if 0 < (bankOf t b).owed then refresh t b else t) := fun t ht =>
    ite_ok _ _ _ (drainSlot_ok _ _ ht) (ite_ok _ _ _ (memOk_of_mem (refresh_kept _ _).2 ht) ht)
  unfold grantSlot
  dsimp only
  refine ite_ok _ _ _ (drainSlot_ok _ _ h) ?_
  split
  · exact ite_ok _ _ _ (memOk_of_mem (hostSlot_kept _ _ _ _).2 h)
      (ite_ok _ _ _ (memOk_of_mem (refresh_kept _ _).2 h) (memOk_of_mem (hostSlot_kept _ _ _ _).2 h))
  · refine ite_ok _ _ _ (memOk_of_mem (refresh_kept _ _).2 h) (ite_ok _ _ _ (drainSlot_ok _ _ h) (ite_ok _ _ _ ?_ (hl s h)))
    have hp := memOk_of_mem (prefetch_kept 16 s b).2 h
    exact ite_ok _ _ _ hp (hl _ hp)

theorem putBack_ok (s : State) (saved : SMap (Option (Word × Byte))) (h : memOk s) : memOk (putBack s saved) := by
  unfold putBack
  refine foldl_ok _ _ (fun s a hs => ?_) _ h
  split
  · exact putWord_ok _ _ _ _ hs
  · exact hs

theorem copyStep_ok (s : State) (e : BitVec 2) (a : Active) (saved : SMap (Option (Word × Byte))) (k : Nat) (h : memOk s) :
    memOk (copyStep s e a saved k).2 := by
  unfold copyStep
  extract_lets c rd js data sb xb sl xl now nread
  have hn : memOk now := settleLocs_ok _ _ h
  clear_value now nread
  split
  · exact h
  · generalize readLocs (putBack now saved) rd [] (sl ++ xl) = r1
    obtain ⟨rv, t2⟩ := r1
    dsimp only
    have h1 : memOk (countOob { t2 with dram := now.dram, check := now.check } c.sregion false (oobCount sl + oobCount xl)) :=
      memOk_of_mem (s := now) ((countOob_kept _ _ _ _).2.trans (mem_mk ..)) hn
    generalize countOob { t2 with dram := now.dram, check := now.check } c.sregion false (oobCount sl + oobCount xl) = t3 at h1 ⊢
    have h2 : memOk (if c.transposing && !c.inplace && !c.exchange t3 then
          (let u := stridedSlots t3 a.ten (data.map (fun j => byteLocs t3 c.sregion false (c.srcBytes j)))
           if scaleArray c.sfmt then engineSlots u false a.ten xl else u)
        else engineSlots t3 false a.ten (sl ++ xl)) := by
      have hs := memOk_of_mem (stridedSlots_kept t3 a.ten (data.map (fun j => byteLocs t3 c.sregion false (c.srcBytes j)))).2 h1
      exact ite_ok _ _ _ (ite_ok _ _ _ (memOk_of_mem (engineSlots_kept _ _ _ _).2 hs) hs) (memOk_of_mem (engineSlots_kept _ _ _ _).2 h1)
    generalize (if c.transposing && !c.inplace && !c.exchange t3 then
          (let u := stridedSlots t3 a.ten (data.map (fun j => byteLocs t3 c.sregion false (c.srcBytes j)))
           if scaleArray c.sfmt then engineSlots u false a.ten xl else u)
        else engineSlots t3 false a.ten (sl ++ xl)) = t4 at h2 ⊢
    have h3 : memOk (meter t4 a.ten 6 nread (6 * nread)) := memOk_of_mem (meter_kept _ _ _ _ _).2 h2
    generalize meter t4 a.ten 6 nread (6 * nread) = t5 at h3 ⊢
    split
    · exact h3
    · split
      · exact h3
      · refine memOk_of_mem (meter_kept _ _ _ _ _).2 (memOk_of_mem (engineSlots_kept _ _ _ _).2
          (memOk_of_mem (countOob_kept _ _ _ _).2 (writeLocs_ok _ _ _ ?_)))
        exact ite_ok _ _ _ (memOk_of_mem (mem_mk ..) (settleLocs_ok _ _ h3)) (settleLocs_ok _ _ h3)

theorem advanceCopy_ok (s : State) (e : BitVec 2) (h : memOk s) : memOk (advanceCopy s e) := by
  unfold advanceCopy
  split
  · exact h
  · next j a _ =>
    refine ite_ok _ _ _ h ?_
    have hc := copyStep_ok s e a j.saved j.next h
    split <;> next hx => rw [hx] at hc; exact memOk_of_mem (by simp) hc

theorem idleSteps_ok (n : Nat) (s : State) (e : BitVec 2) (h : memOk s) : memOk (idleSteps n s e) := by
  induction n generalizing s with
  | zero => exact h
  | succ k ih => exact ite_ok _ _ _ (ih _ (advanceCopy_ok _ _ h)) h

theorem completeCopy_ok (s : State) (e : BitVec 2) (h : memOk s) : memOk (completeCopy s e) := by
  unfold completeCopy
  refine memOk_of_mem (finishCopy_kept _ _).2 ?_
  split
  · exact idleSteps_ok _ _ _ h
  · exact h

theorem abortCopy_ok (s : State) (e : BitVec 2) (st : Status) (h : memOk s) : memOk (abortCopy s e st) := by
  unfold abortCopy
  split
  · exact h
  · exact memOk_of_mem (finishCopy_kept _ _).2 (memOk_of_mem (endCopy_kept _ _ _ _ _).2 h)

theorem scrubWord_ok (s : State) (rd : Reader) (j : ScrubJob) (w col bi : Nat) (h : memOk s) :
    memOk (scrubWord s rd j w col bi).2.2 := by
  unfold scrubWord
  extract_lets at_ b k
  split
  · exact h
  · exact putWord_ok _ _ _ _ (memOk_of_mem (noteCorrected_kept _ _ _).2 h)
  · exact memOk_of_mem (countEcc_kept _ _ _ _ _).2 h
  · exact memOk_of_mem (noteUncorrectable_kept _ _ _).2 h

theorem scrubWords_ok (s : State) (rd : Reader) (j : ScrubJob) (w col bi n : Nat) (h : memOk s) :
    memOk (scrubWords s rd j w col bi n).2.2 := by
  induction n generalizing s j w with
  | zero => exact h
  | succ k ih => exact ih _ _ _ (scrubWord_ok _ _ _ _ _ _ h)

theorem scrubColumn_ok (s : State) (a : Active) (j : ScrubJob) (r : ScrubJob × State) (hr : scrubColumn s a j = some r) (h : memOk s) :
    memOk r.2 := by
  unfold scrubColumn at hr
  dsimp only at hr
  split at hr
  · cases hr
  · rw [← Option.some.inj hr]; exact memOk_of_mem (countOob_kept _ _ _ _).2 h
  · split at hr
    · rw [← Option.some.inj hr]; exact h
    · next x _ _ =>
      have hl := settleLine_ok s x h
      generalize settleLine s x = t at hl hr
      rw [← Option.some.inj hr]
      exact memOk_of_mem (setBank_kept _ _ _).2 (scrubWords_ok t _ _ _ _ _ 8 hl)

theorem advanceScrub_ok (n : Nat) (s : State) (h : memOk s) : memOk (advanceScrub n s) := by
  induction n generalizing s with
  | zero => exact h
  | succ k ih =>
    unfold advanceScrub
    split
    · exact h
    · split
      · exact h
      · refine ite_ok _ _ _ h ?_
        split
        · exact memOk_of_mem (endScrub_kept _ _ _ _).2 h
        · next hc => exact ih _ (scrubColumn_ok _ _ _ _ hc h)

theorem completeScrub_ok (s : State) (h : memOk s) : memOk (completeScrub s) := by
  unfold completeScrub
  split
  · exact h
  · split
    · exact h
    · extract_lets t
      have ht : memOk t := advanceScrub_ok _ _ h
      split
      · exact memOk_of_mem (endScrub_kept _ _ _ _).2 ht
      · exact ht

theorem abortScrub_ok (s : State) (st : Status) (h : memOk s) : memOk (abortScrub s st) := by
  unfold abortScrub
  split
  · exact h
  · split
    · exact h
    · have ht : ∀ n, memOk (advanceScrub n (draw s).2) := fun n => advanceScrub_ok _ _ h
      dsimp only
      split
      · exact memOk_of_mem (endScrub_kept _ _ _ _).2 (ht _)
      · exact ht _

theorem pputBank_ok (s : State) (e : BitVec 4) (win : Window) (o : Nat) (bs : List (Byte × Bool)) (bi : Nat) (h : memOk s) :
    memOk (pputBank s e win o bs bi) := memOk_of_mem (engineSlots_kept _ _ _ _).2 (regionWrite_ok _ _ _ _ _ _ h)

theorem pget_ok (s : State) (e : BitVec 4) (p : Proc) (win : Window) (o bi a n : Nat) (h : memOk s) : memOk (pget s e p win o bi a n) := by
  unfold pget
  extract_lets x t give ls
  have hg : ∀ u bs, memOk u → memOk (give u bs) := fun u bs hu => memOk_of_mem (by simp only [give]; simp) hu
  split
  · exact hg _ _ (memOk_of_mem (s := s) (by simp) h)
  · have hr := regionRead_ok s (pressReader s e) win.region ((win.bank + bi : Nat) : Int) ((win.off + o : Nat) : Int) n h
    split <;> next hx =>
      rw [hx] at hr
      first
        | exact memOk_of_mem (faultTask_kept _ _ _ _ _ _).2 hr
        | exact ite_ok _ _ _ (memOk_of_mem (faultTask_kept _ _ _ _ _ _).2 hr) (hg _ _ (memOk_of_mem (engineSlots_kept _ _ _ _).2 hr))

theorem pput_ok (s : State) (e : BitVec 4) (p : Proc) (win : Window) (o a n : Nat) (banks : List Nat) (h : memOk s) :
    memOk (pput s e p win o a n banks) := by
  unfold pput
  dsimp only
  split
  · exact memOk_of_mem (faultTask_kept _ _ _ _ _ _).2 h
  · split
    · exact memOk_of_mem (s := s) (by simp) h
    · split
      · exact memOk_of_mem (faultTask_kept _ _ _ _ _ _).2 h
      · exact memOk_of_mem (stepOn_kept _ _).2 (memOk_of_mem (meter_kept _ _ _ _ _).2
          (foldl_ok _ _ (fun s a hs => pputBank_ok _ _ _ _ _ _ hs) _ h))

theorem issue_ok (s : State) (x : CoreId) (op : Nat) (z : Word64 → Bool) (run : State → Proc → Word64 → State)
    (hr : ∀ p w, memOk (run s p w)) (h : memOk s) : memOk (issue s x op z run) := by
  unfold issue
  extract_lets p w
  exact ite_ok _ _ _ (ite_ok _ _ _ (memOk_of_mem (faultTask_kept _ _ _ _ _ _).2 h) (ite_ok _ _ _ h
    (ite_ok _ _ _ (memOk_of_mem (faultTask_kept _ _ _ _ _ _).2 h) (hr _ _)))) h

theorem judge_ok (s : State) (x : CoreId) (p : Proc) (regs : List Nat) (checks : List (Nat × Nat)) (go : State) (hg : memOk go)
    (h : memOk s) : memOk (judge s x p regs checks go) := by
  unfold judge
  refine ite_ok _ _ _ (memOk_of_mem (faultTask_kept _ _ _ _ _ _).2 h) ?_
  split
  · exact memOk_of_mem (faultTask_kept _ _ _ _ _ _).2 h
  · exact hg

theorem windowOp_ok (s : State) (e : BitVec 4) (op : Nat) (put : Bool) (h : memOk s) : memOk (windowOp s e op put) := by
  unfold windowOp
  refine issue_ok _ _ _ _ _ (fun p w => ?_) h
  extract_lets repl n a o bi
  split
  · exact h
  · exact judge_ok _ _ _ _ _ _ (ite_ok _ _ _ (memOk_of_mem (faultTask_kept _ _ _ _ _ _).2 h)
      (ite_ok _ _ _ (pput_ok _ _ _ _ _ _ _ _ h) (pget_ok _ _ _ _ _ _ _ _ h))) h

theorem startNet_ok (s : State) (a : Active) (h : memOk s) : memOk (startNet s a) := by
  unfold startNet
  simp only
  generalize hu : traceEv (modActive { s with netDQ := s.netDQ.tail } a.id (fun x => { x with started := some s.time })) 0x03 a.ten (srcNum 8 2)
    (dTag a.raw) 0 0 = u
  have h3 : memOk u := by rw [← hu]; exact memOk_of_mem (by simp) h
  have hf : ∀ v fs, memOk v → memOk (List.foldl sendSeq v fs) := fun v fs hv =>
    foldl_ok _ _ (fun s a hs => memOk_of_mem (sendSeq_kept _ _).2 hs) _ hv
  split
  · exact memOk_of_mem (endSendJob_kept _ _ _).2 h3
  · split
    · exact memOk_of_mem (sendSeq_kept _ _).2 (memOk_of_mem (mem_mk ..) h3)
    · have hr := regionRead_ok u (netReader a) (bits a.raw 112 6) (placeOf (dfield a.raw 16 6)).bank (placeOf (dfield a.raw 16 6)).off
        (dfield a.raw 28 4) h3
      split <;> next hx =>
        rw [hx] at hr
        first
          | exact memOk_of_mem (endSendJob_kept _ _ _).2 hr
          | (refine ite_ok _ _ _ (memOk_of_mem (sendSeq_kept _ _).2 (hf _ _ ?_)) (hf _ _ ?_) <;>
               exact memOk_of_mem (mem_mk ..) (memOk_of_mem (engineSlots_kept _ _ _ _).2 hr))

theorem writeFrame_ok (s : State) (m : Nat) (f : Frame) (h : memOk s) : memOk (writeFrame s m f) := by
  unfold writeFrame
  extract_lets ten region off bank
  refine ite_ok _ _ _ (memOk_of_mem (s := s) (by simp) h) ?_
  split
  · exact memOk_of_mem (refuseMessage_kept _ _ _ _).2 h
  · have hw := regionWrite_ok s (peerReader m f) region bank off (framePayload f) h
    split <;> next hx =>
      rw [hx] at hw
      first
        | exact memOk_of_mem (refuseMessage_kept _ _ _ _).2 hw
        | (refine memOk_of_mem (processed_kept _ _).2 (memOk_of_mem ?_ hw)
           dsimp only
           (repeat' split) <;> simp)

theorem readFrame_ok (s : State) (m : Nat) (f : Frame) (h : memOk s) : memOk (readFrame s m f) := by
  unfold readFrame
  extract_lets ten v lregion rregion lstart rstart n bank off
  refine ite_ok _ _ _ (memOk_of_mem (refuse_kept _ _ _ _).2 h) ?_
  split
  · exact memOk_of_mem (refuse_kept _ _ _ _).2 h
  · have hw := regionRead_ok s (peerReader m f) rregion bank off n h
    split <;> next hx =>
      rw [hx] at hw
      first
        | exact memOk_of_mem (refuse_kept _ _ _ _).2 hw
        | (refine memOk_of_mem (answerRead_kept _ _).2 (memOk_of_mem (modPeer_kept _ _ _).2 (foldl_ok _ _ (fun s a hs =>
             memOk_of_mem (sendSeq_kept _ _).2 hs) _ (memOk_of_mem (engineSlots_kept _ _ _ _).2 hw))))

theorem frameEffect_ok (s : State) (m : Nat) (f : Frame) (h : memOk s) : memOk (frameEffect s m f) := by
  unfold frameEffect
  split
  · exact writeFrame_ok _ _ _ h
  · exact readFrame_ok _ _ _ h
  · exact memOk_of_mem (flagFrame_kept _ _ _).2 h
  · exact memOk_of_mem (arriveFrame_kept _ _ _).2 h
  · exact memOk_of_mem (releaseFrame_kept _ _ _).2 h
  · exact memOk_of_mem (partialFrame_kept _ _ _).2 h
  · exact memOk_of_mem (processed_kept _ _).2 h

theorem takeFrame_ok (s : State) (m : Nat) (f : Frame) (h : memOk s) : memOk (takeFrame s m f) := by
  unfold takeFrame
  refine ite_ok _ _ _ (memOk_of_mem (refuse_kept _ _ _ _).2 h) (ite_ok _ _ _ (memOk_of_mem (refuse_kept _ _ _ _).2 h) ?_)
  refine frameEffect_ok _ _ _ (memOk_of_mem (s := s) ?_ h)
  (repeat' split) <;> simp

theorem drainRx_ok (n : Nat) (s : State) (m : Nat) (h : memOk s) : memOk (drainRx n s m) := by
  induction n generalizing s with
  | zero => exact h
  | succ k ih =>
    unfold drainRx
    dsimp only
    split
    · exact ih _ (takeFrame_ok _ _ _ (memOk_of_mem (setPeer_kept _ _ _).2 h))
    · exact h

theorem settleRx_ok (s : State) (m : Nat) (h : memOk s) : memOk (settleRx s m) :=
  memOk_of_mem (pfcPort_kept _ _).2 (memOk_of_mem (pfcPort_kept _ _).2 (drainRx_ok _ _ _ h))

theorem received_ok (s : State) (f : Frame) (go : State → Nat → State) (hg : ∀ t m, memOk t → memOk (go t m)) (h : memOk s) :
    memOk (received s f go) := by
  unfold received
  refine ite_ok _ _ _ h ?_
  have hd : ∀ a b c, memOk (dropUnknown s a b c f) := fun a b c => memOk_of_mem (dropUnknown_kept _ _ _ _ _).2 h
  split
  · exact hd _ _ _
  · exact ite_ok _ _ _ h (ite_ok _ _ _ (ite_ok _ _ _ (hg _ _ (hd _ _ _)) (hd _ _ _)) (ite_ok _ _ _ (hd _ _ _)
      (hg _ _ (memOk_of_mem (traceEv_kept _ _ _ _ _ _ _).2 h))))

theorem fromMember_ok (s : State) (m : Nat) (f : Frame) (go : State → State) (hg : ∀ t, memOk t → memOk (go t)) (h : memOk s) :
    memOk (fromMember s m f go) := by
  unfold fromMember
  exact ite_ok _ _ _ (memOk_of_mem (nak_kept _ _ _ _).2 h) (ite_ok _ _ _ (memOk_of_mem (stale_kept _ _ _).2 h)
    (ite_ok _ _ _ (hg _ (memOk_of_mem (takeAck_kept _ _ _).2 h)) (memOk_of_mem (takeAck_kept _ _ _).2 h)))

theorem sequenced_ok (s : State) (f : Frame) (h : memOk s) : memOk (sequenced s f) := by
  unfold sequenced
  refine received_ok _ _ _ (fun t m ht => fromMember_ok _ _ _ _ (fun u hu => ?_) ht) h
  have hs := settleRx_ok u m hu
  exact ite_ok _ _ _ hs (ite_ok _ _ _ (settleRx_ok _ _ (ite_ok _ _ _ (memOk_of_mem (holdFrame_kept _ _ _).2 hs) (takeFrame_ok _ _ _ hs)))
    (ite_ok _ _ _ (memOk_of_mem (duplicate_kept _ _).2 hs) (memOk_of_mem (nak_kept _ _ _ _).2 hs)))

theorem unsequenced_ok (s : State) (f : Frame) (go : State → Nat → State) (hg : ∀ t m, memOk t → memOk (go t m)) (h : memOk s) :
    memOk (unsequenced s f go) := by
  unfold unsequenced
  refine received_ok _ _ _ (fun t m ht => ?_) h
  have hn : ∀ c, memOk (nak t m c f) := fun c => memOk_of_mem (nak_kept _ _ _ _).2 ht
  exact ite_ok _ _ _ ht (ite_ok _ _ _ (memOk_of_mem (stale_kept _ _ _).2 ht) (ite_ok _ _ _ (hn _) (ite_ok _ _ _ (hn _) (ite_ok _ _ _ (hn _)
    (settleRx_ok _ _ (hg _ _ ht))))))

theorem drainCancelled_ok (s : State) (b : Nat) (h : memOk s) : memOk (drainCancelled s b) :=
  memOk_of_mem (modUnit_kept _ _ _).2 (foldl_ok _ _ (fun s a hs => settlePair_ok _ _ _ hs) _ h)

theorem cancelUnit_ok (s : State) (b : Nat) (h : memOk s) : memOk (cancelUnit s b) :=
  drainCancelled_ok _ _ (memOk_of_mem (endCoreWork_kept _ _ _).2 h)

theorem clearUnit_ok (s : State) (b : Nat) (h : memOk s) : memOk (clearUnit s b) := by
  unfold clearUnit
  refine ite_ok _ _ _ h (memOk_of_mem (s := s) ?_ h)
  simp only [setUnit_kept, enterState_kept]
  split <;> simp

theorem eachUnit_ok (s : State) (g : Nat) (f : State → Nat → State) (hf : ∀ t b, memOk t → memOk (f t b)) (h : memOk s) :
    memOk (eachUnit s g f) := foldl_ok _ _ (fun s _ hs => hf s _ hs) _ h

theorem clearGroup_ok (s : State) (g old : Nat) (h : memOk s) : memOk (clearGroup s g old) := by
  have h1 := eachUnit_ok s g (fun s b => endEntering s (.unit (buid b)) .cancelledBySwitch)
    (fun t b ht => memOk_of_mem (endEntering_kept _ _ _).2 ht) h
  have h2 := eachUnit_ok _ g cancelUnit cancelUnit_ok h1
  have h3 := eachUnit_ok _ g clearUnitSync (fun t b ht => memOk_of_mem (clearUnitSync_kept _ _).2 ht) h2
  exact eachUnit_ok _ g clearUnit clearUnit_ok (memOk_of_mem (clearBarriers_kept _ g old).2 h3)

theorem clearObject_ok (s : State) (kind index old : Nat) (h : memOk s) : memOk (clearObject s kind index old) := by
  unfold clearObject
  split
  · exact clearGroup_ok _ _ _ h
  · exact memOk_of_mem (clearBlock_kept _ _).2 h
  · exact memOk_of_mem (clearBarrier_kept _ _).2 h
  · exact memOk_of_mem (clearPress_kept _ _ _).2 h
  · exact memOk_of_mem (clearPress_kept _ _ _).2 h

theorem abortDomain_ok (s : State) (d : Nat) (h : memOk s) : memOk (abortDomain s d) := by
  unfold abortDomain
  refine ite_ok _ _ _ (foldl_ok _ _ (fun s a hs => drainCancelled_ok _ _ (memOk_of_mem (endCoreWork_kept _ _ _).2 hs)) _ h)
    (ite_ok _ _ _ ?_ (ite_ok _ _ _ (ite_ok _ _ _ (completeCopy_ok _ _ h) (abortCopy_ok _ _ _ h)) h))
  refine memOk_of_mem (s := s) ?_ h
  dsimp only
  split <;> simp

theorem stopWork_ok (s : State) (h : memOk s) : memOk (stopWork s) := foldl_ok _ _ (fun s a hs => drainCancelled_ok _ _ hs) _ h

theorem clearCore_ok (s : State) (h : memOk s) : memOk (clearCore s) := stopWork_ok s h

theorem warmReset_ok (s : State) (memClr : Bool) (h : memOk s) : memOk (warmReset s memClr) := by
  unfold warmReset
  have hc : memOk (clearCore (hostLinkDown s)) := clearCore_ok _ (memOk_of_mem (hostLinkDown_kept s).2 h)
  exact memOk_of_mem (logReset_kept _ _).2 (memOk_of_mem (rejoin_kept _).2 hc)

theorem coldReset_ok (s : State) (h : memOk s) : memOk (coldReset s) := by
  unfold coldReset
  have hc : memOk (clearCore (hostLinkDown s)) := clearCore_ok _ (memOk_of_mem (hostLinkDown_kept s).2 h)
  exact memOk_of_mem (logReset_kept _ _).2 hc

theorem haltDecant_ok (s : State) (e : Nat) (h : memOk s) : memOk (haltDecant s e) := by
  unfold haltDecant
  exact foldl_ok _ _ (fun s a hs => memOk_of_mem (dropPart_kept _ _ _ _ _).2 hs) _ (ite_ok _ _ _ h (abortCopy_ok _ _ _ h))

theorem haltAll_ok (s : State) (h : memOk s) : memOk (haltAll s) := by
  unfold haltAll
  extract_lets t1 t2 t3
  have h1 : memOk t1 := foldl_ok _ _ (fun s a hs => memOk_of_mem (dropPart_kept _ _ _ _ _).2 hs) _ h
  have h2 : memOk t2 := foldl_ok _ _ (fun s a hs => memOk_of_mem (haltCore_kept _ _).2 hs) _ h1
  have h3 : memOk t3 := ite_ok _ _ _ (abortScrub_ok _ _ h2) h2
  exact ite_ok _ _ _ (foldl_ok _ _ (fun s a hs => memOk_of_mem (dropPart_kept _ _ _ _ _).2 hs) _
    (foldl_ok _ _ (fun s a hs => haltDecant_ok _ _ hs) _ h3)) h3

theorem retireUnit_ok (s : State) (b : Nat) (h : memOk s) : memOk (retireUnit s b) := by
  have hd := drainCancelled_ok (endCoreWork (endEntering s (.unit (buid b)) .retired) (.unit (buid b)) .retired) b
    (memOk_of_mem (s := s) (by simp) h)
  refine memOk_of_mem ?_ hd
  unfold retireUnit
  simp only [mem_mk, mem_fold, unitOff_kept]

theorem writeBankBit_ok (s : State) (w i : Nat) (v : Word64) (h : memOk s) : memOk (writeBankBit s w i v) := by
  unfold writeBankBit
  exact ite_ok _ _ _ (retireUnit_ok _ _ h) (ite_ok _ _ _ (memOk_of_mem (returnUnit_kept _ _).2 h) h)

theorem writeRetireBank_ok (s : State) (w : Nat) (v : Word64) (h : memOk s) : memOk (writeRetireBank s w v) := by
  unfold writeRetireBank
  have hf : memOk ((List.range 64).foldl (fun s i => writeBankBit s w i v) s) := foldl_ok _ _ (fun s a hs => writeBankBit_ok _ _ _ _ hs) _ h
  have hl : ∀ t a b c d e, memOk t → memOk (logSetup t a b c d e) := fun t a b c d e ht => memOk_of_mem (logSetup_kept t a b c d e).2 ht
  exact ite_ok _ _ _ (hl _ _ _ _ _ _ (ite_ok _ _ _ (hl _ _ _ _ _ _ hf) hf)) (ite_ok _ _ _ (hl _ _ _ _ _ _ hf) hf)

theorem writeRgn_ok (s : State) (o : Nat) (m v : Word64) (h : memOk s) : memOk (writeRgn s o m v) := by
  unfold writeRgn
  extract_lets n r w
  refine ite_ok _ _ _ ?_ (ite_ok _ _ _ (memOk_of_mem (writeRetireRow_kept _ _ _).2 h) (ite_ok _ _ _ (writeRetireBank_ok _ _ _ h) ?_))
  · split
    · exact memOk_of_mem (writeRegionCtrl_kept _ _ _).2 h
    · exact memOk_of_mem (writeRegionField_kept _ _ _ _ _).2 h
    · exact memOk_of_mem (writeRegionField_kept _ _ _ _ _).2 h
    · exact memOk_of_mem (writeRegionField_kept _ _ _ _ _).2 h
    · exact h
  · split
    · exact ite_ok _ _ _ (memOk_of_mem (writeSplit_kept _ _).2 h) h
    · exact ite_ok _ _ _ (memOk_of_mem (clearEcc_kept _).2 h) h
    · exact memOk_of_mem (storeRw_kept _ _ _ _).2 h

theorem barWrite_ok (s : State) (off : Nat) (m v : Word64) (h : memOk s) : memOk (barWrite s off m v) := by
  unfold barWrite
  exact ite_ok _ _ _ (memOk_of_mem (writeLow_kept _ _ _ _).2 h) (ite_ok _ _ _ (writeRgn_ok _ _ _ _ h) (ite_ok _ _ _ h
    (ite_ok _ _ _ (memOk_of_mem (writeTen_kept _ _ _ _ _).2 h) (ite_ok _ _ _ (memOk_of_mem (writeSyn_kept _ _ _ _).2 h)
      (ite_ok _ _ _ (memOk_of_mem (writeNet_kept _ _ _ _).2 h) h)))))

theorem shutDown_ok (s : State) (i j : Nat) : memOk (shutDown s i j) := ⟨rfl, rfl⟩

theorem execHostWrite_ok (line : BitVec 34) (enable : BitVec 64) (data : BitVec 512) (poison : Bool) (s : State) (h : memOk s) :
    memOk (after s (execHostWrite line enable data poison s)) := by
  unfold execHostWrite
  dsimp only
  split
  · exact h
  · simp only [after_next, viaHost_if]
    refine ite_ok _ _ _ (ite_ok _ _ _ (memOk_of_mem (s := s) (by simp) h) (ite_ok _ _ _ h (ite_ok _ _ _ (memOk_of_mem (s := s) (by simp) h)
      (ite_ok _ _ _ (hostWriteData_ok _ _ _ _ _ h) (memOk_of_mem (s := s) (by simp) h))))) h

theorem execHostRead_ok (ma : BitVec 40) (len : Nat) (s : State) (h : memOk s) : memOk (after s (execHostRead ma len s)) := by
  unfold execHostRead
  dsimp only
  split
  · exact h
  · simp only [after_next, viaHost_if]
    refine ite_ok _ _ _ (ite_ok _ _ _ (memOk_of_mem (s := s) (by simp) h) (ite_ok _ _ _ (memOk_of_mem (s := s) (by simp) h)
      (ite_ok _ _ _ (hostReadData_ok _ _ _ h) (memOk_of_mem (s := s) (by simp) h)))) h

theorem execColumnSlot_ok (b : BitVec 12) (s : State) (h : memOk s) : memOk (after s (execColumnSlot b s)) := by
  unfold execColumnSlot
  simp only [after_next]
  refine ite_ok _ _ _ h ?_
  split
  · exact advanceCopy_ok _ _ h
  · exact grantSlot_ok _ _ h

theorem startDesc_ok (s : State) (x : Executor) (h : memOk s) : memOk (startDesc s x) := by
  unfold startDesc
  split
  · exact memOk_of_mem (askStart_kept _ _).2 h
  · exact memOk_of_mem (pressStart_kept _ _).2 h
  · split
    · exact h
    · refine ite_ok _ _ _ h ?_
      split
      · exact memOk_of_mem (startCopy_kept _ _ _).2 h
      · exact memOk_of_mem (startScrub_kept _ _).2 h
      · exact startNet_ok _ _ h
      · exact memOk_of_mem (startMeter_kept _ _).2 h
      · exact memOk_of_mem (startSync_kept _ _).2 h
      · exact memOk_of_mem (beginDesc_kept _ _ _).2 h
      · exact h

theorem execDescriptorStart_ok (x : Executor) (s : State) (h : memOk s) : memOk (after s (execDescriptorStart x s)) := startDesc_ok _ _ h

theorem readProgram_ok (n : Nat) (s : State) (rd : Reader) (region : Nat) (off : Nat) (h : memOk s) :
    memOk (readProgram n s rd region off).2 := by
  induction n generalizing s off with
  | zero => exact h
  | succ k ih =>
    have hr := regionRead_ok s rd region 0 (off : Int) 8 h
    simp only [readProgram]
    (repeat' split) <;> exact ih _ _ hr

theorem execProgramFetchReturn_ok (id : Nat) (words : Option (List Word64)) (s : State) (h : memOk s) :
    memOk (after s (execProgramFetchReturn id words s)) := by
  unfold execProgramFetchReturn
  simp only [after_next]
  split
  · exact h
  · next a _ =>
    refine ite_ok _ _ _ h (ite_ok _ _ _ ?_ ?_)
    · refine memOk_of_mem (s := s) ?_ h
      (repeat' split) <;> simp
    · have hr := readProgram_ok (dfield a.raw 20 2) s { src := srcNum 8 4, tag := some (dTag a.raw), ten := some a.ten } (bits a.raw (8 * 22) 6)
        (dfield a.raw 24 8) h
      split <;> next hx => rw [hx] at hr; exact memOk_of_mem (by simp) hr

theorem execWorkComplete_ok (x : Executor) (s : State) (h : memOk s) : memOk (after s (execWorkComplete x s)) := by
  unfold execWorkComplete
  simp only [after_next]
  split
  · exact memOk_of_mem (reportUnit_kept _ _).2 h
  · exact memOk_of_mem (reportPress_kept _ _).2 h
  · exact completeCopy_ok _ _ h
  · exact completeScrub_ok _ h
  · exact memOk_of_mem (completeSend_kept _).2 h
  · exact h
  · exact memOk_of_mem (completeStarted_kept _ _ _).2 h
  · exact memOk_of_mem (completeStarted_kept _ _ _).2 h

theorem execSwitchDone_ok (ten : BitVec 8) (s : State) (h : memOk s) : memOk (after s (execSwitchDone ten s)) := by
  unfold execSwitchDone
  simp only [after_next]
  split
  · exact h
  · next w _ =>
    refine memOk_of_mem ?_ (clearObject_ok s w.kind w.index w.old h)
    refine (logAdd_kept _ _ _ _ _ _ _ _).2.trans ((modTen_kept _ _ _).2.trans ?_)
    split <;> simp

theorem zeroMemory_ok (s : State) (h : memOk s) : memOk (zeroMemory s) :=
  ⟨mwf_filter 0 _ _ h.1, mwf_filter 0 _ _ h.2⟩

theorem execMemoryInit_ok (failed : Option (BitVec 12)) (s : State) (h : memOk s) : memOk (after s (execMemoryInit failed s)) := by
  have hz := zeroMemory_ok s h
  unfold execMemoryInit
  simp only [after_next]
  refine ite_ok _ _ _ (ite_ok _ _ _ (memOk_of_mem ?_ hz) h) (ite_ok _ _ _ (memOk_of_mem ?_ hz) h)
  · simp
  · simp

theorem execDrainLimitExpiry_ok (dom : BitVec 9) (s : State) (h : memOk s) : memOk (after s (execDrainLimitExpiry dom s)) := by
  unfold execDrainLimitExpiry
  simp only [after_next]
  exact ite_ok _ _ _ (memOk_of_mem (domainOff_kept _ _).2 (abortDomain_ok _ _ (memOk_of_mem (s := s) (by simp) h))) h

theorem execSensorSample_ok (readings : List (BitVec 12)) (s : State) (h : memOk s) : memOk (after s (execSensorSample readings s)) := by
  unfold execSensorSample
  simp only [after_next]
  generalize hu : sensorEvent (takeSample (advanceTo s (s.elapsed + (100 * Config.us - s.time % (100 * Config.us)))) readings) = u
  have ht : memOk u := by
    rw [← hu]
    exact memOk_of_mem (sensorEvent_kept _).2 (memOk_of_mem (takeSample_ident _ _).2 (memOk_of_mem (advanceTo_kept _ _).2 h))
  refine ite_ok _ _ _ h (ite_ok _ _ _ ht ?_)
  have hj : ∀ t, memOk t → memOk (List.foldl judgeStack (settleRuns t) (List.range 9)) := fun t ht =>
    foldl_ok _ _ (fun s a hs => memOk_of_mem (judgeStack_ident _ _).2 hs) _ (memOk_of_mem (settleRuns_kept _).2 ht)
  split
  · exact shutDown_ok _ _ _
  · exact haltAll_ok _ (memOk_of_mem (applyTether_ident _).2 (hj _ (memOk_of_mem (logSingles_kept _ _).2 ht)))

theorem warmIfUp_ok (s : State) (memClr : Bool) (h : memOk s) : memOk (warmIfUp s memClr) := ite_ok _ _ _ (warmReset_ok _ _ h) h

theorem execPowerLoss_ok (s : State) (h : memOk s) : memOk (after s (execPowerLoss s)) := by
  unfold execPowerLoss
  exact ite_ok _ _ _ h (ite_ok _ _ _ ⟨rfl, rfl⟩ ⟨rfl, rfl⟩)

theorem execPowerGood_ok (s : State) (h : memOk s) : memOk (after s (execPowerGood s)) := by
  unfold execPowerGood
  exact ite_ok _ _ _ ⟨rfl, rfl⟩ h

theorem execPerstAssert_ok (s : State) (h : memOk s) : memOk (after s (execPerstAssert s)) := by
  unfold execPerstAssert
  simp only [after_next]
  have hu : memOk (hostLinkDown (advanceTo { s with boot := { s.boot with perst := true } } (s.elapsed + 100 * Config.us))) :=
    memOk_of_mem (hostLinkDown_kept _).2 (memOk_of_mem (advanceTo_kept _ _).2 h)
  exact ite_ok _ _ _ h (ite_ok _ _ _ (coldReset_ok _ hu) hu)

theorem command_ok (s : State) (slot kind : Nat) (go : State → State) (hg : ∀ t, memOk t → memOk (go t)) (h : memOk s) :
    memOk (command s slot kind go) := by
  unfold command
  exact ite_ok _ _ _ h (ite_ok _ _ _ (memOk_of_mem (reply_kept _ _).2 h) (hg _ h))

theorem execModuleResetCold_ok (s : State) (h : memOk s) : memOk (after s (execModuleResetCold s)) := by
  unfold execModuleResetCold
  exact command_ok _ _ _ _ (fun t ht => ite_ok _ _ _ (coldReset_ok _ (memOk_of_mem (reply_kept _ _).2 ht)) (memOk_of_mem (reply_kept _ _).2 ht)) h

theorem execModuleResetWarm_ok (s : State) (h : memOk s) : memOk (after s (execModuleResetWarm s)) := by
  unfold execModuleResetWarm
  exact command_ok _ _ _ _ (fun t ht => warmIfUp_ok _ _ (memOk_of_mem (reply_kept _ _).2 ht)) h

theorem execRegisterWrite_ok (off : BitVec 24) (size : Nat) (value : Word64) (s : State) (h : memOk s) :
    memOk (after s (execRegisterWrite off size value s)) := by
  unfold execRegisterWrite
  simp only [after_next, viaHost_if]
  refine ite_ok _ _ _ ?_ h
  split
  · exact barWrite_ok _ _ _ _ h
  · exact h

theorem execRetireBankWrite_ok (w : BitVec 6) (value : Word64) (s : State) (h : memOk s) :
    memOk (after s (execRetireBankWrite w value s)) := ite_ok _ _ _ (writeRetireBank_ok _ _ _ h) h

theorem viaSeq_ok (s : State) (f : Frame) (c : Prop) [Decidable c] (h : memOk s) : memOk (if c then sequenced s f else s) :=
  ite_ok _ _ _ (sequenced_ok _ _ h) h

theorem execDppHello_ok (f : Frame) (s : State) (h : memOk s) : memOk (after s (execDppHello f s)) := viaSeq_ok _ _ _ h
theorem execDppWrite_ok (f : Frame) (s : State) (h : memOk s) : memOk (after s (execDppWrite f s)) := viaSeq_ok _ _ _ h
theorem execDppRead_ok (f : Frame) (s : State) (h : memOk s) : memOk (after s (execDppRead f s)) := viaSeq_ok _ _ _ h
theorem execDppFlagSet_ok (f : Frame) (s : State) (h : memOk s) : memOk (after s (execDppFlagSet f s)) := viaSeq_ok _ _ _ h
theorem execDppFlagClear_ok (f : Frame) (s : State) (h : memOk s) : memOk (after s (execDppFlagClear f s)) := viaSeq_ok _ _ _ h
theorem execDppFlagTestclr_ok (f : Frame) (s : State) (h : memOk s) : memOk (after s (execDppFlagTestclr f s)) := viaSeq_ok _ _ _ h
theorem execDppFlagTest_ok (f : Frame) (s : State) (h : memOk s) : memOk (after s (execDppFlagTest f s)) := viaSeq_ok _ _ _ h
theorem execDppFlagWatch_ok (f : Frame) (s : State) (h : memOk s) : memOk (after s (execDppFlagWatch f s)) := viaSeq_ok _ _ _ h
theorem execDppFlagWatchClr_ok (f : Frame) (s : State) (h : memOk s) : memOk (after s (execDppFlagWatchClr f s)) := viaSeq_ok _ _ _ h
theorem execDppFlagFire_ok (f : Frame) (s : State) (h : memOk s) : memOk (after s (execDppFlagFire f s)) := viaSeq_ok _ _ _ h
theorem execDppFlagResult_ok (f : Frame) (s : State) (h : memOk s) : memOk (after s (execDppFlagResult f s)) := viaSeq_ok _ _ _ h
theorem execDppArrive_ok (f : Frame) (s : State) (h : memOk s) : memOk (after s (execDppArrive f s)) := viaSeq_ok _ _ _ h
theorem execDppRelease_ok (f : Frame) (s : State) (h : memOk s) : memOk (after s (execDppRelease f s)) := viaSeq_ok _ _ _ h
theorem execDppPartial_ok (f : Frame) (s : State) (h : memOk s) : memOk (after s (execDppPartial f s)) := viaSeq_ok _ _ _ h

theorem execJoinRequest_ok (f : Frame) (s : State) (h : memOk s) : memOk (after s (execJoinRequest f s)) := by
  unfold execJoinRequest
  refine ite_ok _ _ _ (unsequenced_ok _ _ _ (fun t m ht => ?_) h) h
  refine memOk_of_mem (s := t) ?_ ht
  (repeat' split) <;> simp

theorem execJoinRefuse_ok (f : Frame) (s : State) (h : memOk s) : memOk (after s (execJoinRefuse f s)) := by
  unfold execJoinRefuse
  refine ite_ok _ _ _ (unsequenced_ok _ _ _ (fun t m ht => ?_) h) h
  refine memOk_of_mem (s := t) ?_ ht
  (repeat' split) <;> simp

theorem execJoinReadmit_ok (f : Frame) (s : State) (h : memOk s) : memOk (after s (execJoinReadmit f s)) := by
  unfold execJoinReadmit
  refine ite_ok _ _ _ (unsequenced_ok _ _ _ (fun t m ht => ?_) h) h
  refine memOk_of_mem (s := t) ?_ ht
  dsimp only
  (repeat' split) <;> simp

theorem execDppNak_ok (f : Frame) (s : State) (h : memOk s) : memOk (after s (execDppNak f s)) := by
  unfold execDppNak
  refine ite_ok _ _ _ (unsequenced_ok _ _ _ (fun t m ht => ?_) h) h
  refine memOk_of_mem (s := t) ?_ ht
  dsimp only
  (repeat' split) <;> simp

theorem execJoinAccept_ok (f : Frame) (s : State) (h : memOk s) : memOk (after s (execJoinAccept f s)) := by
  unfold execJoinAccept
  refine ite_ok _ _ _ (unsequenced_ok _ _ _ (fun t m ht => ?_) h) h
  refine ite_ok _ _ _ (memOk_of_mem (logMember_kept _ _ _).2 ?_) ht
  refine foldl_ok _ _ (fun s a hs => ite_ok _ _ _ hs (memOk_of_mem (admitPeer_kept _ _ _).2 hs)) _ (memOk_of_mem (admitPeer_kept _ _ _).2 ht)

theorem execJoinAnnounce_ok (f : Frame) (s : State) (h : memOk s) : memOk (after s (execJoinAnnounce f s)) := by
  unfold execJoinAnnounce
  refine ite_ok _ _ _ (unsequenced_ok _ _ _ (fun t m ht => ?_) h) h
  refine ite_ok _ _ _ ht (fromMember_ok _ _ _ _ (fun u hu => ?_) ht)
  refine memOk_of_mem (s := u) ?_ hu
  (repeat' split) <;> simp

theorem execJoinLeave_ok (f : Frame) (s : State) (h : memOk s) : memOk (after s (execJoinLeave f s)) := by
  unfold execJoinLeave
  refine ite_ok _ _ _ (unsequenced_ok _ _ _ (fun t m ht => ?_) h) h
  refine fromMember_ok _ _ _ _ (fun u hu => ?_) ht
  refine memOk_of_mem (s := u) ?_ hu
  (repeat' split) <;> simp

theorem execJoinReport_ok (f : Frame) (s : State) (h : memOk s) : memOk (after s (execJoinReport f s)) := by
  unfold execJoinReport
  refine ite_ok _ _ _ (unsequenced_ok _ _ _ (fun t m ht => ?_) h) h
  refine fromMember_ok _ _ _ _ (fun u hu => ?_) ht
  refine memOk_of_mem (s := u) ?_ hu
  (repeat' split) <;> simp

theorem execTimeSync_ok (f : Frame) (s : State) (h : memOk s) : memOk (after s (execTimeSync f s)) := by
  unfold execTimeSync
  refine ite_ok _ _ _ (unsequenced_ok _ _ _ (fun t m ht => ?_) h) h
  refine fromMember_ok _ _ _ _ (fun u hu => ?_) ht
  refine memOk_of_mem (s := u) ?_ hu
  (repeat' split) <;> simp

theorem execTimeDelayReq_ok (f : Frame) (s : State) (h : memOk s) : memOk (after s (execTimeDelayReq f s)) := by
  unfold execTimeDelayReq
  refine ite_ok _ _ _ (unsequenced_ok _ _ _ (fun t m ht => ?_) h) h
  refine fromMember_ok _ _ _ _ (fun u hu => ?_) ht
  refine memOk_of_mem (s := u) ?_ hu
  (repeat' split) <;> simp

theorem execTimeDelayResp_ok (f : Frame) (s : State) (h : memOk s) : memOk (after s (execTimeDelayResp f s)) := by
  unfold execTimeDelayResp
  refine ite_ok _ _ _ (unsequenced_ok _ _ _ (fun t m ht => ?_) h) h
  refine fromMember_ok _ _ _ _ (fun u hu => ?_) ht
  refine memOk_of_mem (s := u) ?_ hu
  (repeat' split) <;> simp

theorem execDppAck_ok (f : Frame) (s : State) (h : memOk s) : memOk (after s (execDppAck f s)) := by
  unfold execDppAck
  refine ite_ok _ _ _ (unsequenced_ok _ _ _ (fun t m ht => ?_) h) h
  refine fromMember_ok _ _ _ _ (fun u hu => ?_) ht
  refine memOk_of_mem (s := u) ?_ hu
  (repeat' split) <;> simp

theorem execTimeStep_ok (f : Frame) (s : State) (h : memOk s) : memOk (after s (execTimeStep f s)) := by
  unfold execTimeStep
  refine ite_ok _ _ _ (unsequenced_ok _ _ _ (fun t m ht => ?_) h) h
  refine fromMember_ok _ _ _ _ (fun u hu => ?_) ht
  refine ite_ok _ _ _ (ite_ok _ _ _ (foldl_ok _ _ (fun s a hs => memOk_of_mem (sendTime_kept _ _ _ _ _).2 hs) _ ?_) hu) ?_
  · exact memOk_of_mem (stepTime_kept _ _ _).2 hu
  · exact memOk_of_mem (stepTime_kept _ _ _).2 hu

theorem execBusyNakTimer_ok (m : BitVec 6) (s : State) (h : memOk s) : memOk (after s (execBusyNakTimer m s)) := by
  unfold execBusyNakTimer
  simp only [after_next]
  split
  · exact settleRx_ok _ _ (memOk_of_mem (openPartial_kept _ _ _ _).2 (memOk_of_mem (advanceTo_kept _ _).2 h))
  · exact h

theorem execPget_ok (e : BitVec 4) (s : State) (h : memOk s) : memOk (after s (execPget e s)) := windowOp_ok _ _ _ _ h
theorem execPput_ok (e : BitVec 4) (s : State) (h : memOk s) : memOk (after s (execPput e s)) := windowOp_ok _ _ _ _ h

theorem inWindow_ok (s : State) (go : State → State) (hg : memOk (go s)) (h : memOk s) : memOk (inWindow s go) :=
  ite_ok _ _ _ (memOk_of_mem (reply_kept _ _).2 hg) (memOk_of_mem (s := s) (by simp) h)

theorem execCommitSvn_ok (s : State) (h : memOk s) : memOk (after s (execCommitSvn s)) := by
  unfold execCommitSvn
  exact command_ok _ _ _ _ (fun t ht => ite_ok _ _ _ (memOk_of_mem (reply_kept _ _).2 ht) (inWindow_ok _ _ ⟨ht.1, ht.2⟩ ht)) h

theorem execRevokeKey_ok (k : BitVec 3) (s : State) (h : memOk s) : memOk (after s (execRevokeKey k s)) := by
  unfold execRevokeKey
  exact command_ok _ _ _ _ (fun t ht => ite_ok _ _ _ (memOk_of_mem (reply_kept _ _).2 ht) (inWindow_ok _ _ ⟨ht.1, ht.2⟩ ht)) h

/-- Every command leaves the memories in canonical form. -/
theorem exec_ok (c : Instr) (s : State) (h : memOk s) : memOk (after s (exec c s)) := by
  cases c with
  | powerGood => exact execPowerGood_ok s h
  | powerLoss => exact execPowerLoss_ok s h
  | railsUp ok => exact memOk_of_mem (execRailsUp_kept ok s).2 h
  | pllLock => exact memOk_of_mem (execPllLock_kept s).2 h
  | romDone => exact memOk_of_mem (execRomDone_kept s).2 h
  | firmwareVerify => exact memOk_of_mem (execFirmwareVerify_kept s).2 h
  | linkTrainingDone failed => exact memOk_of_mem (execLinkTrainingDone_kept failed s).2 h
  | memoryInit failed => exact execMemoryInit_ok failed s h
  | cxlTrainDone ok => exact memOk_of_mem (execCxlTrainDone_kept ok s).2 h
  | perstAssert => exact execPerstAssert_ok s h
  | perstDeassert => exact memOk_of_mem (execPerstDeassert_kept s).2 h
  | warmReset memClr => exact warmIfUp_ok s memClr h
  | functionLevelReset => exact memOk_of_mem (execFunctionLevelReset_kept s).2 h
  | refclkLost => exact memOk_of_mem (execRefclkLost_kept s).2 h
  | refGood => exact memOk_of_mem (execRefGood_kept s).2 h
  | relockSwitch => exact memOk_of_mem (execRelockSwitch_kept s).2 h
  | bypassClose stack => exact memOk_of_mem (execBypassClose_kept stack s).2 h
  | bypassReopen stack => exact memOk_of_mem (execBypassReopen_kept stack s).2 h
  | ehregWatchdogExpiry => exact memOk_of_mem (execEhregWatchdogExpiry_kept s).2 h
  | directoryWriteRetry => exact memOk_of_mem (execDirectoryWriteRetry_kept s).2 h
  | hostRead ma len => exact execHostRead_ok ma len s h
  | hostWrite line enable data poison => exact execHostWrite_ok line enable data poison s h
  | controlPageInvalidAccess ten off len write value => exact memOk_of_mem (execControlPageInvalidAccess_kept ten off len write value s).2 h
  | doorbellSubmission ten off size value => exact memOk_of_mem (execDoorbellSubmission_kept ten off size value s).2 h
  | doorbellHead ten off size value => exact memOk_of_mem (execDoorbellHead_kept ten off size value s).2 h
  | directSlotWrite ten off size data => exact memOk_of_mem (execDirectSlotWrite_kept ten off size data s).2 h
  | ringFetch ten ring => exact memOk_of_mem (execRingFetch_kept ten ring s).2 h
  | fetchReturn id entries => exact memOk_of_mem (execFetchReturn_kept id entries s).2 h
  | fetchTimeout id => exact memOk_of_mem (execFetchTimeout_kept id s).2 h
  | nop ten src => exact memOk_of_mem (execNop_kept ten src s).2 h
  | buRun ten src => exact memOk_of_mem (execBuRun_kept ten src s).2 h
  | buLoad ten src => exact memOk_of_mem (execBuLoad_kept ten src s).2 h
  | decantCopy ten src => exact memOk_of_mem (execDecantCopy_kept ten src s).2 h
  | pressRun ten src => exact memOk_of_mem (execPressRun_kept ten src s).2 h
  | pressLoad ten src => exact memOk_of_mem (execPressLoad_kept ten src s).2 h
  | flagSet ten src => exact memOk_of_mem (execFlagSet_kept ten src s).2 h
  | flagClear ten src => exact memOk_of_mem (execFlagClear_kept ten src s).2 h
  | kiteArm ten src => exact memOk_of_mem (execKiteArm_kept ten src s).2 h
  | barrierInit ten src => exact memOk_of_mem (execBarrierInit_kept ten src s).2 h
  | fence ten src => exact memOk_of_mem (execFence_kept ten src s).2 h
  | scrub ten src => exact memOk_of_mem (execScrub_kept ten src s).2 h
  | netSend ten src => exact memOk_of_mem (execNetSend_kept ten src s).2 h
  | meterSnap ten src => exact memOk_of_mem (execMeterSnap_kept ten src s).2 h
  | descriptorEnqueue x => exact memOk_of_mem (execDescriptorEnqueue_kept x s).2 h
  | descriptorWaitRegister x => exact memOk_of_mem (execDescriptorWaitRegister_kept x s).2 h
  | waitLimitExpiry id => exact memOk_of_mem (execWaitLimitExpiry_kept id s).2 h
  | descriptorStart x => exact execDescriptorStart_ok x s h
  | workComplete x => exact execWorkComplete_ok x s h
  | recordObservable id => exact memOk_of_mem (execRecordObservable_kept id s).2 h
  | cacheWriteFail id => exact memOk_of_mem (execCacheWriteFail_kept id s).2 h
  | stagedRecordDrain ten => exact memOk_of_mem (execStagedRecordDrain_kept ten s).2 h
  | irqHoldoffExpiry ten vec => exact memOk_of_mem (execIrqHoldoffExpiry_kept ten vec s).2 h
  | ballastWindow => exact memOk_of_mem (execBallastWindow_kept s).2 h
  | ballastGrant stack => exact memOk_of_mem (execBallastGrant_kept stack s).2 h
  | unitWakeDone b => exact memOk_of_mem (execUnitWakeDone_kept b s).2 h
  | idleGateExpiry b => exact memOk_of_mem (execIdleGateExpiry_kept b s).2 h
  | runPeriodTick => exact memOk_of_mem (execRunPeriodTick_kept s).2 h
  | loadApply x => exact memOk_of_mem (execLoadApply_kept x s).2 h
  | loadComplete x => exact memOk_of_mem (execLoadComplete_kept x s).2 h
  | taskLimitExpiry x => exact memOk_of_mem (execTaskLimitExpiry_kept x s).2 h
  | vectorBeat b => exact memOk_of_mem (execVectorBeat_kept b s).2 h
  | add x => exact memOk_of_mem (execAdd_kept x s).2 h
  | sub x => exact memOk_of_mem (execSub_kept x s).2 h
  | and x => exact memOk_of_mem (execAnd_kept x s).2 h
  | or x => exact memOk_of_mem (execOr_kept x s).2 h
  | xor x => exact memOk_of_mem (execXor_kept x s).2 h
  | shl x => exact memOk_of_mem (execShl_kept x s).2 h
  | shr x => exact memOk_of_mem (execShr_kept x s).2 h
  | sra x => exact memOk_of_mem (execSra_kept x s).2 h
  | mul x => exact memOk_of_mem (execMul_kept x s).2 h
  | min x => exact memOk_of_mem (execMin_kept x s).2 h
  | max x => exact memOk_of_mem (execMax_kept x s).2 h
  | slt x => exact memOk_of_mem (execSlt_kept x s).2 h
  | sltu x => exact memOk_of_mem (execSltu_kept x s).2 h
  | addi x => exact memOk_of_mem (execAddi_kept x s).2 h
  | andi x => exact memOk_of_mem (execAndi_kept x s).2 h
  | ori x => exact memOk_of_mem (execOri_kept x s).2 h
  | xori x => exact memOk_of_mem (execXori_kept x s).2 h
  | shli x => exact memOk_of_mem (execShli_kept x s).2 h
  | shri x => exact memOk_of_mem (execShri_kept x s).2 h
  | srai x => exact memOk_of_mem (execSrai_kept x s).2 h
  | muli x => exact memOk_of_mem (execMuli_kept x s).2 h
  | slti x => exact memOk_of_mem (execSlti_kept x s).2 h
  | li x => exact memOk_of_mem (execLi_kept x s).2 h
  | rds x => exact memOk_of_mem (execRds_kept x s).2 h
  | ldw b => exact memOk_of_mem (execLdw_kept b s).2 h
  | stw b => exact memOk_of_mem (execStw_kept b s).2 h
  | b x => exact memOk_of_mem (execB_kept x s).2 h
  | beq x => exact memOk_of_mem (execBeq_kept x s).2 h
  | bne x => exact memOk_of_mem (execBne_kept x s).2 h
  | blt x => exact memOk_of_mem (execBlt_kept x s).2 h
  | bge x => exact memOk_of_mem (execBge_kept x s).2 h
  | bltu x => exact memOk_of_mem (execBltu_kept x s).2 h
  | bgeu x => exact memOk_of_mem (execBgeu_kept x s).2 h
  | loop x => exact memOk_of_mem (execLoop_kept x s).2 h
  | lend x => exact memOk_of_mem (execLend_kept x s).2 h
  | lexit x => exact memOk_of_mem (execLexit_kept x s).2 h
  | fset x => exact memOk_of_mem (execFset_kept x s).2 h
  | fclr x => exact memOk_of_mem (execFclr_kept x s).2 h
  | fwait x => exact memOk_of_mem (execFwait_kept x s).2 h
  | barr b => exact memOk_of_mem (execBarr_kept b s).2 h
  | send b => exact memOk_of_mem (execSend_kept b s).2 h
  | halt b => exact memOk_of_mem (execHalt_kept b s).2 h
  | shape b => exact memOk_of_mem (execShape_kept b s).2 h
  | bstream b => exact memOk_of_mem (execBstream_kept b s).2 h
  | vdot b => exact memOk_of_mem (execVdot_kept b s).2 h
  | vaxpy b => exact memOk_of_mem (execVaxpy_kept b s).2 h
  | vmul b => exact memOk_of_mem (execVmul_kept b s).2 h
  | vadd b => exact memOk_of_mem (execVadd_kept b s).2 h
  | vmax b => exact memOk_of_mem (execVmax_kept b s).2 h
  | vexp b => exact memOk_of_mem (execVexp_kept b s).2 h
  | vred b => exact memOk_of_mem (execVred_kept b s).2 h
  | vcvt b => exact memOk_of_mem (execVcvt_kept b s).2 h
  | vld b => exact memOk_of_mem (execVld_kept b s).2 h
  | vst b => exact memOk_of_mem (execVst_kept b s).2 h
  | bwrite b => exact memOk_of_mem (execBwrite_kept b s).2 h
  | pressLdw e => exact memOk_of_mem (execPressLdw_kept e s).2 h
  | pressStw e => exact memOk_of_mem (execPressStw_kept e s).2 h
  | pshape e => exact memOk_of_mem (execPshape_kept e s).2 h
  | pew e => exact memOk_of_mem (execPew_kept e s).2 h
  | pred e => exact memOk_of_mem (execPred_kept e s).2 h
  | pnorm e => exact memOk_of_mem (execPnorm_kept e s).2 h
  | pact e => exact memOk_of_mem (execPact_kept e s).2 h
  | prope e => exact memOk_of_mem (execPrope_kept e s).2 h
  | pmerge e => exact memOk_of_mem (execPmerge_kept e s).2 h
  | ptopk e => exact memOk_of_mem (execPtopk_kept e s).2 h
  | pquant e => exact memOk_of_mem (execPquant_kept e s).2 h
  | pcvt e => exact memOk_of_mem (execPcvt_kept e s).2 h
  | pget e => exact execPget_ok e s h
  | pput e => exact execPput_ok e s h
  | pchan e => exact memOk_of_mem (execPchan_kept e s).2 h
  | precv e => exact memOk_of_mem (execPrecv_kept e s).2 h
  | pfree e => exact memOk_of_mem (execPfree_kept e s).2 h
  | psend e => exact memOk_of_mem (execPsend_kept e s).2 h
  | phalt e => exact memOk_of_mem (execPhalt_kept e s).2 h
  | pressTaskStart e => exact memOk_of_mem (execPressTaskStart_kept e s).2 h
  | recordLand e => exact memOk_of_mem (execRecordLand_kept e s).2 h
  | inLimitExpiry e => exact memOk_of_mem (execInLimitExpiry_kept e s).2 h
  | columnSlot b => exact execColumnSlot_ok b s h
  | refreshOwed b => exact memOk_of_mem (execRefreshOwed_kept b s).2 h
  | translationFill b => exact memOk_of_mem (execTranslationFill_kept b s).2 h
  | flagHomeSet flag => exact memOk_of_mem (execFlagHomeSet_kept flag s).2 h
  | flagHomeClear flag => exact memOk_of_mem (execFlagHomeClear_kept flag s).2 h
  | flagHomeTestclr flag => exact memOk_of_mem (execFlagHomeTestclr_kept flag s).2 h
  | flagHomeTest flag => exact memOk_of_mem (execFlagHomeTest_kept flag s).2 h
  | kitePoll x => exact memOk_of_mem (execKitePoll_kept x s).2 h
  | pollAnswer x => exact memOk_of_mem (execPollAnswer_kept x s).2 h
  | barrierArrival bar b => exact memOk_of_mem (execBarrierArrival_kept bar b s).2 h
  | trellisLevelArrival bar stack => exact memOk_of_mem (execTrellisLevelArrival_kept bar stack s).2 h
  | barrierReleaseDown bar stack => exact memOk_of_mem (execBarrierReleaseDown_kept bar stack s).2 h
  | syncWatchdogExpiry bar => exact memOk_of_mem (execSyncWatchdogExpiry_kept bar s).2 h
  | switchDone ten => exact execSwitchDone_ok ten s h
  | meterReport => exact memOk_of_mem (execMeterReport_kept s).2 h
  | meterUsTick => exact memOk_of_mem (execMeterUsTick_kept s).2 h
  | xlatBusyClear ten => exact memOk_of_mem (execXlatBusyClear_kept ten s).2 h
  | domainMinOffExpiry dom => exact memOk_of_mem (execDomainMinOffExpiry_kept dom s).2 h
  | domainRampDone dom => exact memOk_of_mem (execDomainRampDone_kept dom s).2 h
  | domainDrained dom => exact memOk_of_mem (execDomainDrained_kept dom s).2 h
  | drainLimitExpiry dom => exact execDrainLimitExpiry_ok dom s h
  | powerSample power volts => exact memOk_of_mem (execPowerSample_kept power volts s).2 h
  | capLoopTick => exact memOk_of_mem (execCapLoopTick_ident s).2 h
  | sensorSample readings => exact execSensorSample_ok readings s h
  | enforceAtReached stack => exact memOk_of_mem (execEnforceAtReached_ident stack s).2 h
  | tenCtrlEnable ten mode => exact memOk_of_mem (execTenCtrlEnable_kept ten mode s).2 h
  | tenCtrlDisable ten => exact memOk_of_mem (execTenCtrlDisable_kept ten s).2 h
  | tenCtrlMode ten mode => exact memOk_of_mem (execTenCtrlMode_kept ten mode s).2 h
  | tenTake ten kind index => exact memOk_of_mem (execTenTake_kept ten kind index s).2 h
  | tenGive ten kind index => exact memOk_of_mem (execTenGive_kept ten kind index s).2 h
  | xlatWrite ten => exact memOk_of_mem (execXlatWrite_kept ten s).2 h
  | xlatRead ten => exact memOk_of_mem (execXlatRead_kept ten s).2 h
  | xlatInvalidate ten => exact memOk_of_mem (execXlatInvalidate_kept ten s).2 h
  | tenMeterClear ten => exact memOk_of_mem (execTenMeterClear_kept ten s).2 h
  | tenMeterSatWrite ten value => exact memOk_of_mem (execTenMeterSatWrite_kept ten value s).2 h
  | tenSnapGo ten => exact memOk_of_mem (execTenSnapGo_kept ten s).2 h
  | ringEnable ten j log2 => exact memOk_of_mem (execRingEnable_kept ten j log2 s).2 h
  | ringDisable ten j log2 => exact memOk_of_mem (execRingDisable_kept ten j log2 s).2 h
  | regionValidate n value => exact memOk_of_mem (execRegionValidate_kept n value s).2 h
  | regionInvalidate n value => exact memOk_of_mem (execRegionInvalidate_kept n value s).2 h
  | linearSplitWrite value => exact memOk_of_mem (execLinearSplitWrite_kept value s).2 h
  | rgnEccClear => exact memOk_of_mem (execRgnEccClear_kept s).2 h
  | retireRowWrite r value => exact memOk_of_mem (execRetireRowWrite_kept r value s).2 h
  | retireBankWrite w value => exact execRetireBankWrite_ok w value s h
  | featCtrlGo => exact memOk_of_mem (execFeatCtrlGo_kept s).2 h
  | clkRelock managed => exact memOk_of_mem (execClkRelock_kept managed s).2 h
  | pwrDomReqWrite w value => exact memOk_of_mem (execPwrDomReqWrite_kept w value s).2 h
  | synBlockHomeWrite blk value => exact memOk_of_mem (execSynBlockHomeWrite_kept blk value s).2 h
  | synDbgSelect value => exact memOk_of_mem (execSynDbgSelect_kept value s).2 h
  | synDbgSnapshotReady => exact memOk_of_mem (execSynDbgSnapshotReady_kept s).2 h
  | synKiteFree k => exact memOk_of_mem (execSynKiteFree_kept k s).2 h
  | traceEnable value => exact memOk_of_mem (execTraceEnable_kept value s).2 h
  | podEnable => exact memOk_of_mem (execPodEnable_kept s).2 h
  | podDisable => exact memOk_of_mem (execPodDisable_kept s).2 h
  | leaveWaitExpiry => exact memOk_of_mem (execLeaveWaitExpiry_kept s).2 h
  | netExpel m => exact memOk_of_mem (execNetExpel_kept m s).2 h
  | netReadmit m => exact memOk_of_mem (execNetReadmit_kept m s).2 h
  | netLostClear ten m all => exact memOk_of_mem (execNetLostClear_kept ten m all s).2 h
  | registerWrite off size value => exact execRegisterWrite_ok off size value s h
  | dppHello f => exact execDppHello_ok f s h
  | joinRequest f => exact execJoinRequest_ok f s h
  | joinAccept f => exact execJoinAccept_ok f s h
  | joinRefuse f => exact execJoinRefuse_ok f s h
  | joinAnnounce f => exact execJoinAnnounce_ok f s h
  | joinLeave f => exact execJoinLeave_ok f s h
  | joinReadmit f => exact execJoinReadmit_ok f s h
  | joinReport f => exact execJoinReport_ok f s h
  | timeSync f => exact execTimeSync_ok f s h
  | timeDelayReq f => exact execTimeDelayReq_ok f s h
  | timeDelayResp f => exact execTimeDelayResp_ok f s h
  | timeStep f => exact execTimeStep_ok f s h
  | dppWrite f => exact execDppWrite_ok f s h
  | dppRead f => exact execDppRead_ok f s h
  | dppFlagSet f => exact execDppFlagSet_ok f s h
  | dppFlagClear f => exact execDppFlagClear_ok f s h
  | dppFlagTestclr f => exact execDppFlagTestclr_ok f s h
  | dppFlagTest f => exact execDppFlagTest_ok f s h
  | dppFlagWatch f => exact execDppFlagWatch_ok f s h
  | dppFlagWatchClr f => exact execDppFlagWatchClr_ok f s h
  | dppFlagFire f => exact execDppFlagFire_ok f s h
  | dppFlagResult f => exact execDppFlagResult_ok f s h
  | dppArrive f => exact execDppArrive_ok f s h
  | dppRelease f => exact execDppRelease_ok f s h
  | dppPartial f => exact execDppPartial_ok f s h
  | dppAck f => exact execDppAck_ok f s h
  | dppNak f => exact execDppNak_ok f s h
  | nonDppFrame port => exact memOk_of_mem (execNonDppFrame_kept port s).2 h
  | retransmitTimeout m => exact memOk_of_mem (execRetransmitTimeout_kept m s).2 h
  | ackTimer m => exact memOk_of_mem (execAckTimer_kept m s).2 h
  | helloTimer m => exact memOk_of_mem (execHelloTimer_kept m s).2 h
  | joinRetryTimer => exact memOk_of_mem (execJoinRetryTimer_kept s).2 h
  | busyNakTimer m => exact execBusyNakTimer_ok m s h
  | timePeriodTimer => exact memOk_of_mem (execTimePeriodTimer_kept s).2 h
  | timeLostTimer => exact memOk_of_mem (execTimeLostTimer_kept s).2 h
  | violationWindowExpiry m => exact memOk_of_mem (execViolationWindowExpiry_kept m s).2 h
  | portLinkDown p => exact memOk_of_mem (execPortLinkDown_kept p s).2 h
  | portLinkReturn p => exact memOk_of_mem (execPortLinkReturn_kept p s).2 h
  | setBootSlot slot trial => exact memOk_of_mem (execSetBootSlot_kept slot trial s).2 h
  | commitSvn => exact execCommitSvn_ok s h
  | revokeKey k => exact execRevokeKey_ok k s h
  | writeProvision p => exact memOk_of_mem (execWriteProvision_kept p s).2 h
  | moduleResetCold => exact execModuleResetCold_ok s h
  | moduleResetWarm => exact execModuleResetWarm_ok s h
  | readLog first count => exact memOk_of_mem (execReadLog_kept first count s).2 h
  | firmwareUpdate img => exact memOk_of_mem (execFirmwareUpdate_kept img s).2 h
  | i3cAddressAssign addr => exact memOk_of_mem (execI3cAddressAssign_kept addr s).2 h
  | getVersion => exact memOk_of_mem (execGetVersion_kept s).2 h
  | getCapabilities => exact memOk_of_mem (execGetCapabilities_kept s).2 h
  | negotiateAlgorithms => exact memOk_of_mem (execNegotiateAlgorithms_kept s).2 h
  | getDigests => exact memOk_of_mem (execGetDigests_kept s).2 h
  | getCertificate slot => exact memOk_of_mem (execGetCertificate_kept slot s).2 h
  | challenge nonce => exact memOk_of_mem (execChallenge_kept nonce s).2 h
  | getMeasurements index nonce => exact memOk_of_mem (execGetMeasurements_kept index nonce s).2 h
  | vendorDefinedRequest cmd ten nonce => exact memOk_of_mem (execVendorDefinedRequest_kept cmd ten nonce s).2 h
  | spdmUnsupported code => exact memOk_of_mem (execSpdmUnsupported_kept code s).2 h
  | refclkStartTimeout => exact memOk_of_mem (execRefclkStartTimeout_kept s).2 h
  | hdmDecoderCommit ways => exact memOk_of_mem (execHdmDecoderCommit_kept ways s).2 h
  | badOpcodeDescriptor ten src => exact memOk_of_mem (execBadOpcodeDescriptor_kept ten src s).2 h
  | undefinedOpcodeWord x => exact memOk_of_mem (execUndefinedOpcodeWord_kept x s).2 h
  | dppUnknownType f => exact memOk_of_mem (execDppUnknownType_kept f s).2 h
  | netRxErrFrame port => exact memOk_of_mem (execNetRxErrFrame_kept port s).2 h
  | ehregRestartDone => exact memOk_of_mem (execEhregRestartDone_kept s).2 h
  | programFetchReturn id words => exact execProgramFetchReturn_ok id words s h
  | smbusAlertResponse => exact memOk_of_mem (execSmbusAlertResponse_kept s).2 h

/-- What no command but a fuse write changes, and what a fuse write does: it sets, and never clears. -/
def fusesRise (s t : State) : Prop :=
  t.pending = s.pending ∧ t.variant = s.variant ∧ t.fuses.keyHash = s.fuses.keyHash ∧ s.fuses.svn ≤ t.fuses.svn ∧
    ∃ k, t.fuses.revoked = s.fuses.revoked ||| k

theorem fusesRise_of_ident {s t : State} (h : identOf t = identOf s) : fusesRise s t := by
  simp only [identOf, restOf, Prod.mk.injEq] at h
  exact ⟨h.1, h.2.1, by rw [h.2.2], by rw [h.2.2]; exact BitVec.le_refl _, 0#4, by rw [h.2.2]; simp⟩

theorem fusesRise_trans {s t u : State} (h : fusesRise s t) (g : fusesRise t u) : fusesRise s u := by
  obtain ⟨h1, h2, h3, h4, k, h5⟩ := h
  obtain ⟨g1, g2, g3, g4, j, g5⟩ := g
  exact ⟨g1.trans h1, g2.trans h2, g3.trans h3, BitVec.le_trans h4 g4, k ||| j, by rw [g5, h5, BitVec.or_assoc]⟩

theorem command_fuses (s : State) (slot kind : Nat) (go : State → State) (hg : ∀ t, fusesRise t (go t)) : fusesRise s (command s slot kind go) := by
  unfold command
  dsimp only
  split
  · exact fusesRise_of_ident rfl
  · split
    · exact fusesRise_of_ident ((identOf_of_rest (reply_kept _ _).1).trans rfl)
    · exact fusesRise_trans (t := logAdd s 1 (srcNum 0xE 0) 0x08 0x04 none none (leBytes 1 slot ++ [0] ++ leBytes 1 kind)) (fusesRise_of_ident rfl) (hg _)

theorem inWindow_fuses (s : State) (go : State → State) (hg : fusesRise s (go s)) : fusesRise s (inWindow s go) := by
  unfold inWindow
  split
  · exact fusesRise_trans hg (fusesRise_of_ident (identOf_of_rest (reply_kept _ _).1))
  · exact fusesRise_of_ident (identOf_of_rest (by simp))

theorem execCommitSvn_fuses (s : State) : fusesRise s (after s (execCommitSvn s)) := by
  unfold execCommitSvn
  simp only [after_next]
  refine command_fuses _ _ _ _ (fun t => ?_)
  split
  · exact fusesRise_of_ident (identOf_of_rest (reply_kept _ _).1)
  · exact inWindow_fuses _ _ ⟨rfl, rfl, rfl, by
      rw [BitVec.le_def, BitVec.toNat_ofNat, Nat.mod_eq_of_lt (by have := t.fuses.svn.isLt; omega)]
      exact Nat.le_max_left _ _, 0#4, by simp⟩

theorem execRevokeKey_fuses (k : BitVec 3) (s : State) : fusesRise s (after s (execRevokeKey k s)) := by
  unfold execRevokeKey
  simp only [after_next]
  refine command_fuses _ _ _ _ (fun t => ?_)
  split
  · exact fusesRise_of_ident (identOf_of_rest (reply_kept _ _).1)
  · exact inWindow_fuses _ _ ⟨rfl, rfl, rfl, BitVec.le_refl _, _, rfl⟩

/-- Every command leaves the queue, the variant and the key hash as they were, and the fuses only rise. -/
theorem exec_fuses (c : Instr) (s : State) : fusesRise s (after s (exec c s)) := by
  cases c with
  | powerGood => exact fusesRise_of_ident (execPowerGood_ident s)
  | powerLoss => exact fusesRise_of_ident (execPowerLoss_ident s)
  | railsUp ok => exact fusesRise_of_ident (identOf_of_rest (execRailsUp_kept ok s).1)
  | pllLock => exact fusesRise_of_ident (identOf_of_rest (execPllLock_kept s).1)
  | romDone => exact fusesRise_of_ident (identOf_of_rest (execRomDone_kept s).1)
  | firmwareVerify => exact fusesRise_of_ident (identOf_of_rest (execFirmwareVerify_kept s).1)
  | linkTrainingDone failed => exact fusesRise_of_ident (identOf_of_rest (execLinkTrainingDone_kept failed s).1)
  | memoryInit failed => exact fusesRise_of_ident (identOf_of_rest (execMemoryInit_kept failed s))
  | cxlTrainDone ok => exact fusesRise_of_ident (identOf_of_rest (execCxlTrainDone_kept ok s).1)
  | perstAssert => exact fusesRise_of_ident (execPerstAssert_ident s)
  | perstDeassert => exact fusesRise_of_ident (identOf_of_rest (execPerstDeassert_kept s).1)
  | warmReset memClr => exact fusesRise_of_ident (execWarmReset_ident memClr s)
  | functionLevelReset => exact fusesRise_of_ident (identOf_of_rest (execFunctionLevelReset_kept s).1)
  | refclkLost => exact fusesRise_of_ident (identOf_of_rest (execRefclkLost_kept s).1)
  | refGood => exact fusesRise_of_ident (identOf_of_rest (execRefGood_kept s).1)
  | relockSwitch => exact fusesRise_of_ident (identOf_of_rest (execRelockSwitch_kept s).1)
  | bypassClose stack => exact fusesRise_of_ident (identOf_of_rest (execBypassClose_kept stack s).1)
  | bypassReopen stack => exact fusesRise_of_ident (identOf_of_rest (execBypassReopen_kept stack s).1)
  | ehregWatchdogExpiry => exact fusesRise_of_ident (identOf_of_rest (execEhregWatchdogExpiry_kept s).1)
  | directoryWriteRetry => exact fusesRise_of_ident (identOf_of_rest (execDirectoryWriteRetry_kept s).1)
  | hostRead ma len => exact fusesRise_of_ident (identOf_of_rest (execHostRead_kept ma len s))
  | hostWrite line enable data poison => exact fusesRise_of_ident (identOf_of_rest (execHostWrite_kept line enable data poison s))
  | controlPageInvalidAccess ten off len write value => exact fusesRise_of_ident (identOf_of_rest (execControlPageInvalidAccess_kept ten off len write value s).1)
  | doorbellSubmission ten off size value => exact fusesRise_of_ident (identOf_of_rest (execDoorbellSubmission_kept ten off size value s).1)
  | doorbellHead ten off size value => exact fusesRise_of_ident (identOf_of_rest (execDoorbellHead_kept ten off size value s).1)
  | directSlotWrite ten off size data => exact fusesRise_of_ident (identOf_of_rest (execDirectSlotWrite_kept ten off size data s).1)
  | ringFetch ten ring => exact fusesRise_of_ident (identOf_of_rest (execRingFetch_kept ten ring s).1)
  | fetchReturn id entries => exact fusesRise_of_ident (identOf_of_rest (execFetchReturn_kept id entries s).1)
  | fetchTimeout id => exact fusesRise_of_ident (identOf_of_rest (execFetchTimeout_kept id s).1)
  | nop ten src => exact fusesRise_of_ident (identOf_of_rest (execNop_kept ten src s).1)
  | buRun ten src => exact fusesRise_of_ident (identOf_of_rest (execBuRun_kept ten src s).1)
  | buLoad ten src => exact fusesRise_of_ident (identOf_of_rest (execBuLoad_kept ten src s).1)
  | decantCopy ten src => exact fusesRise_of_ident (identOf_of_rest (execDecantCopy_kept ten src s).1)
  | pressRun ten src => exact fusesRise_of_ident (identOf_of_rest (execPressRun_kept ten src s).1)
  | pressLoad ten src => exact fusesRise_of_ident (identOf_of_rest (execPressLoad_kept ten src s).1)
  | flagSet ten src => exact fusesRise_of_ident (identOf_of_rest (execFlagSet_kept ten src s).1)
  | flagClear ten src => exact fusesRise_of_ident (identOf_of_rest (execFlagClear_kept ten src s).1)
  | kiteArm ten src => exact fusesRise_of_ident (identOf_of_rest (execKiteArm_kept ten src s).1)
  | barrierInit ten src => exact fusesRise_of_ident (identOf_of_rest (execBarrierInit_kept ten src s).1)
  | fence ten src => exact fusesRise_of_ident (identOf_of_rest (execFence_kept ten src s).1)
  | scrub ten src => exact fusesRise_of_ident (identOf_of_rest (execScrub_kept ten src s).1)
  | netSend ten src => exact fusesRise_of_ident (identOf_of_rest (execNetSend_kept ten src s).1)
  | meterSnap ten src => exact fusesRise_of_ident (identOf_of_rest (execMeterSnap_kept ten src s).1)
  | descriptorEnqueue x => exact fusesRise_of_ident (identOf_of_rest (execDescriptorEnqueue_kept x s).1)
  | descriptorWaitRegister x => exact fusesRise_of_ident (identOf_of_rest (execDescriptorWaitRegister_kept x s).1)
  | waitLimitExpiry id => exact fusesRise_of_ident (identOf_of_rest (execWaitLimitExpiry_kept id s).1)
  | descriptorStart x => exact fusesRise_of_ident (identOf_of_rest (execDescriptorStart_kept x s))
  | workComplete x => exact fusesRise_of_ident (identOf_of_rest (execWorkComplete_kept x s))
  | recordObservable id => exact fusesRise_of_ident (identOf_of_rest (execRecordObservable_kept id s).1)
  | cacheWriteFail id => exact fusesRise_of_ident (identOf_of_rest (execCacheWriteFail_kept id s).1)
  | stagedRecordDrain ten => exact fusesRise_of_ident (identOf_of_rest (execStagedRecordDrain_kept ten s).1)
  | irqHoldoffExpiry ten vec => exact fusesRise_of_ident (identOf_of_rest (execIrqHoldoffExpiry_kept ten vec s).1)
  | ballastWindow => exact fusesRise_of_ident (identOf_of_rest (execBallastWindow_kept s).1)
  | ballastGrant stack => exact fusesRise_of_ident (identOf_of_rest (execBallastGrant_kept stack s).1)
  | unitWakeDone b => exact fusesRise_of_ident (identOf_of_rest (execUnitWakeDone_kept b s).1)
  | idleGateExpiry b => exact fusesRise_of_ident (identOf_of_rest (execIdleGateExpiry_kept b s).1)
  | runPeriodTick => exact fusesRise_of_ident (identOf_of_rest (execRunPeriodTick_kept s).1)
  | loadApply x => exact fusesRise_of_ident (identOf_of_rest (execLoadApply_kept x s).1)
  | loadComplete x => exact fusesRise_of_ident (identOf_of_rest (execLoadComplete_kept x s).1)
  | taskLimitExpiry x => exact fusesRise_of_ident (identOf_of_rest (execTaskLimitExpiry_kept x s).1)
  | vectorBeat b => exact fusesRise_of_ident (identOf_of_rest (execVectorBeat_kept b s).1)
  | add x => exact fusesRise_of_ident (identOf_of_rest (execAdd_kept x s).1)
  | sub x => exact fusesRise_of_ident (identOf_of_rest (execSub_kept x s).1)
  | and x => exact fusesRise_of_ident (identOf_of_rest (execAnd_kept x s).1)
  | or x => exact fusesRise_of_ident (identOf_of_rest (execOr_kept x s).1)
  | xor x => exact fusesRise_of_ident (identOf_of_rest (execXor_kept x s).1)
  | shl x => exact fusesRise_of_ident (identOf_of_rest (execShl_kept x s).1)
  | shr x => exact fusesRise_of_ident (identOf_of_rest (execShr_kept x s).1)
  | sra x => exact fusesRise_of_ident (identOf_of_rest (execSra_kept x s).1)
  | mul x => exact fusesRise_of_ident (identOf_of_rest (execMul_kept x s).1)
  | min x => exact fusesRise_of_ident (identOf_of_rest (execMin_kept x s).1)
  | max x => exact fusesRise_of_ident (identOf_of_rest (execMax_kept x s).1)
  | slt x => exact fusesRise_of_ident (identOf_of_rest (execSlt_kept x s).1)
  | sltu x => exact fusesRise_of_ident (identOf_of_rest (execSltu_kept x s).1)
  | addi x => exact fusesRise_of_ident (identOf_of_rest (execAddi_kept x s).1)
  | andi x => exact fusesRise_of_ident (identOf_of_rest (execAndi_kept x s).1)
  | ori x => exact fusesRise_of_ident (identOf_of_rest (execOri_kept x s).1)
  | xori x => exact fusesRise_of_ident (identOf_of_rest (execXori_kept x s).1)
  | shli x => exact fusesRise_of_ident (identOf_of_rest (execShli_kept x s).1)
  | shri x => exact fusesRise_of_ident (identOf_of_rest (execShri_kept x s).1)
  | srai x => exact fusesRise_of_ident (identOf_of_rest (execSrai_kept x s).1)
  | muli x => exact fusesRise_of_ident (identOf_of_rest (execMuli_kept x s).1)
  | slti x => exact fusesRise_of_ident (identOf_of_rest (execSlti_kept x s).1)
  | li x => exact fusesRise_of_ident (identOf_of_rest (execLi_kept x s).1)
  | rds x => exact fusesRise_of_ident (identOf_of_rest (execRds_kept x s).1)
  | ldw b => exact fusesRise_of_ident (identOf_of_rest (execLdw_kept b s).1)
  | stw b => exact fusesRise_of_ident (identOf_of_rest (execStw_kept b s).1)
  | b x => exact fusesRise_of_ident (identOf_of_rest (execB_kept x s).1)
  | beq x => exact fusesRise_of_ident (identOf_of_rest (execBeq_kept x s).1)
  | bne x => exact fusesRise_of_ident (identOf_of_rest (execBne_kept x s).1)
  | blt x => exact fusesRise_of_ident (identOf_of_rest (execBlt_kept x s).1)
  | bge x => exact fusesRise_of_ident (identOf_of_rest (execBge_kept x s).1)
  | bltu x => exact fusesRise_of_ident (identOf_of_rest (execBltu_kept x s).1)
  | bgeu x => exact fusesRise_of_ident (identOf_of_rest (execBgeu_kept x s).1)
  | loop x => exact fusesRise_of_ident (identOf_of_rest (execLoop_kept x s).1)
  | lend x => exact fusesRise_of_ident (identOf_of_rest (execLend_kept x s).1)
  | lexit x => exact fusesRise_of_ident (identOf_of_rest (execLexit_kept x s).1)
  | fset x => exact fusesRise_of_ident (identOf_of_rest (execFset_kept x s).1)
  | fclr x => exact fusesRise_of_ident (identOf_of_rest (execFclr_kept x s).1)
  | fwait x => exact fusesRise_of_ident (identOf_of_rest (execFwait_kept x s).1)
  | barr b => exact fusesRise_of_ident (identOf_of_rest (execBarr_kept b s).1)
  | send b => exact fusesRise_of_ident (identOf_of_rest (execSend_kept b s).1)
  | halt b => exact fusesRise_of_ident (identOf_of_rest (execHalt_kept b s).1)
  | shape b => exact fusesRise_of_ident (identOf_of_rest (execShape_kept b s).1)
  | bstream b => exact fusesRise_of_ident (identOf_of_rest (execBstream_kept b s).1)
  | vdot b => exact fusesRise_of_ident (identOf_of_rest (execVdot_kept b s).1)
  | vaxpy b => exact fusesRise_of_ident (identOf_of_rest (execVaxpy_kept b s).1)
  | vmul b => exact fusesRise_of_ident (identOf_of_rest (execVmul_kept b s).1)
  | vadd b => exact fusesRise_of_ident (identOf_of_rest (execVadd_kept b s).1)
  | vmax b => exact fusesRise_of_ident (identOf_of_rest (execVmax_kept b s).1)
  | vexp b => exact fusesRise_of_ident (identOf_of_rest (execVexp_kept b s).1)
  | vred b => exact fusesRise_of_ident (identOf_of_rest (execVred_kept b s).1)
  | vcvt b => exact fusesRise_of_ident (identOf_of_rest (execVcvt_kept b s).1)
  | vld b => exact fusesRise_of_ident (identOf_of_rest (execVld_kept b s).1)
  | vst b => exact fusesRise_of_ident (identOf_of_rest (execVst_kept b s).1)
  | bwrite b => exact fusesRise_of_ident (identOf_of_rest (execBwrite_kept b s).1)
  | pressLdw e => exact fusesRise_of_ident (identOf_of_rest (execPressLdw_kept e s).1)
  | pressStw e => exact fusesRise_of_ident (identOf_of_rest (execPressStw_kept e s).1)
  | pshape e => exact fusesRise_of_ident (identOf_of_rest (execPshape_kept e s).1)
  | pew e => exact fusesRise_of_ident (identOf_of_rest (execPew_kept e s).1)
  | pred e => exact fusesRise_of_ident (identOf_of_rest (execPred_kept e s).1)
  | pnorm e => exact fusesRise_of_ident (identOf_of_rest (execPnorm_kept e s).1)
  | pact e => exact fusesRise_of_ident (identOf_of_rest (execPact_kept e s).1)
  | prope e => exact fusesRise_of_ident (identOf_of_rest (execPrope_kept e s).1)
  | pmerge e => exact fusesRise_of_ident (identOf_of_rest (execPmerge_kept e s).1)
  | ptopk e => exact fusesRise_of_ident (identOf_of_rest (execPtopk_kept e s).1)
  | pquant e => exact fusesRise_of_ident (identOf_of_rest (execPquant_kept e s).1)
  | pcvt e => exact fusesRise_of_ident (identOf_of_rest (execPcvt_kept e s).1)
  | pget e => exact fusesRise_of_ident (identOf_of_rest (execPget_kept e s))
  | pput e => exact fusesRise_of_ident (identOf_of_rest (execPput_kept e s))
  | pchan e => exact fusesRise_of_ident (identOf_of_rest (execPchan_kept e s).1)
  | precv e => exact fusesRise_of_ident (identOf_of_rest (execPrecv_kept e s).1)
  | pfree e => exact fusesRise_of_ident (identOf_of_rest (execPfree_kept e s).1)
  | psend e => exact fusesRise_of_ident (identOf_of_rest (execPsend_kept e s).1)
  | phalt e => exact fusesRise_of_ident (identOf_of_rest (execPhalt_kept e s).1)
  | pressTaskStart e => exact fusesRise_of_ident (identOf_of_rest (execPressTaskStart_kept e s).1)
  | recordLand e => exact fusesRise_of_ident (identOf_of_rest (execRecordLand_kept e s).1)
  | inLimitExpiry e => exact fusesRise_of_ident (identOf_of_rest (execInLimitExpiry_kept e s).1)
  | columnSlot b => exact fusesRise_of_ident (identOf_of_rest (execColumnSlot_kept b s))
  | refreshOwed b => exact fusesRise_of_ident (identOf_of_rest (execRefreshOwed_kept b s).1)
  | translationFill b => exact fusesRise_of_ident (identOf_of_rest (execTranslationFill_kept b s).1)
  | flagHomeSet flag => exact fusesRise_of_ident (identOf_of_rest (execFlagHomeSet_kept flag s).1)
  | flagHomeClear flag => exact fusesRise_of_ident (identOf_of_rest (execFlagHomeClear_kept flag s).1)
  | flagHomeTestclr flag => exact fusesRise_of_ident (identOf_of_rest (execFlagHomeTestclr_kept flag s).1)
  | flagHomeTest flag => exact fusesRise_of_ident (identOf_of_rest (execFlagHomeTest_kept flag s).1)
  | kitePoll x => exact fusesRise_of_ident (identOf_of_rest (execKitePoll_kept x s).1)
  | pollAnswer x => exact fusesRise_of_ident (identOf_of_rest (execPollAnswer_kept x s).1)
  | barrierArrival bar b => exact fusesRise_of_ident (identOf_of_rest (execBarrierArrival_kept bar b s).1)
  | trellisLevelArrival bar stack => exact fusesRise_of_ident (identOf_of_rest (execTrellisLevelArrival_kept bar stack s).1)
  | barrierReleaseDown bar stack => exact fusesRise_of_ident (identOf_of_rest (execBarrierReleaseDown_kept bar stack s).1)
  | syncWatchdogExpiry bar => exact fusesRise_of_ident (identOf_of_rest (execSyncWatchdogExpiry_kept bar s).1)
  | switchDone ten => exact fusesRise_of_ident (identOf_of_rest (execSwitchDone_kept ten s))
  | meterReport => exact fusesRise_of_ident (identOf_of_rest (execMeterReport_kept s).1)
  | meterUsTick => exact fusesRise_of_ident (identOf_of_rest (execMeterUsTick_kept s).1)
  | xlatBusyClear ten => exact fusesRise_of_ident (identOf_of_rest (execXlatBusyClear_kept ten s).1)
  | domainMinOffExpiry dom => exact fusesRise_of_ident (identOf_of_rest (execDomainMinOffExpiry_kept dom s).1)
  | domainRampDone dom => exact fusesRise_of_ident (identOf_of_rest (execDomainRampDone_kept dom s).1)
  | domainDrained dom => exact fusesRise_of_ident (identOf_of_rest (execDomainDrained_kept dom s).1)
  | drainLimitExpiry dom => exact fusesRise_of_ident (identOf_of_rest (execDrainLimitExpiry_kept dom s))
  | powerSample power volts => exact fusesRise_of_ident (identOf_of_rest (execPowerSample_kept power volts s).1)
  | capLoopTick => exact fusesRise_of_ident (execCapLoopTick_ident s).1
  | sensorSample readings => exact fusesRise_of_ident (execSensorSample_ident readings s)
  | enforceAtReached stack => exact fusesRise_of_ident (execEnforceAtReached_ident stack s).1
  | tenCtrlEnable ten mode => exact fusesRise_of_ident (identOf_of_rest (execTenCtrlEnable_kept ten mode s).1)
  | tenCtrlDisable ten => exact fusesRise_of_ident (identOf_of_rest (execTenCtrlDisable_kept ten s).1)
  | tenCtrlMode ten mode => exact fusesRise_of_ident (identOf_of_rest (execTenCtrlMode_kept ten mode s).1)
  | tenTake ten kind index => exact fusesRise_of_ident (identOf_of_rest (execTenTake_kept ten kind index s).1)
  | tenGive ten kind index => exact fusesRise_of_ident (identOf_of_rest (execTenGive_kept ten kind index s).1)
  | xlatWrite ten => exact fusesRise_of_ident (identOf_of_rest (execXlatWrite_kept ten s).1)
  | xlatRead ten => exact fusesRise_of_ident (identOf_of_rest (execXlatRead_kept ten s).1)
  | xlatInvalidate ten => exact fusesRise_of_ident (identOf_of_rest (execXlatInvalidate_kept ten s).1)
  | tenMeterClear ten => exact fusesRise_of_ident (identOf_of_rest (execTenMeterClear_kept ten s).1)
  | tenMeterSatWrite ten value => exact fusesRise_of_ident (identOf_of_rest (execTenMeterSatWrite_kept ten value s).1)
  | tenSnapGo ten => exact fusesRise_of_ident (identOf_of_rest (execTenSnapGo_kept ten s).1)
  | ringEnable ten j log2 => exact fusesRise_of_ident (identOf_of_rest (execRingEnable_kept ten j log2 s).1)
  | ringDisable ten j log2 => exact fusesRise_of_ident (identOf_of_rest (execRingDisable_kept ten j log2 s).1)
  | regionValidate n value => exact fusesRise_of_ident (identOf_of_rest (execRegionValidate_kept n value s).1)
  | regionInvalidate n value => exact fusesRise_of_ident (identOf_of_rest (execRegionInvalidate_kept n value s).1)
  | linearSplitWrite value => exact fusesRise_of_ident (identOf_of_rest (execLinearSplitWrite_kept value s).1)
  | rgnEccClear => exact fusesRise_of_ident (identOf_of_rest (execRgnEccClear_kept s).1)
  | retireRowWrite r value => exact fusesRise_of_ident (identOf_of_rest (execRetireRowWrite_kept r value s).1)
  | retireBankWrite w value => exact fusesRise_of_ident (identOf_of_rest (execRetireBankWrite_kept w value s))
  | featCtrlGo => exact fusesRise_of_ident (identOf_of_rest (execFeatCtrlGo_kept s).1)
  | clkRelock managed => exact fusesRise_of_ident (identOf_of_rest (execClkRelock_kept managed s).1)
  | pwrDomReqWrite w value => exact fusesRise_of_ident (identOf_of_rest (execPwrDomReqWrite_kept w value s).1)
  | synBlockHomeWrite blk value => exact fusesRise_of_ident (identOf_of_rest (execSynBlockHomeWrite_kept blk value s).1)
  | synDbgSelect value => exact fusesRise_of_ident (identOf_of_rest (execSynDbgSelect_kept value s).1)
  | synDbgSnapshotReady => exact fusesRise_of_ident (identOf_of_rest (execSynDbgSnapshotReady_kept s).1)
  | synKiteFree k => exact fusesRise_of_ident (identOf_of_rest (execSynKiteFree_kept k s).1)
  | traceEnable value => exact fusesRise_of_ident (identOf_of_rest (execTraceEnable_kept value s).1)
  | podEnable => exact fusesRise_of_ident (identOf_of_rest (execPodEnable_kept s).1)
  | podDisable => exact fusesRise_of_ident (identOf_of_rest (execPodDisable_kept s).1)
  | leaveWaitExpiry => exact fusesRise_of_ident (identOf_of_rest (execLeaveWaitExpiry_kept s).1)
  | netExpel m => exact fusesRise_of_ident (identOf_of_rest (execNetExpel_kept m s).1)
  | netReadmit m => exact fusesRise_of_ident (identOf_of_rest (execNetReadmit_kept m s).1)
  | netLostClear ten m all => exact fusesRise_of_ident (identOf_of_rest (execNetLostClear_kept ten m all s).1)
  | registerWrite off size value => exact fusesRise_of_ident (identOf_of_rest (execRegisterWrite_kept off size value s))
  | dppHello f => exact fusesRise_of_ident (identOf_of_rest (execDppHello_kept f s))
  | joinRequest f => exact fusesRise_of_ident (identOf_of_rest (execJoinRequest_kept f s))
  | joinAccept f => exact fusesRise_of_ident (identOf_of_rest (execJoinAccept_kept f s))
  | joinRefuse f => exact fusesRise_of_ident (identOf_of_rest (execJoinRefuse_kept f s))
  | joinAnnounce f => exact fusesRise_of_ident (identOf_of_rest (execJoinAnnounce_kept f s))
  | joinLeave f => exact fusesRise_of_ident (identOf_of_rest (execJoinLeave_kept f s))
  | joinReadmit f => exact fusesRise_of_ident (identOf_of_rest (execJoinReadmit_kept f s))
  | joinReport f => exact fusesRise_of_ident (identOf_of_rest (execJoinReport_kept f s))
  | timeSync f => exact fusesRise_of_ident (identOf_of_rest (execTimeSync_kept f s))
  | timeDelayReq f => exact fusesRise_of_ident (identOf_of_rest (execTimeDelayReq_kept f s))
  | timeDelayResp f => exact fusesRise_of_ident (identOf_of_rest (execTimeDelayResp_kept f s))
  | timeStep f => exact fusesRise_of_ident (identOf_of_rest (execTimeStep_kept f s))
  | dppWrite f => exact fusesRise_of_ident (identOf_of_rest (execDppWrite_kept f s))
  | dppRead f => exact fusesRise_of_ident (identOf_of_rest (execDppRead_kept f s))
  | dppFlagSet f => exact fusesRise_of_ident (identOf_of_rest (execDppFlagSet_kept f s))
  | dppFlagClear f => exact fusesRise_of_ident (identOf_of_rest (execDppFlagClear_kept f s))
  | dppFlagTestclr f => exact fusesRise_of_ident (identOf_of_rest (execDppFlagTestclr_kept f s))
  | dppFlagTest f => exact fusesRise_of_ident (identOf_of_rest (execDppFlagTest_kept f s))
  | dppFlagWatch f => exact fusesRise_of_ident (identOf_of_rest (execDppFlagWatch_kept f s))
  | dppFlagWatchClr f => exact fusesRise_of_ident (identOf_of_rest (execDppFlagWatchClr_kept f s))
  | dppFlagFire f => exact fusesRise_of_ident (identOf_of_rest (execDppFlagFire_kept f s))
  | dppFlagResult f => exact fusesRise_of_ident (identOf_of_rest (execDppFlagResult_kept f s))
  | dppArrive f => exact fusesRise_of_ident (identOf_of_rest (execDppArrive_kept f s))
  | dppRelease f => exact fusesRise_of_ident (identOf_of_rest (execDppRelease_kept f s))
  | dppPartial f => exact fusesRise_of_ident (identOf_of_rest (execDppPartial_kept f s))
  | dppAck f => exact fusesRise_of_ident (identOf_of_rest (execDppAck_kept f s))
  | dppNak f => exact fusesRise_of_ident (identOf_of_rest (execDppNak_kept f s))
  | nonDppFrame port => exact fusesRise_of_ident (identOf_of_rest (execNonDppFrame_kept port s).1)
  | retransmitTimeout m => exact fusesRise_of_ident (identOf_of_rest (execRetransmitTimeout_kept m s).1)
  | ackTimer m => exact fusesRise_of_ident (identOf_of_rest (execAckTimer_kept m s).1)
  | helloTimer m => exact fusesRise_of_ident (identOf_of_rest (execHelloTimer_kept m s).1)
  | joinRetryTimer => exact fusesRise_of_ident (identOf_of_rest (execJoinRetryTimer_kept s).1)
  | busyNakTimer m => exact fusesRise_of_ident (identOf_of_rest (execBusyNakTimer_kept m s))
  | timePeriodTimer => exact fusesRise_of_ident (identOf_of_rest (execTimePeriodTimer_kept s).1)
  | timeLostTimer => exact fusesRise_of_ident (identOf_of_rest (execTimeLostTimer_kept s).1)
  | violationWindowExpiry m => exact fusesRise_of_ident (identOf_of_rest (execViolationWindowExpiry_kept m s).1)
  | portLinkDown p => exact fusesRise_of_ident (identOf_of_rest (execPortLinkDown_kept p s).1)
  | portLinkReturn p => exact fusesRise_of_ident (identOf_of_rest (execPortLinkReturn_kept p s).1)
  | setBootSlot slot trial => exact fusesRise_of_ident (identOf_of_rest (execSetBootSlot_kept slot trial s).1)
  | commitSvn => exact execCommitSvn_fuses s
  | revokeKey k => exact execRevokeKey_fuses k s
  | writeProvision p => exact fusesRise_of_ident (identOf_of_rest (execWriteProvision_kept p s).1)
  | moduleResetCold => exact fusesRise_of_ident (execModuleResetCold_ident s)
  | moduleResetWarm => exact fusesRise_of_ident (execModuleResetWarm_ident s)
  | readLog first count => exact fusesRise_of_ident (identOf_of_rest (execReadLog_kept first count s).1)
  | firmwareUpdate img => exact fusesRise_of_ident (identOf_of_rest (execFirmwareUpdate_kept img s).1)
  | i3cAddressAssign addr => exact fusesRise_of_ident (identOf_of_rest (execI3cAddressAssign_kept addr s).1)
  | getVersion => exact fusesRise_of_ident (identOf_of_rest (execGetVersion_kept s).1)
  | getCapabilities => exact fusesRise_of_ident (identOf_of_rest (execGetCapabilities_kept s).1)
  | negotiateAlgorithms => exact fusesRise_of_ident (identOf_of_rest (execNegotiateAlgorithms_kept s).1)
  | getDigests => exact fusesRise_of_ident (identOf_of_rest (execGetDigests_kept s).1)
  | getCertificate slot => exact fusesRise_of_ident (identOf_of_rest (execGetCertificate_kept slot s).1)
  | challenge nonce => exact fusesRise_of_ident (identOf_of_rest (execChallenge_kept nonce s).1)
  | getMeasurements index nonce => exact fusesRise_of_ident (identOf_of_rest (execGetMeasurements_kept index nonce s).1)
  | vendorDefinedRequest cmd ten nonce => exact fusesRise_of_ident (identOf_of_rest (execVendorDefinedRequest_kept cmd ten nonce s).1)
  | spdmUnsupported code => exact fusesRise_of_ident (identOf_of_rest (execSpdmUnsupported_kept code s).1)
  | refclkStartTimeout => exact fusesRise_of_ident (identOf_of_rest (execRefclkStartTimeout_kept s).1)
  | hdmDecoderCommit ways => exact fusesRise_of_ident (identOf_of_rest (execHdmDecoderCommit_kept ways s).1)
  | badOpcodeDescriptor ten src => exact fusesRise_of_ident (identOf_of_rest (execBadOpcodeDescriptor_kept ten src s).1)
  | undefinedOpcodeWord x => exact fusesRise_of_ident (identOf_of_rest (execUndefinedOpcodeWord_kept x s).1)
  | dppUnknownType f => exact fusesRise_of_ident (identOf_of_rest (execDppUnknownType_kept f s).1)
  | netRxErrFrame port => exact fusesRise_of_ident (identOf_of_rest (execNetRxErrFrame_kept port s).1)
  | ehregRestartDone => exact fusesRise_of_ident (identOf_of_rest (execEhregRestartDone_kept s).1)
  | programFetchReturn id words => exact fusesRise_of_ident (identOf_of_rest (execProgramFetchReturn_kept id words s))
  | smbusAlertResponse => exact fusesRise_of_ident (identOf_of_rest (execSmbusAlertResponse_kept s).1)

end Sys2Proof.Machine
end

