-- ==== Sys2Proof/Laws/Shared.lean ====
section
/-! SUPPORT. What the shared operations of accesses, messages and answers do, case by case. -/

namespace Sys2Proof.Machine

/-- A peer's record after an update of one. -/
@[simp] theorem peerOf_modPeer (s : State) (m c : Nat) (f : Peer → Peer) :
    peerOf (modPeer s m f) c = if c = m then f (peerOf s m) else peerOf s c := peerOf_setPeer ..

/-- An update of the message open with a peer changes its `rx` alone. -/
@[simp] theorem peerOf_modRx (s : State) (m c : Nat) (g : RxMsg → RxMsg) :
    peerOf (modRx s m g) c = if c = m then { peerOf s m with rx := g (peerOf s m).rx } else peerOf s c := peerOf_modPeer ..

/-- A line on which no pair is held is read as it stands. -/
theorem closeRead_free {s : State} {b o : Nat} (h : heldPair s b o = none) : closeRead s b o = s := by
  rw [closeRead, h]

/-- A line on which no pair is held is accessed as it stands. -/
theorem settleLine_free {s : State} {a : Nat} (h : heldPair s (addrBank a) (a % 2 ^ 27) = none) : settleLine s a = s := by
  rw [settleLine, h]

/-- With an empty write queue no pair of a bank is held. -/
theorem heldPair_empty {s : State} {b o : Nat} (h : (unitOf s b).wq = []) : heldPair s b o = none := by
  rw [heldPair, h]
  rfl

/-- With an empty write queue no read-modify-write of a bank is open. -/
theorem rmwOpen_empty {s : State} {b : Nat} (h : (unitOf s b).wq = []) : rmwOpen s b = false := by
  rw [rmwOpen, h]

/-- A word that an access has decoded is not decoded, nor counted, again. -/
theorem readOnce_seen {s : State} {rd : Reader} {seen : List (Nat × PWord)} {w : Nat} {v : PWord} (h : (w, v) ∈ seen) :
    (readOnce s rd seen w).2 = s := by
  unfold readOnce
  split
  · rfl
  · next hn => exact absurd (List.find?_eq_none.1 hn (w, v) h) (by simp)

/-- A word that an access has not decoded yet is read. -/
theorem readOnce_new {s : State} {rd : Reader} {seen : List (Nat × PWord)} {w : Nat} (h : ∀ e ∈ seen, e.1 ≠ w) :
    readOnce s rd seen w = readWord s rd w := by
  unfold readOnce
  rw [List.find?_eq_none.2 (by simpa using h)]

/-- An answer of the manager takes effect where its tenancy exists and owns every waiting entity that it concerns. -/
theorem forTenancy_go {s : State} {m : Nat} {f : Frame} {mine : RemoteWait → Bool} {go : State}
    (ht : (tenOf s f.tenancy.toNat).enabled = true) (hr : ∀ r ∈ s.net.remote, mine r = true → replyTen s r.reply = some f.tenancy.toNat) :
    forTenancy s m f mine go = go := by
  have hn : (s.net.remote.filter mine).any (fun r => replyTen s r.reply != some f.tenancy.toNat) = false := by
    simpa using hr
  simp [forTenancy, ht, hn]

/-- Of a frame that is no REPLY only its own bytes are known of its message. -/
theorem messageLen_write {s : State} {m : Nat} {f : Frame} (h : f.reply = false) : messageLen s m f = f.payload.length := by
  simp [messageLen, h]

end Sys2Proof.Machine
end

