-- ==== Sys2Proof/Tests/Slice0.lean ====
section
/-! SUPPORT. Tests of the model, each expected result from the spec, and a witness for the hypotheses of each statement. -/

open Sys2Proof Sys2Proof.Machine Sys2Proof.Safety

namespace Sys2Proof.Tests

set_option Elab.async false

/-! Small states. -/

/-- A running module: step 8, link up, memory active; tenancy 9 owns groups 0 and 20, flag block 0, barrier 3, press engine 2; its rings are
enabled; region 5 is the bank view of group 20 and region 6 that of group 0. -/
def live : State :=
  { State.reset with
    boot := { Boot.reset with step := 8, memActive := true, perst := false, linkUp := true, keyReady := true, resetDue := false }
    clk := { Clk.reset with locked := true, refGood := true }
    tens := [(9, { Tenancy.empty with
      enabled := true, rings := (List.range 6).map (fun j => (j, { Ring.empty with enabled := true })) })]
    groupOwner := [(0, some 9), (20, some 9)]
    blockOwner := [(0, some 9)]
    barOwner := [(3, some 9)]
    pressOwner := [(2, some 9)]
    regions := [(5, { Region.empty with valid := true, owner := 9, gFirst := 20, gCount := 1, size := 2 ^ 21 }),
                (6, { Region.empty with valid := true, owner := 9, gFirst := 0, gCount := 1, size := 2 ^ 21 })]
    pwr := { Pwr.reset with dom := (List.range 270).map (fun d => (d, { Domain.off with st := .on })) } }

/-- The unit of the tests, in group 20 of stack 0. -/
abbrev u : CoreId := .unit 0x143
/-- The press engine of the tests. -/
abbrev e2 : CoreId := .press 2

/-- A task of tenancy 9 with TAG 7. -/
def task : Task := { id := 1, ten := 9, tag := 7, raw := 0, startE := 0, startT := 0, startCk := 0, polled := false }

/-- A core of a running module with a task, whose register i holds the value rs i, about to issue word w at index 0. -/
def at0 (x : CoreId) (w : Word64) (rs : SMap PWord := []) : State :=
  let s := modProc live x (fun p => { p with task := some task, regs := rs, cask0 := { Cask.empty with words := [(0, w)] } })
  match x with
  | .unit b => modUnit s b.toNat (fun q => { q with st := .running })
  | .press _ => s

/-- An instruction word: its opcode and its fields, each at its lowest bit. -/
def word (op : Nat) (fs : List (Nat × Nat)) : Word64 := BitVec.ofNat 64 (fs.foldl (fun a f => a + f.2 * 2 ^ f.1) (op * 2 ^ 56))

/-- A register that holds a clean value. -/
def clean (v : Nat) : PWord := { val := BitVec.ofNat 32 v, poison := false }

/-- A descriptor: its bytes from each offset. -/
def desc (fs : List (Nat × Nat)) : Descriptor := BitVec.ofNat 512 (fs.foldl (fun a f => a + f.2 * 256 ^ f.1) 0)

/-- What a core's next word is. -/
def front (s : State) (c : Instr) : State := { s with pending := [c] }

/-- An arrival at barrier 3 on its way. -/
def arr3 (n : Nat) : Arrival := { bar := 3, unit := n, from_ := ⟨0, 0, 0⟩ }

/-! Well-formed commands, and one that is not for each check. -/

def frame0 : Frame :=
  { port := 0, v4 := false, ip0 := 0, ip1 := 0, version := 1, type := 1, src := 0, dst := 0, podId := 0, tag := 0, seq := 0, ackno := 0,
    incarnation := 0, tenancy := 0, ackV := false, first := true, last := true, reply := false, poison := false, retx := false, reserved := 0,
    length := 0, param := 0, payload := [], poisonMap := [] }

theorem test_wf_lines :
    (Instr.hostRead 0 64).wf = true ∧ (Instr.hostRead 1 64).wf = false ∧ (Instr.hostRead 0 0).wf = false ∧
    (Instr.controlPageInvalidAccess 9 60 8 false 0).wf = false ∧ (Instr.doorbellSubmission 9 0 0 0).wf = false ∧
    (Instr.doorbellHead 9 0 65 0).wf = false ∧ (Instr.directSlotWrite 9 0x1001 64 0).wf = false ∧ (Instr.registerWrite 60 8 0).wf = false := by
  decide

theorem test_wf_lists :
    (Instr.fetchReturn 1 []).wf = false ∧ (Instr.fetchReturn 1 [none]).wf = true ∧ (Instr.programFetchReturn 1 (some [])).wf = false ∧
    (Instr.sensorSample []).wf = false ∧ (Instr.writeProvision (some { hold := false, fields := [(8, 0), (0, 0)] })).wf = false ∧
    (Instr.firmwareUpdate { header := [], body := [] }).wf = false ∧ (Instr.readLog 0 256).wf = false ∧
    (Instr.hdmDecoderCommit 0).wf = false := by
  decide

theorem test_wf_frames :
    frame0.wf = true ∧ (Instr.dppHello { frame0 with port := 2 }).wf = false ∧ (Instr.dppAck { frame0 with version := 256 }).wf = false ∧
    (Instr.dppNak { frame0 with type := 256 }).wf = false ∧ (Instr.dppWrite { frame0 with length := 1 }).wf = false ∧
    (Instr.dppRead { frame0 with poison := true, poisonMap := [true] }).wf = false ∧
    (Instr.dppPartial { frame0 with poisonMap := [true] }).wf = false := by
  decide

/-! Worked examples of the spec. -/

/-- Worked examples of "The address map": a bank-view and a linear-pool address at a split of 64 MiB. -/
theorem test_address_map : maMap 0x4000000 0x3A41234560 = (0xE90, 0x1234560) ∧ maMap 0x4000000 0x4001234540 = (0xE8D, 0x4001240) := by
  decide

/-- The example of R336 and the worked case of R338. -/
theorem test_secded : encodeCheck 1 = 0x43 ∧ classify 3 0x43 = .corrected 1 ∧ encodeCheck 0 = 0 ∧ classify 0 0x7F = .marker := by
  decide +kernel

/-- Steps 1 to 4 of the worked MXFP4 block: 58, -13, 20 and 0.3. -/
theorem test_mxfp4_block :
    quantBlock 9 ([0x42680000, 0xC1500000, 0x41A00000, 0x3E99999A] ++ List.replicate 28 0) =
      (0x82, [0x7, 0xB, 0x4, 0x0] ++ List.replicate 28 0) := by
  decide +kernel

/-- Step 7 of the worked MXFP4 block: 2^25 + 10 rounds to 2^25 + 8. -/
theorem test_accumulate_ties_to_even : addF32 0x4C000000 0x41200000 = 0x4C000002 := by decide +kernel

/-- Step 6 of the worked MXFP4 block: the four E4M3 bytes. -/
theorem test_e4m3 : [0x38, 0x30, 0xC0, 0x44].map (fun b => toF32 (decodeNum 2 b)) = [0x3F800000, 0x3F000000, 0xC0000000, 0x40400000] := by
  decide +kernel

/-- The worked exchange of "Pods": 3,160 ticks ahead. -/
theorem test_exchange : exchangeOffset 1000000 1003470 1003800 1000950 = 3160 := by decide

/-- SHAKE256 of the empty message (FIPS 202) begins 46 b9 dd 2b. -/
theorem test_shake256 : (shake256 []).take 4 = [0x46, 0xB9, 0xDD, 0x2B] := by decide +kernel

/-- The state after an outcome, or the state before it. -/
def next (s : State) (o : Host.Outcome State Fault Refusal) : State :=
  match o with
  | .next t => t
  | _ => s

/-- SHAPE sh0, 128, 1, 8, 0xC0 (the word of "Bank-unit instruction set"). -/
theorem test_shape_word :
    shapeOf (procOf (next live (exec (.shape 0x143) (at0 u 0x40000800100800C0))) u) 0 = { n0 := 128, s0 := 1, n1 := 8, s1 := 0xC0 } := by
  decide +kernel

/-- VDOT acc0.0, 0x0000, sh0, E4M3, 64 under that shape: 64 rows of 4 columns against 8 queries are 1,024 beats (Table 5.5). -/
theorem test_vdot_word :
    let s := modUnit (at0 u 0x4800024000000000) 0x143 (fun q => { q with
      stream := some { fmt := 2, region := 5, start := 0, count := 256, stride := 32, scaleOff := none, fetched := 0, taken := 0,
                       buf := [], scaleCol := [] }
      proc := { q.proc with shapes := [(0, { n0 := 128, s0 := 1, n1 := 8, s1 := 0xC0 })] } })
    (procOf (next s (exec (.vdot 0x143) s)) u).vec.map (·.total) = some 1024 := by
  decide +kernel

/-- ADD wraps, SRA keeps the sign, SLT is signed and SLTU is not (Table 5.4). -/
theorem test_scalar :
    [(word 0x01 [(52, 3), (48, 1), (44, 2)], Instr.add u), (word 0x08 [(52, 3), (48, 1), (44, 2)], .sra u),
     (word 0x0C [(52, 3), (48, 1), (44, 2)], .slt u), (word 0x0D [(52, 3), (48, 1), (44, 2)], .sltu u)].map
      (fun e => (rget (procOf (next live (exec e.2 (at0 u e.1 [(1, clean 0xFFFFFFFF), (2, clean 1)]))) u) 3).val)
      = [0, 0xFFFFFFFF, 1, 0] := by
  decide +kernel

/-- Register 0 discards writes (R134). -/
theorem test_register_zero :
    (rget (procOf (next live (exec (.li u) (at0 u (word 0x1E [(0, 5)])))) u) 0).val = 0 := by
  decide +kernel

/-- The worked case "reading past the end of a window": a BSTREAM column at 0x40_0000 of a 4 MiB window returns FILL and counts 64 for two. -/
theorem test_window_fill :
    let s := setRegion live 5 { Region.empty with valid := true, owner := 9, gFirst := 20, gCount := 2, base := 0x400000, size := 0x400000,
                                                  fill := 0xFF800000 }
    let r := regionRead s (pressReader s 2) 5 3 0x400000 64
    r.1 = .ok ((List.replicate 16 [0x00, 0x00, 0x80, 0xFF]).flatten.map (fun b => (b, false))) ∧ (regionOf r.2 5).oobRd = 64 := by
  decide +kernel

/-- The worked switch: a TEN_TAKE of a group that a valid region covers is COVERED. -/
theorem test_take_covered : (tenOf (next live (exec (.tenTake 12 0 20) (setTen live 12 { Tenancy.empty with enabled := true }))) 12).swResult = 2 := by
  decide +kernel

/-- The worked barrier: a third arrival before the release ends the task with BARRIER_OVERRUN. -/
theorem test_overrun :
    let b : Barrier := { Barrier.empty with st := .active, ten := 9, parts := [(0x143, true)], arrived := [(0x143, true)], early := [(0x143, true)] }
    let s := at0 u 0
    let s := { s with sync := { s.sync with barriers := [(3, b)], arrivals := [arr3 0x143] } }
    (procOf (next s (exec (.barrierArrival 3 0x143) s)) u).ended.map (·.status) = some .barrierOverrun := by
  decide +kernel

/-- A host write of a whole word to bank 0, and its check byte (R336, R337). -/
theorem test_host_write :
    let t := next live (exec (.hostWrite 0 0xF 1 false) live)
    dramWord t 0 = 1 ∧ dramCheck t 0 = 0x43 ∧ dramWord t 1 = 0 := by
  decide +kernel

/-- An access outside the HDM range stops the model. -/
theorem test_outside : exec (.hostRead 0x8010000000 64) live = .fault .outsideHdmRange := rfl

/-! Witnesses: for each statement, states and operands that meet the hypotheses of each of its clauses. -/

theorem test_meets_StepRunsFrontCommand : (front live .meterReport).pending = .meterReport :: [] := rfl

theorem test_meets_EveryCommandAnswers :
    inRange (.hostRead 0x800FFFFFFF 1) ∧ 512 * 2 ^ 30 + 256 * 2 ^ 20 ≤ (0x8010000000 : BitVec 40).toNat ∧
    512 * 2 ^ 30 + 256 * 2 ^ 20 ≤ 64 * (0x200400000 : BitVec 34).toNat ∧ State.reset.pending = [] := by
  unfold inRange
  decide

theorem test_meets_StepKeepsIdentity : ∃ t, step live = .next t := ⟨_, rfl⟩

theorem test_meets_StepKeepsMemories : memoriesCanonical State.reset ∧ ∃ t, step State.reset = .next t := by
  refine ⟨?_, ⟨_, rfl⟩⟩
  unfold memoriesCanonical
  decide +kernel

theorem test_meets_FewCommandsWrite :
    (∃ t, exec .meterReport live = .next t) ∧ mayStore .meterReport = false ∧ mayHeat .meterReport = false ∧ Instr.meterReport ≠ .commitSvn := by
  refine ⟨⟨_, rfl⟩, ?_⟩
  decide

theorem test_meets_ReservedSpace :
    live.boot.linkUp = true ∧ 512 * 2 ^ 30 + 16 * 2 ^ 20 ≤ (0x8001000000 : BitVec 40).toNat ∧
    (0x800FFFFFFF : BitVec 40).toNat < 512 * 2 ^ 30 + 256 * 2 ^ 20 ∧ 64 * (0x2003FFFFF : BitVec 34).toNat < 512 * 2 ^ 30 + 256 * 2 ^ 20 ∧
    512 * 2 ^ 30 + 16 * 2 ^ 20 ≤ 64 * (0x200040000 : BitVec 34).toNat ∧ logRoom live := by
  unfold logRoom
  decide +kernel

/-- A clean word, a poison marker, an uncorrectable word, a retired bank, and the time before MEM_ACTIVE. -/
theorem test_meets_HostDataAccesses :
    maMap (split live) 0 = (0, 0) ∧ (0 : BitVec 40).toNat % 64 + 64 ≤ 64 ∧ heldPair live 0 0 = none ∧
    live.boot.memActive = true ∧ retiredAt live (dramAddr 0 0) = false ∧ bits (1 : BitVec 64) (4 * 0) 4 = 1 ∧
    (∀ k < 16, readsAs { live with dram := [(0, 3)], check := [(0, 0x43)] } k ≠ none) ∧
    (∀ k < 16, classify (dramWord live k) (dramCheck live k) = .clean) ∧
    classify (dramWord { live with check := [(0, 0x7F)] } 0) (dramCheck { live with check := [(0, 0x7F)] } 0) = .marker ∧
    classify (dramWord { live with dram := [(0, 3)] } 0) (dramCheck { live with dram := [(0, 3)] } 0) = .uncorrectable ∧
    retiredAt { live with retireBanks := [(0, true)] } (dramAddr 0 0) = true ∧
    State.reset.boot.memActive = false ∧ (0x7FFFFFFFFF : BitVec 40).toNat < 2 ^ 39 := by
  decide +kernel

theorem test_meets_CodeCorrects : (0 < 32 ∧ 31 < 32 ∧ 0 ≠ 31) ∧ 6 < 7 := by decide

theorem test_meets_AddressMapIsOneToOne : 32 ≤ 32 ∧ 2 ^ 39 - 1 < 2 ^ 39 ∧ maMap (2 ^ 22 * 32) (2 ^ 39 - 1) = (4095, 2 ^ 27 - 1) := by decide

/-- Every format, a value that each rounds, and the finite values beside it. -/
theorem test_meets_RoundingIsNearest :
    ∀ f ∈ List.range 5, isFinite (decodeNum f (encodeNum f (.fin true 5 (-2)))) = true ∧ isFinite (decodeNum f 1) = true ∧
      1 < 2 ^ (8 * fmtBytes f) := by
  decide +kernel

/-- A word that names registers 1, 2 and 3, its registers, and one of them poisoned. -/
abbrev rs12 : SMap PWord := [(1, clean 0x80000000), (2, clean 33)]
abbrev rsBad : SMap PWord := [(1, { val := 0, poison := true }), (2, clean 33)]

theorem test_meets_ScalarRegisterResults :
    (∀ op ∈ List.range' 1 13, ∀ x ∈ [u, e2],
      issuesOp (at0 x (word op [(52, 3), (48, 1), (44, 2)]) rs12) x op ∧
      bits (coreWord (at0 x (word op [(52, 3), (48, 1), (44, 2)]) rs12) x) 0 44 = 0 ∧
      (regAt (at0 x (word op [(52, 3), (48, 1), (44, 2)]) rs12) x 48).poison = false ∧
      (regAt (at0 x (word op [(52, 3), (48, 1), (44, 2)]) rs12) x 44).poison = false ∧
      issuesOp (at0 x (word op [(52, 3), (48, 1), (44, 2)]) rsBad) x op ∧
      (regAt (at0 x (word op [(52, 3), (48, 1), (44, 2)]) rsBad) x 48).poison = true) := by
  decide +kernel

theorem test_meets_ScalarImmediateResults :
    (∀ op ∈ [0x11, 0x13, 0x14, 0x15, 0x16, 0x17, 0x18, 0x19, 0x1C],
      issuesOp (at0 u (word op [(52, 3), (48, 1), (0, 31)]) rs12) u op ∧
      bits (coreWord (at0 u (word op [(52, 3), (48, 1), (0, 31)]) rs12) u) 32 16 = 0 ∧
      bits (coreWord (at0 u (word op [(52, 3), (48, 1), (0, 31)]) rs12) u) 5 27 = 0 ∧
      (regAt (at0 u (word op [(52, 3), (48, 1), (0, 31)]) rs12) u 48).poison = false) ∧
    issuesOp (at0 e2 (word 0x1E [(52, 3), (0, 0xFFFFFFFF)])) e2 0x1E ∧
    bits (coreWord (at0 e2 (word 0x1E [(52, 3), (0, 0xFFFFFFFF)])) e2) 32 20 = 0 := by
  decide +kernel

theorem test_meets_RegistersAndSpecials :
    (1 ≠ 0 ∧ 1 ≠ 15) ∧
    (∀ n ∈ [0, 1, 2, 3, 4, 5, 6, 0x20, 0x26],
      issuesOp (at0 u (word 0x1F [(52, 3), (0, n)])) u 0x1F ∧ bits (coreWord (at0 u (word 0x1F [(52, 3), (0, n)])) u) 32 20 = 0 ∧
      bits (coreWord (at0 u (word 0x1F [(52, 3), (0, n)])) u) 8 24 = 0 ∧
      (special (at0 u (word 0x1F [(52, 3), (0, n)])) u (bits (coreWord (at0 u (word 0x1F [(52, 3), (0, n)])) u) 0 8)).isSome = true) := by
  decide +kernel

/-- A stream of which two columns are taken. -/
def stream2 : Stream := ⟨2, 5, 0, 9, 32, none, 3, 2, [], []⟩

/-- A unit with a stream and one without; a number of no special register. -/
theorem test_meets_RegistersAndSpecials_rest :
    (unitOf (modUnit live 0x143 (fun q => { q with stream := some stream2 })) 0x143).stream = some stream2 ∧ (unitOf live 0x143).stream = none ∧
    (∀ n ∈ [9, 0x1F, 0x27],
      issuesOp (at0 u (word 0x1F [(52, 3), (0, n)])) u 0x1F ∧ bits (coreWord (at0 u (word 0x1F [(52, 3), (0, n)])) u) 32 20 = 0 ∧
      bits (coreWord (at0 u (word 0x1F [(52, 3), (0, n)])) u) 8 24 = 0 ∧ bits (coreWord (at0 u (word 0x1F [(52, 3), (0, n)])) u) 0 8 = n) := by
  decide +kernel

/-- The last word of the local store and of scratch, one past it, and an address that is not aligned. -/
theorem test_meets_ScalarMemory :
    (∀ op ∈ [0x20, 0x21], ∀ e ∈ [(u, 0xFFFC), (e2, coreMem e2 - 4)],
      issuesOp (at0 e.1 (word op [(52, 2), (48, 1), (0, e.2)])) e.1 op ∧ bits (coreWord (at0 e.1 (word op [(52, 2), (48, 1), (0, e.2)])) e.1) 32 16 = 0 ∧
      (regAt (at0 e.1 (word op [(52, 2), (48, 1), (0, e.2)])) e.1 48).poison = false ∧
      accessAddr (at0 e.1 (word op [(52, 2), (48, 1), (0, e.2)])) e.1 % 4 = 0 ∧
      accessAddr (at0 e.1 (word op [(52, 2), (48, 1), (0, e.2)])) e.1 + 4 ≤ coreMem e.1 ∧
      memBad (procOf (at0 e.1 (word op [(52, 2), (48, 1), (0, e.2)])) e.1) (accessAddr (at0 e.1 (word op [(52, 2), (48, 1), (0, e.2)])) e.1) 4 = false ∧
      coreMem e.1 < accessAddr (at0 e.1 (word op [(52, 2), (48, 1), (0, e.2 + 4)])) e.1 + 4 ∧
      accessAddr (at0 e.1 (word op [(52, 2), (48, 1), (0, 2)])) e.1 % 4 ≠ 0) := by
  decide +kernel

theorem test_meets_BranchConditions :
    (∀ op ∈ List.range' 0x29 6, issuesOp (at0 u (word op [(52, 2), (48, 1), (0, 2047)]) rs12) u op ∧
      bits (coreWord (at0 u (word op [(52, 2), (48, 1), (0, 2047)]) rs12) u) (indexBits u) (48 - indexBits u) = 0 ∧
      (regAt (at0 u (word op [(52, 2), (48, 1), (0, 2047)]) rs12) u 52).poison = false) ∧
    issuesOp (at0 e2 (word 0x28 [(0, 4095)])) e2 0x28 ∧
    bits (coreWord (at0 e2 (word 0x28 [(0, 4095)])) e2) (indexBits e2) (48 - indexBits e2) = 0 ∧
    bits (coreWord (at0 e2 (word 0x28 [(0, 4095)])) e2) 48 8 = 0 := by
  decide +kernel

/-- Past the cask, and at the end of the last load. -/
theorem test_meets_RunningOutOfTheCask :
    mayIssue (modProc (at0 u 0) u (fun p => { p with pc := 2048 })) u = true ∧
    2047 < (procOf (modProc (at0 u 0) u (fun p => { p with pc := 2048 })) u).pc ∧
    mayIssue (modProc (at0 u 0) u (fun p => { p with cask0 := { p.cask0 with loaded := some 0 } })) u = true ∧
    ((procOf (modProc (at0 u 0) u (fun p => { p with cask0 := { p.cask0 with loaded := some 0 } })) u).cask false).loaded = some 0 ∧
    unitProgramCommand 0x143 (.add u) := by
  refine ⟨by decide +kernel, by decide +kernel, by decide +kernel, by decide +kernel, ?_⟩
  unfold unitProgramCommand
  simp

/-- A core with loop levels. -/
def looping (w : Word64) (ls : List LoopLevel) : State := modProc (at0 u w) u (fun p => { p with loops := ls })

theorem test_meets_LoopsRepeatAndEnd_opening :
    issuesOp (at0 u (word 0x30 [(32, 2047), (0, 3)])) u 0x30 ∧
    bits (coreWord (at0 u (word 0x30 [(32, 2047), (0, 3)])) u) (32 + indexBits u) (20 - indexBits u) = 0 ∧
    rf (coreWord (at0 u (word 0x30 [(32, 2047), (0, 3)])) u) 52 = 0 ∧
    (procOf (at0 u (word 0x30 [(32, 2047), (0, 3)])) u).pc < bits (coreWord (at0 u (word 0x30 [(32, 2047), (0, 3)])) u) 32 (indexBits u) ∧
    issuesOp (at0 u (word 0x30 [(52, 3), (32, 1)])) u 0x30 ∧ (regAt (at0 u (word 0x30 [(52, 3), (32, 1)])) u 52).val.toNat = 0 ∧
    issuesOp (looping (word 0x30 [(32, 1), (0, 3)]) [⟨0, 9, 2⟩, ⟨0, 5, 2⟩]) u 0x30 ∧
    issuesOp (looping (word 0x30 [(32, 5), (0, 3)]) [⟨0, 5, 2⟩]) u 0x30 ∧ issuesOp (at0 u (word 0x30 [(0, 3)])) u 0x30 := by
  decide +kernel

theorem test_meets_LoopsRepeatAndEnd :
    (∀ ls ∈ [[(⟨0, 0, 2⟩ : LoopLevel)], [⟨0, 0, 1⟩], [⟨0, 4, 2⟩], []],
      mayIssue (looping (word 0x31 []) ls) u = true ∧ pcOutside u (procOf (looping (word 0x31 []) ls) u) = false ∧
      bits (coreWord (looping (word 0x31 []) ls) u) 56 8 = 0x31 ∧ bits (coreWord (looping (word 0x31 []) ls) u) 0 56 = 0) ∧
    (procOf (looping (word 0x31 []) [⟨0, 0, 2⟩]) u).loops.getLast? = some ⟨0, 0, 2⟩ ∧
    mayIssue (looping (word 0x01 []) [⟨0, 0, 2⟩, ⟨0, 4, 2⟩]) u = true ∧
    bits (coreWord (looping (word 0x01 []) [⟨0, 0, 2⟩, ⟨0, 4, 2⟩]) u) 56 8 ≠ 0x31 ∧
    (∃ l ∈ (procOf (looping (word 0x01 []) [⟨0, 0, 2⟩, ⟨0, 4, 2⟩]) u).loops, l.endIx = (procOf (looping (word 0x01 []) [⟨0, 0, 2⟩, ⟨0, 4, 2⟩]) u).pc) ∧
    issuesOp (looping (word 0x32 []) [⟨0, 4, 2⟩]) u 0x32 ∧ issuesOp (at0 u (word 0x32 [])) u 0x32 := by
  decide +kernel

/-- The word that an active loop level does not expect reads registers that hold no poison. -/
theorem test_meets_LoopsRepeatAndEnd_clean (r : Nat) :
    (rget (procOf (looping (word 0x01 []) [⟨0, 0, 2⟩, ⟨0, 4, 2⟩]) u) r).poison = false := by
  unfold rget
  split <;> rfl

theorem test_meets_ShapeWrites :
    (∀ x ∈ [u, e2], issuesOp (at0 x (word 0x40 [(16, 4095)])) x 0x40 ∧ bits (coreWord (at0 x (word 0x40 [(16, 4095)])) x) 48 1 = 0 ∧
      rf (coreWord (at0 x (word 0x40 [(16, 4095)])) x) 49 = 0 ∧
      issuesOp (at0 x (word 0x40 [(49, 1)]) [(1, clean 4096)]) x 0x40 ∧ bits (coreWord (at0 x (word 0x40 [(49, 1)]) [(1, clean 4096)]) x) 16 12 = 0 ∧
      (regAt (at0 x (word 0x40 [(49, 1)]) [(1, clean 4096)]) x 49).poison = false ∧
      4095 < (regAt (at0 x (word 0x40 [(49, 1)]) [(1, clean 4096)]) x 49).val.toNat) := by
  decide +kernel

/-- A flag of the tenancy homed on the M-die, one of another tenancy, and one homed in the unit's own stack. -/
theorem test_meets_FlagInstructions :
    (∀ op ∈ [0x38, 0x39, 0x3A], issuesOp (at0 u (word op [(0, 5)])) u op ∧ bits (coreWord (at0 u (word op [(0, 5)])) u) 16 24 = 0 ∧
      bits (coreWord (at0 u (word op [(0, 5)])) u) 40 8 = 0) ∧
    ownsFlag (at0 u 0) (coreTen (at0 u 0) u) 5 = true ∧ flagHome (at0 u 0) 5 ≠ 9 ∧ coreDrained (at0 u 0) u = true ∧
    coreDrained (modUnit (at0 u 0) 0x143 (fun q => { q with wq := [⟨0, 0, 0, 0, false, false, false⟩] })) u = false ∧
    ownsFlag (at0 u 0) (coreTen (at0 u 0) u) 0x100 = false ∧
    bit (coreWord (at0 u (word 0x3A [(41, 1), (52, 3), (0, 5)])) u) 41 = true ∧ issuesOp (at0 u (word 0x3A [(41, 1), (52, 3), (0, 5)])) u 0x3A ∧
    flagHome (setReg (at0 u (word 0x3A [(0, 5)])) 0x800000 1) 5 = stackOf 0x143 + 1 ∧
    flagOf (setReg (at0 u (word 0x3A [(0, 5)])) 0x800000 1) 5 = false ∧ (at0 u 0).sync.msgs = [] := by
  decide +kernel

/-- A state whose barrier 3 is active with the unit as a participant. -/
def atBarrier (w : Word64) : State :=
  let s := at0 u w
  { s with sync := { s.sync with barriers := [(3, { Barrier.empty with st := .active, ten := 9, parts := [(0x143, true)] })] } }

theorem test_meets_ArrivalSendAndHalt :
    (∀ c ∈ [0, 1], issuesOp (atBarrier (word 0x3B [(40, c), (0, 3)])) u 0x3B ∧ bits (coreWord (atBarrier (word 0x3B [(40, c), (0, 3)])) u) 16 24 = 0 ∧
      bits (coreWord (atBarrier (word 0x3B [(40, c), (0, 3)])) u) 41 7 = 0) ∧
    mget none (atBarrier 0).barOwner 3 = some (coreTen (atBarrier 0) u) ∧ participates (atBarrier 0) 3 0x143 = true ∧
    coreDrained (atBarrier 0) u = true ∧
    issuesOp (at0 u (word 0x3C [(52, 1), (16, 0xFFE0), (0, 0x20)]) [(1, clean 15)]) u 0x3C ∧
    bits (coreWord (at0 u (word 0x3C [(52, 1), (16, 0xFFE0), (0, 0x20)]) [(1, clean 15)]) u) 32 16 = 0 ∧
    bits (coreWord (at0 u (word 0x3C [(52, 1), (16, 0xFFE0), (0, 0x20)]) [(1, clean 15)]) u) 48 4 = 0 ∧
    (unitOf (at0 u 0) 0x143).port = none ∧
    issuesOp (at0 u (word 0x3F [(0, 0xFFFF)])) u 0x3F ∧ bits (coreWord (at0 u (word 0x3F [(0, 0xFFFF)])) u) 16 40 = 0 ∧
    issuesOp (at0 e2 (word 0x3F [(0, 0xFFFF)])) e2 0x3F ∧
    issuesOp { atBarrier (word 0x3F []) with sync := { Sync.empty with arrivals := [arr3 0x143] } } u 0x3F := by
  decide +kernel

theorem test_meets_UndefinedOpcodeEnds :
    mayIssue (at0 u (word 0xFF [])) u = true ∧ pcOutside u (procOf (at0 u (word 0xFF [])) u) = false ∧
    opDefined u (bits (coreWord (at0 u (word 0xFF [])) u) 56 8) = false ∧ opDefined e2 0x41 = false := by
  decide +kernel

/-- A word of each opcode with one of its reserved bits set. -/
theorem test_meets_UndefinedOpcodeEnds_reserved :
    (∀ x ∈ [u, e2], ∀ c ∈ (List.range' 1 13).map (fun op => (op, 43)) ++ [0x11, 0x13, 0x14, 0x15, 0x19, 0x1C, 0x16, 0x17, 0x18, 0x1E, 0x1F].map (fun op => (op, 32))
        ++ [0x28, 0x29, 0x2A, 0x2B, 0x2C, 0x2D, 0x2E].map (fun op => (op, 47)) ++ [(0x30, 51), (0x31, 0), (0x32, 55), (0x38, 16), (0x39, 52), (0x3A, 42),
          (0x3F, 55), (0x20, 32), (0x21, 47)],
      issuesWord (at0 x (word c.1 [(c.2, 1)])) x c.1 ∧ bits (coreWord (at0 x (word c.1 [(c.2, 1)])) x) c.2 1 = 1) ∧
    (∀ c ∈ [(0x3B, 41), (0x3C, 32), (0x40, 48), (0x41, 32), (0x48, 15), (0x49, 4), (0x54, 2), (0x55, 1), (0x58, 5), (0x59, 39)],
      issuesWord (at0 u (word c.1 [(c.2, 1)])) u c.1 ∧ bits (coreWord (at0 u (word c.1 [(c.2, 1)])) u) c.2 1 = 1) ∧
    (∀ c ∈ [(0x40, 48), (0x60, 50), (0x63, 52), (0x61, 47), (0x62, 46), (0x64, 49), (0x65, 52), (0x66, 51), (0x67, 49), (0x70, 8), (0x71, 47), (0x72, 49),
        (0x73, 52), (0x74, 49), (0x75, 10)],
      issuesWord (at0 e2 (word c.1 [(c.2, 1)])) e2 c.1 ∧ bits (coreWord (at0 e2 (word c.1 [(c.2, 1)])) e2) c.2 1 = 1) := by
  unfold issuesWord
  refine ⟨?_, ?_, ?_⟩ <;> decide +kernel

/-- A word of each opcode whose fields exclude one another. -/
theorem test_meets_UndefinedOpcodeEnds_pairs :
    (∀ x ∈ [u, e2], ∀ c ∈ [(0x30, [(52, 1), (0, 1)]), (0x38, [(48, 1), (0, 1)]), (0x39, [(48, 1), (0, 1)]), (0x3A, [(48, 1), (0, 1)]), (0x3A, [(52, 1)])],
      issuesWord (at0 x (word c.1 c.2)) x c.1 ∧ ∀ f ∈ c.2, bits (coreWord (at0 x (word c.1 c.2)) x) f.1 4 = 1) ∧
    (∀ c ∈ [(0x3B, [(48, 1), (0, 1)]), (0x3C, [(52, 1), (48, 1)]), (0x40, [(49, 1), (16, 1)]), (0x50, [(54, 3)]), (0x51, [(54, 3)]), (0x52, [(54, 3)]),
        (0x53, [(54, 3)]), (0x55, [(16, 1), (0, 1)]), (0x58, [(4, 1), (16, 1)]), (0x5A, [(36, 1), (0, 1)]), (0x5A, [(32, 1)])],
      issuesWord (at0 u (word c.1 c.2)) u c.1 ∧ ∀ f ∈ c.2, bits (coreWord (at0 u (word c.1 c.2)) u) f.1 2 = f.2) ∧
    (issuesWord (at0 e2 (word 0x40 [(49, 1), (16, 1)])) e2 0x40 ∧ rf (coreWord (at0 e2 (word 0x40 [(49, 1), (16, 1)])) e2) 49 = 1) := by
  unfold issuesWord
  refine ⟨?_, ?_, ?_⟩ <;> decide +kernel

/-- A word of each opcode that a poisoned register controls, no other field of it set. -/
theorem test_meets_UndefinedOpcodeEnds_poisoned :
    (∀ x ∈ [u, e2], ∀ c ∈ [0x29, 0x2A, 0x2B, 0x2C, 0x2D, 0x2E].map (fun op => (op, 48)) ++ [(0x29, 52), (0x30, 52), (0x38, 48), (0x39, 48), (0x3A, 48), (0x20, 48), (0x21, 48)],
      issuesWord (at0 x (word c.1 [(c.2, 1)]) rsBad) x c.1 ∧ bits (coreWord (at0 x (word c.1 [(c.2, 1)]) rsBad) x) 0 48 = 0 ∧
      (regAt (at0 x (word c.1 [(c.2, 1)]) rsBad) x c.2).poison = true) ∧
    (∀ c ∈ [(0x3B, 48), (0x3C, 52), (0x40, 49), (0x41, 42), (0x41, 38), (0x41, 34), (0x48, 0), (0x49, 0), (0x58, 0), (0x59, 0), (0x5A, 46)],
      issuesWord (at0 u (word c.1 [(c.2, 1)]) rsBad) u c.1 ∧ bits (coreWord (at0 u (word c.1 [(c.2, 1)]) rsBad) u) 4 12 = 0 ∧
      bits (coreWord (at0 u (word c.1 [(c.2, 1)]) rsBad) u) 16 18 = 0 ∧ (regAt (at0 u (word c.1 [(c.2, 1)]) rsBad) u c.2).poison = true) ∧
    (∀ c ∈ [(0x40, 49), (0x70, 0), (0x70, 4), (0x71, 0), (0x71, 4), (0x73, 0), (0x74, 0)],
      issuesWord (at0 e2 (word c.1 [(c.2, 1)]) rsBad) e2 c.1 ∧ bits (coreWord (at0 e2 (word c.1 [(c.2, 1)]) rsBad) e2) 8 41 = 0 ∧
      (regAt (at0 e2 (word c.1 [(c.2, 1)]) rsBad) e2 c.2).poison = true) ∧
    (∀ x ∈ [u, e2], issuesWord (at0 x (word 0x3A [(48, 1), (41, 1), (52, 3)]) rsBad) x 0x3A) ∧
    issuesWord (at0 u (word 0x5A [(46, 1), (36, 1), (32, 2)]) rsBad) u 0x5A ∧ issuesWord (at0 e2 (word 0x71 [(46, 1), (0, 1)]) rsBad) e2 0x71 := by
  unfold issuesWord
  refine ⟨?_, ?_, ?_, ?_, ?_⟩ <;> decide +kernel

/-- A unit with a shape in register 0, about to issue a word. -/
def shaped (w : Word64) (sh : Shape) : State := modProc (at0 u w) u (fun p => { p with shapes := [(0, sh)] })

/-- A unit with an open stream of a format and a shape. -/
def streaming (w : Word64) (sh : Shape) (f : Nat) : State :=
  modUnit (shaped w sh) 0x143 (fun q => { q with
    stream := some { fmt := f, region := 5, start := 0, count := 9, stride := 32, scaleOff := none, fetched := 0, taken := 0, buf := [], scaleCol := [] } })

/-- BSTREAM of E4M3, of MXFP4 with a scale register, and with the stride of -32. -/
theorem test_meets_StreamOpens :
    (∀ p ∈ [(2, 0, 32), (9, 3, 0xFFFFFFE0)],
      let w := word 0x41 [(52, p.1), (46, 5), (42, 1), (38, 2), (34, p.2.1), (0, p.2.2)]
      issuesOp (at0 u w [(1, clean 64), (2, clean 8)]) u 0x41 ∧ bits w 32 2 = 0 ∧ bits w 52 4 ≤ 0xA ∧
      (regAt (at0 u w [(1, clean 64), (2, clean 8)]) u 42).val.toNat % 32 = 0 ∧ bits w 0 32 % 32 = 0 ∧
      (scaleArray (bits w 52 4) = true ↔ rf w 34 ≠ 0)) ∧
    (regionOf live 5).valid = true ∧ (regionOf live 5).linear = false ∧
    mget none live.groupOwner ((0x143 : BitVec 12).toNat / 16) = some (regionOf live 5).owner ∧
    (regionOf live 5).gFirst ≤ (0x143 : BitVec 12).toNat / 16 ∧
    (0x143 : BitVec 12).toNat / 16 < (regionOf live 5).gFirst + (regionOf live 5).gCount := by
  decide +kernel

theorem test_meets_OperandRange :
    (({ a := 0xFFC0, rl := 64, n := 1, s := 0 } : Rows).range 65536 = []) ∧ 0 < 1 ∧ 63 < 64 ∧
    (({ a := 0xFFC1, rl := 64, n := 1, s := 0 } : Rows).range 65536 ≠ []) := by
  decide +kernel

theorem test_meets_ArithmeticBegins_streams :
    (let s := streaming (word 0x48 [(40, 2), (32, 32)]) ⟨64, 1, 16, 0⟩ 2
     let w := coreWord s u
     issuesOp s u 0x48 ∧ bits w 5 11 = 0 ∧ bit w 4 = false ∧ (regAt s u 0).poison = false ∧ dotPair 2 (bits w 40 4) = true ∧
     64 % perColumn 2 = 0 ∧ vaLane w + bits w 32 8 * 16 ≤ 512 ∧
     ({ a := vaAddr (procOf s u) w, rl := 64 * fmtBytes (bits w 40 4), n := 16, s := 0 } : Rows).range 65536 = []) ∧
    (let s := streaming (word 0x49 [(40, 1), (32, 1)]) ⟨16, 1, 3, 32⟩ 2
     let w := coreWord s u
     issuesOp s u 0x49 ∧ bits w 5 11 = 0 ∧ bit w 4 = false ∧ bits w 47 5 = 0 ∧ 1 * perColumn 2 % 32 = 0 ∧
     bits w 52 4 + 16 * (bits w 32 8 * perColumn 2 / 32) ≤ 16 ∧
     ({ a := vaAddr (procOf s u) w, rl := 16 * fmtBytes (bits w 40 4), n := 3, s := 32 } : Rows).range 65536 = []) := by
  decide +kernel

/-- In place with B a single value, apart with B a row, and a reduction each way. -/
theorem test_meets_ArithmeticBegins_locals :
    (∀ op ∈ [0x50, 0x51, 0x52, 0x53],
      let s := shaped (word op [(54, 2), (32, 0x100), (16, 0x100), (0, 0x40)]) ⟨16, 1, 4, 64⟩
      let w := coreWord s u
      issuesOp s u op ∧ (shapeRows ⟨16, 1, 4, 64⟩ (vlA w) (vlBytes w)).range 65536 = [] ∧
      (bRows ⟨16, 1, 4, 64⟩ (bits w 54 2) (vlB w) (vlBytes w)).range 65536 = [] ∧
      (shapeRows ⟨16, 1, 4, 64⟩ (vlDst w) (vlBytes w)).range 65536 = [] ∧
      (shapeRows ⟨16, 1, 4, 64⟩ (vlDst w) (vlBytes w)).same (shapeRows ⟨16, 1, 4, 64⟩ (vlA w) (vlBytes w)) = true) ∧
    (∀ c ∈ [0, 1],
      let s := shaped (word 0x54 [(32, 0x1000), (16, 0x100), (0, c)]) ⟨16, 1, 4, 64⟩
      let w := coreWord s u
      issuesOp s u 0x54 ∧ bits w 2 14 = 0 ∧ (shapeRows ⟨16, 1, 4, 64⟩ (vlA w) 4).range 65536 = [] ∧
      ({ a := vlDst w, rl := 4 * (if bit w 0 then 16 else 4), n := 1, s := 0 } : Rows).range 65536 = [] ∧
      ({ a := vlDst w, rl := 4 * (if bit w 0 then 16 else 4), n := 1, s := 0 } : Rows).meets (shapeRows ⟨16, 1, 4, 64⟩ (vlA w) 4) = false) := by
  decide +kernel

theorem test_meets_ArithmeticBegins :
    destinationFree (shapeRows ⟨16, 1, 4, 64⟩ 0x100 4) [shapeRows ⟨16, 1, 4, 64⟩ 0x100 4, shapeRows ⟨16, 1, 4, 64⟩ 0x800 4] ∧
    destinationFree (shapeRows ⟨16, 1, 4, 64⟩ 0x100 4) [shapeRows ⟨16, 1, 4, 64⟩ 0x400 4, shapeRows ⟨16, 1, 4, 64⟩ 0x800 4] := by
  unfold destinationFree
  decide +kernel

theorem test_meets_MovingInstructionsBegin :
    (let s := shaped (word 0x55 [(32, 0x1000), (16, 0x100), (12, 1)]) ⟨16, 1, 4, 64⟩
     let w := coreWord s u
     issuesOp s u 0x55 ∧ bits w 1 7 = 0 ∧ cvtOut w ≤ 4 ∧ cvtIn w ≤ 4 ∧ bit w 0 = false ∧
     (shapeRows ⟨16, 1, 4, 64⟩ (vlDst w) (fmtBytes (cvtOut w))).range 65536 = [] ∧
     (shapeRows ⟨16, 1, 4, 64⟩ (vlA w) (fmtBytes (cvtIn w))).range 65536 = [] ∧
     (shapeRows ⟨16, 1, 4, 64⟩ (vlDst w) (fmtBytes (cvtOut w))).meets (shapeRows ⟨16, 1, 4, 64⟩ (vlA w) (fmtBytes (cvtIn w))) = false) ∧
    (let s := streaming (word 0x55 [(32, 0x1000), (12, 1), (8, 9), (0, 1)]) ⟨64, 1, 4, 256⟩ 9
     let w := coreWord s u
     issuesOp s u 0x55 ∧ bit w 0 = true ∧ vlA w = 0 ∧ cvtIn w = 9 ∧ 64 % perColumn 9 = 0) ∧
    (∀ op ∈ [0x58, 0x59],
      let s := shaped (word op [(16, 0x100)]) ⟨16, 2, 4, 128⟩
      let w := coreWord s u
      issuesOp s u op ∧ bits w 5 11 = 0 ∧ bits w 32 8 = 0 ∧ vaLane w + 16 * 4 ≤ 512 ∧ vldZero w = false ∧
      ({ a := vaAddr (procOf s u) w, rl := ((16 - 1) * 2 + 1) * fmtBytes (bits w 40 4), n := 4, s := 128 } : Rows).range 65536 = []) ∧
    (let s := shaped (word 0x58 [(4, 1)]) ⟨32, 1, 16, 0⟩
     let w := coreWord s u
     issuesOp s u 0x58 ∧ vldZero w = true ∧ bits w 16 16 = 0 ∧ rf w 0 = 0 ∧ vaLane w + 32 * 16 ≤ 512) ∧
    (let s := at0 u (word 0x5A [(50, 5), (46, 1), (16, 4096), (0, 0xF000)]) [(1, clean 0x40)]
     let w := coreWord s u
     issuesOp s u 0x5A ∧ bit w 36 = false ∧ bits w 32 4 = 0 ∧ bits w 37 5 = 0 ∧ bits w 42 4 = 0 ∧ (regAt s u 46).poison = false ∧
     bits w 0 16 + bits w 16 16 ≤ 65536 ∧ bits w 16 16 ≤ 4096) := by
  decide +kernel

/-- The first and the last beat of a clearing of 64 lanes. -/
theorem test_meets_ZeroBeatClearsLanes :
    ∀ k ∈ [0, 1],
      let s := modProc (shaped 0 ⟨32, 1, 2, 0⟩) u (fun p => { p with vec := some { word := word 0x58 [(4, 1)], beat := k, total := 2 } })
      (procOf s u).task ≠ none ∧ (procOf s u).ended = none ∧ (unitOf s 0x143).st = .running ∧ unitRuns s 0x143 = true ∧
      vldZero (word 0x58 [(4, 1)]) = true := by
  decide +kernel

/-- A unit at beat k of a word under a shape, its task under propagate or fault, its stream, lanes and write queue as f leaves them. -/
def beating (w : Word64) (sh : Shape) (k total : Nat) (prop : Bool) (f : BankUnit → BankUnit := id) : State :=
  modUnit (modProc (shaped 0 sh) u (fun p => { p with
    vec := some { word := w, beat := k, total := total }
    task := some { task with raw := desc [(1, if prop then 16 else 0)] } })) 0x143 f

/-- A column of zeros, with or without a poisoned word, and the stream that holds it. -/
def column (bad : Bool) : StreamCol := { data := 0, poison := if bad then 1 else 0, mark := none, scales := [] }
def holding (fmt : Nat) (buf : List StreamCol) (q : BankUnit) : BankUnit := { q with stream := some ⟨fmt, 5, 0, 9, 32, none, 1, 0, buf, []⟩ }

/-- VDOT and VAXPY beats: poison that the task carries on, and poison that ends it. -/
theorem test_meets_ZeroBeatClearsLanes_stream :
    (∀ prop ∈ [true, false],
      let w := word 0x48 [(40, 2), (32, 1)]
      let s := beating w ⟨64, 1, 16, 0⟩ 3 16 prop (holding 2 [column true])
      beatReady s 0x143 { word := w, beat := 3, total := 16 } ∧ bits w 56 8 = 0x48 ∧
      (unitOf s 0x143).stream = some ⟨2, 5, 0, 9, 32, none, 1, 0, [column true], []⟩ ∧ (column true).mark = none ∧
      propagates (procOf s u) = prop ∧ shapeOf (procOf s u) (bits w 44 3) = ⟨64, 1, 16, 0⟩ ∧
      (List.range 32).any (fun i => (colElem 2 (column true) i).2) = true ∧ (column true).mark = none) ∧
    (∀ prop ∈ [true, false],
      let w := word 0x49 [(40, 1), (32, 1)]
      let s := beating w ⟨16, 1, 3, 32⟩ 3 24 prop (holding 2 [column true])
      beatReady s 0x143 { word := w, beat := 3, total := 24 } ∧ bits w 56 8 = 0x49 ∧
      (unitOf s 0x143).stream = some ⟨2, 5, 0, 9, 32, none, 1, 0, [column true], []⟩ ∧ propagates (procOf s u) = prop ∧
      shapeOf (procOf s u) (bits w 44 3) = ⟨16, 1, 3, 32⟩ ∧ bits w 32 8 * perColumn 2 % 32 = 0 ∧ (colElem 2 (column true) 0).2 = true) := by
  unfold beatReady
  refine ⟨?_, ?_⟩ <;> decide +kernel

/-- A stream that is over, one with nothing fetched, and one whose next column is marked. -/
theorem test_meets_ZeroBeatClearsLanes_stops :
    ∀ op ∈ [0x48, 0x49, 0x55], ∀ y ∈ [(⟨2, 5, 0, 9, 32, none, 9, 9, [], []⟩ : Stream), ⟨2, 5, 0, 9, 32, none, 1, 1, [], []⟩,
        ⟨2, 5, 0, 9, 32, none, 1, 0, [{ column false with mark := some .retired }], []⟩],
      let w := word op [(0, 1)]
      let s := beating w ⟨64, 1, 16, 0⟩ 0 16 false (fun q => { q with stream := some y })
      beatReady s 0x143 { word := w, beat := 0, total := 16 } ∧ bits w 56 8 = op ∧ bit w 0 = true ∧ (unitOf s 0x143).stream = some y := by
  unfold beatReady
  decide +kernel

/-- VLD and VST beats over a poisoned word of the local store or a poisoned lane, under each POISON_MODE; the beats of VMUL, VADD, VMAX and VEXP. -/
theorem test_meets_ZeroBeatClearsLanes_local :
    (∀ op ∈ [0x58, 0x59], ∀ prop ∈ [true, false],
      let w := word op [(16, 0x100)]
      let s := modProc (beating w ⟨16, 1, 4, 64⟩ 0 4 prop (fun q => { q with acc := [(0, { val := 0, poison := true })] })) u
        (fun p => { p with memPoison := [(64, true)] })
      beatReady s 0x143 { word := w, beat := 0, total := 4 } ∧ bits w 56 8 = op ∧ bit w 4 = false ∧ propagates (procOf s u) = prop ∧
      shapeOf (procOf s u) (bits w 44 3) = ⟨16, 1, 4, 64⟩ ∧ rowsApart (rowsOf ⟨16, 1, 4, 64⟩ (vaAddr (procOf s u) w) 4) ∧
      memBad (procOf s u) (elemAt ⟨16, 1, 4, 64⟩ (vaAddr (procOf s u) w) 4 0) 4 = true ∧
      (lane s 0x143 (vaLane w)).poison = true) ∧
    (∀ op ∈ [0x50, 0x51, 0x52, 0x53], ∀ prop ∈ [true, false],
      let w := word op [(54, 2), (32, 0x400), (16, 0x100), (0, 0x40)]
      let s := modProc (beating w ⟨16, 1, 4, 64⟩ 0 4 prop) u (fun p => { p with memPoison := [(64, true)] })
      beatReady s 0x143 { word := w, beat := 0, total := 4 } ∧ bits w 56 8 = op ∧ bits w 48 3 ≤ 1 ∧ propagates (procOf s u) = prop ∧
      vlShape (procOf s u) w = ⟨16, 1, 4, 64⟩ ∧ rowsApart (rowsOf ⟨16, 1, 4, 64⟩ (vlDst w) 4) ∧
      memBad (procOf s u) (elemAt ⟨16, 1, 4, 64⟩ (vlA w) 4 0) 4 = true) := by
  unfold beatReady rowsApart lane
  refine ⟨?_, ?_⟩ <;> decide +kernel

/-- Beats of VRED before and at the end, and of VCVT from the local store and from a stream. -/
theorem test_meets_ArithmeticBegins_beats :
    (∀ k ∈ [0, 3], ∀ c ∈ [0, 1, 2, 3],
      let w := word 0x54 [(32, 0x1000), (16, 0x100), (0, c)]
      let s := beating w ⟨16, 1, 4, 64⟩ k 4 false
      beatReady s 0x143 { word := w, beat := k, total := 4 } ∧ bits w 56 8 = 0x54 ∧ vlShape (procOf s u) w = ⟨16, 1, 4, 64⟩) ∧
    (let w := word 0x55 [(32, 0x1000), (16, 0x100), (12, 1)]
     let s := beating w ⟨16, 1, 4, 64⟩ 1 4 false
     beatReady s 0x143 { word := w, beat := 1, total := 4 } ∧ bits w 56 8 = 0x55 ∧ bit w 0 = false ∧ vlShape (procOf s u) w = ⟨16, 1, 4, 64⟩ ∧
     cvtIn w ≤ 4 ∧ cvtOut w ≤ 4 ∧ rowsApart (rowsOf ⟨16, 1, 4, 64⟩ (vlDst w) (fmtBytes (cvtOut w)))) ∧
    (let w := word 0x55 [(32, 0x1000), (12, 1), (8, 2), (0, 1)]
     let s := beating w ⟨64, 1, 4, 256⟩ 1 8 false (holding 2 [column false])
     beatReady s 0x143 { word := w, beat := 1, total := 8 } ∧ bits w 56 8 = 0x55 ∧ bit w 0 = true ∧ vlShape (procOf s u) w = ⟨64, 1, 4, 256⟩ ∧
     cvtIn w = 2 ∧ cvtOut w ≤ 4 ∧ rowsApart (rowsOf ⟨64, 1, 4, 256⟩ (vlDst w) (fmtBytes (cvtOut w))) ∧
     ∀ i < 32, (colElem 2 (column false) i).2 = false) := by
  unfold beatReady rowsApart
  decide +kernel

/-- No word of a unit's local store in these states is poisoned. -/
theorem test_meets_ArithmeticBegins_clean (w : Word64) (sh : Shape) (k n : Nat) (prop : Bool) : memClean (beating w sh k n prop) u := fun _ => rfl

/-- BWRITE beats into a bank, with a full write queue, into a retired row, past the region's end and without the region; SEND before its last beat and at it. -/
theorem test_meets_MovingInstructionsBegin_beats :
    (let w := word 0x5A [(50, 5), (46, 1), (16, 64), (0, 0x100)]
     let v : Vec := { word := w, beat := 0, total := 1 }
     let s := modProc (beating w ⟨0, 0, 0, 0⟩ 0 1 false) u (fun p => { p with regs := [(1, clean 0x40)] })
     let full := modUnit s 0x143 (fun q => { q with wq := List.replicate 4 ⟨0x1000, 0, 0, 0, false, false, false⟩ })
     let r := { s with retireBanks := [(0x143, true)] }
     let past := modProc (beating w ⟨0, 0, 0, 0⟩ 0 1 false) u (fun p => { p with regs := [(1, clean 0x200000)] })
     let gone := setRegion s 5 Region.empty
     (∀ x ∈ [s, full, r, past, gone], beatReady x 0x143 v) ∧ bits w 56 8 = 0x5A ∧ bit w 36 = false ∧
     unitRegion s 0x143 (bits w 50 6) = none ∧ unitLoc s 0x143 (regionOf s (bits w 50 6)) true 0x40 = .mem 0x40 ∧
     retiredAt s (dramAddr 0x143 0x40) = false ∧ (unitOf s 0x143).wq.length < 4 ∧ 4 ≤ (unitOf full 0x143).wq.length ∧
     retiredAt r (dramAddr 0x143 0x40) = true ∧ unitLoc past 0x143 (regionOf past (bits w 50 6)) true 0x200000 = .oob ∧
     unitRegion gone 0x143 (bits w 50 6) = some .range) ∧
    (∀ k ∈ [0, 1],
      let w := word 0x3C [(16, 128), (48, 2)]
      beatReady (beating w ⟨0, 0, 0, 0⟩ k 2 false) 0x143 { word := w, beat := k, total := 2 } ∧ bits w 56 8 = 0x3C) := by
  unfold beatReady
  decide +kernel

theorem test_meets_MovingInstructionsBegin_lanes (w : Word64) (sh : Shape) (g : Nat) : (lane (beating w sh 0 1 false) 0x143 g).poison = false := rfl

/-- A press with shape 0, about to issue a word. -/
def pressing (w : Word64) (sh : Shape) (rs : SMap PWord := []) : State := modProc (at0 e2 w rs) e2 (fun p => { p with shapes := [(0, sh)] })

theorem test_meets_PressRowsAndFormatsComplete_memory : memClean (pressing 0 ⟨32, 1, 2, 128⟩) e2 := by
  intro k
  rfl

theorem test_meets_PressRowsAndFormatsComplete :
    (∀ op ∈ [0x60, 0x61, 0x62, 0x63, 0x64, 0x65, 0x66, 0x67, 0x68],
      let s := pressing (word op [(45, if op = 0x67 ∨ op = 0x68 then 9 else 0), (30, 0x100), (15, 0x200), (0, 0x300)]) ⟨32, 1, 2, 128⟩
      let w := coreWord s e2
      issuesOp s e2 op ∧ pressShape s 2 = ⟨32, 1, 2, 128⟩ ∧ pRange 2 (pA w) (4 * 32) 2 128 = [] ∧ pRange 2 (pDst w) (4 * 32) 2 128 = [] ∧
      pRange 2 (pB w) (4 * 32) 2 128 = [] ∧ pRange 2 (pDst w) (4 * 2) 1 0 = [] ∧ pRange 2 (pA w) (64 + 8 * 2 + 4 * 32 * 2) 1 0 = [] ∧
      pRange 2 (pDst w) (64 + 8 * 2 + 4 * 32 * 2) 1 0 = [] ∧ pRange 2 (pDst w) (8 * (0 + 1)) 1 0 = [] ∧ pRange 2 (pB w) (32 / 32 * 2) 1 0 = []) ∧
    isMx 9 = true ∧ 32 % 32 = 0 ∧ bits (word 0x67 [(45, 9)]) 49 4 = 0 ∧ bits (word 0x68 [(45, 9)]) 49 4 ≤ 4 := by
  decide +kernel

/-- PMERGE as the first and the last of its records; PQUANT and PCVT with a scale array and rows apart. -/
theorem test_meets_PressRowsAndFormatsComplete_values :
    (∀ c ∈ [0, 1, 2, 3],
      let s := pressing (word 0x65 [(45, c), (30, 0x100), (15, 0x200)]) ⟨32, 1, 2, 128⟩
      let w := coreWord s e2
      issuesOp s e2 0x65 ∧ bits w 47 6 = 0 ∧ bits w 45 2 = c ∧ pRange 2 (pA w) (64 + 8 * 2 + 4 * 32 * 2) 1 0 = [] ∧
      pRange 2 (pDst w) (64 + 8 * 2 + 4 * 32 * 2) 1 0 = []) ∧
    (let s := pressing (word 0x67 [(45, 9), (30, 0x100), (15, 0x200), (0, 0x300)]) ⟨32, 1, 2, 128⟩
     let w := coreWord s e2
     scaleArray 9 = true ∧ 32 / 32 * blockBytes 9 ≤ (128 : Int).natAbs ∧
     (∀ i1 < 2, ∀ c < 32 / 32 * blockBytes 9, pAddr ⟨32, 1, 2, 128⟩ (pDst w) 1 i1 c < 32 * pB w)) ∧
    (32 * fmtBytes 0 ≤ (128 : Int).natAbs ∧ rowBytes 9 32 ≤ 128) := by
  decide +kernel

/-- PMERGE under propagate, as the first record, over a record whose header has a poisoned word. -/
theorem test_meets_PressRowsAndFormatsComplete_bad :
    let s := modProc (pressing (word 0x65 [(45, 1), (30, 0x100), (15, 0x200)]) ⟨32, 1, 2, 128⟩) e2 (fun p => { p with
      memPoison := [(0x1002, true)], task := some { task with raw := desc [(1, 16)] } })
    let w := coreWord s e2
    propagates (procOf s e2) = true ∧ issuesOp s e2 0x65 ∧ bits w 47 6 = 0 ∧ bit w 45 = true ∧
    pRange 2 (pA w) (64 + 8 * 2 + 4 * 32 * 2) 1 0 = [] ∧ pRange 2 (pDst w) (64 + 8 * 2 + 4 * 32 * 2) 1 0 = [] ∧
    memBad (procOf s e2) (32 * pA w + 8) 1 = true := by
  decide +kernel

/-- A block with an infinity, one of zeros, and one whose only value is 1. -/
theorem test_meets_PressRowsAndFormatsComplete_blocks : isFinite (ofF32 0x7F800000) = false ∧ ofF32 0 = .fin false 0 (-149) ∧
    numVal (.fin false 0 (-149)) = 0 ∧ ofF32 0x3F800000 = .fin false (2 ^ 23) (-23) ∧ 2 ^ 23 ≠ 0 :=
  ⟨by decide +kernel, by decide +kernel, by simp [numVal], by decide +kernel, by decide⟩

theorem test_meets_PressRowValues :
    (∀ op ∈ [0x60, 0x63],
      let s := pressing (word op [(30, 0x100), (15, 0x200), (0, 0x300)]) ⟨8, 1, 1, 0⟩
      let w := coreWord s e2
      issuesOp s e2 op ∧ pressShape s 2 = ⟨8, 1, 1, 0⟩ ∧ bits w 45 3 ≤ 4 ∧ bits w 48 2 ≠ 3 ∧ bits w 50 3 = 0 ∧ bits w 45 4 ≤ 8 ∧ bit w 49 = false ∧
      pRange 2 (pA w) (4 * 8) 1 0 = [] ∧ pRange 2 (pDst w) (4 * 8) 1 0 = [] ∧ pRange 2 (pB w) (4 * 8) 1 0 = []) := by
  decide +kernel

/-- A press task under propagate or fault with a poisoned input word. -/
def pressingBad (w : Word64) (sh : Shape) (prop : Bool) : State :=
  modProc (pressing w sh) e2 (fun p => { p with
    memPoison := [(0x800, true)], task := some { task with raw := desc [(1, if prop then 16 else 0)] } })

/-- Each row instruction over two rows, its first input word poisoned, under each POISON_MODE. -/
theorem test_meets_PressRowValues_rows :
    (∀ op ∈ [0x60, 0x62, 0x63, 0x64], ∀ prop ∈ [true, false],
      let s := pressingBad (word op [(30, 0x100), (15, 0x100), (0, 0x300)]) ⟨32, 1, 2, 128⟩ prop
      let w := coreWord s e2
      issuesOp s e2 op ∧ pressShape s 2 = ⟨32, 1, 2, 128⟩ ∧ pRange 2 (pA w) (4 * 32) 2 128 = [] ∧ pRange 2 (pDst w) (4 * 32) 2 128 = [] ∧
      pRange 2 (pB w) (4 * 32) 2 128 = [] ∧ bits w 45 3 ≤ 4 ∧ bits w 48 2 ≠ 3 ∧ bits w 50 3 = 0 ∧ bits w 46 3 = 0 ∧ bits w 49 4 = 0 ∧
      (128 : Int) % 4 = 0 ∧ 4 * 32 ≤ (128 : Int).natAbs ∧ 32 = 2 * 16 ∧ propagates (procOf s e2) = prop ∧
      (wordAt (procOf s e2) (pAddr ⟨32, 1, 2, 128⟩ (pA w) 4 0 0)).poison = true) := by
  decide +kernel

/-- Both reductions, both ways, and a PTOPK of eight of 32 values. -/
theorem test_meets_PressRowValues_reductions :
    (∀ c ∈ [0, 1, 2, 3], ∀ prop ∈ [true, false],
      let s := pressingBad (word 0x61 [(45, c), (30, 0x300), (15, 0x100)]) ⟨32, 1, 2, 128⟩ prop
      let w := coreWord s e2
      issuesOp s e2 0x61 ∧ bits w 47 6 = 0 ∧ bits w 45 2 = c ∧ pRange 2 (pA w) (4 * 32) 2 128 = [] ∧ pRange 2 (pDst w) (4 * 32) 1 0 = [] ∧
      propagates (procOf s e2) = prop ∧ (wordAt (procOf s e2) (pAddr ⟨32, 1, 2, 128⟩ (pA w) 4 0 0)).poison = true) ∧
    (∀ prop ∈ [true, false],
      let s := pressingBad (word 0x66 [(45, 7), (30, 0x300), (15, 0x100)]) ⟨32, 1, 1, 0⟩ prop
      let w := coreWord s e2
      issuesOp s e2 0x66 ∧ bits w 51 2 = 0 ∧ bits w 45 6 + 1 ≤ 32 ∧ pRange 2 (pA w) (4 * 32) 1 0 = [] ∧ pRange 2 (pDst w) (8 * 8) 1 0 = [] ∧
      propagates (procOf s e2) = prop ∧ (wordAt (procOf s e2) (32 * pA w)).poison = true) := by
  decide +kernel

/-- A press task with a window on region 5 from bank 0x143 of the window's group on, or on host memory. -/
def windowed (host : Bool) (w : Word64) : State :=
  modProc (at0 e2 w [(1, clean 0), (2, clean 3)]) e2 (fun p => { p with
    task := some { task with raw := BitVec.ofNat 512 (((if host then 128 else 5) + 0 * 256 + 16 * 256 ^ 7 + 64 * 256 ^ 9) * 256 ^ 36) } })

theorem test_meets_PressWindowsMove :
    (∀ op ∈ [0x70, 0x71],
      let s := windowed false (word op [(30, 1), (15, 0x10), (4, 2), (0, 1)])
      let w := coreWord s e2
      let win := windowOf ((procOf s e2).task.getD task).raw 0
      issuesOp s e2 op ∧ bits w 46 7 = 0 ∧ bits w 8 7 = 0 ∧ pRange 2 (pA w) 32 1 0 = [] ∧ win.used = true ∧ win.host = false ∧
      0 + 32 ≤ win.length ∧ 3 < win.banks ∧
      (regionRead s (pressReader s 2) win.region ((win.bank + 3 : Nat) : Int) ((win.off + 0 : Nat) : Int) 32).1 =
        .ok (List.replicate 32 (0, false)) ∧
      locsStatus s (locateAll s (regionOf s win.region) true ((win.bank + 3 : Nat) : Int) ((win.off + 0 : Nat) : Int) 32) = none) ∧
    (let s := windowed false (word 0x71 [(46, 1), (30, 1), (15, 0x10), (0, 1)])
     let win := windowOf ((procOf s e2).task.getD task).raw 0
     issuesOp s e2 0x71 ∧ bit (coreWord s e2) 46 = true ∧ ∀ k < win.banks,
       locsStatus s (locateAll s (regionOf s win.region) true ((win.bank + k : Nat) : Int) ((win.off + 0 : Nat) : Int) 32) = none) ∧
    (∀ op ∈ [0x70, 0x71],
      let s := windowed true (word op [(30, 1), (15, 0x10), (4, 2), (0, 1)])
      let win := windowOf ((procOf s e2).task.getD task).raw 0
      issuesOp s e2 op ∧ win.used = true ∧ win.host = true ∧ 0 + 32 ≤ win.length ∧ 3 < win.banks) ∧
    (∀ op ∈ [0x70, 0x71],
      let s := windowed false (word op [(30, 3), (15, 0x10), (4, 2), (0, 1)])
      issuesOp s e2 op ∧ (windowOf ((procOf s e2).task.getD task).raw 0).length < 0 + 96) := by
  decide +kernel

/-- No bank unit's write queue holds a pair in these states. -/
theorem test_meets_PressWindowsMove_quiet (host : Bool) (w : Word64) (b : Nat) : (unitOf (windowed host w) b).wq = [] := rfl

/-- A record of tenancy 9 from unit 0x143. -/
def record : Record := { at_ := 0, task := none, source := 0x1143, ten := 9, tag := 7, bytes := List.replicate 32 1, poison := List.replicate 8 false }
/-- A press engine with channel 1 of two slots of 64 bytes, some landed. -/
def channelled (w : Word64) (n : Nat) (landed : List Landed) : State :=
  modPress (at0 e2 w [(1, clean n)]) 2 (fun q => { q with
    chans := [(1, { Chan.empty with configured := true, base := 0x10, size := 2, count := 2, landed := landed })] })

/-- A landed record in a slot. -/
def landed (k : Nat) : Landed := ⟨k, 0x1143, 7, 9⟩

/-- PCHAN of a channel with nothing landed and of one whose two records are discarded; PRECV with enough and with too few; PFREE. -/
theorem test_meets_PressChannelsAndRecords_channels :
    (∀ ls ∈ [[], [landed 0, landed 1]],
      let s := channelled (word 0x72 [(45, 1), (30, 0x10), (15, 2), (0, 2)]) 0 ls
      let w := coreWord s e2
      issuesOp s e2 0x72 ∧ bits w 49 4 = 0 ∧ 32 * (pDst w + pA w * pB w) ≤ coreMem e2 ∧ (chanOf s 2 (bits w 45 4)).landed = ls ∧
      ls.length ≤ 65536 ∧ s.log.next < 2 ^ 32) ∧
    (∀ ls ∈ [[landed 0, landed 1], []],
      let s := channelled (word 0x73 [(45, 1), (30, 3), (0, 1)]) 2 ls
      let w := coreWord s e2
      issuesOp s e2 0x73 ∧ bits w 49 4 = 0 ∧ (chanOf s 2 1).configured = true ∧ (rget (procOf s e2) (bits w 0 4)).val.toNat = 2 ∧
      (chanOf s 2 1).landed = ls ∧ bits w 30 4 ≠ 0 ∧ s.net.pod ≠ .managing) ∧
    (let s := channelled (word 0x74 [(45, 1), (0, 1)]) 2 [landed 0, landed 1]
     issuesOp s e2 0x74 ∧ (chanOf s 2 1).configured = true ∧ 2 ≤ (chanOf s 2 1).landed.length) := by
  decide +kernel

/-- A press with a record waiting for its channel 1, from a source and a task. -/
def arriving (src : Nat) (k : Option Nat) (ls : List Landed) : State :=
  modPress (channelled 0 0 ls) 2 (fun q => { q with input := [(1, { record with source := src, task := k })] })

/-- No task has ended in these states, and no member's record waits to land. -/
theorem test_meets_PressChannelsAndRecords_quiet (w : Word64) (n src : Nat) (k : Option Nat) (ls : List Landed) :
    noEndDue (channelled w n ls) ∧ channelQuiet (channelled w n ls) 2 1 ∧ noEndDue (arriving src k ls) ∧ channelQuiet (arriving src k ls) 2 1 := by
  have h : ∀ w n x, (procOf (at0 e2 w [(1, clean n)]) x).ended = none := by
    intro w n x
    by_cases hx : x = e2
    · rw [hx, at0, procOf_modProc_self]; rfl
    · rw [at0, modProc, procOf_setProc_ne _ _ _ _ hx]; cases x <;> rfl
  have hp : ∀ (s : State) (g : Press → Press), (∀ x, (procOf s x).ended = none) → (∀ q, (g q).proc = q.proc) →
      ∀ x, (procOf (modPress s 2 g) x).ended = none := by
    intro s g hs hg x
    cases x with
    | unit b => exact hs (.unit b)
    | press j =>
      have := hs (.press j)
      simp only [procOf, modPress, pressOf_setPress] at this ⊢
      split
      · next hj => rw [hg, ← hj, this]
      · exact this
  have hc : ∀ w n ls x, (procOf (channelled w n ls) x).ended = none := fun w n _ => hp _ _ (h w n) fun _ => rfl
  have ha : ∀ x, (procOf (arriving src k ls) x).ended = none := hp _ _ (hc _ _ _) fun _ => rfl
  refine ⟨fun x e he => ?_, fun q hq => (by cases hq), fun x e he => ?_, fun q hq => (by cases hq)⟩
  · rw [hc] at he
    cases he
  · rw [ha] at he
    cases he

theorem test_meets_PressChannelsAndRecords :
    (let s := at0 e2 (word 0x75 [(45, 1), (30, 1), (15, 0x10), (0, 2)])
     let w := coreWord s e2
     issuesOp s e2 0x75 ∧ bits w 49 4 = 0 ∧ bits w 10 5 = 0 ∧ bit w 3 = false ∧ bits w 4 6 = 0 ∧ pRange 2 (pA w) (32 * pDst w) 1 0 = []) ∧
    (let s := arriving 0x1143 none [landed 0]
     (pressOf s 2).input = [(1, record)] ∧ mget none s.pressOwner 2 = some 9 ∧ (chanOf s 2 1).configured = true ∧
     (chanOf s 2 1).landed.length < (chanOf s 2 1).count ∧ record.bytes.length + 32 ≤ 32 * (chanOf s 2 1).size ∧ (pressOf s 2).recv = none) ∧
    (∀ k ∈ [1, 8],
      let s := modProc (arriving (coreSrc (.press 3)) (some k) []) (.press 3) (fun p => { p with task := some task, vec := some ⟨0, 0, 1⟩ })
      (3 : BitVec 4) ≠ 2 ∧ (pressOf s 2).input = [(1, { record with source := coreSrc (.press 3), task := some k })] ∧
      (procOf s (.press 3)).vec = some ⟨0, 0, 1⟩ ∧ taskId s (.press 3) = some 1) ∧
    (let s := arriving 0x1143 none [landed 0, landed 1]
     ∀ q ∈ (pressOf s 2).input, mget none s.pressOwner 2 = some q.2.ten ∧ chanFree s 2 q.1 = false) := by
  decide +kernel

/-- An accepted descriptor of tenancy 9 from ring 0. -/
def act (id : Nat) (d : Descriptor) (x : Executor) : Active :=
  { id := id, ten := 9, src := .ring 0, index := id, raw := d, wait := .none, toEnter := [], toFinish := [x], multi := false, failed := 0, low := none,
    detail := 0, started := none, domSince := none, fetchAt := none, prog := none, applied := 0, refusedN := 0, reserved := false, placed := false,
    answered := false, recordOut := false }

/-- A PRESS_RUN or a PRESS_LOAD at the head of a press's queue. -/
def queued (op : Nat) : State :=
  { modProc live e2 (fun p => { p with queue := [4] }) with active := [act 4 (desc [(0, op)]) (.press 2)] }

theorem test_meets_PressTasksAndLoads_tasks :
    runReady (queued 5) e2 = some (act 4 (desc [(0, 5)]) (.press 2)) ∧
    ((procOf (queued 5) e2).cask (runCask (desc [(0, 5)]))).incomplete = false ∧ dOp (desc [(0, 5)]) ≠ 2 ∧ runReady live e2 = none := by
  decide +kernel

/-- A BU_LOAD at the head of a sleeping unit's queue. -/
def loading (cask : Nat) (st : UnitState) (k : Option Task) : State :=
  { modUnit live 0x143 (fun q => { q with st := st, proc := { q.proc with queue := [4], task := k } }) with
    active := [act 4 (desc [(0, 3), (16, cask)]) (.unit 0x143)] }

theorem test_meets_PressTasksAndLoads :
    (let s := queued 6
     let a := act 4 (desc [(0, 6)]) (.press 2)
     headActive s (ofCore e2) = some a ∧ isLoad a.raw = true ∧ waitOver a = true ∧ (procOf s e2).load = none ∧ canPlace s 9 = true ∧
     domainOn s (ofCore e2) = true ∧ (procOf s e2).task = none) ∧
    (let s := loading 2 .asleep none
     headActive s (ofCore u) = some (act 4 (desc [(0, 3), (16, 2)]) (.unit 0x143)) ∧ isLoad (desc [(0, 3), (16, 2)]) = true ∧
     (unitOf s 0x143).st = .asleep ∧ (unitOf s 0x143).wakeReq = false ∧ dfield (desc [(0, 3), (16, 2)]) 16 1 = 2) ∧
    (let s := loading 0 .running (some task)
     (procOf s u).task ≠ none ∧ (dfield (desc [(0, 3)]) 16 1 == 1) = (procOf s u).live ∧ (unitOf s 0x143).st ≠ .off) ∧
    (let s := modProc (queued 6) e2 (fun p => { p with load := some { id := 4, cask := false, waking := false } })
     (procOf s e2).load = some { id := 4, cask := false, waking := false } ∧ activeOf s 4 = some (act 4 (desc [(0, 6)]) (.press 2)) ∧
     canPlace s 9 = true) := by
  decide +kernel

theorem test_meets_LimitsAndUnitStates :
    (∀ x ∈ [u, e2],
      let s := modProc (at0 x 0) x (fun p => { p with task := some { task with raw := desc [(0, 5), (12, 1), (20, 1)] } })
      (procOf s x).task = some { task with raw := desc [(0, 5), (12, 1), (20, 1)] } ∧ (procOf s x).ended = none ∧
      runLimit (desc [(0, 5), (12, 1), (20, 1)]) ≠ 0) ∧
    (pressOf (modPress (at0 e2 0) 2 (fun q => { q with recv := some ⟨1, 1, 3, 0⟩ })) 2).recv = some ⟨1, 1, 3, 0⟩ ∧
    (procOf (at0 e2 0) e2).task = some task ∧ (procOf (at0 e2 0) e2).ended = none ∧
    (let s := modUnit live 0x143 (fun q => { q with st := .asleep, wakeReq := true })
     (unitOf s 0x143).st = .asleep ∧ (unitOf s 0x143).wakeReq = true ∧ (unitOf s 0x143).startReq = false ∧ ballastWaits s (.wake 0x143) = false) ∧
    (let s := modUnit live 0x143 (fun q => { q with st := .idle })
     (unitOf s 0x143).st = .idle ∧ (procOf s u).queue = [] ∧ (procOf s u).task = none ∧ (procOf s u).load = none) := by
  decide +kernel

/-- Stack 0 with a request at the head of its queue, its unit napping or with a task to start. -/
def asking (a : Admit) : State :=
  let s := modUnit (at0 u 0) 0x143 (fun q => { q with
    st := .napping, proc := { q.proc with nap := some { why := .flag 5 false, released := true, lastPoll := 0, answer := none } } })
  { s with ck := 1, pwr := { s.pwr with queues := [(0, [(0, a)])] } }

/-- A unit whose BU_RUN waits for its credit. -/
def starting : State :=
  { modUnit live 0x143 (fun q => { q with st := .idle, startReq := true, proc := { q.proc with queue := [4] } }) with
    ck := 1, pwr := { live.pwr with queues := [(0, [(0, .taskStart 0x143)])] }, active := [act 4 (desc [(0, 2)]) (.unit 0x143)] }

theorem test_meets_BallastAdmits :
    clockRuns live = true ∧ live.pwr.window ≤ (live.ck + live.pwr.phase) / 32 ∧
    (∀ a ∈ [Admit.nap 0x143, .wake 0x143, .ramp 5 16, .ramp 5 1],
      mget [] (asking a).pwr.queues 0 = [(0, a)] ∧ (asking a).pwr.window = windowOf32 (asking a) ∧ nextStack (asking a) = some 0) ∧
    (unitOf (asking (.nap 0x143)) 0x143).st = .napping ∧
    starting.pwr.window = windowOf32 starting ∧ nextStack starting = some 0 ∧
    runReady starting u = some (act 4 (desc [(0, 2)]) (.unit 0x143)) ∧ ((procOf starting u).cask (runCask (desc [(0, 2)]))).incomplete = false ∧
    dOp (desc [(0, 2)]) = 2 := by
  decide +kernel

theorem test_meets_ColumnsAndRanges :
    (clockRuns live = true ∧ live.net.slew = 0 ∧ live.net.rate = 0 ∧ live.net.rateAcc < 65536) ∧
    (let s := setBank live 0x143 { Bank.closed with owed := 8, hostQ := [⟨0, 2, false, none⟩] }
     (bankOf s 0x143).owed = 8 ∧ ∀ h ∈ (bankOf s 0x143).hostQ, h.begun = false) ∧
    ((bankOf live 0x143).owed = 0 ∧ (bankOf live 0x143).hostQ = [] ∧ (unitOf live 0x143).wq = [] ∧ wantsColumn (unitOf live 0x143) = false ∧
      copyAt live 0x143 = none) ∧
    (let s := modUnit (at0 u 0) 0x143 (fun q => { q with miss := some 3 })
     let s := { s with xlat := [⟨9, false, true, 3, 1, 20, 1⟩] }
     (unitOf s 0x143).miss = some 3 ∧ pageEntry s (coreTen s u) 3 (groupOf 0x143) = some ⟨9, false, true, 3, 1, 20, 1⟩) ∧
    (∀ h ∈ [(⟨4, 2, true, none⟩ : SlotUse), ⟨4, 1, false, none⟩],
      let s := setBank live 0x143 { Bank.closed with owed := if h.begun then 8 else 3, hostQ := [h] }
      (bankOf s 0x143).hostQ = [h] ∧ (h.begun = true ∨ (bankOf s 0x143).owed ≠ 8)) := by
  decide +kernel

/-- A shut-down module's arrays, and a bank whose oldest pair is not between its read slot and its write slot. -/
theorem test_meets_ColumnsAndRanges_arrays :
    arraysOn live = true ∧ arraysOn { live with boot := { live.boot with phase := .shutdown } } = false ∧ rmwOpen live 0x143 = false := by
  decide +kernel

/-- Two pairs of columns: the first column has a whole word, one byte, and a poisoned word; the second column is written or not. -/
def pairs (second begun : Bool) (read : Bool := false) : List WPair :=
  [⟨64, 5, if second then 0xF00000F01F else 0xF01F, 8, begun, read, false⟩, ⟨128, 0, 0xF, 0, false, false, false⟩]

theorem test_meets_ColumnsAndRanges_commit :
    ∀ second ∈ [true, false], ∀ begun ∈ [true, false], ∀ read ∈ [true, false],
      let s := modUnit live 0x143 (fun q => { q with wq := pairs second begun read })
      arraysOn s = true ∧ rmwOpen s 0x143 = read ∧ (bankOf s 0x143).hostQ = [] ∧ (bankOf s 0x143).owed < 8 ∧ copyAt s 0x143 = none ∧ (unitOf s 0x143).wq = pairs second begun read ∧
      ∀ p ∈ (pairs second begun read).head?, p.done = false ∧ p.addr % 64 = 0 ∧ bits p.en 0 32 ≠ 0 ∧ bits p.en 0 4 = 15 ∧ bits p.en 4 4 = 1 ∧ bits p.en 8 4 = 0 ∧
        bits p.en 12 4 = 15 ∧ bit p.poison 3 = true := by
  decide +kernel

/-- Stored words that read clean and poisoned. -/
theorem test_meets_ColumnsAndRanges_words : readsAs live 7 = some 0 ∧ readsAs { live with check := [(7, 0x7F)] } 7 = none := by
  decide +kernel

/-- A stream whose next column lies in its region, past its end, in a retired bank, in a ring region, and in no region. -/
theorem test_meets_ColumnsAndRanges_streams :
    let s := modUnit live 0x143 (fun q => { q with stream := some ⟨2, 5, 64, 9, 32, none, 1, 0, [], []⟩ })
    let past := modUnit live 0x143 (fun q => { q with stream := some ⟨2, 5, 2 ^ 21, 9, -32, none, 0, 0, [], []⟩ })
    let ring := setRegion past 5 { regionOf live 5 with ring := true }
    (∀ x ∈ [s, past], (bankOf x 0x143).hostQ = [] ∧ (bankOf x 0x143).owed < 8 ∧ copyAt x 0x143 = none ∧ (unitOf x 0x143).wq = [] ∧
      (unitOf x 0x143).miss = none ∧ unitRegion x 0x143 5 = none) ∧
    (regionOf s 5).ring = false ∧ (regionOf s 5).xlat = false ∧ (64 + 1 * 32 : Int) = ((regionOf s 5).base : Int) + 96 ∧ 96 < (regionOf s 5).size ∧
    retiredAt s (2 ^ 27 * 0x143 + 96) = false ∧ retiredAt { s with retireBanks := [(0x143, true)] } (2 ^ 27 * 0x143 + 96) = true ∧
    (regionOf past 5).size = 2 ^ 21 ∧ unitRegion ring 0x143 5 = none ∧ (regionOf ring 5).ring = true ∧
    (unitRegion (setRegion s 5 Region.empty) 0x143 5).isSome = true := by
  decide +kernel

/-- A decant engine about to copy 32 bytes from region 5 to region 6. -/
def copyD : Descriptor := desc [(0, 0x10), (11, 2), (12, 5), (13, 6), (14, 8 + 128 + 1536 + 16384), (28, 31), (41, 1), (51, 1)]
def copying : State :=
  { live with active := [act 7 copyD (.decant 0)], decants := [(0, { queue := [], job := some ⟨7, 0, 0, []⟩, ended := none })] }

theorem test_meets_ColumnsAndRanges_copy :
    let s := copying
    let c := copyOf copyD
    let js := (c.stepIx s 0).filter (fun i => !c.isPad i)
    arraysOn s = true ∧ (bankOf s 0).hostQ = [] ∧ (bankOf s 0).owed < 8 ∧ copyAt s 0 = some 0 ∧ jobOf s 0 = some (⟨7, 0, 0, []⟩, act 7 copyD (.decant 0)) ∧
    c.sfmt = c.dfmt ∧ c.padw = false ∧ c.inplace = false ∧ mayShare s c = false ∧
    byteLocs s c.sregion false (js.flatMap c.srcBytes) = ((List.range 32).map (fun i => (2 ^ 27 * 320 + i, i))).map (fun p => .mem p.1) ∧
    byteLocs s c.dregion true (js.flatMap c.dstBytes) = ((List.range 32).map (fun i => (2 ^ 27 * 320 + i, i))).map (fun p => .mem p.2) ∧
    (∀ i < 32, retiredAt s (2 ^ 27 * 320 + i) = false ∧ retiredAt s i = false) ∧ (List.range 32).Nodup ∧
    (js.flatMap c.srcBytes).length = (js.flatMap c.dstBytes).length ∧ (∀ i ∈ js, (c.srcBytes i).length = (c.dstBytes i).length) := by
  decide +kernel

theorem test_meets_ColumnsAndRanges_quiet (n w : Nat) : (unitOf copying n).wq = [] ∧ readsAs copying w ≠ none := by
  have h : dramWord copying w = 0 := rfl
  have h' : dramCheck copying w = 0 := rfl
  refine ⟨rfl, ?_⟩
  unfold readsAs
  rw [h, h']
  decide +kernel

/-- The last column of a scrub of region 5. -/
def scrubD : Descriptor := desc [(0, 12), (16, 5), (32, 32), (40, 4096)]
def scrubbing : State :=
  { live with active := [act 7 scrubD .scrubber]
              scrub := some { id := 7, next := 15, scanned := 120, ce := 0, ue := 0, pr := 0, first := none, last := none, banks := [] } }

theorem test_meets_ColumnsAndRanges_scrub :
    activeOf scrubbing 7 = some (act 7 scrubD .scrubber) ∧ 15 + 1 = scrubTotal scrubbing scrubD ∧
    locate scrubbing (regionOf scrubbing (bits scrubD 128 6)) false ((15 / scrubRun scrubD : Nat) : Int)
      ((dfield scrubD 24 8 + 32 * (15 % scrubRun scrubD) : Nat) : Int) = .mem (2 ^ 27 * 335) ∧
    2 ^ 27 * 335 % 32 = 0 ∧ retiredAt scrubbing (2 ^ 27 * 335) = false := by
  decide +kernel

/-- A flag operation on flag 5 on its way, with waiters at the home. -/
def sent (op : FlagOp) (r : Reply) (ws : List Watch) : State :=
  { live with sync := { Sync.empty with msgs := [⟨op, 5, 9, ⟨6, 0⟩, 7, r⟩], watches := ws } }
def watch (clr : Bool) : Watch := { flag := 5, onClear := false, clr := clr, holder := .desc 4, kite := none, who := ⟨6, 0⟩, tag := 7 }

theorem test_meets_FlagsAndPolls_home :
    (sent .set .none []).sync.msgs = [⟨.set, 5, 9, ⟨6, 0⟩, 7, .none⟩] ∧
    flagOf { sent .set .none [] with sync := { (sent .set .none []).sync with flags := [(5, true)] } } 5 = true ∧
    flagOf (sent .set .none [watch false, watch true]) 5 = false ∧
    (∀ w ∈ (sent .set .none [watch false, watch true]).sync.watches, w.flag = 5 ∧ w.onClear = false ∧ w.kite = none ∧ w.holder = .desc 4) ∧
    (∀ w ∈ (sent .testClr .none [watch true]).sync.watches, w.onClear = false) ∧
    (procOf (modProc (sent .test (.core u) []) u (fun p => { p with nap := some ⟨.test 5 false 3, false, 0, none⟩ })) u).nap =
      some ⟨.test 5 false 3, false, 0, none⟩ := by
  decide +kernel

/-- A host kite that waits for flag 5 to be set, or to be clear, and the operation that fires it. -/
theorem test_meets_FlagsAndPolls_kite :
    ∀ onClear ∈ [false, true],
      let x : Kite := ⟨9, 5, onClear, false, 3, 77, ⟨6, 0⟩, 7, 0⟩
      let s := sent (if onClear then .clear else .set) .none [{ watch false with onClear := onClear, holder := .host 8, kite := some 8 }]
      let s := { s with sync := { s.sync with kites := [(8, some x)], flags := if onClear then [(5, true)] else [] } }
      s.sync.watches.filter (fun v => v.flag == 5) = [{ watch false with onClear := onClear, holder := .host 8, kite := some 8 }] ∧
      kiteOf s 8 = some x ∧ flagOf s 5 = onClear ∧ 0 < eqFree s 9 ∧
      eqFree (setRing s 9 5 { Ring.empty with enabled := true, tail := 63 }) 9 = 0 := by
  decide +kernel

theorem test_meets_FlagsAndPolls :
    (∀ a ∈ [none, some true, some false], ∀ x ∈ [u, e2],
      let s := modProc live x (fun p => { p with nap := some ⟨.poll 5 true, false, 0, a⟩ })
      let s := match x with | .unit b => modUnit s b.toNat (fun q => { q with st := .napping }) | .press _ => s
      (procOf s x).nap = some ⟨.poll 5 true, false, 0, a⟩ ∧ clockRuns s = true ∧ flagHome s 5 ≠ 9 ∧ (unitOf s 0x143).st = (if x = u then .napping else .off) ∧
      mget [] s.pwr.queues (stackOf 0x143) = []) := by
  decide +kernel

/-- Barrier 3 with two stacks: units 0x143 of stack 0 and 0x200 of stack 1. -/
def two (b : Barrier → Barrier) (arr : List Arrival) : State :=
  { live with sync := { Sync.empty with
      arrivals := arr
      barriers := [(3, b { Barrier.empty with st := .active, ten := 9, flag := 6, parts := [(0x143, true), (0x200, true)] })] } }

theorem test_meets_BarriersCountAndRelease_arrivals :
    (let s := two id [arr3 0x143]
     s.sync.arrivals.any (fun a => a.bar == 3 && a.unit == 0x143) = true ∧ participates s 3 0x143 = true ∧ (barOf s 3).st = .active ∧ (barOf s 3).firstArr = none ∧
     (barOf s 3).firstTime = none ∧
     mget false (barOf s 3).arrived 0x143 = false ∧ 2 ≤ (barStacks (barOf s 3)).length ∧
     dieDone { barOf s 3 with arrived := mset false (barOf s 3).arrived 0x143 true } (stackOf 0x143) = true) ∧
    (let s := two (fun b => { b with arrived := [(0x143, true)] }) [arr3 0x143]
     mget false (barOf s 3).arrived 0x143 = true ∧ mget false (barOf s 3).early 0x143 = false) ∧
    (let s := modProc (two (fun b => { b with arrived := [(0x143, true)], early := [(0x143, true)] }) [arr3 0x143]) u
       (fun p => { p with task := some task })
     mget false (barOf s 3).early 0x143 = true ∧ (procOf s u).task.isSome = true ∧ (procOf s u).ended = none) ∧
    (let s := two (fun b => { b with stackUp := [0] }) []
     (barOf s 3).st = .active ∧ (barOf s 3).stackUp.contains 0 = true ∧ (barOf s 3).mdCount.length + 1 < (barStacks (barOf s 3)).length) := by
  decide +kernel

theorem test_meets_BarriersCountAndRelease :
    (let s := two (fun b => { b with stackUp := [1], mdCount := [0] }) []
     (barOf s 3).st = .active ∧ (barOf s 3).members = 0 ∧ (barOf s 3).stackUp.contains 1 = true ∧
     (barOf s 3).mdCount.length + 1 = (barStacks (barOf s 3)).length ∧ flagHome s (barOf s 3).flag ≠ 9 ∧ s.sync.msgs = [] ∧ s.sync.watches = [] ∧
     ownsFlag s (barOf s 3).ten (barOf s 3).flag = true ∧
     ownsFlag { s with blockOwner := [] } (barOf s 3).ten (barOf s 3).flag = false) ∧
    logRoom live ∧
    (let s := modProc (two (fun b => { b with down := [0, 1], arrived := [(0x143, true)] }) []) u
       (fun p => { p with nap := some ⟨.barrier 3, false, 0, none⟩ })
     (unitOf s 0x143).proc.nap ≠ none ∧ (barOf s 3).down.contains 0 = true ∧ earlyIn (barOf s 3) 0 = [] ∧ 0x143 ∈ nappersOf s 3 ∧
     s.sync.arrivals.any (fun a => a.bar == 3 && a.unit == 0x143) = false) ∧
    (let s := two (fun b => { b with firstArr := some 5 }) []
     (barOf s 3).firstArr = some 5 ∧ (barOf s 3).st = .active ∧ (barOf s 3).members = 0) ∧
    (let s := modProc (two (fun b => { b with firstArr := some 5, arrived := [(0x143, true)] }) []) u
       (fun p => { p with task := some task, nap := some ⟨.barrier 3, false, 0, none⟩ })
     0x143 ∈ nappersOf s 3 ∧ (procOf s u).task ≠ none ∧ (procOf s u).ended = none) := by
  unfold logRoom
  refine ⟨?_, ?_, ?_, ?_, ?_⟩ <;> decide +kernel

theorem test_meets_ObjectsChangeOwner_requests :
    live.boot.linkUp = true ∧ (tenOf live 9).swBusy = false ∧ (tenOf live 9).enabled = true ∧ (tenOf live 12).enabled = false ∧
    badIndex live 0 256 = true ∧ badIndex live 0 255 = false ∧ badIndex live 3 8 = true ∧ badIndex live 3 7 = false ∧
    inTransit { live with switches := [⟨12, 1, 0, false, 9⟩] } 1 0 = true ∧ objectOwner live 0 20 = some 9 ∧ objectOwner live 0 21 = none ∧
    covered live 0 20 9 = true ∧ covered live 1 0 9 = false := by
  decide +kernel

theorem test_meets_ObjectsChangeOwner :
    let s := { live with switches := [⟨12, 1, 0, false, 9⟩] }
    s.switches.find? (fun v => v.ten == 12) = some ⟨12, 1, 0, false, 9⟩ := by
  decide +kernel

/-- The translation registers of tenancy 9: page 3 to physical page 1 of group 20. -/
def xreg (v : Nat) (table : List XEntry) : State :=
  { setReg (setReg live (tenReg 9 0x400) 3) (tenReg 9 0x408) (BitVec.ofNat 64 v) with xlat := table }

/-- A valid entry that replaces one of the same range. -/
theorem test_meets_TranslationCommands_replaced :
    let e : XEntry := ⟨9, false, true, 3, 1, 20, 1⟩
    let s := xreg (5 + 256 + 20 * 2 ^ 32 + 2 ^ 40) [e]
    bit (reg s (tenReg 9 0x408)) 0 = true ∧ xlatRefused s (xlatReg s 9) = false ∧ e ∈ s.xlat ∧ e.same (xlatReg s 9) = true ∧ (tenOf s 9).xBusy = false := by
  decide +kernel

theorem test_meets_TranslationCommands :
    (let v := 5 + 256 + 20 * 2 ^ 32 + 2 ^ 40
     bit (reg (xreg v []) (tenReg 9 0x408)) 0 = true ∧ xlatRefused (xreg v []) (xlatReg (xreg v []) 9) = false ∧
     (tenOf (xreg v []) 9).xBusy = false ∧
     xlatRefused (xreg (v + 2 ^ 32) []) (xlatReg (xreg (v + 2 ^ 32) []) 9) = true ∧
     bit (reg (xreg (v - 1) [⟨9, false, true, 3, 1, 20, 1⟩]) (tenReg 9 0x408)) 0 = false ∧
     (∃ x ∈ (xreg (v - 1) [⟨9, false, true, 3, 1, 20, 1⟩]).xlat, x.same (xlatReg (xreg (v - 1) [⟨9, false, true, 3, 1, 20, 1⟩]) 9) = true) ∧
     firstByGroup ((xreg v [⟨9, false, true, 3, 1, 20, 1⟩]).xlat.filter
       (fun x => x.samePage (xlatReg (xreg v [⟨9, false, true, 3, 1, 20, 1⟩]) 9))) = some ⟨9, false, true, 3, 1, 20, 1⟩ ∧
     (∃ x ∈ (xreg v [⟨9, false, true, 3, 1, 20, 1⟩]).xlat, x.meets (xlatReg (xreg v [⟨9, false, true, 3, 1, 20, 1⟩]) 9) = true)) ∧
    (let s := { modTen live 9 (fun x => { x with xBusy := true }) with xlatNext := [(9, ([⟨9, false, true, 3, 1, 20, 1⟩], []))] }
     (tenOf s 9).xBusy = true ∧ mget ([], []) s.xlatNext 9 = ([⟨9, false, true, 3, 1, 20, 1⟩], [])) := by
  decide +kernel

/-- A report that fits, one that saturates, and the operator's commands. -/
theorem test_meets_MetersCount :
    (∀ v ∈ [0, 2 ^ 64 - 1],
      let s := setReg { modTen live 9 (fun x => { x with meters := [(15, v)] }) with meterQ := [⟨9, 15, 1, 999999⟩] } (tenReg 9 0x888) 0xFFFF
      s.meterQ = [⟨9, 15, 1, 999999⟩] ∧ 15 ≠ 8 ∧ mget 0 (tenOf s 9).meters 8 + ((tenOf s 9).energy + 999999) / 1000000 < 2 ^ 64 ∧
      mget 0 (tenOf s 9).meters 15 = v ∧ meterFlag s 9 = 0xFFFF) ∧
    (existing live).Nodup ∧ 9 ∈ existing live ∧ (tenOf live 9).snapBusy = false := by
  decide +kernel

theorem test_meets_MetersCount_room (t : Nat) : mget 0 (tenOf live t).meters 9 + 256 < 2 ^ 64 ∧ mget 0 (tenOf live t).meters 14 + 256 < 2 ^ 64 := by
  by_cases h : t = 9
  · subst h; decide
  · have : tenOf live t = Tenancy.empty := by
      unfold tenOf live
      simp [mget, Ne.symm h]
    rw [this]
    decide

/-- A running module with one field of its boot state, or of its domains, changed. -/
def booting (step : Nat) (f : Boot → Boot := id) : State := { live with boot := f { live.boot with step := step, memActive := false, linkUp := false } }
def domained (d : Nat) (st : DomSt) (req : Bool) : State :=
  { live with pwr := { live.pwr with dom := [(d, { Domain.off with st := st })], req := [(d, req)], nextDom := 270 } }

theorem test_meets_DomainsRampAndDrain :
    (∀ d ∈ [0, 255, 256, 269], mayRamp (domained d .off true) d = true ∧ clockRuns (domained d .off true) = true ∧
      (domOf (domained d .ramping true) d).st = .ramping ∧ domReq (domained d .ramping true) d = true ∧
      domReq (domained d .ramping false) d = false ∧ inTransit (domained d .ramping false) 0 d = false ∧
      (domOf (domained d .draining false) d).st = .draining ∧ drained (domained d .draining false) d = true) ∧
    drained (modProc (domained 20 .draining false) u (fun p => { p with task := some task })) 20 = false ∧
    bankRetired live (16 * 20 + 3) = false ∧ domPresent live 269 = true ∧ domPresent live 270 = false := by
  decide +kernel

theorem test_meets_PowerAndHeat :
    live.boot.phase = .sequence ∧ clockRuns live = true ∧
    (let s := { live with pwr := { live.pwr with samples := [4501], kCap := 4, floorFor := 99 } }
     averageAbove s (capW s) = true ∧ s.pwr.kCap = 4 ∧ 99 ≤ s.pwr.floorFor) ∧
    (let s := { live with pwr := { live.pwr with samples := [4399], kCap := 15, belowFor := 9 } }
     averageAbove s (capW s) = false ∧ averageBelow s (capW s - 10) = true ∧ 9 ≤ s.pwr.belowFor) ∧
    (let s := { live with pwr := { live.pwr with samples := [4400] } }
     averageAbove s (capW s) = false ∧ averageBelow s (capW s - 10) = false) ∧
    live.thm.failed = [] ∧ live.thm.diffs = [] ∧ (thmOf live 0).unseen = false ∧
    (let rs := List.replicate 544 (440 : BitVec 12)
     (∀ i < 544, sampleOf rs i < 460) ∧ (∀ i ∈ sensorsOf 0, sampleOf rs i ≤ 440) ∧ (∃ i ∈ sensorsOf 0, sampleOf rs i = 440) ∧
     (thmOf live 0).band < bandFor 440) ∧
    (let rs := List.replicate 544 (460 : BitVec 12)
     nearSensors 0 1 = true ∧ 460 ≤ sampleOf rs 0 ∧ 460 ≤ sampleOf rs 1) ∧
    (thmOf (setThm live 3 { ThmStack.cool with pending := some (9, 8) }) 3).pending = some (9, 8) := by
  decide +kernel

/-- A coasting module. -/
def coasting (relock locked : Bool) : State :=
  { live with clk := { live.clk with coast := true, relock := relock, locked := locked }, boot := { live.boot with linkUp := false } }

theorem test_meets_ClocksCoastAndRelock :
    (live.boot.phase = .sequence ∧ live.clk.coast = false ∧ live.clk.locked = true) ∧
    ((coasting true false).clk.coast = true ∧ (coasting true false).clk.relock = true ∧ 4 ≤ (coasting true false).boot.step ∧
      (coasting true false).mgmt.restarting = none ∧ (coasting true false).boot.step ≠ 2 ∧ (coasting true false).clk.refGood = true ∧
      (coasting true false).boot.memActive = true) ∧
    ((booting 5 id).boot.memActive = false ∧ (booting 2 id).boot.step = 2 ∧ 6 ≤ (booting 6 id).boot.step) ∧
    (let s := { booting 5 id with clk := { Clk.reset with coast := true, startCoast := true, refGood := true } }
     s.boot.step ≠ 2 ∧ s.clk.coast = true ∧ s.clk.refGood = true ∧ s.boot.memActive = false ∧ s.clk.startCoast = true) ∧
    ((coasting true true).clk.locked = true ∧ (coasting true true).boot.perst = false) ∧
    mget false ({ live with clk := { live.clk with openLanes := [(7, true)] } } : State).clk.openLanes 7 = true ∧
    (let s := { live with boot := { live.boot with linkUp := false } }
     s.boot.step = 8 ∧ s.boot.perst = false ∧ s.clk.coast = false ∧ s.boot.linkUp = false) := by
  decide +kernel

/-- Tenancy 9 with nothing of its own. -/
def bare : State := { live with groupOwner := [], blockOwner := [], barOwner := [], pressOwner := [], regions := [] }

theorem test_meets_TenanciesAndRings :
    live.boot.linkUp = true ∧ (tenOf live 12).enabled = false ∧ (tenOf live 9).enabled = true ∧ mayDisable bare 9 = true ∧
    mayDisable live 9 = false ∧ groupsOwned bare 9 = [] ∧ regionsOwned bare 9 = [] ∧ (∀ e ∈ xlatAll bare, e.ten ≠ 9) ∧
    groupsOwned live 9 ≠ [] ∧ (∀ j ∈ [0, 5], ringIdle live 9 j = true) ∧ (ringOf live 12 5).enabled = false ∧
    (ringOf live 12 4).enabled = false ∧ ringIdle live 12 4 = true ∧ (tenOf live 12).staging = [] ∧ (tenOf live 12).held = [] ∧
    ringIdle (setRing live 9 0 { Ring.empty with enabled := true, tail := 1 }) 9 0 = false ∧
    6 ≤ (6 : BitVec 5).toNat ∧ (16 : BitVec 5).toNat ≤ 16 ∧ (5 : BitVec 5).toNat < 6 ∧ 16 < (17 : BitVec 5).toNat := by
  decide +kernel

/-- Entry 7 with an owner, a base and a size, and the CTRL value that names group 20. -/
def drafted (size : Nat) : State := setRegion live 7 { Region.empty with owner := 9, base := 2 ^ 21, size := size }
def ctrl : Word64 := BitVec.ofNat 64 (1 + 9 * 2 ^ 8 + 20 * 2 ^ 16 + 2 ^ 32)

theorem test_meets_RegionsAndRetirement :
    live.boot.linkUp = true ∧ (regionOf (drafted (2 ^ 21)) 7).valid = false ∧ 1 ≤ bits ctrl 32 9 ∧ bits ctrl 32 9 ≤ 256 ∧
    bits (ctrl - 2 ^ 32) 32 9 = 0 ∧ 256 < bits (ctrl + 2 ^ 40) 32 9 ∧
    (regionOf live 5).valid = true ∧ regionBusy live 5 = false ∧
    regionBusy { live with active := [act 1 (desc [(0, 12), (16, 5)]) .scrubber] } 5 = true ∧
    (32 : BitVec 6).toNat ≤ 32 ∧ 32 < (33 : BitVec 6).toNat ∧ bare.regions = [] ∧ bare.groupOwner = [] ∧ xlatAll bare = [] ∧
    (∃ e ∈ live.groupOwner, e.2.isSome = true) := by
  decide +kernel

/-- The draft meets the seven conditions of R32; with no size it fails the second, the first met. -/
theorem test_meets_RegionsAndRetirement_conditions :
    (∀ k, 1 ≤ k → k ≤ 7 → regionCondition (drafted (2 ^ 21)) 7 (ctrlFields (regionOf (drafted (2 ^ 21)) 7) (ctrl ||| 1)) k) ∧
    (∀ k, 1 ≤ k → k < 2 → regionCondition (drafted 0) 7 (ctrlFields (regionOf (drafted 0) 7) (ctrl ||| 1)) k) ∧
    ¬ regionCondition (drafted 0) 7 (ctrlFields (regionOf (drafted 0) 7) (ctrl ||| 1)) 2 := by
  have hv : ∀ m < 64, m ≠ 7 → (regionOf (drafted (2 ^ 21)) m).valid = true → m = 5 ∨ m = 6 := by decide +kernel
  refine ⟨fun k h1 h2 => ?_, fun k h1 h2 => ?_, by simp only [regionCondition]; decide +kernel⟩
  · interval_cases k <;> simp only [regionCondition]
    pick_goal 7
    · refine fun _ => ⟨fun m hm h7 hr => ?_, by decide +kernel⟩
      rcases hv m hm h7 hr with rfl | rfl <;> decide +kernel
    all_goals decide +kernel
  · interval_cases k <;> simp only [regionCondition] <;> decide +kernel

theorem test_meets_SetupRegisters :
    live.boot.linkUp = true ∧ live.variant = .rl512N ∧ (booting 8 (fun b => { b with linkUp := true })).boot.memActive = false ∧
    (0x20008 : BitVec 24).toNat ∈ [0x20008, 0x20010, 0x20018, 0x30028, 0x40108, 0x40110, 0x40118, 0x100100] ∧
    (0x7FC898 : BitVec 24).toNat = tenReg 255 0x898 ∧ (4 ≠ 8 ∧ (2 : BitVec 24).toNat % 4 ≠ 0) ∧
    (0xC017F0 : BitVec 24).toNat = 0xC01000 + 0x20 * 63 + 0x10 ∧
    ((1 : Word64) &&& rwlMask 0xC01000) ≠ (reg live 0xC01000 &&& rwlMask 0xC01000) ∧
    mget none live.blockOwner 255 = none ∧ mget none live.blockOwner 0 ≠ none ∧ (8 : BitVec 4).toNat ≤ 8 ∧ 9 < (10 : BitVec 4).toNat ∧
    ({ live with net := { live.net with pod := .member } } : State).net.pod = .member ∧ live.net.pod ≠ .member ∧
    ({ live with sync := { Sync.empty with dbgPend := some [] } } : State).sync.dbgPend = some [] ∧
    kiteOf { live with sync := { Sync.empty with kites := [(0xFFF, some ⟨9, 5, false, false, 0, 0, ⟨6, 0⟩, 7, 0⟩)] } } 0xFFF =
      some ⟨9, 5, false, false, 0, 0, ⟨6, 0⟩, 7, 0⟩ ∧
    bit (1 : Word64) 0 = true ∧ bit (reg live 0x40100) 0 = false ∧ bit (0 : Word64) 0 = false := by
  decide +kernel

/-- A signed image without a body, and a module whose slot A holds it. -/
def image : Image := { header := magic ++ List.replicate 56 0 ++ shake256 [] ++ List.replicate 896 0, body := [] }
def badImage : Image := { header := [], body := [] }
def signed (b : State) : State :=
  { b with flash := { b.flash with slotA := image }, fuses := { b.fuses with keyHash := shake256 (imgBytes image 128 285) } }

/-- A slot verifies where its signature does (whether a signature verifies is open in the model: log entry 8). -/
theorem test_meets_StartUpSteps_slot (h : Config.ed448Verify (imgBytes image (128 + 57 * imgNum image 18 1) 57) firmwareContext (imgBytes image 0 512)
    (imgBytes image 512 114) = true) : slotGood (signed (booting 4)) false = true ∧ slotGood (signed (booting 4)) true = false := by
  have hd : (shake256 []).length = 64 := by decide +kernel
  have h6 : imgBytes image 64 64 = shake256 [] := by
    unfold image imgBytes
    generalize shake256 [] = d at *
    rw [List.append_assoc, List.drop_append_of_le_length (by decide +kernel), show List.drop 64 (magic ++ List.replicate 56 0) = [] from by decide +kernel, List.nil_append,
      List.take_append_of_le_length (by omega), List.take_of_length_le (by omega)]
  refine ⟨?_, by decide +kernel⟩
  show (((imageChecks (signed (booting 4)).fuses image).zipIdx.find? (fun e => !e.1)).map (fun e => e.2 + 1)).isNone = true
  unfold imageChecks
  extract_lets len key
  rw [show Config.ed448Verify (imgBytes image (128 + 57 * key) 57) firmwareContext (imgBytes image 0 512) (imgBytes image 512 114) = true from h, h6,
    show (shake256 (imgBytes image 128 285) == (signed (booting 4)).fuses.keyHash) = true from by simp only [signed]; exact beq_self_eq_true _,
    show (shake256 (image.body.take len) == shake256 []) = true from by rw [show image.body = [] from rfl, List.take_nil]; exact beq_self_eq_true _]
  decide +kernel

theorem test_meets_StartUpSteps :
    ({ live with boot := { live.boot with phase := .off } } : State).boot.phase = .off ∧ State.reset.boot.phase = .sequence ∧
    State.reset.boot.step = 1 ∧ (∀ k ∈ [3, 4, 5, 6, 7], (booting k).boot.step = k ∧ (booting k).boot.phase = .sequence) ∧
    (booting 3 (fun b => { b with resetDue := true })).boot.resetDue = true ∧ (booting 3).boot.secretLocked = false ∧
    (booting 4).flash.postponed = none ∧ (booting 4).flash.ruling.trial = false ∧ (booting 4).flash.ruling.attempted = false ∧
    (signed (booting 4)).flash.ruling.preferredB = false ∧ windowOpen (booting 4) = true ∧
    slotGood (booting 4) false = false ∧ slotGood (booting 4) true = false ∧ (booting 5).clk.startCoast = false ∧
    (∀ a ∈ [false, true],
      let s := { booting 4 with flash := { live.flash with dir0 := { live.flash.dir0 with trial := true, attempted := a, valid := true } } }
      s.flash.postponed = none ∧ windowOpen s = true ∧ s.flash.ruling.trial = true ∧ s.flash.ruling.attempted = a) ∧
    ((booting 6).boot.initDone = false ∧ rampsDone (booting 6) = true ∧
      rampsDone { booting 6 with pwr := { live.pwr with dom := [], req := [(269, true)] } } = false) ∧
    (7 ≤ (booting 7 (fun b => { b with notReady := true })).boot.step ∧ (booting 7 (fun b => { b with notReady := true })).boot.notReady = true) ∧
    ((booting 7).boot.perst = false ∧ (booting 7).clk.coast = false ∧ (booting 7).boot.linkUp = false ∧ (booting 7).boot.blocked = false ∧
      (booting 7).mgmt.hold = false) ∧
    (booting 8 (fun b => { b with linkUp := true, awaitGo := true })).boot.awaitGo = true := by
  decide +kernel

theorem test_meets_ResetsKeepAndClear :
    live.boot.phase = .sequence ∧ 4 ≤ (booting 4).boot.step ∧
    ({ live with boot := { live.boot with phase := .recovery } } : State).boot.phase = .recovery ∧ live.mgmt.restarting = none ∧
    7 ≤ (booting 7).boot.step ∧ live.boot.perst = false ∧ (∀ q ∈ (at0 u 0).units, q.2.wq = []) ∧ live.boot.phase ≠ .off := by
  decide +kernel

/-- The M-die outside the temperature window. -/
def hot : State := { live with thm := { Thm.reset with reading := (List.range 544).map (fun i => (i, 321)) } }

theorem test_meets_ManagementAndAttestation_commands :
    mgmtUp live = true ∧ mgmtUp (booting 3) = false ∧ live.mgmt.restarting = none ∧ windowOpen live = true ∧ windowOpen hot = false ∧
    mgmtUp hot = true ∧ firmwareRuns live = true ∧ firmwareRuns { live with boot := { live.boot with phase := .recovery } } = false ∧
    mgmtUp { live with boot := { live.boot with phase := .recovery } } = true ∧ (bootDir live).2.1 = false ∧ signedWith live false 3 = false ∧
    signedWith live true 3 = false ∧ provisionOk { hold := true, fields := [(0xC00008, 5)] } = true ∧ (3 : BitVec 3).toNat < 4 ∧
    4 ≤ (4 : BitVec 3).toNat ∧ live.mgmt.i3c = false ∧ ({ live with mgmt := { live.mgmt with event := true } } : State).mgmt.event = true ∧
    live.mgmt.alertShut = false ∧
    ({ live with flash := { live.flash with postponed := some (true, true, true) } } : State).flash.postponed = some (true, true, true) := by
  decide +kernel

theorem test_meets_ManagementAndAttestation :
    live.boot.linkUp = true ∧ live.boot.keyReady = true ∧ firmwareRuns live = true ∧ live.log.count ≤ 65536 ∧ live.boot.phase ≠ .off ∧
    firmwareRuns { live with boot := { live.boot with phase := .shutdown } } = true ∧ live.mgmt.event = false ∧ 1 ≤ (6 : BitVec 8).toNat ∧ (6 : BitVec 8).toNat ≤ 6 ∧
    7 ≤ (7 : BitVec 8).toNat ∧ (254 : BitVec 8).toNat ≤ 254 := by
  decide +kernel

theorem test_meets_PageAccesses :
    live.boot.linkUp = true ∧ logRoom live ∧ (tenOf live 9).enabled = true ∧ (tenOf live 12).enabled = false ∧
    ((0x13F8 : BitVec 16).toNat + 8 ≤ 0x1400 ∧ 0x1400 < (0x13FC : BitVec 16).toNat + 8) ∧
    ((0x100 : BitVec 16).toNat + 8 ≤ 0x108 ∧ 0x108 < (0x104 : BitVec 16).toNat + 8 ∧ (0x104 : BitVec 16).toNat < 0x1000) ∧
    (let v : Word64 := 63 + 3 * 2 ^ 16
     bits v 16 4 = 3 ∧ bits v 20 44 = 0 ∧ (ringOf live 9 3).enabled = true ∧
     ((ringOf live 9 3).tail - (ringOf live 9 3).head).toNat ≤ (BitVec.ofNat 16 (bits v 0 16) - (ringOf live 9 3).head).toNat ∧
     (BitVec.ofNat 16 (bits v 0 16) - (ringOf live 9 3).head).toNat ≤ 2 ^ (ringOf live 9 3).log2 - 1 ∧
     2 ^ (ringOf live 9 3).log2 - 1 < (BitVec.ofNat 16 (bits (v + 1) 0 16) - (ringOf live 9 3).head).toNat) ∧
    (∀ j ∈ [4, 5],
      let s := setRing live 9 j { Ring.empty with enabled := true, tail := 2 }
      let v : Word64 := BitVec.ofNat 64 (2 + (j + 4) * 2 ^ 16)
      bits v 16 4 = j + 4 ∧ bits v 20 44 = 0 ∧ (ringOf s 9 j).enabled = true ∧
      (BitVec.ofNat 16 (bits v 0 16) - (ringOf s 9 j).head).toNat ≤ ((ringOf s 9 j).tail - (ringOf s 9 j).head).toNat ∧
      ((ringOf s 9 j).tail - (ringOf s 9 j).head).toNat < (BitVec.ofNat 16 (bits (v + 1) 0 16) - (ringOf s 9 j).head).toNat) ∧
    (0x13C0 : BitVec 16).toNat = 0x1000 + 64 * (15 : BitVec 4).toNat ∧ mget none (tenOf live 9).slots 15 = none ∧
    mget none (tenOf (modTen live 9 (fun x => { x with slots := [(15, some 0)] })) 9).slots 15 ≠ none := by
  unfold logRoom
  decide +kernel

/-- Doorbells of a wrong size, of an undefined ring, to a disabled ring and out of reach; a slot written in part; a tenancy that does not exist. -/
theorem test_meets_PageAccesses_discarded :
    live.boot.linkUp = true ∧ logRoom live ∧ (tenOf live 9).enabled = true ∧ (tenOf live 12).enabled = false ∧ 0 < eqFree live 9 ∧
    (4 ≠ 8 ∧ (4 : BitVec 3) ≠ 0) ∧
    (let v : Word64 := 5 * 2 ^ 16
     ∀ j, ¬ ((bits v 16 4 < 4 ∧ j = bits v 16 4) ∨ (bits v 16 4 = 8 ∧ j = 4) ∨ (bits v 16 4 = 9 ∧ j = 5))) ∧
    bits (2 ^ 20 : Word64) 20 44 ≠ 0 ∧ (ringOf (setRing live 9 3 Ring.empty) 9 3).enabled = false ∧
    (let r := ringOf live 9 3
     bits (3 * 2 ^ 16 + 64 : Word64) 20 44 = 0 ∧ r.enabled = true ∧ 2 ^ r.log2 - 1 < (BitVec.ofNat 16 (bits (3 * 2 ^ 16 + 64 : Word64) 0 16) - r.head).toNat) ∧
    (let r := ringOf (setRing live 9 3 { Ring.empty with enabled := true, tail := 9 }) 9 3
     (BitVec.ofNat 16 (bits (3 * 2 ^ 16 + 8 : Word64) 0 16) - r.head).toNat < (r.tail - r.head).toNat) ∧
    (∀ id ∈ [8, 9], let v : Word64 := BitVec.ofNat 64 (id * 2 ^ 16 + 1)
      bits v 20 44 = 0 ∧ bits v 16 4 = id ∧ (ringOf live 9 (id - 4)).enabled = true ∧
      ((ringOf live 9 (id - 4)).tail - (ringOf live 9 (id - 4)).head).toNat < (BitVec.ofNat 16 (bits v 0 16) - (ringOf live 9 (id - 4)).head).toNat) ∧
    (0x1000 ≤ (0x13C0 : BitVec 16).toNat ∧ (0x13C0 : BitVec 16).toNat < 0x1400 ∧ (60 ≠ 64 ∨ (0x13C0 : BitVec 16).toNat % 64 ≠ 0)) ∧
    (4 : BitVec 16).toNat < 8 := by
  unfold logRoom
  refine ⟨by decide +kernel, by decide +kernel, by decide +kernel, by decide +kernel, by decide +kernel, by decide, ?_, by decide +kernel,
    by decide +kernel, by decide +kernel, by decide +kernel, by decide +kernel, by decide, by decide⟩
  intro v j
  simp only [show bits v 16 4 = 5 from by decide]
  omega

/-- A fetch of tenancy 9 that is out. -/
def out1 : Fetch := { id := 3, ten := 9, ring := 0, first := 0, count := 1, at_ := 0, answer := none }

theorem test_meets_FetchesReturn :
    (oldestFetch live 9 0 = none ∧ fetchCount live 9 0 = 0 ∧
      0 < fetchCount (setRing live 9 0 { Ring.empty with enabled := true, tail := 9 }) 9 0) ∧
    (let s := { live with fetches := [out1] }
     out1 ∈ s.fetches ∧ (s.fetches.map (·.id)).Nodup ∧ oldestFetch s 9 0 = some out1 ∧ out1.count = 1 ∧ (∀ g ∈ s.fetches, g.answer = none) ∧
     (ringOf s 9 cq).enabled = true ∧ (tenOf s 9).staging = [] ∧ (tenOf s 9).held = [] ∧ reservations s 9 < cqFree s 9) ∧
    (let a := { act 4 (desc [(0, 3), (20, 1)]) (.unit 0x143) with fetchAt := some 0 }
     let s := { live with active := [a] }
     activeOf s 4 = some a ∧ isLoad a.raw = true ∧ a.prog = none ∧ dfield a.raw 17 1 = 0 ∧ dfield a.raw 20 2 = 1 ∧ a.fetchAt.isSome = true ∧
     s.fetches = []) := by
  decide +kernel

/-- A descriptor fetched from ring 0 of tenancy 9. -/
def headed (d : Descriptor) : State := { live with fetched := [⟨9, .ring 0, 0, d⟩] }

theorem test_meets_AcceptanceJudged_heads :
    (∀ op ∈ List.range 16, headOf (headed (desc [(0, op)])) 9 (.ring 0) = some (desc [(0, op)]) ∧ dOp (desc [(0, op)]) = op ∧
      nextSource (headed (desc [(0, op)])) = some (9, .ring 0) ∧ dFlag (desc [(0, op)]) 2 = false ∧
      (ringOf (headed (desc [(0, op)])) 9 cq).enabled = true ∧ (tenOf (headed (desc [(0, op)])) 9).staging = [] ∧
      (tenOf (headed (desc [(0, op)])) 9).held = [] ∧
      reservations (headed (desc [(0, op)])) 9 < cqFree (headed (desc [(0, op)])) 9 ∧ activeOf (headed (desc [(0, op)])) (headed (desc [(0, op)])).nextId = none) ∧
    (let d := desc [(0, 7), (4, 0xFFFF), (6, 0xFFFF), (16, 5)]
     acceptStatus (headed d) 9 (.ring 0) d = none ∧ (∀ x ∈ executorsOf (headed d) 9 d, partHalted (headed d) x = false)) ∧
    (let d := desc [(0, 7), (4, 0xFFFF), (6, 0xFFFF), (16, 0x105)]
     acceptStatus (headed d) 9 (.ring 0) d = some .notOwner) ∧
    (let s := { headed (desc [(0, 1)]) with active := [act 1 (desc [(0, 0x0B)]) .dispatcher] }
     headOf s 9 (.ring 0) = some (desc [(0, 1)]) ∧ nextSource s = none) ∧
    (let s := modTen (headed (desc [(0, 1)])) 9 (fun x => { x with slots := [(3, some (desc [(0, 1)])), (5, some (desc [(0, 1)]))] })
     nextSource s = some (9, .slot 3) ∧ headReady s 9 (.slot 5) = true ∧ headReady s 9 (.ring 0) = true ∧ (existing s).Pairwise (· < ·) ∧
     s.dispLast < 256 ∧ (∀ v ∈ existing s, v < 256) ∧ 9 ∈ existing s) := by
  decide +kernel

theorem test_meets_AcceptanceJudged :
    (14 < dOp (desc [(0, 15)]) ∧ dOp (desc [(0, 0)]) = 0) ∧ bits (desc [(0, 1 + 2 ^ 13)]) 13 3 ≠ 0 ∧ (1 ≠ 13 ∨ live.variant = .rl512N) ∧
    (let d := desc [(0, 11), (4, 0xFFFF), (6, 0xFFFF)]
     bits d 13 3 = 0 ∧ dFlag d 4 = false ∧ dfield d 8 56 = 0 ∧ dWait d = none ∧ dSignal d = none) ∧
    (let d := desc [(0, 1), (4, 0x105), (6, 0xFFFF)]
     dWait d = some 0x105 ∧ dSignal d = none ∧ ownsFlag live 9 0x105 = false) ∧
    (let d := desc [(0, 1), (4, 5), (6, 0xFFFF)]
     dWait d = some 5 ∧ ownsFlag live 9 5 = true ∧ inTransit live 1 0 = false ∧ flagHome live 5 ≠ 9 ∧
     flagHome (setReg live 0x800000 9) 5 = 9 ∧ (setReg live 0x800000 9).net.pod ≠ .member) := by
  decide +kernel

/-- A descriptor in the queues of the sync unit, the dispatcher and the meter unit. -/
def held (a : Active) : State := { live with active := [a], syncDQ := [a.id], dispDQ := [a.id], meterDQ := [a.id] }

theorem test_meets_DescriptorsLive :
    (let a := { act 4 (desc [(0, 1)]) .dispatcher with toEnter := [.dispatcher], placed := true }
     let s := { live with active := [a] }
     s.active.find? (fun a => mayEnter s a .dispatcher || mayPlace s a .dispatcher) = some a ∧ a.placed = true ∧
     live.active.find? (fun a => mayEnter live a .dispatcher || mayPlace live a .dispatcher) = none) ∧
    (let a := act 4 (desc [(0, 4)]) (.decant 0)
     let s := { live with active := [a] }
     s.active.find? (fun a => mayEnter s a (.decant 0) || mayPlace s a (.decant 0)) = some a ∧ a.placed = false) ∧
    (let a := { act 4 (desc [(0, 1), (4, 5), (6, 0xFFFF)]) .dispatcher with wait := .waiting }
     (heads (held a) .dispatcher).find? (fun a => a.wait == .waiting) = some a ∧ dWait a.raw = some 5 ∧ flagHome (held a) 5 ≠ 9 ∧
     (held a).sync.msgs = [] ∧ flagOf (held a) 5 = false ∧ dFlag a.raw 3 = false ∧
     flagOf { held a with sync := { Sync.empty with flags := [(5, true)] } } 5 = true) ∧
    (let a := act 4 (desc [(0, 1)]) .dispatcher
     (heads (held a) .dispatcher).find? waitOver = some a) ∧
    (∀ op ∈ [7, 8, 9, 10],
      let a := act 4 (desc [(0, op), (16, if op = 10 then 3 else 5), (24, 2 ^ 20)]) .sync
      (heads (held a) .sync).find? waitOver = some a ∧ dOp a.raw = op ∧ flagHome (held a) (dfield a.raw 16 2) ≠ 9 ∧ bit a.raw 144 = false ∧
      flagOf (held a) (dfield a.raw 16 2) = false ∧ (held a).sync.msgs = [] ∧ freeKiteFor (held a) 9 = some 0 ∧
      nappersOf (held a) (bits a.raw 128 10) = []) ∧
    (let a := act 4 (desc [(0, 14)]) .meter
     (heads (held a) .meter).find? waitOver = some a) ∧
    (∀ x ∈ [Executor.dispatcher, .sync],
      let a := { act 4 (desc [(0, 1)]) x with started := some 0, answered := true }
      let s := held a
      s.active.find? (fun b => b.toFinish.contains x && b.started.isSome && (x != .sync || b.answered)) = some a ∧
      activeOf s 4 = some a ∧ a.toFinish = [x] ∧ a.toEnter = []) ∧
    (let a := { act 4 (desc [(0, 1), (4, 5)]) .dispatcher with wait := .registered 0 }
     activeOf (held a) 4 = some a ∧ a.wait = .registered 0 ∧ a.toFinish = [.dispatcher] ∧ a.toEnter = []) := by
  decide +kernel

/-- A BU_RUN or a PRESS_RUN at the head of its queue. -/
def unitQueued (st : UnitState) : State :=
  { modUnit live 0x143 (fun b => { b with st := st, proc := { b.proc with queue := [4] } }) with active := [act 4 (desc [(0, 2)]) (.unit 0x143)] }
/-- A descriptor at the head of a queue of the M-die. -/
def headed4 (op : Nat) (x : Executor) (more : List (Nat × Nat)) (s : State) : State :=
  setQueue { s with active := [act 4 (desc ((0, op) :: more)) x] } x [4]

theorem test_meets_DescriptorsLive_starts :
    (∀ st ∈ [UnitState.idle, .asleep], runReady (unitQueued st) (.unit 0x143) = some (act 4 (desc [(0, 2)]) (.unit 0x143)) ∧
      (unitOf (unitQueued st) 0x143).startReq = false ∧ (unitOf (unitQueued st) 0x143).st = st ∧ (unitOf (unitQueued st) 0x143).wakeReq = false) ∧
    runReady live (.unit 0x143) = none ∧
    (runReady (queued 5) e2 = some (act 4 (desc [(0, 5)]) (.press 2)) ∧ ((procOf (queued 5) e2).cask (runCask (desc [(0, 5)]))).incomplete = false) ∧
    (let s := headed4 4 (.decant 1) [] live
     (heads s (.decant 1)).find? waitOver = some (act 4 (desc [(0, 4)]) (.decant 1)) ∧ partHalted s (.decant 1) = false ∧
     domainOn s (.decant 1) = true ∧ (decantOf s 1).job = none) ∧
    (let s := headed4 12 .scrubber [] live
     (heads s .scrubber).find? waitOver = some (act 4 (desc [(0, 12)]) .scrubber) ∧ partHalted s .scrubber = false ∧ domainOn s .scrubber = true ∧
     s.scrub = none ∧ (∀ k < 8, (thmOf s k).halted = false)) ∧
    (let a := act 4 (desc [(0, 13)]) .net
     let s := headed4 13 .net [] live
     (heads s .net).find? waitOver = some a ∧ domainOn s .net = true ∧ reachable s 0 = false ∧
     activeOf s 4 = some a ∧ a.low = none ∧ a.failed = 0 ∧ a.multi = false) := by
  decide +kernel

/-- The last part of a BU_RUN that has ended, of a PRESS_RUN, of a copy with nothing to copy, and of a NET_SEND. -/
theorem test_meets_DescriptorsLive_ends :
    ∀ rep ∈ [none, some (true, List.replicate 20 1), some (false, List.replicate 20 1)],
    let e : Ending := { status := .ok, detail := 0, ck := 0, time := 0, report := rep, order := none, wait := none }
    let k := { task with id := 4, ten := 9 }
    (let s := { modProc live u (fun p => { p with task := some k, ended := some e }) with ck := 1, active := [act 4 (desc [(0, 2), (4, 0xFFFF), (6, 0xFFFF)]) (.unit 0x143)] }
     (procOf s u).task = some k ∧ (procOf s u).ended = some e ∧ e.ck ≠ s.ck ∧ activeOf s 4 = some (act 4 (desc [(0, 2), (4, 0xFFFF), (6, 0xFFFF)]) (.unit 0x143)) ∧
     (unitOf s 0x143).wq = [] ∧ s.sync.arrivals = [] ∧ canPlace s 9 = true ∧ (ringOf s 9 cq).enabled = true ∧ (tenOf s 9).staging = [] ∧
     (tenOf s 9).held = [] ∧ reservations s 9 < cqFree s 9 ∧ dSignal (desc [(0, 2), (4, 0xFFFF), (6, 0xFFFF)]) = none ∧
     (∃ q ∈ ({ s with sync := { Sync.empty with arrivals := [arr3 0x143] } } : State).sync.arrivals, q.2 = 0x143)) ∧
    (let s := { modProc live e2 (fun p => { p with task := some k, ended := some e }) with ck := 1, active := [act 4 (desc [(0, 5), (4, 0xFFFF), (6, 0xFFFF)]) (.press 2)] }
     (procOf s e2).task = some k ∧ (procOf s e2).ended = some e ∧ activeOf s 4 = some (act 4 (desc [(0, 5), (4, 0xFFFF), (6, 0xFFFF)]) (.press 2)) ∧
     (pressOf s 2).hostPending = 0 ∧ (pressOf (modPress s 2 (fun q => { q with hostPending := 1 })) 2).hostPending ≠ 0) ∧
    (let a := act 4 (desc [(0, 4)]) (.decant 1)
     let j : CopyJob := { id := 4, next := 1, bytes := 0, saved := [] }
     let s := setDecant { live with active := [a] } 1 { queue := [], job := some j, ended := none }
     (decantOf s 1).job = some j ∧ (decantOf s 1).ended = none ∧ activeOf s 4 = some a ∧ (copyOf a.raw).steps s ≤ j.next) ∧
    (let a := act 4 (desc [(0, 13)]) .net
     let s := { live with active := [a], net := { live.net with sends := [⟨4, 1, false, 0, some .ok⟩] } }
     s.net.sends.find? (fun j => j.done.isSome) = some ⟨4, 1, false, 0, some .ok⟩ ∧ activeOf s 4 = some a) := by
  decide +kernel

/-- A record on its way to host memory. -/
def hw (k : HwKind) : HostWrite := { id := 2, ten := 9, kind := k, addr := 0, bytes := List.replicate 16 0, poison := [], at_ := 0 }

theorem test_meets_RecordsReachHost :
    (∀ irq ∈ [none, some 3],
      let s := { live with hostWrites := [hw (.completion irq)] }
      s.hostWrites.find? (fun v => v.id == 2) = some (hw (.completion irq)) ∧ inOrder s (hw (.completion irq)) = true ∧
      (ringOf s 9 cq).enabled = true) ∧
    inHoldoff live 9 (mget VecState.empty (tenOf live 9).vecs 3) = false ∧
    (let s := setReg (modTen live 9 (fun x => { x with vecs := [(3, ⟨some 0, true⟩)] })) (tenReg 9 0x20) 50
     inHoldoff s 9 (mget VecState.empty (tenOf s 9).vecs 3) = true ∧ (mget VecState.empty (tenOf s 9).vecs 3).held = true ∧
     (mget VecState.empty (tenOf s 9).vecs 3).last = some 0) ∧
    (ringOf (setRing live 9 4 Ring.empty) 9 cq).enabled = false ∧
    ({ live with hostWrites := [hw (.event none)] } : State).hostWrites.find? (fun v => v.id == 2) = some (hw (.event none)) ∧
    (let s := modTen live 9 (fun x => { x with staging := [⟨7, .ok, true, true, .ring 0, 0, 0, false⟩] })
     (tenOf s 9).staging = [⟨7, .ok, true, true, .ring 0, 0, 0, false⟩] ∧ 0 < cqFree s 9 ∧ (∀ q ∈ s.tens, q.2.held = []) ∧
     cqFree (setRing s 9 4 { Ring.empty with enabled := true, tail := 63 }) 9 = 0) ∧
    live.elapsed ≤ (hw (.completion none)).at_ + 10 * Config.ms ∧
    ({ live with elapsed := 10 * Config.ms + 1 } : State).elapsed > (hw (.completion none)).at_ + 10 * Config.ms ∧
    (let s := { modProc live e2 (fun p => { p with task := some task }) with hostWrites := [hw (.window 2 task.id)] }
     s.hostWrites.find? (fun v => v.id == 2) = some (hw (.window 2 task.id)) ∧ (procOf s e2).task = some task ∧ (procOf s e2).ended = none) := by
  decide +kernel

/-! Pods: the module is member 0, which manages, or member 1; the other of the two is its peer. -/

/-- The module as member `me` with the other as a peer. -/
def podded (me : Nat) (p : PodState) (g : Peer → Peer := id) (b : State → State := id) : State :=
  let m := 1 - me
  let s := setReg (setReg (setReg (b live) 0xC00000 (BitVec.ofNat 64 (256 * me + 1))) (0xC01000 + 0x20 * m) (BitVec.ofNat 64 (1000 + m)))
    (0xC01010 + 0x20 * m) (2#64 ^ 49)
  { s with net := { s.net with
      pod := p, link := [(0, true), (1, true)]
      peers := [(m, g { Peer.unknown with member := true, incarn := 5, nextSeq := 1, expect := 1 })] } }

/-- A frame of the peer to member `me`. -/
def fr (me typ param seq : Nat) (payload : List Byte) : Frame :=
  { frame0 with
    type := typ, ip0 := BitVec.ofNat 64 (1001 - me), src := BitVec.ofNat 6 (1 - me), dst := BitVec.ofNat 6 me, incarnation := 5, tenancy := 9
    param := BitVec.ofNat 64 param, seq := BitVec.ofNat 32 seq, payload := payload, length := payload.length }

/-- The payload of an ANNOUNCE: the incarnations of the 64 members. -/
def incarnations : List Byte := List.replicate 256 0

theorem test_meets_MembershipFrames :
    (let s := podded 0 .managing (fun p => { p with member := false }) (fun s => setReg s 0xC00018 2)
     frameFrom s (fr 0 2 1 0 []) 1 ∧ malformed s (fr 0 2 1 0 []) = false ∧ allowed s 1 (fr 0 2 1 0 []) = true ∧ frameOp (fr 0 2 1 0 []) = 1 ∧
     rxQuiet s 1 ∧ isManager s = true ∧ bit (reg s 0xC00018) 1 = true ∧ (peerOf s 1).member = false ∧ logRoom s) ∧
    (∀ op ∈ [2, 3], frameFrom (podded 1 .joining) (fr 1 2 op 0 []) 0 ∧ malformed (podded 1 .joining) (fr 1 2 op 0 []) = false ∧
      rxQuiet (podded 1 .joining) 0 ∧ ofIncarnation (podded 1 .joining) (fr 1 2 op 0 []) 0 ∧
      allowed (podded 1 .joining) 0 (fr 1 2 op 0 []) = true ∧ frameOp (fr 1 2 op 0 []) = op) := by
  unfold frameFrom logRoom rxQuiet ofIncarnation
  decide +kernel

/-- Announcements of member 5, a leaving member, and a report. -/
theorem test_meets_MembershipFrames_members :
    (∀ q ∈ [(4 + 5 * 2 ^ 8 + 2 ^ 16, incarnations), (4 + 0 * 2 ^ 8, incarnations), (5, [])], frameFrom (podded 1 .member) (fr 1 2 q.1 0 q.2) 0 ∧
      malformed (podded 1 .member) (fr 1 2 q.1 0 q.2) = false ∧ inPod (podded 1 .member) 0 = true ∧ allowed (podded 1 .member) 0 (fr 1 2 q.1 0 q.2) = true ∧
      nothingAcked (peerOf (podded 1 .member) 0) (fr 1 2 q.1 0 q.2) ∧ rxQuiet (podded 1 .member) 0) ∧
    bit (fr 1 2 (4 + 5 * 2 ^ 8 + 2 ^ 16) 0 []).param 16 = true ∧ (peerOf (podded 1 .member) 5).member = false ∧
    joinSubject (fr 1 2 (4 + 5 * 2 ^ 8 + 2 ^ 16) 0 []) % 64 ≠ selfMember (podded 1 .member) ∧
    (∀ op ∈ [5, 7], frameFrom (podded 0 .managing) (fr 0 2 op 0 []) 1 ∧ inPod (podded 0 .managing) 1 = true ∧
      allowed (podded 0 .managing) 1 (fr 0 2 op 0 []) = true ∧ rxQuiet (podded 0 .managing) 1 ∧
      malformed (podded 0 .managing) (fr 0 2 op 0 []) = false ∧ isManager (podded 0 .managing) = true) := by
  unfold frameFrom nothingAcked rxQuiet
  decide +kernel

/-- A REQUEST of a member's old incarnation that comes late. -/
theorem test_meets_MembershipFrames_late :
    let s := podded 0 .managing (fun p => { p with incarn := 6, oldIncarn := some 5 })
    let f := fr 0 2 1 0 []
    frameFrom s f 1 ∧ malformed s f = false ∧ allowed s 1 f = true ∧ rxQuiet s 1 ∧ frameOp f = 1 ∧ (peerOf s 1).oldIncarn = some f.incarnation ∧
    f.incarnation ≠ (peerOf s 1).incarn ∧ (peerOf (podded 0 .managing) 1).oldIncarn = none := by
  unfold frameFrom rxQuiet
  decide +kernel

theorem test_meets_MembershipFrames_readmit :
    let s := podded 1 .member id (fun s => { s with net := { s.net with pod := .member } })
    let s := modPeer s 5 (fun p => { p with quarantined := true })
    let f := fr 1 2 (6 + 5 * 2 ^ 8) 0 []
    frameFrom s f 0 ∧ malformed s f = false ∧ allowed s 0 f = true ∧ rxQuiet s 0 ∧ ofIncarnation s f 0 ∧
    (peerOf s (joinSubject f % 64)).quarantined = true := by
  unfold frameFrom rxQuiet ofIncarnation
  decide +kernel

/-- A TIME frame's two stamps. -/
def stamps (a b : Nat) : List Byte := leBytes 8 a ++ leBytes 8 b ++ leBytes 16 0

theorem test_meets_TimeFrames :
    (∀ op ∈ [1, 3, 4], frameOfMember (podded 1 .member) (fr 1 3 op 0 (stamps 100 0)) 0 ∧ frameOp (fr 1 3 op 0 (stamps 100 0)) = op) ∧
    (let s := { podded 1 .member with net := { (podded 1 .member).net with syncT1 := some (100, 40000, 40010) } }
     frameOfMember s (fr 1 3 3 0 (stamps 200 40010)) 0 ∧ timeEcho (fr 1 3 3 0 (stamps 200 40010)) = 40010 ∧
     exchangeOffset 100 40000 40010 200 > 16000 ∧ linkUp s (pairPort s 0) = true ∧ peerValid s 0 = true) ∧
    exchangeOffset 100 20 30 200 < 16000 ∧ exchangeOffset 40000 100 110 40200 < -16000 ∧
    (podded 1 .member).time < timeStamp (fr 1 3 4 0 (stamps 100 0)) ∧ timeStamp (fr 1 3 4 0 (stamps 0 0)) ≤ (podded 1 .member).time ∧
    logRoom (podded 1 .member) ∧ isManager (podded 1 .member) = false := by
  unfold frameOfMember frameFrom logRoom nothingAcked
  decide +kernel

theorem test_meets_TimeFrames_manager :
    rxQuiet (podded 1 .member) 0 ∧ noPause (podded 1 .member) ∧ rxQuiet (podded 0 .managing) 1 ∧ noPause (podded 0 .managing) ∧
    (frameOfMember (podded 0 .managing) (fr 0 3 2 0 (stamps 0 0)) 1 ∧ linkUp (podded 0 .managing) (pairPort (podded 0 .managing) 1) = true ∧
      peerValid (podded 0 .managing) 1 = true) ∧
    frameOfMember (podded 0 .managing) (fr 0 3 4 0 (stamps 0 20000)) 1 ∧ isManager (podded 0 .managing) = true := by
  unfold frameOfMember frameFrom nothingAcked rxQuiet noPause
  decide +kernel

/-- A region request in region 5: 32 bytes at bank 3, offset 0. -/
def readReq : List Byte := leBytes 18 (5 * 2 ^ 8 + 3 * 2 ^ 98 + 32 * 2 ^ 112)
/-- Press engine 2 of tenancy 9 with channel 1 of one slot, some of its slots filled. -/
def channel (landed : List Landed) (s : State) : State :=
  modPress s 2 (fun q => { q with chans := [(1, { Chan.empty with configured := true, base := 0x10, size := 2, count := 1, landed := landed })] })

theorem test_meets_DataFrames :
    ∀ f ∈ [fr 1 1 0 1 [], fr 1 4 (5 + 3 * 2 ^ 42) 1 (List.replicate 32 7), fr 1 4 (4 + 3 * 2 ^ 42) 1 (List.replicate 32 7), fr 1 5 0 1 readReq],
      frameInTurn (podded 1 .member) f 0 ∧ noPause (podded 1 .member) := by
  unfold frameInTurn frameOfMember frameFrom nothingAcked rxQuiet noPause
  decide +kernel

/-- A WRITE that lands, one that is refused, and a READ. -/
theorem test_meets_DataFrames_accesses :
    (let f := fr 1 4 (5 + 3 * 2 ^ 42) 1 (List.replicate 32 7)
     f.first = true ∧
     accessNak (podded 1 .member) f.tenancy.toNat (bits f.param 0 6) (bits f.param 42 12) (bits f.param 8 34 * 32) f.payload.length = none ∧
     (regionWrite (frameTaken (podded 1 .member) 0 f) (peerReader 0 f) (bits f.param 0 6) (bits f.param 42 12 : Nat) (bits f.param 8 34 * 32 : Nat)
       (framePayload f)).1 = none) ∧
    (let f := { fr 1 4 (5 + 3 * 2 ^ 42) 1 (List.replicate 32 7) with first := false }
     extOk (regionOf (podded 1 .member) (bits f.param 0 6)) (spanExt (bits f.param 42 12) (bits f.param 8 34 * 32) f.payload.length) = true ∧
     extOk (regionOf (podded 1 .member) 4) (spanExt (bits f.param 42 12) (bits f.param 8 34 * 32) f.payload.length) = false) ∧
    (let f := fr 1 4 (4 + 3 * 2 ^ 42) 1 (List.replicate 32 7)
     accessNak (podded 1 .member) f.tenancy.toNat (bits f.param 0 6) (bits f.param 42 12) (bits f.param 8 34 * 32) f.payload.length ≠ none) ∧
    (let f := fr 1 5 0 1 readReq
     let v := leNat (f.payload.take 18)
     v / 2 ^ 112 % 2 ^ 32 = 32 ∧
     accessNak (podded 1 .member) f.tenancy.toNat (v / 2 ^ 8 % 64) (v / 2 ^ 64 % 2 ^ 46 / 2 ^ 34) (v / 2 ^ 64 % 2 ^ 46 % 2 ^ 34 * 32) 32 = none ∧
     (regionRead (frameTaken (podded 1 .member) 0 f) (peerReader 0 f) (v / 2 ^ 8 % 64) (v / 2 ^ 64 % 2 ^ 46 / 2 ^ 34 : Nat)
       (v / 2 ^ 64 % 2 ^ 46 % 2 ^ 34 * 32 : Nat) 32).1 = .ok (List.replicate 32 (0, false))) := by
  unfold frameTaken
  decide +kernel

/-- WRITE frames that continue a checked message, to its region and beyond it, one that continues none, and a REPLY to a READ of 64 bytes. -/
theorem test_meets_DataFrames_messages :
    (let f := { fr 1 4 (5 + 3 * 2 ^ 42) 1 (List.replicate 32 7) with first := false }
     let s := podded 1 .member (fun p => { p with rx := { RxMsg.idle with write := some (9, 5) } })
     frameInTurn s f 0 ∧ (peerOf s 0).rx.drop = false ∧ (peerOf s 0).rx.write = some (f.tenancy.toNat, bits f.param 0 6) ∧ f.reply = false ∧
     extOk (regionOf s (bits f.param 0 6)) (spanExt (bits f.param 42 12) (bits f.param 8 34 * 32) f.payload.length) = true ∧
     (peerOf (podded 1 .member) 0).rx.write = none ∧
     accessNak s f.tenancy.toNat (bits f.param 0 6) (bits f.param 42 12) (bits f.param 8 34 * 32) f.payload.length = none ∧
     (regionWrite (frameTaken s 0 f) (peerReader 0 f) (bits f.param 0 6) (bits f.param 42 12 : Nat) (bits f.param 8 34 * 32 : Nat) (framePayload f)).1 = none) ∧
    (let f := { fr 1 4 (5 + 3 * 2 ^ 42) 1 (List.replicate 32 7) with reply := true }
     let a := act 6 (desc [(0, 13), (28, 64)]) .net
     let s := podded 1 .member id (fun s => { s with active := [a], net := { s.net with sends := [⟨6, 0, true, 0, none⟩] } })
     frameInTurn s f 0 ∧ f.reply = true ∧ readJob s 0 = some ⟨6, 0, true, 0, none⟩ ∧ activeOf s 6 = some a) := by
  unfold frameInTurn frameOfMember frameFrom nothingAcked rxQuiet frameTaken
  decide +kernel

/-- A PARTIAL's second frame of two, and its second of three. -/
theorem test_meets_DataFrames_continued :
    ∀ last ∈ [true, false],
      let g : PartialMsg := ⟨0, 2, 1, 0x3003, 7, 9, true, 32, 1, false, if last then 64 else 96⟩
      let s := podded 1 .member (fun p => { p with rx := { RxMsg.idle with gather := some g } }) (channel [])
      let f := { fr 1 9 (2 + 1 * 2 ^ 4 + 1 * 2 ^ 8 + (if last then 2 else 3) * 2 ^ 24) 1 (List.replicate 32 7) with first := false, last := last }
      frameInTurn s f 0 ∧ (peerOf s 0).rx.drop = false ∧ (peerOf s 0).rx.gather = some g ∧ (tenOf s f.tenancy.toNat).enabled = true ∧
      mget none s.pressOwner g.engine = some f.tenancy.toNat ∧ g.engine = bits f.param 0 3 ∧ g.chan = bits f.param 4 4 ∧ g.ten = f.tenancy.toNat ∧
      g.len = bits f.param 24 16 * 32 ∧ g.got = bits f.param 8 16 * 32 ∧ g.got + f.payload.length ≤ g.len ∧
      (last = true → g.got + f.payload.length = g.len) := by
  unfold frameInTurn frameOfMember frameFrom nothingAcked rxQuiet
  decide +kernel

/-- A PARTIAL for a channel with a slot free, and for one without. -/
theorem test_meets_DataFrames_partial :
    ∀ ls ∈ [[], [landed 0]],
      let s := podded 1 .member id (channel ls)
      let f := fr 1 9 (2 + 1 * 2 ^ 4 + 1 * 2 ^ 24) 1 (List.replicate 32 7)
      frameInTurn s f 0 ∧ f.first = true ∧ f.last = true ∧ (tenOf s 9).enabled = true ∧ mget none s.pressOwner (bits f.param 0 3) = some 9 ∧
      bits f.param 8 16 = 0 ∧ bits f.param 24 16 * 32 = f.payload.length ∧
      f.payload.length + 32 ≤ 32 * (chanOf s (bits f.param 0 3) (bits f.param 4 4)).size ∧
      (pressOf s (bits f.param 0 3)).input = [] ∧ (∀ q ∈ s.net.peers, q.2.rx.gather = none) ∧
      chanFree s (bits f.param 0 3) (bits f.param 4 4) = ls.isEmpty := by
  unfold frameInTurn frameOfMember frameFrom nothingAcked rxQuiet
  decide +kernel

/-- A frame sent and not yet acknowledged, of a transfer or of none. -/
def tx (seq : Nat) (send : Option Nat) : TxFrame :=
  { type := 4, dst := 0, seq := seq, tag := 7, ten := 9, first := true, last := true, reply := false, retx := false, param := 0, payload := [],
    poison := [], send := send, press := none, incarnation := 0, ackno := 0, ackV := false }

theorem test_meets_DataFrames_acks :
    (let s := podded 1 .member (fun p => { p with unacked := [tx 1 none, tx 2 none], nextSeq := 3 })
     let f := { fr 1 10 0 0 [] with ackV := true, ackno := 2 }
     frameFrom s f 0 ∧ inPod s 0 = true ∧ malformed s f = false ∧ ackInRange (peerOf s 0) f.ackno.toNat = true ∧ (peerOf s 0).backlog = [] ∧
     (peerOf s 0).waitRx = [] ∧ s.net.leaving = none) ∧
    (let a := act 6 (desc [(0, 13)]) .net
     let s := podded 1 .member (fun p => { p with unacked := [tx 1 (some 6)], nextSeq := 2, timerAt := some 0 })
       (fun s => { s with active := [a], net := { s.net with sends := [⟨6, 0, false, 0, none⟩] } })
     (∀ r ∈ [0x0B, 0x05], frameFrom s (fr 1 11 (1 + r * 2 ^ 32) 0 []) 0 ∧ malformed s (fr 1 11 (1 + r * 2 ^ 32) 0 []) = false ∧
       (peerOf s 0).unacked.find? (fun g => g.seq == bits (fr 1 11 (1 + r * 2 ^ 32) 0 []).param 0 32) = some (tx 1 (some 6))) ∧
     (nakStatus 0x05).isSome = true ∧ s.net.sends.find? (fun j => j.id == 6 && j.done.isNone) = some ⟨6, 0, false, 0, none⟩ ∧
     activeOf s 6 = some a) ∧
    (∀ t ∈ [0, 12], frameFrom (podded 1 .member) (fr 1 t 0 0 []) 0 ∧ (peerOf (podded 1 .member) 0).vStart = none ∧
      ofIncarnation (podded 1 .member) (fr 1 t 0 0 []) 0) ∧
    hasNet (podded 1 .member) = true := by
  unfold frameFrom ofIncarnation
  decide +kernel

/-- The operations of a member on a flag that the manager holds. -/
theorem test_meets_FlagFrames :
    (∀ op ∈ [1, 2, 3, 4, 5, 6], frameInTurn (podded 0 .managing) (fr 0 6 (5 + op * 2 ^ 16 + 7 * 2 ^ 32) 1 []) 1) ∧
    (∀ op ∈ [1, 2, 3, 4, 5, 6], ffOp (fr 0 6 (5 + op * 2 ^ 16 + 7 * 2 ^ 32) 1 []) = op) ∧
    (tenOf (podded 0 .managing) 9).enabled = true ∧ ownsFlag (podded 0 .managing) 9 5 = true ∧ flagHome (podded 0 .managing) 5 ≠ 9 ∧
    (podded 0 .managing).sync.watches = [] ∧ flagOf (podded 0 .managing) 5 = false ∧ freeKiteFor (podded 0 .managing) 9 = some 0 := by
  unfold frameInTurn frameOfMember frameFrom nothingAcked rxQuiet
  refine ⟨?_, ?_⟩ <;> decide +kernel

/-- A FIRE of a tenancy that does not exist, one for a waiter of another tenancy, and a RELEASE of a barrier of another. -/
theorem test_meets_FlagFrames_refused :
    (∀ v ∈ [12, 9],
      let s := podded 1 .member id (fun s => { s with net := { s.net with remote := [⟨7, 5, .desc 4, true, false, false, false⟩] } })
      let f := { fr 1 6 (5 + 7 * 2 ^ 16 + 7 * 2 ^ 32) 1 [] with tenancy := v }
      frameInTurn s f 0 ∧ ffOp f = 7 ∧ (peerOf s 0).vStart = none ∧
      ((tenOf s f.tenancy.toNat).enabled = false ∨
        ∃ q ∈ s.net.remote, q.waiter = ffWaiter f ∧ q.watch = true ∧ replyTen s q.reply ≠ some f.tenancy.toNat)) ∧
    (∀ v ∈ [12, 9],
      let s := { podded 1 .member with barOwner := [(3, some 12)] }
      let f := { fr 1 8 3 1 [] with tenancy := v }
      frameInTurn s f 0 ∧ isManager s = false ∧ (peerOf s 0).vStart = none ∧
      ((tenOf s f.tenancy.toNat).enabled = false ∨ mget none s.barOwner (bfBar f) ≠ some f.tenancy.toNat)) := by
  unfold frameInTurn frameOfMember frameFrom nothingAcked rxQuiet
  refine ⟨?_, ?_⟩ <;> decide +kernel

/-- A FIRE for a waiting descriptor, and a RESULT for a waiting core. -/
theorem test_meets_FlagFrames_answers :
    ∀ e ∈ [(7, (⟨7, 5, .desc 4, true, false, false, false⟩ : RemoteWait)), (8, ⟨7, 5, .core u, false, false, false, false⟩)],
      let s := podded 1 .member id (fun s => { modProc s u (fun p => { p with task := some task, nap := some ⟨.test 5 false 3, false, 0, none⟩ }) with
        net := { s.net with remote := [e.2] }, active := [act 4 (desc [(0, 1)]) .dispatcher] })
      frameInTurn s (fr 1 6 (5 + e.1 * 2 ^ 16 + 7 * 2 ^ 32) 1 []) 0 ∧ s.net.remote = [e.2] ∧
      e.2.waiter = ffWaiter (fr 1 6 (5 + e.1 * 2 ^ 16 + 7 * 2 ^ 32) 1 []) ∧ (tenOf s 9).enabled = true ∧ replyTen s e.2.reply = some 9 ∧ (procOf s u).nap = some ⟨.test 5 false 3, false, 0, none⟩ := by
  unfold frameInTurn frameOfMember frameFrom nothingAcked rxQuiet
  decide +kernel

theorem test_meets_FlagFrames_barriers :
    (let b : Barrier := { Barrier.empty with st := .active, ten := 9, flag := 6, members := 7 }
     let s := podded 0 .managing id (fun s => { s with sync := { Sync.empty with barriers := [(3, b)] } })
     let f := fr 0 7 3 1 (leBytes 8 7)
     frameInTurn s f 1 ∧ (tenOf s f.tenancy.toNat).enabled = true ∧ mget none s.barOwner (bfBar f) = some 9 ∧ (barOf s 3).st = .active ∧
     (barOf s 3).members ≠ 0 ∧ (barOf s 3).members.toNat = leNat (f.payload.take 8) ∧
     bit (barOf s 3).members 1 = true ∧ (barOf s 3).podCount ||| (1#64 <<< 1) ≠ (barOf s 3).members) ∧
    (let b : Barrier := { Barrier.empty with st := .active, ten := 9, flag := 6, members := 7 }
     let s := podded 1 .member id (fun s => { s with sync := { Sync.empty with barriers := [(3, b)] } })
     (∀ q ∈ [3, 3 + 2 ^ 11], frameInTurn s (fr 1 8 q 1 []) 0) ∧ (tenOf s 9).enabled = true ∧ mget none s.barOwner 3 = some 9 ∧ isManager s = false ∧ bit (fr 1 8 3 1 []).param 10 = (barOf s 3).vintage ∧
     s.sync.msgs = [] ∧ s.sync.watches = [] ∧ flagHome s 6 ≠ 9 ∧ nappersOf s 3 = []) := by
  unfold frameInTurn frameOfMember frameFrom nothingAcked rxQuiet
  refine ⟨?_, ?_⟩ <;> decide +kernel

/-- A PARTIAL held at its first frame, of one frame and of two, its channel with a slot free or without; pairs that can send. -/
theorem test_meets_NetTimers_held :
    (∀ last ∈ [true, false], ∀ ls ∈ [[], [landed 0]],
      let g : PartialMsg := ⟨0, 2, 1, 0, 7, 9, false, 0, 0, false, if last then 32 else 64⟩
      let f := { fr 1 9 0 1 (List.replicate 32 7) with last := last }
      let s := podded 1 .member (fun p => { p with heldRx := some f, busyAt := some 0, rx := { p.rx with gather := some g } })
        (fun s => modPress s 2 (fun q => { q with chans := [(1, { Chan.empty with configured := true, base := 0x10, size := 3, count := 1, landed := ls })] }))
      (peerOf s 0).heldRx = some f ∧ (peerOf s 0).busyAt = some 0 ∧ (peerOf s 0).rx.gather = some g ∧ mget none s.pressOwner 2 = some g.ten ∧
      g.engine < 16 ∧ (peerOf s 0).waitRx = [] ∧ chanFree s 2 1 = ls.isEmpty ∧ (pressOf s 2).input = [] ∧ g.len + 32 ≤ 32 * (chanOf s 2 1).size ∧
      s.net.peers.length = 1 ∧ g.landing = false ∧ clockRuns s = true) ∧
    (clockRuns (podded 1 .member) = true ∧ pairUp (podded 1 .member) 0 ∧ (peerOf (podded 1 .member) 0).backlog = [] ∧
      (peerOf (podded 1 .member) 0).unacked.length < 256 ∧ pairUp (podded 1 .joining) 0 ∧ pairUp (podded 0 .managing) 1 ∧
      (peerOf (podded 0 .managing) 1).member = true) := by
  unfold pairUp
  decide +kernel

theorem test_meets_NetTimers :
    (∀ t ∈ [7, 8], (peerOf (podded 1 .member (fun p => { p with timerAt := some 9, tries := t })) 0).timerAt = some 9 ∧
      (peerOf (podded 1 .member (fun p => { p with timerAt := some 9, tries := t })) 0).tries = t) ∧
    (peerOf (podded 1 .member (fun p => { p with ackDue := some 9, ackCount := 1 })) 0).ackDue.isSome = true ∧
    linkUp (podded 1 .member) (pairPort (podded 1 .member) 0) = true ∧ peerValid (podded 1 .member) 0 = true ∧ inPod (podded 1 .member) 0 = true ∧
    (podded 1 .joining).net.pod = .joining ∧ isManager (podded 0 .managing) = true ∧
    ((podded 1 .member).net.pod = .member ∧ (podded 1 .member).net.lost = false ∧ logRoom (podded 1 .member)) ∧
    (peerOf (podded 1 .member (fun p => { p with violations := 3, vStart := some 0 })) 0).vStart.isSome = true ∧
    hasNet (podded 1 .member) = true ∧ linkUp (podded 1 .member) 1 = true ∧ (domOf (podded 1 .member) 269).st = .on ∧
    (podded 1 .member).clk.coast = false ∧ (peerOf (podded 1 .member) 0).member = true ∧ peerPort (podded 1 .member) 0 = 0 := by
  unfold logRoom
  decide +kernel

theorem test_meets_PodCommands :
    live.boot.linkUp = true ∧ hasNet live = true ∧ bit (reg live 0xC00000) 0 = false ∧ live.net.pod = .alone ∧
    bit (reg (podded 1 .member) 0xC00000) 0 = true ∧ bit (reg (podded 0 .managing) 0xC00000) 0 = true ∧
    ({ live with net := { live.net with leaving := some 0 } } : State).net.leaving.isSome = true ∧ isManager (podded 0 .managing) = true ∧
    (peerOf (podded 0 .managing) 1).member = true ∧ (peerOf (podded 0 .managing) 2).member = false ∧
    (peerOf (podded 0 .managing (fun p => { p with quarantined := true })) 1).quarantined = true := by
  decide +kernel

end Sys2Proof.Tests
end

section
/-! Proofs of the statements of 00_scope.md: what a step never changes (O3). -/

open Sys2Proof Sys2Proof.Safety

namespace Sys2Proof.Machine

/-- A command that neither writes fuses nor heats keeps the queue, the variant, the fuses, the thermal registers and the cap loop's level: each
command's own `exec…_kept` law says so. -/
theorem exec_rest (c : Instr) (s : State) (hsvn : c ≠ .commitSvn) (hkey : ∀ k, c ≠ .revokeKey k) (hcool : mayHeat c = false) :
    restOf (after s (exec c s)) = restOf s := by
  cases c with
  | commitSvn => exact absurd rfl hsvn
  | revokeKey k => exact absurd rfl (hkey k)
  | powerGood | powerLoss | perstAssert | warmReset | moduleResetCold | moduleResetWarm | sensorSample | enforceAtReached | capLoopTick =>
    exact absurd hcool (by simp [mayHeat])
  | _ => simp [exec]

/-- A command that writes no fuse keeps the queue, the variant and the fuses; those that heat have laws of their own. (R398) -/
theorem exec_ident (c : Instr) (s : State) (hsvn : c ≠ .commitSvn) (hkey : ∀ k, c ≠ .revokeKey k) :
    identOf (after s (exec c s)) = identOf s := by
  by_cases hcool : mayHeat c = false
  · exact identOf_of_rest (exec_rest c s hsvn hkey hcool)
  · cases c with
    | powerGood => exact execPowerGood_ident s
    | powerLoss => exact execPowerLoss_ident s
    | perstAssert => exact execPerstAssert_ident s
    | warmReset memClr => exact execWarmReset_ident memClr s
    | moduleResetCold => exact execModuleResetCold_ident s
    | moduleResetWarm => exact execModuleResetWarm_ident s
    | sensorSample readings => exact execSensorSample_ident readings s
    | enforceAtReached stack => exact (execEnforceAtReached_ident stack s).1
    | capLoopTick => exact (execCapLoopTick_ident s).1
    | _ => exact absurd rfl hcool

/-- The fuses are part of what `identOf` holds. -/
theorem fuses_of_ident {s t : State} (h : identOf t = identOf s) : t.fuses = s.fuses := by
  simp only [identOf, restOf, Prod.mk.injEq] at h
  obtain ⟨-, -, hfuses⟩ := h
  exact hfuses

/-- A management command keeps the fuse secret where its own work does. -/
theorem command_secret (s : State) (slot kind : Nat) (go : State → State) (hgo : ∀ t, (go t).fuses.secret = t.fuses.secret) :
    (command s slot kind go).fuses.secret = s.fuses.secret := by
  unfold command
  dsimp only
  split
  · rfl
  · split
    · rfl
    · exact hgo _

/-- A flash or fuse write keeps the fuse secret where what it writes does. -/
theorem inWindow_secret (s : State) (go : State → State) (hgo : (go s).fuses.secret = s.fuses.secret) :
    (inWindow s go).fuses.secret = s.fuses.secret := by
  unfold inWindow
  split
  · exact hgo
  · rfl

/-- COMMIT_SVN writes the SVN alone. (R401) -/
theorem execCommitSvn_secret (s : State) : (after s (execCommitSvn s)).fuses.secret = s.fuses.secret := by
  unfold execCommitSvn
  simp only [after_next]
  refine command_secret s 0 0 _ fun t => ?_
  split
  · rfl
  · exact inWindow_secret _ _ rfl

/-- REVOKE_KEY writes the revocations alone. (R402) -/
theorem execRevokeKey_secret (k : BitVec 3) (s : State) : (after s (execRevokeKey k s)).fuses.secret = s.fuses.secret := by
  unfold execRevokeKey
  simp only [after_next]
  refine command_secret s 0 0 _ fun t => ?_
  split
  · rfl
  · exact inWindow_secret _ _ rfl

/-- No command changes the fuse secret. (R413) -/
theorem exec_secret (c : Instr) (s : State) : (after s (exec c s)).fuses.secret = s.fuses.secret := by
  by_cases hsvn : c = .commitSvn
  · rw [hsvn]; exact execCommitSvn_secret s
  by_cases hkey : ∃ k, c = .revokeKey k
  · obtain ⟨k, rfl⟩ := hkey
    exact execRevokeKey_secret k s
  · exact congrArg Fuses.secret (fuses_of_ident (exec_ident c s hsvn fun k hk => hkey ⟨k, hk⟩))

/-- A bit that is set stays set under an OR. -/
theorem bit_or_left {w : Nat} (a b : BitVec w) (i : Nat) (h : bit a i = true) : bit (a ||| b) i = true := by
  unfold bit at h ⊢
  rw [BitVec.toNat_or, Nat.testBit_or, h, Bool.true_or]

/-- A step takes the front command off the queue; beyond that the fuses only rise, and the secret is kept. -/
theorem step_fuses {s t : State} (h : step s = .next t) :
    fusesRise { s with pending := s.pending.tail } t ∧ t.fuses.secret = s.fuses.secret := by
  unfold step at h
  split at h
  · next hempty =>
    cases h
    have hident := identOf_of_rest (tick_kept s).1
    obtain ⟨-, hfuses⟩ := fusesRise_of_ident hident
    exact ⟨⟨by simp [hempty], hfuses⟩, by rw [fuses_of_ident hident]⟩
  · next c rest hfront =>
    have hrise := exec_fuses c { s with pending := rest }
    have hsecret := exec_secret c { s with pending := rest }
    rw [h, after_next] at hrise hsecret
    rw [hfront]
    exact ⟨hrise, hsecret⟩

end Sys2Proof.Machine

open Sys2Proof.Machine

/-- Settles O3: every command keeps the identity and only raises fuses (`step_fuses`), and so does an idle cycle. -/
theorem stepKeepsIdentity : Obligations.StepKeepsIdentity := by
  intro s t h
  obtain ⟨⟨hpending, hvariant, hkey, hsvn, k, hrevoked⟩, hsecret⟩ := step_fuses h
  refine ⟨hpending, hvariant, hkey, hsecret, BitVec.le_def.1 hsvn, fun i hi => ?_⟩
  rw [hrevoked]
  exact bit_or_left _ _ _ hi

end

section
/-! Proofs of the statements of 00_scope.md: writes to the setup registers (O46). -/

open Sys2Proof Sys2Proof.Safety

namespace Sys2Proof.Machine

/-! Bits of a field. -/

/-- A field as the bits that `bit` reads. -/
theorem testBit_bits {w : Nat} (v : BitVec w) (lo n i : Nat) : (bits v lo n).testBit i = (decide (i < n) && bit v (lo + i)) := by
  rw [bits, Nat.testBit_mod_two_pow, Nat.testBit_div_two_pow, bit, Nat.add_comm]

/-- A merge takes each bit of its mask from the new value. -/
theorem bit_merge (old m v : Word64) (i : Nat) : bit (merge old m v) i = if bit m i then bit v i else bit old i := by
  unfold merge bit
  simp only [BitVec.testBit_toNat]
  cases hm : m.getLsbD i <;> simp [hm]
  exact fun h => BitVec.lt_of_getLsbD h

/-- A field within the mask of a merge is that of the new value. -/
theorem bits_merge_of_mask (old m v : Word64) (lo n : Nat) (h : ∀ i < n, bit m (lo + i) = true) :
    bits (merge old m v) lo n = bits v lo n := by
  refine Nat.eq_of_testBit_eq fun i => ?_
  rw [testBit_bits, testBit_bits, bit_merge]
  by_cases hi : i < n
  · simp [h i hi]
  · simp [hi]

/-- A field of a number that fits 64 bits, cut from the number itself. -/
theorem bits_ofNat (x lo n : Nat) (h : lo + n ≤ 64) : bits (BitVec.ofNat 64 x : Word64) lo n = x / 2 ^ lo % 2 ^ n := by
  refine Nat.eq_of_testBit_eq fun i => ?_
  rw [testBit_bits, Nat.testBit_mod_two_pow, Nat.testBit_div_two_pow, bit, BitVec.toNat_ofNat, Nat.testBit_mod_two_pow, Nat.add_comm i]
  by_cases hi : i < n
  · simp [hi, show lo + i < 64 by omega]
  · simp [hi]

/-- A field that was put in reads as what was put, cut to its width. -/
theorem bits_putBits_self (v : Word64) (lo n x : Nat) (h : lo + n ≤ 64) : bits (putBits v lo n x) lo n = x % 2 ^ n := by
  have hkeep : v.toNat - bits v lo n * 2 ^ lo = v.toNat / 2 ^ lo / 2 ^ n * 2 ^ n * 2 ^ lo + v.toNat % 2 ^ lo := by
    have hq := Nat.div_add_mod (v.toNat / 2 ^ lo) (2 ^ n)
    have hv := Nat.div_add_mod v.toNat (2 ^ lo)
    unfold bits
    rw [Nat.sub_eq_iff_eq_add (by
      calc v.toNat / 2 ^ lo % 2 ^ n * 2 ^ lo ≤ v.toNat / 2 ^ lo * 2 ^ lo := Nat.mul_le_mul_right _ (Nat.mod_le _ _)
        _ ≤ v.toNat := Nat.div_mul_le_self _ _)]
    calc v.toNat = 2 ^ lo * (v.toNat / 2 ^ lo) + v.toNat % 2 ^ lo := hv.symm
      _ = 2 ^ lo * (2 ^ n * (v.toNat / 2 ^ lo / 2 ^ n) + v.toNat / 2 ^ lo % 2 ^ n) + v.toNat % 2 ^ lo := by rw [hq]
      _ = _ := by ring
  rw [putBits, bits_ofNat _ _ _ h, hkeep]
  have hsum : v.toNat / 2 ^ lo / 2 ^ n * 2 ^ n * 2 ^ lo + v.toNat % 2 ^ lo + x % 2 ^ n * 2 ^ lo
      = v.toNat % 2 ^ lo + 2 ^ lo * (x % 2 ^ n + 2 ^ n * (v.toNat / 2 ^ lo / 2 ^ n)) := by ring
  rw [hsum, Nat.add_mul_div_left _ _ (Nat.two_pow_pos lo), Nat.div_eq_of_lt (Nat.mod_lt _ (Nat.two_pow_pos lo)), Nat.zero_add,
    Nat.add_mul_mod_self_left, Nat.mod_mod]

/-! A whole register written. -/

/-- What the host sends takes effect where its link is up. -/
theorem viaHost_up {s : State} (t : State) (h : s.boot.linkUp = true) : viaHost s t = t := by
  rw [viaHost, h, if_pos rfl]

/-- An outcome that the host's link lets through. -/
theorem next_viaHost {s : State} (t : State) (h : s.boot.linkUp = true) :
    (.next (viaHost s t) : Host.Outcome State Fault Refusal) = .next t := by
  rw [viaHost_up t h]

/-- An aligned write of eight bytes writes every bit of one register. -/
theorem execRegisterWrite_whole {off : BitVec 24} {s : State} (v : Word64) (hlink : s.boot.linkUp = true) (halign : off.toNat % 8 = 0) :
    exec (.registerWrite off 8 v) s = .next (barWrite s off.toNat (~~~0) v) := by
  have hmask : barMask off.toNat 8 = some (~~~0) := by simp [barMask, halign]
  have hbase : off.toNat / 8 * 8 = off.toNat := by omega
  have hlow : ¬ off.toNat % 8 = 4 := by omega
  show execRegisterWrite off 8 v s = _
  simp only [execRegisterWrite, hmask, viaHost_up _ hlink, hbase, if_neg hlow]

/-- A write of another size or alignment writes nothing. (R440) -/
theorem execRegisterWrite_misaligned (off : BitVec 24) (size : Nat) (v : Word64) (s : State) (h8 : size ≠ 8 ∨ off.toNat % 8 ≠ 0)
    (h4 : size ≠ 4 ∨ off.toNat % 4 ≠ 0) : exec (.registerWrite off size v) s = .next s := by
  have hmask : barMask off.toNat size = none := by
    unfold barMask
    rw [if_neg (by omega), if_neg (by omega), if_neg (by omega)]
  show execRegisterWrite off size v s = _
  simp only [execRegisterWrite, hmask, viaHost, ite_self]

/-- A whole access names every bit. -/
theorem whole_and (m : Word64) : ~~~(0 : Word64) &&& m = m := BitVec.allOnes_and

/-- Every RW bit of a register written. (R440) -/
theorem storeRw_whole (s : State) {off : Nat} (v : Word64) (hmask : rwMask off ≠ 0) (hoff : off ≠ 0x30000) :
    storeRw s off (~~~0) v = setReg s off (nearest s off (merge (reg s off) (rwMask off) v)) := by
  unfold storeRw
  simp only [whole_and, if_neg hmask, hoff, false_and, if_false]

/-- A register without RW bits keeps its value. -/
theorem storeRw_none (s : State) {off : Nat} (m v : Word64) (hmask : rwMask off = 0) : storeRw s off m v = s := by
  simp [storeRw, hmask]

/-- Every RWL bit of a register written while MEM_ACTIVE is clear. (R8) -/
theorem storeRwl_open {s : State} {off : Nat} (v : Word64) (hmask : rwlMask off ≠ 0) (hopen : s.boot.memActive = false) :
    storeRwl s off (~~~0) v = setReg s off (merge (reg s off) (rwlMask off) v) := by
  unfold storeRwl
  simp only [whole_and, hmask, hopen, if_false, Bool.false_eq_true]

/-- The RWL bits of a register are fixed while MEM_ACTIVE is set; another value is logged. (R8) -/
theorem storeRwl_locked {s : State} {off : Nat} (v : Word64) (hmask : rwlMask off ≠ 0) (hlocked : s.boot.memActive = true) :
    storeRwl s off (~~~0) v =
      if v &&& rwlMask off = reg s off &&& rwlMask off then s else logSetup s 2 0x01 off none v.toNat := by
  unfold storeRwl
  simp only [whole_and, hmask, hlocked, if_false, if_true]

/-- An entry of class 0x03 is never lost. (R427) -/
theorem logSetup_next (s : State) (level num off : Nat) (ten : Option Nat) (value : Nat) :
    (logSetup s level num off ten value).log.next = (s.log.next + 1) % 2 ^ 32 := rfl

/-! The registers whose RW bits have no other effect. -/

/-- Such registers of the module. -/
def plainOffsets : List Nat := [0x20008, 0x20010, 0x20018, 0x30028, 0x40108, 0x40110, 0x40118, 0x100100]

/-- Such registers of a tenancy's block. -/
def plainTenOffsets : List Nat := [0x8, 0x10, 0x18, 0x20, 0x28, 0x30, 0x38, 0x400, 0x408, 0x888, 0x898]

/-- A plain register of the module stores its RW bits. -/
theorem barWrite_plain (s : State) {off : Nat} (m v : Word64) (h : off ∈ plainOffsets) : barWrite s off m v = storeRw s off m v := by
  simp only [plainOffsets, List.mem_cons, List.not_mem_nil, or_false] at h
  rcases h with rfl | rfl | rfl | rfl | rfl | rfl | rfl | rfl <;> rfl

/-- A plain register of a tenancy stores its RW bits. -/
theorem writeTen_plain (s : State) (t : Nat) {o : Nat} (m v : Word64) (h : o ∈ plainTenOffsets) :
    writeTen s t o m v = storeRw s (tenReg t o) m v := by
  simp only [plainTenOffsets, List.mem_cons, List.not_mem_nil, or_false] at h
  rcases h with rfl | rfl | rfl | rfl | rfl | rfl | rfl | rfl | rfl | rfl | rfl <;> rfl

/-- An offset of a tenancy's block is written there. -/
theorem barWrite_tenReg (s : State) {t o : Nat} (m v : Word64) (ht : t < 256) (ho : o < 0x4000) :
    barWrite s (tenReg t o) m v = writeTen s t o m v := by
  have hblock : (tenReg t o - 0x400000) / 0x4000 = t := by unfold tenReg; omega
  have hplace : (tenReg t o - 0x400000) % 0x4000 = o := by unfold tenReg; omega
  have hlow : 0x400000 ≤ tenReg t o := by unfold tenReg; omega
  have hhigh : tenReg t o < 0x800000 := by unfold tenReg; omega
  unfold barWrite
  rw [if_neg (by omega), if_neg (by omega), if_neg (by omega), if_pos hhigh, hblock, hplace]

/-- The RW bits of a tenancy's register are those of its place in the block. -/
theorem rwMask_tenReg {t o : Nat} (ht : t < 256) (ho : o < 0x4000) : rwMask (tenReg t o) = rwMask (tenReg 0 o) := by
  have hplace : ∀ k < 256, 0x400000 ≤ tenReg k o ∧ tenReg k o < 0x800000 ∧ tenReg k o % 0x4000 = o := by
    intro k hk
    unfold tenReg
    omega
  obtain ⟨hlow, hhigh, hmod⟩ := hplace t ht
  obtain ⟨hlow0, hhigh0, hmod0⟩ := hplace 0 (by omega)
  unfold rwMask
  rw [if_pos ⟨hlow, hhigh⟩, if_pos ⟨hlow0, hhigh0⟩, hmod, hmod0]

/-- The registers that only store, in the module and in the blocks of tenancies 0 to 255. -/
def isPlain (off : Nat) : Prop := off ∈ plainOffsets ∨ ∃ k o, k < 256 ∧ o ∈ plainTenOffsets ∧ off = tenReg k o

/-- A write to a plain register stores its RW bits and does nothing else. (R440) -/
theorem barWrite_whole_plain (s : State) {off : Nat} (v : Word64) (h : isPlain off) :
    off % 8 = 0 ∧ barWrite s off (~~~0) v = setReg s off (nearest s off (merge (reg s off) (rwMask off) v)) := by
  rcases h with h | ⟨t, o, ht, ho, rfl⟩
  · have hfacts : off % 8 = 0 ∧ rwMask off ≠ 0 ∧ off ≠ 0x30000 := by
      revert off
      decide
    obtain ⟨halign, hmask, hoff⟩ := hfacts
    exact ⟨halign, by rw [barWrite_plain s _ v h, storeRw_whole s v hmask hoff]⟩
  · have hfacts : o < 0x4000 ∧ o % 8 = 0 ∧ rwMask (tenReg 0 o) ≠ 0 := by
      revert o
      decide
    obtain ⟨hblock, halign, hmask⟩ := hfacts
    have hoff : tenReg t o % 8 = 0 ∧ tenReg t o ≠ 0x30000 := by unfold tenReg; omega
    refine ⟨hoff.1, ?_⟩
    rw [barWrite_tenReg s _ v ht hblock, writeTen_plain s t _ v ho,
      storeRw_whole s v (by rw [rwMask_tenReg ht hblock]; exact hmask) hoff.2]

/-- The RW bits of PWR_CAP_W are its field, which is stored at the nearest value from 200 to 450. (R440, Table 18.3) -/
theorem capW_write (s : State) (v : Word64) :
    capW (setReg s 0x20008 (nearest s 0x20008 (merge (reg s 0x20008) (rwMask 0x20008) v))) = max 200 (min 450 (bits v 0 10)) := by
  have hfield : bits (merge (reg s 0x20008) 0x3FF v) 0 10 = bits v 0 10 := bits_merge_of_mask _ _ _ _ _ (by decide)
  have hcap : max 200 (min 450 (bits v 0 10)) < 2 ^ 10 := by omega
  rw [capW, reg_setReg, if_pos rfl]
  show bits (putBits (merge (reg s 0x20008) 0x3FF v) 0 10 (max 200 (min 450 (bits (merge (reg s 0x20008) 0x3FF v) 0 10)))) 0 10 = _
  rw [bits_putBits_self _ _ _ _ (by omega), hfield, Nat.mod_eq_of_lt hcap]

/-! The registers of RWL bits alone (Table 18.9). -/

/-- Such registers that stand alone. -/
def lockedOffsets : List Nat :=
  [0xC00008, 0xC00030, 0xC00060, 0xC00068, 0xC00080, 0xC00088, 0xC00090, 0xC00098, 0xC000A0, 0xC000A8]

/-- Such registers of a peer entry. -/
def lockedPeerOffsets : List Nat := [0, 8, 0x10]

/-- The registers of RWL bits alone, those of the 64 peer entries among them. -/
def isLocked (off : Nat) : Prop := off ∈ lockedOffsets ∨ ∃ m o, m < 64 ∧ o ∈ lockedPeerOffsets ∧ off = 0xC01000 + 0x20 * m + o

/-- A peer entry's registers hold RWL bits by their place in it, and no RW bits. -/
theorem masks_peer {m o : Nat} (hm : m < 64) (ho : o ∈ lockedPeerOffsets) :
    rwlMask (0xC01000 + 0x20 * m + o) ≠ 0 ∧ rwMask (0xC01000 + 0x20 * m + o) = 0 := by
  have hplace : o < 0x20 ∧ rwlMask (0xC01000 + o) ≠ 0 := by
    revert o
    decide
  have hrwl : rwlMask (0xC01000 + 0x20 * m + o) = rwlMask (0xC01000 + o) := by
    unfold rwlMask
    rw [if_pos (by omega), if_pos (by omega), show (0xC01000 + 0x20 * m + o - 0xC01000) % 0x20 = (0xC01000 + o - 0xC01000) % 0x20 by omega]
  refine ⟨by rw [hrwl]; exact hplace.2, ?_⟩
  unfold rwMask
  rw [if_neg (by omega)]
  split
  case h_17 => rfl
  all_goals omega

/-- A register of RWL bits alone is aligned, holds some and holds no RW bits. -/
theorem masks_locked {off : Nat} (h : isLocked off) : off % 8 = 0 ∧ rwlMask off ≠ 0 ∧ rwMask off = 0 := by
  rcases h with h | ⟨m, o, hm, ho, rfl⟩
  · revert off
    decide
  · have halign : o % 8 = 0 := by
      revert o
      decide
    exact ⟨by omega, masks_peer hm ho⟩

/-- A register of RWL bits alone has no effect of its own. -/
theorem writeNet_locked (s : State) {off : Nat} (m v : Word64) (h : isLocked off) :
    writeNet s off m v = storeRw (storeRwl s off m v) off m v := by
  rcases h with h | ⟨k, o, hk, ho, rfl⟩
  · simp only [lockedOffsets, List.mem_cons, List.not_mem_nil, or_false] at h
    rcases h with rfl | rfl | rfl | rfl | rfl | rfl | rfl | rfl | rfl | rfl <;> rfl
  · have hplace : o < 0x18 := by
      revert o
      decide
    unfold writeNet
    split
    case h_5 => rw [if_neg (by omega)]
    all_goals omega

/-- A whole write to a register of RWL bits alone stores these, where they are not locked. -/
theorem barWrite_locked {s : State} {off : Nat} (v : Word64) (hnet : s.variant = .rl512N) (h : isLocked off) :
    barWrite s off (~~~0) v = storeRwl s off (~~~0) v := by
  have hblock : 0xC00000 ≤ off := by
    rcases h with h | ⟨m, o, hm, ho, rfl⟩
    · revert off
      decide
    · omega
  obtain ⟨-, -, hrw⟩ := masks_locked h
  unfold barWrite
  rw [if_neg (by omega), if_neg (by omega), if_neg (by omega), if_neg (by omega), if_neg (by omega), if_pos hnet, writeNet_locked s _ v h,
    storeRw_none _ _ v hrw]

/-! The clauses of O46. -/

/-- A whole write to a plain register stores its RW bits, its ranged field at the nearest value of its range. (R440) -/
theorem registerWrite_plain {off : BitVec 24} {s : State} (v : Word64) (hlink : s.boot.linkUp = true) (h : isPlain off.toNat) :
    exec (.registerWrite off 8 v) s =
      .next (setReg s off.toNat (nearest s off.toNat (merge (reg s off.toNat) (rwMask off.toNat) v))) := by
  obtain ⟨halign, hwrite⟩ := barWrite_whole_plain s v h
  rw [execRegisterWrite_whole v hlink halign, hwrite]

/-- An RWL register takes a whole write while MEM_ACTIVE is clear. (R8) -/
theorem registerWrite_open {off : BitVec 24} {s : State} (v : Word64) (hlink : s.boot.linkUp = true) (hnet : s.variant = .rl512N)
    (h : isLocked off.toNat) (hopen : s.boot.memActive = false) :
    exec (.registerWrite off 8 v) s = .next (setReg s off.toNat (merge (reg s off.toNat) (rwlMask off.toNat) v)) := by
  obtain ⟨halign, hrwl, -⟩ := masks_locked h
  rw [execRegisterWrite_whole v hlink halign, barWrite_locked v hnet h, storeRwl_open v hrwl hopen]

/-- An RWL register is fixed while MEM_ACTIVE is set, and a write of another value is logged. (R8) -/
theorem registerWrite_locked {off : BitVec 24} {s : State} (v : Word64) (hlink : s.boot.linkUp = true) (hnet : s.variant = .rl512N)
    (h : isLocked off.toNat) (hlocked : s.boot.memActive = true) :
    ∃ t, exec (.registerWrite off 8 v) s = .next t ∧ t.bar = s.bar ∧
      ((v &&& rwlMask off.toNat) ≠ (reg s off.toNat &&& rwlMask off.toNat) → t.log.next = (s.log.next + 1) % 2 ^ 32) := by
  obtain ⟨halign, hrwl, -⟩ := masks_locked h
  refine ⟨_, by rw [execRegisterWrite_whole v hlink halign, barWrite_locked v hnet h, storeRwl_locked v hrwl hlocked], ?_⟩
  split
  · next heq => exact ⟨rfl, fun hne => absurd heq hne⟩
  · exact ⟨rfl, fun _ => logSetup_next ..⟩

/-- The home of each flag after a write of one block's. (R245) -/
theorem flagHome_setReg (s : State) (blk : Nat) (v : BitVec 4) (f : Nat) :
    flagHome (setReg s (0x800000 + 8 * blk) (BitVec.ofNat 64 v.toNat)) f = if f / 256 = blk then v.toNat else flagHome s f := by
  unfold flagHome blockHome
  rw [reg_setReg]
  by_cases hblk : f / 256 = blk
  · have hv : v.toNat < 2 ^ 4 := v.isLt
    rw [if_pos hblk, if_pos (by omega), bits_ofNat _ _ _ (by omega), Nat.pow_zero, Nat.div_one, Nat.mod_eq_of_lt hv]
  · rw [if_neg hblk, if_neg (by omega)]

/-- A block without an owner takes a home that exists. (R245) -/
theorem writeHome_taken {s : State} {blk v : Nat} (hfree : mget none s.blockOwner blk = none) (hv : v ≤ 8 ∨ (v = 9 ∧ s.net.pod = .member)) :
    writeHome s blk v = setReg s (0x800000 + 8 * blk) (BitVec.ofNat 64 v) := by
  rw [writeHome, if_pos ⟨hfree, hv⟩]

/-- Any other write of a home is dropped and logged. (R245) -/
theorem writeHome_dropped {s : State} {blk v : Nat}
    (h : mget none s.blockOwner blk ≠ none ∨ 9 < v ∨ (v = 9 ∧ s.net.pod ≠ .member)) :
    writeHome s blk v = logSetup s 2 0x07 (0x800000 + 8 * blk) none v := by
  rw [writeHome, if_neg]
  rintro ⟨hfree, hv⟩
  rcases h with h | h | ⟨h, hpod⟩
  · exact h hfree
  · omega
  · rcases hv with hv | ⟨-, hmember⟩
    · omega
    · exact hpod hmember

/-- A write of SYN_BLOCK_HOME moves the flags of an unowned block to a home that exists, and is otherwise dropped and logged. (R245) -/
theorem synBlockHomeWrite_homes (blk : BitVec 8) (v : BitVec 4) (s : State) (hlink : s.boot.linkUp = true) :
    (mget none s.blockOwner blk.toNat = none → (v.toNat ≤ 8 ∨ (v.toNat = 9 ∧ s.net.pod = .member)) →
      ∃ t, exec (.synBlockHomeWrite blk v) s = .next t ∧
        ∀ f, f / 256 < 256 → flagHome t f = if f / 256 = blk.toNat then v.toNat else flagHome s f) ∧
    ((mget none s.blockOwner blk.toNat ≠ none ∨ 9 < v.toNat ∨ (v.toNat = 9 ∧ s.net.pod ≠ .member)) →
      ∃ t, exec (.synBlockHomeWrite blk v) s = .next t ∧ t.bar = s.bar ∧ t.log.next = (s.log.next + 1) % 2 ^ 32) := by
  have hexec : exec (.synBlockHomeWrite blk v) s = .next (writeHome s blk.toNat v.toNat) := next_viaHost _ hlink
  refine ⟨fun hfree hv => ⟨_, hexec, fun f _ => ?_⟩, fun h => ⟨_, hexec, ?_, ?_⟩⟩
  · rw [writeHome_taken hfree hv, flagHome_setReg]
  · rw [writeHome_dropped h]; rfl
  · rw [writeHome_dropped h, logSetup_next]

/-! The debug view, kites and the trace. -/

/-- The view of a flag does not hold the selection of the debug view. -/
theorem flagView_setReg_debug (s : State) (v : Word64) {f : Nat} (hf : f < 65536) : flagView (setReg s 0x801000 v) f = flagView s f := by
  have hhome : flagHome (setReg s 0x801000 v) f = flagHome s f := by
    unfold flagHome blockHome
    rw [reg_setReg, if_neg (by omega)]
  unfold flagView
  rw [hhome]
  rfl

/-- A write of SYN_DBG_SELECT clears VALID and takes the record of the flag or the barrier that it names. (R451) -/
theorem synDbgSelect_record (v : Word64) {s : State} (hlink : s.boot.linkUp = true) :
    ∃ t r, exec (.synDbgSelect v) s = .next t ∧ t.sync.dbgView = none ∧ t.sync.dbgPend = some r ∧
      (bits v 0 2 = 0 → r = padTo 128 (flagView s (bits v 16 16))) ∧
      (bits v 0 2 = 1 → bits v 16 16 < 1024 → r = padTo 128 (barrierView s (bits v 16 16))) := by
  refine ⟨writeDebug s v, _, next_viaHost _ hlink, rfl, rfl, fun hkind => ?_, fun hkind hbar => ?_⟩
  · rw [hkind]
    exact congrArg (padTo 128) (flagView_setReg_debug s _ (Nat.mod_lt _ (Nat.two_pow_pos 16)))
  · rw [hkind]
    exact if_pos hbar

/-- A snapshot that is ready becomes the view. (R451) -/
theorem synDbgSnapshotReady_view {s : State} {r : List Byte} (h : s.sync.dbgPend = some r) :
    ∃ t, exec .synDbgSnapshotReady s = .next t ∧ t.sync.dbgView = some r ∧ t.sync.dbgPend = none := by
  refine ⟨{ s with sync := { s.sync with dbgPend := none, dbgView := some r } }, ?_, rfl, rfl⟩
  show execSynDbgSnapshotReady s = _
  rw [execSynDbgSnapshotReady, h]

/-- A freed kite is free, watches no flag, and sends no message. (R255) -/
theorem dropKite_frees {s : State} {k : Nat} {x : Kite} (h : kiteOf s k = some x) :
    kiteOf (dropKite s k) k = none ∧ (∀ w ∈ (dropKite s k).sync.watches, w.kite ≠ some k) ∧ (dropKite s k).hostWrites = s.hostWrites := by
  unfold dropKite
  rw [h]
  refine ⟨mget_mset_self none none s.sync.kites k, fun w hw => ?_, rfl⟩
  simpa using (List.mem_filter.1 hw).2

/-- ENABLE going to 1 empties the buffer and starts capture. (R438) -/
theorem writeTrace_starts {s : State} {v : Word64} (hset : bit v 0 = true) (hwas : bit (reg s 0x40100) 0 = false) :
    (writeTrace s v).trace.running = true ∧ (writeTrace s v).trace.recs = [] := by
  unfold writeTrace
  simp [hset, hwas, Trace.empty]

/-- ENABLE at 0 stops capture and keeps the buffer. (R438) -/
theorem writeTrace_stops (s : State) {v : Word64} (hclear : bit v 0 = false) :
    (writeTrace s v).trace.running = false ∧ (writeTrace s v).trace.recs = s.trace.recs := by
  unfold writeTrace
  simp [hclear]

end Sys2Proof.Machine

open Sys2Proof.Machine

/-- Settles O46: a register write is an access of a mask of bits (`barMask`), of which each register stores its RW bits or, unlocked, its RWL
bits; the other commands are one shared operation each. -/
theorem setupRegisters : Obligations.SetupRegisters := by
  refine ⟨fun off v s hlink h => registerWrite_plain v hlink h, fun v s hlink => ?_,
    fun off size v s => execRegisterWrite_misaligned off size v s, fun off v s hlink hnet h => ?_,
    fun blk v s => synBlockHomeWrite_homes blk v s, fun v s hlink => ?_⟩
  · exact ⟨_, registerWrite_plain v hlink (.inl (by decide)), capW_write s v⟩
  · exact ⟨registerWrite_open v hlink hnet h, registerWrite_locked v hlink hnet h⟩
  · refine ⟨synDbgSelect_record v hlink, fun r => synDbgSnapshotReady_view, fun k x hx => ?_, fun hset hwas => ?_, fun hclear => ?_⟩
    · exact ⟨_, next_viaHost _ hlink, dropKite_frees hx⟩
    · exact ⟨_, next_viaHost _ hlink, writeTrace_starts hset hwas⟩
    · exact ⟨_, next_viaHost _ hlink, writeTrace_stops s hclear⟩

end

section
/-! Proofs of the statements of 00_scope.md: time that passes uncorrected, and the power sample of O42. -/

open Sys2Proof Sys2Proof.Safety

namespace Sys2Proof.Machine

/-- Locked and uncorrected, c ck cycles are c ticks and the whole ticks that the rate correction had gathered before. (R361) -/
theorem ticksIn_uncorrected {s : State} (c : Nat) (hlock : s.clk.coast = false) (hslew : s.net.slew = 0) (hrate : s.net.rate = 0) :
    ticksIn s c = c + s.net.rateAcc / 65536 := by
  have hticks : ckTicks s = 1 := by simp [ckTicks, hlock]
  have hslewed : slewTicks s c = 0 := by simp [slewTicks, hslew]
  have hgain : rateGain s c = s.net.rateAcc := by simp [rateGain, hrate]
  unfold ticksIn
  rw [hticks, hslewed, hgain, hslew, hrate]
  simp only [withSignOf, le_refl, if_true]
  omega

/-- Locked and uncorrected, time passes to a due moment, if that lies ahead, and by the whole ticks gathered before. -/
theorem advanceTo_elapsed_uncorrected {s : State} (due : Nat) (hrun : clockRuns s = true) (hlock : s.clk.coast = false)
    (hslew : s.net.slew = 0) (hrate : s.net.rate = 0) :
    (advanceTo s due).elapsed = max s.elapsed due + s.net.rateAcc / 65536 := by
  have hcycles : cyclesFor s (due - s.elapsed) = due - s.elapsed := by simp [cyclesFor, ckTicks, hlock, hslew, hrate]
  rw [advanceTo, hcycles, advance, if_pos hrun]
  show s.elapsed + ticksIn s (due - s.elapsed) = _
  rw [ticksIn_uncorrected _ hlock hslew hrate]
  omega

/-- Locked and uncorrected, a power sample comes at the next 10 µs, and the whole ticks gathered before come on top. (R376) -/
theorem powerSample_elapsed {s t : State} {power volts : BitVec 16} (h : exec (.powerSample power volts) s = .next t)
    (hpower : s.boot.phase ≠ .off) (hrun : clockRuns s = true) (hlock : s.clk.coast = false) (hslew : s.net.slew = 0)
    (hrate : s.net.rate = 0) :
    t.elapsed = s.elapsed + (10 * Config.us - s.elapsed % (10 * Config.us)) + s.net.rateAcc / 65536 := by
  have ht : t.elapsed = (nextMultiple s (10 * Config.us)).elapsed := by
    have hexec : execPowerSample power volts s = .next t := h
    simp only [execPowerSample, beq_eq_false_iff_ne.2 hpower, Bool.false_eq_true, if_false, Host.Outcome.next.injEq] at hexec
    rw [← hexec]
  rw [ht, nextMultiple, advanceTo_elapsed_uncorrected _ hrun hlock hslew hrate, max_eq_right (Nat.le_add_right _ _)]

/-- A module after step 2, its root locked and its time uncorrected, whose rate correction has gathered one whole tick. -/
def tickGathered : State :=
  { State.reset with boot := { State.reset.boot with step := 3 }, net := { State.reset.net with rateAcc := 65536 } }

end Sys2Proof.Machine

open Sys2Proof.Machine

/-- Refutes O42: its first clause puts a power sample of a locked, uncorrected module on a multiple of 10 µs (16000 ticks) without asking that the
rate correction has gathered less than a tick, as the clause before it does. From elapsed time 0 with `rateAcc` 65536 the sample
comes at tick 16001. (`advance`, which alone updates `rateAcc`, cuts it to 65536, so the
statement lacks the hypothesis `s.net.rateAcc < 65536`, here and in the last part of `timeUntil`.) -/
theorem not_powerAndHeat : ¬ Obligations.PowerAndHeat := by
  intro h
  obtain ⟨hsample, -⟩ := h
  obtain ⟨t, ht, -, -, -, hmultiple⟩ := hsample 0 0 tickGathered (by decide) (by decide)
  have htick : t.elapsed = 16001 := powerSample_elapsed ht (by decide) (by decide) rfl rfl rfl
  have hzero : t.elapsed % 16000 = 0 := hmultiple rfl rfl rfl
  rw [htick] at hzero
  exact absurd hzero (by decide)

end

section
/-! Proofs of the statements of 01_module_overview.md: a step and its command (O1), the dispatcher's turns and acceptance (O52). -/

open Sys2Proof Sys2Proof.Safety

namespace Sys2Proof.Machine

/-! The turn (R72): sources and tenancies are tried in rising order of a rank. -/

/-- The first answer along a list that rises in a relation comes from an element below every other that has one. -/
theorem exists_least_of_findSome? {α β : Type} {R : α → α → Prop} {f : α → Option β} {b : β} {l : List α} (hl : l.Pairwise R)
    (h : l.findSome? f = some b) : ∃ x ∈ l, f x = some b ∧ ∀ y ∈ l, (f y).isSome = true → x = y ∨ R x y := by
  obtain ⟨before, x, after, rfl, hx, hnone⟩ := List.findSome?_eq_some_iff.1 h
  obtain ⟨-, hafter, -⟩ := List.pairwise_append.1 hl
  refine ⟨x, by simp, hx, fun y hy hsome => ?_⟩
  rcases List.mem_append.1 hy with hy | hy
  · rw [hnone y hy] at hsome
    exact absurd hsome (by simp)
  · rcases List.mem_cons.1 hy with rfl | hy
    · exact .inl rfl
    · exact .inr ((List.pairwise_cons.1 hafter).1 y hy)

/-- The place of a source in its tenancy's turn, counted from the ring after the one last served: slots first (R72). -/
def sourceRank (last : Nat) : Sys2Proof.Source → Nat
  | .slot k => k.toNat
  | .ring j => 16 + (j.toNat + 3 + 4 - last % 4) % 4

/-- A tenancy's sources are tried in the order of their ranks, 0 to 19. -/
theorem map_sourceRank_sourceOrder (s : State) (t : Nat) :
    (sourceOrder s t).map (sourceRank (tenOf s t).ringLast) = List.range 20 := by
  have hslots : ∀ k ∈ List.range 16, sourceRank (tenOf s t).ringLast (.slot (BitVec.ofNat 4 k)) = k := by
    intro k hk
    exact Nat.mod_eq_of_lt (List.mem_range.1 hk)
  have hrings : ∀ i ∈ List.range 4, sourceRank (tenOf s t).ringLast (.ring (BitVec.ofNat 2 ((tenOf s t).ringLast + 1 + i))) = 16 + i := by
    intro i hi
    have hi := List.mem_range.1 hi
    simp only [sourceRank, BitVec.toNat_ofNat]
    omega
  rw [sourceOrder, List.map_append, List.map_map, List.map_map]
  exact congrArg₂ (· ++ ·) (List.map_congr_left hslots) (List.map_congr_left hrings)

/-- A tenancy's sources are tried in rising rank. -/
theorem sourceOrder_rising (s : State) (t : Nat) :
    (sourceOrder s t).Pairwise (fun x y => sourceRank (tenOf s t).ringLast x < sourceRank (tenOf s t).ringLast y) := by
  rw [← List.pairwise_map, map_sourceRank_sourceOrder]
  exact List.pairwise_lt_range

/-- A tenancy has sixteen slots and four rings. -/
theorem mem_sourceOrder (s : State) (t : Nat) (src : Sys2Proof.Source) : src ∈ sourceOrder s t := by
  unfold sourceOrder
  simp only [List.mem_append, List.mem_map, List.mem_range]
  cases src with
  | slot k => exact .inl ⟨k.toNat, k.isLt, by simp⟩
  | ring j =>
    refine .inr ⟨(j.toNat + 3 + 4 - (tenOf s t).ringLast % 4) % 4, Nat.mod_lt _ (by decide), ?_⟩
    have hj := j.isLt
    congr 1
    apply BitVec.eq_of_toNat_eq
    rw [BitVec.toNat_ofNat]
    omega

/-- The tenancies in the dispatcher's order are those that exist. -/
theorem mem_tenOrder {s : State} {t : Nat} : t ∈ tenOrder s ↔ t ∈ existing s := by
  simp only [tenOrder, List.mem_append, List.mem_filter, decide_eq_true_eq]
  rcases Nat.lt_or_ge s.dispLast t with h | h
  · simp [h]
  · simp [h, Nat.not_lt.2 h]

/-- The place of a tenancy in the round of 256 that begins after the one last served (R72). -/
def tenRank (last t : Nat) : Nat := (t + 255 - last) % 256

/-- The tenancies are tried in rising rank. -/
theorem tenOrder_rising {s : State} (hrise : (existing s).Pairwise (· < ·)) (hlast : s.dispLast < 256) (hbound : ∀ v ∈ existing s, v < 256) :
    (tenOrder s).Pairwise (fun u v => tenRank s.dispLast u < tenRank s.dispLast v) := by
  have hmem : ∀ {p : Nat → Bool} {u : Nat}, u ∈ (existing s).filter p → u < 256 ∧ p u = true :=
    fun hu => ⟨hbound _ (List.mem_filter.1 hu).1, (List.mem_filter.1 hu).2⟩
  unfold tenOrder tenRank
  refine List.pairwise_append.2 ⟨(hrise.filter _).imp_of_mem fun hu hv huv => ?_, (hrise.filter _).imp_of_mem fun hu hv huv => ?_,
    fun u hu v hv => ?_⟩
  all_goals
    obtain ⟨hu256, hu⟩ := hmem hu
    obtain ⟨hv256, hv⟩ := hmem hv
    simp only [decide_eq_true_eq] at hu hv
    omega

/-- The dispatcher's choice: of an existing tenancy its first ready source, and no ready tenancy goes before it in any order in which
`tenOrder` rises. -/
theorem nextSource_least {s : State} {t : Nat} {src : Sys2Proof.Source} (h : nextSource s = some (t, src)) :
    (headReady s t src = true ∧ ∀ x, headReady s t x = true →
      sourceRank (tenOf s t).ringLast src ≤ sourceRank (tenOf s t).ringLast x) ∧
    ∀ R : Nat → Nat → Prop, (tenOrder s).Pairwise R → ∀ u ∈ existing s, (∃ x, headReady s u x = true) → t = u ∨ R t u := by
  have hfound : ∀ R : Nat → Nat → Prop, (tenOrder s).Pairwise R → (sourceOrder s t).find? (headReady s t) = some src ∧
      ∀ u ∈ existing s, (∃ x, headReady s u x = true) → t = u ∨ R t u := by
    intro R hR
    obtain ⟨t', -, ht', hleast⟩ := exists_least_of_findSome? hR h
    obtain ⟨x, hx, hpair⟩ := Option.map_eq_some_iff.1 ht'
    cases hpair
    refine ⟨hx, fun u hu hready => hleast u (mem_tenOrder.2 hu) ?_⟩
    obtain ⟨y, hy⟩ := hready
    rw [Option.isSome_map, List.find?_isSome]
    exact ⟨y, mem_sourceOrder s u y, hy⟩
  refine ⟨?_, fun R hR => (hfound R hR).2⟩
  have hfind := (hfound (fun _ _ => True) (List.pairwise_of_forall fun _ _ => trivial)).1
  refine ⟨List.find?_some hfind, fun x hx => ?_⟩
  rw [List.find?_eq_findSome?_guard] at hfind
  obtain ⟨y, -, hy, hleast⟩ := exists_least_of_findSome? (sourceOrder_rising s t) hfind
  obtain ⟨rfl, -⟩ := Option.guard_eq_some_iff.1 hy
  rcases hleast x (mem_sourceOrder s t x) (by simp [Option.guard, hx]) with heq | hlt
  · rw [heq]
  · exact hlt.le

/-- Without a turn no head is ready. -/
theorem headReady_of_nextSource_none {s : State} (h : nextSource s = none) {t : Nat} (ht : t ∈ existing s) (x : Sys2Proof.Source) :
    headReady s t x = false := by
  have hnone := List.findSome?_eq_none_iff.1 h t (mem_tenOrder.2 ht)
  rw [Option.map_eq_none_iff, List.find?_eq_none] at hnone
  exact Bool.eq_false_iff.2 (hnone x (mem_sourceOrder s t x))

/-- The turn is a ready head's: within its tenancy the lowest ready slot before every ring, and the rings in turn. (R72) -/
theorem nextSource_turn {s : State} {t : Nat} {src : Sys2Proof.Source} (h : nextSource s = some (t, src)) :
    headReady s t src = true ∧ (∀ k, headReady s t (.slot k) = true → ∃ j, src = .slot j ∧ j.toNat ≤ k.toNat) ∧
    (∀ k j, src = .ring k → headReady s t (.ring j) = true →
      (k.toNat + 3 + 4 - (tenOf s t).ringLast % 4) % 4 ≤ (j.toNat + 3 + 4 - (tenOf s t).ringLast % 4) % 4) := by
  obtain ⟨⟨hready, hleast⟩, -⟩ := nextSource_least h
  refine ⟨hready, fun k hk => ?_, fun k j hsrc hj => ?_⟩
  · have hle := hleast _ hk
    cases src with
    | slot j => exact ⟨j, rfl, hle⟩
    | ring j =>
      have hlt := k.isLt
      simp only [sourceRank] at hle
      omega
  · have hle := hleast _ hj
    rw [hsrc] at hle
    exact Nat.le_of_add_le_add_left hle

/-- The turn is that of the first tenancy with a ready head after the one last served. (R72) -/
theorem nextSource_tenancy {s : State} {t : Nat} {src : Sys2Proof.Source} (h : nextSource s = some (t, src))
    (hrise : (existing s).Pairwise (· < ·)) (hlast : s.dispLast < 256) (hbound : ∀ v ∈ existing s, v < 256) {u : Nat}
    (hu : u ∈ existing s) (hready : ∃ x, headReady s u x = true) : (t + 255 - s.dispLast) % 256 ≤ (u + 255 - s.dispLast) % 256 := by
  obtain ⟨-, hleast⟩ := nextSource_least h
  rcases hleast _ (tenOrder_rising hrise hlast hbound) u hu hready with rfl | hlt
  · exact le_rfl
  · exact hlt.le

/-! What acceptance decides (R54). -/

/-- An OPCODE outside 1 to 14 is refused first. (R51) -/
theorem acceptStatus_badOpcode (s : State) (t : Nat) (src : Sys2Proof.Source) {d : Descriptor} (h : dOp d = 0 ∨ 14 < dOp d) :
    acceptStatus s t src d = some .badOpcode := by
  have hop : opcodeOk s (dOp d) = false := by
    unfold opcodeOk
    rcases h with h | h
    · simp [h]
    · simp [Nat.not_le.2 h]
  simp [acceptStatus, hop]

/-- The opcodes of this module: NET_SEND is one where there is a network. (R2, R51) -/
theorem opcodeOk_of_variant {s : State} {op : Nat} (hlow : 1 ≤ op) (hhigh : op ≤ 14) (hnet : op ≠ 13 ∨ s.variant = .rl512N) :
    opcodeOk s op = true := by
  unfold opcodeOk
  rcases hnet with h | h <;> simp [hlow, hhigh, h]

/-- A reserved bit of the header that is set is refused before ownership. (R54) -/
theorem acceptStatus_badField {s : State} (t : Nat) (src : Sys2Proof.Source) {d : Descriptor} (hop : opcodeOk s (dOp d) = true)
    (h : bits d 13 3 ≠ 0) : acceptStatus s t src d = some .badField := by
  have hfields : fieldsOk s t src d = false := by
    unfold fieldsOk
    rw [beq_eq_false_iff_ne.2 h, Bool.false_and]
  simp [acceptStatus, hop, hfields]

/-- A NOP or FENCE whose fields are zero is judged by its flags alone: that they are the tenancy's, then that their homes are reached.
(R54, R245, log entry 21) -/
theorem acceptStatus_bare {s : State} (t : Nat) (src : Sys2Proof.Source) {d : Descriptor} (hop : dOp d = 1 ∨ dOp d = 11)
    (hreserved : bits d 13 3 = 0) (hflag : dFlag d 4 = false) (hbody : dfield d 8 56 = 0) :
    acceptStatus s t src d =
      if !((dWait d).toList ++ (dSignal d).toList).all (flagUsable s t) then some .notOwner
      else if ((dWait d).toList ++ (dSignal d).toList).any (fun f => !homeReached s f) then some .peerUnreachable
      else none := by
  have hopcode : opcodeOk s (dOp d) = true := opcodeOk_of_variant (by omega) (by omega) (by omega)
  have hfields : fieldsOk s t src d = true := by
    unfold fieldsOk
    rcases hop with h | h <;> simp [h, hreserved, hflag, zeroBytes, hbody]
  have hnamed : namedFlags d = (dWait d).toList ++ (dSignal d).toList := by
    unfold namedFlags
    rcases hop with h | h <;> simp [h]
  have howned : ownedOk s t d = (namedFlags d).all (flagUsable s t) := by
    unfold ownedOk namedRegions
    rcases hop with h | h <;> simp [h]
  have hranges : rangesOk s d = true := by
    unfold rangesOk namedRegions
    rcases hop with h | h <;> simp [h]
  have hcopy : copyStatus s t src d = none := if_pos (by omega)
  have hunits : unitsOk s t d = true := by
    unfold unitsOk
    rcases hop with h | h <;> simp [h]
  have hnet : dOp d ≠ 13 := by omega
  simp [acceptStatus, hopcode, hfields, howned, hranges, hcopy, hunits, hnet, hnamed]

/-- The four outcomes of a bare descriptor. (R54, R245) -/
theorem acceptStatus_bare_cases (s : State) (t : Nat) (src : Sys2Proof.Source) {d : Descriptor} (hop : dOp d = 1 ∨ dOp d = 11)
    (hreserved : bits d 13 3 = 0) (hflag : dFlag d 4 = false) (hbody : dfield d 8 56 = 0) :
    (dWait d = none → dSignal d = none → acceptStatus s t src d = none) ∧
    (∀ f, dWait d = some f → ownsFlag s t f = false → acceptStatus s t src d = some .notOwner) ∧
    (∀ f, dWait d = some f → dSignal d = none → ownsFlag s t f = true → inTransit s 1 (f / 256) = false →
      (flagHome s f ≠ 9 → acceptStatus s t src d = none) ∧
      (flagHome s f = 9 → s.net.pod ≠ .member → acceptStatus s t src d = some .peerUnreachable)) := by
  rw [acceptStatus_bare t src hop hreserved hflag hbody]
  refine ⟨fun hwait hsignal => ?_, fun f hwait howner => ?_, fun f hwait hsignal howner htransit => ⟨fun hhome => ?_, fun hhome hpod => ?_⟩⟩
  · simp [hwait, hsignal]
  · simp [hwait, flagUsable, howner]
  · simp [hwait, hsignal, flagUsable, howner, htransit, homeReached, hhome]
  · simp [hwait, hsignal, flagUsable, howner, htransit, homeReached, hhome, hpod]

/-! Acceptance and routing read nothing that a turn changes. -/

/-- A ck cycle that passes changes no acceptance. -/
theorem acceptStatus_tick (s : State) (t : Nat) (src : Sys2Proof.Source) (d : Descriptor) :
    acceptStatus (tick s) t src d = acceptStatus s t src d := by
  unfold tick advance
  split
  · rfl
  · rfl

/-- A ck cycle that passes changes no routing. -/
theorem executorsOf_tick (s : State) (t : Nat) (d : Descriptor) : executorsOf (tick s) t d = executorsOf s t d := by
  unfold tick advance
  split
  · rfl
  · rfl

/-- Of the tenancies copies read the mode alone. -/
theorem copyStatus_modTen (s : State) (u t : Nat) (src : Sys2Proof.Source) (d : Descriptor) {f : Tenancy → Tenancy}
    (hf : ∀ x, (f x).xlat = x.xlat) : copyStatus (modTen s u f) t src d = copyStatus s t src d := by
  have hxlat : (tenOf (modTen s u f) t).xlat = (tenOf s t).xlat := by
    unfold modTen
    rw [tenOf_setTen]
    split
    · next h => rw [hf, h]
    · rfl
  unfold copyStatus
  rw [hxlat]
  rfl

/-- Of the tenancies acceptance reads the mode alone. -/
theorem acceptStatus_modTen (s : State) (u t : Nat) (src : Sys2Proof.Source) (d : Descriptor) {f : Tenancy → Tenancy}
    (hf : ∀ x, (f x).xlat = x.xlat) : acceptStatus (modTen s u f) t src d = acceptStatus s t src d := by
  unfold acceptStatus
  rw [copyStatus_modTen s u t src d hf]
  rfl

/-- The turn decides nothing about the head whose turn it is. -/
theorem acceptStatus_takeTurn (s : State) (t : Nat) (src : Sys2Proof.Source) (d : Descriptor) :
    acceptStatus (takeTurn s t src) t src d = acceptStatus s t src d := by
  have hturn : ∀ u : State, acceptStatus { u with dispLast := t, dispCk := some u.ck } t src d = acceptStatus u t src d := fun _ => rfl
  have htick : acceptStatus (if s.dispCk = some s.ck then tick s else s) t src d = acceptStatus s t src d := by
    split
    · exact acceptStatus_tick s t src d
    · rfl
  have hring : ∀ (u : State) (n : Nat), acceptStatus (modTen u t fun x => { x with ringLast := n }) t src d = acceptStatus u t src d :=
    fun u n => acceptStatus_modTen u t t src d fun _ => rfl
  unfold takeTurn
  cases src with
  | slot k => dsimp only; rw [hturn, htick]
  | ring k => dsimp only; rw [hring, hturn, htick]

/-- The state in which a head has had its turn and has left its source. -/
def headTaken (s : State) (t : Nat) (src : Sys2Proof.Source) (d : Descriptor) (accepted : Bool) : State :=
  stepBatch (takeHead (takeTurn s t src) t src) t src d accepted

/-- A batch that grows changes no routing. -/
theorem executorsOf_stepBatch (s : State) (t : Nat) (src : Sys2Proof.Source) (d : Descriptor) (accepted : Bool) :
    executorsOf (stepBatch s t src d accepted) t d = executorsOf s t d := by
  unfold stepBatch
  split
  · rfl
  · rfl

/-- The turn does not change where a head goes. -/
theorem executorsOf_headTaken (s : State) (t : Nat) (src : Sys2Proof.Source) (d : Descriptor) (accepted : Bool) :
    executorsOf (headTaken s t src d accepted) t d = executorsOf s t d := by
  have htick : executorsOf (if s.dispCk = some s.ck then tick s else s) t d = executorsOf s t d := by
    split
    · exact executorsOf_tick s t d
    · rfl
  rw [headTaken, executorsOf_stepBatch]
  cases src with
  | slot k => exact htick
  | ring k => exact htick

/-- A batch that grows changes the batches alone. -/
theorem stepBatch_eq (s : State) (t : Nat) (src : Sys2Proof.Source) (d : Descriptor) (accepted : Bool) :
    ∃ l, stepBatch s t src d accepted = { s with batches := l } := by
  unfold stepBatch
  split
  · exact ⟨_, rfl⟩
  · exact ⟨_, rfl⟩

/-- A turn issues no write, enters nothing in the log or on a meter, and begins or ends no work. -/
@[simp] theorem takeTurn_frame (s : State) (t : Nat) (src : Sys2Proof.Source) :
    (takeTurn s t src).active = s.active ∧ (takeTurn s t src).nextId = s.nextId ∧ (takeTurn s t src).hostWrites = s.hostWrites ∧
    (takeTurn s t src).meterQ = s.meterQ ∧ (takeTurn s t src).log = s.log ∧ (takeTurn s t src).thm = s.thm := by
  unfold takeTurn
  cases src <;> split <;> simp

/-- A head that has left its source has not yet begun any work. -/
theorem headTaken_frame (s : State) (t : Nat) (src : Sys2Proof.Source) (d : Descriptor) (accepted : Bool) :
    (headTaken s t src d accepted).active = s.active ∧ (headTaken s t src d accepted).nextId = s.nextId ∧
    (headTaken s t src d accepted).hostWrites = s.hostWrites ∧ (headTaken s t src d accepted).meterQ = s.meterQ ∧
    (headTaken s t src d accepted).log = s.log ∧ (headTaken s t src d accepted).thm = s.thm := by
  obtain ⟨l, hl⟩ := stepBatch_eq (takeHead (takeTurn s t src) t src) t src d accepted
  rw [headTaken, hl]
  cases src <;> simp [takeHead]

/-- A tenancy changed reads as changed. -/
theorem tenOf_modTen_self (s : State) (t : Nat) (f : Tenancy → Tenancy) : tenOf (modTen s t f) t = f (tenOf s t) := by simp [modTen]

/-- Of its tenancy a turn moves the ring last served alone. -/
theorem tenOf_takeTurn (s : State) (t : Nat) (src : Sys2Proof.Source) :
    ∃ n, tenOf (takeTurn s t src) t = { tenOf s t with ringLast := n } := by
  have htick : tenOf (if s.dispCk = some s.ck then tick s else s) t = tenOf s t := by
    split
    · simp [tenOf]
    · rfl
  rw [← htick]
  cases src with
  | slot k => exact ⟨_, rfl⟩
  | ring k => exact ⟨k.toNat, tenOf_modTen_self _ _ _⟩

/-- Of its tenancy a head that leaves its source frees at most its slot. -/
theorem tenOf_takeHead (s : State) (t : Nat) (src : Sys2Proof.Source) : ∃ l, tenOf (takeHead s t src) t = { tenOf s t with slots := l } := by
  cases src with
  | slot k => exact ⟨_, tenOf_modTen_self _ _ _⟩
  | ring k => exact ⟨_, rfl⟩

/-- The rings and the records of a tenancy stay when a head of it is taken. -/
theorem tenOf_headTaken (s : State) (t : Nat) (src : Sys2Proof.Source) (d : Descriptor) (accepted : Bool) :
    (tenOf (headTaken s t src d accepted) t).rings = (tenOf s t).rings ∧
    (tenOf (headTaken s t src d accepted) t).staging = (tenOf s t).staging ∧
    (tenOf (headTaken s t src d accepted) t).held = (tenOf s t).held := by
  obtain ⟨l, hl⟩ := stepBatch_eq (takeHead (takeTurn s t src) t src) t src d accepted
  obtain ⟨m, hm⟩ := tenOf_takeHead (takeTurn s t src) t src
  obtain ⟨n, hn⟩ := tenOf_takeTurn s t src
  have hten : tenOf (headTaken s t src d accepted) t = { tenOf s t with ringLast := n, slots := m } := by
    rw [hn] at hm
    rw [headTaken, hl]
    exact hm
  rw [hten]
  exact ⟨rfl, rfl, rfl⟩

/-! Judging a head (R72). -/

/-- A head of another OPCODE, or whose turn it is not, stays. -/
theorem judgeHead_stays {ten : BitVec 8} {src : Sys2Proof.Source} {s : State} {d : Descriptor} {op : Nat → Bool}
    (hhead : headOf s ten.toNat src = some d) (h : op (dOp d) = false ∨ nextSource s ≠ some (ten.toNat, src)) :
    judgeHead s ten src op = s := by
  have hno : (op (dOp d) && nextSource s == some (ten.toNat, src)) = false := by
    rcases h with h | h
    · rw [h, Bool.false_and]
    · rw [beq_eq_false_iff_ne.2 h, Bool.and_false]
  simp [judgeHead, hhead, hno]

/-- A head that has its turn and is accepted leaves its source. -/
theorem judgeHead_of_accept {ten : BitVec 8} {src : Sys2Proof.Source} {s : State} {d : Descriptor} {op : Nat → Bool}
    (hhead : headOf s ten.toNat src = some d) (hop : op (dOp d) = true) (hturn : nextSource s = some (ten.toNat, src))
    (haccept : acceptStatus s ten.toNat src d = none) :
    judgeHead s ten src op = acceptDesc (headTaken s ten.toNat src d true) ten.toNat src (headIndex s ten.toNat src) d := by
  simp [judgeHead, hhead, hop, hturn, acceptStatus_takeTurn, haccept, headTaken]

/-- A head that has its turn and is refused leaves its source too. -/
theorem judgeHead_of_refuse {ten : BitVec 8} {src : Sys2Proof.Source} {s : State} {d : Descriptor} {op : Nat → Bool} {st : Status}
    (hhead : headOf s ten.toNat src = some d) (hop : op (dOp d) = true) (hturn : nextSource s = some (ten.toNat, src))
    (hrefuse : acceptStatus s ten.toNat src d = some st) :
    judgeHead s ten src op = refuseDesc (headTaken s ten.toNat src d false) ten.toNat src d st := by
  simp [judgeHead, hhead, hop, hturn, acceptStatus_takeTurn, hrefuse, headTaken]

/-! A descriptor accepted (R54). -/

/-- A descriptor found is the one of its number. -/
theorem id_of_activeOf {s : State} {i : Nat} {a : Active} (h : activeOf s i = some a) : a.id = i := by
  simpa using List.find?_some h

/-- An active descriptor changed keeps its place among the active ones. -/
theorem activeOf_modActive {s : State} {i : Nat} {f : Active → Active} (hf : ∀ a, (f a).id = a.id) :
    activeOf (modActive s i f) i = (activeOf s i).map f := by
  have hkey : ((fun a : Active => a.id == i) ∘ fun a => if a.id = i then f a else a) = fun a => a.id == i := by
    funext a
    simp only [Function.comp_apply]
    split
    · rw [hf]
    · rfl
  simp only [activeOf, modActive, List.find?_map, hkey]
  cases h : s.active.find? (fun a => a.id == i) with
  | none => rfl
  | some a => simp [id_of_activeOf h]

/-- A queue is no part of the active descriptors, the meters or the log. -/
theorem setQueue_frame (s : State) (x : Executor) (q : List Nat) :
    (setQueue s x q).active = s.active ∧ (setQueue s x q).meterQ = s.meterQ ∧ (setQueue s x q).log = s.log := by
  cases x <;> exact ⟨rfl, rfl, rfl⟩

/-- No part of a descriptor ends where no executor of it is halted. (R388) -/
theorem haltParts_of_cool {s : State} {i : Nat} {a : Active} (h : activeOf s i = some a) (hcool : ∀ x ∈ a.toFinish, partHalted s x = false) :
    haltParts s i = s := by
  simp only [haltParts, h]
  refine List.foldlRecOn (motive := fun u => u = s) _ _ rfl fun u hu x hx => ?_
  subst hu
  rw [hcool x hx, if_neg Bool.false_ne_true]

/-- From s to u an active descriptor i, which is a, has at most entered queues and begun to wait for a domain; nothing is metered or
logged. -/
def entersOnly (s u : State) (i : Nat) (a : Active) : Prop :=
  (∃ e m, activeOf u i = some { a with toEnter := e, domSince := m }) ∧ u.meterQ = s.meterQ ∧ u.log = s.log

/-- A wait for a domain is marked. -/
theorem entersOnly_markDomainWait {s : State} {i : Nat} {a : Active} (h : activeOf s i = some a) : entersOnly s (markDomainWait s i) i a := by
  refine ⟨?_, rfl, rfl⟩
  unfold markDomainWait
  rw [activeOf_modActive (fun a => by split <;> rfl), h, Option.map_some]
  split
  · exact ⟨_, _, rfl⟩
  · exact ⟨_, _, rfl⟩

/-- Parts enter their queues. -/
theorem entersOnly_enterAll {s u : State} {i : Nat} {a : Active} (h : entersOnly s u i a) : entersOnly s (enterAll u i) i a := by
  unfold enterAll
  split
  · exact h
  · refine List.foldlRecOn (motive := fun v => entersOnly s v i a) _ _ h fun v hv x _ => ?_
    split
    · next b hb =>
      split
      · obtain ⟨⟨e, m, hactive⟩, hmeter, hlog⟩ := hv
        obtain ⟨hqactive, hqmeter, hqlog⟩ := setQueue_frame v x (execQueue v x ++ [b.id])
        have hqueued : activeOf (setQueue v x (execQueue v x ++ [b.id])) i = activeOf v i := by rw [activeOf, hqactive]; rfl
        refine ⟨⟨e.erase x, m, ?_⟩, hqmeter.trans hmeter, hqlog.trans hlog⟩
        rw [enterPart, id_of_activeOf hb, activeOf_modActive (f := fun c => { c with toEnter := c.toEnter.erase x }) fun _ => rfl]
        rw [id_of_activeOf hb] at hqueued
        rw [hqueued, hactive]
        rfl
      · exact hv
    · exact hv

/-- Whether a part is halted lies in the thermal registers. -/
theorem partHalted_congr {s u : State} (h : u.thm = s.thm) (x : Executor) : partHalted u x = partHalted s x := by
  simp only [partHalted, stackHalted, thmOf, h]

/-- An acceptance sets out from a state u that has the new active descriptor a, the meter's report and a load's fetch; a's parts are then
halted, marked or entered. -/
theorem acceptDesc_eq (s : State) (t : Nat) (src : Sys2Proof.Source) (index : Nat) (d : Descriptor) :
    ∃ (u : State) (a : Active),
      acceptDesc s t src index d = enterAll (markDomainWait (haltParts u s.nextId) s.nextId) s.nextId ∧
      (u.active = s.active ++ [a] ∧ u.thm = s.thm ∧ u.meterQ = s.meterQ ++ [{ ten := t, meter := 10, amount := 1, pj := 0 }] ∧
        u.log = s.log) ∧
      a.id = s.nextId ∧ a.raw = d ∧ a.ten = t ∧ a.src = src ∧ a.index = index ∧ a.started = none ∧
      a.wait = (if (dWait d).isSome then .waiting else .none) ∧ a.toFinish = executorsOf s t d := by
  refine ⟨_, _, rfl, ⟨congrArg (· ++ [_]) ?_, ?_, ?_, ?_⟩, rfl, rfl, rfl, rfl, rfl, rfl, rfl, rfl⟩
  all_goals split <;> simp [meter]

/-- A descriptor accepted whose executors are not halted is active under the next number, to be finished by its executors, and counts once.
(R54, R56, R291) -/
theorem acceptDesc_active {s : State} {t : Nat} {src : Sys2Proof.Source} {index : Nat} {d : Descriptor}
    (hfree : activeOf s s.nextId = none) (hcool : ∀ x ∈ executorsOf s t d, partHalted s x = false) :
    ∃ a, activeOf (acceptDesc s t src index d) s.nextId = some a ∧ a.raw = d ∧ a.ten = t ∧ a.src = src ∧ a.index = index ∧
      a.started = none ∧ a.wait = (if (dWait d).isSome then .waiting else .none) ∧ a.toFinish = executorsOf s t d ∧
      (acceptDesc s t src index d).meterQ = s.meterQ ++ [{ ten := t, meter := 10, amount := 1, pj := 0 }] ∧
      (acceptDesc s t src index d).log = s.log := by
  obtain ⟨u, a, heq, ⟨hactive, hthm, hmeter, hlog⟩, hid, hraw, hten, hsrc, hindex, hstarted, hwait, hfinish⟩ := acceptDesc_eq s t src index d
  have hnew : activeOf u s.nextId = some a := by
    unfold activeOf at hfree ⊢
    simp [hactive, hfree, hid]
  have hhalt : haltParts u s.nextId = u := haltParts_of_cool hnew fun x hx => by
    rw [partHalted_congr hthm]
    exact hcool x (hfinish ▸ hx)
  obtain ⟨⟨e, m, hentered⟩, hmeter', hlog'⟩ := entersOnly_enterAll (entersOnly_markDomainWait hnew)
  rw [heq, hhalt]
  exact ⟨_, hentered, hraw, hten, hsrc, hindex, hstarted, hwait, hfinish, hmeter'.trans hmeter, hlog'.trans hlog⟩

/-! A descriptor refused (R55). -/

/-- The entry of an end goes to the log alone. -/
theorem logEnd_frame (s : State) (t : Nat) (tag : BitVec 16) (st : Status) (acceptance : Bool) (payload : List Byte) :
    (logEnd s t tag st acceptance payload).tens = s.tens ∧ (logEnd s t tag st acceptance payload).active = s.active ∧
    (logEnd s t tag st acceptance payload).hostWrites = s.hostWrites ∧ (logEnd s t tag st acceptance payload).meterQ = s.meterQ := by
  unfold logEnd logEndAt
  split
  · exact ⟨rfl, rfl, rfl, rfl⟩
  · exact ⟨rfl, rfl, rfl, rfl⟩

/-- Room in a completion ring lies in the tenancy's rings and records, the active descriptors and the writes outstanding. -/
theorem ringRoom_congr {s u : State} {t : Nat} (hrings : (tenOf u t).rings = (tenOf s t).rings)
    (hstaging : (tenOf u t).staging = (tenOf s t).staging) (hheld : (tenOf u t).held = (tenOf s t).held) (hactive : u.active = s.active)
    (hwrites : u.hostWrites = s.hostWrites) (h : ringRoom s t) : ringRoom u t := by
  have hring : ringOf u t cq = ringOf s t cq := by rw [ringOf, hrings]; rfl
  have hreserved : reservations u t = reservations s t := by rw [reservations, hactive]; rfl
  have hfree : cqFree u t = cqFree s t := by unfold cqFree; rw [hring, hwrites]
  unfold ringRoom
  rw [hring, hstaging, hheld, hreserved, hfree]
  exact h

/-- With room in its ring a record is written toward it at once. (R78) -/
theorem postRecord_of_ringRoom {s : State} {t : Nat} (h : ringRoom s t) (r : CRec) : postRecord s t r = writeRecord s t r := by
  obtain ⟨henabled, hstaging, hheld, hroom⟩ := h
  have htakes : ringTakes s t = true := by
    simp [ringTakes, hstaging, hheld, hroom, Nat.zero_lt_of_lt hroom]
  simp [postRecord, henabled, htakes]

/-- A refusal without SIGERR sets no flag: its record leaves from a state u that has the refusal's meter report, trace event and entry. -/
theorem refuseDesc_eq (s : State) (t : Nat) (src : Sys2Proof.Source) {d : Descriptor} (st : Status) (hsigerr : dFlag d 2 = false) :
    ∃ u, refuseDesc s t src d st = postRecord u t (formRecord u src d st false 0) ∧ u.tens = s.tens ∧ u.active = s.active ∧
      u.hostWrites = s.hostWrites ∧ u.meterQ = s.meterQ ++ [{ ten := t, meter := 11, amount := 1, pj := 0 }] := by
  unfold refuseDesc
  simp only [hsigerr, Bool.and_false, Bool.false_eq_true, if_false]
  refine ⟨logEnd (traceEv (meter s t 11 1 0) 0x02 t (srcNum 6 (srcId src)) (dTag d) st.code st.code) t (dTag d) st true
    (genericPayload (srcNum 8 4) (dOp d) (srcId src) 0 0), ?_, by simp [logEnd_frame, meter]⟩
  split <;> rfl

/-- With room for its record a refusal leaves that record, and counts once. (R55, R419) -/
theorem refuseDesc_record {s : State} {t : Nat} (src : Sys2Proof.Source) {d : Descriptor} (st : Status) (hsigerr : dFlag d 2 = false)
    (hroom : ringRoom s t) :
    ∃ w, (refuseDesc s t src d st).active = s.active ∧ (refuseDesc s t src d st).hostWrites = s.hostWrites ++ [w] ∧ w.ten = t ∧
      w.bytes.take 3 = leBytes 2 (dTag d).toNat ++ leBytes 1 st.code ∧
      (refuseDesc s t src d st).meterQ = s.meterQ ++ [{ ten := t, meter := 11, amount := 1, pj := 0 }] := by
  obtain ⟨u, heq, htens, hactive, hwrites, hmeter⟩ := refuseDesc_eq s t src st hsigerr
  have hten : tenOf u t = tenOf s t := by rw [tenOf, htens]; rfl
  rw [heq, postRecord_of_ringRoom (ringRoom_congr (by rw [hten]) (by rw [hten]) (by rw [hten]) hactive hwrites hroom)]
  exact ⟨_, hactive, congrArg (· ++ _) hwrites, rfl, rfl, hmeter⟩

/-! A head judged. -/

/-- A head accepted becomes an active descriptor. -/
theorem judgeHead_accepts {ten : BitVec 8} {src : Sys2Proof.Source} {s : State} {d : Descriptor} {op : Nat → Bool}
    (hhead : headOf s ten.toNat src = some d) (hop : op (dOp d) = true) (hturn : nextSource s = some (ten.toNat, src))
    (haccept : acceptStatus s ten.toNat src d = none) (hfree : activeOf s s.nextId = none)
    (hcool : ∀ x ∈ executorsOf s ten.toNat d, partHalted s x = false) :
    ∃ a, activeOf (judgeHead s ten src op) s.nextId = some a ∧ a.raw = d ∧ a.ten = ten.toNat ∧ a.src = src ∧
      a.index = headIndex s ten.toNat src ∧ a.started = none ∧ a.wait = (if (dWait d).isSome then .waiting else .none) ∧
      a.toFinish = executorsOf s ten.toNat d ∧
      (judgeHead s ten src op).meterQ = s.meterQ ++ [{ ten := ten.toNat, meter := 10, amount := 1, pj := 0 }] ∧
      (judgeHead s ten src op).log = s.log := by
  obtain ⟨hactive, hid, -, hmeter, hlog, hthm⟩ := headTaken_frame s ten.toNat src d true
  have hexecs := executorsOf_headTaken s ten.toNat src d true
  rw [judgeHead_of_accept hhead hop hturn haccept, ← hexecs, ← hid, ← hmeter, ← hlog]
  refine acceptDesc_active ?_ fun x hx => ?_
  · rw [hid, activeOf, hactive]
    exact hfree
  · rw [partHalted_congr hthm]
    exact hcool x (hexecs ▸ hx)

/-- A head refused leaves its record. -/
theorem judgeHead_refuses {ten : BitVec 8} {src : Sys2Proof.Source} {s : State} {d : Descriptor} {op : Nat → Bool} {st : Status}
    (hhead : headOf s ten.toNat src = some d) (hop : op (dOp d) = true) (hturn : nextSource s = some (ten.toNat, src))
    (hrefuse : acceptStatus s ten.toNat src d = some st) (hsigerr : dFlag d 2 = false) (hroom : ringRoom s ten.toNat) :
    ∃ w, (judgeHead s ten src op).active = s.active ∧ (judgeHead s ten src op).hostWrites = s.hostWrites ++ [w] ∧ w.ten = ten.toNat ∧
      w.bytes.take 3 = leBytes 2 (dTag d).toNat ++ leBytes 1 st.code ∧
      (judgeHead s ten src op).meterQ = s.meterQ ++ [{ ten := ten.toNat, meter := 11, amount := 1, pj := 0 }] := by
  obtain ⟨hactive, -, hwrites, hmeter, -, -⟩ := headTaken_frame s ten.toNat src d false
  obtain ⟨hrings, hstaging, hheld⟩ := tenOf_headTaken s ten.toNat src d false
  rw [judgeHead_of_refuse hhead hop hturn hrefuse, ← hactive, ← hwrites, ← hmeter]
  exact refuseDesc_record src st hsigerr (ringRoom_congr hrings hstaging hheld hactive hwrites hroom)

end Sys2Proof.Machine

open Sys2Proof.Machine

/-- Settles O1: by the definition of a step on a queue that is not empty. -/
theorem stepRunsFrontCommand : Obligations.StepRunsFrontCommand := by
  intro c rest s hfront
  simp only [step, hfront]

/-- Settles O52: each command judges the head of its source (`hexec`), which its turn does not change; the turn is the least of
the ready sources in the order of ranks (`nextSource_least`). -/
theorem acceptanceJudged : Obligations.AcceptanceJudged := by
  refine ⟨⟨fun e he ten src s d hhead => ?_, fun s ten src h => ?_, fun s h t ht x => headReady_of_nextSource_none h ht x⟩,
    fun s t src d => ⟨acceptStatus_badOpcode s t src, fun hlow hhigh hnet => acceptStatus_badField t src (opcodeOk_of_variant hlow hhigh hnet),
      acceptStatus_bare_cases s t src⟩⟩
  · have hexec : ∀ (ten : BitVec 8) (src : Sys2Proof.Source) (s : State), exec (e.1 ten src) s = .next (judgeHead s ten src e.2) := by
      simp only [List.mem_cons, List.not_mem_nil, or_false] at he
      rcases he with rfl | rfl | rfl | rfl | rfl | rfl | rfl | rfl | rfl | rfl | rfl | rfl | rfl | rfl | rfl <;> exact fun _ _ _ => rfl
    rw [hexec]
    refine ⟨fun h => congrArg _ (judgeHead_stays hhead h), fun hop hturn => ⟨fun haccept hfree hcool => ?_, fun st hrefuse hsigerr hroom => ?_⟩⟩
    · obtain ⟨a, h⟩ := judgeHead_accepts hhead hop hturn haccept hfree hcool
      exact ⟨_, a, rfl, h⟩
    · obtain ⟨w, h⟩ := judgeHead_refuses hhead hop hturn hrefuse hsigerr hroom
      exact ⟨_, w, rfl, h⟩
  · obtain ⟨hready, hslot, hring⟩ := nextSource_turn h
    exact ⟨hready, hslot, hring, fun hrise hlast u hu hbound hsome => nextSource_tenancy h hrise hlast hbound hu hsome⟩

end

section
/-! Proofs of the statements of 02_address_map.md: the invariant of the memories (O4), the answer of every command (O2), the state after reset
(O6). -/

open Sys2Proof Sys2Proof.Machine Sys2Proof.Safety

namespace Sys2Proof.Machine

/-- A step keeps the canonical form: an idle cycle leaves the memories alone, and every command keeps the form (`exec_ok`). -/
theorem step_memOk {s t : State} (h : step s = .next t) (hs : memOk s) : memOk t := by
  unfold step at h
  split at h
  · cases h
    exact memOk_of_mem (tick_kept s).2 hs
  · next c rest _ =>
    have hkept := exec_ok c { s with pending := rest } hs
    rwa [h, after_next] at hkept

/-! Every command answers (R21). -/

/-- A host read outside the HDM range is the model's one fault. (R21) -/
theorem execHostRead_outside {ma : BitVec 40} (len : Nat) (s : State) (h : 512 * 2 ^ 30 + 256 * 2 ^ 20 ≤ ma.toNat) :
    execHostRead ma len s = .fault .outsideHdmRange := if_pos h

/-- A host read in the HDM range is answered. -/
theorem execHostRead_inside {ma : BitVec 40} (len : Nat) (s : State) (h : ma.toNat < 512 * 2 ^ 30 + 256 * 2 ^ 20) :
    ∃ t, execHostRead ma len s = .next t := ⟨_, if_neg (by omega)⟩

/-- A host write outside the HDM range is a fault too. (R21) -/
theorem execHostWrite_outside {line : BitVec 34} (en : BitVec 64) (data : BitVec 512) (p : Bool) (s : State)
    (h : 512 * 2 ^ 30 + 256 * 2 ^ 20 ≤ 64 * line.toNat) : execHostWrite line en data p s = .fault .outsideHdmRange := if_pos (by omega)

/-- A host write in the HDM range is answered. -/
theorem execHostWrite_inside {line : BitVec 34} (en : BitVec 64) (data : BitVec 512) (p : Bool) (s : State)
    (h : 64 * line.toNat < 512 * 2 ^ 30 + 256 * 2 ^ 20) : ∃ t, execHostWrite line en data p s = .next t := ⟨_, if_neg (by omega)⟩

/-- Every command answers a next state: all but the host accesses do so whatever their operands and the state. -/
theorem exec_answers {c : Instr} {s : State} (h : inRange c) : ∃ t, exec c s = .next t := by
  cases c with
  | hostRead ma len => exact execHostRead_inside len s h
  | hostWrite line en data p => exact execHostWrite_inside en data p s h
  | _ => exact ⟨_, rfl⟩

end Sys2Proof.Machine

/-- Settles O4: canonical form is `memOk`, which every step keeps (`step_memOk`). -/
theorem stepKeepsMemories : Obligations.StepKeepsMemories := fun _ _ h hs => step_memOk h hs

/-- Settles O2: only a host access outside the HDM range is not answered (`exec_answers`). -/
theorem everyCommandAnswers : Obligations.EveryCommandAnswers :=
  ⟨fun _ _ h => exec_answers h, fun _ len s h => execHostRead_outside len s h, fun _ en data p s h => execHostWrite_outside en data p s h,
    fun s h => by rw [step, h]⟩

/-- Settles O6: the tables of the state after reset are empty, so that each part reads as its default; the registers are evaluated. -/
theorem resetState : Obligations.ResetState := by
  refine ⟨⟨rfl, rfl⟩, rfl, rfl, rfl, rfl, rfl, rfl, rfl, rfl, rfl, rfl, fun _ => rfl, fun _ => rfl, fun _ => rfl, fun _ => rfl, fun _ => rfl,
    fun _ => ⟨rfl, rfl⟩, fun _ => rfl, fun _ => rfl, fun _ => rfl, fun _ => rfl, fun _ => ⟨rfl, rfl⟩, ?_⟩
  decide

end

section
/-! Proofs of the statements of 02_address_map.md: the map of addresses (O10) and reserved addresses (O7). -/

open Sys2Proof Sys2Proof.Machine Sys2Proof.Safety

namespace Sys2Proof.Machine

/-- An octal digit XORed with another is one. -/
theorem xor_mod8_lt {a : Nat} (b : Nat) (ha : a < 8) : a ^^^ (b % 8) < 8 :=
  Nat.xor_lt_two_pow (n := 3) ha (Nat.mod_lt b (by decide))

/-- The fields of a bank number, and the offset, that a linear-pool address maps to. (R30) -/
theorem linearMap_fields (sp ma : Nat) :
    (linearMap sp ma).1 / 512 = ((ma - 4096 * sp) / 256 % 8) ^^^ ((ma - 4096 * sp) / 2 ^ 20 % 8) ∧
    (linearMap sp ma).1 / 64 % 8 = ((ma - 4096 * sp) / 2048 % 8) ^^^ ((ma - 4096 * sp) / 2 ^ 23 % 8) ∧
    (linearMap sp ma).1 % 64 = (ma - 4096 * sp) / 2 ^ 14 % 64 ∧
    (linearMap sp ma).2 = sp + (ma - 4096 * sp) / 2 ^ 20 * 256 + (ma - 4096 * sp) % 256 := by
  have hstack := xor_mod8_lt ((ma - 4096 * sp) / 256 / 4096) (Nat.mod_lt ((ma - 4096 * sp) / 256) (by decide : 8 > 0))
  have hpair := xor_mod8_lt ((ma - 4096 * sp) / 256 / 4096 / 8) (Nat.mod_lt ((ma - 4096 * sp) / 256 / 8) (by decide : 8 > 0))
  have hbank := Nat.mod_lt ((ma - 4096 * sp) / 256 / 64) (by decide : 64 > 0)
  simp only [linearMap, Nat.div_div_eq_div_mul, Nat.reduceMul, Nat.reducePow] at hstack hpair hbank ⊢
  exact ⟨by omega, by omega, by omega, trivial⟩

/-- Two linear-pool addresses with the same place are one: the offset holds its block and byte, which undo the XOR of the bank number. (R30) -/
theorem linearMap_injective {sp ma mb : Nat} (ha : 4096 * sp ≤ ma) (hb : 4096 * sp ≤ mb) (h : linearMap sp ma = linearMap sp mb) : ma = mb := by
  obtain ⟨hstack, hpair, hbank, hoff⟩ := linearMap_fields sp ma
  obtain ⟨hstack', hpair', hbank', hoff'⟩ := linearMap_fields sp mb
  rw [h] at hstack hpair hbank hoff
  have hblock : (ma - 4096 * sp) / 2 ^ 20 = (mb - 4096 * sp) / 2 ^ 20 := by omega
  have hblock8 : (ma - 4096 * sp) / 2 ^ 23 = (mb - 4096 * sp) / 2 ^ 23 := by omega
  rw [hstack', hblock, Nat.xor_left_inj] at hstack
  rw [hpair', hblock8, Nat.xor_left_inj] at hpair
  omega

/-- A linear-pool address lies in the upper part of a bank. (R25, R30) -/
theorem linearMap_range {k ma : Nat} (hma : ma < 2 ^ 39) (hlow : 4096 * (2 ^ 22 * k) ≤ ma) :
    (linearMap (2 ^ 22 * k) ma).1 < 4096 ∧ 2 ^ 22 * k ≤ (linearMap (2 ^ 22 * k) ma).2 ∧ (linearMap (2 ^ 22 * k) ma).2 < 2 ^ 27 := by
  obtain ⟨hstack, -, -, hoff⟩ := linearMap_fields (2 ^ 22 * k) ma
  have hlt := xor_mod8_lt ((ma - 4096 * (2 ^ 22 * k)) / 2 ^ 20) (Nat.mod_lt ((ma - 4096 * (2 ^ 22 * k)) / 256) (by decide : 8 > 0))
  omega

/-- An address of the bank-view part lies in the lower part of a bank. (R25, R27) -/
theorem maMap_direct {k ma : Nat} (hlow : ma < 4096 * (2 ^ 22 * k)) :
    maMap (2 ^ 22 * k) ma = (ma / (2 ^ 22 * k), ma % (2 ^ 22 * k)) ∧ ma / (2 ^ 22 * k) < 4096 ∧ ma % (2 ^ 22 * k) < 2 ^ 22 * k :=
  ⟨if_pos hlow, Nat.div_lt_of_lt_mul (by omega), Nat.mod_lt _ (by omega)⟩

/-- Every other address is a linear-pool address. (R30) -/
theorem maMap_linear {sp ma : Nat} (hlow : ¬ ma < 4096 * sp) : maMap sp ma = linearMap sp ma := if_neg hlow

end Sys2Proof.Machine

/-- Settles O10: the two parts of the map fill the offsets below and above the split, and each is undone from its place. -/
theorem addressMapIsOneToOne : Obligations.AddressMapIsOneToOne := by
  intro k hk ma hma
  by_cases hlow : ma < 4096 * (2 ^ 22 * k)
  · obtain ⟨heq, hbank, hoff⟩ := maMap_direct hlow
    rw [heq]
    refine ⟨hbank, by omega, fun mb hmb h => ?_⟩
    by_cases hlow' : mb < 4096 * (2 ^ 22 * k)
    · obtain ⟨heq', -, -⟩ := maMap_direct hlow'
      obtain ⟨hdiv, hmod⟩ := Prod.mk.inj (h.trans heq')
      rw [← Nat.div_add_mod ma (2 ^ 22 * k), hdiv, hmod, Nat.div_add_mod]
    · obtain ⟨-, hge, -⟩ := linearMap_range (k := k) hmb (by omega)
      rw [maMap_linear hlow'] at h
      rw [← h] at hge
      dsimp only at hge
      omega
  · obtain ⟨hbank, hge, hoff⟩ := linearMap_range (k := k) hma (by omega)
    rw [maMap_linear hlow]
    refine ⟨hbank, hoff, fun mb hmb h => ?_⟩
    by_cases hlow' : mb < 4096 * (2 ^ 22 * k)
    · obtain ⟨heq', -, hlt⟩ := maMap_direct hlow'
      rw [h, heq'] at hge
      dsimp only at hge
      omega
    · rw [maMap_linear hlow'] at h
      exact linearMap_injective (by omega) (by omega) h

namespace Sys2Proof.Machine

/-! The entry that an event makes in the cellar log (R422, R427). -/

/-- With a place in the collecting queue the log takes an entry of any class. (R427) -/
theorem takes_of_logRoom {s : State} (h : logRoom s) (cls : Nat) : s.log.takes s.ck cls = true := by
  obtain ⟨-, hwaiting⟩ := h
  simp [CellarLog.takes, hwaiting]

/-- An entry of another class than 0x01 and 0x02 is always taken. (R427) -/
theorem takes_of_class {cls : Nat} (l : CellarLog) (ck : Nat) (h1 : cls ≠ 1) (h2 : cls ≠ 2) : l.takes ck cls = true := by
  simp [CellarLog.takes, h1, h2]

/-- An entry that is taken stands at the next place, and the count of entries goes on by one. (R424) -/
theorem logAdd_taken {s : State} {cls : Nat} (level source num : Nat) (tag : Option (BitVec 16)) (ten : Option Nat) (detail : List Byte)
    (h : s.log.takes s.ck cls = true) :
    (logAdd s level source cls num tag ten detail).log.next = (s.log.next + 1) % 2 ^ 32 ∧
    mget none (logAdd s level source cls num tag ten detail).log.entries (s.log.next % 65536) =
      some { time := s.time, seq := s.log.next, source := source, cls := cls, num := num, tag := tag, ten := ten, level := level,
             detail := padTo 12 detail } := by
  unfold logAdd logAddAt
  rw [if_pos h]
  simp [CellarLog.push]

/-- An entry that is taken is the one entry of its event. -/
theorem loggedOnce_logAdd {s : State} {cls : Nat} (level source num : Nat) (tag : Option (BitVec 16)) (ten : Option Nat) (detail : List Byte)
    (h : s.log.takes s.ck cls = true) : loggedOnce s (logAdd s level source cls num tag ten detail) cls num := by
  obtain ⟨hnext, hentry⟩ := logAdd_taken level source num tag ten detail h
  exact ⟨hnext, _, hentry, rfl, rfl, rfl, rfl⟩

/-- A violation of no tenancy enters the log alone. -/
theorem loggedOnce_violateNone {s : State} (num size value : Nat) (h : logRoom s) : loggedOnce s (violateNone s num size value) 1 num :=
  loggedOnce_logAdd _ _ _ _ _ _ (takes_of_logRoom h 1)

/-! Host accesses by the range that they address (R22, R41, R395). -/

/-- A host read of a reserved address. (R22) -/
theorem execHostRead_reserved {ma : BitVec 40} (len : Nat) {s : State} (hlink : s.boot.linkUp = true)
    (hlow : 512 * 2 ^ 30 + 16 * 2 ^ 20 ≤ ma.toNat) (hhigh : ma.toNat < 512 * 2 ^ 30 + 256 * 2 ^ 20) :
    exec (.hostRead ma len) s = .next (emit (violateNone s 0x0B len 0) (.readData ma.toNat (List.replicate len 0xFF) false)) := by
  show execHostRead ma len s = _
  simp only [execHostRead, viaHost_up _ hlink]
  rw [if_neg (by omega), if_pos (by omega)]

/-- A host write to a reserved address. (R22) -/
theorem execHostWrite_reserved {line : BitVec 34} (en : BitVec 64) (data : BitVec 512) (p : Bool) {s : State} (hlink : s.boot.linkUp = true)
    (hlow : 512 * 2 ^ 30 + 16 * 2 ^ 20 ≤ 64 * line.toNat) (hhigh : 64 * line.toNat < 512 * 2 ^ 30 + 256 * 2 ^ 20) :
    exec (.hostWrite line en data p) s = .next (violateNone s 0x0B (if en = 0 then 0 else (enSpan en).2 - (enSpan en).1 + 1)
      (dfield (data >>> (8 * (enSpan en).1)) 0 8)) := by
  show execHostWrite line en data p s = _
  simp only [execHostWrite, viaHost_up _ hlink]
  rw [if_neg (by omega), if_pos (by omega)]

end Sys2Proof.Machine

/-- Settles O7: a reserved address is answered with a violation of no tenancy, which enters the log alone (`loggedOnce_violateNone`). -/
theorem reservedSpace : Obligations.ReservedSpace := by
  refine ⟨fun ma len s hlink hlow hhigh => ?_, fun line en data p s hlink hlow hhigh => ?_⟩
  · exact ⟨_, execHostRead_reserved len hlink hlow hhigh, rfl, fun hroom => loggedOnce_violateNone _ _ _ hroom⟩
  · exact ⟨_, execHostWrite_reserved en data p hlink hlow hhigh, rfl, fun hroom => loggedOnce_violateNone _ _ _ hroom⟩

end
section
/-! What the end of tasks, descriptors, transfers and units leaves as it was set up. -/

open Sys2Proof Sys2Proof.Machine Sys2Proof.Safety

namespace Sys2Proof.Machine

/-- A part of the state that every step of a fold keeps is kept by the fold. -/
theorem foldl_keeps {α β : Type} (proj : State → β) {f : State → α → State} (h : ∀ s a, proj (f s a) = proj s) (l : List α) (s : State) :
    proj (l.foldl f s) = proj s := by
  induction l generalizing s with
  | nil => rfl
  | cons a t ih => rw [List.foldl_cons, ih, h]

/-! What no task, descriptor, transfer or unit changes as it ends: retirement, owners and switches. -/

/-- The retired rows and banks, the owners of the four kinds of objects, and the switches in progress. -/
def setupOf (s : State) :=
  (s.retireRows, s.retireBanks, s.groupOwner, s.blockOwner, s.barOwner, s.pressOwner, s.switches)

@[simp] theorem setup_mk pending out free variant time elapsed ck nextId boot flash fuses mgmt clk pwr thm log trace bar regions retireRows retireBanks ecc eccTot eccLog ueLog unattrRd unattrWr dram check banks units presses decants scrubQ scrub meterDQ netDQ syncDQ dispDQ tens groupOwner blockOwner barOwner pressOwner switches dispLast dispCk xlat xlatNext fetched fetches active batches hostWrites sync net meterQ violation0C : setupOf (State.mk pending out free variant time elapsed ck nextId boot flash fuses mgmt clk pwr thm log trace bar regions retireRows retireBanks ecc eccTot eccLog ueLog unattrRd unattrWr dram check banks units presses decants scrubQ scrub meterDQ netDQ syncDQ dispDQ tens groupOwner blockOwner barOwner pressOwner switches dispLast dispCk xlat xlatNext fetched fetches active batches hostWrites sync net meterQ violation0C) = (retireRows, retireBanks, groupOwner, blockOwner, barOwner, pressOwner, switches) := rfl

@[simp] theorem setup_fold (s : State) : (s.retireRows, s.retireBanks, s.groupOwner, s.blockOwner, s.barOwner, s.pressOwner, s.switches) = setupOf s := rfl

@[simp] theorem setUnit_setup (s : State) (b : Nat) (u : BankUnit) : setupOf (setUnit s b u) = setupOf s := by
  exact rfl

@[simp] theorem setPress_setup (s : State) (e : Nat) (p : Press) : setupOf (setPress s e p) = setupOf s := by
  exact rfl

@[simp] theorem setDecant_setup (s : State) (e : Nat) (d : Decant) : setupOf (setDecant s e d) = setupOf s := by
  exact rfl

@[simp] theorem setTen_setup (s : State) (t : Nat) (x : Tenancy) : setupOf (setTen s t x) = setupOf s := by
  exact rfl

@[simp] theorem setPeer_setup (s : State) (m : Nat) (p : Peer) : setupOf (setPeer s m p) = setupOf s := by
  exact rfl

@[simp] theorem setKite_setup (s : State) (k : Nat) (x : Option Kite) : setupOf (setKite s k x) = setupOf s := by
  exact rfl

@[simp] theorem modUnit_setup (s : State) (b : Nat) (f : BankUnit → BankUnit) : setupOf (modUnit s b f) = setupOf s := by
  exact rfl

@[simp] theorem modPress_setup (s : State) (e : Nat) (f : Press → Press) : setupOf (modPress s e f) = setupOf s := by
  exact rfl

@[simp] theorem modTen_setup (s : State) (t : Nat) (f : Tenancy → Tenancy) : setupOf (modTen s t f) = setupOf s := by
  exact rfl

@[simp] theorem modPeer_setup (s : State) (m : Nat) (f : Peer → Peer) : setupOf (modPeer s m f) = setupOf s := by
  exact rfl

@[simp] theorem emit_setup (s : State) (o : Output) : setupOf (emit s o) = setupOf s := by
  exact rfl

@[simp] theorem meter_setup (s : State) (t m n p : Nat) : setupOf (meter s t m n p) = setupOf s := by
  exact rfl

@[simp] theorem logAdd_setup (s : State) (lv sr cl nu : Nat) (tag : Option (BitVec 16)) (tn : Option Nat) (d : List Byte) : setupOf (logAdd s lv sr cl nu tag tn d) = setupOf s := by
  exact rfl

@[simp] theorem setProc_setup (s : State) (x : CoreId) (p : Proc) : setupOf (setProc s x p) = setupOf s := by
  cases x <;> rfl

@[simp] theorem modProc_setup (s : State) (x : CoreId) (f : Proc → Proc) : setupOf (modProc s x f) = setupOf s := by
  cases x <;> rfl

@[simp] theorem tracePush_setup (s : State) (r : TraceRec) (g : Bool) : setupOf (tracePush s r g) = setupOf s := by
  simp [setupOf, -setup_fold]

@[simp] theorem traceEv_setup (s : State) (e tn sr : Nat) (tag : BitVec 16) (d st : Nat) : setupOf (traceEv s e tn sr tag d st) = setupOf s := by
  simp [setupOf, -setup_fold]

@[simp] theorem draw_setup (s : State) : setupOf (draw s).2 = setupOf s := by
  simp [draw]

@[simp] theorem newId_setup (s : State) : setupOf (newId s).2 = setupOf s := by
  simp [newId]

@[simp] theorem logAddAt_setup (s : State) (time level source cls num : Nat) (tag : Option (BitVec 16)) (ten : Option Nat) (detail : List Byte) : setupOf (logAddAt s time level source cls num tag ten detail) = setupOf s := by
  simp [logAddAt]

@[simp] theorem ballastAsk_setup (s : State) (a : Admit) : setupOf (ballastAsk s a) = setupOf s := by
  simp [ballastAsk]

@[simp] theorem ballastDrop_setup (s : State) (b : Nat) : setupOf (ballastDrop s b) = setupOf s := by
  simp [ballastDrop]

@[simp] theorem settleRun_setup (s : State) (b : Nat) : setupOf (settleRun s b) = setupOf s := by
  unfold settleRun
  dsimp only
  (repeat' split) <;> simp

@[simp] theorem enterState_setup (s : State) (b : Nat) (st : UnitState) : setupOf (enterState s b st) = setupOf s := by
  simp [enterState]

@[simp] theorem putWord_setup (s : State) (w : Nat) (d : Word) (c : Byte) : setupOf (putWord s w d c) = setupOf s := by
  simp [putWord]

@[simp] theorem countEcc_setup (s : State) (b ce ue pr : Nat) : setupOf (countEcc s b ce ue pr) = setupOf s := by
  simp [countEcc]

@[simp] theorem logEcc_setup (s : State) (rd : Reader) (level num w count : Nat) : setupOf (logEcc s rd level num w count) = setupOf s := by
  simp [logEcc]

@[simp] theorem noteCorrected_setup (s : State) (rd : Reader) (w : Nat) : setupOf (noteCorrected s rd w) = setupOf s := by
  unfold noteCorrected
  dsimp only
  (repeat' split) <;> simp

@[simp] theorem noteUncorrectable_setup (s : State) (rd : Reader) (w : Nat) : setupOf (noteUncorrectable s rd w) = setupOf s := by
  simp [noteUncorrectable, apply_ite setupOf]

@[simp] theorem poisoned_setup (s : State) : setupOf (poisoned s).2 = setupOf s := by
  simp [poisoned]

@[simp] theorem readWord_setup (s : State) (rd : Reader) (w : Nat) : setupOf (readWord s rd w).2 = setupOf s := by
  unfold readWord
  generalize classify _ _ = c
  cases c <;> simp

@[simp] theorem putMarker_setup (s : State) (w : Nat) : setupOf (putMarker s w) = setupOf s := by
  simp [putMarker]

@[simp] theorem writeWord_setup (s : State) (rd : Reader) (w : Nat) (d : Word) (en : Nat) (poison : Bool) : setupOf (writeWord s rd w d en poison).2 = setupOf s := by
  unfold writeWord
  dsimp only
  (repeat' split) <;> simp

@[simp] theorem writeWordsFrom_setup (s : State) (rd : Reader) (w : Nat) (ws : List (Word × Nat × Bool)) :
    setupOf (writeWordsFrom s rd w ws).2 = setupOf s := by
  induction ws generalizing s w with
  | nil => simp [writeWordsFrom]
  | cons a t ih => simp [writeWordsFrom, ih]

@[simp] theorem writeOp_setup (s : State) (rd : Reader) (w : Nat) (ws : List (Word × Nat × Bool)) : setupOf (writeOp s rd w ws) = setupOf s := by
  unfold writeOp
  dsimp only
  (repeat' split) <;> simp

@[simp] theorem settlePort_setup (s : State) (m : Nat) : setupOf (settlePort s m) = setupOf s := by
  simp [settlePort, apply_ite setupOf]

@[simp] theorem putFrame_setup (s : State) (m : Nat) (f : TxFrame) : setupOf (putFrame s m f) = setupOf s := by
  simp [putFrame, apply_ite setupOf]

@[simp] theorem transmit_setup (s : State) (f : TxFrame) : setupOf (transmit s f) = setupOf s := by
  simp [transmit, apply_ite setupOf]

@[simp] theorem pump_setup (fuel : Nat) (s : State) (m : Nat) : setupOf (pump fuel s m) = setupOf s := by
  induction fuel generalizing s with
  | zero => simp [pump]
  | succ k ih =>
    simp only [pump]
    split
    · simp
    · split <;> simp [ih]

@[simp] theorem sendSeq_setup (s : State) (f : TxFrame) : setupOf (sendSeq s f) = setupOf s := by
  simp [sendSeq]

@[simp] theorem sendFlag_setup (s : State) (m ten : Nat) (tag : BitVec 16) (flag op : Nat) (value : Bool) (waiter : Nat) : setupOf (sendFlag s m ten tag flag op value waiter) = setupOf s := by
  simp [sendFlag]

@[simp] theorem hostWriteIssue_setup (s : State) (t : Nat) (kind : HwKind) (addr : Nat) (bytes : List Byte) (poison : List Bool) : setupOf (hostWriteIssue s t kind addr bytes poison) = setupOf s := by
  simp [hostWriteIssue]

@[simp] theorem writeRecord_setup (s : State) (t : Nat) (r : CRec) : setupOf (writeRecord s t r) = setupOf s := by
  simp [writeRecord]

@[simp] theorem loseRecord_setup (s : State) (t : Nat) (r : CRec) : setupOf (loseRecord s t r) = setupOf s := by
  simp [loseRecord, apply_ite setupOf]

@[simp] theorem postRecord_setup (s : State) (t : Nat) (r : CRec) : setupOf (postRecord s t r) = setupOf s := by
  simp [postRecord, apply_ite setupOf]

@[simp] theorem setHeld_setup (s : State) (t : Nat) (l : List CRec) : setupOf (setHeld s t l) = setupOf s := by
  simp [setHeld]

@[simp] theorem settleOne_setup (s : State) (t : Nat) : setupOf (settleOne s t) = setupOf s := by
  unfold settleOne
  split <;> simp

@[simp] theorem settleHeld_setup (n : Nat) (s : State) : setupOf (settleHeld n s) = setupOf s := by
  induction n generalizing s with
  | zero => simp [settleHeld]
  | succ n ih =>
    simp only [settleHeld]
    split <;> simp [ih]

@[simp] theorem settleAll_setup (s : State) : setupOf (settleAll s) = setupOf s := by
  simp [settleAll]

@[simp] theorem logDroppedEvent_setup (s : State) (t type : Nat) (tag : BitVec 16) (payload : List Byte) : setupOf (logDroppedEvent s t type tag payload) = setupOf s := by
  simp [logDroppedEvent]

@[simp] theorem postEventAt_setup (s : State) (time t type : Nat) (tag : BitVec 16) (code : Nat) (payload : List Byte) (irq : Option Nat) : setupOf (postEventAt s time t type tag code payload irq) = setupOf s := by
  simp [postEventAt, apply_ite setupOf]

@[simp] theorem postEvent_setup (s : State) (t type : Nat) (tag : BitVec 16) (code : Nat) (payload : List Byte) (irq : Option Nat) : setupOf (postEvent s t type tag code payload irq) = setupOf s := by
  simp [postEvent]

@[simp] theorem faultRecordAt_setup (s : State) (time t : Nat) (tag : BitVec 16) (st : Status) (payload : List Byte) : setupOf (faultRecordAt s time t tag st payload) = setupOf s := by
  simp [faultRecordAt]

@[simp] theorem logEndAt_setup (s : State) (time t : Nat) (tag : BitVec 16) (st : Status) (acceptance : Bool) (payload : List Byte) : setupOf (logEndAt s time t tag st acceptance payload) = setupOf s := by
  simp [logEndAt, apply_ite setupOf]

@[simp] theorem reportEndAt_setup (s : State) (time t : Nat) (tag : BitVec 16) (st : Status) (payload : List Byte) (fault : Bool) : setupOf (reportEndAt s time t tag st payload fault) = setupOf s := by
  simp [reportEndAt, apply_ite setupOf]

@[simp] theorem reportEnd_setup (s : State) (t : Nat) (tag : BitVec 16) (st : Status) (payload : List Byte) (fault : Bool) : setupOf (reportEnd s t tag st payload fault) = setupOf s := by
  simp [reportEnd]

@[simp] theorem noteEnd_setup (s : State) (x : CoreId) : setupOf (noteEnd s x) = setupOf s := by
  unfold noteEnd
  (repeat' split) <;> simp

@[simp] theorem settleEnd_setup (s : State) (x : CoreId) : setupOf (settleEnd s x) = setupOf s := by
  unfold settleEnd
  (repeat' split) <;> simp

@[simp] theorem noteChange_setup (s : State) (f : Nat) (who : Who) (tag : BitVec 16) (ten op : Nat) : setupOf (noteChange s f who tag ten op) = setupOf s := by
  simp [noteChange]

@[simp] theorem freeKite_setup (s : State) (k : Nat) : setupOf (freeKite s k) = setupOf s := by
  simp [freeKite]

@[simp] theorem wakeCore_setup (s : State) (x : CoreId) : setupOf (wakeCore s x) = setupOf s := by
  unfold wakeCore
  (repeat' split) <;> simp

@[simp] theorem modActive_setup (s : State) (i : Nat) (f : Active → Active) : setupOf (modActive s i f) = setupOf s := by
  simp [modActive]

@[simp] theorem hostKite_setup (s : State) (x : Kite) (k : Nat) : setupOf (hostKite s x k) = setupOf s := by
  simp [hostKite]

@[simp] theorem releaseWatch_setup (s : State) (w : Watch) : setupOf (releaseWatch s w) = setupOf s := by
  unfold releaseWatch
  dsimp only
  (repeat' split) <;> simp

@[simp] theorem releaseAll_setup (s : State) (ws : List Watch) : setupOf (releaseAll s ws) = setupOf s := by
  unfold releaseAll
  exact foldl_keeps setupOf (fun s a => by simp) _ _

@[simp] theorem putFlag_setup (s : State) (f : Nat) (v : Bool) : setupOf (putFlag s f v) = setupOf s := by
  simp [putFlag]

@[simp] theorem homeSet_setup (s : State) (f : Nat) (who : Who) (tag : BitVec 16) (ten : Nat) : setupOf (homeSet s f who tag ten) = setupOf s := by
  unfold homeSet
  dsimp only
  (repeat' split) <;> simp

@[simp] theorem homeClear_setup (s : State) (f : Nat) (who : Who) (tag : BitVec 16) (ten op : Nat) : setupOf (homeClear s f who tag ten op) = setupOf s := by
  simp [homeClear, apply_ite setupOf]

@[simp] theorem replyTo_setup (s : State) (r : Reply) (v : Bool) : setupOf (replyTo s r v) = setupOf s := by
  unfold replyTo
  (repeat' split) <;> simp

@[simp] theorem applyMsg_setup (s : State) (m : FlagMsg) : setupOf (applyMsg s m) = setupOf s := by
  unfold applyMsg
  (repeat' split) <;> simp

@[simp] theorem flushOwn_setup (fuel : Nat) (s : State) (who : Who) (home : Nat) :
    setupOf (flushOwn fuel s who home) = setupOf s := by
  induction fuel generalizing s with
  | zero => simp [flushOwn]
  | succ n ih =>
    simp only [flushOwn]
    split <;> simp [ih]

@[simp] theorem logUnowned_setup (s : State) (src : Nat) (tag : Option (BitVec 16)) (ten f : Nat) : setupOf (logUnowned s src tag ten f) = setupOf s := by
  simp [logUnowned]

@[simp] theorem signalFlag_setup (s : State) (f ten : Nat) (tag : BitVec 16) (who : Who) : setupOf (signalFlag s f ten tag who) = setupOf s := by
  simp [signalFlag, apply_ite setupOf]

@[simp] theorem dropWaits_setup (s : State) (i : Nat) : setupOf (dropWaits s i) = setupOf s := by
  simp [dropWaits]

@[simp] theorem dropCoreWaits_setup (s : State) (x : CoreId) : setupOf (dropCoreWaits s x) = setupOf s := by
  simp [dropCoreWaits]

@[simp] theorem measureLoad_setup (s : State) (a : Active) : setupOf (measureLoad s a) = setupOf s := by
  simp [measureLoad, apply_ite setupOf]

@[simp] theorem finishDesc_setup (s : State) (a : Active) (x : Executor) (st : Status) (detail : Nat) : setupOf (finishDesc s a x st detail) = setupOf s := by
  unfold finishDesc
  dsimp only
  (repeat' split) <;> simp

@[simp] theorem finishPart_setup (s : State) (i : Nat) (x : Executor) (st : Status) (detail : Nat) : setupOf (finishPart s i x st detail) = setupOf s := by
  unfold finishPart
  dsimp only
  (repeat' split) <;> simp

@[simp] theorem setQueue_setup (s : State) (x : Executor) (q : List Nat) : setupOf (setQueue s x q) = setupOf s := by
  unfold setQueue
  (repeat' split) <;> simp

@[simp] theorem withdraw_setup (s : State) (i : Nat) : setupOf (withdraw s i) = setupOf s := by
  unfold withdraw
  simp only [setup_mk, setup_fold]
  exact (foldl_keeps setupOf (fun s a => by split <;> simp) _ _).trans ((foldl_keeps setupOf (fun s a => by split <;> simp) _ _).trans (by simp))

@[simp] theorem settleExec_setup (s : State) (x : Executor) : setupOf (settleExec s x) = setupOf s := by
  unfold settleExec
  split <;> simp

@[simp] theorem endScrub_setup (s : State) (a : Active) (j : ScrubJob) (st : Status) : setupOf (endScrub s a j st) = setupOf s := by
  simp [endScrub]

@[simp] theorem cutScrub_setup (s : State) (a : Active) (st : Status) : setupOf (cutScrub s a st) = setupOf s := by
  simp [cutScrub]

@[simp] theorem dropPart_setup (s : State) (i : Nat) (x : Executor) (st : Status) (info : Nat) : setupOf (dropPart s i x st info) = setupOf s := by
  unfold dropPart
  (repeat' split) <;> simp

@[simp] theorem stopTask_setup (s : State) (x : CoreId) (e : Ending) : setupOf (stopTask s x e) = setupOf s := by
  unfold stopTask
  dsimp only
  (repeat' split) <;> simp

@[simp] theorem traceEnd_setup (s : State) (x : CoreId) (t : Task) (st : Status) : setupOf (traceEnd s x t st) = setupOf s := by
  unfold traceEnd
  (repeat' split) <;> simp

@[simp] theorem cancelTask_setup (s : State) (x : CoreId) (st : Status) (reportFault : Bool) : setupOf (cancelTask s x st reportFault) = setupOf s := by
  unfold cancelTask
  dsimp only
  (repeat' split) <;> simp

@[simp] theorem commitColumn_setup (s : State) (b : Nat) (p : WPair) (c : Nat) : setupOf (commitColumn s b p c) = setupOf s := by
  simp [commitColumn]

@[simp] theorem settlePair_setup (s : State) (b : Nat) (p : WPair) : setupOf (settlePair s b p) = setupOf s := by
  simp [settlePair, apply_ite setupOf]

@[simp] theorem cutLoad_setup (s : State) (x : CoreId) (st : Status) : setupOf (cutLoad s x st) = setupOf s := by
  unfold cutLoad
  dsimp only
  (repeat' split) <;> simp

@[simp] theorem nextSeq_setup (s : State) (t : Nat) : setupOf (nextSeq s t).2 = setupOf s := by
  simp [nextSeq]

@[simp] theorem endEntering_setup (s : State) (x : Executor) (st : Status) : setupOf (endEntering s x st) = setupOf s := by
  unfold endEntering
  exact (foldl_keeps setupOf (fun s a => by simp) _ _).trans (by simp)

@[simp] theorem endCoreWork_setup (s : State) (x : CoreId) (st : Status) : setupOf (endCoreWork s x st) = setupOf s := by
  unfold endCoreWork
  exact (foldl_keeps setupOf (fun s a => by simp) _ _).trans (by simp)

@[simp] theorem drainCancelled_setup (s : State) (b : Nat) : setupOf (drainCancelled s b) = setupOf s := by
  unfold drainCancelled
  simp only [modUnit_setup]
  exact foldl_keeps setupOf (fun s a => by simp) _ _

@[simp] theorem unitOff_setup (s : State) (b : Nat) : setupOf (unitOff s b) = setupOf s := by
  simp [unitOff]

@[simp] theorem reply_setup (s : State) (st : Status) : setupOf (reply s st) = setupOf s := by
  simp [reply]

end Sys2Proof.Machine

end


section
/-! Proofs of the statements of 02_address_map.md: BSTREAM opens (O23), and what a SEND's last beat notes (O26). -/

open Sys2Proof Sys2Proof.Machine Sys2Proof.Safety

namespace Sys2Proof.Machine

/-! An instruction that issues and passes its checks (R174). -/

/-- A core that issues a word of the command's opcode, with its reserved fields clear, runs the instruction. -/
theorem issue_run {s : State} {x : CoreId} {op : Nat} {fields : Word64 → Bool} {run : State → Proc → Word64 → State} (h : issuesOp s x op)
    (hfields : fields (coreWord s x) = true) : issue s x op fields run = run s (procOf s x) (coreWord s x) := by
  obtain ⟨hissue, hinside, hop, -⟩ := h
  unfold issue
  rw [if_pos hissue]
  simp only [coreWord] at hfields ⊢
  simp [hinside, hop, hfields]

/-- An instruction whose control registers are clean and of whose checks none fails goes on. -/
theorem judge_pass {s : State} {x : CoreId} {op : Nat} {regs : List Nat} {checks : List (Nat × Nat)} {go : State} (h : issuesOp s x op)
    (hregs : ∀ r ∈ regs, (rget (procOf s x) r).poison = false) (hchecks : checks = []) : judge s x (procOf s x) regs checks go = go := by
  obtain ⟨-, -, -, hclash⟩ := h
  have hclean : regs.any (fun r => (rget (procOf s x) r).poison) = false := by simpa using hregs
  simp [judge, hclean, hchecks, hclash, leastReason]

/-- A check that does not fail names no REASON. -/
@[simp] theorem failIf_false (reason info : Nat) : failIf false reason info = [] := rfl

/-! The checks of a region (R36). -/

/-- A valid bank-view region of the unit's owner that holds the unit's group serves the unit. -/
theorem unitRegion_serves {s : State} {b n : Nat} (hvalid : (regionOf s n).valid = true) (hbank : (regionOf s n).linear = false)
    (howner : mget none s.groupOwner (b / 16) = some (regionOf s n).owner) (hfirst : (regionOf s n).gFirst ≤ b / 16)
    (hlast : b / 16 < (regionOf s n).gFirst + (regionOf s n).gCount) : unitRegion s b n = none := by
  have h1 : ¬ b / 16 < (regionOf s n).gFirst := by omega
  have h2 : ¬ (regionOf s n).gFirst + (regionOf s n).gCount ≤ b / 16 := by omega
  simp [unitRegion, groupOf, hvalid, hbank, howner, h1, h2]

/-- A signed field is the number that its bits spell in two's complement. -/
theorem signed_eq_toInt {n : Nat} (v : Nat) (hn : 0 < n) : signed n v = (BitVec.ofNat n v).toInt := by
  obtain ⟨k, rfl⟩ : ∃ k, n = k + 1 := ⟨n - 1, by omega⟩
  have hpow : 2 ^ (k + 1) = 2 * 2 ^ k := pow_succ' 2 k
  have hlt : v % 2 ^ (k + 1) < 2 ^ k ↔ 2 * (v % 2 ^ (k + 1)) < 2 ^ (k + 1) := by omega
  unfold signed
  rw [BitVec.toInt_eq_toNat_cond, BitVec.toNat_ofNat, Nat.add_sub_cancel, if_congr hlt rfl rfl]

/-- The low bits of a field's multiple are clear. -/
theorem bits_low_of_mod {w : Nat} {v : BitVec w} {n k : Nat} (hk : k ≤ n) (h : bits v 0 n % 2 ^ k = 0) : bits v 0 k = 0 := by
  unfold bits at h ⊢
  rwa [Nat.mod_mod_of_dvd _ (Nat.pow_dvd_pow 2 hk)] at h

end Sys2Proof.Machine

/-- Settles O23: a word of BSTREAM issues (`issue_run`), its checks pass (`judge_pass`) and its region serves the unit (`unitRegion_serves`). -/
theorem streamOpens : Obligations.StreamOpens := by
  intro b s w r hw hr hissue hfields hstart hcount hscale hfmt halign hstride harray hvalid hlinear howner hfirst hlast
  subst hw hr
  have hserves := unitRegion_serves hvalid hlinear howner hfirst hlast
  show execBstream b s = _
  unfold execBstream
  rw [issue_run hissue (by simp [hfields])]
  dsimp only
  rw [judge_pass hissue]
  · simp only [hserves, signed_eq_toInt _ (show 0 < 32 by decide)]
    rfl
  · rintro r hr
    simp only [List.mem_cons, List.not_mem_nil, or_false] at hr
    obtain rfl | rfl | rfl := hr
    · exact hstart
    · exact hcount
    · exact hscale
  · have hlow := bits_low_of_mod (k := 5) (by decide) hstride
    have hscaleOk : (scaleArray (bits (coreWord s (.unit b)) 52 4) == (rf (coreWord s (.unit b)) 34 == 0)) = false := by
      by_cases hnone : rf (coreWord s (.unit b)) 34 = 0
      · have hnoArray : scaleArray (bits (coreWord s (.unit b)) 52 4) = false := by simpa [hnone] using harray
        simp [hnone, hnoArray]
      · simp [hnone, harray.2 hnone]
    simp only [regAt] at halign
    simp [fmtOk, hfmt, hlow, halign, hscaleOk]

namespace Sys2Proof.Machine

/-- A SEND at its last beat. -/
def sendAtLastBeat : Vec := { word := BitVec.ofNat 64 (0x3C * 2 ^ 56), beat := 0, total := 1 }

/-- A module whose unit 0 runs a task and is at the last beat of a SEND that stands at index 1; its port has held no record yet. -/
def sendingAtOne : State :=
  let task : Task := { id := 1, ten := 9, tag := 7, raw := 0, startE := 0, startT := 0, startCk := 0, polled := false }
  { State.reset with
    units := [(0, { BankUnit.off with st := .running, proc := { Proc.empty with pc := 1, task := some task, vec := some sendAtLastBeat } })] }

/-- The index from which the record at a unit's port was sent, after a command. -/
def sentFromPc (r : Host.Outcome State Fault Refusal) (b : BitVec 12) : Nat := (unitOf (after State.reset r) b.toNat).sendFrom.pc

/-- The unit is ready for the beat. -/
theorem sendingAtOne_ready : beatReady sendingAtOne 0 sendAtLastBeat := by
  unfold beatReady
  decide +kernel

/-- The beat notes where its SEND stands. -/
theorem sentFromPc_vectorBeat : sentFromPc (exec (.vectorBeat 0) sendingAtOne) 0 = 1 := by decide +kernel

/-- A step that gives the record to the press and changes nothing else of the unit but its port and processor notes nothing. -/
theorem sentFromPc_port (s : State) (e ch : Nat) (b : BitVec 12) (port : Option (Nat × Record)) (r : Record) (f : Proc → Proc) :
    sentFromPc (.next (modProc (arrive (modUnit s b.toNat (fun u => { u with port := port })) e ch r) (.unit b) f)) b =
      (unitOf s b.toNat).sendFrom.pc := by
  simp [sentFromPc, modProc, setProc, modUnit, arrive, unitOf, modPress, setUnit, setPress]

end Sys2Proof.Machine

/-- Refutes O26: its last clause says that SEND's last beat leaves the unit as it was but for its port, its beat and its pc; the beat also notes
where the SEND stood (`sendFrom`, for the place in program order of R174). Of a SEND at index 1 whose unit had sent nothing before, the
model's state has `sendFrom.pc` 1 and the clause's state has 0. -/
theorem not_movingInstructionsBegin : ¬ Obligations.MovingInstructionsBegin := by
  intro h
  obtain ⟨-, -, hsend⟩ := h
  obtain ⟨-, hlast⟩ := hsend 0 sendingAtOne sendAtLastBeat sendAtLastBeat.word _ sendingAtOne_ready rfl (by decide) (fun _ => rfl) rfl
  obtain ⟨r, -, -, -, -, -, -, hexec⟩ := hlast (by decide)
  have hmodel := sentFromPc_vectorBeat
  rw [hexec, sentFromPc_port] at hmodel
  exact absurd hmodel (by decide)

end

section
/-! Proofs of the statements of 02_address_map.md: TEN_TAKE, TEN_GIVE and the end of a switch (O38). -/

open Sys2Proof Sys2Proof.Machine Sys2Proof.Safety

namespace Sys2Proof.Machine

/-! The owners of objects, which a switch alone sets (R279). -/

/-- The owner tables: groups, flag blocks, barriers and presses. -/
def ownersOf (s : State) : SMap (Option Nat) × SMap (Option Nat) × SMap (Option Nat) × SMap (Option Nat) :=
  (s.groupOwner, s.blockOwner, s.barOwner, s.pressOwner)

/-- The owner of an object is read from the owner tables. -/
theorem objectOwner_congr {s t : State} (h : ownersOf t = ownersOf s) (kind index : Nat) : objectOwner t kind index = objectOwner s kind index := by
  simp only [ownersOf, Prod.mk.injEq] at h
  obtain ⟨hgroup, hblock, hbar, hpress⟩ := h
  unfold objectOwner
  rw [hgroup, hblock, hbar, hpress]

/-- An owner recorded is the owner read. -/
theorem objectOwner_setOwner (s : State) (kind index : Nat) (o : Option Nat) : objectOwner (setOwner s kind index o) kind index = o := by
  unfold setOwner
  split <;> simp [objectOwner]

/-- The owners are part of what is set up. -/
theorem ownersOf_of_setup {s t : State} (h : setupOf t = setupOf s) : ownersOf t = ownersOf s := by
  simp only [setupOf, Prod.mk.injEq] at h
  obtain ⟨-, -, hgroup, hblock, hbar, hpress, -⟩ := h
  rw [ownersOf, ownersOf, hgroup, hblock, hbar, hpress]

/-! A domain that begins to drain changes nothing that is set up (R372). -/

theorem movePairs_setup (s : State) : setupOf (movePairs s) = setupOf s := by
  refine foldl_keeps _ (fun s m => ?_) _ _
  split
  · exact (foldl_keeps _ (fun s f => putFrame_setup s m _) _ _).trans (settlePort_setup s m)
  · rfl

theorem portDown_setup (s : State) (p : Nat) : setupOf (portDown s p) = setupOf s := by
  unfold portDown
  split
  · exact movePairs_setup _
  · rfl

theorem beginDrain_setup (s : State) (d : Nat) : setupOf (beginDrain s d) = setupOf s := by
  have hmarked : setupOf (markWaits (setDom s d { domOf s d with st := .draining, since := s.elapsed })) = setupOf s :=
    foldl_keeps setupOf (f := markDomainWait) (fun _ _ => rfl) _ _
  unfold beginDrain
  dsimp only
  split
  · exact (portDown_setup _ _).trans hmarked
  · exact hmarked

theorem settleDomain_setup (s : State) (d : Nat) : setupOf (settleDomain s d) = setupOf s := by
  unfold settleDomain
  split
  · exact beginDrain_setup s d
  · rfl

/-! TEN_TAKE and TEN_GIVE (R279, R280). -/

/-- The state in which a block's last TAKE or GIVE is noted. -/
def switchNoted (s : State) (t kind index : Nat) : State := modTen s t (fun x => { x with swKind := kind, swIndex := index })

/-- What is judged of a TAKE or GIVE is not changed by its being noted. -/
theorem switchResult_noted (s : State) (t kind index : Nat) (give : Bool) :
    switchResult (switchNoted s t kind index) t kind index give = switchResult s t kind index give := by
  have henabled : (tenOf (switchNoted s t kind index) t).enabled = (tenOf s t).enabled := by simp [switchNoted, modTen]
  have hcovered : ∀ o, covered (switchNoted s t kind index) kind index o = covered s kind index o := fun _ => rfl
  unfold switchResult
  rw [henabled]
  rfl

/-- Recording an owner leaves the tenancies alone. -/
theorem tenOf_setOwner (s : State) (kind index : Nat) (o : Option Nat) (t : Nat) : tenOf (setOwner s kind index o) t = tenOf s t := by
  unfold setOwner
  split <;> rfl

/-- The state in which a TAKE or GIVE has come to a RESULT at once. -/
def switchEnded (s : State) (t kind index r : Nat) : State :=
  modTen (if r = 0 then setOwner (switchNoted s t kind index) kind index (some t) else switchNoted s t kind index) t
    (fun x => { x with swResult := r })

/-- The state in which a TAKE or GIVE has begun a switch. -/
def switchBegun (s : State) (t kind index : Nat) (give : Bool) (old : Nat) : State :=
  modTen { switchNoted s t kind index with
    switches := s.switches ++ [{ ten := t, kind := kind, index := index, give := give, old := old }] } t (fun x => { x with swBusy := true })

/-- A TAKE or GIVE with a RESULT ends at once. -/
theorem switchWrite_ends {s : State} {t kind index r : Nat} {give : Bool} (value : Nat) (hfree : (tenOf s t).swBusy = false)
    (h : switchResult s t kind index give = some r) : switchWrite s t kind index give value = switchEnded s t kind index r := by
  have hnoted := (switchResult_noted s t kind index give).trans h
  unfold switchNoted at hnoted
  simp only [switchWrite, hfree, Bool.false_eq_true, if_false, hnoted]
  rfl

/-- A TAKE or GIVE without a RESULT begins the switch of its object. -/
theorem switchWrite_begins {s : State} {t kind index : Nat} {give : Bool} (value : Nat) (hfree : (tenOf s t).swBusy = false)
    (h : switchResult s t kind index give = none) :
    switchWrite s t kind index give value = switchBegun s t kind index give ((objectOwner s kind index).getD t) := by
  have hnoted := (switchResult_noted s t kind index give).trans h
  have hold : objectOwner (switchNoted s t kind index) kind index = objectOwner s kind index := objectOwner_congr rfl kind index
  unfold switchNoted at hnoted hold
  simp only [switchWrite, hfree, Bool.false_eq_true, if_false, hnoted, hold]
  rfl

/-- What a block shows of a TAKE or GIVE that has ended, and the owner it leaves. -/
theorem switchEnded_shows (s : State) (t kind index r : Nat) :
    (tenOf (switchEnded s t kind index r) t).swKind = kind ∧ (tenOf (switchEnded s t kind index r) t).swIndex = index ∧
    (tenOf (switchEnded s t kind index r) t).swResult = r ∧ (tenOf (switchEnded s t kind index r) t).swBusy = (tenOf s t).swBusy ∧
    objectOwner (switchEnded s t kind index r) kind index = if r = 0 then some t else objectOwner s kind index := by
  unfold switchEnded
  rw [tenOf_modTen_self]
  by_cases hr : r = 0
  · simp only [hr, if_true, tenOf_setOwner, switchNoted, tenOf_modTen_self, true_and]
    exact objectOwner_setOwner (switchNoted s t kind index) kind index (some t)
  · simp only [hr, if_false, switchNoted, tenOf_modTen_self, true_and]
    exact objectOwner_congr rfl kind index

/-- What a block shows of a switch that has begun. -/
theorem switchBegun_shows (s : State) (t kind index : Nat) (give : Bool) (old : Nat) :
    (tenOf (switchBegun s t kind index give old) t).swKind = kind ∧ (tenOf (switchBegun s t kind index give old) t).swIndex = index ∧
    (tenOf (switchBegun s t kind index give old) t).swBusy = true := by
  have hten : tenOf (switchBegun s t kind index give old) t = { tenOf (switchNoted s t kind index) t with swBusy := true } :=
    tenOf_modTen_self ..
  rw [hten, switchNoted, tenOf_modTen_self]
  exact ⟨rfl, rfl, rfl⟩

/-- Whatever it comes to, the block notes the TAKE or GIVE. -/
theorem switchWrite_notes {s : State} {t : Nat} (kind index : Nat) (give : Bool) (value : Nat) (hfree : (tenOf s t).swBusy = false) :
    (tenOf (switchWrite s t kind index give value) t).swKind = kind ∧ (tenOf (switchWrite s t kind index give value) t).swIndex = index := by
  cases hresult : switchResult s t kind index give with
  | some r =>
    rw [switchWrite_ends value hfree hresult]
    obtain ⟨hkind, hindex, -⟩ := switchEnded_shows s t kind index r
    exact ⟨hkind, hindex⟩
  | none =>
    rw [switchWrite_begins value hfree hresult]
    obtain ⟨hkind, hindex, -⟩ := switchBegun_shows s t kind index give ((objectOwner s kind index).getD t)
    exact ⟨hkind, hindex⟩

/-- A TAKE or GIVE that comes to a RESULT shows it; RESULT 0 alone records an owner. -/
theorem switchWrite_result {s : State} {t kind index r : Nat} {give : Bool} (value : Nat) (hfree : (tenOf s t).swBusy = false)
    (h : switchResult s t kind index give = some r) :
    (tenOf (switchWrite s t kind index give value) t).swResult = r ∧
    objectOwner (switchWrite s t kind index give value) kind index = if r = 0 then some t else objectOwner s kind index := by
  rw [switchWrite_ends value hfree h]
  obtain ⟨-, -, hresult, -, howner⟩ := switchEnded_shows s t kind index r
  exact ⟨hresult, howner⟩

/-- A refused TAKE or GIVE changes no owner. -/
theorem switchWrite_refused {s : State} {t : Nat} (kind index : Nat) (give : Bool) (value : Nat) (hfree : (tenOf s t).swBusy = false)
    (hbusy : (tenOf (switchWrite s t kind index give value) t).swBusy = false)
    (hresult : (tenOf (switchWrite s t kind index give value) t).swResult ≠ 0) :
    objectOwner (switchWrite s t kind index give value) kind index = objectOwner s kind index := by
  cases h : switchResult s t kind index give with
  | some r =>
    obtain ⟨hr, howner⟩ := switchWrite_result value hfree h
    rw [howner, if_neg (hr ▸ hresult)]
  | none =>
    obtain ⟨-, -, hbegun⟩ := switchBegun_shows s t kind index give ((objectOwner s kind index).getD t)
    rw [switchWrite_begins value hfree h, hbegun] at hbusy
    cases hbusy

section
variable {s : State} {t kind index : Nat} {give : Bool}

/-! Table 11.2: the RESULT of a TAKE or GIVE, by the first condition that holds. -/

theorem switchResult_disabled (h : (tenOf s t).enabled = false) : switchResult s t kind index give = some 4 := by
  simp [switchResult, h]

theorem switchResult_badIndex (h : (tenOf s t).enabled = true) (hbad : badIndex s kind index = true) :
    switchResult s t kind index give = some 5 := by
  simp [switchResult, h, hbad]

variable (h : (tenOf s t).enabled = true) (hgood : badIndex s kind index = false)
include h hgood

theorem switchResult_inTransit (htransit : inTransit s kind index = true) : switchResult s t kind index give = some 1 := by
  simp [switchResult, h, hgood, htransit]

variable (hstill : inTransit s kind index = false)
include hstill

/-- A GIVE of an object of another owner, or of none. -/
theorem switchResult_notOwned (howner : objectOwner s kind index ≠ some t) : switchResult s t kind index true = some 3 := by
  simp only [switchResult, h, hgood, hstill]
  cases ho : objectOwner s kind index with
  | none => rfl
  | some o =>
    have hne : o ≠ t := fun he => howner (he ▸ ho)
    simp [hne]

/-- A TAKE of an object of no owner, or of its own. -/
theorem switchResult_free (howner : objectOwner s kind index = none ∨ objectOwner s kind index = some t) :
    switchResult s t kind index false = some 0 := by
  obtain ho | ho := howner <;> simp [switchResult, h, hgood, hstill, ho]

/-- An object that must leave its owner: a covered group is refused, and any other is switched. -/
theorem switchResult_leaves {o : Nat} (howner : objectOwner s kind index = some o) (hmine : give = true ↔ o = t) :
    switchResult s t kind index give = if covered s kind index o then some 2 else none := by
  have hfree : ¬ (!give ∧ o = t) := by cases give <;> simp_all
  have hother : ¬ (give = true ∧ o ≠ t) := fun hn => hn.2 (hmine.1 hn.1)
  simp only [switchResult, h, hgood, hstill, howner, hfree, hother, Bool.not_true, Bool.false_eq_true, if_false]

end

/-- TEN_TAKE and TEN_GIVE are writes of a block's register. -/
theorem exec_switch {ten : BitVec 8} {kind : BitVec 3} {index : BitVec 10} {give : Bool} {s : State} (hlink : s.boot.linkUp = true) :
    exec (if give then .tenGive ten kind index else .tenTake ten kind index) s =
      .next (switchWrite s ten.toNat kind.toNat index.toNat give (kind.toNat + 2 ^ 16 * index.toNat)) := by
  cases give
  · exact next_viaHost _ hlink
  · exact next_viaHost _ hlink

/-! The end of a switch (R282, R284). -/

/-- A key of a part that a table has lost reads as the default. -/
theorem mget_filter_dropped {α : Type} (d : α) (m : SMap α) (keep : Nat → Bool) {k : Nat} (hk : keep k = false) :
    mget d (m.filter (fun e => keep e.1)) k = d := by
  induction m with
  | nil => rfl
  | cons e t ih =>
    obtain ⟨i, v⟩ := e
    by_cases hi : keep i = true
    · have hne : i ≠ k := fun he => by rw [he, hk] at hi; cases hi
      simp [hi, mget, hne, ih]
    · simp [hi, ih]

/-- Every flag of a cleared block reads clear, and no waiter of it is left. -/
theorem clearBlock_clears (s : State) (blk : Nat) :
    (∀ f, f / 256 = blk → flagOf (clearBlock s blk) f = false) ∧ ∀ v ∈ (clearBlock s blk).sync.watches, v.flag / 256 ≠ blk := by
  refine ⟨fun f hf => mget_filter_dropped false _ (fun k => k / 256 != blk) (by simp [hf]), fun v hv => ?_⟩
  obtain ⟨-, hflag⟩ := List.mem_filter.1 hv
  simpa using hflag

/-- An entry in the log leaves the tenancies alone. -/
@[simp] theorem tenOf_logAdd (s : State) (level source cls num : Nat) (tag : Option (BitVec 16)) (ten : Option Nat) (detail : List Byte) (t : Nat) :
    tenOf (logAdd s level source cls num tag ten detail) t = tenOf s t := rfl

/-- The state after an object has been cleared and its new owner recorded. -/
def switchOver (s : State) (t : Nat) (w : Switch) : State :=
  { setOwner (clearObject s w.kind w.index w.old) w.kind w.index (if w.give then none else some t) with
    switches := (setOwner (clearObject s w.kind w.index w.old) w.kind w.index (if w.give then none else some t)).switches.filter (fun v => v != w) }

/-- A switch that ends: its object cleared and its owner recorded, a group's domain settled, RESULT shown, the switch entered in the log. -/
theorem exec_switchDone {ten : BitVec 8} {s : State} {w : Switch} (hw : s.switches.find? (fun v => v.ten == ten.toNat) = some w) :
    ∃ detail, exec (.switchDone ten) s = .next (logAdd (modTen (if w.kind = 0 then settleDomain (switchOver s ten.toNat w) w.index
        else switchOver s ten.toNat w) ten.toNat (fun x => { x with swBusy := false, swResult := 0 }))
      1 (srcNum 0xB (tenReg ten.toNat 0 / 65536)) 0x07 0x01 none (some ten.toNat) detail) := by
  refine ⟨leBytes 1 w.kind ++ leBytes 2 w.index ++ leBytes 1 0, ?_⟩
  show execSwitchDone ten s = _
  simp only [execSwitchDone, hw]
  rfl

end Sys2Proof.Machine

/-- Settles O38: Table 11.2 gives the RESULT of a TAKE or GIVE (`switchResult_…`), a RESULT 0 or the end of a switch records the owner
(`objectOwner_setOwner`), which no domain that settles changes; a cleared block keeps no flag and no waiter (`clearBlock_clears`). -/
theorem objectsChangeOwner : Obligations.ObjectsChangeOwner := by
  refine ⟨fun ten kind index give c s hc hlink hfree => ?_, fun ten s w hw => ?_⟩
  · obtain ⟨hkind, hindex⟩ := switchWrite_notes kind.toNat index.toNat give (kind.toNat + 2 ^ 16 * index.toNat) hfree
    refine ⟨_, hc ▸ exec_switch hlink, hkind, hindex, fun hoff => (switchWrite_result _ hfree (switchResult_disabled hoff)).1,
      fun hon hbad => (switchWrite_result _ hfree (switchResult_badIndex hon hbad)).1, fun hon hgood => ⟨?_, fun hstill => ⟨?_, ?_, ?_⟩⟩,
      switchWrite_refused _ _ _ _ hfree⟩
    · exact fun htransit => (switchWrite_result _ hfree (switchResult_inTransit hon hgood htransit)).1
    · rintro rfl howner
      exact (switchWrite_result _ hfree (switchResult_notOwned hon hgood hstill howner)).1
    · rintro rfl howner
      exact switchWrite_result _ hfree (switchResult_free hon hgood hstill howner)
    · intro o howner hmine
      have hresult := switchResult_leaves hon hgood hstill howner hmine
      refine ⟨fun hcovered => (switchWrite_result _ hfree (hresult.trans (if_pos hcovered))).1, fun hcovered => ?_⟩
      have hnone := hresult.trans (if_neg (by simp [hcovered]))
      rw [switchWrite_begins _ hfree hnone, howner]
      obtain ⟨-, -, hbusy⟩ := switchBegun_shows s ten.toNat kind.toNat index.toNat give o
      exact ⟨hbusy, rfl⟩
  · obtain ⟨detail, hexec⟩ := exec_switchDone hw
    refine ⟨_, hexec, ?_, ?_, ?_, ?_⟩
    · refine (objectOwner_congr (s := switchOver s ten.toNat w) ?_ _ _).trans (objectOwner_setOwner ..)
      show ownersOf (if w.kind = 0 then _ else _) = _
      split
      · exact ownersOf_of_setup (settleDomain_setup _ _)
      · rfl
    · rw [tenOf_logAdd, tenOf_modTen_self]
    · rw [tenOf_logAdd, tenOf_modTen_self]
    · intro hblock
      have hsync : (if w.kind = 0 then settleDomain (switchOver s ten.toNat w) w.index else switchOver s ten.toNat w).sync =
          (clearBlock s w.index).sync := by
        simp [hblock, switchOver, clearObject, setOwner]
      unfold flagOf
      simp only [logAdd_frame, modTen_frame, hsync]
      exact clearBlock_clears s w.index

end

section
/-! Proofs of the statements of 02_address_map.md: region entries, the split and retirement (O45). -/

open Sys2Proof Sys2Proof.Machine Sys2Proof.Safety

namespace Sys2Proof.Machine

/-! The conditions of R32 on a region entry. -/

/-- Spans of bytes that do not intersect lie one after the other. -/
theorem spansMeet_false {a n b m : Nat} : spansMeet a n b m = false ↔ a + n ≤ b ∨ b + m ≤ a := by
  simp only [spansMeet, Bool.and_eq_false_iff, decide_eq_false_iff_not]
  omega

/-- Two CHECKED regions share no byte: they are of different views, or their bytes or groups lie apart. -/
theorem regionsMeet_false {a b : Region} : regionsMeet a b = false ↔ (b.linear = a.linear →
    (a.linear = false → a.gFirst < b.gFirst + b.gCount → b.gFirst < a.gFirst + a.gCount →
      a.base + a.size ≤ b.base ∨ b.base + b.size ≤ a.base) ∧
    (a.linear = true → a.base + a.size ≤ b.base ∨ b.base + b.size ≤ a.base)) := by
  unfold regionsMeet
  cases ha : a.linear <;> cases hb : b.linear <;> simp [spansMeet] <;> omega

/-- No page that another tenancy maps holds a byte of a region. (R288) -/
theorem pageMapped_false {s : State} {r : Region} : pageMapped s r = false ↔
    ∀ e ∈ xlatAll s, e.linear = true → e.ten ≠ r.owner → r.base + r.size ≤ 2 ^ 21 * e.ppage ∨ 2 ^ 21 * (e.ppage + 1) ≤ r.base := by
  simp only [pageMapped, List.any_eq_false, Bool.and_eq_true, bne_iff_ne, not_and, Bool.not_eq_true, spansMeet_false]
  refine forall₂_congr fun e _ => ?_
  rw [and_imp]
  refine forall₂_congr fun _ _ => ?_
  omega

/-- Every group of a range counted from its first. -/
theorem forall_lt_add {p : Nat → Prop} {a n : Nat} : (∀ i < n, p (a + i)) ↔ ∀ g, a ≤ g → g < a + n → p g := by
  refine ⟨fun h g hlow hhigh => ?_, fun h i hi => h _ (Nat.le_add_right a i) (by omega)⟩
  have := h (g - a) (by omega)
  rwa [Nat.add_sub_cancel' hlow] at this

/-- The list of conditions that the model judges holds R32's in order. -/
theorem regionConds_get (s : State) (n : Nat) (r : Region) {k : Nat} (h1 : 1 ≤ k) (h7 : k ≤ 7) :
    ∃ b, (regionConds s n r)[k - 1]? = some b ∧ (b = true ↔ regionCondition s n r k) := by
  interval_cases k <;> refine ⟨_, rfl, ?_⟩ <;> simp only [regionCondition]
  · simp
  · simp only [Bool.and_eq_true, decide_eq_true_eq]
    tauto
  · cases r.xlat <;> cases r.linear <;> simp
  · cases r.xlat <;> cases r.linear <;> simp
  · rw [← forall_lt_add]
    cases r.linear <;> simp [groupUsable, ownsGroup]
  · cases r.ring <;> simp
  · cases r.xlat
    · have hpage : (!(r.linear && pageMapped s r)) = true ↔ (r.linear = true → pageMapped s r = false) := by cases r.linear <;> simp
      rw [Bool.false_or, Bool.and_eq_true, hpage, pageMapped_false]
      simp [-List.any_eq_true, List.any_eq_false, regionsMeet_false]
    · simp

/-- With every condition met no fault is found. -/
theorem regionFault_none {s : State} {n : Nat} {r : Region} (h : ∀ k, 1 ≤ k → k ≤ 7 → regionCondition s n r k) : regionFault s n r = none := by
  have hall : ∀ i < 7, (regionConds s n r)[i]? = some true := fun i hi => by
    obtain ⟨b, hget, hb⟩ := regionConds_get s n r (Nat.le_add_left 1 i) (by omega)
    rw [hb.2 (h _ (by omega) (by omega))] at hget
    exact hget
  unfold regionFault
  rw [List.find?_eq_none.2, Option.map_none]
  rintro ⟨b, i⟩ he
  have hget := List.mk_mem_zipIdx_iff_getElem?.1 he
  have hi : i < 7 := (List.getElem?_eq_some_iff.1 hget).1
  rw [hall i hi, Option.some.injEq] at hget
  simp [← hget]

/-- The first condition that fails is the fault found. -/
theorem regionFault_first {s : State} {n c : Nat} {r : Region} (h1 : 1 ≤ c) (h7 : c ≤ 7)
    (hbefore : ∀ k, 1 ≤ k → k < c → regionCondition s n r k) (hfails : ¬ regionCondition s n r c) : regionFault s n r = some c := by
  obtain ⟨b, hget, hb⟩ := regionConds_get s n r h1 h7
  have hfalse : b = false := Bool.eq_false_iff.2 fun hn => hfails (hb.1 hn)
  subst hfalse
  obtain ⟨hlt, hat⟩ := List.getElem?_eq_some_iff.1 hget
  have hfind : (regionConds s n r).zipIdx.find? (fun e => !e.1) = some (false, c - 1) := by
    rw [List.find?_eq_some_iff_getElem]
    refine ⟨rfl, c - 1, by simpa using hlt, by simp [hat], fun j hj => ?_⟩
    obtain ⟨b', hget', hb'⟩ := regionConds_get s n r (Nat.le_add_left 1 j) (by omega)
    obtain ⟨_, hat'⟩ := List.getElem?_eq_some_iff.1 hget'
    have htrue := hb'.2 (hbefore (j + 1) (by omega) (by omega))
    simp only [Nat.add_sub_cancel] at hat'
    simp [hat', htrue]
  rw [regionFault, hfind]
  simp only [Option.map_some]
  congr 1
  omega

/-- R32 judges an entry by the other entries, not by what the entry itself held. -/
theorem regionCondition_setRegion (s : State) (n : Nat) (r q : Region) (k : Nat) :
    regionCondition (setRegion s n q) n r k ↔ regionCondition s n r k := by
  have hother : ∀ m, m ≠ n → regionOf (setRegion s n q) m = regionOf s m := fun m hm => by rw [regionOf_setRegion, if_neg hm]
  unfold regionCondition
  split
  case h_7 =>
    refine imp_congr_right fun _ => and_congr (forall₂_congr fun m _ => imp_congr_right fun hm => ?_) Iff.rfl
    rw [hother m hm]
  all_goals exact Iff.rfl

/-! RGN_CTRL (R32, R33, R445). -/

/-- A bit above bit 0 is the same with bit 0 set. -/
theorem bit_or_one (v : Word64) {i : Nat} (hi : 0 < i) : bit (v ||| 1) i = bit v i := by
  have hone : (1#64).getLsbD i = false := by simp [BitVec.getLsbD_one]; omega
  simp only [bit, BitVec.testBit_toNat, BitVec.getLsbD_or]
  rw [show (1 : Word64) = 1#64 from rfl, hone, Bool.or_false]

/-- A bit above bit 0 is the same with bit 0 clear. -/
theorem bit_and_not_one (v : Word64) {i : Nat} (hi : 0 < i) : bit (v &&& ~~~1) i = bit v i := by
  have hone : (1#64).getLsbD i = false := by simp [BitVec.getLsbD_one]; omega
  simp only [bit, BitVec.testBit_toNat, BitVec.getLsbD_and, BitVec.getLsbD_not]
  rw [show (1 : Word64) = 1#64 from rfl, hone]
  by_cases h : i < 64
  · simp [h]
  · simp [h, BitVec.getLsbD_of_ge v i (by omega)]

theorem bit_zero_or_one (v : Word64) : bit (v ||| 1) 0 = true := by
  simp [bit]

theorem bit_zero_and_not_one (v : Word64) : bit (v &&& ~~~1) 0 = false := by
  simp [bit]

/-- A field above bit 0 is the same whatever bit 0 is. -/
theorem bits_congr {v w : Word64} {lo n : Nat} (h : ∀ i, lo ≤ i → bit v i = bit w i) : bits v lo n = bits w lo n := by
  refine Nat.eq_of_testBit_eq fun i => ?_
  rw [testBit_bits, testBit_bits, h _ (Nat.le_add_right lo i)]

/-- The fields of RGN_CTRL lie above bit 0. -/
theorem ctrlFields_congr (r : Region) {v w : Word64} (h : ∀ i, 0 < i → bit v i = bit w i) : ctrlFields r v = ctrlFields r w := by
  have hfield : ∀ lo n, 0 < lo → bits v lo n = bits w lo n := fun lo n hlo => bits_congr fun i hi => h i (by omega)
  simp only [ctrlFields, h _ (show 0 < 2 by decide), h _ (show 0 < 3 by decide), h _ (show 0 < 4 by decide), hfield _ _ (show 0 < 8 by decide),
    hfield _ _ (show 0 < 16 by decide), hfield _ _ (show 0 < 32 by decide)]

/-- A write of RGN_CTRL to a valid entry that would keep it valid, or to one in use, is dropped. (R33) -/
theorem writeRegionCtrl_dropped {s : State} {n : Nat} {v : Word64} (hvalid : (regionOf s n).valid = true)
    (h : bit v 0 = true ∨ regionBusy s n = true) : writeRegionCtrl s n v = logSetup s 2 0x04 (rgnReg n 0) none v.toNat := by
  have hor : (bit v 0 || regionBusy s n) = true := by simpa using h
  simp [writeRegionCtrl, hvalid, hor]

/-- A valid entry that is not in use is cleared. (R33) -/
theorem writeRegionCtrl_cleared {s : State} {n : Nat} {v : Word64} (hvalid : (regionOf s n).valid = true) (hbit : bit v 0 = false)
    (hidle : regionBusy s n = false) : writeRegionCtrl s n v = setRegion s n { regionOf s n with valid := false } := by
  simp [writeRegionCtrl, hvalid, hbit, hidle]

/-- A GROUP_COUNT of 0 or above 256 drops the write. (R445) -/
theorem writeRegionCtrl_badCount {s : State} {n : Nat} {v : Word64} (hvalid : (regionOf s n).valid = false)
    (hcount : bits v 32 9 = 0 ∨ 256 < bits v 32 9) : writeRegionCtrl s n v = logSetup s 2 0x04 (rgnReg n 0) none v.toNat := by
  simp [writeRegionCtrl, hvalid, hcount]

section
variable {s : State} {n : Nat} {v : Word64} (hvalid : (regionOf s n).valid = false) (hlow : 1 ≤ bits v 32 9) (hhigh : bits v 32 9 ≤ 256)
include hvalid hlow hhigh

/-- A write that leaves an entry invalid stores its fields. (R445) -/
theorem writeRegionCtrl_stores (hbit : bit v 0 = false) : writeRegionCtrl s n v = setRegion s n (ctrlFields (regionOf s n) v) := by
  have hcount : ¬ (bits v 32 9 = 0 ∨ 256 < bits v 32 9) := by omega
  simp [writeRegionCtrl, hvalid, hcount, hbit]

/-- An entry that meets the conditions becomes valid. (R32) -/
theorem writeRegionCtrl_valid (hbit : bit v 0 = true)
    (h : ∀ k, 1 ≤ k → k ≤ 7 → regionCondition s n (ctrlFields (regionOf s n) v) k) :
    writeRegionCtrl s n v =
      setRegion (setRegion s n (ctrlFields (regionOf s n) v)) n { ctrlFields (regionOf s n) v with valid := true, oobRd := 0, oobWr := 0 } := by
  have hcount : ¬ (bits v 32 9 = 0 ∨ 256 < bits v 32 9) := by omega
  have hfault := regionFault_none fun k h1 h7 => (regionCondition_setRegion s n _ (ctrlFields (regionOf s n) v) k).2 (h k h1 h7)
  simp [writeRegionCtrl, hvalid, hcount, hbit, hfault]

/-- An entry that fails a condition stores its fields, and the first that it fails is entered in the log. (R32) -/
theorem writeRegionCtrl_fails {c : Nat} (hbit : bit v 0 = true) (h1 : 1 ≤ c) (h7 : c ≤ 7)
    (hbefore : ∀ k, 1 ≤ k → k < c → regionCondition s n (ctrlFields (regionOf s n) v) k)
    (hfails : ¬ regionCondition s n (ctrlFields (regionOf s n) v) c) :
    writeRegionCtrl s n v = logAdd (setRegion s n (ctrlFields (regionOf s n) v)) 2 (srcNum 0xB (rgnReg n 0 / 65536)) 0x03 0x03 none none
      (leBytes 4 (rgnReg n 0) ++ leBytes 1 c) := by
  have hcount : ¬ (bits v 32 9 = 0 ∨ 256 < bits v 32 9) := by omega
  have hfault := regionFault_first h1 h7
    (fun k h1 hk => (regionCondition_setRegion s n _ (ctrlFields (regionOf s n) v) k).2 (hbefore k h1 hk))
    (fun hn => hfails ((regionCondition_setRegion s n _ (ctrlFields (regionOf s n) v) c).1 hn))
  simp [writeRegionCtrl, hvalid, hcount, hbit, hfault]

end

/-- An entry of class 0x03 that a dropped write makes. -/
theorem logSetup_entered (s : State) (level num off : Nat) (ten : Option Nat) (value : Nat) :
    (logSetup s level num off ten value).log.next = (s.log.next + 1) % 2 ^ 32 ∧ entered s (logSetup s level num off ten value) 3 num := by
  obtain ⟨hnext, hentry⟩ := logAdd_taken level (srcNum 0xB (off / 65536)) num none ten (leBytes 4 off ++ leBytes 8 value)
    (takes_of_class s.log s.ck (cls := 3) (by decide) (by decide))
  exact ⟨hnext, _, hentry, rfl, rfl⟩

/-! RGN_LINEAR_SPLIT (R26). -/

/-- With nothing allocated the split takes the value. -/
theorem writeSplit_free {s : State} {v : Nat} (hv : v ≤ 32) (hregions : ∀ e ∈ s.regions, e.2.valid = false)
    (howners : ∀ e ∈ s.groupOwner, e.2 = none) (hxlat : xlatAll s = []) : writeSplit s v = setReg s 0x100000 (BitVec.ofNat 64 v) := by
  have hfree : (s.regions.any (fun e => e.2.valid) || s.groupOwner.any (fun e => e.2.isSome) || !(xlatAll s).isEmpty) = false := by
    simp only [Bool.or_eq_false_iff, List.any_eq_false, hxlat]
    exact ⟨⟨fun e he => by simp [hregions e he], fun e he => by simp [howners e he]⟩, rfl⟩
  simp only [writeSplit, hfree]
  simp [hv]

/-- A value out of range, or anything allocated, drops the write with an entry. -/
theorem writeSplit_refused {s : State} {v : Nat} (h : 32 < v ∨ (∃ e ∈ s.regions, e.2.valid = true) ∨ (∃ e ∈ s.groupOwner, e.2.isSome = true) ∨
    xlatAll s ≠ []) : writeSplit s v = logSetup s 2 0x02 0x100000 none v := by
  refine if_pos ?_
  simpa only [Bool.or_eq_true, List.any_eq_true, Bool.not_eq_true', List.isEmpty_eq_false_iff, or_assoc] using h

/-! Retirement of banks (R355, R357, R446). -/

/-- Which banks are retired is part of what is set up. -/
theorem bankRetired_of_setup {s t : State} (h : setupOf t = setupOf s) (b : Nat) : bankRetired t b = bankRetired s b := by
  simp only [setupOf, Prod.mk.injEq] at h
  rw [bankRetired, bankRetired, h.2.1]

/-- The owners of the groups are part of what is set up. -/
theorem groupOwner_of_setup {s t : State} (h : setupOf t = setupOf s) : t.groupOwner = s.groupOwner := by
  simp only [setupOf, Prod.mk.injEq] at h
  exact h.2.2.1

/-- The bits of the banks with one of them written. -/
theorem bankRetired_mset (s : State) (b c : Nat) (x : Bool) :
    bankRetired { s with retireBanks := mset false s.retireBanks b x } c = if c = b then x else bankRetired s c :=
  mget_mset ..

/-- Retiring a bank ends what its unit was at, and sets its bit. -/
theorem retireUnit_eq (s : State) (b : Nat) : ∃ t, setupOf t = setupOf s ∧
    retireUnit s b = { t with retireBanks := mset false t.retireBanks b true } := by
  refine ⟨_, ?_, rfl⟩
  simp

theorem retireUnit_bits (s : State) (b c : Nat) : bankRetired (retireUnit s b) c = if c = b then true else bankRetired s c := by
  obtain ⟨t, ht, hr⟩ := retireUnit_eq s b
  rw [hr, bankRetired_mset, bankRetired_of_setup ht]

theorem retireUnit_groupOwner (s : State) (b : Nat) : (retireUnit s b).groupOwner = s.groupOwner := by
  obtain ⟨t, ht, hr⟩ := retireUnit_eq s b
  rw [hr]
  exact (groupOwner_of_setup ht : t.groupOwner = s.groupOwner)

/-- Returning a bank clears its bit. -/
theorem returnUnit_bits (s : State) (b c : Nat) : bankRetired (returnUnit s b) c = if c = b then false else bankRetired s c := by
  rw [← bankRetired_mset]
  unfold returnUnit
  dsimp only
  split <;> rfl

theorem returnUnit_groupOwner (s : State) (b : Nat) : (returnUnit s b).groupOwner = s.groupOwner := by
  unfold returnUnit
  dsimp only
  split <;> rfl

/-- What a write of RGN_RETIRE_BANKw makes of its bit i. (R446) -/
def bankBitAfter (s : State) (w i : Nat) (v : Word64) : Bool :=
  bit v i || (bankRetired s (64 * w + i) && (mget none s.groupOwner (groupOf (64 * w + i))).isSome)

theorem writeBankBit_groupOwner (s : State) (w i : Nat) (v : Word64) : (writeBankBit s w i v).groupOwner = s.groupOwner := by
  unfold writeBankBit
  dsimp only
  split
  · exact retireUnit_groupOwner ..
  · split
    · exact returnUnit_groupOwner ..
    · rfl

/-- The write of one bit changes the bit of its bank alone. -/
theorem writeBankBit_bits (s : State) (w i c : Nat) (v : Word64) :
    bankRetired (writeBankBit s w i v) c = if c = 64 * w + i then bankBitAfter s w i v else bankRetired s c := by
  unfold writeBankBit
  dsimp only
  split
  case isTrue hset =>
    rw [retireUnit_bits]
    simp only [Bool.and_eq_true] at hset
    simp [bankBitAfter, hset.1]
  case isFalse hset =>
    split
    case isTrue hclear =>
      rw [returnUnit_bits]
      have hnew : bankBitAfter s w i v = false := by
        simp only [clearRefused, Bool.and_eq_true, Bool.not_eq_true'] at hclear
        obtain ⟨⟨hbit, hretired⟩, hfree⟩ := hclear
        rw [hbit, hretired] at hfree
        rw [bankBitAfter, hbit, hretired]
        exact hfree
      rw [hnew]
    case isFalse hclear =>
      have hnew : bankBitAfter s w i v = bankRetired s (64 * w + i) := by
        unfold bankBitAfter
        unfold clearRefused at hclear
        cases hbit : bit v i <;> cases hretired : bankRetired s (64 * w + i) <;> simp [hbit, hretired] at hset hclear ⊢
        exact Option.isSome_iff_ne_none.2 hclear
      split
      case isTrue hc => rw [hc, hnew]
      case isFalse => rfl

/-- The bits of the first n banks of a register, written one after the other. -/
theorem writeBankBits_bits (s : State) (w : Nat) (v : Word64) (n : Nat) :
    ((List.range n).foldl (fun s i => writeBankBit s w i v) s).groupOwner = s.groupOwner ∧
    (∀ i, n ≤ i → bankRetired ((List.range n).foldl (fun s i => writeBankBit s w i v) s) (64 * w + i) = bankRetired s (64 * w + i)) ∧
    (∀ i < n, bankRetired ((List.range n).foldl (fun s i => writeBankBit s w i v) s) (64 * w + i) = bankBitAfter s w i v) := by
  induction n with
  | zero => exact ⟨rfl, fun _ _ => rfl, fun i hi => absurd hi (Nat.not_lt_zero i)⟩
  | succ n ih =>
    obtain ⟨howner, hrest, hdone⟩ := ih
    rw [List.range_succ, List.foldl_append, List.foldl_cons, List.foldl_nil]
    refine ⟨(writeBankBit_groupOwner ..).trans howner, fun i hi => ?_, fun i hi => ?_⟩
    · rw [writeBankBit_bits, if_neg (by omega), hrest i (by omega)]
    · rw [writeBankBit_bits]
      by_cases hn : i = n
      · subst hn
        rw [if_pos rfl, bankBitAfter, howner, hrest i (Nat.le_refl i), bankBitAfter]
      · rw [if_neg (by omega), hdone i (by omega)]

/-- The bits of RGN_RETIRE_BANKw after a write. (R446) -/
theorem writeRetireBank_bits (s : State) (w : Nat) (v : Word64) {i : Nat} (hi : i < 64) :
    bankRetired (writeRetireBank s w v) (64 * w + i) = bankBitAfter s w i v := by
  obtain ⟨-, -, hdone⟩ := writeBankBits_bits s w v 64
  rw [← hdone i hi]
  unfold writeRetireBank
  dsimp only
  split <;> split <;> rfl

end Sys2Proof.Machine

/-- Settles O45: a region entry is judged by R32's conditions in order, and each bit of a retirement register goes to its own bank. -/
theorem regionsAndRetirement : Obligations.RegionsAndRetirement := by
  refine ⟨fun n v s r hlink hr => ?_, fun v s hlink => ?_, fun r v s hlink => ?_, fun w v s hlink => ?_⟩
  · subst hr
    have hset : ∀ i, 0 < i → bit (v ||| 1) i = bit v i := fun i => bit_or_one v
    have hclear : ∀ i, 0 < i → bit (v &&& ~~~1) i = bit v i := fun i => bit_and_not_one v
    have hcountSet : bits (v ||| 1) 32 9 = bits v 32 9 := bits_congr fun i hi => hset i (by omega)
    have hcountClear : bits (v &&& ~~~1) 32 9 = bits v 32 9 := bits_congr fun i hi => hclear i (by omega)
    have hvalidate : exec (.regionValidate n v) s = .next (writeRegionCtrl s n.toNat (v ||| 1)) := next_viaHost _ hlink
    have hinvalidate : exec (.regionInvalidate n v) s = .next (writeRegionCtrl s n.toNat (v &&& ~~~1)) := next_viaHost _ hlink
    have hvalidBit : bit (v ||| 1) 0 = true := bit_zero_or_one v
    have hinvalidBit : bit (v &&& ~~~1) 0 = false := bit_zero_and_not_one v
    rw [hvalidate, hinvalidate]
    refine ⟨fun hvalid hlow hhigh => ⟨fun hconds => ?_, fun c h1 h7 hbefore hfails => ?_⟩, fun hvalid hlow hhigh => ?_, fun hvalid hcount c hc => ?_, fun hvalid => ?_,
      fun hvalid hidle => ?_, fun hvalid hbusy => ?_⟩
    · rw [writeRegionCtrl_valid hvalid (hcountSet ▸ hlow) (hcountSet ▸ hhigh) hvalidBit hconds]
      exact ⟨_, rfl, by simp, fun m hm => by simp [hm]⟩
    · rw [writeRegionCtrl_fails hvalid (hcountSet ▸ hlow) (hcountSet ▸ hhigh) hvalidBit h1 h7 hbefore hfails]
      obtain ⟨-, hentry⟩ := logAdd_taken (s := setRegion s n.toNat (ctrlFields (regionOf s n.toNat) (v ||| 1))) 2
        (srcNum 0xB (rgnReg n.toNat 0 / 65536)) 0x03 none none
        (leBytes 4 (rgnReg n.toNat 0) ++ leBytes 1 c) (takes_of_class s.log s.ck (cls := 3) (by decide) (by decide))
      exact ⟨_, _, rfl, (regionOf_setRegion ..).trans (if_pos rfl), hvalid, hentry, rfl, rfl, rfl⟩
    · rw [writeRegionCtrl_stores hvalid (hcountClear ▸ hlow) (hcountClear ▸ hhigh) hinvalidBit, ctrlFields_congr _ hclear]
    · have hdropped : ∃ t, exec c s = .next t ∧ ∃ x, t = logSetup s 2 0x04 (rgnReg n.toNat 0) none x := by
        simp only [List.mem_cons, List.not_mem_nil, or_false] at hc
        rcases hc with rfl | rfl
        · exact ⟨_, hvalidate, _, writeRegionCtrl_badCount hvalid (hcountSet ▸ hcount)⟩
        · exact ⟨_, hinvalidate, _, writeRegionCtrl_badCount hvalid (hcountClear ▸ hcount)⟩
      obtain ⟨t, hexec, x, rfl⟩ := hdropped
      exact ⟨_, hexec, rfl, logSetup_entered ..⟩
    · rw [writeRegionCtrl_dropped hvalid (.inl hvalidBit)]
      exact ⟨_, rfl, rfl, (logSetup_entered ..).1⟩
    · rw [writeRegionCtrl_cleared hvalid hinvalidBit hidle]
    · rw [writeRegionCtrl_dropped hvalid (.inr hbusy)]
      exact ⟨_, rfl, rfl, (logSetup_entered ..).1⟩
  · refine ⟨fun hv hregions howners hxlat => ?_, fun hrefused => ?_, ?_⟩
    · have hsmall : v.toNat < 2 ^ 6 := v.isLt
      refine ⟨_, next_viaHost _ hlink, ?_⟩
      rw [writeSplit_free hv hregions howners hxlat]
      rw [split, reg_setReg, if_pos rfl, bits_ofNat _ _ _ (by decide), Nat.pow_zero, Nat.div_one, Nat.mod_eq_of_lt hsmall]
    · refine ⟨_, next_viaHost _ hlink, ?_⟩
      rw [writeSplit_refused hrefused]
      exact ⟨rfl, (logSetup_entered ..).1⟩
    · exact ⟨_, next_viaHost _ hlink, fun b => by rw [clearEcc, mget_mset]⟩
  · obtain ⟨-, e, hentry, hclass⟩ := logSetup_entered { s with retireRows := mset 0 s.retireRows r.toNat (v &&& 0x00007FFF0FFF0001) } 1 0x08
      (0x102000 + 8 * r.toNat) none v.toNat
    exact ⟨_, e, next_viaHost _ hlink, fun k => mget_mset .., hentry, hclass⟩
  · exact ⟨_, next_viaHost _ hlink, fun i hi => writeRetireBank_bits s w.toNat v hi⟩

end

section
/-! Stored words: what a word reads as, and what a write operation leaves of each (R336 to R345). -/

open Sys2Proof Sys2Proof.Machine Sys2Proof.Safety

namespace Sys2Proof.Machine

/-! Bytes of a number, and runs of consecutive keys of a table. -/

/-- A number spelled in n bytes has n of them. -/
theorem length_leBytes (n v : Nat) : (leBytes n v).length = n := by
  induction n generalizing v with
  | zero => rfl
  | succ n ih => simp [leBytes, ih]

/-- The bytes of a number spell it again, cut to their length. -/
theorem leNat_leBytes (n v : Nat) : leNat (leBytes n v) = v % 256 ^ n := by
  induction n generalizing v with
  | zero => simp [leBytes, leNat, Nat.mod_one]
  | succ n ih => simp [leBytes, leNat, ih, Nat.pow_succ', Nat.mod_mul]

/-- Bytes spell a number below 256 to their count. -/
theorem leNat_lt (bs : List Byte) : leNat bs < 256 ^ bs.length := by
  induction bs with
  | nil => decide
  | cons b t ih =>
    have hb : b.toNat < 256 := b.isLt
    rw [leNat, List.length_cons, Nat.pow_succ']
    omega

/-- The bytes of the number that bytes spell are those bytes. -/
theorem leBytes_leNat (bs : List Byte) : leBytes bs.length (leNat bs) = bs := by
  induction bs with
  | nil => rfl
  | cons b t ih =>
    have hb : b.toNat < 256 := b.isLt
    have hdiv : (b.toNat + 256 * leNat t) / 256 = leNat t := by omega
    rw [List.length_cons, leNat, leBytes, hdiv, ih]
    congr 1
    refine BitVec.eq_of_toNat_eq ?_
    rw [BitVec.toNat_ofNat]
    omega

/-- The bytes of a number one by one. -/
theorem leBytes_eq_map (n v : Nat) : leBytes n v = (List.range n).map (fun i => BitVec.ofNat 8 (v / 256 ^ i)) := by
  induction n generalizing v with
  | zero => rfl
  | succ n ih =>
    rw [leBytes, ih, List.range_succ_eq_map, List.map_cons, List.map_map, Nat.pow_zero, Nat.div_one]
    congr 2
    funext i
    rw [Function.comp, Nat.div_div_eq_div_mul, Nat.pow_succ']

section
variable {α : Type} [DecidableEq α]

/-- A read of one key after a write of consecutive ones. -/
theorem mget_msetAll (d : α) (m : SMap α) (k : Nat) (vs : List α) (j : Nat) :
    mget d (msetAll d m k vs) j = if k ≤ j ∧ j < k + vs.length then vs.getD (j - k) d else mget d m j := by
  induction vs generalizing m k with
  | nil =>
    rw [if_neg (by simp), msetAll]
  | cons v t ih =>
    rw [msetAll, ih, mget_mset]
    by_cases hj : j = k
    · simp [hj]
    · by_cases hin : k + 1 ≤ j ∧ j < k + 1 + t.length
      · rw [if_pos hin, if_pos (by rw [List.length_cons]; omega), show j - k = j - (k + 1) + 1 by omega, List.getD_cons_succ]
      · rw [if_neg hin, if_neg hj, if_neg (by rw [List.length_cons]; omega)]

/-- A run of keys written reads as what was written. -/
theorem mgetAll_msetAll_self (d : α) (m : SMap α) (k : Nat) (vs : List α) : mgetAll d (msetAll d m k vs) k vs.length = vs := by
  refine List.ext_getElem (by simp [mgetAll]) fun i hi hi' => ?_
  simp [mgetAll, mget_msetAll, hi']

/-- A run of keys apart from those written reads as before. -/
theorem mgetAll_msetAll_apart (d : α) (m : SMap α) (k : Nat) (vs : List α) {j n : Nat} (h : j + n ≤ k ∨ k + vs.length ≤ j) :
    mgetAll d (msetAll d m k vs) j n = mgetAll d m j n := by
  refine List.map_congr_left fun i hi => ?_
  have hin : i < n := List.mem_range.1 hi
  rw [mget_msetAll, if_neg (by omega)]

end

/-- A run of keys within a longer one. -/
theorem mgetAll_drop_take {α : Type} (d : α) (m : SMap α) {k n i l : Nat} (h : i + l ≤ n) :
    ((mgetAll d m k n).drop i).take l = mgetAll d m (k + i) l := by
  refine List.ext_getElem (by simp [mgetAll]; omega) fun j hj hj' => ?_
  simp [mgetAll, Nat.add_assoc]

/-- A run of keys is made of runs of equal length. -/
theorem mgetAll_mul {α : Type} (d : α) (m : SMap α) (k n c : Nat) :
    (List.range n).flatMap (fun i => mgetAll d m (k + c * i) c) = mgetAll d m k (c * n) := by
  induction n with
  | zero => rfl
  | succ n ih =>
    rw [List.range_succ, List.flatMap_append, ih, Nat.mul_succ]
    simp only [mgetAll, List.range_add, List.map_append, List.map_map, List.flatMap_cons, List.flatMap_nil, List.append_nil]
    congr 1
    simp [Function.comp_def, Nat.add_assoc]

/-! Stored words and their check bytes (R336, R337). -/

/-- The two parts of the memory. -/
theorem dram_of_mem {s t : State} (h : memOf t = memOf s) : t.dram = s.dram ∧ t.check = s.check := Prod.mk.inj h

/-- What a stored word reads as rests on the stored data and check bytes alone. -/
theorem stored_of_mem {s t : State} (h : memOf t = memOf s) (w : Nat) :
    dramWord t w = dramWord s w ∧ dramCheck t w = dramCheck s w ∧ readsAs t w = readsAs s w := by
  obtain ⟨hdram, hcheck⟩ := dram_of_mem h
  have hword : dramWord t w = dramWord s w := by rw [dramWord, dramWord, hdram]
  have hbyte : dramCheck t w = dramCheck s w := by rw [dramCheck, dramCheck, hcheck]
  exact ⟨hword, hbyte, by unfold readsAs; rw [hword, hbyte]⟩

/-- A step that keeps the memory keeps every word. -/
theorem wordKept_of_mem {s t : State} (h : memOf t = memOf s) (w : Nat) : wordKept s t w :=
  ⟨(stored_of_mem h w).1, (stored_of_mem h w).2.1⟩

/-- A word kept by two steps is kept by both. -/
theorem wordKept_trans {s t u : State} {w : Nat} (h : wordKept s t w) (h' : wordKept t u w) : wordKept s u w :=
  ⟨h'.1.trans h.1, h'.2.trans h.2⟩

/-- A word that is kept reads as before. -/
theorem readsAs_of_wordKept {s t : State} {w : Nat} (h : wordKept s t w) : readsAs t w = readsAs s w := by
  unfold readsAs
  rw [h.1, h.2]

/-- A word put is stored with its check byte, and every other word stays. -/
theorem dramWord_putWord (s : State) (w : Nat) (d : Word) (c : Byte) (j : Nat) :
    dramWord (putWord s w d c) j = if j = w then d else dramWord s j := by
  unfold dramWord
  simp only [putWord]
  split
  case isTrue hj =>
    have hbytes := mgetAll_msetAll_self 0 s.dram (4 * w) (leBytes 4 d.toNat)
    rw [length_leBytes] at hbytes
    rw [hj, hbytes, leNat_leBytes, show 256 ^ 4 = 2 ^ 32 from rfl, Nat.mod_eq_of_lt d.isLt, BitVec.ofNat_toNat, BitVec.setWidth_eq]
  case isFalse hj => rw [mgetAll_msetAll_apart _ _ _ _ (by rw [length_leBytes]; omega)]

/-- The check byte of a word put, and of the others. -/
theorem dramCheck_putWord (s : State) (w : Nat) (d : Word) (c : Byte) (j : Nat) :
    dramCheck (putWord s w d c) j = if j = w then c else dramCheck s j := mget_mset ..

/-- Putting a word keeps every other. -/
theorem wordKept_putWord (s : State) {w j : Nat} (d : Word) (c : Byte) (h : j ≠ w) : wordKept s (putWord s w d c) j :=
  ⟨(dramWord_putWord ..).trans (if_neg h), (dramCheck_putWord ..).trans (if_neg h)⟩

/-- The four bytes of a stored word. -/
theorem leBytes_dramWord (s : State) (w : Nat) : leBytes 4 (dramWord s w).toNat = mgetAll 0 s.dram (4 * w) 4 := by
  have hlen : (mgetAll 0 s.dram (4 * w) 4).length = 4 := by simp [mgetAll]
  have hlt := leNat_lt (mgetAll 0 s.dram (4 * w) 4)
  rw [hlen] at hlt
  have hbytes := leBytes_leNat (mgetAll 0 s.dram (4 * w) 4)
  rw [hlen] at hbytes
  rw [dramWord, BitVec.toNat_ofNat, Nat.mod_eq_of_lt (by omega), hbytes]

/-! A word read (R338, R345). -/

/-- A word that decodes reads as its value, unmarked. -/
theorem readWord_decodes {s : State} {w : Nat} {v : Word} (rd : Reader) (h : readsAs s w = some v) :
    (readWord s rd w).1 = { val := v, poison := false } := by
  unfold readsAs at h
  unfold readWord
  cases hclass : classify (dramWord s w) (dramCheck s w) <;> simp_all

/-- A word that does not decode reads marked. -/
theorem readWord_bad {s : State} {w : Nat} (rd : Reader) (h : readsAs s w = none) : (readWord s rd w).1.poison = true := by
  unfold readsAs at h
  unfold readWord
  cases hclass : classify (dramWord s w) (dramCheck s w) <;> simp_all [poisoned]

/-- Reading a word changes no stored data: nothing is written back. -/
theorem readWord_mem (s : State) (rd : Reader) (w : Nat) : memOf (readWord s rd w).2 = memOf s := (readWord_kept s rd w).2

/-- A clean word reads as it is stored. -/
theorem readsAs_clean {s : State} {w : Nat} (h : classify (dramWord s w) (dramCheck s w) = .clean) : readsAs s w = some (dramWord s w) := by
  unfold readsAs
  rw [h]

/-- A marker and an uncorrectable word do not decode. -/
theorem readsAs_eq_none {s : State} {w : Nat} (h : classify (dramWord s w) (dramCheck s w) = .marker ∨
    classify (dramWord s w) (dramCheck s w) = .uncorrectable) : readsAs s w = none := by
  unfold readsAs
  rcases h with h | h <;> rw [h]

/-! A word written (R340 to R343). -/

/-- A field of a word made of bytes. -/
theorem bits_mergeWord (old new : Word) (en : Nat) {i : Nat} (hi : i < 4) :
    bits (mergeWord old new en) (8 * i) 8 = if en.testBit i then bits new (8 * i) 8 else bits old (8 * i) 8 := by
  have hsmall : (if en.testBit i then bits new (8 * i) 8 else bits old (8 * i) 8) < 2 ^ 8 := by split <;> exact Nat.mod_lt _ (by decide)
  generalize hcells : (List.range 4).map (fun i => BitVec.ofNat 8 (if en.testBit i then bits new (8 * i) 8 else bits old (8 * i) 8)) = cells
  have hlen : cells.length = 4 := by rw [← hcells, List.length_map, List.length_range]
  have hlt := leNat_lt cells
  have hbytes := leBytes_leNat cells
  rw [hlen] at hlt hbytes
  have hbyte := congrArg (fun l => l[i]?) (hbytes.symm.trans (leBytes_eq_map 4 (leNat cells)))
  conv_lhs at hbyte => rw [← hcells]
  simp only [List.getElem?_map, List.getElem?_range hi, Option.map_some, Option.some.injEq] at hbyte
  have hnum := congrArg BitVec.toNat hbyte
  rw [BitVec.toNat_ofNat, BitVec.toNat_ofNat, Nat.mod_eq_of_lt hsmall] at hnum
  have hwidth : (256 : Nat) ^ i = 2 ^ (8 * i) := by rw [Nat.pow_mul]
  rw [hnum, hwidth, mergeWord, hcells, bits, BitVec.toNat_ofNat, Nat.mod_eq_of_lt (show leNat cells < 2 ^ 32 from hlt)]

/-- A word put is as given, with its check byte. -/
def holdsWord (t : State) (w : Nat) (d : Word) : Prop := dramWord t w = d ∧ dramCheck t w = encodeCheck d
/-- A poison marker stands at a word. (R343) -/
def holdsMarker (t : State) (w : Nat) : Prop := dramWord t w = 0 ∧ dramCheck t w = 0x7F

/-- A word put through the encoder is held. -/
theorem holdsWord_putWord (s : State) (w : Nat) (d : Word) : holdsWord (putWord s w d (encodeCheck d)) w d :=
  ⟨(dramWord_putWord ..).trans (if_pos rfl), (dramCheck_putWord ..).trans (if_pos rfl)⟩

/-- A marker put is held. -/
theorem holdsMarker_putMarker (s : State) (w : Nat) : holdsMarker (putMarker s w) w :=
  ⟨(dramWord_putWord ..).trans (if_pos rfl), (dramCheck_putWord ..).trans (if_pos rfl)⟩

section
variable {s : State} {w en : Nat} {d : Word} {p : Bool} (rd : Reader)

/-- A write of one word leaves every other. -/
theorem writeWord_other {j : Nat} (h : j ≠ w) : wordKept s (writeWord s rd w d en p).2 j := by
  have hread := wordKept_of_mem (readWord_mem s rd w) j
  unfold writeWord
  dsimp only
  split
  · exact ⟨rfl, rfl⟩
  · split
    · split
      · exact wordKept_putWord s _ _ h
      · exact wordKept_putWord s _ _ h
    · split
      · exact wordKept_trans hread (wordKept_putWord _ _ _ h)
      · exact wordKept_trans hread (wordKept_putWord _ _ _ h)

/-- Without an enable nothing is written. -/
theorem writeWord_none (h : en % 16 = 0) : writeWord s rd w d en p = (false, s) := by simp [writeWord, h]

/-- A whole word takes its data. (R340) -/
theorem writeWord_whole (h : en % 16 = 15) : writeWord s rd w d en false = (false, putWord s w d (encodeCheck d)) := by simp [writeWord, h]

/-- A whole word that carries poison becomes a marker. (R343) -/
theorem writeWord_wholeMarked (h : en % 16 = 15) : writeWord s rd w d en true = (false, putMarker s w) := by simp [writeWord, h]

variable (hsome : en % 16 ≠ 0) (hpart : en % 16 ≠ 15)
include hsome hpart

/-- A word written in part keeps its other bytes. (R341) -/
theorem writeWord_part {v : Word} (h : readsAs s w = some v) : writeWord s rd w d en false =
    (false, putWord (readWord s rd w).2 w (mergeWord v d en) (encodeCheck (mergeWord v d en))) := by
  simp [writeWord, hsome, hpart, readWord_decodes rd h]

/-- A word written in part over one that does not decode becomes a marker, and the operation notes it. (R342) -/
theorem writeWord_partBad (h : readsAs s w = none) : writeWord s rd w d en p = (true, putMarker (readWord s rd w).2 w) := by
  simp [writeWord, hsome, hpart, readWord_bad rd h]

/-- A word written in part with poison becomes a marker. (R343) -/
theorem writeWord_partMarked : (writeWord s rd w d en true).2 = putMarker (readWord s rd w).2 w := by
  simp [writeWord, hsome, hpart]

end

/-- What a write of one word leaves there: nothing changed without an enable; the word, merged where it is written in part; or a marker. -/
def wordWritten (s t : State) (w : Nat) (d : Word) (en : Nat) (p : Bool) : Prop :=
  (en % 16 = 0 → wordKept s t w) ∧
  (en % 16 = 15 → (p = false → holdsWord t w d) ∧ (p = true → holdsMarker t w)) ∧
  (en % 16 ≠ 0 → en % 16 ≠ 15 → (∀ v, p = false → readsAs s w = some v → holdsWord t w (mergeWord v d en)) ∧
    (p = true ∨ readsAs s w = none → holdsMarker t w))

/-- One word written. -/
theorem writeWord_written (s : State) (rd : Reader) (w : Nat) (d : Word) (en : Nat) (p : Bool) :
    wordWritten s (writeWord s rd w d en p).2 w d en p := by
  refine ⟨fun h => ?_, fun h => ⟨fun hp => ?_, fun hp => ?_⟩, fun hsome hpart => ⟨fun v hp h => ?_, fun h => ?_⟩⟩
  · rw [writeWord_none rd h]
    exact ⟨rfl, rfl⟩
  · rw [hp, writeWord_whole rd h]
    exact holdsWord_putWord ..
  · rw [hp, writeWord_wholeMarked rd h]
    exact holdsMarker_putMarker ..
  · rw [hp, writeWord_part rd hsome hpart h]
    exact holdsWord_putWord ..
  · rcases h with hp | h
    · rw [hp, writeWord_partMarked rd hsome hpart]
      exact holdsMarker_putMarker ..
    · rw [writeWord_partBad rd hsome hpart h]
      exact holdsMarker_putMarker ..

/-- The write of a word is the same seen from before and after writes of other words. -/
theorem wordWritten_of_wordKept {s s' t t' : State} {w en : Nat} {d : Word} {p : Bool} (hs : wordKept s s' w) (ht : wordKept t t' w)
    (h : wordWritten s' t w d en p) : wordWritten s t' w d en p := by
  unfold wordWritten holdsWord holdsMarker at h ⊢
  rw [readsAs_of_wordKept hs] at h
  rw [ht.1, ht.2]
  exact ⟨fun he => wordKept_trans hs (wordKept_trans (h.1 he) ht), h.2⟩

/-- Consecutive words written: each as `wordWritten` says, every other kept, and a word that R342 makes a marker noted. -/
theorem writeWordsFrom_written (s : State) (rd : Reader) (w : Nat) (ws : List (Word × Nat × Bool)) :
    (∀ j, j < w ∨ w + ws.length ≤ j → wordKept s (writeWordsFrom s rd w ws).2 j) ∧
    (∀ k d en p, ws[k]? = some (d, en, p) → wordWritten s (writeWordsFrom s rd w ws).2 (w + k) d en p ∧
      (en % 16 ≠ 0 → en % 16 ≠ 15 → readsAs s (w + k) = none → (writeWordsFrom s rd w ws).1 ≠ none)) := by
  induction ws generalizing s w with
  | nil => exact ⟨fun _ _ => ⟨rfl, rfl⟩, fun k d en p h => by simp at h⟩
  | cons x t ih =>
    obtain ⟨d, en, p⟩ := x
    obtain ⟨hkept, hwritten⟩ := ih (writeWord s rd w d en p).2 (w + 1)
    have hother : ∀ j, j ≠ w → wordKept s (writeWord s rd w d en p).2 j := fun j hj => writeWord_other rd hj
    simp only [writeWordsFrom, List.length_cons]
    refine ⟨fun j hj => wordKept_trans (hother j (by omega)) (hkept j (by omega)), fun k d' en' p' hk => ?_⟩
    cases k with
    | zero =>
      obtain ⟨rfl, rfl, rfl⟩ : d = d' ∧ en = en' ∧ p = p' := by simpa using hk
      refine ⟨wordWritten_of_wordKept ⟨rfl, rfl⟩ (hkept w (by omega)) (writeWord_written ..), fun hsome hpart h => ?_⟩
      have hfound := congrArg Prod.fst (writeWord_partBad (d := d) (p := p) rd hsome hpart h)
      simp only [Nat.add_zero] at hfound
      simp [hfound]
    | succ k =>
      obtain ⟨hword, hnotes⟩ := hwritten k d' en' p' (by simpa using hk)
      have hbefore := hother (w + 1 + k) (by omega)
      rw [show w + (k + 1) = w + 1 + k by omega]
      refine ⟨wordWritten_of_wordKept hbefore ⟨rfl, rfl⟩ hword, fun hsome hpart h => ?_⟩
      have := hnotes hsome hpart (by rw [readsAs_of_wordKept hbefore, h])
      split
      · simp
      · exact this

/-- A decoder's entry is the last of the log. (R350) -/
theorem lastEntered_logEcc (s : State) (rd : Reader) (level num w count : Nat) : lastEntered (logEcc s rd level num w count) 4 num := by
  obtain ⟨hnext, hentry⟩ := logAdd_taken (s := s) level rd.src num rd.tag rd.ten
    (eccDetail w (syndrome (dramWord s w) (dramCheck s w)) (overallParity (dramWord s w) (dramCheck s w)) rd.src count)
    (takes_of_class s.log s.ck (cls := 4) (by decide) (by decide))
  have hplace : ((s.log.next + 1) % 2 ^ 32 + (2 ^ 32 - 1)) % 2 ^ 32 % 65536 = s.log.next % 65536 := by omega
  unfold logEcc lastEntered
  rw [hnext, hplace]
  exact ⟨_, hentry, rfl, rfl⟩

/-- A write operation stores what its words store; the entry it may make stores nothing. -/
theorem writeOp_mem (s : State) (rd : Reader) (w : Nat) (ws : List (Word × Nat × Bool)) :
    memOf (writeOp s rd w ws) = memOf (writeWordsFrom s rd w ws).2 := by
  unfold writeOp
  split
  split <;> simp_all

/-- A write operation that made a marker of an old word enters it last. (R342) -/
theorem writeOp_enters {s : State} {rd : Reader} {w : Nat} {ws : List (Word × Nat × Bool)} (h : (writeWordsFrom s rd w ws).1 ≠ none) :
    lastEntered (writeOp s rd w ws) 4 3 := by
  obtain ⟨w', hw⟩ := Option.ne_none_iff_exists'.1 h
  unfold writeOp
  split
  next m t hm =>
    rw [hm] at hw
    subst hw
    exact lastEntered_logEcc ..

end Sys2Proof.Machine

end

section
/-! Proofs of the statements of 02_address_map.md: host accesses to the data range (O8). -/

open Sys2Proof Sys2Proof.Machine Sys2Proof.Safety

namespace Sys2Proof.Machine

/-! What a host access meets (R21, R41, R121, R131). -/

/-- An output is put before those already there. -/
theorem emit_out (s : State) (o : Output) : (emit s o).out = o :: s.out := rfl

/-- The slots and the charge of a host access change no unit, no retirement and no output. -/
theorem hostAccess_leaves (s : State) (ma n slots : Nat) (write : Bool) :
    (hostSlots (chargeHost s ma n write) ma slots).units = s.units ∧ (hostSlots (chargeHost s ma n write) ma slots).retireRows = s.retireRows ∧
    (hostSlots (chargeHost s ma n write) ma slots).retireBanks = s.retireBanks ∧ (hostSlots (chargeHost s ma n write) ma slots).out = s.out := by
  have hcharge : (chargeHost s ma n write).units = s.units ∧ (chargeHost s ma n write).retireRows = s.retireRows ∧
      (chargeHost s ma n write).retireBanks = s.retireBanks ∧ (chargeHost s ma n write).out = s.out := by
    unfold chargeHost
    split
    · simp
    · split <;> exact ⟨rfl, rfl, rfl, rfl⟩
  simpa [hostSlots] using hcharge

/-- Retirement, the pair that holds a line, and the stored data are seen by a host access as they stood before it. -/
theorem hostAccess_sees (s : State) (ma n slots : Nat) (write : Bool) (b o : Nat) :
    retiredAt (hostSlots (chargeHost s ma n write) ma slots) (dramAddr b o) = retiredAt s (dramAddr b o) ∧
    heldPair (hostSlots (chargeHost s ma n write) ma slots) b o = heldPair s b o ∧
    memOf (hostSlots (chargeHost s ma n write) ma slots) = memOf s := by
  obtain ⟨hunits, hrows, hbanks, -⟩ := hostAccess_leaves s ma n slots write
  refine ⟨?_, ?_, by simp⟩
  · unfold retiredAt rowRetired bankRetired
    rw [hrows, hbanks]
  · unfold heldPair unitOf
    rw [hunits]

/-- The line of a data address: its map keeps the byte within the line. (R27, R30) -/
theorem maMap_line (s : State) (ma : Nat) : (maMap (split s) ma).2 % 64 = ma % 64 := by
  unfold maMap
  split
  · exact Nat.mod_mod_of_dvd _ (Dvd.dvd.mul_right (by decide) _)
  · obtain ⟨-, -, -, hoff⟩ := linearMap_fields (split s) ma
    rw [hoff, split]
    rw [split] at *
    omega

/-! The words of a line that a host reads (R343, R344). -/

/-- Noting a corrected word puts out nothing. -/
theorem noteCorrected_out (s : State) (rd : Reader) (w : Nat) : (noteCorrected s rd w).out = s.out := by
  unfold noteCorrected
  dsimp only
  split
  · split <;> rfl
  · rfl

/-- Noting an uncorrectable word puts out nothing. -/
theorem noteUncorrectable_out (s : State) (rd : Reader) (w : Nat) : (noteUncorrectable s rd w).out = s.out := by
  unfold noteUncorrectable
  dsimp only
  repeat' split
  all_goals rfl

/-- Reading a word puts out nothing. -/
theorem readWord_out (s : State) (rd : Reader) (w : Nat) : (readWord s rd w).2.out = s.out := by
  unfold readWord
  split
  · rfl
  · exact noteCorrected_out ..
  · rfl
  · exact noteUncorrectable_out ..

/-- What the words of a line read as where no pair holds it. -/
theorem lineWords_free (s : State) (w : Nat) (ks : List Nat) :
    memOf (lineWords s none w ks).2 = memOf s ∧ (lineWords s none w ks).2.out = s.out ∧
    ((∃ k ∈ ks, readsAs s (w + k) = none) → (lineWords s none w ks).1.any (·.poison) = true) ∧
    ((∀ k ∈ ks, readsAs s (w + k) ≠ none) →
      (lineWords s none w ks).1 = ks.map (fun k => { val := (readsAs s (w + k)).getD 0, poison := false })) ∧
    ((∀ k ∈ ks, classify (dramWord s (w + k)) (dramCheck s (w + k)) = .clean) → (lineWords s none w ks).2 = s) := by
  induction ks generalizing s with
  | nil => exact ⟨rfl, rfl, by simp, fun _ => rfl, fun _ => rfl⟩
  | cons k t ih =>
    obtain ⟨hmem, hout, hbad, hgood, hclean⟩ := ih (readWord s hostReader (w + k)).2
    have hread := readWord_mem s hostReader (w + k)
    have hsame : ∀ j, readsAs (readWord s hostReader (w + k)).2 j = readsAs s j := fun j => (stored_of_mem hread j).2.2
    simp only [hsame] at hbad hgood
    simp only [lineWords, lineWord]
    refine ⟨hmem.trans hread, hout.trans (readWord_out ..), ?_, fun h => ?_, fun h => ?_⟩
    · rintro ⟨j, hj, hnone⟩
      rw [List.any_cons, Bool.or_eq_true]
      rcases List.mem_cons.1 hj with rfl | hj
      · exact .inl (readWord_bad _ hnone)
      · exact .inr (hbad ⟨j, hj, hnone⟩)
    · obtain ⟨v, hv⟩ := Option.ne_none_iff_exists'.1 (h k (by simp))
      rw [hgood fun j hj => h j (by simp [hj]), readWord_decodes _ hv, List.map_cons, hv]
      rfl
    · have hfirst : (readWord s hostReader (w + k)).2 = s := by
        unfold readWord
        rw [h k (by simp)]
      rw [hfirst] at hclean ⊢
      exact hclean fun j hj => h j (by simp [hj])

/-- A part of a list of consecutive values. -/
theorem map_range_drop_take {α : Type} (f : Nat → α) {n i l : Nat} (h : i + l ≤ n) :
    (((List.range n).map f).drop i).take l = (List.range l).map (fun j => f (i + j)) := by
  refine List.ext_getElem (by simp; omega) fun j hj hj' => ?_
  simp

/-- Words that all decode carry no mark. -/
theorem any_poison_clear (f : Nat → Word) (ks : List Nat) : (ks.map (fun k => ({ val := f k, poison := false } : PWord))).any (·.poison) = false := by
  simp [Function.comp_def]

/-- The bytes of consecutive words. -/
theorem flatMap_leBytes (f : Nat → Word) (n : Nat) :
    (List.range n).flatMap (fun k => leBytes 4 (f k).toNat) = (List.range (4 * n)).map (fun i => BitVec.ofNat 8 (bits (f (i / 4)) (8 * (i % 4)) 8)) := by
  induction n with
  | zero => rfl
  | succ n ih =>
    rw [List.range_succ, List.flatMap_append, ih, Nat.mul_succ, List.range_add, List.map_append]
    rw [List.flatMap_cons, List.flatMap_nil, List.append_nil, leBytes_eq_map, List.map_map]
    refine congrArg _ (List.map_congr_left fun i hi => ?_)
    have hlt : i < 4 := List.mem_range.1 hi
    rw [Function.comp, show (4 * n + i) / 4 = n by omega, show (4 * n + i) % 4 = i by omega, bits, show (256 : Nat) ^ i = 2 ^ (8 * i) by rw [Nat.pow_mul]]
    exact BitVec.eq_of_toNat_eq (by simp)

/-- A host read of the data range before MEM_ACTIVE, and in it. -/
theorem execHostRead_data {ma : BitVec 40} (len : Nat) {s : State} (hlink : s.boot.linkUp = true) (hlow : ma.toNat < 2 ^ 39) :
    exec (.hostRead ma len) s = .next (if s.boot.memActive then hostReadData s ma.toNat len
      else emit (violateEarly s len 0) (.readData ma.toNat (List.replicate len 0) true)) := by
  refine (if_neg (by omega)).trans ((next_viaHost _ hlink).trans (congrArg _ ?_))
  rw [if_neg (by omega), if_neg (by omega)]

/-- A host write of the data range before MEM_ACTIVE, and in it; one that enables no byte changes nothing. -/
theorem execHostWrite_data {line : BitVec 34} (en : BitVec 64) (data : BitVec 512) (p : Bool) {s : State} (hlink : s.boot.linkUp = true)
    (hlow : 64 * line.toNat < 2 ^ 39) : ∃ size v, exec (.hostWrite line en data p) s =
      .next (if en = 0 then s else if s.boot.memActive then hostWriteData s (line.toNat * 64) en data p else violateEarly s size v) := by
  refine ⟨(enSpan en).2 - (enSpan en).1 + 1, dfield (data >>> (8 * (enSpan en).1)) 0 8, ?_⟩
  show execHostWrite line en data p s = _
  simp only [execHostWrite, viaHost_up _ hlink]
  rw [if_neg (by omega), if_neg (by omega), if_neg (c := 0x8000000000 ≤ _) (by omega)]

/-- A violation before MEM_ACTIVE stores nothing and puts out nothing. -/
theorem violateEarly_leaves (s : State) (size value : Nat) : (violateEarly s size value).dram = s.dram ∧
    (violateEarly s size value).check = s.check ∧ (violateEarly s size value).out = s.out := by
  unfold violateEarly
  dsimp only
  repeat' split
  all_goals exact ⟨rfl, rfl, rfl⟩

section
variable {s : State} {ma len b o : Nat} (hmap : maMap (split s) ma = (b, o)) (hfree : heldPair s b o = none)
include hmap

/-- A read of a retired row carries poison. (R356) -/
theorem hostReadData_retired (hretired : retiredAt s (dramAddr b o) = true) : hostReadData s ma len =
    emit (hostSlots (chargeHost s ma len false) ma 2) (.readData ma (List.replicate len 0) true) := by
  obtain ⟨hsees, -, -⟩ := hostAccess_sees s ma len 2 false b o
  unfold hostReadData
  simp only [hmap, hsees, hretired, if_true]

include hfree

/-- A read of a row in use gives the words of its line, and poison with one marked. -/
theorem hostReadData_line (hretired : retiredAt s (dramAddr b o) = false) : hostReadData s ma len =
    emit (lineWords (hostSlots (chargeHost s ma len false) ma 2) none (dramAddr b (o / 64 * 64) / 4) (List.range 16)).2
      (.readData ma ((((lineWords (hostSlots (chargeHost s ma len false) ma 2) none (dramAddr b (o / 64 * 64) / 4) (List.range 16)).1.flatMap
        (fun v => leBytes 4 v.val.toNat)).drop (o % 64)).take len)
        ((lineWords (hostSlots (chargeHost s ma len false) ma 2) none (dramAddr b (o / 64 * 64) / 4) (List.range 16)).1.any (·.poison))) := by
  obtain ⟨hsees, hpair, -⟩ := hostAccess_sees s ma len 2 false b o
  unfold hostReadData
  simp only [hmap, hsees, hretired, Bool.false_eq_true, if_false]
  rw [closeRead_free (hpair.trans hfree), hpair, hfree]

/-- A read of a row in use whose words all decode gives their values. (R338, R344) -/
theorem hostReadData_decodes (hretired : retiredAt s (dramAddr b o) = false) (hlen : ma % 64 + len ≤ 64)
    (h : ∀ k < 16, readsAs s (dramAddr b (o / 64 * 64) / 4 + k) ≠ none) : hostReadData s ma len =
    emit (lineWords (hostSlots (chargeHost s ma len false) ma 2) none (dramAddr b (o / 64 * 64) / 4) (List.range 16)).2
      (.readData ma ((List.range len).map (fun i => BitVec.ofNat 8 (byteAt s (dramAddr b o + i)))) false) := by
  obtain ⟨-, -, hmem⟩ := hostAccess_sees s ma len 2 false b o
  have hsame := fun w => (stored_of_mem hmem w).2.2
  obtain ⟨-, -, -, hgood, -⟩ := lineWords_free (hostSlots (chargeHost s ma len false) ma 2) (dramAddr b (o / 64 * 64) / 4) (List.range 16)
  have hvals := hgood fun k hk => by rw [hsame]; exact h k (List.mem_range.1 hk)
  have hline := maMap_line s ma
  rw [hmap] at hline
  have hbytes : ∀ i, BitVec.ofNat 8 (bits ((readsAs s (dramAddr b (o / 64 * 64) / 4 + (o % 64 + i) / 4)).getD 0) (8 * ((o % 64 + i) % 4)) 8) =
      (BitVec.ofNat 8 (byteAt s (dramAddr b o + i)) : Byte) := fun i => by
    have hword : dramAddr b (o / 64 * 64) / 4 + (o % 64 + i) / 4 = (dramAddr b o + i) / 4 := by
      rw [dramAddr, dramAddr]
      omega
    have hbyte : (o % 64 + i) % 4 = (dramAddr b o + i) % 4 := by
      rw [dramAddr]
      omega
    rw [byteAt, hword, hbyte]
  simp only [hsame] at hvals
  rw [hostReadData_line hmap hfree hretired, hvals, List.flatMap_map, flatMap_leBytes, map_range_drop_take _ (by dsimp only at hline; omega),
    any_poison_clear, List.map_congr_left fun i _ => hbytes i]

/-- A read of a row in use with a word that does not decode carries poison. (R345) -/
theorem hostReadData_bad (hretired : retiredAt s (dramAddr b o) = false) {k : Nat} (hk : k < 16)
    (h : readsAs s (dramAddr b (o / 64 * 64) / 4 + k) = none) : ∃ bs, hostReadData s ma len =
    emit (lineWords (hostSlots (chargeHost s ma len false) ma 2) none (dramAddr b (o / 64 * 64) / 4) (List.range 16)).2 (.readData ma bs true) := by
  obtain ⟨-, -, hmem⟩ := hostAccess_sees s ma len 2 false b o
  obtain ⟨-, -, hbad, -, -⟩ := lineWords_free (hostSlots (chargeHost s ma len false) ma 2) (dramAddr b (o / 64 * 64) / 4) (List.range 16)
  rw [hostReadData_line hmap hfree hretired, hbad ⟨k, List.mem_range.2 hk, (stored_of_mem hmem _).2.2.trans h⟩]
  exact ⟨_, rfl⟩

/-- A read of a row in use whose words are all clean gives the bytes as stored, and counts nothing. (R337, R338) -/
theorem hostReadData_clean (hretired : retiredAt s (dramAddr b o) = false) (hlen : ma % 64 + len ≤ 64)
    (h : ∀ k < 16, classify (dramWord s (dramAddr b (o / 64 * 64) / 4 + k)) (dramCheck s (dramAddr b (o / 64 * 64) / 4 + k)) = .clean) :
    hostReadData s ma len = emit (hostSlots (chargeHost s ma len false) ma 2)
      (.readData ma (mgetAll 0 s.dram (dramAddr b (o / 64 * 64) + o % 64) len) false) := by
  obtain ⟨-, -, hmem⟩ := hostAccess_sees s ma len 2 false b o
  have hword := fun w => (stored_of_mem hmem w).1
  have hcheck := fun w => (stored_of_mem hmem w).2.1
  obtain ⟨-, -, -, hgood, hclean⟩ := lineWords_free (hostSlots (chargeHost s ma len false) ma 2) (dramAddr b (o / 64 * 64) / 4) (List.range 16)
  have hreads : ∀ k < 16, readsAs s (dramAddr b (o / 64 * 64) / 4 + k) = some (dramWord s (dramAddr b (o / 64 * 64) / 4 + k)) :=
    fun k hk => readsAs_clean (h k hk)
  have hsame := fun w => (stored_of_mem hmem w).2.2
  have hvals := hgood fun k hk => by rw [hsame, hreads k (List.mem_range.1 hk)]; simp
  have hstate := hclean fun k hk => by rw [hword, hcheck]; exact h k (List.mem_range.1 hk)
  have hline := maMap_line s ma
  rw [hmap] at hline
  have hbytes : (List.range 16).flatMap (fun k => leBytes 4 ((readsAs s (dramAddr b (o / 64 * 64) / 4 + k)).getD 0).toNat) =
      mgetAll 0 s.dram (dramAddr b (o / 64 * 64)) 64 := by
    refine Eq.trans ?_ (mgetAll_mul 0 s.dram (dramAddr b (o / 64 * 64)) 16 4)
    refine List.flatMap_congr fun k hk => ?_
    have hplace : 4 * (dramAddr b (o / 64 * 64) / 4 + k) = dramAddr b (o / 64 * 64) + 4 * k := by
      rw [dramAddr]
      omega
    rw [hreads k (List.mem_range.1 hk), Option.getD_some, leBytes_dramWord, hplace]
  simp only [hsame] at hvals
  rw [hostReadData_line hmap hfree hretired, hvals, hstate, List.flatMap_map, hbytes, mgetAll_drop_take _ _ (by dsimp only at hline; omega), any_poison_clear]

end

/-! A host write (R119, R340 to R343). -/

/-- A field of a field. -/
theorem bits_of_bits {w : Nat} (v : BitVec w) (lo : Nat) {n l m : Nat} (h : l + m ≤ n) :
    bits (BitVec.ofNat n (bits v lo n)) l m = bits v (lo + l) m := by
  refine Nat.eq_of_testBit_eq fun i => ?_
  rw [testBit_bits, testBit_bits, bit, BitVec.toNat_ofNat, Nat.testBit_mod_two_pow, testBit_bits, Nat.add_assoc]
  by_cases hi : i < m
  · simp [show l + i < n by omega]
  · simp [hi]

/-- The words that a host write holds. -/
theorem getElem?_hostWords (data : BitVec 512) (en : BitVec 64) (p : Bool) {k : Nat} (hk : k < 16) :
    (hostWords data en p)[k]? = some (BitVec.ofNat 32 (bits data (32 * k) 32), bits en (4 * k) 4, p) := by
  simp [hostWords, List.getElem?_range hk]

section
variable {s : State} {ma b o : Nat} (en : BitVec 64) (data : BitVec 512) (p : Bool) (hmap : maMap (split s) ma = (b, o))
  (hfree : heldPair s b o = none)
include hmap

/-- A write of a retired row is dropped. (R356) -/
theorem hostWriteData_retired (hretired : retiredAt s (dramAddr b o) = true) : memOf (hostWriteData s ma en data p) = memOf s := by
  obtain ⟨hsees, -, hmem⟩ := hostAccess_sees s ma ((List.range 64).filter (fun i => bit en i)).length (writeSlots en) true b o
  unfold hostWriteData
  simp only [hmap, hsees, hretired, if_true]
  exact hmem

include hfree

/-- A write of a row in use writes each of its words, and leaves every other. -/
theorem hostWriteData_written (hretired : retiredAt s (dramAddr b o) = false) :
    (∀ w, w < dramAddr b o / 4 ∨ dramAddr b o / 4 + 16 ≤ w → wordKept s (hostWriteData s ma en data p) w) ∧
    (∀ k < 16, wordWritten s (hostWriteData s ma en data p) (dramAddr b o / 4 + k) (BitVec.ofNat 32 (bits data (32 * k) 32)) (bits en (4 * k) 4) p ∧
      (bits en (4 * k) 4 ≠ 0 → bits en (4 * k) 4 ≠ 15 → p = true ∨ readsAs s (dramAddr b o / 4 + k) = none →
        lastEntered (hostWriteData s ma en data p) 4 3)) := by
  obtain ⟨hsees, hpair, hmem⟩ := hostAccess_sees s ma ((List.range 64).filter (fun i => bit en i)).length (writeSlots en) true b o
  obtain ⟨hother, hwords⟩ := writeWordsFrom_written
    (hostSlots (chargeHost s ma ((List.range 64).filter (fun i => bit en i)).length true) ma (writeSlots en)) hostReader (dramAddr b o / 4)
    (hostWords data en p)
  have hbefore := wordKept_of_mem hmem
  have hlen : (hostWords data en p).length = 16 := by simp [hostWords]
  have hfour : ∀ k, bits en (4 * k) 4 % 16 = bits en (4 * k) 4 := fun k => Nat.mod_eq_of_lt (Nat.mod_lt _ (by decide))
  rw [hlen] at hother
  unfold hostWriteData
  simp only [hmap, hsees, hretired, Bool.false_eq_true, if_false, hpair, hfree]
  cases p with
  | true =>
    simp only [if_true]
    refine ⟨fun w hw => wordKept_trans (hbefore w) (wordKept_trans (hother w hw) (wordKept_of_mem (logEcc_kept ..).2 w)), fun k hk => ?_⟩
    obtain ⟨hword, -⟩ := hwords k _ _ _ (getElem?_hostWords data en true hk)
    exact ⟨wordWritten_of_wordKept (hbefore _) (wordKept_of_mem (logEcc_kept ..).2 _) hword, fun _ _ _ => lastEntered_logEcc ..⟩
  | false =>
    have hafter := fun w => wordKept_of_mem (writeOp_mem (hostSlots (chargeHost s ma ((List.range 64).filter (fun i => bit en i)).length true) ma
      (writeSlots en)) hostReader (dramAddr b o / 4) (hostWords data en false)) w
    simp only [Bool.false_eq_true, if_false]
    refine ⟨fun w hw => wordKept_trans (hbefore w) (wordKept_trans (hother w hw) (hafter w)), fun k hk => ?_⟩
    obtain ⟨hword, hnotes⟩ := hwords k _ _ _ (getElem?_hostWords data en false hk)
    rw [hfour, readsAs_of_wordKept (hbefore _)] at hnotes
    refine ⟨wordWritten_of_wordKept (hbefore _) (hafter _) hword, fun hsome hpart hbad => writeOp_enters (hnotes hsome hpart ?_)⟩
    simpa using hbad

end

end Sys2Proof.Machine

/-- Settles O8: a read sees the words of its line as they decode (`lineWords_free`), and a write treats each of its words as `wordWritten` says. -/
theorem hostDataAccesses : Obligations.HostDataAccesses := by
  refine ⟨fun ma len b o s hlink hactive hlow hmap hlen hfree => ?_, fun line en data p b o s hlink hactive hlow hmap hfree => ?_,
    fun ma len s hlink hactive hlow => ?_, fun line en data p s hlink hactive hlow => ?_⟩
  · have hexec := execHostRead_data len hlink hlow
    rw [hactive, if_pos rfl] at hexec
    obtain ⟨-, -, -, hout⟩ := hostAccess_leaves s ma.toNat len 2 false
    obtain ⟨-, -, hmem⟩ := hostAccess_sees s ma.toNat len 2 false b o
    obtain ⟨hline, hlineOut, -⟩ := lineWords_free (hostSlots (chargeHost s ma.toNat len false) ma.toNat 2) (dramAddr b (o / 64 * 64) / 4) (List.range 16)
    have hstored := fun out => dram_of_mem ((emit_kept _ out).2.trans (hline.trans hmem))
    refine ⟨fun hretired hclean => ?_, fun hretired hreads => ⟨_, hexec, ?_⟩, ?_⟩
    · rw [hexec, hostReadData_clean hmap hfree hretired hlen hclean]
    · rw [hostReadData_decodes hmap hfree hretired hlen hreads]
      exact ⟨(hstored _).1, (hstored _).2, by rw [emit_out, hlineOut, hout]⟩
    · intro h
      by_cases hretired : retiredAt s (dramAddr b o) = true
      · refine ⟨_, List.replicate len 0, hexec, ?_⟩
        rw [hostReadData_retired hmap hretired]
        exact ⟨by rw [emit_out, hout], dram_of_mem ((emit_kept ..).2.trans hmem)⟩
      · obtain ⟨k, hk, hclass⟩ := h.resolve_left hretired
        obtain ⟨bs, hbs⟩ := hostReadData_bad (len := len) hmap hfree (Bool.eq_false_iff.2 hretired) hk (readsAs_eq_none hclass)
        refine ⟨_, bs, hexec, ?_⟩
        rw [hbs]
        exact ⟨by rw [emit_out, hlineOut, hout], hstored _⟩
  · obtain ⟨size, v, hexec⟩ := execHostWrite_data en data p hlink hlow
    rw [hactive, if_pos rfl] at hexec
    by_cases hen : en = 0
    · rw [if_pos hen] at hexec
      subst hen
      have hnone : ∀ k, bits (0 : BitVec 64) (4 * k) 4 = 0 := fun k => by simp [bits]
      refine ⟨fun _ => ⟨s, hexec, rfl, rfl⟩, fun _ => ⟨s, hexec, fun k _ h => ?_, fun _ _ _ => ⟨rfl, rfl⟩, fun k _ h => ?_, fun _ _ => ⟨rfl, rfl⟩⟩⟩
      · rw [hnone] at h
        omega
      · exact absurd (hnone k) h
    · rw [if_neg hen] at hexec
      refine ⟨fun hretired => ⟨_, hexec, ?_⟩, fun hretired => ⟨_, hexec, ?_⟩⟩
      · exact dram_of_mem (hostWriteData_retired en data p hmap hretired)
      · obtain ⟨hother, hwords⟩ := hostWriteData_written en data p hmap hfree hretired
        have hfour : ∀ k, bits en (4 * k) 4 % 16 = bits en (4 * k) 4 := fun k => Nat.mod_eq_of_lt (Nat.mod_lt _ (by decide))
        refine ⟨fun k hk hwhole => ?_, fun k hk hnone => ?_, fun k hk hsome hpart => ⟨fun v hp hv => ?_, fun hbad => ?_⟩, hother⟩
        · obtain ⟨⟨-, h, -⟩, -⟩ := hwords k hk
          exact h ((hfour k).trans hwhole)
        · obtain ⟨⟨h, -⟩, -⟩ := hwords k hk
          exact h ((hfour k).trans hnone)
        · obtain ⟨⟨-, -, h⟩, -⟩ := hwords k hk
          obtain ⟨hword, hcheck⟩ := (h (by rwa [hfour]) (by rwa [hfour])).1 v hp hv
          rw [hword, hcheck]
          refine ⟨fun i hi => ?_, rfl⟩
          simp only [bits_mergeWord _ _ _ hi, testBit_bits, hi, decide_true, Bool.true_and, bits_of_bits data (32 * k) (show 8 * i + 8 ≤ 32 by omega)]
        · obtain ⟨⟨-, -, h⟩, hlast⟩ := hwords k hk
          obtain ⟨hword, hcheck⟩ := (h (by rwa [hfour]) (by rwa [hfour])).2 hbad
          exact ⟨hword, hcheck, hlast hsome hpart hbad⟩
  · have hexec := execHostRead_data len hlink hlow
    rw [hactive] at hexec
    obtain ⟨hdram, hcheck, hout⟩ := violateEarly_leaves s len 0
    exact ⟨_, _, hexec, (emit_out ..).trans (by rw [hout]), hdram, hcheck⟩
  · obtain ⟨size, v, hexec⟩ := execHostWrite_data en data p hlink hlow
    rw [hactive] at hexec
    obtain ⟨hdram, hcheck, -⟩ := violateEarly_leaves s size v
    refine ⟨_, hexec, ?_⟩
    split
    · exact ⟨rfl, rfl⟩
    · exact ⟨hdram, hcheck⟩

end

section
/-! Proofs of the statements of 02_address_map.md: violations, doorbells, and the accesses to a tenancy's page (O50). -/

open Sys2Proof Sys2Proof.Machine Sys2Proof.Safety

namespace Sys2Proof.Machine

/-! Violations on a tenancy's page (R431). -/

/-- A violation changes no tenancy and no active descriptor. -/
theorem violate_leaves (s : State) (t num ident size off expected value : Nat) :
    (violate s t num ident size off expected value).tens = s.tens ∧ (violate s t num ident size off expected value).active = s.active ∧
    (violate s t num ident size off expected value).out = s.out ∧ (violate s t num ident size off expected value).bar = s.bar ∧
    (violate s t num ident size off expected value).time = s.time ∧
    (violate s t num ident size off expected value).hostWrites = s.hostWrites := by
  unfold violate violateTag
  dsimp only
  split <;> simp

/-- With a place in the collecting queue a violation is entered; the REFUSED meter of its tenancy goes on while that exists. -/
theorem violate_enters {s : State} (t num ident size off expected value : Nat) (hroom : logRoom s) :
    (violate s t num ident size off expected value).log.next = (s.log.next + 1) % 2 ^ 32 ∧
    mget none (violate s t num ident size off expected value).log.entries (s.log.next % 65536) =
      some { time := s.time, seq := s.log.next, source := srcNum 0xA ident, cls := 1, num := num, tag := none, ten := some t, level := 2,
             detail := padTo 12 (violationDetail num size off expected value) } ∧
    (violate s t num ident size off expected value).meterQ =
      if (tenOf s t).enabled then s.meterQ ++ [{ ten := t, meter := 11, amount := 1, pj := 0 }] else s.meterQ := by
  have htakes := takes_of_logRoom hroom 1
  unfold violate violateTag
  dsimp only
  split
  · obtain ⟨hnext, hentry⟩ := logAdd_taken (s := meter s t 11 1 0) 2 (srcNum 0xA ident) num none (some t)
      (violationDetail num size off expected value) htakes
    exact ⟨hnext, hentry, rfl⟩
  · obtain ⟨hnext, hentry⟩ := logAdd_taken 2 (srcNum 0xA ident) num none (some t) (violationDetail num size off expected value) htakes
    exact ⟨hnext, hentry, rfl⟩

/-- The twelve bytes of a violation's detail fill the entry. -/
theorem padTo_violationDetail (num size off expected value : Nat) :
    padTo 12 (violationDetail num size off expected value) = violationDetail num size off expected value := rfl

/-- An access that a page discards: its entry, its meter, and nothing else of the tenancy. -/
theorem violate_discards {s : State} {t ident : Nat} (num size off expected value : Nat) (hroom : logRoom s) (hen : (tenOf s t).enabled = true)
    (hident : ident < 4096) : discarded s (violate s t num ident size off expected value) t num ident size off expected value := by
  obtain ⟨htens, hactive, -⟩ := violate_leaves s t num ident size off expected value
  obtain ⟨hnext, hentry, hmeter⟩ := violate_enters t num ident size off expected value hroom
  rw [padTo_violationDetail] at hentry
  rw [if_pos hen] at hmeter
  have hten : tenOf (violate s t num ident size off expected value) t = tenOf s t := by rw [tenOf, tenOf, htens]
  refine ⟨⟨_, hentry, rfl, rfl, rfl, rfl, ?_, rfl⟩, hnext, by rw [hmeter]; simp, fun j => ?_, by rw [hten], hactive⟩
  · simp only [srcNum]
    omega
  · rw [ringOf, ringOf, hten]
    exact ⟨rfl, rfl⟩

/-- A part of a tenancy that a change keeps is kept for every tenancy. -/
theorem tenOf_modTen_part {β : Type} (s : State) (t c : Nat) (part : Tenancy → β) {f : Tenancy → Tenancy}
    (h : part (f (tenOf s t)) = part (tenOf s t)) : part (tenOf (modTen s t f) c) = part (tenOf s c) := by
  rw [modTen, tenOf_setTen]
  split
  case isTrue hct => rw [h, hct]
  case isFalse => rfl

/-! The fault record of a violation (Table 17.4, R84). -/

/-- A fault record leaves the log and the work, and of a tenancy all but EQ_OVERFLOW. -/
theorem violationFault_leaves (s : State) (t : Nat) (st : Status) (num ident size off expected value c : Nat) :
    (violationFault s t st num ident size off expected value).log = s.log ∧
    (violationFault s t st num ident size off expected value).active = s.active ∧
    (violationFault s t st num ident size off expected value).meterQ = s.meterQ ++ [{ ten := t, meter := 15, amount := 1, pj := 0 }] ∧
    (tenOf (violationFault s t st num ident size off expected value) c).rings = (tenOf s c).rings ∧
    (tenOf (violationFault s t st num ident size off expected value) c).slots = (tenOf s c).slots := by
  unfold violationFault faultRecord faultRecordAt postEventAt
  split
  · exact ⟨rfl, rfl, rfl, rfl, rfl⟩
  · simp only [if_true]
    exact ⟨rfl, rfl, rfl, tenOf_modTen_part s t c (·.rings) (f := fun x => { x with eqOverflow := true }) rfl,
      tenOf_modTen_part s t c (·.slots) (f := fun x => { x with eqOverflow := true }) rfl⟩

/-- With a free entry in the event ring the fault record is on its way. -/
theorem violationFault_written {s : State} {t : Nat} (st : Status) (num ident size off expected value : Nat) (h : 0 < eqFree s t) :
    faultWritten s (violationFault s t st num ident size off expected value) t 0 st s.time
      (leBytes 2 (srcNum 0xA ident) ++ leBytes 1 num ++ leBytes 1 size ++ leBytes 2 off ++ leBytes 2 expected ++ leBytes 8 value) := by
  unfold violationFault faultRecord faultRecordAt postEventAt
  rw [if_pos h]
  exact ⟨_, List.getElem?_concat_length .., rfl, rfl, rfl⟩

section
variable {s : State} {t ident : Nat} (st : Status) (num size off expected value : Nat) (hroom : logRoom s) (hen : (tenOf s t).enabled = true)
  (hident : ident < 4096)
include hroom hen hident

/-- A violation with a fault record discards the access all the same. -/
theorem violateFault_discards :
    discarded s (violationFault (violate s t num ident size off expected value) t st num ident size off expected value) t num ident size off expected
      value := by
  obtain ⟨hentry, hnext, hmeter, hrings, hslots, hactive⟩ := violate_discards num size off expected value hroom hen hident
  obtain ⟨hlog, hactive', hmeter', hrings', hslots'⟩ :=
    violationFault_leaves (violate s t num ident size off expected value) t st num ident size off expected value t
  refine ⟨?_, ?_, ?_, fun j => ?_, hslots'.trans hslots, hactive'.trans hactive⟩
  · rw [hlog]
    exact hentry
  · rw [hlog]
    exact hnext
  · rw [hmeter', List.getElem?_append_left (List.getElem?_eq_some_iff.1 hmeter).1]
    exact hmeter
  · rw [ringOf, hrings']
    exact hrings j

omit hroom hen in
/-- Its fault record, where the event ring has room. -/
theorem violateFault_written (h : 0 < eqFree s t) :
    faultWritten s (violationFault (violate s t num ident size off expected value) t st num ident size off expected value) t 0 st s.time
      (leBytes 2 (0xA000 + ident) ++ leBytes 1 num ++ leBytes 1 size ++ leBytes 2 off ++ leBytes 2 expected ++ leBytes 8 value) := by
  obtain ⟨htens, -, -, hbar, htime, hwrites⟩ := violate_leaves s t num ident size off expected value
  have hfree : eqFree (violate s t num ident size off expected value) t = eqFree s t := by
    unfold eqFree ringOf tenOf
    rw [htens, hwrites]
  have hsrc : srcNum 0xA ident = 0xA000 + ident := by
    simp only [srcNum]
    omega
  have hwritten := violationFault_written st num ident size off expected value (hfree ▸ h)
  unfold faultWritten reg at hwritten ⊢
  rwa [hwrites, hbar, htime, hsrc] at hwritten

end

/-! What records that fall due leave of the rings (R69, R80, R83). -/

/-- The rings of a tenancy, EQ_OVERFLOW, and CQ_LOST while the completion ring is enabled. -/
def ringsOf (t : Nat) (s : State) : SMap Ring × Bool × Bool :=
  ((tenOf s t).rings, (tenOf s t).eqOverflow, (ringOf s t cq).enabled && (tenOf s t).cqLost)

/-- What stands in the tenancies alone. -/
theorem ringsOf_congr {s u : State} (t : Nat) (h : u.tens = s.tens) : ringsOf t u = ringsOf t s := by
  unfold ringsOf ringOf tenOf
  rw [h]

/-- A change of a tenancy that touches none of these keeps them. -/
theorem ringsOf_modTen (s : State) (c t : Nat) (f : Tenancy → Tenancy)
    (h : (f (tenOf s c)).rings = (tenOf s c).rings ∧ (f (tenOf s c)).eqOverflow = (tenOf s c).eqOverflow ∧
      ((ringOf s c cq).enabled = true → (f (tenOf s c)).cqLost = (tenOf s c).cqLost)) : ringsOf t (modTen s c f) = ringsOf t s := by
  obtain ⟨hrings, hover, hlost⟩ := h
  unfold ringsOf ringOf at *
  rw [modTen, tenOf_setTen]
  split
  case isTrue htc =>
    subst htc
    rw [hrings, hover]
    cases hen : (mget Ring.empty (tenOf s t).rings cq).enabled
    · rfl
    · rw [hlost hen]
  case isFalse => rfl

/-- What executors hold moves no ring. -/
theorem setHeld_rings (s : State) (c t : Nat) (l : List CRec) : ringsOf t (setHeld s c l) = ringsOf t s :=
  ringsOf_modTen s c t _ ⟨rfl, rfl, fun _ => rfl⟩

/-- A lost record sets CQ_LOST, and of the tenancies nothing else but the time of its entry. (R86) -/
theorem loseRecord_tens (s : State) (c : Nat) (r : CRec) : ∃ at_, (loseRecord s c r).tens =
    (setTen s c { tenOf s c with cqLost := true, cqLostAt := at_ }).tens := by
  unfold loseRecord
  simp only [apply_ite State.tens, logAdd_frame, meter_frame, ite_self]
  exact ⟨_, rfl⟩

/-- A record that falls due moves no ring, and is lost only where the completion ring is not enabled. -/
theorem postRecord_rings (s : State) (c t : Nat) (r : CRec) : ringsOf t (postRecord s c r) = ringsOf t s := by
  unfold postRecord
  split
  case isTrue hoff =>
    have hlost : ∀ at_, ringsOf t (setTen s c { tenOf s c with cqLost := true, cqLostAt := at_ }) = ringsOf t s := fun at_ =>
      ringsOf_modTen s c t (fun x => { x with cqLost := true, cqLostAt := at_ }) ⟨rfl, rfl, fun h => by simp [h] at hoff⟩
    obtain ⟨at_, htens⟩ := loseRecord_tens s c r
    exact (ringsOf_congr t htens).trans (hlost at_)
  case isFalse =>
    split
    · rfl
    · split <;> exact ringsOf_modTen s c t _ ⟨rfl, rfl, fun _ => rfl⟩

/-- A held completion that falls due again moves no ring. -/
theorem settleOne_rings (s : State) (c t : Nat) : ringsOf t (settleOne s c) = ringsOf t s := by
  unfold settleOne
  split
  · rw [setHeld_rings, postRecord_rings, setHeld_rings]
  · rfl

/-- Held completions that fall due again move no ring. -/
theorem settleHeld_rings (n : Nat) (s : State) (t : Nat) : ringsOf t (settleHeld n s) = ringsOf t s := by
  induction n generalizing s with
  | zero => rfl
  | succ n ih =>
    unfold settleHeld
    split
    · rw [ih, settleOne_rings]
    · rfl

/-- Nor do all of them. -/
theorem settleAll_rings (s : State) (t : Nat) : ringsOf t (settleAll s) = ringsOf t s := settleHeld_rings ..

/-- An entry whose fetch failed moves no ring. -/
theorem poisonEntry_rings (s : State) (c j t : Nat) (index : BitVec 16) : ringsOf t (poisonEntry s c j index) = ringsOf t s := by
  unfold poisonEntry
  rw [postRecord_rings]
  refine (ringsOf_congr t ?_).trans (ringsOf_congr t (violate_leaves s c 0x0D j 64 0 0 index.toNat).1)
  simp [logEnd, logEndAt, logAddAt]

/-- A fetch replaced moves no ring. -/
theorem putFetch_rings (s : State) (f : Fetch) (t : Nat) : ringsOf t (putFetch s f) = ringsOf t s := by
  unfold putFetch
  split <;> rfl

/-- Entries that a ring releases move no ring of a tenancy. -/
theorem releaseRing_rings (fuel : Nat) (s : State) (c j t : Nat) : ringsOf t (releaseRing fuel s c j) = ringsOf t s := by
  induction fuel generalizing s with
  | zero => rfl
  | succ n ih =>
    unfold releaseRing
    split
    · rfl
    · split
      · rfl
      · rw [ih, putFetch_rings]
      · dsimp only
        split
        · rw [ih, putFetch_rings]
          rfl
        · split
          · rw [ih, putFetch_rings, poisonEntry_rings]
          · rfl

/-- Nor do the entries of all its rings. -/
theorem releaseRings_rings (s : State) (c t : Nat) : ringsOf t (releaseRings s c) = ringsOf t s :=
  foldl_keeps (ringsOf t) (fun s j => releaseRing_rings 32 s c j t) _ s

/-! Doorbells (R66 to R69). -/

/-- A ring set is the ring read, and no other ring of its tenancy changes. -/
theorem ringOf_setRing (s : State) (t j i : Nat) (r : Ring) : ringOf (setRing s t j r) t i = if i = j then r else ringOf s t i := by
  rw [ringOf, setRing, tenOf_modTen_self, mget_mset]
  rfl

/-- The ring numbers of Table 3.1. -/
theorem ringSlot_eq_some {id j : Nat} : ringSlot id = some j ↔ (id < 4 ∧ j = id) ∨ (id = 8 ∧ j = 4) ∨ (id = 9 ∧ j = 5) := by
  unfold ringSlot cq eq5
  split
  · simp; omega
  · split
    · simp; omega
    · split <;> simp <;> omega

/-- The state in which the host's head of a ring is set and the loss that the ring reported is cleared. -/
def headSet (s : State) (t j : Nat) (head : BitVec 16) : State :=
  modTen (setRing s t j { ringOf s t j with head := head }) t (fun x => if j = cq then { x with cqLost := false } else { x with eqOverflow := false })

/-- What the host then reads of its rings. -/
theorem headSet_shows (s : State) (t j : Nat) (head : BitVec 16) :
    (∀ i, ringOf (headSet s t j head) t i = if i = j then { ringOf s t j with head := head } else ringOf s t i) ∧
    (j = 5 → (tenOf (headSet s t j head) t).eqOverflow = false) ∧ (j = 4 → (tenOf (headSet s t j head) t).cqLost = false) := by
  have hrings : ∀ x : Tenancy, (if j = cq then { x with cqLost := false } else { x with eqOverflow := false } : Tenancy).rings = x.rings := fun x => by
    split <;> rfl
  refine ⟨fun i => ?_, fun hj => ?_, fun hj => ?_⟩
  · rw [← ringOf_setRing, ringOf, headSet, tenOf_modTen_self, hrings]
    rfl
  · rw [headSet, tenOf_modTen_self, if_neg (by rw [hj]; decide)]
  · rw [headSet, tenOf_modTen_self, if_pos (show j = cq from hj)]

section
variable {s : State} {t j : Nat} {v : Word64} {r : Ring} (hring : ringOf s t j = r)

/-- A doorbell of another size or place is a violation. (R66) -/
theorem doorbell_misplaced {off size : Nat} (hen : (tenOf s t).enabled = true) (h : size ≠ 8 ∨ off ≠ 0) :
    doorbell s t off size v = violate s t 1 0 size off 0 v.toNat := by
  simp [doorbell, hen, h]

/-- A doorbell of a tenancy that does not exist is a violation. (R42) -/
theorem doorbell_absent {off size : Nat} (hen : (tenOf s t).enabled = false) :
    doorbell s t off size v = violate s t 10 (bits v 16 4) size off 0 v.toNat := by
  simp [doorbell, hen]

/-- A doorbell that names no ring, one that is not enabled, or with reserved bits, is a violation with a fault record. (R66) -/
theorem doorbell_bad (hen : (tenOf s t).enabled = true)
    (h : ∀ i, ringSlot (bits v 16 4) = some i → bits v 20 44 ≠ 0 ∨ (ringOf s t i).enabled = false) :
    doorbell s t 0 8 v =
      violationFault (violate s t 2 (bits v 16 4) 8 0 0 v.toNat) t .badField 2 (bits v 16 4) 8 0 0 v.toNat := by
  unfold doorbell
  simp only [hen]
  rw [if_neg (by simp), if_neg (by simp)]
  split
  · rfl
  · next i hi => exact if_pos (h i hi)

include hring

/-- A doorbell of an enabled ring goes to it. -/
theorem doorbell_good (hen : (tenOf s t).enabled = true) (hslot : ringSlot (bits v 16 4) = some j) (hreserved : bits v 20 44 = 0)
    (hon : r.enabled = true) : doorbell s t 0 8 v = if j < 4 then tailDoorbell s t j v else headDoorbell s t j (bits v 16 4) v := by
  subst hring
  unfold doorbell
  simp only [hen, hslot]
  rw [if_neg (by simp), if_neg (by simp), if_neg (by simp [hreserved, hon])]

/-- A tail within the reach of its ring enters it. (R67) -/
theorem tailDoorbell_taken (hlow : (r.tail - r.head).toNat ≤ (BitVec.ofNat 16 (bits v 0 16) - r.head).toNat)
    (hhigh : (BitVec.ofNat 16 (bits v 0 16) - r.head).toNat ≤ 2 ^ r.log2 - 1) : tailDoorbell s t j v =
      traceEv (setRing s t j { r with tail := BitVec.ofNat 16 (bits v 0 16), held := false }) 0x0E t (srcNum 0xA j) 0 0 0 := by
  subst hring
  unfold tailDoorbell
  dsimp only
  rw [if_neg (by omega), if_neg (by omega)]

/-- Any other tail is refused, and holds the ring. (R68) -/
theorem tailDoorbell_refused (h : 2 ^ r.log2 - 1 < (BitVec.ofNat 16 (bits v 0 16) - r.head).toNat ∨
      (BitVec.ofNat 16 (bits v 0 16) - r.head).toNat < (r.tail - r.head).toNat) {n : Nat}
    (hn : n = if 2 ^ r.log2 - 1 < (BitVec.ofNat 16 (bits v 0 16) - r.head).toNat then 3 else 4) : tailDoorbell s t j v =
      setRing (violationFault (violate s t n j 8 0 r.tail.toNat v.toNat) t .ringIndexInvalid n j 8 0 r.tail.toNat v.toNat) t j { r with held := true } := by
  subst hring hn
  unfold tailDoorbell
  dsimp only
  split
  case isTrue hfar => rfl
  case isFalse hfar => exact if_pos (h.resolve_left hfar)

/-- A head out of reach is refused. (R69) -/
theorem headDoorbell_refused {id : Nat} (h : (r.tail - r.head).toNat < (BitVec.ofNat 16 (bits v 0 16) - r.head).toNat) :
    headDoorbell s t j id v =
      violationFault (violate s t 5 id 8 0 r.head.toNat v.toNat) t .ringIndexInvalid 5 id 8 0 r.head.toNat v.toNat := by
  subst hring
  unfold headDoorbell
  dsimp only
  rw [if_neg (by omega)]

/-- A head within reach frees the entries before it, and clears the loss that its ring reported. (R69, R79, R85) -/
theorem headDoorbell_taken {id : Nat} (hon : r.enabled = true) (h : (BitVec.ofNat 16 (bits v 0 16) - r.head).toNat ≤ (r.tail - r.head).toNat) :
    (ringOf (headDoorbell s t j id v) t j).head = BitVec.ofNat 16 (bits v 0 16) ∧
    (j = 4 → (tenOf (headDoorbell s t j id v) t).cqLost = false) ∧ (j = 5 → (tenOf (headDoorbell s t j id v) t).eqOverflow = false) := by
  subst hring
  have hrings : ringsOf t (headDoorbell s t j id v) = ringsOf t (headSet s t j (BitVec.ofNat 16 (bits v 0 16))) := by
    unfold headDoorbell
    dsimp only
    rw [if_pos h, releaseRings_rings, settleAll_rings]
    exact ringsOf_congr t (by simp [headSet])
  obtain ⟨hsame, hover, hlost⟩ := headSet_shows s t j (BitVec.ofNat 16 (bits v 0 16))
  simp only [ringsOf, Prod.mk.injEq] at hrings
  obtain ⟨hkept, hoverKept, hlostKept⟩ := hrings
  have hring : ∀ i, ringOf (headDoorbell s t j id v) t i = ringOf (headSet s t j (BitVec.ofNat 16 (bits v 0 16))) t i := fun i => by
    rw [ringOf, ringOf, hkept]
  refine ⟨by rw [hring, hsame, if_pos rfl], fun hj => ?_, fun hj => ?_⟩
  · rw [hring, hsame, if_pos (show cq = j from hj.symm), hlost hj] at hlostKept
    simpa [hon] using hlostKept
  · rw [hoverKept, hover hj]

end

end Sys2Proof.Machine

namespace Sys2Proof.Machine

/-- A violation with a fault record moves no ring. -/
theorem violateFault_rings (s : State) (t : Nat) (st : Status) (num ident size off expected value j : Nat) :
    ringOf (violationFault (violate s t num ident size off expected value) t st num ident size off expected value) t j = ringOf s t j := by
  obtain ⟨-, -, -, hrings, -⟩ := violationFault_leaves (violate s t num ident size off expected value) t st num ident size off expected value t
  obtain ⟨htens, -⟩ := violate_leaves s t num ident size off expected value
  rw [ringOf, hrings, tenOf, htens]
  rfl

/-- A ring held after its access was discarded. -/
theorem discarded_setRing {s u : State} {t num place size off expected value j : Nat} {r : Ring} (h : discarded s u t num place size off expected value)
    (hr : r.tail = (ringOf s t j).tail ∧ r.head = (ringOf s t j).head) : discarded s (setRing u t j r) t num place size off expected value := by
  obtain ⟨hentry, hnext, hmeter, hrings, hslots, hactive⟩ := h
  refine ⟨hentry, hnext, hmeter, fun i => ?_, ?_, hactive⟩
  · rw [ringOf_setRing]
    split
    case isTrue hi => rw [hi]; exact hr
    case isFalse => exact hrings i
  · rw [setRing, tenOf_modTen_self]
    exact hslots

/-! A page's locations (Table 2.7). -/

section
variable {s : State} {t off size : Nat} (hen : (tenOf s t).enabled = true)
include hen

/-- A read of a write-only location gives 0. (R44) -/
theorem pageRead_writeOnly (h : off + size ≤ 8 ∨ (0x1000 ≤ off ∧ off + size ≤ 0x1400)) :
    pageRead s t off size = emit s (.readData (pageMa t off) (List.replicate size 0) false) := by
  simp [pageRead, hen, h]

/-- A read of the status word. (R88) -/
theorem pageRead_status (hlow : 0x100 ≤ off) (hhigh : off + size ≤ 0x108) : pageRead s t off size =
    emit s (.readData (pageMa t off) (((leBytes 8 (statusWord s t).toNat).drop (off - 0x100)).take size) false) := by
  have hother : ¬ (off + size ≤ 8 ∨ (0x1000 ≤ off ∧ off + size ≤ 0x1400)) := by omega
  simp only [pageRead, hen]
  rw [if_neg (by simp), if_neg hother, if_pos ⟨hlow, hhigh⟩]

/-- A read of any other place is a violation. (R44, log entry 109) -/
theorem pageRead_reserved (h : 8 < off + size ∧ (off < 0x1000 ∨ 0x1400 < off + size) ∧ (off < 0x100 ∨ 0x108 < off + size)) : pageRead s t off size =
    emit (violate s t 9 0 size off 0 0) (.readData (pageMa t off) (List.replicate size 0xFF) false) := by
  simp only [pageRead, hen]
  rw [if_neg (by simp), if_neg (by omega), if_neg (by omega)]

/-- A write at a location that is none of the page's doorbell and slots is a violation. (R44) -/
theorem pageWrite_reserved (d : Descriptor) (hlow : 8 ≤ off) (hslots : off < 0x1000 ∨ 0x1400 ≤ off) : pageWrite s t off size d =
    violate s t (if 0x100 ≤ off ∧ off + size ≤ 0x108 then 8 else 9) 0 size off 0 (dfield d 0 8) := by
  simp only [pageWrite, hen]
  rw [if_neg (by simp), if_neg (by omega)]
  split
  · rfl
  · exact if_neg (by omega)

/-- A write at the doorbell. (R66) -/
theorem pageWrite_doorbell (d : Descriptor) (h : off < 8) : pageWrite s t off size d = doorbell s t off size (BitVec.ofNat 64 (dfield d 0 8)) := by
  simp [pageWrite, hen, h]

/-- A write at the slots. (R74) -/
theorem pageWrite_slots (d : Descriptor) (hlow : 0x1000 ≤ off) (hhigh : off < 0x1400) : pageWrite s t off size d = slotWrite s t off size d := by
  simp only [pageWrite, hen]
  rw [if_neg (by simp), if_neg (by omega), if_neg (by omega), if_pos ⟨hlow, hhigh⟩]

omit hen in
/-- A write of a part of a slot, or across slots. (R75) -/
theorem slotWrite_part (d : Descriptor) (h : size ≠ 64 ∨ off % 64 ≠ 0) :
    slotWrite s t off size d = violate s t 6 (16 + (off - 0x1000) / 64) size off 0 (dfield d 0 8) := by
  simp [slotWrite, h]

end

/-- A whole slot written: a free one takes the descriptor, a taken one discards it. (R74, R76) -/
theorem slotWrite_whole (s : State) (t k : Nat) (d : Descriptor) : slotWrite s t (0x1000 + 64 * k) 64 d =
    if (mget none (tenOf s t).slots k).isSome then violate s t 7 (16 + k) 64 (0x1000 + 64 * k) 0 (dfield d 0 8)
    else modTen s t (fun x => { x with slots := mset none x.slots k (some d) }) := by
  have hslot : (0x1000 + 64 * k - 0x1000) / 64 = k := by omega
  simp only [slotWrite, hslot]
  exact if_neg (by omega)

/-- An access to the page of a tenancy that does not exist is a violation. (R42) -/
theorem pageRead_absent {s : State} {t : Nat} (off size : Nat) (hen : (tenOf s t).enabled = false) : pageRead s t off size =
    emit (violate s t 10 0 size off 0 0) (.readData (pageMa t off) (List.replicate size 0xFF) false) := by
  simp [pageRead, hen]

/-- So is a write there. -/
theorem pageWrite_absent {s : State} {t : Nat} (off size : Nat) (d : Descriptor) (hen : (tenOf s t).enabled = false) : pageWrite s t off size d =
    violate s t 10 0 size off 0 (dfield d 0 8) := by
  simp [pageWrite, hen]

/-- What a host writes to a page as a command carries it. -/
theorem dfield_ofNat (v : Word64) : BitVec.ofNat 64 (dfield (BitVec.ofNat 512 v.toNat) 0 8) = v := by
  refine BitVec.eq_of_toNat_eq ?_
  have hv : v.toNat < 2 ^ 64 := v.isLt
  have hwide : v.toNat < 2 ^ 512 := by omega
  simp only [dfield, bits, BitVec.toNat_ofNat, Nat.mul_zero, Nat.pow_zero, Nat.div_one]
  omega

/-- An absent tenancy's page enters its violation and nothing else. -/
theorem violate_absent {s : State} {t : Nat} (ident size off value : Nat) (hroom : logRoom s) (hen : (tenOf s t).enabled = false) :
    (violate s t 10 ident size off 0 value).tens = s.tens ∧ (violate s t 10 ident size off 0 value).active = s.active ∧
    (violate s t 10 ident size off 0 value).meterQ = s.meterQ ∧ entered s (violate s t 10 ident size off 0 value) 1 10 := by
  obtain ⟨htens, hactive, -⟩ := violate_leaves s t 10 ident size off 0 value
  obtain ⟨-, hentry, hmeter⟩ := violate_enters t 10 ident size off 0 value hroom
  rw [hen] at hmeter
  exact ⟨htens, hactive, hmeter, _, hentry, rfl, rfl⟩

end Sys2Proof.Machine

/-- Settles O50: each access comes to one branch of the page's read, write or doorbell, and a discarded one to `violate_discards`. -/
theorem pageAccesses : Obligations.PageAccesses := by
  refine ⟨⟨fun ten off len v s hlink hroom => ⟨fun hen => ⟨fun h => ?_, fun hlow hhigh => ?_⟩, fun h => ?_, fun hen hlow hslots => ?_⟩,
    fun ten v s j r hlink hen hroom hid hj hreserved hring hon => ⟨fun hlow hhigh => ?_, fun h => ?_⟩,
    fun ten v s j r hlink hen hroom hid hreserved hring hon => ⟨fun h => ?_, fun h => ?_⟩,
    fun ten k off d s hlink hen hroom hoff => ?_⟩,
    fun ten off size v s hlink hen hroom c hc => ?_, fun ten off size d v s hlink => ⟨fun hen => ⟨fun hroom hlow hhigh h => ?_, ?_, fun hoff => ?_⟩, fun hen hroom c hc => ?_⟩⟩
  · exact (next_viaHost _ hlink).trans (congrArg _ (pageRead_writeOnly hen h))
  · exact (next_viaHost _ hlink).trans (congrArg _ (pageRead_status hen hlow hhigh))
  · obtain ⟨n, hn, hread⟩ : ∃ n, n = (if (tenOf s ten.toNat).enabled then 9 else 10) ∧ pageRead s ten.toNat off.toNat len =
        emit (violate s ten.toNat n 0 len off.toNat 0 0) (.readData (pageMa ten.toNat off.toNat) (List.replicate len 0xFF) false) := by
      cases hen : (tenOf s ten.toNat).enabled
      · exact ⟨_, rfl, pageRead_absent _ _ hen⟩
      · exact ⟨_, rfl, pageRead_reserved hen (h.resolve_left (by simp [hen]))⟩
    obtain ⟨htens, -, hout, -⟩ := violate_leaves s ten.toNat n 0 len off.toNat 0 0
    obtain ⟨-, hentry, -⟩ := violate_enters ten.toNat n 0 len off.toNat 0 0 hroom
    exact ⟨_, _, (next_viaHost _ hlink).trans (congrArg _ hread), (emit_out ..).trans (by rw [hout]), htens, hentry, rfl, hn⟩
  · obtain ⟨htens, hactive, -⟩ := violate_leaves s ten.toNat (if 0x100 ≤ off.toNat ∧ off.toNat + len ≤ 0x108 then 8 else 9) 0 len off.toNat 0
      (dfield (BitVec.ofNat 512 v.toNat) 0 8)
    obtain ⟨-, hentry, -⟩ := violate_enters ten.toNat (if 0x100 ≤ off.toNat ∧ off.toNat + len ≤ 0x108 then 8 else 9) 0 len off.toNat 0
      (dfield (BitVec.ofNat 512 v.toNat) 0 8) hroom
    exact ⟨_, _, (next_viaHost _ hlink).trans (congrArg _ (pageWrite_reserved hen _ hlow hslots)), htens, hactive, hentry, rfl, rfl⟩
  · have hexec : exec (.doorbellSubmission ten 0 8 v) s = .next (doorbell s ten.toNat 0 8 v) := next_viaHost _ hlink
    rw [doorbell_good hring hen (ringSlot_eq_some.2 (.inl ⟨by omega, by omega⟩)) hreserved hon, if_pos hj, tailDoorbell_taken hring hlow hhigh] at hexec
    refine ⟨_, hexec, ?_, by simp⟩
    rw [ringOf, tenOf]
    simp only [traceEv_frame]
    exact (ringOf_setRing ..).trans (if_pos rfl)
  · have hexec : exec (.doorbellSubmission ten 0 8 v) s = .next (doorbell s ten.toNat 0 8 v) := next_viaHost _ hlink
    rw [doorbell_good hring hen (ringSlot_eq_some.2 (.inl ⟨by omega, by omega⟩)) hreserved hon, if_pos hj, tailDoorbell_refused hring h.symm rfl] at hexec
    obtain ⟨-, hnext, -⟩ := violateFault_discards .ringIndexInvalid (if 2 ^ r.log2 - 1 < (BitVec.ofNat 16 (bits v 0 16) - r.head).toNat then 3 else 4)
      8 0 r.tail.toNat v.toNat hroom hen (show j < 4096 by omega)
    exact ⟨_, hexec, (ringOf_setRing ..).trans (if_pos rfl), hnext⟩
  · have hslot : ringSlot (bits v 16 4) = some j := ringSlot_eq_some.2 (by omega)
    have hexec : exec (.doorbellHead ten 0 8 v) s = .next (doorbell s ten.toNat 0 8 v) := next_viaHost _ hlink
    rw [doorbell_good hring hen hslot hreserved hon, if_neg (by omega)] at hexec
    exact ⟨_, hexec, headDoorbell_taken hring hon h⟩
  · have hslot : ringSlot (bits v 16 4) = some j := ringSlot_eq_some.2 (by omega)
    have hexec : exec (.doorbellHead ten 0 8 v) s = .next (doorbell s ten.toNat 0 8 v) := next_viaHost _ hlink
    rw [doorbell_good hring hen hslot hreserved hon, if_neg (by omega), headDoorbell_refused hring h] at hexec
    obtain ⟨-, hnext, -, hrings, -⟩ := violateFault_discards .ringIndexInvalid 5 8 0 r.head.toNat v.toNat hroom hen
      (show bits v 16 4 < 4096 by omega)
    exact ⟨_, hexec, (hrings j).2.trans (by rw [hring]), hnext⟩
  · have hexec : exec (.directSlotWrite ten off 64 d) s = .next (slotWrite s ten.toNat off.toNat 64 d) := by
      rw [← pageWrite_slots hen d (by omega) (by omega)]
      exact next_viaHost _ hlink
    rw [hoff, slotWrite_whole] at hexec
    refine ⟨fun hfree => ?_, fun htaken => ?_⟩
    · rw [hexec, hfree]
      rfl
    · rw [if_pos (Option.isSome_iff_ne_none.2 htaken)] at hexec
      obtain ⟨-, hentry, -⟩ := violate_enters ten.toNat 7 (16 + k.toNat) 64 (0x1000 + 64 * k.toNat) 0 (dfield d 0 8) hroom
      exact ⟨_, _, hexec, (violate_leaves ..).1, hentry, rfl, rfl⟩
  · have hexec : exec c s = .next (doorbell s ten.toNat off.toNat size v) := by
      simp only [List.mem_cons, List.not_mem_nil, or_false] at hc
      rcases hc with rfl | rfl <;> exact next_viaHost _ hlink
    refine ⟨fun h => ?_, fun hsize hoff id hid => ⟨fun h => ?_, fun j r ahead hreserved hring hon hahead => ⟨fun hsub hj h => ?_, fun hown h => ?_⟩⟩⟩
    · have hplace : size ≠ 8 ∨ off.toNat ≠ 0 := h.imp_right fun hn h0 => hn (BitVec.eq_of_toNat_eq h0)
      rw [doorbell_misplaced hen hplace] at hexec
      exact ⟨_, hexec, violate_discards 1 size off.toNat 0 v.toNat hroom hen (by decide), (violate_leaves ..).1⟩
    all_goals
      subst hsize hoff hid
      have hsmall : bits v 16 4 < 2 ^ 4 := Nat.mod_lt _ (by decide)
      have hident : bits v 16 4 < 4096 := by omega
      replace hexec : exec c s = .next (doorbell s ten.toNat 0 8 v) := hexec
    · rw [doorbell_bad hen fun i hi => ?_] at hexec
      · refine ⟨_, hexec, violateFault_discards _ 2 8 0 0 v.toNat hroom hen hident, fun j => ?_, violateFault_written _ 2 8 0 0 v.toNat hident⟩
        exact violateFault_rings ..
      · exact (h i).resolve_left (not_not_intro (ringSlot_eq_some.1 hi))
    · have hj4 : j < 4 := by omega
      rw [doorbell_good hring hen (ringSlot_eq_some.2 (.inl ⟨hsub, hj⟩)) hreserved hon, if_pos hj4,
        tailDoorbell_refused hring (hahead ▸ h) rfl, ← hahead] at hexec
      subst hj
      have hdiscards := violateFault_discards .ringIndexInvalid (if 2 ^ r.log2 - 1 < ahead then 3 else 4) 8 0 r.tail.toNat v.toNat hroom hen hident
      refine ⟨_, _, hexec, rfl, discarded_setRing hdiscards (by rw [hring]; exact ⟨rfl, rfl⟩), ?_, fun hfree => ?_⟩
      · rw [ringOf_setRing, if_pos rfl]
      · exact violateFault_written .ringIndexInvalid (if 2 ^ r.log2 - 1 < ahead then 3 else 4) 8 0 r.tail.toNat v.toNat hident hfree
    · have hslot : ringSlot (bits v 16 4) = some j := ringSlot_eq_some.2 (.inr hown)
      rw [doorbell_good hring hen hslot hreserved hon, if_neg (by omega), headDoorbell_refused hring (hahead ▸ h)] at hexec
      refine ⟨_, hexec, violateFault_discards _ 5 8 0 r.head.toNat v.toNat hroom hen hident, ?_, violateFault_written _ 5 8 0 r.head.toNat v.toNat hident⟩
      exact (violateFault_rings ..).trans hring
  · have hexec : exec (.directSlotWrite ten off size d) s = .next (pageWrite s ten.toNat off.toNat size d) := next_viaHost _ hlink
    rw [pageWrite_slots hen d hlow hhigh, slotWrite_part d h] at hexec
    exact ⟨_, hexec, violate_discards 6 size off.toNat 0 (dfield d 0 8) hroom hen (by omega), (violate_leaves ..).1⟩
  · exact rfl
  · have hsmall : (BitVec.ofNat 3 off.toNat).toNat = off.toNat := by
      rw [BitVec.toNat_ofNat]
      omega
    have hpage : exec (.controlPageInvalidAccess ten off size true v) s =
        .next (pageWrite s ten.toNat off.toNat size (BitVec.ofNat 512 v.toNat)) := next_viaHost _ hlink
    have hbell : exec (.doorbellSubmission ten (BitVec.ofNat 3 off.toNat) size v) s =
        .next (doorbell s ten.toNat (BitVec.ofNat 3 off.toNat).toNat size v) := next_viaHost _ hlink
    rw [hpage, hbell, hsmall, pageWrite_doorbell hen _ hoff, dfield_ofNat]
  · obtain ⟨ident, place, value, hexec⟩ : ∃ ident place value, exec c s = .next (violate s ten.toNat 10 ident size place 0 value) := by
      simp only [List.mem_cons, List.not_mem_nil, or_false] at hc
      rcases hc with rfl | rfl | rfl | rfl
      · exact ⟨_, _, _, (next_viaHost _ hlink).trans (congrArg _ (doorbell_absent hen))⟩
      · exact ⟨_, _, _, (next_viaHost _ hlink).trans (congrArg _ (doorbell_absent hen))⟩
      · exact ⟨_, _, _, (next_viaHost _ hlink).trans (congrArg _ (pageWrite_absent _ _ _ hen))⟩
      · exact ⟨_, _, _, (next_viaHost _ hlink).trans (congrArg _ (pageWrite_absent _ _ _ hen))⟩
    exact ⟨_, hexec, violate_absent ident size place value hroom hen⟩

end

section
/-! Proofs of the statements of 02_address_map.md: the power-on sequence (O47). -/

open Sys2Proof Sys2Proof.Machine Sys2Proof.Safety

namespace Sys2Proof.Machine

/-! The boot directory (R400, Table 16.3). -/

/-- A copy that is written rules from then on: its serial number is the highest. -/
theorem storeDir_rules (s : State) (d : Bool × Bool × Bool) : (storeDir s d).flash.ruling =
    { preferredB := d.1, trial := d.2.1, attempted := d.2.2, valid := true, serial := s.flash.ruling.serial + 1 } := by
  unfold storeDir
  dsimp only
  cases hsecond : s.flash.second
  case false =>
    have hruling : s.flash.ruling = s.flash.dir0 := by
      rw [Flash.ruling, hsecond]
      rfl
    rw [hruling]
    simp [Flash.ruling, Flash.second]
  case true =>
    have hruling : s.flash.ruling = s.flash.dir1 := by
      rw [Flash.ruling, hsecond]
      rfl
    rw [hruling]
    simp [Flash.ruling, Flash.second]

/-- With no write postponed the copy that rules is the directory. -/
theorem bootDir_settled {s : State} (h : s.flash.postponed = none) :
    bootDir s = (s.flash.ruling.preferredB, s.flash.ruling.trial, s.flash.ruling.attempted) := by
  rw [bootDir, h, Option.getD_none]

/-- With the window open a directory write is stored at once. -/
theorem writeDir_open {s : State} (d : Bool × Bool × Bool) (h : windowOpen s = true) : writeDir s d = storeDir s d := if_pos h

/-! The choice of a slot at step 4 (R400, R403). -/

/-- An invalid slot noted: its CAUSE, and nothing else but an entry. -/
theorem slotInvalid_shows {s : State} {b : Bool} (h : slotGood s b = false) : (slotInvalid s b).flash = s.flash ∧ (slotInvalid s b).fuses = s.fuses ∧
    (slotInvalid s b).boot = { s.boot with cause := if b then 3 else 2 } := by
  unfold slotGood at h
  unfold slotInvalid
  cases hfault : imageFault s.fuses (slotImage s b) with
  | none => simp [hfault] at h
  | some c => simp

/-- Whether a slot verifies is a matter of the flash and the fuses. -/
theorem slotGood_congr {s t : State} (hflash : t.flash = s.flash) (hfuses : t.fuses = s.fuses) (b : Bool) : slotGood t b = slotGood s b := by
  rw [slotGood, slotGood, slotImage, slotImage, hflash, hfuses]

/-- The choice between the slots with the trial ruled out or noted. -/
def chooseSlot (s : State) : State :=
  if slotGood s (bootDir s).1 then startFirmware s (bootDir s).1 false
  else if slotGood (slotInvalid s (bootDir s).1) (!(bootDir s).1) then
    startFirmware (logAdd (slotInvalid s (bootDir s).1) 2 (srcNum 0xE 0) 0x08 0x03 none none
      (leBytes 1 (b2n !(bootDir s).1) ++ leBytes 1 (slotInvalid s (bootDir s).1).boot.cause)) (!(bootDir s).1) true
  else
    stepFailed { slotInvalid (slotInvalid s (bootDir s).1) (!(bootDir s).1) with
      boot := { (slotInvalid (slotInvalid s (bootDir s).1) (!(bootDir s).1)).boot with phase := .recovery } } 4
      (slotInvalid (slotInvalid s (bootDir s).1) (!(bootDir s).1)).boot.cause

/-- At step 4 the trial is ruled on, and then a slot is chosen. -/
theorem exec_firmwareVerify {s : State} (hphase : s.boot.phase = .sequence) (hstep : s.boot.step = 4) :
    exec .firmwareVerify s = .next (chooseSlot (trialStep s)) := by
  show execFirmwareVerify s = _
  unfold execFirmwareVerify
  rw [if_pos (by simp [hphase, hstep])]
  rfl

/-- Without a trial step 1 of R400 changes nothing. -/
theorem trialStep_none {s : State} {p : Bool} (h : bootDir s = (p, false, false)) : trialStep s = s := by
  unfold trialStep
  rw [h]

/-- An attempt that failed is reverted. -/
theorem trialStep_failed {s : State} {p x : Bool} (h : bootDir s = (p, x, true)) : trialStep s = writeDir s (!p, false, false) := by
  unfold trialStep
  rw [h]

/-- A trial is noted as attempted. -/
theorem trialStep_begins {s : State} {p : Bool} (h : bootDir s = (p, true, false)) : trialStep s = writeDir s (p, true, true) := by
  unfold trialStep
  rw [h]

/-- The preferred slot starts if it verifies. -/
theorem chooseSlot_preferred {s : State} (h : slotGood s (bootDir s).1 = true) : chooseSlot s = startFirmware s (bootDir s).1 false := if_pos h

/-- Where it does not verify, the other starts as fallback. -/
theorem chooseSlot_other {s : State} (h : slotGood s (bootDir s).1 = false) (hother : slotGood s (!(bootDir s).1) = true) :
    (chooseSlot s).boot.step = 5 ∧ (chooseSlot s).boot.slotB = (!(bootDir s).1) ∧ (chooseSlot s).boot.fallback = true := by
  obtain ⟨hflash, hfuses, -⟩ := slotInvalid_shows h
  unfold chooseSlot
  rw [if_neg (by simp [h]), if_pos ((slotGood_congr hflash hfuses _).trans hother)]
  exact ⟨rfl, rfl, rfl⟩

/-- With neither the module is in recovery mode, and CAUSE names the slot that it tried last. -/
theorem chooseSlot_neither {s : State} (h : slotGood s (bootDir s).1 = false) (hother : slotGood s (!(bootDir s).1) = false) :
    (chooseSlot s).boot.phase = .recovery ∧ (chooseSlot s).boot.cause = if (bootDir s).1 then 2 else 3 := by
  obtain ⟨hflash, hfuses, -⟩ := slotInvalid_shows h
  have hbad := (slotGood_congr hflash hfuses (!(bootDir s).1)).trans hother
  obtain ⟨-, -, hboot⟩ := slotInvalid_shows hbad
  unfold chooseSlot
  rw [if_neg (by simp [h]), if_neg (by simp [hbad]), hboot]
  refine ⟨rfl, ?_⟩
  show (if (!(bootDir s).1) = true then 3 else 2) = _
  cases (bootDir s).1 <;> rfl

/-- Whatever slot starts, the directory stays as the trial left it. -/
theorem chooseSlot_flash (s : State) : (chooseSlot s).flash = s.flash := by
  unfold chooseSlot
  split
  case isTrue => rfl
  case isFalse hbad =>
    obtain ⟨hflash, hfuses, -⟩ := slotInvalid_shows (Bool.eq_false_iff.2 hbad)
    split
    case isTrue => exact hflash
    case isFalse hbad' =>
      obtain ⟨hflash', -, -⟩ := slotInvalid_shows (Bool.eq_false_iff.2 hbad')
      exact hflash'.trans hflash

/-! Memory initialisation (R397, R404). -/

/-- A key that no entry of a filtered table may have reads as the default. -/
theorem mget_filter_none {α : Type} (d : α) (m : SMap α) (p : Nat → Bool) {k : Nat} (h : p k = false) : mget d (m.filter (fun e => p e.1)) k = d := by
  induction m with
  | nil => rfl
  | cons e t ih =>
    rw [List.filter_cons]
    split
    case isTrue he =>
      have hne : e.1 ≠ k := fun hek => by rw [hek, h] at he; exact absurd he (by decide)
      obtain ⟨i, v⟩ := e
      rw [mget, if_neg hne, ih]
    case isFalse => exact ih

/-- After an initialisation every word reads zero, but in a stack that failed training. -/
theorem zeroMemory_zero {s : State} {w : Nat} (h : s.boot.deadStack ≠ some (w / 2 ^ 34)) : dramWord (zeroMemory s) w = 0 ∧ dramCheck (zeroMemory s) w = 0 := by
  have hbyte : ∀ i < 4, mget 0 (zeroMemory s).dram (4 * w + i) = 0 := fun i hi => by
    refine mget_filter_none 0 s.dram (fun k => s.boot.deadStack == some (k / 2 ^ 36)) ?_
    have hstack : (4 * w + i) / 2 ^ 36 = w / 2 ^ 34 := by omega
    rw [hstack]
    simpa using h
  have hcheck : dramCheck (zeroMemory s) w = 0 :=
    mget_filter_none 0 s.check (fun k => s.boot.deadStack == some (k / 2 ^ 34)) (by simpa using h)
  refine ⟨?_, hcheck⟩
  have hbytes : mgetAll 0 (zeroMemory s).dram (4 * w) 4 = [0, 0, 0, 0] :=
    List.map_congr_left (g := fun _ => 0) fun i hi => hbyte i (List.mem_range.1 hi)
  rw [dramWord, hbytes]
  rfl

/-! Step 8 (R396, R400). -/

/-- The directory as step 8 leaves it: a trial has succeeded. -/
def settleTrial (s : State) : State :=
  if ((bootDir s).2.1 || (bootDir s).2.2) = true then writeDir s ((bootDir s).1, false, false) else s

/-- A directory write is a matter of the flash and the log. -/
theorem writeDir_leaves (s : State) (d : Bool × Bool × Bool) : (writeDir s d).boot = s.boot ∧ (writeDir s d).mgmt = s.mgmt := by
  unfold writeDir
  split
  · unfold storeDir
    dsimp only
    split <;> exact ⟨rfl, rfl⟩
  · exact ⟨rfl, rfl⟩

/-- The state in which step 8 has begun. -/
def atStepEight (s : State) : State := { s with boot := { s.boot with step := 8 } }

/-- Step 8 settles the trial, and then MEM_ACTIVE is set, or the module waits for GO. -/
theorem stepEight_runs {s : State} (h : s.boot.blocked = false) : stepEight s =
    if (settleTrial (atStepEight s)).mgmt.hold then
      { settleTrial (atStepEight s) with boot := { (settleTrial (atStepEight s)).boot with awaitGo := true } }
    else setMemActive (settleTrial (atStepEight s)) :=
  (if_neg (by simp [h])).trans rfl

/-- With the window open the trial is over. -/
theorem settleTrial_settles {s : State} (hopen : windowOpen s = true) (h : (bootDir s).2.1 = true ∨ (bootDir s).2.2 = true) :
    (settleTrial s).flash.ruling.trial = false ∧ (settleTrial s).flash.ruling.attempted = false ∧
    (settleTrial s).flash.ruling.preferredB = (bootDir s).1 := by
  unfold settleTrial
  rw [if_pos (by simpa using h), writeDir_open _ hopen, storeDir_rules]
  exact ⟨rfl, rfl, rfl⟩

/-- Settling a trial is a matter of the flash alone. -/
theorem settleTrial_leaves (s : State) : (settleTrial s).boot = s.boot ∧ (settleTrial s).mgmt = s.mgmt := by
  unfold settleTrial
  split
  · exact writeDir_leaves _ _
  · exact ⟨rfl, rfl⟩

/-- What stands once step 8 has run. -/
theorem stepEight_shows {s : State} (h : s.boot.blocked = false) :
    (stepEight s).boot.step = 8 ∧ (stepEight s).boot.linkUp = s.boot.linkUp ∧ (stepEight s).flash = (settleTrial (atStepEight s)).flash ∧
    (s.mgmt.hold = false → (stepEight s).boot.memActive = true) ∧
    (s.mgmt.hold = true → (stepEight s).boot.awaitGo = true ∧ (stepEight s).boot.memActive = s.boot.memActive) := by
  obtain ⟨hboot, hmgmt⟩ := settleTrial_leaves (atStepEight s)
  rw [stepEight_runs h, hmgmt]
  cases hhold : s.mgmt.hold
  · rw [if_neg (by simp [atStepEight, hhold])]
    refine ⟨?_, ?_, rfl, fun _ => rfl, fun h => absurd h (by decide)⟩ <;> simp only [setMemActive, hboot] <;> rfl
  · rw [if_pos (by simp [atStepEight, hhold])]
    refine ⟨?_, ?_, rfl, fun h => absurd h (by decide), fun _ => ⟨rfl, ?_⟩⟩ <;> simp only [hboot] <;> rfl

/-- The host link up: it is noted and put out, and nothing else. -/
theorem hostLinkUp_shows {s : State} (h : s.boot.linkUp = false) : ∃ t, t = hostLinkUp s ∧ t.boot.linkUp = true ∧
    t.boot = { s.boot with linkUp := true } ∧ t.flash = s.flash ∧ t.mgmt = s.mgmt ∧ windowOpen t = windowOpen s := by
  refine ⟨_, rfl, ?_⟩
  unfold hostLinkUp
  rw [if_neg (by simp [h])]
  exact ⟨rfl, rfl, rfl, rfl, rfl⟩

/-! Step 5 (R396, R442). -/

/-- The provisioned values are registers; the record and HOLD go to the management path. -/
theorem loadProvision_shows (s : State) : (loadProvision s).boot = s.boot ∧ (loadProvision s).clk = s.clk ∧ (loadProvision s).flash = s.flash ∧
    (loadProvision s).mgmt = { s.mgmt with hold := s.flash.provision.hold, prov := some s.flash.provision } := by
  have hfields := foldl_keeps (fun u => (u.boot, u.clk, u.flash, u.mgmt)) (f := fun s e => setRwl s e.1 e.2) (fun _ _ => rfl) s.flash.provision.fields s
  simp only [Prod.mk.injEq] at hfields
  obtain ⟨hboot, hclk, hflash, hmgmt⟩ := hfields
  exact ⟨hboot, hclk, hflash, by unfold loadProvision; rw [← hmgmt]⟩

/-- The lanes of the eight stacks open. -/
theorem mget_openLanes {k : Nat} (hk : k < 8) : mget false ((List.range 8).map (fun k => (k, true))) k = true := by
  interval_cases k <;> rfl

/-! The events that end a step (R393, R397, R404). -/

/-- The state with the ROM done, but for the entry of a reset. -/
def romLocked (s : State) : State :=
  { s with mgmt := { s.mgmt with romSecret := fuseSecret s }, boot := { s.boot with step := 4, keyReady := true, secretLocked := true, resetDue := false } }

/-- The state with the links trained and the provisioned values loaded. -/
def linksTrained (s : State) : State :=
  loadProvision { s with boot := { s.boot with step := 6 }, clk := { s.clk with openLanes := (List.range 8).map (fun k => (k, true)) } }

section
variable {s : State} (hphase : s.boot.phase = .sequence)
include hphase

/-- The rails fail. -/
theorem exec_railsFailed (hstep : s.boot.step = 1) :
    exec (.railsUp false) s = .next (stepFailed { s with boot := { s.boot with phase := .stuck } } 1 1) :=
  congrArg Host.Outcome.next (if_pos (by simp [hphase, hstep]))

/-- The ROM is done. -/
theorem exec_romDone (hstep : s.boot.step = 3) : exec .romDone s = .next (if s.boot.resetDue then logReset (romLocked s) 0 else romLocked s) :=
  congrArg Host.Outcome.next (if_pos (by simp [hphase, hstep]))

/-- The links train. -/
theorem exec_linksTrained (hstep : s.boot.step = 5) (hcoast : s.clk.startCoast = false) : exec (.linkTrainingDone none) s = .next (linksTrained s) :=
  congrArg Host.Outcome.next (if_pos (by simp [hphase, hstep, hcoast]))

/-- A stack fails its training. -/
theorem exec_linkFailed (hstep : s.boot.step = 5) (hcoast : s.clk.startCoast = false) (k : BitVec 3) (arrays : Bool) :
    exec (.linkTrainingDone (some (k, arrays))) s = .next (stepFailed { linksTrained s with
      boot := { (linksTrained s).boot with blocked := true, stack := k.toNat, deadStack := some k.toNat },
      clk := { (linksTrained s).clk with openLanes := mset false (linksTrained s).clk.openLanes k.toNat false } } 5 (if arrays then 5 else 4)) :=
  congrArg Host.Outcome.next (if_pos (by simp [hphase, hstep, hcoast]))

/-- Memory initialisation waits for the domains. -/
theorem exec_memoryInit_waits (hstep : s.boot.step = 6) (hinit : s.boot.initDone = false) (hramps : rampsDone s = false) (f : Option (BitVec 12)) :
    exec (.memoryInit f) s = .next s :=
  congrArg Host.Outcome.next ((if_pos (by simp [hphase, hstep, hinit])).trans (if_neg (by simp [hramps])))

/-- Memory initialised at step 6. -/
theorem exec_memoryInit_ends (hstep : s.boot.step = 6) (hinit : s.boot.initDone = false) (hramps : rampsDone s = true) (f : Option (BitVec 12)) :
    exec (.memoryInit f) s = .next (initFailed { endInit (zeroMemory s) with
      boot := { (endInit (zeroMemory s)).boot with blocked := s.boot.blocked || f.isSome, notReady := false } } f) :=
  congrArg Host.Outcome.next ((if_pos (by simp [hphase, hstep, hinit])).trans (if_pos hramps))

omit hphase in
/-- Memory initialised again after a reset with Mem Clr. -/
theorem exec_memoryInit_again (hstep : 7 ≤ s.boot.step) (hready : s.boot.notReady = true) :
    exec (.memoryInit none) s = .next { zeroMemory s with boot := { s.boot with notReady := false } } := by
  have hne : s.boot.step ≠ 6 := by omega
  exact congrArg Host.Outcome.next ((if_neg (by simp [hne])).trans (if_pos hready))

section
variable (hstep : s.boot.step = 7) (hperst : s.boot.perst = false) (hcoast : s.clk.coast = false) (hlink : s.boot.linkUp = false)
include hstep hperst hcoast hlink

/-- The host link trains. -/
theorem exec_cxlTrained : exec (.cxlTrainDone true) s = .next (stepEight (hostLinkUp s)) := by
  obtain ⟨t, ht, -, hboot, -⟩ := hostLinkUp_shows hlink
  refine congrArg Host.Outcome.next ((if_pos (by simp [hphase, hstep, hperst, hcoast, hlink])).trans ?_)
  rw [if_pos rfl, ← ht]
  exact if_pos (by rw [hboot]; exact hstep)

/-- The host link fails to train. -/
theorem exec_cxlFailed : exec (.cxlTrainDone false) s = .next (stepFailed s 7 7) :=
  congrArg Host.Outcome.next (if_pos (by simp [hphase, hstep, hperst, hcoast, hlink]))

end

end

end Sys2Proof.Machine

/-- Settles O47: each event of the sequence by the branch that it takes, the slot by `chooseSlot`, and step 8 by `stepEight_shows`. -/
theorem startUpSteps : Obligations.StartUpSteps := by
  refine ⟨fun s hphase => ?_, fun s => ?_, fun s hphase =>
    ⟨fun hstep => ⟨?_, ?_⟩, fun hstep => ?_, fun hstep hpost htrial hattempt => ?_, fun hstep hpost hopen => ?_, fun hstep hcoast => ⟨?_, fun k a => ?_⟩,
      fun hstep hinit => ⟨fun hramps f => ?_, fun hramps => ⟨?_, fun b => ?_⟩⟩, fun hstep hready => ?_, fun hstep hperst hcoast hlink => ⟨?_, ?_⟩⟩,
    fun s hlink => ⟨fun hgo => ?_, fun hgo => ?_, fun ways => next_viaHost _ hlink⟩⟩
  · have hexec : exec .powerGood s = .next (powerOn s) := congrArg Host.Outcome.next (if_pos hphase)
    exact ⟨_, hexec, rfl, rfl, rfl, rfl, rfl, rfl, rfl, rfl, rfl, rfl, rfl⟩
  · show execPerstDeassert s = _
    simp [execPerstDeassert]
  · exact congrArg _ (if_pos (by simp [hphase, hstep]))
  · exact ⟨_, exec_railsFailed hphase hstep, rfl, rfl⟩
  · refine ⟨_, exec_romDone hphase hstep, ?_⟩
    split
    case isTrue hdue =>
      obtain ⟨-, hentry⟩ := logAdd_taken (s := romLocked s) 1 (srcNum 0xE 0) 6 none none ([0, 0] ++ leBytes 1 0)
        (takes_of_class s.log s.ck (cls := 8) (by decide) (by decide))
      exact ⟨rfl, rfl, rfl, rfl, fun _ => ⟨_, hentry, rfl, rfl⟩⟩
    case isFalse hdue => exact ⟨rfl, rfl, rfl, rfl, fun h => absurd h hdue⟩
  · have hdir : bootDir s = (s.flash.ruling.preferredB, false, false) := by rw [bootDir_settled hpost, htrial, hattempt]
    have hexec := exec_firmwareVerify hphase hstep
    rw [trialStep_none hdir] at hexec
    have hpreferred : (bootDir s).1 = s.flash.ruling.preferredB := by rw [hdir]
    rw [← hpreferred]
    refine ⟨fun h => ⟨_, hexec, ?_⟩, fun h hother => ⟨_, hexec, chooseSlot_other h hother⟩, fun h hother => ⟨_, hexec, chooseSlot_neither h hother⟩⟩
    rw [chooseSlot_preferred h]
    exact ⟨rfl, rfl, rfl, rfl⟩
  · have hexec := exec_firmwareVerify hphase hstep
    refine ⟨_, hexec, fun hattempt => ?_, fun hattempt htrial => ?_⟩
    · rw [chooseSlot_flash, trialStep_failed ((bootDir_settled hpost).trans (by rw [hattempt])), writeDir_open _ hopen, storeDir_rules]
      exact ⟨rfl, rfl, rfl⟩
    · rw [chooseSlot_flash, trialStep_begins ((bootDir_settled hpost).trans (by rw [hattempt, htrial])), writeDir_open _ hopen, storeDir_rules]
      exact ⟨rfl, rfl, rfl⟩
  · obtain ⟨hboot, hclk, -, hmgmt⟩ :=
      loadProvision_shows { s with boot := { s.boot with step := 6 }, clk := { s.clk with openLanes := (List.range 8).map (fun k => (k, true)) } }
    refine ⟨_, exec_linksTrained hphase hstep hcoast, ?_⟩
    rw [linksTrained, hboot, hclk, hmgmt]
    exact ⟨rfl, rfl, rfl, fun k hk => mget_openLanes hk⟩
  · obtain ⟨hboot, -⟩ :=
      loadProvision_shows { s with boot := { s.boot with step := 6 }, clk := { s.clk with openLanes := (List.range 8).map (fun k => (k, true)) } }
    exact ⟨_, exec_linkFailed hphase hstep hcoast k a, congrArg Boot.step hboot, rfl, rfl, rfl, rfl⟩
  · exact exec_memoryInit_waits hphase hstep hinit hramps f
  · exact ⟨_, exec_memoryInit_ends hphase hstep hinit hramps none, rfl, rfl, Bool.or_false _, fun w hw => zeroMemory_zero hw⟩
  · exact ⟨_, exec_memoryInit_ends hphase hstep hinit hramps (some b), rfl, Bool.or_true _, rfl, rfl⟩
  · exact ⟨_, exec_memoryInit_again hstep hready, rfl, rfl, fun w hw => zeroMemory_zero hw⟩
  · obtain ⟨t, ht, hlink', hboot, hflash, hmgmt, hopen⟩ := hostLinkUp_shows hlink
    have hexec := exec_cxlTrained hphase hstep hperst hcoast hlink
    rw [← ht] at hexec
    have hblocked : t.boot.blocked = s.boot.blocked := by rw [hboot]
    have hactive : t.boot.memActive = s.boot.memActive := by rw [hboot]
    have hdir : bootDir t = bootDir s := by rw [bootDir, bootDir, hflash]
    refine ⟨_, hexec, ?_⟩
    cases hstuck : s.boot.blocked
    case true =>
      have hstay : stepEight t = t := if_pos (hblocked.trans hstuck)
      rw [hstay]
      exact ⟨by rw [hboot]; exact hstep, hlink', fun h => absurd h (by decide), fun h => absurd h (by decide), fun h => absurd h (by decide),
        fun _ => ⟨hactive, by rw [hboot]⟩⟩
    case false =>
      obtain ⟨hend, hup, hstored, hrun, hwait⟩ := stepEight_shows (hblocked.trans hstuck)
      rw [hmgmt, hactive] at *
      refine ⟨hend, hup.trans hlink', fun _ hwindow htrial => ?_, fun _ => hrun, fun _ => hwait, fun h => absurd h (by decide)⟩
      rw [hstored, ← hdir]
      exact settleTrial_settles (s := atStepEight t) (hopen.trans hwindow) (hdir ▸ htrial)
  · exact ⟨_, exec_cxlFailed hphase hstep hperst hcoast hlink, hlink, rfl, hstep⟩
  · refine ⟨_, next_viaHost _ hlink, ?_⟩
    rw [if_pos hgo]
    exact ⟨rfl, rfl⟩
  · refine (next_viaHost _ hlink).trans (congrArg _ (if_neg (by simp [hgo])))

end

section
/-! Proofs of the statements of 02_address_map.md: column slots, the scrubber, and copies (O35). -/

open Sys2Proof Sys2Proof.Machine Sys2Proof.Safety

namespace Sys2Proof.Machine

/-! Who gets a column slot (R121). -/

/-- With the arrays unpowered a slot does nothing. -/
theorem exec_columnSlot_off {b : BitVec 12} {s : State} (h : arraysOn s = false) : exec (.columnSlot b) s = .next s := by
  show execColumnSlot b s = _
  simp [execColumnSlot, h]

/-- A slot that no copy may take is the bank's. -/
theorem exec_columnSlot_bank {b : BitVec 12} {s : State} (hon : arraysOn s = true)
    (h : rmwOpen s b.toNat = true ∨ (bankOf s b.toNat).hostQ ≠ [] ∨ 8 ≤ (bankOf s b.toNat).owed ∨ copyAt s b.toNat = none) :
    exec (.columnSlot b) s = .next (grantSlot s b.toNat) := by
  have hbank : ∀ (x : Bool) (y : Option (BitVec 2)), x = false ∨ y = none →
      (match x, y with | true, some e => advanceCopy s e | _, _ => bankSlot b s) = grantSlot s b.toNat := by
    rintro x y (rfl | rfl)
    · rfl
    · cases x <;> rfl
  refine congrArg Host.Outcome.next ((if_neg (by simp [hon])).trans (hbank _ _ ?_))
  rcases h with h | h | h | h
  · exact .inl (by simp [h])
  · exact .inl (by simp [List.isEmpty_iff, h])
  · exact .inl (by simp only [Bool.and_eq_false_iff, decide_eq_false_iff_not]; omega)
  · exact .inr h

section
variable {s : State} {b : Nat}

/-- The write slot of a read-modify-write follows its read slot. (R341) -/
theorem grantSlot_rmw (h : rmwOpen s b = true) : grantSlot s b = drainSlot s b := if_pos h

variable (hrmw : rmwOpen s b = false)
include hrmw

/-- The oldest host access gets the slot unless a refresh is forced. -/
theorem grantSlot_host {h : SlotUse} {rest : List SlotUse} (hq : (bankOf s b).hostQ = h :: rest) (hfree : h.begun = true ∨ (bankOf s b).owed ≠ 8) :
    grantSlot s b = hostSlot s b h rest := by
  unfold grantSlot
  rw [if_neg (by simp [hrmw]), hq]
  dsimp only
  split
  · rfl
  · next hbegun => exact if_neg (hfree.resolve_left hbegun)

/-- A refresh is forced at 8 owed, with no host-class access in progress. (R125) -/
theorem grantSlot_refresh (howed : (bankOf s b).owed = 8) (hq : ∀ h ∈ (bankOf s b).hostQ, h.begun = false) : grantSlot s b = refresh s b := by
  unfold grantSlot
  rw [if_neg (by simp [hrmw])]
  split
  · next h rest hlist =>
    rw [if_neg (by simp [hq h (by simp [hlist])]), if_pos howed]
  · exact if_pos howed

variable (hq : (bankOf s b).hostQ = []) (howed : (bankOf s b).owed ≠ 8)
include hq howed

/-- A write queue of two pairs gets the slot. -/
theorem grantSlot_drain (hwq : 2 ≤ (unitOf s b).wq.length) : grantSlot s b = drainSlot s b := by
  unfold grantSlot
  rw [if_neg (by simp [hrmw]), hq]
  dsimp only
  rw [if_neg howed, if_pos (.inl hwq)]

/-- A unit with an empty write queue gives the slot to its prefetcher; what that leaves goes to a refresh that is owed. -/
theorem grantSlot_prefetch (hwq : (unitOf s b).wq = []) (hwants : wantsColumn (unitOf s b) = true)
    (hkept : (unitOf (prefetch 16 s b).2 b).wq = []) : grantSlot s b =
      if (prefetch 16 s b).1 then (prefetch 16 s b).2
      else if 0 < (bankOf (prefetch 16 s b).2 b).owed then refresh (prefetch 16 s b).2 b else (prefetch 16 s b).2 := by
  unfold grantSlot
  rw [if_neg (by simp [hrmw]), hq]
  dsimp only
  rw [if_neg howed, if_neg (by simp [hwq]), if_pos hwants]
  split
  · rfl
  · rw [hkept]
    rfl

/-- With nothing to do a slot does nothing. -/
theorem grantSlot_idle (hwq : (unitOf s b).wq = []) (hwants : wantsColumn (unitOf s b) = false) (hnone : (bankOf s b).owed = 0) :
    grantSlot s b = s := by
  unfold grantSlot
  rw [if_neg (by simp [hrmw]), hq]
  dsimp only
  rw [if_neg howed, if_neg (by simp [hwq]), if_neg (by simp [hwants]), hwq, if_neg (by simp), if_neg (by omega)]

end

/-! The row that an access opens (R125). -/

/-- The row of an access is open then, and a refresh owed may have taken the place of the precharge; the banks alone change. -/
theorem openRow_shows (s : State) (b row : Nat) : ∃ m, (openRow s b row).2 = { s with banks := m } ∧
    (bankOf (openRow s b row).2 b).openRow = some row ∧ (bankOf (openRow s b row).2 b).hostQ = (bankOf s b).hostQ ∧
    (bankOf (openRow s b row).2 b).owed = if (bankOf s b).openRow = some row ∨ (bankOf s b).openRow = none then (bankOf s b).owed
      else (bankOf s b).owed - 1 := by
  unfold openRow
  dsimp only
  split
  case isTrue h => exact ⟨s.banks, rfl, h, rfl, by rw [if_pos (.inl h)]⟩
  case isFalse h =>
    refine ⟨_, rfl, ?_⟩
    rw [bankOf_setBank, if_pos rfl]
    refine ⟨rfl, rfl, ?_⟩
    cases hopen : (bankOf s b).openRow with
    | none => simp
    | some r =>
      have hr : ¬ (r = row) := fun hr => h (by rw [hopen, hr])
      simp [hr]

/-- Charging a slot is a matter of the meters alone. -/
theorem chargeUnit_shows (s : State) (b n : Nat) (changed : Bool) : ∃ q, chargeUnit s b n changed = { s with meterQ := q } := by
  unfold chargeUnit
  split
  · exact ⟨_, rfl⟩
  · exact ⟨s.meterQ, rfl⟩

/-- What a host access pays for a slot. -/
def meterHost (s : State) (ten : Option Nat) (changed : Bool) : State :=
  match ten with
  | some t => meter s t 8 0 (80 + (if changed then 1100 else 0))
  | none => s

theorem meterHost_shows (s : State) (ten : Option Nat) (changed : Bool) : ∃ q, meterHost s ten changed = { s with meterQ := q } := by
  cases ten with
  | none => exact ⟨s.meterQ, rfl⟩
  | some t => exact ⟨_, rfl⟩

/-- A slot of a host access opens its row, is paid for, and is counted. -/
theorem hostSlot_eq (s : State) (b : Nat) (h : SlotUse) (rest : List SlotUse) : hostSlot s b h rest =
    setBank (meterHost (openRow s b h.row).2 h.ten (openRow s b h.row).1) b
      { bankOf (meterHost (openRow s b h.row).2 h.ten (openRow s b h.row).1) b with
        hostQ := if h.slots ≤ 1 then rest else { h with slots := h.slots - 1, begun := true } :: rest } := rfl

/-- What a slot of a host access leaves in the bank; the banks and the meters alone change. (R121, R125) -/
theorem hostSlot_shows (s : State) (b : Nat) (h : SlotUse) (rest : List SlotUse) : ∃ m q, hostSlot s b h rest = { s with banks := m, meterQ := q } ∧
    (bankOf (hostSlot s b h rest) b).openRow = some h.row ∧
    (bankOf (hostSlot s b h rest) b).hostQ = (if h.slots ≤ 1 then rest else { h with slots := h.slots - 1, begun := true } :: rest) ∧
    (bankOf (hostSlot s b h rest) b).owed = if (bankOf s b).openRow = some h.row ∨ (bankOf s b).openRow = none then (bankOf s b).owed
      else (bankOf s b).owed - 1 := by
  obtain ⟨m, hstate, hrow, -, howed⟩ := openRow_shows s b h.row
  obtain ⟨q, hq⟩ := meterHost_shows (openRow s b h.row).2 h.ten (openRow s b h.row).1
  have hbank : bankOf (meterHost (openRow s b h.row).2 h.ten (openRow s b h.row).1) b = bankOf (openRow s b h.row).2 b := by
    rw [hq]
    rfl
  rw [hostSlot_eq, hbank, hq, bankOf_setBank, if_pos rfl]
  exact ⟨_, q, by rw [hstate]; rfl, hrow, rfl, howed⟩

/-! Refresh intervals and the range table (R114, R125, R289). -/

/-- The end of a refresh interval: the bank owes one more, and the next interval follows the band. -/
theorem exec_refreshOwed {b : BitVec 12} {s : State} (hon : arraysOn s = true) : exec (.refreshOwed b) s =
    .next (setBank (advanceTo s ((bankOf s b.toNat).refFrom + refInterval (bankOf s b.toNat).refBand)) b.toNat
      { bankOf s b.toNat with owed := min 8 ((bankOf s b.toNat).owed + 1),
                              refFrom := (bankOf s b.toNat).refFrom + refInterval (bankOf s b.toNat).refBand,
                              refBand := (thmOf s (stackOf b.toNat)).band }) :=
  congrArg Host.Outcome.next (if_pos hon)

/-- The interval of a band in ticks, by Table 15.2. -/
theorem refInterval_eq (band : Nat) : refInterval band = if band = 0 then 12500 else if band = 1 then 6250 else 3125 := by
  unfold refInterval
  split
  · rfl
  · rfl
  · next h0 h1 => rw [if_neg h0, if_neg h1]

/-- Uncorrected, time passes to a due moment, and less than a cycle past it. -/
theorem advanceTo_reaches {s : State} (due : Nat) (hrun : clockRuns s = true) (hslew : s.net.slew = 0) (hrate : s.net.rate = 0)
    (hacc : s.net.rateAcc < 65536) : due ≤ (advanceTo s due).elapsed ∧ (advanceTo s due).elapsed < max due (s.elapsed + 1) + ckTicks s := by
  have hpos : ckTicks s = 4 ∨ ckTicks s = 1 := by
    unfold ckTicks
    split
    · exact .inl rfl
    · exact .inr rfl
  have hcycles : cyclesFor s (due - s.elapsed) = (due - s.elapsed + ckTicks s - 1) / ckTicks s := if_pos ⟨hslew, hrate⟩
  have hticks : ∀ c, ticksIn s c = c * ckTicks s := fun c => by
    have hslewed : slewTicks s c = 0 := by simp [slewTicks, hslew]
    have hgain : rateGain s c / 65536 = 0 := by
      rw [rateGain, hslewed, hrate]
      simp only [Int.natAbs_zero, Nat.min_zero, Nat.mul_zero, Nat.add_zero]
      omega
    unfold ticksIn
    rw [hslewed, hgain, hslew, hrate]
    exact Int.toNat_natCast _
  rw [advanceTo, advance, if_pos hrun, hcycles]
  show due ≤ s.elapsed + ticksIn s _ ∧ s.elapsed + ticksIn s _ < _
  rw [hticks]
  rcases hpos with h | h <;> rw [h] <;> omega

/-- A key dropped from a table with it inserted. -/
theorem mdrop_minsert {α : Type} (m : SMap α) (k : Nat) (v : α) : mdrop (minsert m k v) k = mdrop m k := by
  induction m with
  | nil => simp [minsert, mdrop]
  | cons e t ih =>
    obtain ⟨i, w⟩ := e
    unfold minsert
    split
    · simp [mdrop]
    · simp only [mdrop, List.filter_cons] at ih ⊢
      rw [ih]

/-- The later of two writes of a key is the one that stays. -/
theorem mset_mset {α : Type} [DecidableEq α] (d : α) (m : SMap α) (k : Nat) (v w : α) : mset d (mset d m k v) k w = mset d m k w := by
  have hdrop : mdrop (mset d m k v) k = mdrop m k := by
    have hidem : mdrop (mdrop m k) k = mdrop m k := by simp [mdrop]
    rw [mset]
    split
    · exact hidem
    · rw [mdrop_minsert, hidem]
  rw [mset, hdrop, mset]

theorem setUnit_setUnit (s : State) (b : Nat) (u v : BankUnit) : setUnit (setUnit s b u) b v = setUnit s b v := by
  simp only [setUnit, mset_mset]

/-- A fill whose page an entry of the tenancy serves puts it first into the unit's table. (R289, log entry 35) -/
theorem exec_translationFill_served {b : BitVec 12} {s : State} {pg : Nat} {x : XEntry} (hmiss : (unitOf s b.toNat).miss = some pg)
    (hserved : pageEntry s (coreTen s (.unit b)) pg (groupOf b.toNat) = some x) : exec (.translationFill b) s =
      .next (setUnit s b.toNat { unitOf s b.toNat with
        miss := none, ranges := ({ tpage := pg, ppage := x.ppage, write := x.write } :: (unitOf s b.toNat).ranges).take 16 }) := by
  have hten : coreTen (modUnit s b.toNat (fun u => { u with miss := none })) (.unit b) = coreTen s (.unit b) := by
    simp [coreTen, procOf, modUnit, coreOwner]
  have hentry : pageEntry (modUnit s b.toNat (fun u => { u with miss := none })) (coreTen (modUnit s b.toNat (fun u => { u with miss := none })) (.unit b))
      pg (groupOf b.toNat) = some x := by
    rw [hten, ← hserved]
    rfl
  show execTranslationFill b s = _
  unfold execTranslationFill
  rw [hmiss]
  dsimp only
  rw [hentry]
  simp only [modUnit, unitOf_setUnit, if_true, setUnit_setUnit]

/-! Slots of the write queue (R118, R119, R341). -/

section
variable (s : State) (b : Nat) (p : WPair) (rest : List WPair)

/-- A slot's row opened and paid for: what a slot of the unit begins with. -/
def slotOpened (s : State) (b row : Nat) : State := chargeUnit (openRow s b row).2 b 1 (openRow s b row).1

/-- Opening and paying a slot leaves the row open; the banks and the meters alone change. -/
theorem slotOpened_shows (s : State) (b row : Nat) : ∃ m q, slotOpened s b row = { s with banks := m, meterQ := q } ∧
    (bankOf (slotOpened s b row) b).openRow = some row := by
  obtain ⟨m, hstate, hrow, -, -⟩ := openRow_shows s b row
  obtain ⟨q, hq⟩ := chargeUnit_shows (openRow s b row).2 b 1 (openRow s b row).1
  refine ⟨m, q, by rw [slotOpened, hq, hstate], ?_⟩
  rw [slotOpened, hq]
  exact hrow

/-- A column written in part first takes a read slot, which changes no word. -/
theorem writeSlot_read (hpart : p.partial_ p.next = true) (hread : p.read = false) : writeSlot s b p rest =
    modUnit (slotOpened s b (p.addr / 4096)) b (fun u => { u with wq := { p with read := true } :: rest }) := by
  unfold writeSlot
  dsimp only
  rw [if_pos (by simp [hpart, hread])]
  rfl

/-- A write slot writes the column it concerns and takes the pair, or its first column, off the queue. -/
theorem writeSlot_commit (h : p.read = true ∨ p.partial_ p.next = false) (hdone : p.done = false) : writeSlot s b p rest =
    modUnit (commitColumn (slotOpened s b (p.addr / 4096)) b p p.next) b
      (fun u => { u with wq := if p.next = 0 && p.has 1 then { p with begun := true, read := false } :: rest else rest }) := by
  unfold writeSlot
  dsimp only
  rw [if_neg (by rcases h with h | h <;> simp [h]), hdone]
  rfl

/-- A column written: each of its words as `wordWritten` says, every other kept. -/
theorem commitColumn_written (c : Nat) :
    (∀ w, (∀ k < 8, w ≠ dramAddr b p.addr / 4 + 8 * c + k) → wordKept s (commitColumn s b p c) w) ∧
    ∀ k < 8, wordWritten s (commitColumn s b p c) (dramAddr b p.addr / 4 + 8 * c + k)
      (BitVec.ofNat 32 (bits p.data (256 * c + 32 * k) 32)) (bits p.en (32 * c + 4 * k) 4) (bit p.poison (8 * c + k)) := by
  obtain ⟨hother, hwords⟩ := writeWordsFrom_written (settleEnd s (.unit (buid b)))
    (unitReader (settleEnd s (.unit (buid b))) b) (dramAddr b p.addr / 4 + 8 * c) ((List.range 8).map (fun k => p.word (8 * c + k)))
  have hbefore := wordKept_of_mem (settleEnd_kept s (.unit (buid b))).2
  have hafter := fun w => wordKept_of_mem (writeOp_mem (settleEnd s (.unit (buid b)))
    (unitReader (settleEnd s (.unit (buid b))) b) (dramAddr b p.addr / 4 + 8 * c) ((List.range 8).map (fun k => p.word (8 * c + k)))) w
  rw [List.length_map, List.length_range] at hother
  refine ⟨fun w hw => wordKept_trans (hbefore w) (wordKept_trans (hother w ?_) (hafter w)), fun k hk => ?_⟩
  · by_contra hin
    exact hw (w - (dramAddr b p.addr / 4 + 8 * c)) (by omega) (by omega)
  · have hword : ((List.range 8).map (fun k => p.word (8 * c + k)))[k]? = some (BitVec.ofNat 32 (bits p.data (256 * c + 32 * k) 32),
        bits p.en (32 * c + 4 * k) 4, bit p.poison (8 * c + k)) := by
      simp only [List.getElem?_map, List.getElem?_range hk, Option.map_some, WPair.word]
      rw [show 32 * (8 * c + k) = 256 * c + 32 * k by omega, show 4 * (8 * c + k) = 32 * c + 4 * k by omega]
    exact wordWritten_of_wordKept (hbefore _) (hafter _) (hwords k _ _ _ hword).1

/-- The column that a pair's next slot concerns, as the statement numbers it. -/
theorem next_eq : p.next = if p.begun = false ∧ bits p.en 0 32 ≠ 0 then 0 else 1 := by
  cases hb : p.begun <;> simp [WPair.next, WPair.has, hb]

/-- A column needs a read slot when one of its words is written in part. -/
theorem partial_iff (c : Nat) : p.partial_ c = true ↔ ∃ k < 8, bits p.en (32 * c + 4 * k) 4 ≠ 0 ∧ bits p.en (32 * c + 4 * k) 4 ≠ 15 := by
  simp [WPair.partial_]

end

/-- A slot of the write queue goes to its oldest pair. -/
theorem drainSlot_oldest {s : State} {b : Nat} {p : WPair} {rest : List WPair} (hwq : (unitOf s b).wq = p :: rest) :
    drainSlot s b = writeSlot s b p rest := by
  unfold drainSlot
  rw [hwq]

/-- A free slot of a unit whose queue holds two pairs goes to the oldest. -/
theorem exec_columnSlot_drain {b : BitVec 12} {s : State} {p : WPair} {rest : List WPair} (hfree : slotFree s b)
    (hwq : (unitOf s b.toNat).wq = p :: rest) (htwo : rest ≠ []) : exec (.columnSlot b) s = .next (writeSlot s b.toNat p rest) := by
  obtain ⟨hon, hrmw, hq, howed, hcopy⟩ := hfree
  have hlen : 2 ≤ (unitOf s b.toNat).wq.length := by
    have := List.length_pos_iff.2 htwo
    rw [hwq, List.length_cons]
    omega
  rw [exec_columnSlot_bank hon (.inr (.inr (.inr hcopy))), grantSlot_drain hrmw hq (by omega) hlen, drainSlot_oldest hwq]

/-- The slots of the write queue's oldest pair: a read slot first where a word is written in part, then the column written. (R118, R119, R340, R341) -/
theorem writeQueue_slots (b : BitVec 12) (s : State) (p : WPair) (rest : List WPair) (c : Nat) (part : Prop)
    (hwq : (unitOf s b.toNat).wq = p :: rest) (hc : c = (if p.begun = false ∧ bits p.en 0 32 ≠ 0 then 0 else 1))
    (hpart : part ↔ ∃ k < 8, bits p.en (32 * c + 4 * k) 4 ≠ 0 ∧ bits p.en (32 * c + 4 * k) 4 ≠ 15) :
    (slotFree s b → rest ≠ [] → part → ∃ t, exec (.columnSlot b) s = .next t ∧ (unitOf t b.toNat).wq = { p with read := true } :: rest ∧
      (bankOf t b.toNat).openRow = some (p.addr / 4096) ∧ t.dram = s.dram ∧ t.check = s.check) ∧
    (arraysOn s = true → p.done = false → (p.read = true ∨ slotFree s b ∧ rest ≠ [] ∧ ¬ part) → ∃ t, exec (.columnSlot b) s = .next t ∧
      (unitOf t b.toNat).wq = (if c = 0 ∧ bits p.en 32 32 ≠ 0 then { p with begun := true, read := false } :: rest else rest) ∧
      (∀ w, (∀ k < 8, w ≠ dramAddr b.toNat p.addr / 4 + 8 * c + k) → wordKept s t w) ∧
      ∀ k < 8, wordWritten s t (dramAddr b.toNat p.addr / 4 + 8 * c + k)
        (BitVec.ofNat 32 (bits p.data (256 * c + 32 * k) 32)) (bits p.en (32 * c + 4 * k) 4) (bit p.poison (8 * c + k))) := by
  rw [← next_eq] at hc
  subst hc
  rw [← partial_iff] at hpart
  obtain ⟨m, q, hopened, hrow⟩ := slotOpened_shows s b.toNat (p.addr / 4096)
  refine ⟨fun hfree htwo hp => ⟨_, exec_columnSlot_drain hfree hwq htwo, ?_⟩, fun hon hdone h => ?_⟩
  · have hread : p.read = false := by
      obtain ⟨-, hrmw, -⟩ := hfree
      rwa [rmwOpen, hwq] at hrmw
    rw [writeSlot_read _ _ _ _ (hpart.1 hp) hread]
    refine ⟨?_, hrow, ?_⟩
    · simp [modUnit, unitOf_setUnit]
    · rw [hopened]
      exact ⟨rfl, rfl⟩
  · have hcommit : p.read = true ∨ p.partial_ p.next = false := h.imp_right fun ⟨_, _, hnot⟩ => by simpa [hpart] using hnot
    have hexec : exec (.columnSlot b) s = .next (writeSlot s b.toNat p rest) := by
      rcases h with hread | ⟨hfree, htwo, -⟩
      · have hrmw : rmwOpen s b.toNat = true := by rwa [rmwOpen, hwq]
        rw [exec_columnSlot_bank hon (.inl hrmw), grantSlot_rmw hrmw, drainSlot_oldest hwq]
      · exact exec_columnSlot_drain hfree hwq htwo
    have hbefore : ∀ w, wordKept s (slotOpened s b.toNat (p.addr / 4096)) w := fun w => by
      rw [hopened]
      exact ⟨rfl, rfl⟩
    obtain ⟨hother, hwords⟩ := commitColumn_written (slotOpened s b.toNat (p.addr / 4096)) b.toNat p p.next
    rw [writeSlot_commit _ _ _ _ hcommit hdone] at hexec
    refine ⟨_, hexec, ?_, fun w hw => wordKept_trans (hbefore w) (hother w hw),
      fun k hk => wordWritten_of_wordKept (hbefore _) ⟨rfl, rfl⟩ (hwords k hk)⟩
    simp [modUnit, unitOf_setUnit, WPair.has]

/-! What decoding and storing words may change: the words, the counts and entries of the decoder, the log, and the draws of values that the
spec leaves free. What an access adds: the slots it takes, and what they are metered. -/

/-- The second state is the first but for stored words and what their decoding counts, enters and draws. (R349, R350) -/
def noted (s t : State) : Prop := ∃ m c fr lg ec et el ul,
  t = { s with dram := m, check := c, free := fr, log := lg, ecc := ec, eccTot := et, eccLog := el, ueLog := ul }

/-- The second state is the first but for stored words, what their decoding notes, the banks' queues and rows, and what is metered. -/
def accessed (s t : State) : Prop := ∃ k q, noted { s with banks := k, meterQ := q } t

theorem noted_refl (s : State) : noted s s := ⟨_, _, _, _, _, _, _, _, rfl⟩

theorem noted_trans {s t u : State} (h : noted s t) (h' : noted t u) : noted s u := by
  obtain ⟨m, c, fr, lg, ec, et, el, ul, rfl⟩ := h
  obtain ⟨m', c', fr', lg', ec', et', el', ul', rfl⟩ := h'
  exact ⟨m', c', fr', lg', ec', et', el', ul', rfl⟩

theorem accessed_of_noted {s t : State} (h : noted s t) : accessed s t := ⟨s.banks, s.meterQ, h⟩

theorem accessed_refl (s : State) : accessed s s := accessed_of_noted (noted_refl s)

theorem accessed_trans {s t u : State} (h : accessed s t) (h' : accessed t u) : accessed s u := by
  obtain ⟨k, q, m, c, fr, lg, ec, et, el, ul, rfl⟩ := h
  obtain ⟨k', q', m', c', fr', lg', ec', et', el', ul', rfl⟩ := h'
  exact ⟨k', q', m', c', fr', lg', ec', et', el', ul', rfl⟩

/-- A fold of accesses is an access. -/
theorem accessed_foldl {α : Type} {f : State → α → State} (h : ∀ s a, accessed s (f s a)) (l : List α) (s : State) : accessed s (l.foldl f s) := by
  induction l generalizing s with
  | nil => exact accessed_refl s
  | cons a l ih => exact accessed_trans (h s a) (ih (f s a))

theorem accessed_setBank (s : State) (b : Nat) (k : Bank) : accessed s (setBank s b k) :=
  ⟨(setBank s b k).banks, s.meterQ, noted_refl _⟩

theorem accessed_meter (s : State) (t m n p : Nat) : accessed s (meter s t m n p) := ⟨s.banks, (meter s t m n p).meterQ, noted_refl _⟩

theorem accessed_slotOpened (s : State) (b row : Nat) : accessed s (slotOpened s b row) := by
  obtain ⟨m, q, h, -⟩ := slotOpened_shows s b row
  exact ⟨m, q, by rw [h]; exact noted_refl _⟩

theorem noted_putWord (s : State) (w : Nat) (d : Word) (c : Byte) : noted s (putWord s w d c) := ⟨_, _, _, _, _, _, _, _, rfl⟩

theorem noted_countEcc (s : State) (b ce ue pr : Nat) : noted s (countEcc s b ce ue pr) := ⟨_, _, _, _, _, _, _, _, rfl⟩

theorem noted_logEcc (s : State) (rd : Reader) (level num w count : Nat) : noted s (logEcc s rd level num w count) :=
  ⟨_, _, _, _, _, _, _, _, rfl⟩

theorem noted_eccLog (s : State) (m : SMap (Option Nat × Nat)) : noted s { s with eccLog := m } := ⟨_, _, _, _, _, _, _, _, rfl⟩

theorem noted_ueLog (s : State) (m : SMap (Option Nat)) : noted s { s with ueLog := m } := ⟨_, _, _, _, _, _, _, _, rfl⟩

theorem noted_noteCorrected (s : State) (rd : Reader) (w : Nat) : noted s (noteCorrected s rd w) := by
  have hcount := noted_countEcc s (addrBank (4 * w)) 1 0 0
  have hentry := fun count => noted_trans hcount (noted_logEcc (countEcc s (addrBank (4 * w)) 1 0 0) rd 1 0x01 w count)
  unfold noteCorrected
  dsimp only
  split
  · split
    · exact noted_trans hcount (noted_eccLog ..)
    · exact noted_trans (hentry _) (noted_eccLog ..)
  · exact noted_trans (hentry _) (noted_eccLog ..)

theorem noted_noteUncorrectable (s : State) (rd : Reader) (w : Nat) : noted s (noteUncorrectable s rd w) := by
  have hcount := noted_countEcc s (addrBank (4 * w)) 0 1 0
  have hentry := noted_trans (noted_trans hcount (noted_logEcc _ rd 3 0x02 w 1)) (noted_ueLog _ (mset none s.ueLog w (some s.elapsed)))
  unfold noteUncorrectable
  exact iteInduction (fun _ => hentry) (fun _ => hcount)

/-- What a read of a word notes. -/
theorem noted_readWord (s : State) (rd : Reader) (w : Nat) : noted s (readWord s rd w).2 := by
  have hdraw : ∀ t : State, noted t (poisoned t).2 := fun t => ⟨_, _, _, _, _, _, _, _, rfl⟩
  unfold readWord
  split
  · exact noted_refl s
  · exact noted_noteCorrected s rd w
  · exact noted_trans (noted_countEcc ..) (hdraw _)
  · exact noted_trans (noted_noteUncorrectable s rd w) (hdraw _)

theorem noted_readWords (s : State) (rd : Reader) (w n : Nat) : noted s (readWords s rd w n).2 := by
  induction n generalizing s w with
  | zero => exact noted_refl s
  | succ n ih => exact noted_trans (noted_readWord s rd w) (ih _ _)

theorem noted_readLocs (s : State) (rd : Reader) (seen : List (Nat × PWord)) (ls : List Loc) : noted s (readLocs s rd seen ls).2 := by
  have honce : ∀ (s : State) seen w, noted s (readOnce s rd seen w).2 := fun s seen w => by
    unfold readOnce
    split
    · exact noted_refl s
    · exact noted_readWord s rd w
  induction ls generalizing s seen with
  | nil => exact noted_refl s
  | cons l ls ih =>
    cases l with
    | mem a => exact noted_trans (honce ..) (ih _ _)
    | oob f => exact ih _ _
    | fault => exact ih _ _

/-! Numbers that bytes spell. -/

/-- A number without its low bytes. -/
theorem leNat_div (bs : List Byte) (i : Nat) : leNat bs / 256 ^ i = leNat (bs.drop i) := by
  induction i generalizing bs with
  | zero => simp
  | succ i ih =>
    cases bs with
    | nil => simp [leNat]
    | cons b t =>
      have hb := b.isLt
      rw [List.drop_succ_cons, ← ih, Nat.pow_succ', ← Nat.div_div_eq_div_mul, leNat]
      congr 1
      omega

/-- The low bytes of a number. -/
theorem leNat_mod (bs : List Byte) (n : Nat) : leNat bs % 256 ^ n = leNat (bs.take n) := by
  induction n generalizing bs with
  | zero => simp [leNat, Nat.mod_one]
  | succ n ih =>
    cases bs with
    | nil => simp [leNat]
    | cons b t =>
      have hb := b.isLt
      rw [List.take_succ_cons, leNat, leNat, ← ih, Nat.pow_succ', Nat.mod_mul, Nat.add_mul_mod_self_left, Nat.mod_eq_of_lt hb]
      congr 3
      omega

/-- Bytes of a field that is spelt by bytes. -/
theorem bits_leNat {W : Nat} (bs : List Byte) (hfit : 8 * bs.length ≤ W) (i n : Nat) :
    bits (BitVec.ofNat W (leNat bs)) (8 * i) (8 * n) = leNat ((bs.drop i).take n) := by
  have hpow : ∀ k, (2 : Nat) ^ (8 * k) = 256 ^ k := fun k => by rw [Nat.pow_mul]
  have hlt : leNat bs < 2 ^ W := lt_of_lt_of_le (leNat_lt bs) (by rw [← hpow]; exact Nat.pow_le_pow_right (by decide) hfit)
  rw [bits, BitVec.toNat_ofNat, Nat.mod_eq_of_lt hlt, hpow, hpow, leNat_div, leNat_mod]

/-- One byte of a field that is spelt by bytes. -/
theorem bits_leNat_byte {W : Nat} {bs : List Byte} (hfit : 8 * bs.length ≤ W) {i : Nat} {b : Byte} (hb : bs[i]? = some b) :
    bits (BitVec.ofNat W (leNat bs)) (8 * i) 8 = b.toNat := by
  obtain ⟨hi, rfl⟩ := List.getElem?_eq_some_iff.1 hb
  have h := bits_leNat bs hfit i 1
  rw [List.drop_eq_getElem_cons hi, List.take_succ_cons, List.take_zero] at h
  simpa [leNat] using h

/-! The words of a column (R114, R345). -/

/-- The bytes that words spell. -/
def wordBytes (ws : List PWord) : List Byte := ws.flatMap (fun v => leBytes 4 v.val.toNat)

theorem wordBytes_drop (ws : List PWord) (i : Nat) : (wordBytes ws).drop (4 * i) = wordBytes (ws.drop i) := by
  induction ws generalizing i with
  | nil => simp [wordBytes]
  | cons w ws ih =>
    cases i with
    | zero => rfl
    | succ i =>
      have hlen : 4 * (i + 1) = (leBytes 4 w.val.toNat).length + 4 * i := by rw [length_leBytes]; omega
      rw [List.drop_succ_cons, ← ih, hlen, ← List.drop_drop]
      simp only [wordBytes, List.flatMap_cons, List.drop_left]

theorem length_wordBytes (ws : List PWord) : (wordBytes ws).length = 4 * ws.length := by
  induction ws with
  | nil => rfl
  | cons w ws ih =>
    rw [wordBytes, List.flatMap_cons, List.length_append, length_leBytes, List.length_cons]
    rw [wordBytes] at ih
    omega

/-- A word of a field that words spell. -/
theorem bits_wordBytes {ws : List PWord} (hlen : ws.length = 8) {i : Nat} {v : PWord} (hv : ws[i]? = some v) :
    bits (BitVec.ofNat 256 (leNat (wordBytes ws))) (32 * i) 32 = v.val.toNat := by
  obtain ⟨hi, rfl⟩ := List.getElem?_eq_some_iff.1 hv
  have h := bits_leNat (W := 256) (wordBytes ws) (by rw [length_wordBytes]; omega) (4 * i) 4
  have hcons : wordBytes (ws[i] :: ws.drop (i + 1)) = leBytes 4 ws[i].val.toNat ++ wordBytes (ws.drop (i + 1)) := List.flatMap_cons
  rw [wordBytes_drop, List.drop_eq_getElem_cons hi, hcons, List.take_left' (length_leBytes ..), leNat_leBytes] at h
  rw [show 32 * i = 8 * (4 * i) by omega]
  exact h.trans (Nat.mod_eq_of_lt ws[i].val.isLt)

/-- The marks of words as bits. -/
def poisonBits (ws : List PWord) : Nat := ws.zipIdx.foldl (fun n v => if v.1.poison then n + 2 ^ v.2 else n) 0

theorem poisonBits_concat (ws : List PWord) (v : PWord) :
    poisonBits (ws ++ [v]) = if v.poison then poisonBits ws + 2 ^ ws.length else poisonBits ws := by
  simp [poisonBits, List.zipIdx_append]

theorem poisonBits_lt (ws : List PWord) : poisonBits ws < 2 ^ ws.length := by
  induction ws using List.reverseRecOn with
  | nil => exact Nat.one_pos
  | append_singleton ws v ih =>
    rw [poisonBits_concat, List.length_append, List.length_singleton, Nat.pow_succ]
    split <;> omega

/-- A word's mark is its bit. -/
theorem testBit_poisonBits {ws : List PWord} {i : Nat} {v : PWord} (hv : ws[i]? = some v) : (poisonBits ws).testBit i = v.poison := by
  induction ws using List.reverseRecOn with
  | nil => simp at hv
  | append_singleton ws w ih =>
    rw [poisonBits_concat]
    rcases Nat.lt_or_ge i ws.length with hi | hi
    · rw [List.getElem?_append_left hi] at hv
      split
      · rw [Nat.add_comm, Nat.testBit_two_pow_add_gt hi, ih hv]
      · exact ih hv
    · obtain rfl : i = ws.length := by
        have := (List.getElem?_eq_some_iff.1 hv).1
        rw [List.length_append, List.length_singleton] at this
        omega
      obtain rfl : w = v := by simpa using hv
      have hclear := Nat.testBit_lt_two_pow (poisonBits_lt ws)
      split
      · next h => rw [Nat.add_comm, Nat.testBit_two_pow_add_eq, hclear, h]; rfl
      · next h => rw [hclear, Bool.eq_false_iff.2 h]

/-- Words read one after another: each as the store decodes it. -/
theorem readWords_values (s : State) (rd : Reader) (w n : Nat) : (readWords s rd w n).1.length = n ∧
    ∀ i < n, ∃ v, (readWords s rd w n).1[i]? = some v ∧ (∀ d, readsAs s (w + i) = some d → v = { val := d, poison := false }) ∧
      (readsAs s (w + i) = none → v.poison = true) := by
  induction n generalizing s w with
  | zero => exact ⟨rfl, fun i hi => by omega⟩
  | succ n ih =>
    obtain ⟨hlen, hvals⟩ := ih (readWord s rd w).2 (w + 1)
    refine ⟨congrArg Nat.succ hlen, fun i hi => ?_⟩
    cases i with
    | zero => exact ⟨_, rfl, fun d hd => readWord_decodes rd hd, fun h => readWord_bad rd h⟩
    | succ i =>
      obtain ⟨v, hv, hgood, hbad⟩ := hvals i (by omega)
      have hsame : readsAs (readWord s rd w).2 (w + 1 + i) = readsAs s (w + (i + 1)) := by
        rw [readsAs_of_wordKept (wordKept_of_mem (readWord_mem s rd w) _), show w + 1 + i = w + (i + 1) by omega]
      rw [hsame] at hgood hbad
      exact ⟨v, hv, hgood, hbad⟩

/-- A column as its words give it. -/
theorem readColumn_eq (s : State) (b o : Nat) (ws : List PWord) (h : ws = (readWords s (unitReader s b) (dramAddr b o / 4) 8).1) :
    (readColumn s b o).1 = { data := BitVec.ofNat 256 (leNat (wordBytes ws)), poison := BitVec.ofNat 8 (poisonBits ws), mark := none, scales := [] } := by
  subst h
  rfl

/-- A column as read from the bank: each word that decodes with its value, each that does not with its mark. -/
theorem readColumn_shows (s : State) (b o : Nat) : (readColumn s b o).1.mark = none ∧ (readColumn s b o).1.scales = [] ∧
    noted s (readColumn s b o).2 ∧ memOf (readColumn s b o).2 = memOf s ∧ ∀ i < 8,
      (∀ v, readsAs s (dramAddr b o / 4 + i) = some v →
        bits (readColumn s b o).1.data (32 * i) 32 = v.toNat ∧ bit (readColumn s b o).1.poison i = false) ∧
      (readsAs s (dramAddr b o / 4 + i) = none → bit (readColumn s b o).1.poison i = true) := by
  obtain ⟨hlen, hvals⟩ := readWords_values s (unitReader s b) (dramAddr b o / 4) 8
  refine ⟨rfl, rfl, noted_readWords s (unitReader s b) (dramAddr b o / 4) 8, (readWords_kept s (unitReader s b) (dramAddr b o / 4) 8).2, fun i hi => ?_⟩
  obtain ⟨w, hw, hgood, hbad⟩ := hvals i hi
  generalize hws : (readWords s (unitReader s b) (dramAddr b o / 4) 8).1 = ws at hlen hw
  have hsmall := poisonBits_lt ws
  rw [hlen] at hsmall
  have hmark : bit (BitVec.ofNat 8 (poisonBits ws)) i = w.poison := by
    rw [bit, BitVec.toNat_ofNat, Nat.mod_eq_of_lt hsmall, testBit_poisonBits hw]
  rw [readColumn_eq s b o ws hws.symm, bits_wordBytes hlen hw, hmark]
  exact ⟨fun v hv => by rw [hgood v hv]; exact ⟨rfl, rfl⟩, hbad⟩

/-! The prefetcher's slot (R114-R116, R121). -/

theorem unitOf_of_accessed {s t : State} (h : accessed s t) (b : Nat) : unitOf t b = unitOf s b := by
  obtain ⟨k, q, m, c, fr, lg, ec, et, el, ul, rfl⟩ := h
  rfl

/-- The column that stands for one out of bounds: its FILL bytes. (R38, R114) -/
def fillCol (r : Region) (off : Int) : StreamCol :=
  { data := BitVec.ofNat 256 (leNat ((List.range 32).map (fun i => fillByte r (off + (i : Nat))))), poison := 0, mark := none, scales := [] }

section
variable {s : State} {b : Nat} {t : Stream} {off : Int}

/-- A region that the unit may not read marks its column. -/
theorem prefetchCol_denied {st : Status} (h : unitRegion s b t.region = some st) : prefetchCol s b t off = (.got (markedCol st) false, s) := by
  unfold prefetchCol
  rw [h]

variable (h : unitRegion s b t.region = none)
include h

/-- A column out of bounds is filled, and counted. -/
theorem prefetchCol_oob (hloc : unitLoc s b (regionOf s t.region) false off = .oob) :
    prefetchCol s b t off = (.got (fillCol (regionOf s t.region) off) false, countOob s t.region false 32) := by
  unfold prefetchCol
  rw [h]
  dsimp only
  rw [hloc]
  rfl

/-- A page that the table lacks is awaited. -/
theorem prefetchCol_miss {pg : Nat} (hloc : unitLoc s b (regionOf s t.region) false off = .miss pg) :
    prefetchCol s b t off = (.wait, modUnit s b (fun u => { u with miss := some pg })) := by
  unfold prefetchCol
  rw [h]
  dsimp only
  rw [hloc]

/-- A page that does not serve the access marks its column. -/
theorem prefetchCol_fault (hloc : unitLoc s b (regionOf s t.region) false off = .fault) :
    prefetchCol s b t off = (.got (markedCol .translationFault) false, s) := by
  unfold prefetchCol
  rw [h]
  dsimp only
  rw [hloc]

/-- A column in the bank waits for a write of its pair; else its slot reads it, or finds its row retired. -/
theorem prefetchCol_mem {o : Nat} (hloc : unitLoc s b (regionOf s t.region) false off = .mem o) : prefetchCol s b t off =
    if (unitOf s b).wq.any (fun p => p.addr == o / 64 * 64) then (.wait, s)
    else if retiredAt (slotOpened s b (o / 4096)) (dramAddr b o) then (.got (markedCol .retired) true, slotOpened s b (o / 4096))
    else (.got (readColumn (slotOpened s b (o / 4096)) b o).1 true, (readColumn (slotOpened s b (o / 4096)) b o).2) := by
  unfold prefetchCol
  rw [h]
  dsimp only
  rw [hloc]
  rfl

end

theorem unitOf_countOob (s : State) (n : Nat) (write : Bool) (k b : Nat) : unitOf (countOob s n write k) b = unitOf s b := by
  unfold countOob
  split
  · rfl
  · rfl

/-- A column fetched leaves the stream and the write queue of its unit. -/
theorem prefetchCol_keeps (s : State) (b : Nat) (t : Stream) (off : Int) :
    (unitOf (prefetchCol s b t off).2 b).stream = (unitOf s b).stream ∧ (unitOf (prefetchCol s b t off).2 b).wq = (unitOf s b).wq := by
  cases hregion : unitRegion s b t.region with
  | some st =>
    rw [prefetchCol_denied hregion]
    exact ⟨rfl, rfl⟩
  | none =>
    cases hloc : unitLoc s b (regionOf s t.region) false off with
    | oob =>
      rw [prefetchCol_oob hregion hloc, unitOf_countOob]
      exact ⟨rfl, rfl⟩
    | miss pg =>
      rw [prefetchCol_miss hregion hloc]
      simp [modUnit, unitOf_setUnit]
    | fault =>
      rw [prefetchCol_fault hregion hloc]
      exact ⟨rfl, rfl⟩
    | mem o =>
      have hopened := accessed_slotOpened s b (o / 4096)
      obtain ⟨-, -, hnoted, -⟩ := readColumn_shows (slotOpened s b (o / 4096)) b o
      have hread := unitOf_of_accessed (accessed_trans hopened (accessed_of_noted hnoted)) b
      rw [prefetchCol_mem hregion hloc]
      split
      · exact ⟨rfl, rfl⟩
      · split
        · rw [unitOf_of_accessed hopened b]
          exact ⟨rfl, rfl⟩
        · rw [hread]
          exact ⟨rfl, rfl⟩

/-- What a round of the prefetcher makes of its stream: a scale column kept, or a column placed. -/
def streamTakes (t : Stream) (c : StreamCol) : Stream :=
  match needScale t with
  | some q => keepScale t q c
  | none => keepColumn t c

/-- The offset that the prefetcher asks for next. -/
def streamAsks (t : Stream) : Int :=
  match needScale t with
  | some q => 32 * (q : Int)
  | none => t.off t.fetched

/-- How a round ends: one that waits, or has taken the slot, ends the prefetching, and another goes on with n rounds more. -/
def prefetchNext (n b : Nat) (t : Stream) (r : Prefetch × State) : Bool × State :=
  match r with
  | (.wait, s) => (false, s)
  | (.got c slot, s) =>
    let s' := modUnit s b (fun u => { u with stream := some (streamTakes t c) })
    if slot then (true, s') else prefetch n s' b

/-- A round of a prefetcher that wants a column. -/
theorem prefetch_round {s : State} {b : Nat} {t : Stream} (n : Nat) (hstream : (unitOf s b).stream = some t)
    (hwants : wantsColumn (unitOf s b) = true) : prefetch (n + 1) s b = prefetchNext n b t (prefetchCol s b t (streamAsks t)) := by
  rw [prefetch, hstream]
  simp only [hwants, Bool.not_true, Bool.false_eq_true, if_false]
  rfl

/-- A round only adds to the buffer. -/
theorem streamTakes_buf (t : Stream) (c : StreamCol) : ∃ more, (streamTakes t c).buf = t.buf ++ more := by
  unfold streamTakes
  split
  · exact ⟨[], by simp [keepScale]⟩
  · exact ⟨_, rfl⟩

/-- Prefetching only adds to the buffer, and leaves the write queue. -/
theorem prefetch_grows (n : Nat) {s : State} {b : Nat} {t : Stream} (hstream : (unitOf s b).stream = some t) :
    (unitOf (prefetch n s b).2 b).wq = (unitOf s b).wq ∧
      ∃ y more, (unitOf (prefetch n s b).2 b).stream = some y ∧ y.buf = t.buf ++ more := by
  induction n generalizing s t with
  | zero => exact ⟨rfl, t, [], hstream, by simp⟩
  | succ n ih =>
    cases hwants : wantsColumn (unitOf s b) with
    | false =>
      have hstays : prefetch (n + 1) s b = (false, s) := by
        rw [prefetch, hstream]
        dsimp only
        rw [hwants]
        rfl
      rw [hstays]
      exact ⟨rfl, t, [], hstream, by simp⟩
    | true =>
      obtain ⟨hkept, hwq⟩ := prefetchCol_keeps s b t (streamAsks t)
      rw [prefetch_round n hstream hwants]
      generalize prefetchCol s b t (streamAsks t) = r at hkept hwq ⊢
      obtain ⟨r, s'⟩ := r
      cases r with
      | wait =>
        exact ⟨hwq, t, [], hkept.trans hstream, by simp⟩
      | got c slot =>
        obtain ⟨more, hmore⟩ := streamTakes_buf t c
        rw [prefetchNext]
        generalize hnext : modUnit s' b (fun u => { u with stream := some (streamTakes t c) }) = s''
        have hstream' : (unitOf s'' b).stream = some (streamTakes t c) := by simp [← hnext, modUnit, unitOf_setUnit]
        have hwq' : (unitOf s'' b).wq = (unitOf s b).wq := by simpa [← hnext, modUnit, unitOf_setUnit] using hwq
        cases slot with
        | true => exact ⟨hwq', _, more, hstream', hmore⟩
        | false =>
          obtain ⟨hwq'', y, more', hy, hbuf⟩ := ih hstream'
          exact ⟨hwq''.trans hwq', y, more ++ more', hy, by rw [hbuf, hmore, List.append_assoc]⟩

/-- A free slot of a unit that writes nothing and wants a column is its prefetcher's; what that leaves may go to a refresh. -/
theorem exec_columnSlot_prefetch {b : BitVec 12} {s : State} {x : Stream} (hfree : slotFree s b) (hwq : (unitOf s b.toNat).wq = [])
    (hstream : (unitOf s b.toNat).stream = some x) (hwants : wantsColumn (unitOf s b.toNat) = true) :
    ∃ t, exec (.columnSlot b) s = .next t ∧ t.units = (prefetch 16 s b.toNat).2.units ∧
      ((prefetch 16 s b.toNat).1 = true → t = (prefetch 16 s b.toNat).2) := by
  obtain ⟨hon, hrmw, hq, howed, hcopy⟩ := hfree
  obtain ⟨hkept, -⟩ := prefetch_grows 16 hstream
  refine ⟨_, exec_columnSlot_bank hon (.inr (.inr (.inr hcopy))), ?_⟩
  rw [grantSlot_prefetch hrmw hq (by omega) hwq hwants (hkept.trans hwq)]
  refine ⟨?_, fun hused => if_pos hused⟩
  split
  · rfl
  · split
    · rfl
    · rfl

section
variable {b : BitVec 12} {s : State} {x : Stream} (hfree : slotFree s b) (hwq : (unitOf s b.toNat).wq = [])
  (hstream : (unitOf s b.toNat).stream = some x) (hmiss : (unitOf s b.toNat).miss = none) (hroom : x.buf.length < 8)
  (hmore : x.fetched < x.count) (hscale : x.scaleOff = none)

include hstream hmiss hroom hmore in
theorem wantsColumn_of_room : wantsColumn (unitOf s b.toNat) = true := by simp [wantsColumn, hstream, hmiss, hroom, hmore]

include hscale in
/-- A stream without a scale array asks for its columns in order, and takes each with its mark. -/
theorem stream_unscaled : streamAsks x = x.off x.fetched ∧ ∀ c : StreamCol, streamTakes x c =
    { x with fetched := x.fetched + 1, buf := x.buf ++ [{ c with scales := [] }] } := by
  have hnone : needScale x = none := by simp [needScale, scaleOffs, hscale]
  refine ⟨by rw [streamAsks, hnone], fun c => ?_⟩
  rw [streamTakes, hnone]
  have hcells : scaleOffs x = [] := by simp [scaleOffs, hscale]
  obtain ⟨data, poison, mark, scales⟩ := c
  cases mark <;> simp [keepColumn, hcells]

include hfree hwq hstream hmiss hroom hmore hscale

/-- A column that takes no slot enters the buffer, and more may follow it. -/
theorem exec_columnSlot_slotless {c : StreamCol} {s' : State} (h : prefetchCol s b.toNat x (x.off x.fetched) = (.got c false, s')) :
    ∃ t y more, exec (.columnSlot b) s = .next t ∧ (unitOf t b.toNat).stream = some y ∧ y.buf = x.buf ++ { c with scales := [] } :: more := by
  have hwants := wantsColumn_of_room hstream hmiss hroom hmore
  obtain ⟨hasks, htakes⟩ := stream_unscaled hscale
  obtain ⟨t, hexec, hunits, -⟩ := exec_columnSlot_prefetch hfree hwq hstream hwants
  have hround := prefetch_round 15 hstream hwants
  rw [hasks, h] at hround
  obtain ⟨-, y, more, hy, hbuf⟩ := prefetch_grows 15 (s := modUnit s' b.toNat (fun u => { u with stream := some (streamTakes x c) }))
    (b := b.toNat) (t := streamTakes x c) (by simp [modUnit, unitOf_setUnit])
  refine ⟨t, y, more, hexec, ?_, ?_⟩
  · rw [← hy, unitOf, hunits, hround]
    rfl
  · rw [hbuf, htakes]
    simp

/-- A column that takes the slot enters the buffer last. -/
theorem exec_columnSlot_fetched {c : StreamCol} {s' : State} (h : prefetchCol s b.toNat x (x.off x.fetched) = (.got c true, s')) :
    ∃ t y, exec (.columnSlot b) s = .next t ∧ (unitOf t b.toNat).stream = some y ∧ y.fetched = x.fetched + 1 ∧
      y.buf = x.buf ++ [{ c with scales := [] }] ∧ t.banks = s'.banks ∧ memOf t = memOf s' := by
  have hwants := wantsColumn_of_room hstream hmiss hroom hmore
  obtain ⟨hasks, htakes⟩ := stream_unscaled hscale
  obtain ⟨t, hexec, -, hused⟩ := exec_columnSlot_prefetch hfree hwq hstream hwants
  have hround := prefetch_round 15 hstream hwants
  rw [hasks, h] at hround
  rw [hround] at hused
  obtain rfl := hused rfl
  refine ⟨_, streamTakes x c, hexec, by simp [prefetchNext, modUnit, unitOf_setUnit], ?_⟩
  rw [htakes]
  exact ⟨rfl, rfl, rfl, rfl⟩

end

/-! Where the next column of a stream lies (R38, R39, R144). -/

section
variable {s : State} {b : Nat} {r : Region} {off : Int}

/-- An offset outside a tensor region is out of bounds. -/
theorem unitLoc_outside (hring : r.ring = false) (hout : off < 0 ∨ (r.size : Int) ≤ off) : unitLoc s b r false off = .oob := by
  have hclass : classOffset r off = none := by
    rw [classOffset, hring, if_neg (by decide), if_neg (by omega)]
  rw [unitLoc, hclass]

/-- An offset of a direct region lies at BASE plus it, which a ring region takes modulo SIZE. -/
theorem unitLoc_direct (hxlat : r.xlat = false) {o : Nat}
    (ho : if r.ring then 0 < r.size ∧ (o : Int) = r.base + off % r.size else 0 ≤ off ∧ off < r.size ∧ (o : Int) = r.base + off) :
    unitLoc s b r false off = .mem o := by
  have hclass : ∃ k, classOffset r off = some k ∧ r.base + k = o := by
    cases hring : r.ring with
    | true =>
      rw [hring, if_pos rfl] at ho
      obtain ⟨hsize, ho⟩ := ho
      have hpos := Int.emod_nonneg off (show (r.size : Int) ≠ 0 by omega)
      refine ⟨(off % (r.size : Int)).toNat, by rw [classOffset, hring, if_pos rfl, if_neg (by omega)], ?_⟩
      omega
    | false =>
      rw [hring, if_neg (by decide)] at ho
      obtain ⟨hlow, hhigh, ho⟩ := ho
      refine ⟨off.toNat, by rw [classOffset, hring, if_neg (by decide), if_pos ⟨hlow, hhigh⟩], ?_⟩
      omega
  obtain ⟨k, hk, rfl⟩ := hclass
  rw [unitLoc, hk]
  simp [hxlat]

end

/-- The bytes of a filled column. -/
theorem bits_fillCol (r : Region) (off : Int) {i : Nat} (hi : i < 32) :
    bits (fillCol r off).data (8 * i) 8 = bits r.fill (8 * ((off + (i : Nat)) % 4).toNat) 8 := by
  have hbyte : ((List.range 32).map (fun i => fillByte r (off + (i : Nat))))[i]? = some (fillByte r (off + (i : Nat))) := by
    rw [List.getElem?_map, List.getElem?_range hi]
    rfl
  have h := bits_leNat_byte (W := 256) (by simp) hbyte
  rw [fillCol, h, fillByte, BitVec.toNat_ofNat]
  exact Nat.mod_eq_of_lt (Nat.mod_lt _ (by decide))

/-- The prefetcher's slot: a mark, the FILL bytes, or the column in the bank. (R38, R39, R114, R115, R121, R144) -/
theorem prefetcher_slot (b : BitVec 12) (s : State) (x : Stream) (r : Region) (off : Int) (hfree : slotFree s b) (hwq : (unitOf s b.toNat).wq = [])
    (hstream : (unitOf s b.toNat).stream = some x) (hmiss : (unitOf s b.toNat).miss = none) (hroom : x.buf.length < 8)
    (hmore : x.fetched < x.count) (hscale : x.scaleOff = none) (hr : r = regionOf s x.region)
    (hoff : off = (x.start : Int) + x.fetched * x.stride) :
    (∀ st, unitRegion s b.toNat x.region = some st → ∃ t y more, exec (.columnSlot b) s = .next t ∧ (unitOf t b.toNat).stream = some y ∧
      y.buf = x.buf ++ { data := 0, poison := 0, mark := some st, scales := [] } :: more) ∧
    (unitRegion s b.toNat x.region = none → r.ring = false → (off < 0 ∨ (r.size : Int) ≤ off) → ∃ t y col more,
      exec (.columnSlot b) s = .next t ∧ (unitOf t b.toNat).stream = some y ∧ y.buf = x.buf ++ col :: more ∧ col.mark = none ∧ col.poison = 0 ∧
      ∀ i < 32, bits col.data (8 * i) 8 = bits r.fill (8 * ((off + (i : Nat)) % 4).toNat) 8) ∧
    (unitRegion s b.toNat x.region = none → r.xlat = false → ∀ o : Nat,
      (if r.ring then 0 < r.size ∧ (o : Int) = r.base + off % r.size else 0 ≤ off ∧ off < r.size ∧ (o : Int) = r.base + off) →
      (retiredAt s (dramAddr b.toNat o) = true → ∃ t y, exec (.columnSlot b) s = .next t ∧ (unitOf t b.toNat).stream = some y ∧
        y.fetched = x.fetched + 1 ∧ y.buf = x.buf ++ [{ data := 0, poison := 0, mark := some .retired, scales := [] }]) ∧
      (retiredAt s (dramAddr b.toNat o) = false → ∃ t y col, exec (.columnSlot b) s = .next t ∧ (unitOf t b.toNat).stream = some y ∧
        y.fetched = x.fetched + 1 ∧ y.buf = x.buf ++ [col] ∧ col.mark = none ∧ (bankOf t b.toNat).openRow = some (o / 4096) ∧
        t.dram = s.dram ∧ t.check = s.check ∧ ∀ i < 8,
          (∀ v, readsAs s (dramAddr b.toNat o / 4 + i) = some v → bits col.data (32 * i) 32 = v.toNat ∧ bit col.poison i = false) ∧
          (readsAs s (dramAddr b.toNat o / 4 + i) = none → bit col.poison i = true))) := by
  subst hr hoff
  have hslotless := fun c s' => exec_columnSlot_slotless (c := c) (s' := s') hfree hwq hstream hmiss hroom hmore hscale
  have hfetched := fun c s' => exec_columnSlot_fetched (c := c) (s' := s') hfree hwq hstream hmiss hroom hmore hscale
  refine ⟨fun st hst => ?_, fun hregion hring hout => ?_, fun hregion hxlat o ho => ?_⟩
  · exact hslotless _ _ (prefetchCol_denied hst)
  · obtain ⟨t, y, more, hexec, hy, hbuf⟩ := hslotless _ _ (prefetchCol_oob hregion (unitLoc_outside hring hout))
    exact ⟨t, y, _, more, hexec, hy, hbuf, rfl, rfl, fun i hi => bits_fillCol _ _ hi⟩
  · obtain ⟨m, q, hopened, hrow⟩ := slotOpened_shows s b.toNat (o / 4096)
    have hretired : retiredAt (slotOpened s b.toNat (o / 4096)) (dramAddr b.toNat o) = retiredAt s (dramAddr b.toNat o) := by
      rw [hopened]
      rfl
    have hmem : memOf (slotOpened s b.toNat (o / 4096)) = memOf s := by
      rw [hopened]
      rfl
    have hcol := prefetchCol_mem hregion (unitLoc_direct (b := b.toNat) hxlat ho)
    rw [hwq, List.any_nil, if_neg (by decide), hretired] at hcol
    refine ⟨fun h => ?_, fun h => ?_⟩
    · rw [h, if_pos rfl] at hcol
      obtain ⟨t, y, hexec, hy, hnext, hbuf, -⟩ := hfetched _ _ hcol
      exact ⟨t, y, hexec, hy, hnext, hbuf⟩
    · rw [h, if_neg (by decide)] at hcol
      obtain ⟨hmark, -, hnoted, hkept, hwords⟩ := readColumn_shows (slotOpened s b.toNat (o / 4096)) b.toNat o
      generalize readColumn (slotOpened s b.toNat (o / 4096)) b.toNat o = col at hcol hmark hnoted hkept hwords
      obtain ⟨t, y, hexec, hy, hnext, hbuf, hbanks, hstored⟩ := hfetched _ _ hcol
      obtain ⟨hdram, hcheck⟩ := dram_of_mem (hstored.trans (hkept.trans hmem))
      have hsame : col.2.banks = (slotOpened s b.toNat (o / 4096)).banks := by
        obtain ⟨_, _, _, _, _, _, _, _, hstate⟩ := hnoted
        rw [hstate]
      refine ⟨t, y, _, hexec, hy, hnext, hbuf, hmark, ?_, hdram, hcheck, fun i hi => ?_⟩
      · rw [← hrow, bankOf, bankOf, hbanks, hsame]
      · have h := hwords i hi
        rwa [readsAs_of_wordKept (wordKept_of_mem hmem _)] at h

/-! The scrubber (R353, R354). -/

/-- How the store decodes a word. -/
def classOf (s : State) (w : Nat) : WordClass := classify (dramWord s w) (dramCheck s w)

theorem classOf_of_wordKept {s t : State} {w : Nat} (h : wordKept s t w) : classOf t w = classOf s w := by rw [classOf, h.1, h.2, classOf]

/-- A word is scrubbed: one that decoded as corrected is written back, any other is kept. -/
def wordScrubbed (s t : State) (w : Nat) : Prop :=
  (∀ v, classOf s w = .corrected v → holdsWord t w v) ∧ (isCorrected (classOf s w) = false → wordKept s t w)

theorem wordScrubbed_of_wordKept {s s' t t' : State} {w : Nat} (hs : wordKept s s' w) (ht : wordKept t t' w) (h : wordScrubbed s' t w) :
    wordScrubbed s t' w := by
  unfold wordScrubbed holdsWord at h ⊢
  rw [classOf_of_wordKept hs] at h
  rw [ht.1, ht.2]
  exact ⟨h.1, fun hc => wordKept_trans hs (wordKept_trans (h.2 hc) ht)⟩

/-- The counts of a scrub job after words that decode as the list says. -/
def jobCounts (j j' : ScrubJob) (cs : List WordClass) : Prop :=
  j'.scanned = j.scanned + cs.length ∧ j'.ce = j.ce + (cs.filter isCorrected).length ∧
    j'.ue = j.ue + (cs.filter (· == .uncorrectable)).length ∧ j'.pr = j.pr + (cs.filter (· == .marker)).length

theorem jobCounts_append {j j' j'' : ScrubJob} {cs cs' : List WordClass} (h : jobCounts j j' cs) (h' : jobCounts j' j'' cs') :
    jobCounts j j'' (cs ++ cs') := by
  obtain ⟨hn, hce, hue, hpr⟩ := h
  obtain ⟨hn', hce', hue', hpr'⟩ := h'
  simp only [jobCounts, List.filter_append, List.length_append]
  omega

/-- One word scanned: it is counted as what it decodes to, and is scrubbed; no other word changes. -/
theorem scrubWord_shows (s : State) (rd : Reader) (j : ScrubJob) (w col bi : Nat) : noted s (scrubWord s rd j w col bi).2.2 ∧
    (∀ x, x ≠ w → wordKept s (scrubWord s rd j w col bi).2.2 x) ∧ wordScrubbed s (scrubWord s rd j w col bi).2.2 w ∧
    jobCounts j (scrubWord s rd j w col bi).2.1 [classOf s w] := by
  unfold wordScrubbed classOf scrubWord
  cases hclass : classify (dramWord s w) (dramCheck s w) with
  | clean => exact ⟨noted_refl s, fun _ _ => ⟨rfl, rfl⟩, ⟨nofun, fun _ => ⟨rfl, rfl⟩⟩, rfl, rfl, rfl, rfl⟩
  | corrected v =>
    have hbefore := wordKept_of_mem (noteCorrected_kept s rd w).2
    refine ⟨noted_trans (noted_noteCorrected s rd w) (noted_putWord ..), fun x hx => wordKept_trans (hbefore x) (wordKept_putWord _ _ _ hx),
      ⟨fun u hu => ?_, nofun⟩, rfl, rfl, rfl, rfl⟩
    obtain rfl := WordClass.corrected.inj hu
    exact holdsWord_putWord ..
  | marker =>
    have hkept := wordKept_of_mem (countEcc_kept s (addrBank (4 * w)) 0 0 1).2
    exact ⟨noted_countEcc .., fun x _ => hkept x, ⟨nofun, fun _ => hkept w⟩, rfl, rfl, rfl, rfl⟩
  | uncorrectable =>
    have hkept := wordKept_of_mem (noteUncorrectable_kept s rd w).2
    exact ⟨noted_noteUncorrectable .., fun x _ => hkept x, ⟨nofun, fun _ => hkept w⟩, rfl, rfl, rfl, rfl⟩

/-- Words scanned in order: each counted and scrubbed, every other kept. -/
theorem scrubWords_shows (s : State) (rd : Reader) (j : ScrubJob) (w col bi n : Nat) : noted s (scrubWords s rd j w col bi n).2.2 ∧
    (∀ x, x < w ∨ w + n ≤ x → wordKept s (scrubWords s rd j w col bi n).2.2 x) ∧
    (∀ k < n, wordScrubbed s (scrubWords s rd j w col bi n).2.2 (w + k)) ∧
    jobCounts j (scrubWords s rd j w col bi n).2.1 ((List.range n).map (fun k => classOf s (w + k))) := by
  induction n generalizing s j w with
  | zero => exact ⟨noted_refl s, fun _ _ => ⟨rfl, rfl⟩, fun k hk => by omega, rfl, rfl, rfl, rfl⟩
  | succ n ih =>
    obtain ⟨hnoted, hother, hword, hcount⟩ := scrubWord_shows s rd j w col bi
    obtain ⟨hnoted', hother', hwords, hcounts⟩ := ih (scrubWord s rd j w col bi).2.2 (scrubWord s rd j w col bi).2.1 (w + 1)
    refine ⟨noted_trans hnoted hnoted', fun x hx => wordKept_trans (hother x (by omega)) (hother' x (by omega)), fun k hk => ?_, ?_⟩
    · cases k with
      | zero => exact wordScrubbed_of_wordKept ⟨rfl, rfl⟩ (hother' w (by omega)) hword
      | succ k =>
        rw [show w + (k + 1) = w + 1 + k by omega]
        exact wordScrubbed_of_wordKept (hother _ (by omega)) ⟨rfl, rfl⟩ (hwords k (by omega))
    · have hrest : (List.range n).map (fun k => classOf s (w + (k + 1))) =
          (List.range n).map (fun k => classOf (scrubWord s rd j w col bi).2.2 (w + 1 + k)) :=
        List.map_congr_left fun k _ => by rw [classOf_of_wordKept (hother _ (by omega)), show w + 1 + k = w + (k + 1) by omega]
      rw [List.range_succ_eq_map, List.map_cons, List.map_map]
      exact (congrArg (fun cs => jobCounts j _ (classOf s w :: cs)) hrest).mpr (jobCounts_append hcount hcounts)

/-- The words of a column that decode to a class, counted. -/
theorem countWords_eq (s : State) (w : Nat) (p : WordClass → Bool) :
    countWords s w p = (((List.range 8).map (fun k => classOf s (w + k))).filter p).length := by
  rw [List.filter_map, List.length_map]
  rfl

/-- The counts in the summary record. (Table 13.4) -/
theorem scrubSummary_counts (s : State) (a : Active) (j : ScrubJob) (part : Bool) :
    leNat (((scrubSummary s a j part).drop 8).take 8) = j.scanned % 2 ^ 64 ∧ leNat (((scrubSummary s a j part).drop 16).take 8) = j.ce % 2 ^ 64 ∧
    leNat (((scrubSummary s a j part).drop 24).take 8) = j.ue % 2 ^ 64 ∧ leNat (((scrubSummary s a j part).drop 32).take 8) = j.pr % 2 ^ 64 := by
  obtain ⟨rest, hrest⟩ : ∃ rest, scrubSummary s a j part =
      leBytes 8 s.time ++ (leBytes 8 j.scanned ++ (leBytes 8 j.ce ++ (leBytes 8 j.ue ++ (leBytes 8 j.pr ++ rest)))) := by
    unfold scrubSummary
    simp only [List.append_assoc]
    exact ⟨_, rfl⟩
  have hpeel : ∀ (v n : Nat) (l : List Byte), (leBytes 8 v ++ l).drop (8 + n) = l.drop n := fun v n l => by
    rw [← List.drop_drop, List.drop_left' (length_leBytes ..)]
  have hnum : ∀ (v : Nat) (l : List Byte), leNat (((leBytes 8 v ++ l).drop 0).take 8) = v % 2 ^ 64 := fun v l => by
    rw [List.drop_zero, List.take_left' (length_leBytes ..), leNat_leBytes]
    rfl
  rw [hrest]
  refine ⟨?_, ?_, ?_, ?_⟩
  · rw [hpeel _ 0, hnum]
  · rw [hpeel _ 8, hpeel _ 0, hnum]
  · rw [hpeel _ 16, hpeel _ 8, hpeel _ 0, hnum]
  · rw [hpeel _ 24, hpeel _ 16, hpeel _ 8, hpeel _ 0, hnum]

/-- A scrub that ends well leaves its summary behind the host's writes. (R354) -/
theorem endScrub_ok (s : State) (a : Active) (j : ScrubJob) : ∃ u h, (endScrub s a j .ok).scrub = none ∧
    (endScrub s a j .ok).hostWrites = s.hostWrites ++ [h] ∧ h.kind = .summary a.id .ok ∧ h.addr = dfield a.raw 40 8 ∧
    h.bytes = scrubSummary u a j false :=
  ⟨_, _, rfl, rfl, rfl, rfl, rfl⟩

/-- One column of a pass scanned, in a row in use and with no pair within its commit: its words, and a slot of its bank. -/
theorem scrubColumn_shows {s : State} {a : Active} {j : ScrubJob} {x : Nat}
    (hloc : locate s (regionOf s (bits a.raw 128 6)) false ((j.next / scrubRun a.raw : Nat) : Int)
      ((dfield a.raw 24 8 + 32 * (j.next % scrubRun a.raw) : Nat) : Int) = .mem x)
    (hretired : retiredAt s x = false) (hfree : (unitOf s (addrBank x)).wq = []) :
    ∃ j' t, scrubColumn s a j = some (j', t) ∧ accessed s t ∧ (∀ w, w < x / 4 ∨ x / 4 + 8 ≤ w → wordKept s t w) ∧
      (∀ k < 8, wordScrubbed s t (x / 4 + k)) ∧ jobCounts j j' ((List.range 8).map (fun k => classOf s (x / 4 + k))) := by
  obtain ⟨rd, col, bi, k, hcolumn⟩ : ∃ rd col bi k, scrubColumn s a j =
      some ((scrubWords s rd { j with next := j.next + 1 } (x / 4) col bi 8).2.1,
        setBank (scrubWords s rd { j with next := j.next + 1 } (x / 4) col bi 8).2.2 (addrBank x) k) := by
    unfold scrubColumn
    simp only [Nat.reduceMul]
    rw [hloc]
    simp only [hretired, Bool.false_eq_true, if_false, settleLine_free (heldPair_empty hfree)]
    generalize scrubWords s = scan
    exact ⟨_, _, _, _, rfl⟩
  obtain ⟨hnoted, hother, hwords, hcounts⟩ := scrubWords_shows s rd { j with next := j.next + 1 } (x / 4) col bi 8
  generalize scrubWords s rd { j with next := j.next + 1 } (x / 4) col bi 8 = r at hcolumn hnoted hother hwords hcounts
  exact ⟨_, _, hcolumn, accessed_trans (accessed_of_noted hnoted) (accessed_setBank ..), hother, hwords, hcounts⟩

/-- The last column of a pass: the scrubber leaves its summary. -/
theorem completeScrub_last {s t : State} {a : Active} {j j' : ScrubJob} (hj : s.scrub = some j) (ha : activeOf s j.id = some a)
    (hlast : j.next + 1 = scrubTotal s a.raw) (hcolumn : scrubColumn s a j = some (j', t)) :
    completeScrub s = endScrub { t with scrub := some j' } a j' .ok := by
  have hadvance : advanceScrub 1 s = { t with scrub := some j' } := by
    unfold advanceScrub
    rw [hj]
    simp only [ha]
    rw [if_neg (by omega), hcolumn]
    rfl
  unfold completeScrub
  rw [hj]
  simp only [ha]
  rw [show scrubTotal s a.raw - j.next = 1 by omega, hadvance]

/-- The scrubber's last column: its words counted and scrubbed, and the summary with the counts. (R340, R354) -/
theorem scrubber_last (s : State) (j : ScrubJob) (a : Active) (x : Nat) (hj : s.scrub = some j) (ha : activeOf s j.id = some a)
    (hlast : j.next + 1 = scrubTotal s a.raw)
    (hloc : locate s (regionOf s (bits a.raw 128 6)) false ((j.next / scrubRun a.raw : Nat) : Int)
      ((dfield a.raw 24 8 + 32 * (j.next % scrubRun a.raw) : Nat) : Int) = .mem x)
    (hretired : retiredAt s x = false) (hfree : ∀ u, (unitOf s u).wq = []) :
    ∃ t h, exec (.workComplete .scrubber) s = .next t ∧ t.scrub = none ∧
      t.hostWrites = s.hostWrites ++ [h] ∧ h.kind = .summary a.id .ok ∧ h.addr = dfield a.raw 40 8 ∧
      leNat ((h.bytes.drop 8).take 8) = (j.scanned + 8) % 2 ^ 64 ∧
      leNat ((h.bytes.drop 16).take 8) = (j.ce + countWords s (x / 4) isCorrected) % 2 ^ 64 ∧
      leNat ((h.bytes.drop 24).take 8) = (j.ue + countWords s (x / 4) (· == .uncorrectable)) % 2 ^ 64 ∧
      leNat ((h.bytes.drop 32).take 8) = (j.pr + countWords s (x / 4) (· == .marker)) % 2 ^ 64 ∧
      ∀ w, (∀ v, x / 4 ≤ w → w < x / 4 + 8 → classify (dramWord s w) (dramCheck s w) = .corrected v →
          dramWord t w = v ∧ dramCheck t w = encodeCheck v) ∧
        (w < x / 4 ∨ x / 4 + 8 ≤ w ∨ isCorrected (classify (dramWord s w) (dramCheck s w)) = false → wordKept s t w) := by
  obtain ⟨j', t, hcolumn, haccessed, hother, hwords, hscanned, hce, hue, hpr⟩ := scrubColumn_shows hloc hretired (hfree _)
  rw [← countWords_eq] at hce hue hpr
  obtain ⟨u, h, hnone, hwrites, hkind, haddr, hbytes⟩ := endScrub_ok { t with scrub := some j' } a j'
  obtain ⟨hfield₁, hfield₂, hfield₃, hfield₄⟩ := scrubSummary_counts u a j' false
  have hsame : t.hostWrites = s.hostWrites := by
    obtain ⟨k, q, m, c, fr, lg, ec, et, el, ul, rfl⟩ := haccessed
    rfl
  have hafter := wordKept_of_mem ((endScrub_kept { t with scrub := some j' } a j' .ok).2.trans (show memOf { t with scrub := some j' } = memOf t from rfl))
  refine ⟨_, h, congrArg Host.Outcome.next (completeScrub_last hj ha hlast hcolumn), hnone, hwrites.trans (congrArg (· ++ [h]) hsame), hkind, haddr,
    ?_, ?_, ?_, ?_, fun w => ⟨fun v hlow hhigh hclass => ?_, fun hw => ?_⟩⟩
  · rw [hbytes, hfield₁, hscanned]
    rfl
  · rw [hbytes, hfield₂, hce]
  · rw [hbytes, hfield₃, hue]
  · rw [hbytes, hfield₄, hpr]
  · have hscrubbed := hwords (w - x / 4) (by omega)
    rw [show x / 4 + (w - x / 4) = w by omega] at hscrubbed
    exact (wordScrubbed_of_wordKept ⟨rfl, rfl⟩ (hafter w) hscrubbed).1 v hclass
  · by_cases hin : x / 4 ≤ w ∧ w < x / 4 + 8
    · have hscrubbed := hwords (w - x / 4) (by omega)
      rw [show x / 4 + (w - x / 4) = w by omega] at hscrubbed
      exact (wordScrubbed_of_wordKept ⟨rfl, rfl⟩ (hafter w) hscrubbed).2 (by rcases hw with h | h | h <;> [omega; omega; exact h])
    · exact wordKept_trans (hother w (by omega)) (hafter w)

/-! The bytes of a store whose every word decodes (R336, R340). -/

/-- The xor of the positions of set bits stays within six bits. -/
theorem checkSix_lt (d : Word) : checkSix d < 64 := by
  have hpos : ∀ i < 32, dataPos.getD i 0 < 2 ^ 6 := by decide
  have hfold : ∀ (l : List Nat) (a : Nat), (∀ i ∈ l, i < 32) → a < 2 ^ 6 →
      l.foldl (fun a i => if bit d i then a ^^^ dataPos.getD i 0 else a) a < 2 ^ 6 := by
    intro l
    induction l with
    | nil => exact fun a _ ha => ha
    | cons i l ih =>
      refine fun a hl ha => ih _ (fun k hk => hl k (List.mem_cons_of_mem _ hk)) ?_
      dsimp only
      split
      · exact Nat.xor_lt_two_pow ha (hpos i (hl i List.mem_cons_self))
      · exact ha
  exact hfold _ 0 (fun i hi => List.mem_range.1 hi) (by decide)

/-- A word with its own check byte is clean. (R336, R338) -/
theorem classify_encodeCheck (d : Word) : classify d (encodeCheck d) = .clean := by
  have hseven : ∀ x < 64, ∀ p : Bool, parity 7 (x + 64 * b2n p) = (parity 6 x ^^ p) := by decide
  have hp : ∀ p, b2n p ≤ 1 := by decide
  have hlt := checkSix_lt d
  obtain ⟨p, hpar⟩ : ∃ p, p = (parity 32 d.toNat ^^ parity 6 (checkSix d)) := ⟨_, rfl⟩
  have hbyte : (encodeCheck d).toNat = checkSix d + 64 * b2n p := by
    have := hp p
    rw [encodeCheck, ← hpar, BitVec.toNat_ofNat]
    omega
  have hsyndrome : syndrome d (encodeCheck d) = 0 := by
    have hlow : (encodeCheck d).toNat % 64 = checkSix d := by omega
    rw [syndrome, hlow, Nat.xor_self]
  have hoverall : overallParity d (encodeCheck d) = false := by
    rw [overallParity, hbyte, hseven _ hlt, hpar]
    cases parity 32 d.toNat <;> cases parity 6 (checkSix d) <;> rfl
  simp [classify, hsyndrome, hoverall]

/-- A word that is held decodes as it is. -/
theorem readsAs_of_holdsWord {t : State} {w : Nat} {d : Word} (h : holdsWord t w d) : readsAs t w = some d := by
  obtain ⟨hword, hcheck⟩ := h
  rw [← hword] at hcheck ⊢
  exact readsAs_clean (by rw [hcheck, classify_encodeCheck])

/-- Every stored word decodes. -/
def allDecode (s : State) : Prop := ∀ w, readsAs s w ≠ none

theorem allDecode_of_mem {s t : State} (h : memOf t = memOf s) (hs : allDecode s) : allDecode t := fun w => by
  rw [readsAs_of_wordKept (wordKept_of_mem h w)]
  exact hs w

theorem byteAt_of_mem {s t : State} (h : memOf t = memOf s) : byteAt t = byteAt s := funext fun a => by
  rw [byteAt, readsAs_of_wordKept (wordKept_of_mem h _), byteAt]

theorem byteAt_lt (s : State) (a : Nat) : byteAt s a < 256 := Nat.mod_lt _ (by decide)

/-- The bytes after enabled bytes of a word are put. -/
def wordPut (f : Nat → Nat) (w : Nat) (d : Word) (en : Nat) : Nat → Nat := fun a =>
  if a / 4 = w ∧ en.testBit (a % 4) = true then bits d (8 * (a % 4)) 8 else f a

/-- A write of one word over words that decode puts its enabled bytes, and every word decodes then. -/
theorem writeWord_bytes {s : State} (rd : Reader) (w : Nat) (d : Word) {en : Nat} (hs : allDecode s) (hen : en < 16) :
    allDecode (writeWord s rd w d en false).2 ∧ byteAt (writeWord s rd w d en false).2 = wordPut (byteAt s) w d en := by
  have hmod : en % 16 = en := Nat.mod_eq_of_lt hen
  obtain ⟨hnone, hwhole, hpart⟩ := writeWord_written s rd w d en false
  rw [hmod] at hnone hwhole hpart
  obtain ⟨v, hv⟩ := Option.ne_none_iff_exists'.1 (hs w)
  have hthere : ∃ u, readsAs (writeWord s rd w d en false).2 w = some u ∧
      ∀ i < 4, bits u (8 * i) 8 = if en.testBit i then bits d (8 * i) 8 else bits v (8 * i) 8 := by
    by_cases hzero : en = 0
    · exact ⟨v, by rw [readsAs_of_wordKept (hnone hzero), hv], fun i _ => by rw [hzero, Nat.zero_testBit]; rfl⟩
    · by_cases hfull : en = 15
      · have hset : ∀ i < 4, Nat.testBit 15 i = true := by decide
        exact ⟨d, readsAs_of_holdsWord ((hwhole hfull).1 rfl), fun i hi => by rw [hfull, hset i hi, if_pos rfl]⟩
      · exact ⟨_, readsAs_of_holdsWord ((hpart hzero hfull).1 v rfl hv), fun i hi => bits_mergeWord v d en hi⟩
  obtain ⟨u, hu, hbits⟩ := hthere
  have helse : ∀ x, x ≠ w → readsAs (writeWord s rd w d en false).2 x = readsAs s x := fun x hx => readsAs_of_wordKept (writeWord_other rd hx)
  refine ⟨fun x => ?_, funext fun a => ?_⟩
  · by_cases hx : x = w
    · rw [hx, hu]
      exact Option.some_ne_none u
    · rw [helse x hx]
      exact hs x
  · by_cases ha : a / 4 = w
    · have hbyte := hbits (a % 4) (Nat.mod_lt _ (by decide))
      rw [byteAt, wordPut, ha, hu, Option.getD_some, hbyte, byteAt, ha, hv, Option.getD_some]
      cases en.testBit (a % 4) <;> simp
    · rw [byteAt, helse _ ha, wordPut, if_neg (fun h => ha h.1), byteAt]

/-- The bytes after words are put in order. -/
def wordsPut (f : Nat → Nat) (ws : List (Nat × Word × Nat × Bool)) : Nat → Nat :=
  ws.foldl (fun f g => wordPut f g.1 g.2.1 g.2.2.1) f

/-- What a word gathered from bytes without poison satisfies: four enables, no poison, and zero where no byte is enabled. -/
def gatheredOk (g : Nat × Word × Nat × Bool) : Prop :=
  g.2.2.1 < 16 ∧ g.2.2.2 = false ∧ ∀ i < 4, g.2.2.1.testBit i = false → bits g.2.1 (8 * i) 8 = 0

/-- Gathered words written over words that decode. -/
theorem writeGathered_bytes {s : State} (rd : Reader) {ws : List (Nat × Word × Nat × Bool)} (hs : allDecode s) (hws : ∀ g ∈ ws, gatheredOk g) :
    allDecode (writeGathered s rd ws).2 ∧ byteAt (writeGathered s rd ws).2 = wordsPut (byteAt s) ws := by
  induction ws generalizing s with
  | nil => exact ⟨hs, rfl⟩
  | cons g ws ih =>
    obtain ⟨w, d, en, p⟩ := g
    obtain ⟨hen, hp, -⟩ := hws _ List.mem_cons_self
    dsimp only at hen hp
    subst hp
    obtain ⟨hdecode, hbyte⟩ := writeWord_bytes rd w d hs hen
    have h := ih hdecode (fun g hg => hws g (List.mem_cons_of_mem _ hg))
    rw [hbyte] at h
    exact h

/-- The bytes after one byte is put. -/
def bytePut (f : Nat → Nat) (q : Nat × Byte) : Nat → Nat := fun a => if a = q.1 then q.2.toNat else f a

/-- Bytes without poison for places in store. -/
def placedBytes (l : List (Nat × Byte)) : List (Loc × Byte × Bool) := l.map (fun q => (Loc.mem q.1, q.2, false))

/-- One byte in its place of a word. -/
theorem bits_byteInWord (v : Byte) {k i : Nat} (hk : k < 4) (hi : i < 4) :
    bits (BitVec.ofNat 32 (v.toNat * 256 ^ k)) (8 * i) 8 = if i = k then v.toNat else 0 := by
  have hv := v.isLt
  rw [bits, BitVec.toNat_ofNat]
  interval_cases k <;> interval_cases i <;> simp <;> omega

theorem bits_or {n : Nat} (a b : BitVec n) (lo len : Nat) : bits (a ||| b) lo len = bits a lo len ||| bits b lo len :=
  Nat.eq_of_testBit_eq fun i => by
    simp only [Nat.testBit_or, testBit_bits, bit, BitVec.toNat_or]
    cases decide (i < len) <;> simp

/-- One byte as a gathered word. -/
def byteGathered (q : Nat × Byte) : Nat × Word × Nat × Bool :=
  (q.1 / 4, BitVec.ofNat 32 (q.2.toNat * 256 ^ (q.1 % 4)), 2 ^ (q.1 % 4), false)

theorem byteGathered_ok (q : Nat × Byte) : gatheredOk (byteGathered q) := by
  have hk : q.1 % 4 < 4 := Nat.mod_lt _ (by decide)
  have hpow : ∀ k < 4, 2 ^ k < 16 := by decide
  refine ⟨hpow _ hk, rfl, fun i hi hclear => ?_⟩
  have hne : i ≠ q.1 % 4 := fun h => by
    rw [h] at hclear
    simp [byteGathered] at hclear
  exact (bits_byteInWord q.2 hk hi).trans (if_neg hne)

theorem wordPut_byteGathered (f : Nat → Nat) (q : Nat × Byte) :
    wordPut f (byteGathered q).1 (byteGathered q).2.1 (byteGathered q).2.2.1 = bytePut f q := by
  funext a
  have hk : q.1 % 4 < 4 := Nat.mod_lt _ (by decide)
  have ha : a % 4 < 4 := Nat.mod_lt _ (by decide)
  simp only [wordPut, byteGathered, bytePut, Nat.testBit_two_pow, decide_eq_true_eq, bits_byteInWord q.2 hk ha]
  by_cases h : a = q.1
  · simp [h]
  · rw [if_neg h, if_neg (by omega)]

/-- One more byte merged into a word that does not enable it. -/
def mergedGathered (q : Nat × Byte) (g : Nat × Word × Nat × Bool) : Nat × Word × Nat × Bool :=
  (g.1, g.2.1 ||| BitVec.ofNat 32 (q.2.toNat * 256 ^ (q.1 % 4)), g.2.2.1 + 2 ^ (q.1 % 4), g.2.2.2)

section
variable {q : Nat × Byte} {g : Nat × Word × Nat × Bool} (hg : gatheredOk g) (hclear : g.2.2.1.testBit (q.1 % 4) = false)
include hg hclear

/-- The enables of a word with one byte more. -/
theorem testBit_mergedGathered {i : Nat} (hi : i < 4) :
    (mergedGathered q g).2.2.1.testBit i = (g.2.2.1.testBit i || decide (i = q.1 % 4)) := by
  have hadd : ∀ e < 16, ∀ k < 4, ∀ i < 4, e.testBit k = false → (e + 2 ^ k).testBit i = (e.testBit i || decide (i = k)) := by decide
  exact hadd _ hg.1 _ (Nat.mod_lt _ (by decide)) i hi hclear

/-- The bytes of a word with one byte more. -/
theorem bits_mergedGathered {i : Nat} (hi : i < 4) :
    bits (mergedGathered q g).2.1 (8 * i) 8 = if i = q.1 % 4 then q.2.toNat else bits g.2.1 (8 * i) 8 := by
  obtain ⟨-, -, hzero⟩ := hg
  rw [mergedGathered, bits_or, bits_byteInWord q.2 (Nat.mod_lt _ (by decide)) hi]
  split
  · next h => rw [hzero i hi (h ▸ hclear), Nat.zero_or]
  · exact Nat.or_zero _

theorem mergedGathered_ok : gatheredOk (mergedGathered q g) := by
  have hadd : ∀ e < 16, ∀ k < 4, e.testBit k = false → e + 2 ^ k < 16 := by decide
  have ⟨hen, hp, hzero⟩ := hg
  refine ⟨hadd _ hen _ (Nat.mod_lt _ (by decide)) hclear, hp, fun i hi hnot => ?_⟩
  rw [testBit_mergedGathered hg hclear hi, Bool.or_eq_false_iff, decide_eq_false_iff_not] at hnot
  rw [bits_mergedGathered hg hclear hi, if_neg hnot.2, hzero i hi hnot.1]

/-- A byte put before a word that does not enable it is the same as the byte merged into the word. -/
theorem wordPut_mergedGathered (f : Nat → Nat) (hplace : g.1 = q.1 / 4) :
    wordPut f (mergedGathered q g).1 (mergedGathered q g).2.1 (mergedGathered q g).2.2.1 = wordPut (bytePut f q) g.1 g.2.1 g.2.2.1 := by
  funext a
  have ha : a % 4 < 4 := Nat.mod_lt _ (by decide)
  simp only [wordPut, testBit_mergedGathered hg hclear ha, bits_mergedGathered hg hclear ha, bytePut]
  by_cases h : a = q.1
  · subst h
    simp [mergedGathered, hplace, hclear]
  · by_cases hk : a % 4 = q.1 % 4
    · have hword : a / 4 ≠ g.1 := by omega
      simp [mergedGathered, hword, h]
    · simp [mergedGathered, hk, h]

end

/-- Bytes gathered into words: the words put in order are the bytes put in order. -/
theorem gatherLocs_placedBytes (l : List (Nat × Byte)) : (∀ g ∈ gatherLocs (placedBytes l), gatheredOk g) ∧
    ∀ f, wordsPut f (gatherLocs (placedBytes l)) = l.foldl bytePut f := by
  induction l with
  | nil => exact ⟨fun g hg => by simp [placedBytes, gatherLocs] at hg, fun f => rfl⟩
  | cons q l ih =>
    obtain ⟨hok, hput⟩ := ih
    have hsplit : gatherLocs (placedBytes (q :: l)) = byteGathered q :: gatherLocs (placedBytes l) ∨
        ∃ g t, gatherLocs (placedBytes l) = g :: t ∧ g.1 = q.1 / 4 ∧ g.2.2.1.testBit (q.1 % 4) = false ∧
          gatherLocs (placedBytes (q :: l)) = mergedGathered q g :: t := by
      rw [show placedBytes (q :: l) = (Loc.mem q.1, q.2, false) :: placedBytes l from rfl, gatherLocs]
      cases hrest : gatherLocs (placedBytes l) with
      | nil => exact .inl rfl
      | cons g t =>
        obtain ⟨w, d, e, p⟩ := g
        dsimp only
        split
        · next h =>
          simp only [Bool.and_eq_true, beq_iff_eq, Bool.not_eq_true'] at h
          exact .inr ⟨_, _, rfl, h.1, h.2, by simp [mergedGathered]⟩
        · exact .inl rfl
    rcases hsplit with h | ⟨g, t, hrest, hplace, hclear, h⟩
    · rw [h]
      refine ⟨fun g hg => ?_, fun f => ?_⟩
      · rcases List.mem_cons.1 hg with rfl | hg
        · exact byteGathered_ok q
        · exact hok g hg
      · rw [wordsPut, List.foldl_cons, wordPut_byteGathered, List.foldl_cons, ← hput]
        rfl
    · have hg := hok g (hrest ▸ List.mem_cons_self)
      rw [h]
      refine ⟨fun x hx => ?_, fun f => ?_⟩
      · rcases List.mem_cons.1 hx with rfl | hx
        · exact mergedGathered_ok hg hclear
        · exact hok x (hrest ▸ List.mem_cons_of_mem _ hx)
      · rw [wordsPut, List.foldl_cons, wordPut_mergedGathered hg hclear f hplace, List.foldl_cons, ← hput, hrest]
        rfl

/-- Bytes written at places in store, over words that decode. -/
theorem writeLocs_bytes {s : State} (rd : Reader) (l : List (Nat × Byte)) (hs : allDecode s) :
    byteAt (writeLocs s rd (placedBytes l)) = l.foldl bytePut (byteAt s) := by
  obtain ⟨hok, hput⟩ := gatherLocs_placedBytes l
  obtain ⟨-, hbyte⟩ := writeGathered_bytes rd hs hok
  have hmem : memOf (writeLocs s rd (placedBytes l)) = memOf (writeGathered s rd (gatherLocs (placedBytes l))).2 := by
    unfold writeLocs
    dsimp only
    split
    · exact (logEcc_kept ..).2
    · rfl
  rw [byteAt_of_mem hmem, hbyte, hput]

/-- Bytes put at places that do not repeat: each place has its byte, every other what it had. -/
theorem foldl_bytePut {l : List (Nat × Byte)} (hnodup : (l.map (·.1)).Nodup) (f : Nat → Nat) :
    (∀ q ∈ l, l.foldl bytePut f q.1 = q.2.toNat) ∧ ∀ a, a ∉ l.map (·.1) → l.foldl bytePut f a = f a := by
  induction l generalizing f with
  | nil => exact ⟨fun q hq => by simp at hq, fun a _ => rfl⟩
  | cons p l ih =>
    rw [List.map_cons, List.nodup_cons] at hnodup
    obtain ⟨hnew, hrest⟩ := hnodup
    obtain ⟨hput, helse⟩ := ih hrest (bytePut f p)
    refine ⟨fun q hq => ?_, fun a ha => ?_⟩
    · rcases List.mem_cons.1 hq with rfl | hq
      · rw [List.foldl_cons, helse _ hnew, bytePut, if_pos rfl]
      · exact hput q hq
    · rw [List.map_cons, List.mem_cons, not_or] at ha
      rw [List.foldl_cons, helse a ha.2, bytePut, if_neg ha.1]

/-! What a copy reads: the values of its source bytes by their places (R208). -/

/-- The stored address of a place, where it has one. -/
def storedAt (l : Loc) : Nat :=
  match l with
  | .mem a => a
  | _ => 0

/-- A read of places in store, over words that decode: each byte as the store reads it, unmarked. -/
theorem readLocs_stored {s : State} (rd : Reader) (hs : allDecode s) (as : List Nat) {u : State} (hu : memOf u = memOf s)
    {seen : List (Nat × PWord)} (hseen : ∀ e ∈ seen, some e.2.val = readsAs s e.1 ∧ e.2.poison = false) :
    (readLocs u rd seen (as.map .mem)).1 = as.map (fun a => (BitVec.ofNat 8 (byteAt s a), false)) := by
  induction as generalizing u seen with
  | nil => rfl
  | cons a as ih =>
    have hvalue : some (readOnce u rd seen (a / 4)).1.val = readsAs s (a / 4) ∧ (readOnce u rd seen (a / 4)).1.poison = false := by
      unfold readOnce
      split
      · next e he =>
        have hkey := List.find?_some he
        rw [beq_iff_eq] at hkey
        rw [← hkey]
        exact hseen e (List.mem_of_find?_eq_some he)
      · obtain ⟨v, hv⟩ := Option.ne_none_iff_exists'.1 (hs (a / 4))
        rw [readWord_decodes rd (by rw [readsAs_of_wordKept (wordKept_of_mem hu _), hv]), hv]
        exact ⟨rfl, rfl⟩
    have hmem : memOf (readOnce u rd seen (a / 4)).2 = memOf s := (readOnce_kept ..).2.trans hu
    obtain ⟨hval, hpoison⟩ := hvalue
    rw [List.map_cons, List.map_cons, readLocs]
    dsimp only
    rw [ih hmem (seen := (a / 4, (readOnce u rd seen (a / 4)).1) :: seen) (fun e he => by
      rcases List.mem_cons.1 he with rfl | he
      · exact ⟨hval, hpoison⟩
      · exact hseen e he), hpoison, byteAt, ← hval]
    rfl

/-- A byte added to a list that holds none of its place. -/
def addUnique (r : List CopyByte) (b : CopyByte) : List CopyByte := if r.any (fun x => x.1 == b.1) then r else r ++ [b]

theorem uniqueBytes_eq (l : List CopyByte) : uniqueBytes l = l.foldl addUnique [] := rfl

/-- Bytes added in order to a list: each of their places is there then, and nothing else is added. -/
theorem foldl_addUnique (l r : List CopyByte) : (∀ b, b ∈ r ∨ b ∈ l → ∃ x ∈ l.foldl addUnique r, x.1 = b.1) ∧
    ∀ x ∈ l.foldl addUnique r, x ∈ r ∨ x ∈ l := by
  induction l generalizing r with
  | nil => exact ⟨fun b hb => ⟨b, by simpa using hb, rfl⟩, fun x hx => .inl hx⟩
  | cons c l ih =>
    obtain ⟨hall, honly⟩ := ih (addUnique r c)
    rw [List.foldl_cons]
    by_cases hc : r.any (fun x => x.1 == c.1) = true
    · rw [addUnique, if_pos hc] at hall honly ⊢
      obtain ⟨x, hx, hplace⟩ := List.any_eq_true.1 hc
      refine ⟨fun b hb => ?_, fun x hx => (honly x hx).imp_right (List.mem_cons_of_mem _)⟩
      rcases hb with hb | hb
      · exact hall b (.inl hb)
      · rcases List.mem_cons.1 hb with rfl | hb
        · obtain ⟨y, hy, hsame⟩ := hall x (.inl hx)
          exact ⟨y, hy, hsame.trans (beq_iff_eq.1 hplace)⟩
        · exact hall b (.inr hb)
    · rw [addUnique, if_neg hc] at hall honly ⊢
      refine ⟨fun b hb => hall b ?_, fun x hx => ?_⟩
      · simpa [or_assoc] using hb
      · simpa [or_assoc] using honly x hx

/-- The bytes of a list without repeats: each place of the list, and nothing else. -/
theorem uniqueBytes_places (l : List CopyByte) : (∀ b ∈ l, ∃ x ∈ uniqueBytes l, x.1 = b.1) ∧ ∀ x ∈ uniqueBytes l, x ∈ l := by
  obtain ⟨hall, honly⟩ := foldl_addUnique l []
  rw [uniqueBytes_eq]
  exact ⟨fun b hb => hall b (.inr hb), fun x hx => (honly x hx).resolve_left (by simp)⟩

/-- The value read at a place, where values depend on places alone. -/
theorem readBack_at {l : List CopyByte} (val : Place → Byte × Bool) {p : Place} (h : ∃ x ∈ l, x.1 = p) :
    ReadBack.at_ (l.zip (l.map (fun b => val b.1))) p = val p := by
  have hzip : l.zip (l.map (fun b => val b.1)) = l.map (fun b => (b, val b.1)) := by
    conv_lhs => rw [← List.map_id' l, List.map_map, List.zip_map']
    rfl
  unfold ReadBack.at_
  rw [hzip, List.find?_map]
  cases hfind : l.find? ((fun e : CopyByte × (Byte × Bool) => e.1.1 == p) ∘ fun b => (b, val b.1)) with
  | none =>
    obtain ⟨x, hx, hp⟩ := h
    have := List.find?_eq_none.1 hfind x hx
    simp [hp] at this
  | some b =>
    have hplace := List.find?_some hfind
    simp only [Function.comp, beq_iff_eq] at hplace
    simp [hplace]

/-- Places in rows in use fault nothing. -/
theorem firstErr_none {s : State} {access n : Nat} {bs : List CopyByte} {ls : List Loc}
    (h : ∀ l ∈ ls, ∃ a, l = .mem a ∧ retiredAt s a = false) : firstErr s access n bs ls = none := by
  unfold firstErr
  refine List.findSome?_eq_none_iff.2 fun q hq => ?_
  obtain ⟨a, ha, hretired⟩ := h q.2 (List.of_mem_zip hq).2
  rw [ha]
  simp [locsStatus, hretired]

theorem firstPoison_none {access n : Nat} {bs : List CopyByte} {vs : List (Byte × Bool)} (h : ∀ v ∈ vs, v.2 = false) :
    firstPoison access n bs vs = none := by
  unfold firstPoison
  refine List.findSome?_eq_none_iff.2 fun q hq => ?_
  rw [h q.2 (List.of_mem_zip hq).2]
  rfl

/-- With no pair held an engine's access settles nothing. -/
theorem settleLocs_free {s : State} (h : ∀ u, (unitOf s u).wq = []) (ls : List Loc) : settleLocs s ls = s := by
  unfold settleLocs
  induction ls with
  | nil => rfl
  | cons l ls ih =>
    rw [List.foldl_cons]
    cases l with
    | mem a =>
      dsimp only
      rw [settleLine_free (heldPair_empty (h _))]
      exact ih
    | oob f => exact ih
    | fault => exact ih

/-- Places in store are none of them out of bounds. -/
theorem oobCount_mem (as : List Nat) : oobCount (as.map .mem) = 0 := by
  rw [oobCount, List.length_eq_zero_iff, List.filter_eq_nil_iff]
  intro l hl
  obtain ⟨a, -, rfl⟩ := List.mem_map.1 hl
  simp

theorem accessed_takeSlots (s : State) (write : Bool) (ten : Nat) (cols : List (Nat × Nat)) : accessed s (takeSlots s write ten cols) :=
  accessed_foldl (fun s _ => accessed_setBank s _ _) cols s

theorem accessed_engineSlots (s : State) (write : Bool) (ten : Nat) (ls : List Loc) : accessed s (engineSlots s write ten ls) :=
  accessed_takeSlots ..

theorem accessed_stridedSlots (s : State) (ten : Nat) (els : List (List Loc)) : accessed s (stridedSlots s ten els) :=
  accessed_takeSlots ..

/-! One step of a copy that moves bytes as they are (R208). -/

/-- A copy between equal formats reads no scale, and converts nothing. -/
theorem copy_equalFormats {c : Copy} (h : c.sfmt = c.dfmt) : (∀ j, c.scaleBytes j = []) ∧ ∀ j src sc, c.convert j src sc = src := by
  refine ⟨fun j => ?_, fun j src sc => if_pos h⟩
  have hwhole : (!isMx c.sfmt || c.whole) = true := by
    rw [Copy.whole, h, beq_self_eq_true, Bool.and_true]
    cases isMx c.dfmt <;> rfl
  rw [Copy.scaleBytes]
  exact if_pos hwhole

/-- The destination bytes of a step without padding, with the values of their source bytes. -/
theorem copy_values {s : State} {c : Copy} {js : List (List Nat)} {m : ReadBack} {val : Place → Byte × Bool} (h : c.sfmt = c.dfmt)
    (hpad : ∀ j ∈ js, c.isPad j = false) (hlen : ∀ j ∈ js, (c.srcBytes j).length = (c.dstBytes j).length)
    (hval : ∀ b ∈ js.flatMap c.srcBytes, m.at_ b.1 = val b.1) :
    (c.values s js m []).map (·.1) = js.flatMap c.dstBytes ∧ (c.values s js m []).map (·.2) = (js.flatMap c.srcBytes).map (fun b => val b.1) := by
  obtain ⟨hscale, hconvert⟩ := copy_equalFormats h
  have hvalues : c.values s js m [] = js.flatMap (fun j => (c.dstBytes j).zip ((c.srcBytes j).map (fun b => val b.1))) := by
    unfold Copy.values
    refine List.flatMap_congr fun j hj => ?_
    rw [hpad j hj, hscale, hconvert]
    simp only [Bool.false_eq_true, if_false]
    congr 1
    exact List.map_congr_left fun b hb => hval b (List.mem_flatMap.2 ⟨j, hj, hb⟩)
  rw [hvalues, List.map_flatMap, List.map_flatMap, List.map_flatMap]
  exact ⟨List.flatMap_congr fun j hj => List.map_fst_zip (by rw [List.length_map, hlen j hj]),
    List.flatMap_congr fun j hj => List.map_snd_zip (by rw [List.length_map, hlen j hj])⟩

/-- Where a region's bytes lie does not depend on stored words, slots, or meters. -/
theorem byteLocs_of_accessed {s t : State} (h : accessed s t) (n : Nat) (write : Bool) (bs : List CopyByte) :
    byteLocs t n write bs = byteLocs s n write bs := by
  obtain ⟨k, q, m, c, fr, lg, ec, et, el, ul, rfl⟩ := h
  rfl

theorem retiredAt_of_accessed {s t : State} (h : accessed s t) (a : Nat) : retiredAt t a = retiredAt s a := by
  obtain ⟨k, q, m, c, fr, lg, ec, et, el, ul, rfl⟩ := h
  rfl

theorem mayShare_of_accessed {s t : State} (h : accessed s t) (c : Copy) : mayShare t c = mayShare s c := by
  obtain ⟨k, q, m, ch, fr, lg, ec, et, el, ul, rfl⟩ := h
  rfl

/-- The state once a step has read its source bytes, and has taken and paid its slots. -/
def copyRead (s : State) (e : BitVec 2) (a : Active) (js : List (List Nat)) (sl : List Loc) : State :=
  let c := copyOf a.raw
  let u := { (readLocs s (decantReader e a) [] sl).2 with dram := s.dram, check := s.check }
  let v := if c.transposing && !c.inplace && !c.exchange u then
      let v := stridedSlots u a.ten (js.map (fun j => byteLocs u c.sregion false (c.srcBytes j)))
      if scaleArray c.sfmt then engineSlots v false a.ten [] else v
    else engineSlots u false a.ten sl
  meter v a.ten 6 sl.length (6 * sl.length)

theorem copyRead_shows (s : State) (e : BitVec 2) (a : Active) (js : List (List Nat)) (sl : List Loc) :
    accessed s (copyRead s e a js sl) ∧ memOf (copyRead s e a js sl) = memOf s := by
  unfold copyRead
  dsimp only
  generalize hu : ({ (readLocs s (decantReader e a) [] sl).2 with dram := s.dram, check := s.check } : State) = u
  have haccessed : accessed s u := by
    rw [← hu]
    exact accessed_trans (accessed_of_noted (noted_readLocs ..)) ⟨_, _, noted_refl _⟩
  have hmem : memOf u = memOf s := by
    rw [← hu]
    rfl
  have hmeter : ∀ {v : State} n p, accessed s v ∧ memOf v = memOf s → accessed s (meter v a.ten 6 n p) ∧ memOf (meter v a.ten 6 n p) = memOf s :=
    fun n p h => ⟨accessed_trans h.1 (accessed_meter ..), (meter_kept ..).2.trans h.2⟩
  have hengine : ∀ {v : State} ls, accessed s v ∧ memOf v = memOf s →
      accessed s (engineSlots v false a.ten ls) ∧ memOf (engineSlots v false a.ten ls) = memOf s :=
    fun ls h => ⟨accessed_trans h.1 (accessed_engineSlots ..), (engineSlots_kept ..).2.trans h.2⟩
  have hstrided : ∀ els, accessed s (stridedSlots u a.ten els) ∧ memOf (stridedSlots u a.ten els) = memOf s :=
    fun els => ⟨accessed_trans haccessed (accessed_stridedSlots ..), (stridedSlots_kept ..).2.trans hmem⟩
  refine hmeter _ _ ?_
  split
  · split
    · exact hengine _ (hstrided _)
    · exact hstrided _
  · exact hengine _ ⟨haccessed, hmem⟩

section
variable {s : State} {e : BitVec 2} {a : Active} {c : Copy} {k : Nat} {js : List (List Nat)} {pairs : List (Nat × Nat)}
  (hc : c = copyOf a.raw) (hfmt : c.sfmt = c.dfmt) (hpadw : c.padw = false)
  (hshare : mayShare s c = false) (hfree : ∀ u, (unitOf s u).wq = []) (hdecode : allDecode s)
  (hjs : js = (c.stepIx s k).filter (fun i => !c.isPad i))
  (hsrc : byteLocs s c.sregion false (js.flatMap c.srcBytes) = pairs.map (fun p => .mem p.1))
  (hdst : byteLocs s c.dregion true (js.flatMap c.dstBytes) = pairs.map (fun p => .mem p.2))
  (hretired : ∀ p ∈ pairs, retiredAt s p.1 = false ∧ retiredAt s p.2 = false)
  (hlen : ∀ i ∈ js, (c.srcBytes i).length = (c.dstBytes i).length)

/-- The value of the byte at a place of a region that a copy reads. -/
def placeValue (s : State) (n : Nat) (p : Place) : Byte × Bool :=
  (BitVec.ofNat 8 (byteAt s (storedAt (locate s (regionOf s n) false p.bank p.off))), false)

include hsrc in
/-- Each source byte lies in store, at a place of the pairs. -/
theorem copySource_stored {b : CopyByte} (hb : b ∈ js.flatMap c.srcBytes) :
    ∃ p ∈ pairs, locate s (regionOf s c.sregion) false b.1.bank b.1.off = .mem p.1 := by
  have hmem : locate s (regionOf s c.sregion) false b.1.bank b.1.off ∈ byteLocs s c.sregion false (js.flatMap c.srcBytes) := List.mem_map.2 ⟨b, hb, rfl⟩
  rw [hsrc] at hmem
  obtain ⟨p, hp, h⟩ := List.mem_map.1 hmem
  exact ⟨p, hp, h.symm⟩

include hsrc in
/-- The source bytes without repeats lie in store. -/
theorem copySource_unique : byteLocs s c.sregion false (uniqueBytes (js.flatMap c.srcBytes)) =
    ((uniqueBytes (js.flatMap c.srcBytes)).map (fun b => storedAt (locate s (regionOf s c.sregion) false b.1.bank b.1.off))).map .mem := by
  rw [byteLocs, List.map_map]
  refine List.map_congr_left fun b hb => ?_
  obtain ⟨p, -, h⟩ := copySource_stored hsrc ((uniqueBytes_places _).2 b hb)
  rw [Function.comp, h]
  rfl

include hsrc in
/-- The values of the source bytes are the stored bytes of the pairs. -/
theorem copySource_values : (js.flatMap c.srcBytes).map (fun b => placeValue s c.sregion b.1) =
    pairs.map (fun p => (BitVec.ofNat 8 (byteAt s p.1), false)) := by
  have h := congrArg (List.map (fun l => ((BitVec.ofNat 8 (byteAt s (storedAt l)), false) : Byte × Bool))) hsrc
  rw [byteLocs, List.map_map, List.map_map] at h
  exact h

/-- The state once a step has written its bytes, and has taken and paid its slots. -/
def copyWritten (u : State) (e : BitVec 2) (a : Active) (dl : List Loc) (vals : List (Byte × Bool)) : State :=
  meter (engineSlots (writeLocs u (decantReader e a) (dl.zip vals)) true a.ten dl) a.ten 6 dl.length (6 * dl.length)

/-- A step that reads each of its bytes unmarked, and finds no fault, ends with its bytes written. -/
theorem copyStep_eq {sb : List CopyByte} {sl : List Loc} {sv : List (Byte × Bool)} {all : ReadBack} {dl : List Loc} {u : State}
    (hc : c = copyOf a.raw) (hfilter : (c.stepIx s k).filter (fun j => c.padw || !c.isPad j) = js) (hdata : js.filter (fun j => !c.isPad j) = js)
    (hsb : uniqueBytes (js.flatMap c.srcBytes) = sb) (hscales : uniqueBytes (js.flatMap c.scaleBytes) = [])
    (hsl : byteLocs s c.sregion false sb = sl) (herr : firstErr s 0 c.sregion sb sl = none) (hfree : ∀ u, (unitOf s u).wq = [])
    (hsv : (readLocs s (decantReader e a) [] sl).1 = sv) (hoob : oobCount sl = 0) (hsvlen : sv.length = sl.length)
    (hpoison : firstPoison 0 c.sregion sb sv = none)
    (hu : copyRead s e a js sl = u) (huwq : ∀ b, (unitOf u b).wq = []) (hall : c.values u js (sb.zip sv) [] = all)
    (hdl : byteLocs u c.dregion true (all.map (·.1)) = dl) (hdlerr : firstErr u 2 c.dregion (all.map (·.1)) dl = none)
    (hshare : mayShare u c = false) (hdloob : oobCount dl = 0) :
    copyStep s e a [] k = (.ok (dl.length, []), copyWritten u e a dl (all.map (·.2))) := by
  unfold copyStep
  extract_lets c' rd js' data sb' xb sl' xl now nread
  have hc' : c = c' := hc
  have hrd : decantReader e a = rd := rfl
  clear_value c' rd
  subst hc' hrd
  have hjs' : js = js' := hfilter.symm
  have hdata' : js = data := hdata.symm.trans (congrArg (List.filter _) hjs')
  have hsb' : sb = sb' := hsb.symm.trans (congrArg (fun l => uniqueBytes (List.flatMap c.srcBytes l)) hdata')
  have hxb : [] = xb := hscales.symm.trans (congrArg (fun l => uniqueBytes (List.flatMap c.scaleBytes l)) hdata')
  have hsl' : sl = sl' := hsl.symm.trans (congrArg (byteLocs s c.sregion false) hsb')
  have hxl : [] = xl := congrArg (byteLocs s c.sregion false) hxb
  have hnow : s = now := (settleLocs_free hfree _).symm
  have hnread : sl.length = nread := by
    show sl.length = sl'.length + xl.length - oobCount sl' - oobCount xl
    rw [← hsl', ← hxl, hoob]
    rfl
  clear_value nread now xl sl' xb sb' data js'
  subst hjs' hdata' hsb' hxb hsl' hxl hnow hnread
  rw [herr, List.append_nil, show orElse none (firstErr s 1 c.sregion [] []) = none from rfl, show putBack s [] = s from rfl]
  unfold copyRead at hu
  rw [← hc] at hu
  generalize readLocs s (decantReader e a) [] sl = r at hsv hu
  obtain ⟨rv, s'⟩ := r
  obtain rfl : sv = rv := hsv.symm
  dsimp -zeta only at hu ⊢
  extract_lets sv' xv s₁ s₂ s₃ s₄ s₅ all' db dl' s₆ share late old vals saved s₇ n s₈
  have hsv' : sv = sv' := (List.take_of_length_le (le_of_eq hsvlen)).symm
  have hxv : [] = xv := (List.drop_of_length_le (le_of_eq hsvlen)).symm
  have hs₂ : s₁ = s₂ := by
    show s₁ = countOob s₁ c.sregion false (oobCount sl + 0)
    rw [hoob]
    rfl
  clear_value s₂ xv sv'
  subst hs₂ hxv hsv'
  have hs₅ : u = s₅ := hu.symm
  clear_value s₅
  subst hs₅
  have hall' : all = all' := hall.symm
  have hdb : all.map (·.1) = db := congrArg (List.map (·.1)) hall'
  have hdl' : dl = dl' := hdl.symm.trans (congrArg (byteLocs u c.dregion true) hdb)
  have hs₆ : u = s₆ := (settleLocs_free huwq _).symm
  have hshare' : false = share := hshare.symm.trans (congrArg (mayShare · c) hs₆)
  clear_value share s₆ dl' db all'
  subst hshare' hs₆ hdl' hdb hall'
  have hvals : all.map (·.2) = vals := rfl
  have hsaved : [] = saved := rfl
  have hs₇ : u = s₇ := rfl
  have hn : dl.length = n := by
    show dl.length = dl.length - oobCount dl
    rw [hdloob]
    rfl
  have hs₈ : writeLocs u (decantReader e a) (dl.zip (all.map (·.2))) = s₈ := by
    show _ = countOob (writeLocs u (decantReader e a) (dl.zip (all.map (·.2)))) c.dregion true (oobCount dl)
    rw [hdloob]
    rfl
  clear_value s₈ n s₇ saved vals
  subst hs₈ hn hs₇ hsaved hvals
  have hmarks : (if dFlag a.raw 4 = true then none else orElse (firstPoison 0 c.sregion sb sv) (firstPoison 1 c.sregion [] [])) = none := by
    rw [hpoison]
    exact ite_self none
  rw [hmarks]
  dsimp only
  rw [hdlerr]
  rfl

include hc hfmt hpadw hshare hfree hdecode hjs hsrc hdst hretired hlen in
/-- A step of a copy that moves bytes as they are puts each source byte in its destination. -/
theorem copyStep_moves : ∃ u, accessed s u ∧ memOf u = memOf s ∧
    copyStep s e a [] k = (.ok (pairs.length, []), copyWritten u e a (pairs.map (fun p => .mem p.2))
      (pairs.map (fun p => (BitVec.ofNat 8 (byteAt s p.1), false)))) := by
  obtain ⟨hplaces, honly⟩ := uniqueBytes_places (js.flatMap c.srcBytes)
  have hunique := copySource_unique hsrc
  have hnopad : ∀ j ∈ js, c.isPad j = false := fun j hj => by
    rw [hjs] at hj
    simpa using (List.mem_filter.1 hj).2
  have hscales : uniqueBytes (js.flatMap c.scaleBytes) = [] :=
    congrArg uniqueBytes (List.flatMap_eq_nil_iff.2 fun j _ => (copy_equalFormats hfmt).1 j)
  have hread : (readLocs s (decantReader e a) [] (byteLocs s c.sregion false (uniqueBytes (js.flatMap c.srcBytes)))).1 =
      (uniqueBytes (js.flatMap c.srcBytes)).map (fun b => placeValue s c.sregion b.1) := by
    rw [hunique, readLocs_stored _ hdecode _ rfl (by simp), List.map_map]
    rfl
  obtain ⟨haccessed, hmem⟩ := copyRead_shows s e a js (byteLocs s c.sregion false (uniqueBytes (js.flatMap c.srcBytes)))
  generalize hu : copyRead s e a js (byteLocs s c.sregion false (uniqueBytes (js.flatMap c.srcBytes))) = u at haccessed hmem
  have hreads : ∀ b ∈ js.flatMap c.srcBytes, ReadBack.at_ ((uniqueBytes (js.flatMap c.srcBytes)).zip
    ((uniqueBytes (js.flatMap c.srcBytes)).map (fun b => placeValue s c.sregion b.1))) b.1 = placeValue s c.sregion b.1 :=
    fun b hb => readBack_at (placeValue s c.sregion) (hplaces b hb)
  obtain ⟨hall, hvals⟩ := copy_values (s := u) hfmt hnopad hlen hreads
  have hdl : byteLocs u c.dregion true (js.flatMap c.dstBytes) = pairs.map (fun p => .mem p.2) := by rw [byteLocs_of_accessed haccessed, hdst]
  have hstep := copyStep_eq (s := s) (e := e) (k := k) (js := js) hc (by simp [hpadw, hjs])
    (List.filter_eq_self.2 fun j hj => by simp [hnopad j hj]) rfl hscales rfl
    (firstErr_none fun l hl => ?_) hfree hread ?_ ?_ (firstPoison_none fun v hv => ?_) hu (fun b => ?_) rfl
    ((congrArg (byteLocs u c.dregion true) hall).trans hdl) (firstErr_none fun l hl => ?_) ((mayShare_of_accessed haccessed c).trans hshare) ?_
  · refine ⟨u, haccessed, hmem, ?_⟩
    rw [hstep, hvals, copySource_values hsrc, List.length_map]
  · obtain ⟨b, hb, rfl⟩ := List.mem_map.1 hl
    obtain ⟨p, hp, h⟩ := copySource_stored hsrc (honly b hb)
    exact ⟨p.1, h, (hretired p hp).1⟩
  · rw [hunique]
    exact oobCount_mem _
  · rw [List.length_map, byteLocs, List.length_map]
  · obtain ⟨b, -, rfl⟩ := List.mem_map.1 hv
    rfl
  · rw [unitOf_of_accessed haccessed]
    exact hfree b
  · obtain ⟨p, hp, rfl⟩ := List.mem_map.1 hl
    exact ⟨p.2, rfl, (retiredAt_of_accessed haccessed _).trans (hretired p hp).2⟩
  · rw [show pairs.map (fun p => Loc.mem p.2) = (pairs.map (·.2)).map .mem by rw [List.map_map]; rfl]
    exact oobCount_mem _

end

/-- What a step of a copy has written: each byte in its place, over words that decode. -/
theorem copyWritten_bytes {u : State} (e : BitVec 2) (a : Active) (hdecode : allDecode u) (l : List (Nat × Byte)) :
    byteAt (copyWritten u e a (l.map (fun q => .mem q.1)) (l.map (fun q => (q.2, false)))) = l.foldl bytePut (byteAt u) := by
  have hzip : (l.map (fun q => Loc.mem q.1)).zip (l.map (fun q => (q.2, false))) = placedBytes l := List.zip_map'
  unfold copyWritten
  rw [hzip, byteAt_of_mem ((meter_kept ..).2.trans (engineSlots_kept ..).2), writeLocs_bytes _ _ hdecode]

/-- A copy waits for a slot only while it has a step to do. -/
theorem copyAt_step {s : State} {b : Nat} {e : BitVec 2} {j : CopyJob} {a : Active} (hat : copyAt s b = some e) (hjob : jobOf s e = some (j, a)) :
    ¬ (copyOf a.raw).steps s ≤ j.next := by
  have hbank := List.find?_some hat
  rw [Bool.and_eq_true, beq_iff_eq] at hbank
  intro hdone
  have hnone : copyBank s e = none := by
    unfold copyBank
    rw [hjob]
    exact if_pos hdone
  rw [hnone] at hbank
  exact absurd hbank.2 (by simp)

/-- A slot that a copy takes does its next step. -/
theorem exec_columnSlot_copy {b : BitVec 12} {s t : State} {e : BitVec 2} {j : CopyJob} {a : Active} {n : Nat} {saved : SMap (Option (Word × Byte))}
    (hon : arraysOn s = true) (hq : (bankOf s b.toNat).hostQ = []) (howed : (bankOf s b.toNat).owed < 8) (hrmw : rmwOpen s b.toNat = false)
    (hat : copyAt s b.toNat = some e) (hjob : jobOf s e = some (j, a)) (hstep : copyStep s e a j.saved j.next = (.ok (n, saved), t)) :
    exec (.columnSlot b) s = .next (setDecant t e.toNat
      { decantOf t e.toNat with job := some { j with next := j.next + 1, bytes := j.bytes + n, saved := saved } }) := by
  have hadvance : advanceCopy s e = setDecant t e.toNat
      { decantOf t e.toNat with job := some { j with next := j.next + 1, bytes := j.bytes + n, saved := saved } } := by
    unfold advanceCopy
    rw [hjob]
    dsimp only
    rw [if_neg (copyAt_step hat hjob), hstep]
  rw [← hadvance]
  show execColumnSlot b s = _
  unfold execColumnSlot
  simp [hon, hq, howed, hrmw, hat]

/-- A step of a copy that moves bytes as they are: each destination byte takes its source byte, no other changes, and they are counted.
(R121, R208) -/
theorem copy_step (b : BitVec 12) (s : State) (e : BitVec 2) (j : CopyJob) (a : Active) (c : Copy) (js : List (List Nat)) (pairs : List (Nat × Nat))
    (hon : arraysOn s = true) (hsaved : j.saved = []) (hq : (bankOf s b.toNat).hostQ = []) (howed : (bankOf s b.toNat).owed < 8)
    (hat : copyAt s b.toNat = some e) (hjob : jobOf s e = some (j, a)) (hc : c = copyOf a.raw) (hfmt : c.sfmt = c.dfmt) (hpadw : c.padw = false)
    (hshare : mayShare s c = false) (hfree : ∀ u, (unitOf s u).wq = []) (hdecode : allDecode s)
    (hjs : js = (c.stepIx s j.next).filter (fun i => !c.isPad i))
    (hsrc : byteLocs s c.sregion false (js.flatMap c.srcBytes) = pairs.map (fun p => .mem p.1))
    (hdst : byteLocs s c.dregion true (js.flatMap c.dstBytes) = pairs.map (fun p => .mem p.2))
    (hretired : ∀ p ∈ pairs, retiredAt s p.1 = false ∧ retiredAt s p.2 = false) (hnodup : (pairs.map (·.2)).Nodup)
    (hlen : ∀ i ∈ js, (c.srcBytes i).length = (c.dstBytes i).length) :
    ∃ t, exec (.columnSlot b) s = .next t ∧ (∀ p ∈ pairs, byteAt t p.2 = byteAt s p.1) ∧
      (∀ x, x ∉ pairs.map (·.2) → byteAt t x = byteAt s x) ∧
      (decantOf t e.toNat).job = some { j with next := j.next + 1, bytes := j.bytes + pairs.length } := by
  obtain ⟨u, -, hmem, hstep⟩ := copyStep_moves (e := e) hc hfmt hpadw hshare hfree hdecode hjs hsrc hdst hretired hlen
  obtain ⟨l, hl⟩ : ∃ l, l = pairs.map (fun p => (p.2, (BitVec.ofNat 8 (byteAt s p.1) : Byte))) := ⟨_, rfl⟩
  have hplaces : pairs.map (fun p => Loc.mem p.2) = l.map (fun q => .mem q.1) := by rw [hl, List.map_map]; rfl
  have hvals : pairs.map (fun p => ((BitVec.ofNat 8 (byteAt s p.1) : Byte), false)) = l.map (fun q => (q.2, false)) := by rw [hl, List.map_map]; rfl
  have hdests : l.map (·.1) = pairs.map (·.2) := by rw [hl, List.map_map]; rfl
  rw [hplaces, hvals, ← hsaved] at hstep
  have hbytes := copyWritten_bytes e a (allDecode_of_mem hmem hdecode) l
  rw [byteAt_of_mem hmem] at hbytes
  obtain ⟨hput, helse⟩ := foldl_bytePut (l := l) (by rwa [hdests]) (byteAt s)
  rw [← hbytes] at hput helse
  refine ⟨_, exec_columnSlot_copy hon hq howed (rmwOpen_empty (hfree _)) hat hjob hstep, fun p hp => ?_, fun x hx => ?_, ?_⟩
  · have hbyte := hput (p.2, BitVec.ofNat 8 (byteAt s p.1)) (by rw [hl]; exact List.mem_map.2 ⟨p, hp, rfl⟩)
    rw [BitVec.toNat_ofNat, Nat.mod_eq_of_lt (byteAt_lt s p.1)] at hbyte
    exact hbyte
  · rw [← hdests] at hx
    exact helse x hx
  · simp [decantOf_setDecant]

/-- Time that passes leaves the stored words and the units. -/
theorem advanceTo_leaves (s : State) (due : Nat) : (advanceTo s due).dram = s.dram ∧ (advanceTo s due).units = s.units := by
  unfold advanceTo advance
  split
  · exact ⟨rfl, rfl⟩
  · exact ⟨rfl, rfl⟩

/-- The end of a refresh interval, as the bank counts it. (R125) -/
theorem refresh_owed (b : BitVec 12) (s : State) (k : Bank) (due : Nat) (hon : arraysOn s = true) (hk : k = bankOf s b.toNat)
    (hdue : due = k.refFrom + (if k.refBand = 0 then 12500 else if k.refBand = 1 then 6250 else 3125)) :
    ∃ t, exec (.refreshOwed b) s = .next t ∧ t.dram = s.dram ∧ t.units = s.units ∧
      bankOf t b.toNat = { k with owed := min 8 (k.owed + 1), refFrom := due, refBand := (thmOf s (b.toNat / 512)).band } ∧
      (clockRuns s = true → s.net.slew = 0 → s.net.rate = 0 → s.net.rateAcc < 65536 →
        due ≤ t.elapsed ∧ t.elapsed < max due (s.elapsed + 1) + ckTicks s) := by
  subst hk
  rw [← refInterval_eq] at hdue
  have hexec := exec_refreshOwed (b := b) hon
  rw [← hdue] at hexec
  obtain ⟨hdram, hunits⟩ := advanceTo_leaves s due
  refine ⟨_, hexec, hdram, hunits, ?_, advanceTo_reaches due⟩
  rw [bankOf_setBank, if_pos rfl]
  rfl

/-- What a word of a column holds after its write, by its enables. (R340, R342, R343) -/
theorem wordWritten_column {s t : State} {w en : Nat} {d : Word} {p : Bool} (hen : en < 16) (h : wordWritten s t w d en p) :
    (en = 0 → wordKept s t w) ∧
    (en = 15 → p = false → dramWord t w = d ∧ dramCheck t w = encodeCheck d) ∧
    (en ≠ 0 → p = true → dramWord t w = 0 ∧ dramCheck t w = 0x7F) ∧
    (en ≠ 0 → en ≠ 15 → p = false →
      (readsAs s w = none → dramWord t w = 0 ∧ dramCheck t w = 0x7F) ∧
      (∀ v, readsAs s w = some v → dramCheck t w = encodeCheck (dramWord t w) ∧ ∀ i < 4,
        bits (dramWord t w) (8 * i) 8 = if en.testBit i then bits d (8 * i) 8 else bits v (8 * i) 8)) := by
  obtain ⟨hnone, hwhole, hpart⟩ := h
  rw [Nat.mod_eq_of_lt hen] at hnone hwhole hpart
  refine ⟨hnone, fun hfull hp => (hwhole hfull).1 hp, fun hsome hp => ?_,
    fun hsome hnot hp => ⟨fun hbad => (hpart hsome hnot).2 (.inr hbad), fun v hv => ?_⟩⟩
  · by_cases hfull : en = 15
    · exact (hwhole hfull).2 hp
    · exact (hpart hsome hfull).2 (.inl hp)
  · obtain ⟨hword, hcheck⟩ := (hpart hsome hnot).1 v hp hv
    rw [hword]
    exact ⟨hcheck, fun i hi => bits_mergeWord v d en hi⟩

end Sys2Proof.Machine

/-- Settles O35: who gets a slot is said once (`exec_columnSlot_bank`, `exec_columnSlot_copy`), and what each does with it by a lemma of its own. -/
theorem columnsAndRanges : Obligations.ColumnsAndRanges := by
  refine ⟨⟨refresh_owed, fun b s hoff => ?_, fun b s hon hrmw howed hq => ?_, fun b s hnone hq hwq hwants hcopy => ?_⟩, fun b s pg x hmiss hserved => ?_,
    fun b s h rest hon hrmw hq hfree => ?_, fun b s p rest c part hwq haddr hc hpart => ?_,
    fun b s x r off hfree hwq hstream hmiss hroom hmore hscale hr hoff => ?_,
    fun b s e j a c js src dst pairs hon hsaved hq howed hat hjob hc hfmt hpadw hinplace hshare hfree hdecode hjs hsrc hdst hlen hfrom hto hretired hnodup
      heach => ?_,
    fun s j a x hj ha hlast hloc haligned hretired hfree => scrubber_last s j a x hj ha hlast hloc hretired hfree⟩
  · exact ⟨congrArg Host.Outcome.next (if_neg (by simp [hoff])), exec_columnSlot_off hoff⟩
  · rw [exec_columnSlot_bank hon (.inr (.inr (.inl (by omega)))), grantSlot_refresh hrmw howed hq, refresh, howed]
  · cases hon : arraysOn s with
    | false => exact exec_columnSlot_off hon
    | true =>
      rw [exec_columnSlot_bank hon (.inr (.inr (.inr hcopy))), grantSlot_idle (rmwOpen_empty hwq) hq (by omega) hwq hwants hnone]
  · refine ⟨_, exec_translationFill_served hmiss hserved, ?_⟩
    simp only [unitOf_setUnit, if_true]
    exact ⟨trivial, trivial, trivial⟩
  · obtain ⟨m, q, hstate, hrow, hleft, howed⟩ := hostSlot_shows s b.toNat h rest
    refine ⟨hostSlot s b.toNat h rest, ?_, by rw [hstate], by rw [hstate], by rw [hstate], hrow, hleft, howed⟩
    rw [exec_columnSlot_bank hon (.inr (.inl (by simp [hq]))), grantSlot_host hrmw hq hfree]
  · obtain ⟨hread, hcommit⟩ := writeQueue_slots b s p rest c part hwq hc hpart
    refine ⟨hread, fun hon hdone hwhen => ?_⟩
    obtain ⟨t, hexec, hqueue, hother, hwords⟩ := hcommit hon hdone hwhen
    refine ⟨t, hexec, hqueue, hother, fun k hk w en d hw hen hd => ?_⟩
    subst hw hen hd
    exact wordWritten_column (Nat.mod_lt _ (by decide)) (hwords k hk)
  · obtain ⟨hdenied, houtside, hin⟩ := prefetcher_slot b s x r off hfree hwq hstream hmiss hroom hmore hscale hr hoff
    exact ⟨hdenied, houtside, fun hregion hxlat o ho _ => hin hregion hxlat o ho⟩
  · subst hsrc hdst
    exact copy_step b s e j a c js pairs hon hsaved hq howed hat hjob hc hfmt hpadw hshare hfree hdecode hjs hfrom hto hretired hnodup heach

end

section
/-! Proofs of the statements of 03_rings_and_direct_slots.md: tenancies and rings (O44). -/

open Sys2Proof Sys2Proof.Machine Sys2Proof.Safety

namespace Sys2Proof.Machine

/-- A table in which every key of a list has been set to a value of its own. -/
theorem mget_foldl_mset {α : Type} [DecidableEq α] (d : α) (g : Nat → α) (l : List Nat) (m : SMap α) (k : Nat) :
    mget d (l.foldl (fun m j => mset d m j (g j)) m) k = if k ∈ l then g k else mget d m k := by
  induction l generalizing m with
  | nil => rfl
  | cons j l ih =>
    rw [List.foldl_cons, ih, mget_mset]
    by_cases hkl : k ∈ l
    · simp [hkl]
    · by_cases hkj : k = j
      · simp [hkj]
      · simp [hkl, hkj]

/-! Creation (R274). -/

/-- A block's registers with reset values of their own (Table 18.7). -/
theorem barReset_tenReg {t : Nat} (ht : t < 256) : barReset (tenReg t 8) = 100000 ∧ barReset (tenReg t 0x10) = 64 ∧
    barReset (tenReg t 0x18) = 1024 ∧ barReset (tenReg t 0x20) = 0 := by
  have hoff : ∀ o < 0x4000, 0x400000 ≤ tenReg t o ∧ tenReg t o < 0x800000 ∧ tenReg t o % 0x4000 = o := fun o ho => by
    unfold tenReg
    omega
  refine ⟨?_, ?_, ?_, ?_⟩
  · obtain ⟨hlow, hhigh, hmod⟩ := hoff 8 (by decide)
    simp [barReset, hlow, hhigh, hmod]
  · obtain ⟨hlow, hhigh, hmod⟩ := hoff 0x10 (by decide)
    simp [barReset, hlow, hhigh, hmod]
  · obtain ⟨hlow, hhigh, hmod⟩ := hoff 0x18 (by decide)
    simp [barReset, hlow, hhigh, hmod]
  · obtain ⟨hlow, hhigh, hmod⟩ := hoff 0x20 (by decide)
    simp [barReset, hlow, hhigh, hmod]

/-- Registers of a block put back to reset read as at reset. -/
theorem reg_foldl_reset (t : Nat) {o : Nat} (l : List Nat) (s : State) (h : o ∈ l ∨ reg s (tenReg t o) = barReset (tenReg t o)) :
    reg (l.foldl (fun s o => setReg s (tenReg t o) (barReset (tenReg t o))) s) (tenReg t o) = barReset (tenReg t o) := by
  induction l generalizing s with
  | nil => exact h.resolve_left List.not_mem_nil
  | cons i l ih =>
    refine ih _ ?_
    rw [reg_setReg]
    rcases h with h | h
    · rcases List.mem_cons.1 h with rfl | h
      · exact .inr (if_pos rfl)
      · exact .inl h
    · refine .inr ?_
      split
      · next he => rw [he]
      · exact h

/-- No ring of a new tenancy is enabled. -/
theorem disabledRings_off (x : Tenancy) {j : Nat} (hj : j < 6) : (mget Ring.empty (disabledRings x) j).enabled = false := by
  unfold disabledRings
  rw [mget_foldl_mset Ring.empty (fun j => { mget Ring.empty x.rings j with enabled := false }), if_pos (List.mem_range.2 hj)]

/-- What a tenancy starts with. (R274, Table 18.7) -/
theorem createTenancy_shows (s : State) {t : Nat} (ht : t < 256) (mode : Bool) :
    (tenOf (createTenancy s t mode) t).enabled = true ∧ (tenOf (createTenancy s t mode) t).xlat = mode ∧
    (∀ j < 6, (ringOf (createTenancy s t mode) t j).enabled = false) ∧ (tenOf (createTenancy s t mode) t).meters = [] ∧
    (tenOf (createTenancy s t mode) t).energy = 0 ∧ (tenOf (createTenancy s t mode) t).sat = 0 ∧
    reg (createTenancy s t mode) (tenReg t 8) = 100000 ∧ reg (createTenancy s t mode) (tenReg t 0x10) = 64 ∧
    reg (createTenancy s t mode) (tenReg t 0x18) = 1024 ∧ reg (createTenancy s t mode) (tenReg t 0x20) = 0 ∧
    ∀ u, u ≠ t → tenOf (createTenancy s t mode) u = tenOf s u := by
  have hkept : ∀ u, tenOf ([0x08, 0x10, 0x18, 0x20].foldl (fun s o => setReg s (tenReg t o) (barReset (tenReg t o))) s) u = tenOf s u := fun u =>
    foldl_keeps (tenOf · u) (f := fun s o => setReg s (tenReg t o) (barReset (tenReg t o))) (fun _ _ => rfl) _ s
  have hreg : ∀ o ∈ [0x08, 0x10, 0x18, 0x20], reg (createTenancy s t mode) (tenReg t o) = barReset (tenReg t o) := fun o ho => by
    unfold createTenancy reg
    simp only [setTen_frame]
    exact reg_foldl_reset t _ s (.inl ho)
  obtain ⟨h8, h10, h18, h20⟩ := barReset_tenReg ht
  have hother : ∀ u, u ≠ t → tenOf (createTenancy s t mode) u = tenOf s u := fun u hu =>
    (tenOf_setTen ..).trans ((if_neg hu).trans (hkept u))
  refine ⟨?_, ?_, fun j hj => ?_, ?_, ?_, ?_, (hreg _ (by decide)).trans h8, (hreg _ (by decide)).trans h10,
    (hreg _ (by decide)).trans h18, (hreg _ (by decide)).trans h20, hother⟩
  all_goals unfold createTenancy
  case refine_3 =>
    rw [ringOf, tenOf_setTen, if_pos rfl]
    exact disabledRings_off (tenOf s t) hj
  all_goals simp only [tenOf_setTen, if_true, Tenancy.empty]

/-! MODE and removal (R275, R276). -/

/-- A dropped write of a block changes no tenancy and is entered in the log. -/
theorem dropTen_shows (s : State) (t o value : Nat) :
    (dropTen s t o value).tens = s.tens ∧ (dropTen s t o value).log.next = (s.log.next + 1) % 2 ^ 32 := ⟨rfl, rfl⟩

/-- MODE changes while the tenancy owns nothing that depends on it. (R275) -/
theorem writeMode_taken {s : State} {t : Nat} (mode : Bool) (value : Nat) (hgroups : groupsOwned s t = []) (hregions : regionsOwned s t = [])
    (hxlat : ∀ e ∈ xlatAll s, e.ten ≠ t) : writeMode s t mode value = setTen s t { tenOf s t with xlat := mode } := by
  have hnone : (xlatAll s).any (fun e => e.ten == t) = false := by simpa using hxlat
  simp [writeMode, hgroups, hregions, hnone, modTen]

/-- A write of MODE is dropped while the tenancy owns a group, a valid region or a translation entry. (R275) -/
theorem writeMode_dropped {s : State} {t : Nat} (mode : Bool) (value : Nat)
    (h : groupsOwned s t ≠ [] ∨ regionsOwned s t ≠ [] ∨ ∃ e ∈ xlatAll s, e.ten = t) : writeMode s t mode value = dropTen s t 0 value := by
  have hno : ((groupsOwned s t).isEmpty && (regionsOwned s t).isEmpty && !(xlatAll s).any (fun e => e.ten == t)) = false := by
    rcases h with h | h | ⟨e, he, ht⟩
    · simp [h]
    · simp [h]
    · have hany : (xlatAll s).any (fun e => e.ten == t) = true := List.any_eq_true.2 ⟨e, he, by simp [ht]⟩
      simp [hany]
  rw [writeMode, if_neg (by simp [hno])]

/-- TEN_CTRL_MODE writes MODE alone. -/
theorem exec_tenCtrlMode {s : State} (ten : BitVec 8) (mode : Bool) (hlink : s.boot.linkUp = true) :
    exec (.tenCtrlMode ten mode) s = .next (writeMode s ten.toNat mode (b2n (tenOf s ten.toNat).enabled + 2 * b2n mode)) := by
  refine (next_viaHost _ hlink).trans (congrArg _ ?_)
  unfold tenCtrlWrite
  cases (tenOf s ten.toNat).enabled <;> rfl

/-- TEN_CTRL_ENABLE creates a tenancy that does not exist. -/
theorem exec_tenCtrlEnable_creates {s : State} {ten : BitVec 8} (mode : Bool) (hlink : s.boot.linkUp = true)
    (hoff : (tenOf s ten.toNat).enabled = false) : exec (.tenCtrlEnable ten mode) s = .next (createTenancy s ten.toNat mode) := by
  refine (next_viaHost _ hlink).trans (congrArg _ ?_)
  simp [tenCtrlWrite, hoff]

/-- Of one that exists it is a write of MODE. (log entry 88) -/
theorem exec_tenCtrlEnable_mode {s : State} {ten : BitVec 8} (mode : Bool) (hlink : s.boot.linkUp = true)
    (hon : (tenOf s ten.toNat).enabled = true) : exec (.tenCtrlEnable ten mode) s = exec (.tenCtrlMode ten mode) s := by
  refine ((next_viaHost _ hlink).trans (congrArg _ ?_)).trans (exec_tenCtrlMode ten mode hlink).symm
  simp [tenCtrlWrite, hon, b2n]

/-- TEN_CTRL_DISABLE removes a tenancy that may be removed, and is dropped for any other. (R276) -/
theorem exec_tenCtrlDisable {s : State} {ten : BitVec 8} (hlink : s.boot.linkUp = true) (hon : (tenOf s ten.toNat).enabled = true) :
    exec (.tenCtrlDisable ten) s = .next (if mayDisable s ten.toNat then setTen s ten.toNat { tenOf s ten.toNat with enabled := false }
      else dropTen s ten.toNat 0 (2 * b2n (tenOf s ten.toNat).xlat)) := by
  refine (next_viaHost _ hlink).trans (congrArg _ ?_)
  simp [tenCtrlWrite, hon, modTen]

/-! Rings (R48, R448). -/

/-- A ring that is enabled: empty at START, with PHASE 1. (R48, R79) -/
def ringAtStart (s : State) (t j log2 : Nat) : Ring :=
  { enabled := true, log2 := log2, head := ringStart s t j, tail := ringStart s t j, held := false, phase := true }

section
variable {s : State} {t j log2 : Nat} (enable : Bool) (value : Nat) (hj : j < 6)
include hj

/-- A write to a ring that is not idle, or of a size that there is not, is dropped and entered. -/
theorem ringCtrl_dropped (h : ringIdle s t j = false ∨ log2 < 6 ∨ 16 < log2) :
    (ringCtrl s t j log2 enable value).tens = s.tens ∧ (ringCtrl s t j log2 enable value).log.next = (s.log.next + 1) % 2 ^ 32 := by
  unfold ringCtrl
  dsimp only
  rw [if_neg (by omega)]
  cases hidle : ringIdle s t j with
  | false => exact ⟨rfl, rfl⟩
  | true =>
    have hsize : log2 < 6 ∨ 16 < log2 := h.resolve_left (by simp [hidle])
    rw [if_neg (by simp), if_pos hsize]
    exact ⟨rfl, rfl⟩

variable (hidle : ringIdle s t j = true) (hlow : 6 ≤ log2) (hhigh : log2 ≤ 16)
include hidle hlow hhigh

/-- A ring disabled keeps its head and tail. -/
theorem ringCtrl_disables :
    ringCtrl s t j log2 false value = setRing s t j { ringOf s t j with enabled := false, log2 := log2 } := by
  unfold ringCtrl
  dsimp only
  rw [if_neg (by omega), if_neg (by simp [hidle]), if_neg (by omega), if_neg (by simp)]

/-- A ring enabled starts at START. -/
theorem ringCtrl_enables (hoff : (ringOf s t j).enabled = false) :
    ringCtrl s t j log2 true value = ringEnabled (setRing s t j (ringAtStart s t j log2)) t j := by
  unfold ringCtrl
  dsimp only
  rw [if_neg (by omega), if_neg (by simp [hidle]), if_neg (by omega), if_pos ⟨rfl, hoff⟩]
  rfl

end

/-- Held completions that enter an enabled completion ring move neither its head nor its tail, and lose none. (R80, R88) -/
theorem settleAll_enabled {s : State} {t : Nat} {r : Ring} (hring : ringOf s t cq = r) (hon : r.enabled = true)
    (hlost : (tenOf s t).cqLost = false) : ringOf (settleAll s) t cq = r ∧ (tenOf (settleAll s) t).cqLost = false := by
  have hkept := settleAll_rings s t
  rw [ringsOf, ringsOf, Prod.mk.injEq, Prod.mk.injEq, hlost, Bool.and_false] at hkept
  obtain ⟨hrings, -, hkeptLost⟩ := hkept
  have hsettled : ringOf (settleAll s) t cq = r := by rw [ringOf, hrings, ← hring, ringOf]
  rw [hsettled, hon, Bool.true_and] at hkeptLost
  exact ⟨hsettled, hkeptLost⟩

/-- A completion ring that starts, with CQ_LOST clear. -/
theorem ringEnabled_cq (s : State) (t log2 : Nat) :
    ringOf (ringEnabled (setRing s t cq (ringAtStart s t cq log2)) t cq) t cq = ringAtStart s t cq log2 ∧
    (tenOf (ringEnabled (setRing s t cq (ringAtStart s t cq log2)) t cq) t).cqLost = false := by
  rw [ringEnabled, if_pos rfl]
  refine settleAll_enabled ?_ rfl ?_
  · rw [ringOf, tenOf_modTen_self]
    exact (ringOf_setRing s t cq cq _).trans (if_pos rfl)
  · rw [tenOf_modTen_self]

end Sys2Proof.Machine

/-- Settles O44: each write of TEN_CTRL and of a ring's CTRL by what it comes to (`exec_tenCtrlEnable_creates`, `exec_tenCtrlDisable`,
`writeMode_taken`, `ringCtrl_enables`); the held completions that enter an enabled completion ring move none (`ringEnabled_cq`). -/
theorem tenanciesAndRings : Obligations.TenanciesAndRings := by
  refine ⟨fun ten mode s hlink => ⟨fun hoff => ?_, fun hon => ⟨fun hmay => ?_, fun hmay => ?_, exec_tenCtrlEnable_mode mode hlink hon⟩,
    fun hgroups hregions hxlat => ?_, fun howns => ?_⟩, fun ten j log2 s hlink hj => ⟨fun hidle hlow hhigh => ⟨fun hoff => ⟨fun hne => ?_, fun hcq => ?_⟩, ?_⟩,
    fun hbad c hc => ?_⟩⟩
  · exact ⟨_, exec_tenCtrlEnable_creates mode hlink hoff, createTenancy_shows s ten.isLt mode⟩
  · rw [exec_tenCtrlDisable hlink hon, if_pos hmay]
  · rw [exec_tenCtrlDisable hlink hon, if_neg (by simp [hmay])]
    exact ⟨_, rfl, dropTen_shows ..⟩
  · rw [exec_tenCtrlMode ten mode hlink, writeMode_taken mode _ hgroups hregions hxlat]
  · rw [exec_tenCtrlMode ten mode hlink, writeMode_dropped mode _ howns]
    exact ⟨_, rfl, dropTen_shows ..⟩
  · refine (next_viaHost _ hlink).trans (congrArg _ ?_)
    rw [ringCtrl_enables _ hj hidle hlow hhigh hoff, ringEnabled, if_neg (show ¬ j.toNat = cq from hne)]
    rfl
  · refine ⟨_, next_viaHost _ hlink, ?_⟩
    rw [ringCtrl_enables _ hj hidle hlow hhigh hoff, hcq]
    obtain ⟨hring, hlost⟩ := ringEnabled_cq s ten.toNat log2.toNat
    exact ⟨congrArg Ring.enabled hring, hlost, fun _ _ => ⟨congrArg Ring.head hring, congrArg Ring.tail hring⟩⟩
  · exact (next_viaHost _ hlink).trans (congrArg _ (ringCtrl_disables _ hj hidle hlow hhigh))
  · simp only [List.mem_cons, List.not_mem_nil, or_false] at hc
    obtain rfl | rfl := hc
    · exact ⟨_, next_viaHost _ hlink, ringCtrl_dropped true _ hj hbad⟩
    · exact ⟨_, next_viaHost _ hlink, ringCtrl_dropped false _ hj hbad⟩

end

section
/-! Proofs of the statements of 03_rings_and_direct_slots.md: records on their way to host memory (O54). -/

open Sys2Proof Sys2Proof.Machine Sys2Proof.Safety

namespace Sys2Proof.Machine

/-- What is given out is no part of a tenancy. -/
@[simp] theorem tenOf_emit (s : State) (o : Output) (t : Nat) : tenOf (emit s o) t = tenOf s t := rfl

/-- Nor is a record on its way. -/
@[simp] theorem tenOf_writeRecord (s : State) (c : Nat) (r : CRec) (t : Nat) : tenOf (writeRecord s c r) t = tenOf s t := rfl

/-! Interrupts (R90). -/

/-- A change of a tenancy that touches no ring. -/
theorem ringOf_modTen (s : State) (t c j : Nat) {f : Tenancy → Tenancy} (h : (f (tenOf s t)).rings = (tenOf s t).rings) :
    ringOf (modTen s t f) c j = ringOf s c j := congrArg (mget Ring.empty · j) (tenOf_modTen_part s t c (·.rings) h)

/-- A message on a vector touches no ring and no write outstanding. -/
theorem raiseIrq_leaves (s : State) (t vec : Nat) :
    (raiseIrq s t vec).hostWrites = s.hostWrites ∧ ∀ j, ringOf (raiseIrq s t vec) t j = ringOf s t j := by
  unfold raiseIrq sendIrq
  dsimp only
  split
  · exact ⟨rfl, fun j => ringOf_modTen s t t j rfl⟩
  · exact ⟨rfl, fun j => ringOf_modTen s t t j (f := fun x => { x with vecs := mset VecState.empty x.vecs vec { last := some s.elapsed, held := false } }) rfl⟩

/-- Outside the holdoff of its vector a message is sent at once. -/
theorem raiseIrq_sent {s : State} {t vec : Nat} (h : inHoldoff s t (mget VecState.empty (tenOf s t).vecs vec) = false) :
    (raiseIrq s t vec).out = .msix (8 * t + vec) :: s.out := by
  simp [raiseIrq, h, sendIrq, emit]

/-- Within it the message is held. -/
theorem raiseIrq_held {s : State} {t vec : Nat} (h : inHoldoff s t (mget VecState.empty (tenOf s t).vecs vec) = true) :
    (mget VecState.empty (tenOf (raiseIrq s t vec) t).vecs vec).held = true := by
  simp [raiseIrq, h, tenOf_modTen_self]

/-! A record lands (R78, R79, R89). -/

/-- A ring whose tail has passed one entry: PHASE flips as the tail wraps. (R79) -/
def ringPassed (r : Ring) : Ring :=
  { r with tail := r.tail + 1, phase := if r.tail.toNat % 2 ^ r.log2 + 1 = 2 ^ r.log2 then !r.phase else r.phase }

/-- A record's bytes with the PHASE of its ring. -/
def phased (r : Ring) (flagByte : Nat) (bytes : List Byte) : List Byte :=
  bytes.set flagByte (bytes.getD flagByte 0 ||| (if r.phase then 1 else 0))

/-- The state in which a record is in its ring and its interrupt not yet raised. -/
def recordPlaced (s : State) (t j size flagByte : Nat) (bytes : List Byte) : State :=
  setRing (emit s (.hostWrite (ringBase s t j + ((ringOf s t j).tail.toNat % 2 ^ (ringOf s t j).log2) * size) (phased (ringOf s t j) flagByte bytes) []))
    t j (ringPassed (ringOf s t j))

/-- A record without an interrupt is in its ring, and that is all. -/
theorem landRecord_silent (s : State) (t j size flagByte : Nat) (bytes : List Byte) :
    landRecord s t j size flagByte bytes none = recordPlaced s t j size flagByte bytes := by
  simp [landRecord, recordPlaced, phased, ringPassed]

/-- A record with an interrupt raises it once it is in its ring. (R89) -/
theorem landRecord_raises (s : State) (t j size flagByte : Nat) (bytes : List Byte) (vec : Nat) :
    landRecord s t j size flagByte bytes (some vec) = raiseIrq (recordPlaced s t j size flagByte bytes) t vec := by
  simp [landRecord, recordPlaced, phased, ringPassed]

/-- Of its tenancy a record that lands changes its ring alone. -/
theorem recordPlaced_shows (s : State) (t j size flagByte : Nat) (bytes : List Byte) :
    ringOf (recordPlaced s t j size flagByte bytes) t j = ringPassed (ringOf s t j) ∧
    (tenOf (recordPlaced s t j size flagByte bytes) t).vecs = (tenOf s t).vecs := by
  refine ⟨(ringOf_setRing ..).trans (if_pos rfl), ?_⟩
  unfold recordPlaced setRing
  rw [tenOf_modTen_self]
  rfl

/-- Whatever its interrupt, a record that lands moves its ring on by one entry and issues no write. -/
theorem landRecord_lands (s : State) (t j size flagByte : Nat) (bytes : List Byte) (irq : Option Nat) :
    (landRecord s t j size flagByte bytes irq).hostWrites = s.hostWrites ∧
    ringOf (landRecord s t j size flagByte bytes irq) t j = ringPassed (ringOf s t j) := by
  obtain ⟨hring, -⟩ := recordPlaced_shows s t j size flagByte bytes
  cases irq with
  | none =>
    rw [landRecord_silent]
    exact ⟨rfl, hring⟩
  | some vec =>
    obtain ⟨hwrites, hrings⟩ := raiseIrq_leaves (recordPlaced s t j size flagByte bytes) t vec
    rw [landRecord_raises]
    exact ⟨hwrites, (hrings j).trans hring⟩

/-- The interrupt of a record that lands is sent, or held within the holdoff of its vector. (R90) -/
theorem landRecord_interrupts (s : State) (t j size flagByte : Nat) (bytes : List Byte) (vec : Nat) :
    (inHoldoff s t (mget VecState.empty (tenOf s t).vecs vec) = false →
      ∃ o, (landRecord s t j size flagByte bytes (some vec)).out = .msix (8 * t + vec) :: o :: s.out) ∧
    (inHoldoff s t (mget VecState.empty (tenOf s t).vecs vec) = true →
      (mget VecState.empty (tenOf (landRecord s t j size flagByte bytes (some vec)) t).vecs vec).held = true) := by
  obtain ⟨-, hvecs⟩ := recordPlaced_shows s t j size flagByte bytes
  have hholdoff : inHoldoff (recordPlaced s t j size flagByte bytes) t
      (mget VecState.empty (tenOf (recordPlaced s t j size flagByte bytes) t).vecs vec) =
      inHoldoff s t (mget VecState.empty (tenOf s t).vecs vec) := by
    rw [hvecs]
    rfl
  rw [landRecord_raises]
  exact ⟨fun h => ⟨_, raiseIrq_sent (hholdoff.trans h)⟩, fun h => raiseIrq_held (hholdoff.trans h)⟩

/-! A write becomes observable, or has failed (R78, R86, R87). -/

section
variable {s : State} {w : HostWrite} (hw : s.hostWrites.find? (fun v => v.id == w.id) = some w)
include hw

/-- CACHE_WRITE_FAIL fails the write. -/
theorem exec_cacheWriteFail : exec (.cacheWriteFail w.id) s = .next (failWrite s w) := by
  show execCacheWriteFail w.id s = _
  rw [execCacheWriteFail, hw]

/-- A write that is later than 10 ms has failed. (R87, log entry 68) -/
theorem exec_recordObservable_late (h : s.elapsed > w.at_ + 10 * Config.ms) : exec (.recordObservable w.id) s = .next (failWrite s w) := by
  show execRecordObservable w.id s = _
  rw [execRecordObservable, hw]
  exact congrArg _ (if_pos h)

/-- Any other is observed in its turn. -/
theorem exec_recordObservable_inOrder (hin : s.elapsed ≤ w.at_ + 10 * Config.ms) (horder : inOrder s w = true) :
    exec (.recordObservable w.id) s = .next (observe s w) := by
  show execRecordObservable w.id s = _
  rw [execRecordObservable, hw]
  exact congrArg _ ((if_neg (Nat.not_lt.2 hin)).trans (if_pos horder))

end

/-- A completion record observed lands in its ring. (R78) -/
theorem observe_completion {s : State} {w : HostWrite} {irq : Option Nat} (hkind : w.kind = .completion irq)
    (hon : (ringOf s w.ten cq).enabled = true) : observe s w = landRecord (dropHostWrite s w.id) w.ten cq 16 3 w.bytes irq := by
  have hon' : (ringOf (dropHostWrite s w.id) w.ten cq).enabled = true := hon
  simp [observe, hkind, hon']

/-- One whose ring is disabled meanwhile is lost. (R86, log entry 68) -/
theorem observe_completion_lost {s : State} {w : HostWrite} {irq : Option Nat} (hkind : w.kind = .completion irq)
    (hoff : (ringOf s w.ten cq).enabled = false) :
    observe s w = modTen (dropHostWrite s w.id) w.ten (fun x => { x with cqLost := true }) := by
  have hoff' : (ringOf (dropHostWrite s w.id) w.ten cq).enabled = false := hoff
  simp [observe, hkind, hoff']

/-- A violation is noted on the meters and in the log alone. -/
theorem violateTag_eq (s : State) (t : Nat) (tag : Option (BitVec 16)) (num ident size off expected value : Nat) :
    ∃ q l, violateTag s t tag num ident size off expected value = { s with meterQ := q, log := l } := by
  unfold violateTag
  dsimp only
  split <;> exact ⟨_, _, rfl⟩

/-- What a failed write does beyond its entry in the log, by what it carries. -/
theorem failWrite_eq (s : State) (w : HostWrite) : ∃ q l, ∀ u, u = { dropHostWrite s w.id with meterQ := q, log := l } →
    (∀ irq, w.kind = .completion irq → failWrite s w = modTen u w.ten (fun x => { x with cqLost := true })) ∧
    (∀ irq, w.kind = .event irq → failWrite s w = loseEvent u w) ∧
    (∀ e i, w.kind = .window e i → failWrite s w = failWindow u e i) := by
  obtain ⟨q, l, h⟩ := violateTag_eq (dropHostWrite s w.id) w.ten (writeTag s w) 0x0F w.kind.ident w.bytes.length 0 0 (leNat (w.bytes.take 8))
  refine ⟨q, l, fun u hu => ⟨fun irq hkind => ?_, fun irq hkind => ?_, fun e i hkind => ?_⟩⟩
  all_goals
    rw [← h] at hu
    simp [failWrite, hkind, hu]

/-- An event record that never reaches its ring sets EQ_OVERFLOW. (R85) -/
theorem loseEvent_shows (s : State) (w : HostWrite) :
    (tenOf (loseEvent s w) w.ten).eqOverflow = true ∧ (loseEvent s w).hostWrites = s.hostWrites := by
  have hlost : (tenOf (modTen s w.ten (fun x => { x with eqOverflow := true })) w.ten).eqOverflow = true := by rw [tenOf_modTen_self]
  unfold loseEvent
  dsimp only
  split
  · exact ⟨hlost, rfl⟩
  · exact ⟨hlost, rfl⟩

/-! A failed write to a press's host window (R87). -/

/-- A press's number as a BitVec and back. -/
theorem eng_toNat (e : BitVec 4) : eng e.toNat = e := by simp [eng]

/-- A fault ends a running task with its status. -/
theorem faultTask_ended {s : State} {x : CoreId} {k : Task} {st : Status} {reason info chan : Nat} (htask : (procOf s x).task = some k)
    (hended : (procOf s x).ended = none) : (procOf (faultTask s x st reason info chan) x).ended.map (·.status) = some st := by
  simp [faultTask, htask, hended, stopTask, endingOf]

/-- A window's write that is over is one write fewer that its press waits for. -/
theorem procOf_windowOver (s : State) (e : BitVec 4) (i : Nat) : procOf (windowOver s e.toNat i) (.press e) = procOf s (.press e) := by
  unfold windowOver
  split
  · split
    · simp [procOf, modPress]
    · rfl
  · rfl

/-- The task that made a window's write that failed ends with FETCH_POISON, whether it runs or has come to its PHALT. -/
theorem failWindow_ends {s : State} {e : BitVec 4} {k : Task} (htask : (procOf s (.press e)).task = some k)
    (hended : (procOf s (.press e)).ended = none ∨ ∃ d, (procOf s (.press e)).ended = some d ∧ d.status = .ok) :
    (procOf (failWindow s e.toNat k.id) (.press e)).ended.map (·.status) = some .fetchPoison := by
  have hkept := procOf_windowOver s e k.id
  have htask' : (procOf (windowOver s e.toNat k.id) (.press e)).task = some k := by rw [hkept, htask]
  have hproc : ∀ u, (pressOf u e.toNat).proc = procOf u (.press e) := fun _ => rfl
  unfold failWindow
  simp only [hproc, hkept, htask, eng_toNat]
  rcases hended with hended | ⟨d, hended, hok⟩
  · simp only [hended, if_true]
    exact faultTask_ended htask' (by rw [hkept, hended])
  · simp only [hended, hok, and_self, if_true]
    simp [procOf, modPress, endingOf]

/-! Staged records (R80). -/

/-- Where no executor holds a completion there is none to settle. -/
theorem settleAll_of_none {s : State} (h : ∀ u, (tenOf s u).held = []) : settleAll s = s := by
  have hzero : ((existing s).map (fun t => (tenOf s t).held.length)).sum = 0 := by simp [h]
  rw [settleAll, hzero, settleHeld]

/-- With room in its ring the oldest staged record leaves for it. -/
theorem drainStaged_leaves {s : State} {t : Nat} {r : CRec} {rest : List CRec} (hstaging : (tenOf s t).staging = r :: rest)
    (hroom : 0 < cqFree s t) (hheld : ∀ u, (tenOf s u).held = []) :
    drainStaged s t = writeRecord (modTen s t (fun x => { x with staging := rest })) t r := by
  have hnone : ∀ u, (tenOf (writeRecord (modTen s t (fun x => { x with staging := rest })) t r) u).held = [] := fun u =>
    (tenOf_modTen_part s t u (·.held) (f := fun x => { x with staging := rest }) rfl).trans (hheld u)
  simp only [drainStaged, hstaging, hroom, if_true]
  exact settleAll_of_none hnone

/-- Without room it stays. -/
theorem drainStaged_stays {s : State} {t : Nat} {r : CRec} {rest : List CRec} (hstaging : (tenOf s t).staging = r :: rest)
    (hfull : cqFree s t = 0) : drainStaged s t = s := by
  simp [drainStaged, hstaging, hfull]

/-! The end of a holdoff (R90). -/

/-- The message held on a vector is sent when its holdoff ends. -/
theorem exec_irqHoldoffExpiry {ten : BitVec 8} {vec : BitVec 3} {s : State} {l : Nat}
    (hheld : (mget VecState.empty (tenOf s ten.toNat).vecs vec.toNat).held = true)
    (hlast : (mget VecState.empty (tenOf s ten.toNat).vecs vec.toNat).last = some l) : exec (.irqHoldoffExpiry ten vec) s =
      .next (sendIrq (advanceTo s (l + (irqHoldoff s ten.toNat * 8 + 4) / 5)) ten.toNat vec.toNat) := by
  show execIrqHoldoffExpiry ten vec s = _
  simp [execIrqHoldoffExpiry, hheld, hlast]

/-- A message sent starts a new holdoff on its vector. -/
theorem sendIrq_shows (s : State) (t vec : Nat) : (sendIrq s t vec).out = .msix (8 * t + vec) :: s.out ∧
    mget VecState.empty (tenOf (sendIrq s t vec) t).vecs vec = { last := some s.elapsed, held := false } ∧ (sendIrq s t vec).elapsed = s.elapsed := by
  refine ⟨rfl, ?_, rfl⟩
  rw [sendIrq, tenOf_emit, tenOf_modTen_self, mget_mset_self]

end Sys2Proof.Machine

/-- Settles O54: a record observed lands in its ring and raises its interrupt (`landRecord_lands`, `landRecord_interrupts`), or is lost; a
write that fails is noted and then acts by what it carries (`failWrite_eq`). -/
theorem recordsReachHost : Obligations.RecordsReachHost := by
  refine ⟨fun s w irq r hw hkind horder hin hr => ⟨fun hon => ?_, fun hoff => ?_⟩, fun s w irq hw => ?_,
    fun ten s r rest hstaging => ⟨fun hroom hheld => ?_, fun hfull => ?_⟩, fun ten vec s l hheld hlast => ?_⟩
  · subst hr
    refine ⟨_, exec_recordObservable_inOrder hw hin horder, ?_⟩
    rw [observe_completion hkind hon]
    obtain ⟨hwrites, hring⟩ := landRecord_lands (dropHostWrite s w.id) w.ten cq 16 3 w.bytes irq
    refine ⟨hwrites, hring, fun hirq => ?_, fun v hirq => ?_, fun v hirq => ?_⟩
    · rw [hirq, landRecord_silent]
      rfl
    · rw [hirq]
      exact (landRecord_interrupts (dropHostWrite s w.id) w.ten cq 16 3 w.bytes v).1
    · rw [hirq]
      exact (landRecord_interrupts (dropHostWrite s w.id) w.ten cq 16 3 w.bytes v).2
  · subst hr
    refine ⟨_, exec_recordObservable_inOrder hw hin horder, ?_⟩
    rw [observe_completion_lost hkind hoff, tenOf_modTen_self]
    exact ⟨rfl, rfl⟩
  · obtain ⟨q, l, heq⟩ := failWrite_eq s w
    obtain ⟨hcompletion, hevent, hwindow⟩ := heq _ rfl
    refine ⟨fun hkind => ?_, fun hkind => ?_, fun hlate => ?_, fun e k hkind htask hended => ?_⟩
    · refine ⟨_, exec_cacheWriteFail hw, ?_⟩
      rw [hcompletion irq hkind, tenOf_modTen_self]
      exact ⟨rfl, rfl⟩
    · refine ⟨_, exec_cacheWriteFail hw, ?_⟩
      rw [hevent irq hkind]
      exact loseEvent_shows _ w
    · rw [exec_recordObservable_late hw hlate, exec_cacheWriteFail hw]
    · refine ⟨_, exec_cacheWriteFail hw, ?_⟩
      rw [hwindow e.toNat k.id hkind]
      exact failWindow_ends htask hended
  · refine ⟨_, _, congrArg Host.Outcome.next (drainStaged_leaves hstaging hroom hheld), ?_, rfl, rfl, rfl⟩
    rw [tenOf_writeRecord, tenOf_modTen_self]
  · exact congrArg Host.Outcome.next (drainStaged_stays hstaging hfull)
  · refine ⟨_, exec_irqHoldoffExpiry hheld hlast, ?_⟩
    obtain ⟨hout, hvec, helapsed⟩ := sendIrq_shows (advanceTo s (l + (irqHoldoff s ten.toNat * 8 + 4) / 5)) ten.toNat vec.toNat
    rw [hvec, hout, helapsed]
    exact ⟨by simp, rfl, rfl⟩

end

section
/-! What records that fall due, and the end of a descriptor's last part, change and what they leave. -/

open Sys2Proof Sys2Proof.Machine Sys2Proof.Safety

namespace Sys2Proof.Machine

/-! Records that fall due (R78, R80, R84). -/

/-- From s to t records have at most fallen due: writes are issued behind those outstanding, and beyond the tenancies' rings, the numbers
given out, the log and the meters nothing changes. -/
def recordsDue (s t : State) : Prop := ∃ T H n l q,
  t = { s with tens := T, hostWrites := s.hostWrites ++ H, nextId := n, log := l, meterQ := q }

theorem recordsDue_refl (s : State) : recordsDue s s := ⟨s.tens, [], s.nextId, s.log, s.meterQ, by rw [List.append_nil]⟩

theorem recordsDue_trans {s t u : State} (h : recordsDue s t) (h' : recordsDue t u) : recordsDue s u := by
  obtain ⟨T, H, n, l, q, rfl⟩ := h
  obtain ⟨T', H', n', l', q', rfl⟩ := h'
  exact ⟨T', H ++ H', n', l', q', by rw [List.append_assoc]⟩

/-- No write is issued. -/
theorem recordsDue_still (s : State) (T : SMap Tenancy) (l : CellarLog) (q : List MeterEv) :
    recordsDue s { s with tens := T, log := l, meterQ := q } := ⟨T, [], s.nextId, l, q, by rw [List.append_nil]⟩

theorem recordsDue_modTen (s : State) (t : Nat) (f : Tenancy → Tenancy) : recordsDue s (modTen s t f) := recordsDue_still s _ s.log s.meterQ

theorem recordsDue_setHeld (s : State) (t : Nat) (l : List CRec) : recordsDue s (setHeld s t l) := recordsDue_modTen ..

theorem recordsDue_meter (s : State) (t m n p : Nat) : recordsDue s (meter s t m n p) := recordsDue_still s s.tens s.log _

theorem recordsDue_logAddAt (s : State) (time level source cls num : Nat) (tag : Option (BitVec 16)) (ten : Option Nat) (detail : List Byte) :
    recordsDue s (logAddAt s time level source cls num tag ten detail) := recordsDue_still s s.tens _ s.meterQ

theorem recordsDue_hostWriteIssue (s : State) (t : Nat) (kind : HwKind) (addr : Nat) (bytes : List Byte) (poison : List Bool) :
    recordsDue s (hostWriteIssue s t kind addr bytes poison) := ⟨s.tens, _, _, s.log, s.meterQ, rfl⟩

theorem recordsDue_loseRecord (s : State) (t : Nat) (r : CRec) : recordsDue s (loseRecord s t r) := by
  unfold loseRecord
  extract_lets x due u
  have hu : recordsDue s u := recordsDue_still s _ s.log _
  split
  · exact recordsDue_trans hu (recordsDue_logAddAt ..)
  · exact hu

theorem recordsDue_postRecord (s : State) (t : Nat) (r : CRec) : recordsDue s (postRecord s t r) := by
  unfold postRecord
  split
  · exact recordsDue_loseRecord s t r
  · split
    · exact recordsDue_hostWriteIssue ..
    · split <;> exact recordsDue_modTen ..

theorem recordsDue_settleOne (s : State) (t : Nat) : recordsDue s (settleOne s t) := by
  unfold settleOne
  split
  · exact recordsDue_trans (recordsDue_trans (recordsDue_setHeld s t []) (recordsDue_postRecord ..)) (recordsDue_setHeld ..)
  · exact recordsDue_refl s

theorem recordsDue_settleHeld (n : Nat) (s : State) : recordsDue s (settleHeld n s) := by
  induction n generalizing s with
  | zero => exact recordsDue_refl s
  | succ n ih =>
    unfold settleHeld
    split
    · exact recordsDue_trans (recordsDue_settleOne s _) (ih _)
    · exact recordsDue_refl s

theorem recordsDue_settleAll (s : State) : recordsDue s (settleAll s) := recordsDue_settleHeld ..

theorem recordsDue_postEventAt (s : State) (time t type : Nat) (tag : BitVec 16) (code : Nat) (payload : List Byte) (irq : Option Nat) :
    recordsDue s (postEventAt s time t type tag code payload irq) := by
  unfold postEventAt
  extract_lets u
  have hu : recordsDue s u := recordsDue_modTen ..
  split
  · exact recordsDue_hostWriteIssue ..
  · split
    · exact hu
    · exact recordsDue_trans hu (recordsDue_logAddAt ..)

theorem recordsDue_logEndAt (s : State) (time t : Nat) (tag : BitVec 16) (st : Status) (acceptance : Bool) (payload : List Byte) :
    recordsDue s (logEndAt s time t tag st acceptance payload) := by
  unfold logEndAt
  split
  · exact recordsDue_refl s
  · exact recordsDue_logAddAt ..

theorem recordsDue_reportEndAt (s : State) (time t : Nat) (tag : BitVec 16) (st : Status) (payload : List Byte) (fault : Bool) :
    recordsDue s (reportEndAt s time t tag st payload fault) := by
  unfold reportEndAt
  refine recordsDue_trans ?_ (recordsDue_logEndAt ..)
  split
  · exact recordsDue_trans (recordsDue_postEventAt ..) (recordsDue_meter ..)
  · exact recordsDue_refl s

/-! Flags that are set, and whom that wakes (R57, R246, R247). -/

/-- What the host sees of a unit's work: its state, its history, its task and the end of that. -/
def unitEnds (s : State) (b : Nat) : UnitState × List TaskRec × Option Task × Option Ending :=
  ((unitOf s b).st, (unitOf s b).history, (unitOf s b).proc.task, (unitOf s b).proc.ended)

/-- A press's task and its end. -/
def pressEnds (s : State) (e : Nat) : Option Task × Option Ending := ((pressOf s e).proc.task, (pressOf s e).proc.ended)

/-- From s to t no work of an executor has begun or ended, no time has passed, and no wait has been added at a flag's home. -/
structure Undisturbed (s t : State) : Prop where
  time : t.time = s.time
  decants : t.decants = s.decants
  sends : t.net.sends = s.net.sends
  unit : ∀ b, unitEnds t b = unitEnds s b
  press : ∀ e, pressEnds t e = pressEnds s e
  watches : ∀ w ∈ t.sync.watches, w ∈ s.sync.watches

namespace Undisturbed

theorem refl (s : State) : Undisturbed s s := ⟨rfl, rfl, rfl, fun _ => rfl, fun _ => rfl, fun _ h => h⟩

theorem trans {s t u : State} (h : Undisturbed s t) (h' : Undisturbed t u) : Undisturbed s u where
  time := h'.time.trans h.time
  decants := h'.decants.trans h.decants
  sends := h'.sends.trans h.sends
  unit b := (h'.unit b).trans (h.unit b)
  press e := (h'.press e).trans (h.press e)
  watches w hw := h.watches w (h'.watches w hw)

theorem foldl {α : Type} {f : State → α → State} (h : ∀ s a, Undisturbed s (f s a)) (l : List α) (s : State) : Undisturbed s (l.foldl f s) :=
  List.foldlRecOn (motive := fun u => Undisturbed s u) l f (refl s) fun u hu a _ => hu.trans (h u a)

/-- The parts of the state that no work lies in. -/
theorem still (s : State) (o : List Output) (n : Nat) (p : Pwr) (l : CellarLog) (tr : Trace) (T : SMap Tenancy) (a : List Active)
    (H : List HostWrite) (q : List MeterEv) : Undisturbed s { s with
      out := o, nextId := n, pwr := p, log := l, trace := tr, tens := T, active := a, hostWrites := H, meterQ := q } :=
  ⟨rfl, rfl, rfl, fun _ => rfl, fun _ => rfl, fun _ h => h⟩

theorem records {s t : State} (h : recordsDue s t) : Undisturbed s t := by
  obtain ⟨T, H, n, l, q, rfl⟩ := h
  exact still ..

theorem traceEv (s : State) (e tn sr : Nat) (tag : BitVec 16) (d st : Nat) : Undisturbed s (traceEv s e tn sr tag d st) := by
  obtain ⟨x, h⟩ := traceEv_eq s e tn sr tag d st
  rw [h]
  exact still ..

/-- An update of a core's processor part that leaves its task and the end of that. -/
theorem modProc (s : State) (x : CoreId) {f : Proc → Proc} (h : ∀ p, (f p).task = p.task ∧ (f p).ended = p.ended) :
    Undisturbed s (modProc s x f) := by
  cases x with
  | unit b =>
    refine ⟨rfl, rfl, rfl, fun c => ?_, fun _ => rfl, fun _ h => h⟩
    have hunit : unitOf (Machine.modProc s (.unit b) f) c =
        if c = b.toNat then { unitOf s b.toNat with proc := f (unitOf s b.toNat).proc } else unitOf s c := unitOf_setUnit ..
    rw [unitEnds, hunit]
    split
    · next hc => rw [hc, (h _).1, (h _).2]; rfl
    · rfl
  | press e =>
    refine ⟨rfl, rfl, rfl, fun _ => rfl, fun c => ?_, fun _ h => h⟩
    have hpress : pressOf (Machine.modProc s (.press e) f) c =
        if c = e.toNat then { pressOf s e.toNat with proc := f (pressOf s e.toNat).proc } else pressOf s c := pressOf_setPress ..
    rw [pressEnds, hpress]
    split
    · next hc => rw [hc, (h _).1, (h _).2]; rfl
    · rfl

/-- Frames on their way. -/
theorem peers (s : State) (p : SMap Peer) : Undisturbed s { s with net := { s.net with peers := p } } :=
  ⟨rfl, rfl, rfl, fun _ => rfl, fun _ => rfl, fun _ h => h⟩

theorem modPeer (s : State) (m : Nat) (f : Peer → Peer) : Undisturbed s (modPeer s m f) := peers ..

theorem putFrame (s : State) (m : Nat) (f : TxFrame) : Undisturbed s (putFrame s m f) := by
  have hport : Undisturbed s (settlePort s m) := by
    unfold settlePort
    dsimp only
    split
    · exact modPeer ..
    · exact refl s
  unfold Machine.putFrame
  extract_lets s1 p port g s2
  have hs2 : Undisturbed s s2 := hport.trans (peers ..)
  split
  · exact hs2.trans ((traceEv ..).trans (still ..))
  · exact hs2

theorem transmit (s : State) (f : TxFrame) : Undisturbed s (transmit s f) := by
  unfold Machine.transmit
  extract_lets p g fresh s1 s2 data s3
  have hs1 : Undisturbed s s1 := peers ..
  have hs2 : Undisturbed s s2 := by
    refine hs1.trans ?_
    unfold s2
    split
    · exact modPeer ..
    · exact refl _
  refine (hs2.trans ?_).trans (putFrame ..)
  unfold s3
  split
  · exact refl _
  · exact records (recordsDue_meter ..)

theorem pump (fuel : Nat) (s : State) (m : Nat) : Undisturbed s (pump fuel s m) := by
  induction fuel generalizing s with
  | zero => exact refl s
  | succ n ih =>
    unfold Machine.pump
    dsimp only
    split
    · exact refl s
    · split
      · exact ((peers ..).trans (transmit ..)).trans (ih _)
      · exact refl s

theorem sendSeq (s : State) (f : TxFrame) : Undisturbed s (sendSeq s f) := (modPeer ..).trans (pump ..)

theorem sendFlag (s : State) (m ten : Nat) (tag : BitVec 16) (flag op : Nat) (value : Bool) (waiter : Nat) :
    Undisturbed s (sendFlag s m ten tag flag op value waiter) := sendSeq ..

/-- The parts of the sync unit but the waits. -/
theorem syncStill (s : State) (fl : SMap Bool) (la : SMap LastOp) (ki : SMap (Option Kite)) (ms : List FlagMsg) :
    Undisturbed s { s with sync := { s.sync with flags := fl, last := la, kites := ki, msgs := ms } } :=
  ⟨rfl, rfl, rfl, fun _ => rfl, fun _ => rfl, fun _ h => h⟩

/-- Waits that end. -/
theorem fewerWatches (s : State) {l : List Watch} (h : ∀ w ∈ l, w ∈ s.sync.watches) :
    Undisturbed s { s with sync := { s.sync with watches := l } } := ⟨rfl, rfl, rfl, fun _ => rfl, fun _ => rfl, h⟩

theorem putFlag (s : State) (f : Nat) (v : Bool) : Undisturbed s (putFlag s f v) := syncStill ..

theorem noteChange (s : State) (f : Nat) (who : Who) (tag : BitVec 16) (ten op : Nat) : Undisturbed s (noteChange s f who tag ten op) :=
  (syncStill s _ _ _ _).trans (traceEv ..)

theorem ballastAsk (s : State) (a : Admit) : Undisturbed s (ballastAsk s a) := still ..

theorem wakeCore (s : State) (x : CoreId) : Undisturbed s (wakeCore s x) := by
  unfold Machine.wakeCore
  cases x with
  | unit b =>
    dsimp only
    split
    · split
      · exact refl s
      · refine trans ?_ (ballastAsk ..)
        exact modProc s _ fun _ => ⟨rfl, rfl⟩
    · exact refl s
  | press e => exact modProc s _ fun p => by split <;> exact ⟨rfl, rfl⟩

theorem releaseWatch (s : State) (w : Watch) : Undisturbed s (releaseWatch s w) := by
  unfold Machine.releaseWatch
  extract_lets kx u
  have hu : Undisturbed s u := by
    unfold u
    split
    · exact (traceEv ..).trans (syncStill ..)
    · exact refl s
  clear_value u kx
  split
  · exact hu
  · exact hu.trans (wakeCore ..)
  · exact hu.trans (still ..)
  · split
    · exact hu.trans (records (recordsDue_postEventAt ..))
    · exact hu
  · exact hu.trans (sendFlag ..)

theorem releaseAll (s : State) (ws : List Watch) : Undisturbed s (releaseAll s ws) := foldl releaseWatch ws s

end Undisturbed

/-- What is left of a list once its first hit is taken. -/
theorem mem_of_takeFirst {α : Type} (p : α → Bool) (l : List α) {x : α} (h : x ∈ (takeFirst p l).2) : x ∈ l := by
  induction l with
  | nil => exact h
  | cons y t ih =>
    unfold takeFirst at h
    split at h
    · exact List.mem_cons_of_mem _ h
    · rcases List.mem_cons.1 h with rfl | h
      · exact List.mem_cons_self
      · exact List.mem_cons_of_mem _ (ih h)

namespace Undisturbed

theorem homeSet (s : State) (f : Nat) (who : Who) (tag : BitVec 16) (ten : Nat) : Undisturbed s (homeSet s f who tag ten) := by
  unfold Machine.homeSet
  split
  · exact refl s
  · extract_lets s1 plain rest y s2
    have hs1 : Undisturbed s s1 := (putFlag s f _).trans (noteChange ..)
    have hs2 : Undisturbed s s2 := (hs1.trans (fewerWatches s1 fun _ h => (List.mem_filter.1 h).1)).trans (releaseAll ..)
    split
    · exact hs2
    · next w rest' htake =>
      refine (((hs2.trans (putFlag s2 f false)).trans (fewerWatches _ fun v hv => ?_)).trans (noteChange ..)).trans (releaseWatch ..)
      exact mem_of_takeFirst (fun w => w.flag == f && !w.onClear && w.clr) s2.sync.watches (by rw [htake]; exact hv)

theorem homeClear (s : State) (f : Nat) (who : Who) (tag : BitVec 16) (ten op : Nat) : Undisturbed s (homeClear s f who tag ten op) := by
  unfold Machine.homeClear
  split
  · extract_lets s1 hit rest
    have hs1 : Undisturbed s s1 := (putFlag s f _).trans (noteChange ..)
    exact (hs1.trans (fewerWatches s1 fun _ h => (List.mem_filter.1 h).1)).trans (releaseAll ..)
  · exact refl s

theorem replyTo (s : State) (r : Reply) (v : Bool) : Undisturbed s (replyTo s r v) := by
  unfold Machine.replyTo
  split
  · exact refl s
  · exact refl s
  · exact still ..
  · refine modProc s _ fun p => ?_
    split
    · split
      · unfold pnext rset
        split <;> exact ⟨rfl, rfl⟩
      · exact ⟨rfl, rfl⟩
    · exact ⟨rfl, rfl⟩

theorem applyMsg (s : State) (m : FlagMsg) : Undisturbed s (applyMsg s m) := by
  unfold Machine.applyMsg
  refine trans ?_ (replyTo ..)
  split
  · exact homeSet ..
  · exact homeClear ..
  · exact homeClear ..
  · exact refl s

theorem flushOwn (fuel : Nat) (s : State) (who : Who) (home : Nat) : Undisturbed s (flushOwn fuel s who home) := by
  induction fuel generalizing s with
  | zero => exact refl s
  | succ n ih =>
    unfold Machine.flushOwn
    split
    · exact ((syncStill s _ _ _ _).trans (applyMsg ..)).trans (ih _)
    · exact refl s

/-- SIGNAL_FLAG set at the end of work. (R57) -/
theorem signalFlag (s : State) (f ten : Nat) (tag : BitVec 16) (who : Who) : Undisturbed s (signalFlag s f ten tag who) := by
  unfold Machine.signalFlag
  split
  · split
    · exact sendFlag ..
    · exact still ..
  · exact (flushOwn ..).trans (homeSet ..)

theorem measureLoad (s : State) (a : Active) : Undisturbed s (measureLoad s a) := by
  unfold Machine.measureLoad
  split
  · exact refl s
  · exact records (recordsDue_modTen ..)

end Undisturbed

end Sys2Proof.Machine

end

section
/-! The end of a descriptor: what it reports and what it leaves (R50, R55, R57, R59, R64). -/

open Sys2Proof Sys2Proof.Machine Sys2Proof.Safety

namespace Sys2Proof.Machine

/-- The state in which a descriptor's record falls due: its flag is set, its trace event is out, and it is no longer held. (R50, R55, R57) -/
def closedDesc (s : State) (a : Active) (x : Executor) (st : Status) : State :=
  let due := st == .ok || dFlag a.raw 2
  let sig := due && (match dSignal a.raw with | some f => ownsFlag s a.ten f | none => false)
  let s := if dOp a.raw = 3 || dOp a.raw = 6 then measureLoad s a else s
  let s := match dSignal a.raw with
    | some f =>
      if sig then signalFlag s f a.ten (dTag a.raw) (execWho x a.src)
      else if due then logUnowned s (execSrc x) (some (dTag a.raw)) a.ten f
      else s
    | none => s
  traceEv { s with active := s.active.filter (fun e => e.id != a.id) } 0x04 a.ten (execSrc x) (dTag a.raw) st.code st.code

/-- Whether the record of a descriptor that ends says that its flag was set. (R55, R57) -/
def closedSignalled (s : State) (a : Active) (st : Status) : Bool :=
  (st == .ok || dFlag a.raw 2) && (match dSignal a.raw with | some f => ownsFlag s a.ten f | none => false)

theorem finishDesc_eq (s : State) (a : Active) (x : Executor) (st : Status) (detail : Nat) :
    finishDesc s a x st detail = if st = .ok && dFlag a.raw 1 then settleAll (closedDesc s a x st)
      else postRecord (closedDesc s a x st) a.ten (formRecord (closedDesc s a x st) a.src a.raw st (closedSignalled s a st) detail) := rfl

/-- After a descriptor is closed only records fall due. -/
theorem recordsDue_finishDesc (s : State) (a : Active) (x : Executor) (st : Status) (detail : Nat) :
    recordsDue (closedDesc s a x st) (finishDesc s a x st detail) := by
  rw [finishDesc_eq]
  split
  · exact recordsDue_settleAll ..
  · exact recordsDue_postRecord ..

theorem active_of_recordsDue {s t : State} (h : recordsDue s t) : t.active = s.active := by
  obtain ⟨T, H, n, l, q, rfl⟩ := h
  rfl

/-- A descriptor that has ended is not held any more. -/
theorem activeOf_finishDesc (s : State) (a : Active) (x : Executor) (st : Status) (detail : Nat) :
    activeOf (finishDesc s a x st detail) a.id = none := by
  rw [activeOf, active_of_recordsDue (recordsDue_finishDesc s a x st detail), closedDesc]
  simp only [traceEv_frame, List.find?_filter, List.find?_eq_none]
  simp

end Sys2Proof.Machine

end

section
/-! Proofs of the statements of 03_rings_and_direct_slots.md: ring and program fetches, their returns and failures. -/

open Sys2Proof Sys2Proof.Machine Sys2Proof.Safety

namespace Sys2Proof.Machine

/-! The oldest fetch of a ring (R70, R83). -/

theorem of_oldestFetch {s : State} {t r : Nat} {f : Fetch} (h : oldestFetch s t r = some f) : f ∈ s.fetches ∧ f.ten = t ∧ f.ring = r := by
  refine ⟨List.mem_of_find?_eq_some h, ?_⟩
  simpa using List.find?_some h

/-- An oldest fetch that is replaced by one of its ring with something left stays the oldest. -/
theorem oldestFetch_putFetch {s : State} {t r : Nat} {f g : Fetch} (h : oldestFetch s t r = some f) (hid : g.id = f.id) (hten : g.ten = t)
    (hring : g.ring = r) (hcount : g.count ≠ 0) : oldestFetch (putFetch s g) t r = some g := by
  have key : ∀ l : List Fetch, l.find? (fun f => f.ten == t && f.ring == r) = some f →
      (l.map fun k => if k.id = g.id then g else k).find? (fun f => f.ten == t && f.ring == r) = some g := by
    intro l
    induction l with
    | nil => intro hl; cases hl
    | cons k l ih =>
      intro hl
      rw [List.map_cons]
      by_cases hk : k.id = g.id
      · rw [if_pos hk, List.find?_cons_of_pos (by simp [hten, hring])]
      · rw [if_neg hk]
        rw [List.find?_cons] at hl ⊢
        split at hl
        · cases hl
          exact absurd hid.symm hk
        · exact ih hl
  rw [oldestFetch, putFetch, if_neg hcount]
  exact key s.fetches h

theorem mem_putFetch {s : State} {g k : Fetch} (h : k ∈ (putFetch s g).fetches) (hne : k.id ≠ g.id) : k ∈ s.fetches := by
  unfold putFetch at h
  split at h
  · exact (List.mem_filter.1 h).1
  · obtain ⟨m, hm, rfl⟩ := List.mem_map.1 h
    split at hne
    · exact absurd rfl hne
    · next hmid => rwa [if_neg hmid]

theorem putFetch_done {s : State} {g : Fetch} (hcount : g.count = 0) : ∀ k ∈ (putFetch s g).fetches, k.id ≠ g.id := by
  intro k hk
  rw [putFetch, if_pos hcount] at hk
  simpa using (List.mem_filter.1 hk).2

theorem putFetch_fetched (s : State) (g : Fetch) : (putFetch s g).fetched = s.fetched ∧ (putFetch s g).hostWrites = s.hostWrites := by
  unfold putFetch
  split <;> exact ⟨rfl, rfl⟩

theorem putFetch_room {s : State} {t : Nat} (g : Fetch) (h : ringRoom s t) : ringRoom (putFetch s g) t := by
  unfold putFetch
  split <;> exact h

/-! Entries released (R83). -/

/-- Nothing is released of a ring whose oldest fetch is unanswered. -/
theorem releaseRing_waits {s : State} {t r : Nat} (n : Nat) (h : ∀ f, oldestFetch s t r = some f → f.answer = none) : releaseRing n s t r = s := by
  cases n with
  | zero => rfl
  | succ n =>
    unfold releaseRing
    split
    · rfl
    · next f hf => rw [h f hf]

/-- Apart from the fetch g, every fetch of a ring waits for its answer. -/
def othersWait (s : State) (t r : Nat) (g : Fetch) : Prop := ∀ k ∈ s.fetches, k.ten = t → k.ring = r → k.id ≠ g.id → k.answer = none

theorem othersWait_putFetch {s : State} {t r : Nat} {f g : Fetch} (h : othersWait s t r f) (hid : g.id = f.id) : othersWait (putFetch s g) t r g :=
  fun k hk hten hring hne => h k (mem_putFetch hk hne) hten hring (hid ▸ hne)

/-- Once a fetch is done, its ring waits. -/
theorem releaseRing_done {s : State} {t r : Nat} {f g : Fetch} (n : Nat) (h : othersWait s t r f) (hid : g.id = f.id) (hcount : g.count = 0) :
    releaseRing n (putFetch s g) t r = putFetch s g := by
  refine releaseRing_waits n fun k hk => ?_
  obtain ⟨hmem, hten, hring⟩ := of_oldestFetch hk
  exact othersWait_putFetch h hid k hmem hten hring (putFetch_done hcount k hmem)

/-- The entries of an answer as they stand in the M-die queue, the first under an index. -/
def queueEntries (t r : Nat) (first : BitVec 16) (ds : List Descriptor) : List Fetched :=
  ds.zipIdx.map fun d => { ten := t, src := .ring (BitVec.ofNat 2 r), index := first + BitVec.ofNat 16 d.2, raw := d.1 }

theorem queueEntries_cons (t r : Nat) (first : BitVec 16) (d : Descriptor) (ds : List Descriptor) :
    queueEntries t r first (d :: ds) =
      { ten := t, src := .ring (BitVec.ofNat 2 r), index := first, raw := d } :: queueEntries t r (first + 1) ds := by
  unfold queueEntries
  rw [List.zipIdx_cons, List.map_cons, List.zipIdx_succ, List.map_map]
  congr 1
  · exact congrArg (fun i => Fetched.mk t (.ring (BitVec.ofNat 2 r)) i d) (BitVec.add_zero first)
  · refine List.map_congr_left fun e _ => ?_
    simp only [Function.comp_apply, BitVec.ofNat_add, BitVec.ofNat_eq_ofNat, Fetched.mk.injEq, true_and, and_true]
    rw [BitVec.add_assoc, BitVec.add_comm (BitVec.ofNat 16 e.2)]

/-- A fetch whose first entry is taken. -/
def entryTaken (g : Fetch) (rest : List (Option Descriptor)) : Fetch := { g with first := g.first + 1, count := g.count - 1, answer := some rest }

/-- The M-die queue with an entry of a ring behind the others. -/
def entryQueued (s : State) (t r : Nat) (index : BitVec 16) (d : Descriptor) : State :=
  { s with fetched := s.fetched ++ [{ ten := t, src := .ring (BitVec.ofNat 2 r), index := index, raw := d }] }

/-- One answered entry enters the queue. -/
theorem releaseRing_entry {s : State} {t r : Nat} {g : Fetch} {d : Descriptor} {rest : List (Option Descriptor)} (n : Nat)
    (hold : oldestFetch s t r = some g) (hanswer : g.answer = some (some d :: rest)) :
    releaseRing (n + 1) s t r = releaseRing n (putFetch (entryQueued s t r g.first d) (entryTaken g rest)) t r := by
  rw [releaseRing, hold]
  simp only [hanswer]
  rfl

/-- An answered fetch with descriptors alone enters the queue whole, and its ring waits for the next. (R83) -/
theorem releaseRing_answered {t r : Nat} (ds : List Descriptor) : ∀ (n : Nat) (s : State) (g : Fetch) (d : Descriptor), ds.length < n →
    oldestFetch s t r = some g → g.answer = some ((d :: ds).map some) → g.count = ds.length + 1 → othersWait s t r g →
    (releaseRing n s t r).fetched = s.fetched ++ queueEntries t r g.first (d :: ds) ∧ ∀ k ∈ (releaseRing n s t r).fetches, k.id ≠ g.id := by
  induction ds with
  | nil =>
    intro n s g d hn hold hanswer hcount hothers
    obtain ⟨n, rfl⟩ := Nat.exists_eq_add_one_of_ne_zero (Nat.ne_zero_of_lt hn)
    have hzero : (entryTaken g []).count = 0 := by rw [entryTaken, hcount]; rfl
    have hothers' : othersWait (entryQueued s t r g.first d) t r g := hothers
    have hrest : List.map some ([] : List Descriptor) = [] := rfl
    rw [releaseRing_entry n hold hanswer, hrest, releaseRing_done (g := entryTaken g []) n hothers' rfl hzero, (putFetch_fetched ..).1,
      queueEntries_cons]
    exact ⟨rfl, putFetch_done hzero⟩
  | cons e es ih =>
    intro n s g d hn hold hanswer hcount hothers
    obtain ⟨n, rfl⟩ := Nat.exists_eq_add_one_of_ne_zero (Nat.ne_zero_of_lt hn)
    obtain ⟨_, hten, hring⟩ := of_oldestFetch hold
    have hleft : (entryTaken g ((e :: es).map some)).count = es.length + 1 := by rw [entryTaken, hcount]; rfl
    rw [releaseRing_entry n hold hanswer]
    obtain ⟨hfetched, hgone⟩ := ih n _ (entryTaken g ((e :: es).map some)) e (Nat.lt_of_succ_lt_succ hn)
      (oldestFetch_putFetch (s := entryQueued s t r g.first d) hold rfl hten hring (by omega)) rfl hleft (othersWait_putFetch hothers rfl)
    rw [(putFetch_fetched ..).1, entryQueued, List.append_assoc] at hfetched
    rw [queueEntries_cons]
    exact ⟨hfetched, hgone⟩

/-! A failed entry (R83). -/

theorem canPlace_of_ringRoom {s : State} {t : Nat} (h : ringRoom s t) : canPlace s t = true := by
  obtain ⟨henabled, hstaging, hheld, hroom⟩ := h
  simp [canPlace, henabled, hstaging, hheld, hroom]

/-- Before its record a failed entry is metered, logged and traced. -/
theorem poisonEntry_eq (s : State) (t ring : Nat) (index : BitVec 16) : ∃ q l x,
    poisonEntry s t ring index = postRecord { s with meterQ := q, log := l, trace := x } t
      { tag := 0, status := .fetchPoison, signalled := false, staged := false, src := .ring (BitVec.ofNat 2 ring),
        detail := index.toNat, time := s.time, irq := false } := by
  obtain ⟨q, l, hviolate⟩ := violateTag_eq s t none 0x0D ring 64 0 0 index.toNat
  obtain ⟨x, htrace⟩ := traceEv_eq (logEnd { s with meterQ := q, log := l } t 0 .fetchPoison false (genericPayload (srcNum 8 4) 0 ring 0 0))
    0x04 t (srcNum 0xA ring) 0 Status.fetchPoison.code Status.fetchPoison.code
  refine ⟨q, (logEnd { s with meterQ := q, log := l } t 0 .fetchPoison false (genericPayload (srcNum 8 4) 0 ring 0 0)).log, x, ?_⟩
  rw [poisonEntry]
  rw [violate, hviolate, htrace]
  rfl

/-- With room in the completion ring a failed entry leaves its record: TAG 0, FETCH_POISON and the entry's index. -/
theorem poisonEntry_record {s : State} {t : Nat} (ring : Nat) (index : BitVec 16) (hroom : ringRoom s t) :
    ∃ w : HostWrite, (poisonEntry s t ring index).hostWrites = s.hostWrites ++ [w] ∧ w.ten = t ∧ w.kind = .completion none ∧
      w.bytes.take 3 = [0, 0, 0x0A] ∧ (w.bytes.drop 4).take 4 = leBytes 4 index.toNat ∧
      (poisonEntry s t ring index).fetched = s.fetched ∧ (poisonEntry s t ring index).fetches = s.fetches := by
  obtain ⟨q, l, x, heq⟩ := poisonEntry_eq s t ring index
  have hroom' : ringRoom { s with meterQ := q, log := l, trace := x } t := hroom
  rw [heq, postRecord_of_ringRoom hroom']
  refine ⟨_, rfl, rfl, rfl, by simp [CRec.bytes, leBytes, Status.code], ?_, rfl, rfl⟩
  exact List.take_left' (length_leBytes 4 _)

/-- A fetch of one entry that failed is done: its record leaves, and nothing enters the queue. -/
theorem releaseRing_poisoned {s : State} {t r : Nat} {g : Fetch} (hold : oldestFetch s t r = some g) (hanswer : g.answer = some [none])
    (hcount : g.count = 1) (hothers : othersWait s t r g) (hroom : ringRoom s t) (n : Nat) :
    ∃ w : HostWrite, (releaseRing (n + 1) s t r).hostWrites = s.hostWrites ++ [w] ∧ w.ten = t ∧ w.kind = .completion none ∧
      w.bytes.take 3 = [0, 0, 0x0A] ∧ (w.bytes.drop 4).take 4 = leBytes 4 g.first.toNat ∧
      (releaseRing (n + 1) s t r).fetched = s.fetched := by
  obtain ⟨w, hwrites, hten, hkind, hstatus, hdetail, hfetched, hfetches⟩ := poisonEntry_record r g.first hroom
  have hothers' : othersWait (poisonEntry s t r g.first) t r g := by unfold othersWait; rw [hfetches]; exact hothers
  have hrelease : releaseRing (n + 1) s t r = putFetch (poisonEntry s t r g.first) (entryTaken g []) := by
    rw [releaseRing, hold]
    simp only [hanswer, canPlace_of_ringRoom hroom, if_true]
    exact releaseRing_done n (g := entryTaken g []) hothers' rfl (by rw [entryTaken, hcount])
  rw [hrelease, (putFetch_fetched ..).1, (putFetch_fetched ..).2]
  exact ⟨w, hwrites, hten, hkind, hstatus, hdetail, hfetched⟩

/-! A fetch is answered (R83). -/

/-- A fetch outstanding is found by its number, which no other bears. -/
theorem find_outstanding {l : List Fetch} {f : Fetch} (hf : f ∈ l) (hnodup : (l.map (·.id)).Nodup) (hanswer : f.answer = none) :
    l.find? (fun g => g.id == f.id && g.answer.isNone) = some f := by
  cases hfind : l.find? (fun g => g.id == f.id && g.answer.isNone) with
  | none => simpa [hanswer] using List.find?_eq_none.1 hfind f hf
  | some g =>
    have hid : g.id = f.id := by
      have hhit := List.find?_some hfind
      simp only [Bool.and_eq_true, beq_iff_eq] at hhit
      exact hhit.1
    rw [List.inj_on_of_nodup_map hnodup (List.mem_of_find?_eq_some hfind) hf hid]

/-- What an answer to the fetch f rests on: f is outstanding under a number of its own, the oldest of its ring, which waits. -/
structure Awaited (s : State) (f : Fetch) : Prop where
  found : s.fetches.find? (fun g => g.id == f.id && g.answer.isNone) = some f
  oldest : oldestFetch s f.ten f.ring = some f
  others : othersWait s f.ten f.ring f

theorem answerFetch_eq {s : State} {f : Fetch} (h : Awaited s f) {es : List (Option Descriptor)} (hlength : es.length = f.count) :
    answerFetch s f.id es = releaseRing 32 (putFetch s { f with answer := some es }) f.ten f.ring := by
  rw [answerFetch, h.found]
  exact if_pos hlength

/-- Its entries enter the queue in index order. -/
theorem answerFetch_entries {s : State} {f : Fetch} (h : Awaited s f) {ds : List Descriptor} (hlength : ds.length = f.count) (hcount : f.count ≤ 8) :
    (answerFetch s f.id (ds.map some)).fetched = s.fetched ++ queueEntries f.ten f.ring f.first ds ∧
      ∀ k ∈ (answerFetch s f.id (ds.map some)).fetches, k.id ≠ f.id := by
  rw [answerFetch_eq h ((List.length_map _).trans hlength)]
  cases ds with
  | nil =>
    have hzero : f.count = 0 := hlength.symm
    have hrelease := releaseRing_done (g := { f with answer := some [] }) 32 h.others rfl hzero
    rw [List.map_nil, hrelease, (putFetch_fetched ..).1]
    exact ⟨(List.append_nil _).symm, putFetch_done (g := { f with answer := some [] }) hzero⟩
  | cons d ds =>
    rw [List.length_cons] at hlength
    have hsome : f.count ≠ 0 := by omega
    obtain ⟨hfetched, hgone⟩ := releaseRing_answered ds 32 (putFetch s { f with answer := some ((d :: ds).map some) })
      { f with answer := some ((d :: ds).map some) } d (by omega)
      (oldestFetch_putFetch h.oldest rfl rfl rfl hsome) rfl hlength.symm (othersWait_putFetch h.others rfl)
    rw [(putFetch_fetched ..).1] at hfetched
    exact ⟨hfetched, hgone⟩

/-- Its one entry that failed leaves its record. -/
theorem answerFetch_poisoned {s : State} {f : Fetch} (h : Awaited s f) (hcount : f.count = 1) (hroom : ringRoom s f.ten) :
    ∃ w : HostWrite, (answerFetch s f.id [none]).hostWrites = s.hostWrites ++ [w] ∧ w.ten = f.ten ∧ w.kind = .completion none ∧
      w.bytes.take 3 = [0, 0, 0x0A] ∧ (w.bytes.drop 4).take 4 = leBytes 4 f.first.toNat ∧
      (answerFetch s f.id [none]).fetched = s.fetched := by
  have hlength : ([none] : List (Option Descriptor)).length = f.count := hcount.symm
  have hsome : f.count ≠ 0 := by omega
  rw [answerFetch_eq h hlength]
  obtain ⟨w, hwrites, hshow⟩ := releaseRing_poisoned (g := { f with answer := some [none] })
    (oldestFetch_putFetch h.oldest rfl rfl rfl hsome) rfl hcount (othersWait_putFetch h.others rfl)
    (putFetch_room _ hroom) 31
  rw [(putFetch_fetched ..).1, (putFetch_fetched ..).2] at *
  exact ⟨w, hwrites, hshow⟩

/-- A time limit passes time alone. -/
theorem pastDue_eq (s : State) (due : Nat) : ∃ a b c d, pastDue s due = { s with time := a, elapsed := b, ck := c, net := d } := by
  unfold pastDue tick advanceTo
  split
  · exact ⟨s.time, s.elapsed, s.ck, s.net, rfl⟩
  · obtain ⟨a, b, c, d, h⟩ := advance_eq s (cyclesFor s (due - s.elapsed))
    obtain ⟨a', b', c', d', h'⟩ := advance_eq (advance s (cyclesFor s (due - s.elapsed))) 1
    rw [h', h]
    exact ⟨a', b', c', d', rfl⟩

/-! A ring's next fetch (R68, R70, R71). -/

theorem fetchCount_le (s : State) (t r : Nat) : fetchCount s t r ≤ 8 := by
  unfold fetchCount
  dsimp only
  split
  · exact (Nat.min_le_left _ _).trans (Nat.min_le_left _ _)
  · exact Nat.zero_le 8

/-! A load's program (R61, R348). -/

/-- A program that has arrived whole belongs to its load. -/
theorem programHere_held {s : State} {i : Nat} {a : Active} (ha : activeOf s i = some a) (ws : List Word64) :
    ∃ b, b ∈ (programHere s a ws).active ∧ b.id = i ∧ b.prog = some ws ∧ b.raw = a.raw := by
  have hid := id_of_activeOf ha
  have key : ∀ u : State, u.active = (modActive s i fun b => { b with prog := some ws }).active →
      ∃ b, b ∈ (enterAll u i).active ∧ b.id = i ∧ b.prog = some ws ∧ b.raw = a.raw := by
    intro u hactive
    have hu : activeOf u i = some { a with prog := some ws } := by
      have hown := activeOf_modActive (s := s) (i := i) (f := fun b => { b with prog := some ws }) fun _ => rfl
      rw [ha] at hown
      rw [activeOf, hactive]
      exact hown
    obtain ⟨⟨e, m, hentered⟩, _⟩ := entersOnly_enterAll (s := u) (a := { a with prog := some ws }) ⟨⟨_, _, hu⟩, rfl, rfl⟩
    exact ⟨_, List.mem_of_find?_eq_some hentered, id_of_activeOf hentered, rfl, rfl⟩
  unfold programHere
  rw [hid]
  refine key _ ?_
  split
  · rfl
  · simp only [meter_frame]

/-- A load whose program cannot be fetched completes. -/
theorem failProgram_gone {s : State} {i : Nat} {a : Active} (ha : activeOf s i = some a) (hload : isLoad a.raw = true) (hprog : a.prog = none) :
    activeOf (failProgram s i) i = none := by
  obtain ⟨q, l, hviolate⟩ := violateTag_eq s a.ten (some (dTag a.raw)) 0x0D (srcId a.src) 64 0 0 0
  have hkept : activeOf { s with meterQ := q, log := l } i = some a := ha
  simp only [failProgram, ha, hload, hprog, Option.isNone_none, Bool.and_true, if_true, hviolate, endDesc, hkept]
  rw [← id_of_activeOf ha]
  exact activeOf_finishDesc ..

/-- So does one whose program has not come in time. -/
theorem execFetchTimeout_load {s : State} {i : Nat} {a : Active} (ha : activeOf s i = some a) (hload : isLoad a.raw = true) (hprog : a.prog = none)
    (hsent : a.fetchAt.isSome = true) (hnone : ∀ f ∈ s.fetches, f.id ≠ i) : ∃ t, exec (.fetchTimeout i) s = .next t ∧ activeOf t i = none := by
  obtain ⟨t0, ht0⟩ := Option.isSome_iff_exists.1 hsent
  obtain ⟨n, b, c, d, hpast⟩ := pastDue_eq s (t0 + 10 * Config.ms)
  have hfind : s.fetches.find? (fun f => f.id == i && f.answer.isNone) = none := by
    refine List.find?_eq_none.2 fun f hf => ?_
    simp [hnone f hf]
  have hexec : exec (.fetchTimeout i) s = .next (failProgram (pastDue s (t0 + 10 * Config.ms)) i) := by
    simp [exec, execFetchTimeout, hfind, ha, ht0, hprog]
  refine ⟨_, hexec, failProgram_gone (a := a) ?_ hload hprog⟩
  rw [hpast]
  exact ha

end Sys2Proof.Machine

/-- Settles O51: a ring whose oldest fetch is unanswered releases nothing, so its next fetch sets out from the state itself; an answer releases
its entries one by one until the ring's next fetch, which waits. -/
theorem fetchesReturn : Obligations.FetchesReturn := by
  refine ⟨fun ten j s hwaits => ?_, fun s f hf hnodup hanswer hold hcount hothers => ?_, fun s a id ha hload hprog hhost => ⟨fun ws hws => ?_, ?_,
    fun hsent hnone => execFetchTimeout_load ha hload hprog hsent hnone⟩⟩
  · refine ⟨fun hzero => ?_, fun hpos => ⟨fetchCount_le .., ?_⟩⟩
    · simp [exec, execRingFetch, releaseRing_waits 32 hwaits, hzero]
    · simp only [exec, execRingFetch, releaseRing_waits 32 hwaits, if_neg (Nat.ne_of_gt hpos)]
      refine ⟨_, rfl, rfl, rfl, ?_⟩
      exact congrArg Ring.head ((ringOf_setRing _ _ _ _ _).trans (if_pos rfl))
  · have hawaited : Awaited s f := ⟨find_outstanding hf hnodup hanswer, hold, fun g hg hten hring _ => hothers g hg hten hring⟩
    refine ⟨fun ds hds => ⟨_, rfl, answerFetch_entries hawaited hds hcount⟩, fun hone hroom c hc => ?_⟩
    simp only [List.mem_cons, List.not_mem_nil, or_false] at hc
    rcases hc with rfl | rfl
    · obtain ⟨w, hw⟩ := answerFetch_poisoned hawaited hone hroom
      exact ⟨_, w, rfl, hw⟩
    · obtain ⟨n, b, c, d, hpast⟩ := pastDue_eq s (f.at_ + 10 * Config.ms)
      have hexec : exec (.fetchTimeout f.id) s = .next (answerFetch { s with time := n, elapsed := b, ck := c, net := d } f.id [none]) := by
        simp [exec, execFetchTimeout, hawaited.found, hone, hpast]
      obtain ⟨w, hw⟩ := answerFetch_poisoned (s := { s with time := n, elapsed := b, ck := c, net := d })
        ⟨hawaited.found, hawaited.oldest, hawaited.others⟩ hone (ringRoom_congr (s := s) rfl rfl rfl rfl rfl hroom)
      exact ⟨_, w, hexec, hw⟩
  · obtain ⟨b, hb⟩ := programHere_held ha ws
    refine ⟨_, b, ?_, hb⟩
    simp [exec, execProgramFetchReturn, ha, hload, hprog, hhost, hws]
  · refine ⟨_, ?_, failProgram_gone ha hload hprog⟩
    simp [exec, execProgramFetchReturn, ha, hload, hprog, hhost]

end

section
/-! The last part of a descriptor: its completion and the record of it (R50, R55, R57, R59, R64). -/

open Sys2Proof Sys2Proof.Machine Sys2Proof.Safety

namespace Sys2Proof.Machine

/-! What the end of a descriptor leaves. -/

namespace Undisturbed

theorem logUnowned (s : State) (src : Nat) (tag : Option (BitVec 16)) (ten f : Nat) : Undisturbed s (logUnowned s src tag ten f) :=
  records (recordsDue_logAddAt ..)

theorem closedDesc (s : State) (a : Active) (x : Executor) (st : Status) : Undisturbed s (closedDesc s a x st) := by
  unfold Machine.closedDesc
  extract_lets due sig s1 s2
  have hs1 : Undisturbed s s1 := by
    unfold s1
    split
    · exact measureLoad ..
    · exact refl s
  have hs2 : Undisturbed s1 s2 := by
    unfold s2
    split
    · split
      · exact signalFlag ..
      · split
        · exact logUnowned ..
        · exact refl s1
    · exact refl s1
  exact hs1.trans (hs2.trans ((still ..).trans (traceEv ..)))

theorem finishDesc (s : State) (a : Active) (x : Executor) (st : Status) (detail : Nat) : Undisturbed s (finishDesc s a x st detail) :=
  (closedDesc s a x st).trans (records (recordsDue_finishDesc ..))

theorem finishPart (s : State) (i : Nat) (x : Executor) (st : Status) (detail : Nat) : Undisturbed s (finishPart s i x st detail) := by
  unfold Machine.finishPart
  split
  · exact refl s
  · dsimp only
    split
    · exact finishDesc ..
    · exact still ..

end Undisturbed

/-! Room in a completion ring (R80, R81). -/

/-- Room is kept where a tenancy's rings and records are kept, no reservation is added and no completion is issued. -/
theorem ringRoom_mono {s u : State} {t : Nat} (hrings : (tenOf u t).rings = (tenOf s t).rings)
    (hstaging : (tenOf u t).staging = (tenOf s t).staging) (hheld : (tenOf u t).held = (tenOf s t).held)
    (hactive : reservations u t ≤ reservations s t) (hwrites : u.hostWrites.filter (isCompletion t) = s.hostWrites.filter (isCompletion t))
    (h : ringRoom s t) : ringRoom u t := by
  have hring : ringOf u t cq = ringOf s t cq := by rw [ringOf, hrings]; rfl
  have hfree : cqFree u t = cqFree s t := by unfold cqFree; rw [hring, hwrites]
  obtain ⟨hon, hnone, hfree', hroom⟩ := h
  exact ⟨hring ▸ hon, hstaging.trans hnone, hheld.trans hfree', hfree ▸ hactive.trans_lt hroom⟩

theorem reservations_filter (s : State) (t : Nat) (p : Active → Bool) :
    reservations { s with active := s.active.filter p } t ≤ reservations s t := by
  unfold reservations
  rw [List.filter_filter]
  exact (List.monotone_filter_right _ fun a ha => by simp only [Bool.and_eq_true] at ha ⊢; exact ha.1).length_le

/-- The chain of a load is no part of what a ring's room lies in. -/
theorem measureLoad_leaves (s : State) (a : Active) (t : Nat) : (measureLoad s a).hostWrites = s.hostWrites ∧ (measureLoad s a).log = s.log ∧
    (measureLoad s a).active = s.active ∧ (tenOf (measureLoad s a) t).rings = (tenOf s t).rings ∧
    (tenOf (measureLoad s a) t).staging = (tenOf s t).staging ∧ (tenOf (measureLoad s a) t).held = (tenOf s t).held := by
  unfold measureLoad
  split
  · exact ⟨rfl, rfl, rfl, rfl, rfl, rfl⟩
  · exact ⟨rfl, rfl, rfl, tenOf_modTen_part s _ t Tenancy.rings rfl, tenOf_modTen_part s _ t Tenancy.staging rfl,
      tenOf_modTen_part s _ t Tenancy.held rfl⟩

/-- A descriptor without SIGNAL_FLAG that ends leaves room as it was, issues no write and enters nothing. -/
theorem closedDesc_quiet {s : State} {a : Active} (hsignal : dSignal a.raw = none) (x : Executor) (st : Status) (t : Nat) :
    (closedDesc s a x st).hostWrites = s.hostWrites ∧ (closedDesc s a x st).log = s.log ∧
      (ringRoom s t → ringRoom (closedDesc s a x st) t) := by
  have key : ∀ u : State, u.hostWrites = s.hostWrites → u.log = s.log → u.active = s.active → (tenOf u t).rings = (tenOf s t).rings →
      (tenOf u t).staging = (tenOf s t).staging → (tenOf u t).held = (tenOf s t).held → ∀ v,
      v = traceEv { u with active := u.active.filter (fun e => e.id != a.id) } 0x04 a.ten (execSrc x) (dTag a.raw) st.code st.code →
      v.hostWrites = s.hostWrites ∧ v.log = s.log ∧ (ringRoom s t → ringRoom v t) := by
    rintro u hwrites hlog hactive hrings hstaging hheld v rfl
    obtain ⟨y, htrace⟩ := traceEv_eq { u with active := u.active.filter (fun e => e.id != a.id) } 0x04 a.ten (execSrc x) (dTag a.raw) st.code st.code
    rw [htrace]
    refine ⟨hwrites, hlog, ringRoom_mono (s := s) hrings hstaging hheld ?_ (congrArg _ hwrites)⟩
    have hsame : reservations u t = reservations s t := by rw [reservations, hactive]; rfl
    exact hsame ▸ reservations_filter u t fun e => e.id != a.id
  unfold closedDesc
  simp only [hsignal]
  split
  · obtain ⟨hwrites, hlog, hactive, hrings, hstaging, hheld⟩ := measureLoad_leaves s a t
    exact key _ hwrites hlog hactive hrings hstaging hheld _ rfl
  · exact key s rfl rfl rfl rfl rfl rfl _ rfl

/-! The record of a descriptor that has ended (Table 3.14). -/

/-- Its bytes, where no flag was set. -/
theorem formRecord_bytes (s : State) (src : Sys2Proof.Source) (d : Descriptor) (st : Status) (detail : Nat) :
    (formRecord s src d st false detail).bytes = leBytes 2 (dfield d 2 2) ++ leBytes 1 st.code
      ++ leBytes 1 (match src with | .ring k => 16 * k.toNat | .slot k => 8 + 16 * k.toNat) ++ leBytes 4 detail ++ leBytes 8 s.time := by
  have htag : (dTag d).toNat = dfield d 2 2 := by
    rw [dTag, BitVec.toNat_ofNat, Nat.mod_eq_of_lt]
    exact Nat.mod_lt _ (by decide)
  unfold CRec.bytes formRecord
  rw [htag]
  cases src <;> simp [b2n]

/-- A descriptor that ends completes with its status and DETAIL. -/
theorem finishDesc_completes (s : State) (a : Active) (x : Executor) (st : Status) (detail : Nat) :
    completes s (finishDesc s a x st detail) a st detail := by
  refine ⟨activeOf_finishDesc .., fun hroom hsignal hdue => ?_⟩
  obtain ⟨_, _, hkept⟩ := closedDesc_quiet (s := s) hsignal x st a.ten
  have hrecord : ¬(st = .ok && dFlag a.raw 1) = true := by
    rcases hdue with hst | hflag
    · simp [hst]
    · simp [hflag]
  have hsig : closedSignalled s a st = false := by simp [closedSignalled, hsignal]
  rw [finishDesc_eq, if_neg hrecord, postRecord_of_ringRoom (hkept hroom), hsig]
  exact ⟨_, List.getLast?_concat, rfl, formRecord_bytes ..⟩

/-- Room in the ring of the state that a descriptor ends in is all that its record rests on. -/
theorem completes_of_room {s u t : State} {a : Active} {st : Status} {detail : Nat} (hroom : ringRoom s a.ten → ringRoom u a.ten)
    (h : completes u t a st detail) : completes s t a st detail := ⟨h.1, fun hs => h.2 (hroom hs)⟩

/-! The last part (R59). -/

/-- The last part that ends ends the descriptor. -/
theorem finishPart_last {s : State} {a : Active} {x : Executor} (ha : activeOf s a.id = some a) (hfinish : a.toFinish = [x])
    (henter : a.toEnter = []) (st : Status) (detail : Nat) :
    finishPart s a.id x st detail =
      finishDesc s (notePart a x st detail) x (finalStatus (notePart a x st detail)).1 (finalStatus (notePart a x st detail)).2 := by
  have hdone : ((notePart a x st detail).toEnter.isEmpty && (notePart a x st detail).toFinish.isEmpty) = true := by
    simp [notePart, hfinish, henter]
  rw [finishPart, ha]
  exact if_pos hdone

/-- After it the descriptor is no longer held. -/
theorem finishPart_gone {s : State} {a : Active} {x : Executor} (ha : activeOf s a.id = some a) (hfinish : a.toFinish = [x])
    (henter : a.toEnter = []) (st : Status) (detail : Nat) : activeOf (finishPart s a.id x st detail) a.id = none := by
  rw [finishPart_last ha hfinish henter]
  exact activeOf_finishDesc s (notePart a x st detail) ..

/-- A descriptor of which no part has failed ends with the status and DETAIL of its last. -/
theorem finalStatus_notePart {s : State} {a : Active} {x : Executor} (h : lastPart s a x) (st : Status) (detail : Nat) :
    finalStatus (notePart a x st detail) = (st, partDetail a st (partKey x) detail) := by
  obtain ⟨_, _, _, hlow, hfailed, hmulti⟩ := h
  by_cases hst : st = .ok
  · simp [finalStatus, notePart, hlow, hmulti, hst, partDetail]
  · by_cases hop : dOp a.raw = 2 ∨ dOp a.raw = 3
    · rcases hop with hop | hop <;> simp [finalStatus, notePart, hlow, hfailed, hst, hop, partDetail]
    · obtain ⟨hrun, hload⟩ := not_or.1 hop
      simp [finalStatus, notePart, hlow, hmulti, hst, hrun, hload, partDetail]

theorem finishPart_eq {s : State} {a : Active} {x : Executor} (h : lastPart s a x) (st : Status) (detail : Nat) :
    finishPart s a.id x st detail = finishDesc s (notePart a x st detail) x st (partDetail a st (partKey x) detail) := by
  have hstatus := finalStatus_notePart h st detail
  obtain ⟨ha, hfinish, henter, _⟩ := h
  rw [finishPart_last ha hfinish henter, hstatus]

/-- It completes with them. -/
theorem finishPart_completes {s : State} {a : Active} {x : Executor} (h : lastPart s a x) (st : Status) (detail : Nat) :
    completes s (finishPart s a.id x st detail) a st (partDetail a st (partKey x) detail) := by
  rw [finishPart_eq h]
  exact finishDesc_completes s (notePart a x st detail) x st _

end Sys2Proof.Machine

end

section
/-! How a descriptor enters, waits, and starts at the sync unit, the meter unit and the dispatcher (R56, R57, R64, R73, R251, R256, R260, R295). -/

open Sys2Proof Sys2Proof.Machine Sys2Proof.Safety

namespace Sys2Proof.Machine

/-! Queues (R57, R73). -/

@[simp] theorem execQueue_setQueue (s : State) (x : Executor) (q : List Nat) : execQueue (setQueue s x q) x = q := by
  cases x with
  | unit b => exact congrArg (fun u => u.proc.queue) ((unitOf_setUnit ..).trans (if_pos rfl))
  | press e => exact congrArg (fun u => u.proc.queue) ((pressOf_setPress ..).trans (if_pos rfl))
  | decant e => exact congrArg Decant.queue (mget_mset_self ..)
  | scrubber => rfl
  | meter => rfl
  | net => rfl
  | sync => rfl
  | dispatcher => rfl

/-- A queue lies apart from the sync unit, the time, the memory settings and the log. -/
theorem setQueue_leaves (s : State) (x : Executor) (q : List Nat) : (setQueue s x q).sync = s.sync ∧ (setQueue s x q).time = s.time ∧
    (setQueue s x q).active = s.active ∧ (setQueue s x q).bar = s.bar := by
  cases x <;> exact ⟨rfl, rfl, rfl, rfl⟩

/-- An active descriptor that is changed bears what the change gives it. -/
theorem mem_modActive {s : State} {i : Nat} {f : Active → Active} {P : Active → Prop} (hP : ∀ a, P (f a)) :
    ∀ b ∈ (modActive s i f).active, b.id = i → P b := by
  intro b hb hid
  obtain ⟨a, _, rfl⟩ := List.mem_map.1 hb
  split at hid
  · next ha => rw [if_pos ha]; exact hP a
  · next ha => exact absurd hid ha

/-- So it does if only what a later change leaves is asked of it. -/
theorem mem_modActive_keeps {s : State} {i j : Nat} {f : Active → Active} {P : Active → Prop} (hf : ∀ a, (f a).id = a.id)
    (hP : ∀ a, P a → P (f a)) (h : ∀ b ∈ s.active, b.id = i → P b) : ∀ b ∈ (modActive s j f).active, b.id = i → P b := by
  intro b hb hid
  obtain ⟨a, ha, rfl⟩ := List.mem_map.1 hb
  split at hid
  · next hj =>
    rw [if_pos hj]
    exact hP a (h a ha ((hf a).symm.trans hid))
  · next hj =>
    rw [if_neg hj]
    exact h a ha hid

/-! A descriptor enters its executor's queue (R73, R226). -/

theorem execQueue_enterPart (s : State) (a : Active) (x : Executor) : execQueue (enterPart s a x) x = execQueue s x ++ [a.id] := by
  have hsame : ∀ u : State, execQueue (modActive u a.id fun a => { a with toEnter := a.toEnter.erase x }) x = execQueue u x := by
    intro u
    cases x <;> rfl
  rw [enterPart, hsame, execQueue_setQueue]

/-- A copy that is placed is its engine's, whether or not it enters the engine's queue at once. -/
theorem placed_active (s : State) (a : Active) (x : Executor) : ∀ t,
    (t = modActive s a.id (fun _ => { a with placed := true, toEnter := [x], toFinish := [x] }) ∨
      t = enterPart (modActive s a.id (fun _ => { a with placed := true, toEnter := [x], toFinish := [x] }))
        { a with placed := true, toEnter := [x], toFinish := [x] } x) →
    ∀ b ∈ t.active, b.id = a.id → b.placed = true ∧ b.toFinish = [x] := by
  have hplaced : ∀ b ∈ (modActive s a.id fun _ => { a with placed := true, toEnter := [x], toFinish := [x] }).active,
      b.id = a.id → b.placed = true ∧ b.toFinish = [x] := by
    intro b hb hid
    obtain ⟨c, _, rfl⟩ := List.mem_map.1 hb
    split at hid
    · next hc => rw [if_pos hc]; exact ⟨rfl, rfl⟩
    · next hc => exact absurd hid hc
  rintro t (rfl | rfl)
  · exact hplaced
  · refine mem_modActive_keeps (fun _ => rfl) (fun _ h => h) ?_
    rw [(setQueue_leaves ..).2.2.1]
    exact hplaced

/-- A descriptor that may enter or be placed does so, and no other. (R73, R226) -/
theorem execDescriptorEnqueue_enters (x : Executor) (s : State) :
    (∀ a, s.active.find? (fun a => mayEnter s a x || mayPlace s a x) = some a →
      (a.placed = true → ∃ t, exec (.descriptorEnqueue x) s = .next t ∧ execQueue t x = execQueue s x ++ [a.id]) ∧
      (a.placed = false → ∃ t, exec (.descriptorEnqueue x) s = .next t ∧
        ∀ b ∈ t.active, b.id = a.id → b.placed = true ∧ b.toFinish = [x])) ∧
    (s.active.find? (fun a => mayEnter s a x || mayPlace s a x) = none → exec (.descriptorEnqueue x) s = .next s) := by
  refine ⟨fun a ha => ⟨fun hplaced => ?_, fun hplaced => ?_⟩, fun hnone => ?_⟩
  · refine ⟨enterPart s a x, ?_, execQueue_enterPart ..⟩
    simp [exec, execDescriptorEnqueue, ha, hplaced]
  · refine ⟨_, rfl, placed_active s a x _ ?_⟩
    simp only [ha, hplaced, Bool.false_eq_true, if_false]
    split
    · exact .inr rfl
    · exact .inl rfl
  · simp [exec, execDescriptorEnqueue, hnone]

/-! A wait is registered (R56, R256). -/

/-- No message that a test selects is taken where none satisfies it. -/
theorem takeMsg_none {s : State} {p : FlagMsg → Bool} (l : List FlagMsg) (h : ∀ m ∈ l, p m = false) :
    ∀ before, takeMsg s p before l = none := by
  induction l with
  | nil => exact fun _ => rfl
  | cons m t ih =>
    intro before
    rw [takeMsg, h m List.mem_cons_self]
    exact ih (fun k hk => h k (List.mem_cons_of_mem _ hk)) _

/-- A source that has sent nothing has nothing applied. -/
theorem flushOwn_silent {s : State} {who : Who} (h : ∀ m ∈ s.sync.msgs, m.who ≠ who) (fuel home : Nat) : flushOwn fuel s who home = s := by
  cases fuel with
  | zero => rfl
  | succ n =>
    rw [flushOwn, takeMsg_none]
    intro m hm
    simp [h m hm]

/-- A wait for a clear flag that is to be set stays at its home; one for a set flag is over. -/
theorem registerWait_home {s : State} {w : Watch} (hhome : flagHome s w.flag ≠ 9) (hmsgs : ∀ m ∈ s.sync.msgs, m.who ≠ w.who)
    (hset : w.onClear = false) (ten : Nat) (reply : Reply) :
    (flagOf s w.flag = false → registerWait s w ten reply = { s with sync := { s.sync with watches := s.sync.watches ++ [w] } }) ∧
    (flagOf s w.flag = true → w.clr = false → registerWait s w ten reply = releaseWatch s w) := by
  rw [registerWait, if_neg hhome, flushOwn_silent hmsgs, registerWatch, hset]
  exact ⟨fun h => by simp [h], fun h hclr => by simp [h, hclr]⟩

/-- The descriptor at a head registers its wait, or is released at once. (R56) -/
theorem execDescriptorWaitRegister_home {x : Executor} {s : State} {a : Active} {f : Nat}
    (ha : (heads s x).find? (fun a => a.wait == .waiting) = some a) (hwait : dWait a.raw = some f) (hhome : flagHome s f ≠ 9)
    (hmsgs : ∀ m ∈ s.sync.msgs, m.who ≠ execWho x a.src) :
    (flagOf s f = false → ∃ t, exec (.descriptorWaitRegister x) s = .next t ∧ t.sync.watches = s.sync.watches ++
        [{ flag := f, onClear := false, clr := dFlag a.raw 3, holder := .desc a.id, kite := none, who := execWho x a.src, tag := dTag a.raw }] ∧
      ∀ b ∈ t.active, b.id = a.id → b.wait = .registered s.elapsed) ∧
    (flagOf s f = true → dFlag a.raw 3 = false → ∃ t, exec (.descriptorWaitRegister x) s = .next t ∧ t.sync = s.sync ∧
      ∀ b ∈ t.active, b.id = a.id → b.wait = .released) := by
  have hexec : exec (.descriptorWaitRegister x) s = .next (registerWait
      (modActive s a.id (fun b => { b with wait := .registered s.elapsed }))
      { flag := f, onClear := false, clr := dFlag a.raw 3, holder := .desc a.id, kite := none, who := execWho x a.src, tag := dTag a.raw }
      a.ten (.desc a.id)) := by
    simp [exec, execDescriptorWaitRegister, ha, hwait, homeReached, hhome]
  obtain ⟨hclear, hset⟩ := registerWait_home (s := modActive s a.id (fun b => { b with wait := .registered s.elapsed }))
    (w := { flag := f, onClear := false, clr := dFlag a.raw 3, holder := .desc a.id, kite := none, who := execWho x a.src, tag := dTag a.raw })
    hhome hmsgs rfl a.ten (.desc a.id)
  refine ⟨fun hf => ⟨_, hexec, ?_⟩, fun hf hkeep => ⟨_, hexec, ?_⟩⟩
  · rw [hclear hf]
    exact ⟨rfl, mem_modActive (f := fun b => { b with wait := .registered s.elapsed }) fun _ => rfl⟩
  · rw [hset hf hkeep]
    exact ⟨rfl, mem_modActive (f := fun b => { b with wait := .released }) fun _ => rfl⟩

/-! A descriptor starts (R57). -/

/-- Where nothing halts an executor, the descriptor at its head starts. -/
theorem startDesc_begins {s : State} {x : Executor} {a : Active} (ha : (heads s x).find? waitOver = some a) :
    (x = .dispatcher → startDesc s x = beginDesc s x a) ∧ (x = .sync → startDesc s x = startSync s a) ∧
    (x = .meter → startDesc s x = startMeter s a) := by
  refine ⟨?_, ?_, ?_⟩ <;> (rintro rfl; simp [startDesc, ha, partHalted, domainOn, execDomain])

/-- A descriptor that begins leaves its queue and bears the time. -/
theorem beginDesc_eq (s : State) (x : Executor) (a : Active) : ∃ y, beginDesc s x a =
    { modActive (setQueue s x (unqueue (execQueue s x) a.id)) a.id (fun b => { b with started := some s.time }) with trace := y } := by
  obtain ⟨y, htrace⟩ := traceEv_eq
    (modActive (setQueue s x (unqueue (execQueue s x) a.id)) a.id
      (fun b => { b with started := some (setQueue s x (unqueue (execQueue s x) a.id)).time }))
    0x03 a.ten (execSrc x) (dTag a.raw) 0 0
  refine ⟨y, ?_⟩
  rw [beginDesc]
  dsimp only
  rw [htrace, (setQueue_leaves ..).2.1]

/-- The dispatcher's descriptor has started. -/
theorem startDesc_dispatcher {s : State} {a : Active} (ha : (heads s .dispatcher).find? waitOver = some a) :
    ∃ t, exec (.descriptorStart .dispatcher) s = .next t ∧ t.dispDQ = unqueue s.dispDQ a.id ∧
      ∀ b ∈ t.active, b.id = a.id → b.started = some s.time := by
  obtain ⟨y, hbegin⟩ := beginDesc_eq s .dispatcher a
  refine ⟨_, congrArg Host.Outcome.next (((startDesc_begins ha).1 rfl).trans hbegin), rfl, ?_⟩
  exact mem_modActive (f := fun b => { b with started := some s.time }) fun _ => rfl

/-- The homes of flags are setup registers. -/
theorem flagHome_congr {s u : State} (h : u.bar = s.bar) (f : Nat) : flagHome u f = flagHome s f := by
  unfold flagHome blockHome reg
  rw [h]

/-- Which kite a tenancy may take lies in the kites and its quota. -/
theorem freeKiteFor_congr {s u : State} (hsync : u.sync = s.sync) (hbar : u.bar = s.bar) (t : Nat) : freeKiteFor u t = freeKiteFor s t := by
  have hfirst : ∀ n k, firstFreeKite u n k = firstFreeKite s n k := by
    intro n
    induction n with
    | zero => exact fun _ => rfl
    | succ n ih =>
      intro k
      rw [firstFreeKite, firstFreeKite, ih, kiteOf, hsync]
      rfl
  have hheld : kitesHeld u t = kitesHeld s t := by rw [kitesHeld, hsync]; rfl
  have hquota : kiteQuota u t = kiteQuota s t := by rw [kiteQuota, reg, hbar]; rfl
  simp only [freeKiteFor, hfirst, hheld, hquota]

/-- What a descriptor of the sync unit that begins leaves. -/
theorem beginDesc_sync (s : State) (a : Active) : (beginDesc s .sync a).sync = s.sync ∧ (beginDesc s .sync a).syncDQ = unqueue s.syncDQ a.id ∧
    (∀ f, flagHome (beginDesc s .sync a) f = flagHome s f) ∧ (∀ t, freeKiteFor (beginDesc s .sync a) t = freeKiteFor s t) ∧
    (∀ n, nappersOf (beginDesc s .sync a) n = nappersOf s n) ∧ ∀ u, bankRetired (beginDesc s .sync a) u = bankRetired s u := by
  obtain ⟨y, hbegin⟩ := beginDesc_eq s .sync a
  rw [hbegin]
  refine ⟨rfl, rfl, fun f => ?_, fun t => ?_, fun n => ?_, fun u => ?_⟩
  · exact flagHome_congr rfl f
  · refine freeKiteFor_congr ?_ ?_ t <;> rfl
  · rfl
  · rfl

/-- FLAG_SET and FLAG_CLEAR leave for the flag's home. (R249) -/
theorem startSync_flagOp {s : State} {a : Active} (hop : dOp a.raw = 7 ∨ dOp a.raw = 8) (hhome : flagHome s (dfield a.raw 16 2) ≠ 9) :
    (startSync s a).sync.msgs = s.sync.msgs ++
      [{ op := if dOp a.raw = 7 then .set else .clear, flag := dfield a.raw 16 2, ten := a.ten, who := execWho .sync a.src,
         tag := dTag a.raw, reply := .desc a.id }] ∧
    (startSync s a).syncDQ = unqueue s.syncDQ a.id := by
  obtain ⟨hsync, hqueue, hflag, _⟩ := beginDesc_sync s a
  rw [← hflag] at hhome
  rcases hop with hop | hop
  · simp [startSync, hop, homeReached, issueFlagOp, hhome, hsync, hqueue]
  · simp [startSync, hop, homeReached, issueFlagOp, hhome, hsync, hqueue]

/-- The kite that a KITE_ARM arms. (Table 10.7) -/
def armedKite (s : State) (a : Active) : Kite :=
  { owner := a.ten, flag := dfield a.raw 16 2, onClear := false, clr := false, notify := BitVec.ofNat 8 (dfield a.raw 19 1),
    cookie := BitVec.ofNat 32 (dfield a.raw 20 4), who := { kind := 6, id := srcId a.src }, tag := dTag a.raw, armed := s.time }

/-- The watch that it registers at its flag. -/
def armedWatch (a : Active) (k : Nat) : Watch :=
  { flag := dfield a.raw 16 2, onClear := false, clr := false, holder := .host k, kite := some k,
    who := { kind := 6, id := srcId a.src }, tag := dTag a.raw }

/-- The state that has armed it, its descriptor answered. -/
def kiteArmed (s : State) (a : Active) (k : Nat) : State :=
  modActive (setKite s k (some (armedKite s a))) a.id fun b => { b with answered := true, detail := k }

/-- A KITE_ARM takes the lowest free kite, which watches its flag. (R251, R252) -/
theorem startSync_kite {s : State} {a : Active} {k : Nat} (hop : dOp a.raw = 9) (hhome : flagHome s (dfield a.raw 16 2) ≠ 9)
    (hset : bit a.raw 144 = false) (hclear : flagOf s (dfield a.raw 16 2) = false)
    (hmsgs : ∀ m ∈ s.sync.msgs, m.who ≠ { kind := 6, id := srcId a.src }) (hfree : freeKiteFor s a.ten = some k) :
    kiteOf (startSync s a) k = some (armedKite (beginDesc s .sync a) a) ∧
      (startSync s a).sync.watches = s.sync.watches ++ [armedWatch a k] ∧
      ∀ b ∈ (startSync s a).active, b.id = a.id → b.answered = true ∧ b.detail = k := by
  obtain ⟨hsync, _, hflag, hkite, _⟩ := beginDesc_sync s a
  generalize hu : beginDesc s .sync a = u at hsync hflag hkite ⊢
  have hreached : homeReached u (dfield a.raw 16 2) = true := by simp [homeReached, hflag, hhome]
  have hstart : startSync s a = registerWait (kiteArmed u a k) (armedWatch a k) a.ten (.host k) := by
    simp [startSync, hop, hu, hreached, startKite, hkite, hfree, hset, kiteArmed, armedKite, armedWatch]
  have harmed : (kiteArmed u a k).sync.msgs = s.sync.msgs ∧ (kiteArmed u a k).sync.flags = s.sync.flags ∧
      (kiteArmed u a k).sync.watches = s.sync.watches := by
    rw [← hsync]
    exact ⟨rfl, rfl, rfl⟩
  have hmsgs' : ∀ m ∈ (kiteArmed u a k).sync.msgs, m.who ≠ (armedWatch a k).who := by
    rw [harmed.1]
    exact hmsgs
  have hclear' : flagOf (kiteArmed u a k) (armedWatch a k).flag = false := by
    rw [flagOf, harmed.2.1]
    exact hclear
  have hhome' : flagHome (kiteArmed u a k) (armedWatch a k).flag ≠ 9 := by
    have hsame : flagHome (kiteArmed u a k) (armedWatch a k).flag = flagHome u (armedWatch a k).flag := by
      refine flagHome_congr ?_ _
      rfl
    rw [hsame, hflag]
    exact hhome
  rw [hstart, (registerWait_home hhome' hmsgs' rfl a.ten (.host k)).1 hclear']
  refine ⟨mget_mset_self none (some (armedKite u a)) u.sync.kites k, ?_,
    mem_modActive (f := fun b => { b with answered := true, detail := k }) fun _ => ⟨rfl, rfl⟩⟩
  rw [← harmed.2.2]

/-! BARRIER_INIT (R260). -/

/-- The units that a BARRIER_INIT names: of each group marked in its map those whose bank is not retired. -/
theorem mem_initUnits {s : State} {d : Descriptor} {u : Nat} (hu : u < 4096) :
    u ∈ initUnits s (initGroups d) ↔ bit d (192 + u / 16) = true ∧ bankRetired s u = false := by
  simp only [initUnits, initGroups, List.mem_flatMap, List.mem_filter, List.mem_range, List.mem_map, available, Bool.not_eq_true']
  constructor
  · rintro ⟨g, ⟨_, hg⟩, ⟨i, hi, rfl⟩, hretired⟩
    have hdiv : (16 * g + i) / 16 = g := by omega
    rw [hdiv]
    exact ⟨hg, hretired⟩
  · rintro ⟨hg, hretired⟩
    exact ⟨u / 16, ⟨by omega, hg⟩, ⟨u % 16, by omega, by omega⟩, hretired⟩

/-- A barrier in which nothing naps is begun afresh at vintage 0, with its units. -/
theorem barOf_initBarrier {s : State} {n : Nat} (hempty : nappersOf s n = []) (ten flag limit : Nat) (tag : BitVec 16) (groups : List Nat)
    (members : BitVec 64) : barOf (initBarrier s n ten flag limit tag groups members) n = { Barrier.empty with
      st := .active, flag := flag, ten := ten, limit := if limit = 0 then 100000 else limit, tag := tag, members := members,
      parts := (initUnits s groups).foldl (fun m u => mset false m u true) [] } := by
  have hdiscard : discardBarrier s n .aborted = setBar s n Barrier.empty := by simp [discardBarrier, hempty]
  have hunits : initUnits (setBar s n Barrier.empty) groups = initUnits s groups := rfl
  rw [initBarrier, hdiscard, hunits, barOf_setBar, if_pos rfl]

/-- BARRIER_INIT begins its barrier afresh. -/
theorem startSync_barrier {s : State} {a : Active} (hop : dOp a.raw = 10) (hempty : nappersOf s (bits a.raw 128 10) = []) :
    (barOf (startSync s a) (bits a.raw 128 10)).st = .active ∧ (barOf (startSync s a) (bits a.raw 128 10)).vintage = false ∧
      (barOf (startSync s a) (bits a.raw 128 10)).flag = dfield a.raw 18 2 ∧ (barOf (startSync s a) (bits a.raw 128 10)).arrived = [] ∧
      ∀ u < 4096, participates (startSync s a) (bits a.raw 128 10) u = (bit a.raw (192 + u / 16) && !bankRetired s u) := by
  obtain ⟨_, _, _, _, hnappers, hretired⟩ := beginDesc_sync s a
  rw [← hnappers] at hempty
  have hbar : barOf (startSync s a) (bits a.raw 128 10) = { Barrier.empty with
      st := .active, flag := dfield a.raw 18 2, ten := a.ten, limit := if dfield a.raw 20 4 = 0 then 100000 else dfield a.raw 20 4,
      tag := dTag a.raw, members := BitVec.ofNat 64 (dfield a.raw 56 8),
      parts := (initUnits (beginDesc s .sync a) (initGroups a.raw)).foldl (fun m u => mset false m u true) [] } := by
    have hstart : ∃ f, startSync s a = modActive (initBarrier (beginDesc s .sync a) (bits a.raw 128 10) a.ten (dfield a.raw 18 2)
        (dfield a.raw 20 4) (dTag a.raw) (initGroups a.raw) (BitVec.ofNat 64 (dfield a.raw 56 8))) a.id f := by
      simp only [startSync, hop, Nat.reduceMul]
      exact ⟨_, rfl⟩
    obtain ⟨f, hstart⟩ := hstart
    have hsame : ∀ u n, barOf (modActive u a.id f) n = barOf u n := fun _ _ => rfl
    rw [hstart, hsame, barOf_initBarrier hempty]
  have hpart : ∀ u < 4096, participates (startSync s a) (bits a.raw 128 10) u = (bit a.raw (192 + u / 16) && !bankRetired s u) := by
    intro u hu
    rw [participates, hbar]
    have hin := mem_initUnits (s := beginDesc s .sync a) (d := a.raw) hu
    rw [hretired] at hin
    rw [mget_foldl_mset (α := Bool) false (fun _ => true)]
    by_cases hmem : u ∈ initUnits (beginDesc s .sync a) (initGroups a.raw)
    · obtain ⟨hbit, hbank⟩ := hin.1 hmem
      rw [if_pos hmem, hbit, hbank]
      rfl
    · rw [if_neg hmem]
      cases hbit : bit a.raw (192 + u / 16) with
      | false => rfl
      | true =>
        cases hbank : bankRetired s u with
        | false => exact absurd (hin.2 ⟨hbit, hbank⟩) hmem
        | true => rfl
  rw [hbar]
  exact ⟨rfl, rfl, rfl, rfl, hpart⟩

/-! METER_SNAP (R295). -/

/-- A snapshot has the bytes of Table 11.8. -/
theorem length_snapshot (s : State) (t seq tag : Nat) (operator : Bool) : (snapshot s t seq tag operator).length = 192 := by
  have hmeters : ∀ m : SMap Nat, ((List.range 16).flatMap (fun i => leBytes 8 (mget 0 m i))).length = 128 := by
    intro m
    simp [List.length_flatMap, length_leBytes]
  simp [snapshot, length_leBytes, hmeters]

/-- What a descriptor of the meter unit that begins leaves. -/
theorem beginDesc_meter (s : State) (a : Active) : (beginDesc s .meter a).hostWrites = s.hostWrites ∧
    (beginDesc s .meter a).meterDQ = unqueue s.meterDQ a.id := by
  obtain ⟨y, hbegin⟩ := beginDesc_eq s .meter a
  rw [hbegin]
  exact ⟨rfl, rfl⟩

/-- The meter unit's record leaves for RESULT_ADDR. -/
theorem startMeter_writes (s : State) (a : Active) : ∃ w : HostWrite, (startMeter s a).hostWrites = s.hostWrites ++ [w] ∧
    w.kind = .snapshot a.id ∧ w.addr = dfield a.raw 16 8 ∧ w.bytes.length = 192 ∧ (startMeter s a).meterDQ = unqueue s.meterDQ a.id := by
  obtain ⟨hwrites, hqueue⟩ := beginDesc_meter s a
  unfold startMeter
  generalize beginDesc s .meter a = u at hwrites hqueue
  simp only [hostWriteIssue, newId, modActive, nextSeq, modTen, setTen, hwrites, hqueue]
  exact ⟨_, rfl, rfl, rfl, length_snapshot .., trivial⟩

/-! The end of a descriptor of the sync unit or the dispatcher, and of one whose wait lasts too long (R56, R57). -/

/-- What the dispatcher and the sync unit have done completes. -/
theorem execWorkComplete_started {x : Executor} {s : State} {a : Active} (hx : x = .dispatcher ∨ x = .sync ∧ a.answered = true)
    (hfirst : s.active.find? (fun b => b.toFinish.contains x && b.started.isSome && (x != .sync || b.answered)) = some a)
    (ha : activeOf s a.id = some a) (hfinish : a.toFinish = [x]) (henter : a.toEnter = []) :
    ∃ t, exec (.workComplete x) s = .next t ∧ activeOf t a.id = none := by
  refine ⟨finishPart s a.id x .ok a.detail, ?_, finishPart_gone ha hfinish henter ..⟩
  rcases hx with rfl | ⟨rfl, _⟩
  · have hother : (Executor.dispatcher != Executor.sync) = true := rfl
    simp only [hother, Bool.true_or, Bool.and_true] at hfirst
    simp only [exec, execWorkComplete, completeStarted, Bool.and_true, hfirst]
  · have hsame : (Executor.sync != Executor.sync) = false := rfl
    simp only [hsame, Bool.false_or] at hfirst
    simp only [exec, execWorkComplete, completeStarted, hfirst]

theorem sync_of_recordsDue {s t : State} (h : recordsDue s t) : t.sync = s.sync := by
  obtain ⟨T, H, n, l, q, rfl⟩ := h
  rfl

theorem modProc_leaves (s : State) (x : CoreId) (f : Proc → Proc) : (modProc s x f).sync = s.sync ∧ (modProc s x f).active = s.active := by
  cases x <;> exact ⟨rfl, rfl⟩

/-- A core's end of an earlier cycle is no matter of the sync unit's or of the descriptors'. -/
theorem settleEnd_leaves (s : State) (x : CoreId) : (settleEnd s x).sync = s.sync ∧ (settleEnd s x).active = s.active := by
  have hnote : (noteEnd s x).sync = s.sync ∧ (noteEnd s x).active = s.active := by
    unfold noteEnd
    split
    · split
      · next k e _ _ _ fault pay _ =>
        have hdue := recordsDue_reportEndAt s
        obtain ⟨hsync, hactive⟩ := modProc_leaves (reportEndAt s e.time k.ten k.tag e.status pay fault) x
          fun p => { p with ended := some { e with report := none } }
        exact ⟨hsync.trans (sync_of_recordsDue (hdue ..)), hactive.trans (active_of_recordsDue (hdue ..))⟩
      · exact ⟨rfl, rfl⟩
    · exact ⟨rfl, rfl⟩
  unfold settleEnd
  split
  · split
    · exact hnote
    · exact ⟨rfl, rfl⟩
  · exact ⟨rfl, rfl⟩

theorem settleExec_leaves (s : State) (x : Executor) : (settleExec s x).sync = s.sync ∧ (settleExec s x).active = s.active := by
  cases x with
  | unit b => exact settleEnd_leaves s (.unit b)
  | press e => exact settleEnd_leaves s (.press e)
  | _ => exact ⟨rfl, rfl⟩

/-- A part that has not started, out of its queue and reported. -/
def partDropped (s : State) (a : Active) (x : Executor) (st : Status) (info : Nat) : State :=
  let u := reportEnd (settleExec (setQueue s x (unqueue (execQueue s x) a.id)) x) a.ten (dTag a.raw) st (idlePayload x a st info) st.faults
  { u with active := u.active.map (fun e => if e.id = a.id then { e with toEnter := e.toEnter.erase x } else e) }

theorem partDropped_leaves (s : State) (a : Active) (x : Executor) (st : Status) (info : Nat) :
    (partDropped s a x st info).sync = s.sync ∧
    (partDropped s a x st info).active = (modActive s a.id fun e => { e with toEnter := e.toEnter.erase x }).active := by
  have hdue := recordsDue_reportEndAt (settleExec (setQueue s x (unqueue (execQueue s x) a.id)) x)
  obtain ⟨hqsync, _, hqactive, _⟩ := setQueue_leaves s x (unqueue (execQueue s x) a.id)
  obtain ⟨hesync, heactive⟩ := settleExec_leaves (setQueue s x (unqueue (execQueue s x) a.id)) x
  refine ⟨(sync_of_recordsDue (hdue ..)).trans (hesync.trans hqsync), ?_⟩
  exact congrArg (List.map fun e : Active => if e.id = a.id then { e with toEnter := e.toEnter.erase x } else e)
    ((active_of_recordsDue (hdue ..)).trans (heactive.trans hqactive))

/-- A part that ends with WATCHDOG is dropped and ends; a scrub alone may be cut short, and by a switch or a halt. -/
theorem dropPart_watchdog {s : State} {a : Active} {x : Executor} (ha : activeOf s a.id = some a) (hmem : a.toFinish.contains x = true) (info : Nat) :
    dropPart s a.id x .watchdog info = finishPart (partDropped s a x .watchdog info) a.id x .watchdog 0 := by
  have hcut : (x == Executor.scrubber && (Status.watchdog == .thermalHalt || Status.watchdog == .cancelledBySwitch)) = false := by
    cases x == Executor.scrubber <;> rfl
  simp only [dropPart, ha, hmem, hcut]
  rfl

/-- The one part of a descriptor, ended by the wait limit, ends it, and no wait is added. -/
theorem dropPart_gone {s : State} {a : Active} {x : Executor} (ha : activeOf s a.id = some a) (hfinish : a.toFinish = [x])
    (henter : a.toEnter = []) (info : Nat) : activeOf (dropPart s a.id x .watchdog info) a.id = none ∧
      ∀ w ∈ (dropPart s a.id x .watchdog info).sync.watches, w ∈ s.sync.watches := by
  obtain ⟨hsync, hactive⟩ := partDropped_leaves s a x .watchdog info
  have hpart : activeOf (partDropped s a x .watchdog info) a.id = some { a with toEnter := a.toEnter.erase x } := by
    have hown := activeOf_modActive (s := s) (i := a.id) (f := fun e => { e with toEnter := e.toEnter.erase x }) fun _ => rfl
    rw [activeOf, hactive]
    exact hown.trans (by rw [ha]; rfl)
  have hnone : a.toEnter.erase x = [] := by rw [henter]; rfl
  rw [dropPart_watchdog ha (by simp [hfinish])]
  refine ⟨finishPart_gone (a := { a with toEnter := a.toEnter.erase x }) hpart hfinish hnone .., fun w hw => ?_⟩
  exact hsync ▸ (Undisturbed.finishPart (partDropped s a x .watchdog info) a.id x .watchdog 0).watches w hw

/-- The wait limit ends a descriptor with one part, and its wait is withdrawn. -/
theorem execWaitLimitExpiry_gone {s : State} {a : Active} {id since : Nat} {x : Executor} (ha : activeOf s id = some a)
    (hwait : a.wait = .registered since) (hfinish : a.toFinish = [x]) (henter : a.toEnter = []) :
    ∃ t, exec (.waitLimitExpiry id) s = .next t ∧ activeOf t id = none ∧ ∀ w ∈ t.sync.watches, w.holder ≠ .desc id := by
  obtain ⟨n, b, c, d, hpast⟩ := pastDue_eq s (since + waitLimit s a.ten)
  obtain rfl := id_of_activeOf ha
  have hexec : exec (.waitLimitExpiry a.id) s = .next (dropPart (dropWaits { s with time := n, elapsed := b, ck := c, net := d } a.id) a.id x
      .watchdog ((dWait a.raw).getD 0)) := by
    have hkept : activeOf { s with time := n, elapsed := b, ck := c, net := d } a.id = some a := ha
    simp [exec, execWaitLimitExpiry, ha, hwait, hpast, dropParts, hkept, hfinish]
  obtain ⟨hgone, hwatches⟩ := dropPart_gone (s := dropWaits { s with time := n, elapsed := b, ck := c, net := d } a.id) ha hfinish henter
    ((dWait a.raw).getD 0)
  refine ⟨_, hexec, hgone, fun w hw => ?_⟩
  have hleft := (List.mem_filter.1 (hwatches w hw)).2
  simpa using hleft

end Sys2Proof.Machine

end

section
/-! How work starts: a unit asks for its credit, a press's task, a copy and a scrub begin (R57, R102, R106, R225, R234, R354). -/

open Sys2Proof Sys2Proof.Machine Sys2Proof.Safety

namespace Sys2Proof.Machine

/-! A unit's run asks for its credit (R102, R374). -/

theorem mem_placeAsk (l : List (Nat × Admit)) (ck : Nat) (a : Admit) : (ck, a) ∈ placeAsk l ck a := by
  induction l with
  | nil => exact List.mem_singleton_self _
  | cons q t ih =>
    unfold placeAsk
    split
    · exact List.mem_cons_self
    · exact List.mem_cons_of_mem _ ih

/-- A request that is made waits. -/
theorem ballastWaits_ballastAsk (s : State) (a : Admit) : ballastWaits (ballastAsk s a) a = true := by
  unfold ballastWaits ballastAsk mupd
  dsimp only
  rw [mget_mset_self]
  exact List.any_eq_true.2 ⟨_, mem_placeAsk _ s.ck a, beq_self_eq_true a⟩

/-- A run that may start is at the head of a core that has no task and whose domain, or unit, is in use. -/
theorem runReady_task {s : State} {x : CoreId} {a : Active} (h : runReady s x = some a) : (procOf s x).task = none := by
  unfold runReady at h
  dsimp only at h
  cases htask : (procOf s x).task with
  | none => rfl
  | some k =>
    split at h
    · cases h
    · simp [htask] at h

/-- The unit of a run that may start asks for a task start, or asleep for its wake, and goes on as it was. -/
theorem askStart_asks {s : State} {b : BitVec 12} {a : Active} (h : runReady s (.unit b) = some a) (hask : (unitOf s b.toNat).startReq = false) :
    (unitOf (askStart s b) b.toNat).startReq = true ∧ (unitOf (askStart s b) b.toNat).st = (unitOf s b.toNat).st ∧
      (procOf (askStart s b) (.unit b)).task = none ∧
      ((unitOf s b.toNat).st = .idle → ballastWaits (askStart s b) (.taskStart b.toNat) = true) ∧
      ((unitOf s b.toNat).st = .asleep → (unitOf (askStart s b) b.toNat).wakeReq = true ∧
        ((unitOf s b.toNat).wakeReq = false → ballastWaits (askStart s b) (.wake b.toNat) = true)) := by
  have htask : (unitOf s b.toNat).proc.task = none := runReady_task h
  have hfirst : unitOf (modUnit s b.toNat fun u => { u with startReq := true }) b.toNat = { unitOf s b.toNat with startReq := true } :=
    (unitOf_setUnit ..).trans (if_pos rfl)
  by_cases hst : (unitOf s b.toNat).st = .asleep
  · have hidle : (unitOf s b.toNat).st ≠ .idle := by rw [hst]; decide
    by_cases hwake : (unitOf s b.toNat).wakeReq = true
    · have heq : askStart s b = modUnit s b.toNat fun u => { u with startReq := true } := by simp [askStart, h, hask, hst, hwake]
      rw [heq, procOf, hfirst]
      exact ⟨rfl, rfl, htask, fun hi => absurd hi hidle, fun _ => ⟨hwake, fun hno => absurd (hwake.symm.trans hno) (by decide)⟩⟩
    · have heq : askStart s b = ballastAsk (modUnit (modUnit s b.toNat fun u => { u with startReq := true }) b.toNat
          fun u => { u with wakeReq := true }) (.wake b.toNat) := by simp [askStart, h, hask, hst, hwake]
      have hunit : unitOf (askStart s b) b.toNat = { unitOf s b.toNat with startReq := true, wakeReq := true } := by
        rw [heq]
        refine ((unitOf_setUnit ..).trans (if_pos rfl)).trans ?_
        rw [hfirst]
      rw [procOf, hunit]
      exact ⟨rfl, rfl, htask, fun hi => absurd hi hidle, fun _ => ⟨rfl, fun _ => heq ▸ ballastWaits_ballastAsk ..⟩⟩
  · have heq : askStart s b = ballastAsk (modUnit s b.toNat fun u => { u with startReq := true }) (.taskStart b.toNat) := by
      simp [askStart, h, hask, hst]
    have hunit : unitOf (askStart s b) b.toNat = { unitOf s b.toNat with startReq := true } := by
      rw [heq]
      exact hfirst
    rw [procOf, hunit]
    exact ⟨rfl, rfl, htask, fun _ => heq ▸ ballastWaits_ballastAsk .., fun ha => absurd ha hst⟩

theorem askStart_rests {s : State} {b : BitVec 12} (h : runReady s (.unit b) = none) : askStart s b = s := by
  unfold askStart
  dsimp only
  rw [h]
  split <;> rfl

/-! A press's task starts (R106, R234). -/

/-- The task of a run, as it starts. -/
def runTask (s : State) (a : Active) : Task :=
  { id := a.id, ten := a.ten, tag := dTag a.raw, raw := a.raw, startE := s.elapsed, startT := s.time, startCk := s.ck, polled := false }

/-- Its argument registers. -/
def argRegs (a : Active) : SMap PWord :=
  (runArgs a.raw).zipIdx.foldl (fun m v => mset PWord.zero m (v.2 + 1) { val := BitVec.ofNat 32 v.1, poison := false }) []

/-- A processor as a run starts on it. (R105, R234) -/
def startedProc (s : State) (a : Active) (p : Proc) : Proc :=
  { p with live := runCask a.raw, pc := runEntry a.raw, regs := argRegs a, shapes := [], loops := [], task := some (runTask s a), vec := none,
           nap := none, ended := none }

/-- A run whose cask is whole starts its task at ENTRY. -/
theorem pressStart_starts {s : State} {e : BitVec 4} {a : Active} (h : runReady s (.press e) = some a)
    (hcask : ((procOf s (.press e)).cask (runCask a.raw)).incomplete = false) :
    (procOf (pressStart s e) (.press e)).task = some (runTask s a) ∧ (procOf (pressStart s e) (.press e)).pc = runEntry a.raw := by
  let u := modActive (modProc (popQueue s (.press e)) (.press e) (startedProc s a)) a.id fun b => { b with started := some (b.started.getD s.time) }
  obtain ⟨y, htrace⟩ := traceEv_eq u 0x03 a.ten (coreSrc (.press e)) (dTag a.raw) 0 0
  have hproc : procOf u (.press e) = startedProc s a { procOf s (.press e) with queue := (procOf s (.press e)).queue.tail } := by
    have hpop : procOf (popQueue s (.press e)) (.press e) = { procOf s (.press e) with queue := (procOf s (.press e)).queue.tail } :=
      congrArg Press.proc ((pressOf_setPress ..).trans (if_pos rfl))
    rw [← hpop]
    exact procOf_modProc_self (popQueue s (.press e)) (.press e) (startedProc s a)
  have hwhole : ((procOf { u with trace := y } (.press e)).cask (runCask a.raw)).incomplete = false := by
    have hsame : procOf { u with trace := y } (.press e) = procOf u (.press e) := rfl
    rw [hsame, hproc]
    exact hcask
  have heq : pressStart s e = { u with trace := y } := by
    rw [pressStart, h]
    refine (if_neg ?_).trans htrace
    rw [Bool.not_eq_true]
    exact (congrArg (fun v => ((procOf v (.press e)).cask (runCask a.raw)).incomplete) htrace).trans hwhole
  rw [heq]
  exact ⟨congrArg Proc.task hproc, congrArg Proc.pc hproc⟩

/-! A copy and a scrub begin, nothing of them done (R225, R354). -/

/-- A decant engine that is free begins its copy. -/
theorem startCopy_begins {s : State} {e : BitVec 2} {a : Active} (hjob : (decantOf s e.toNat).job = none) :
    (decantOf (startCopy s e a) e.toNat).job = some { id := a.id, next := 0, bytes := 0, saved := [] } ∧ (startCopy s e a).dram = s.dram ∧
      (decantOf (startCopy s e a) e.toNat).queue = (decantOf s e.toNat).queue.tail ∧
      ∀ x ∈ (startCopy s e a).active, x.id = a.id → x.started = some s.time := by
  let u := modActive (setDecant s e.toNat { decantOf s e.toNat with
      queue := (decantOf s e.toNat).queue.tail, job := some { id := a.id, next := 0, bytes := 0, saved := [] } }) a.id
    fun x => { x with started := some s.time }
  obtain ⟨y, htrace⟩ := traceEv_eq u 0x03 a.ten (srcNum 2 e.toNat) (dTag a.raw) 0 0
  have heq : startCopy s e a = { u with trace := y } := by
    rw [← htrace, startCopy]
    simp [hjob]
    rfl
  have hdecant : decantOf u e.toNat = { decantOf s e.toNat with
      queue := (decantOf s e.toNat).queue.tail, job := some { id := a.id, next := 0, bytes := 0, saved := [] } } :=
    (decantOf_setDecant ..).trans (if_pos rfl)
  rw [heq]
  exact ⟨congrArg Decant.job hdecant, rfl, congrArg Decant.queue hdecant, mem_modActive (f := fun x => { x with started := some s.time }) fun _ => rfl⟩

/-- With no stack halted no scrub is. -/
theorem scrubHalted_cool {s : State} (hdie : (thmOf s 8).halted = false) (hstacks : ∀ k < 8, (thmOf s k).halted = false) : scrubHalted s = false := by
  unfold scrubHalted
  split
  · rfl
  · split
    · rfl
    · refine List.any_eq_false.2 fun k hk => ?_
      simp [stackHalted, hdie, hstacks k (List.mem_range.1 hk)]

/-- The scrubber begins its pass. -/
theorem startScrub_begins {s : State} {a : Active} (hdie : (thmOf s 8).halted = false) (hstacks : ∀ k < 8, (thmOf s k).halted = false)
    (hscrub : s.scrub = none) : (startScrub s a).scrub = some (ScrubJob.new a.id) ∧ (startScrub s a).dram = s.dram ∧
      (startScrub s a).scrubQ = s.scrubQ.tail := by
  obtain ⟨y, htrace⟩ := traceEv_eq
    (modActive { s with scrubQ := s.scrubQ.tail, scrub := some (ScrubJob.new a.id) } a.id fun x => { x with started := some s.time })
    0x03 a.ten (srcNum 8 0) (dTag a.raw) 0 0
  have hcool : scrubHalted { modActive { s with scrubQ := s.scrubQ.tail, scrub := some (ScrubJob.new a.id) } a.id
      (fun x => { x with started := some s.time }) with trace := y } = false := scrubHalted_cool hdie hstacks
  have heq : startScrub s a = { modActive { s with scrubQ := s.scrubQ.tail, scrub := some (ScrubJob.new a.id) } a.id
      (fun x => { x with started := some s.time }) with trace := y } := by
    rw [startScrub]
    simp only [hscrub, Option.isSome_none, Bool.false_eq_true, if_false, htrace, hcool]
  rw [heq]
  exact ⟨rfl, rfl, rfl⟩

end Sys2Proof.Machine

end

section
/-! An engine's access to a region rests on neither the descriptors, the network nor the trace (R119, R226, R341). -/

open Sys2Proof Sys2Proof.Machine Sys2Proof.Safety

namespace Sys2Proof.Machine

/-- The first state with what no access to the banks reads or changes taken from the second: the descriptors, the network engine's queue, the
network and the trace. -/
def besides (s u : State) : State := { s with active := u.active, netDQ := u.netDQ, trace := u.trace, net := u.net }

/-! Decoding and storing words (R337-R345). -/

theorem noteCorrected_besides (s u : State) (rd : Reader) (w : Nat) : noteCorrected (besides s u) rd w = besides (noteCorrected s rd w) u := by
  have hlast : mget (none, 0) (besides s u).eccLog (addrBank (4 * w)) = mget (none, 0) s.eccLog (addrBank (4 * w)) := rfl
  have hcount : ∀ v : State, (countEcc v (addrBank (4 * w)) 1 0 0).eccLog = v.eccLog := fun _ => rfl
  have htime : (countEcc (besides s u) (addrBank (4 * w)) 1 0 0).elapsed = (countEcc s (addrBank (4 * w)) 1 0 0).elapsed := rfl
  simp only [noteCorrected, hcount, hlast, htime]
  cases (mget (none, 0) s.eccLog (addrBank (4 * w))).1 with
  | none => rfl
  | some t =>
    dsimp only
    split <;> rfl

theorem noteUncorrectable_besides (s u : State) (rd : Reader) (w : Nat) :
    noteUncorrectable (besides s u) rd w = besides (noteUncorrectable s rd w) u := by
  have hlast : mget none (besides s u).ueLog w = mget none s.ueLog w := rfl
  have hcount : ∀ v : State, (countEcc v (addrBank (4 * w)) 0 1 0).ueLog = v.ueLog := fun _ => rfl
  have htime : (countEcc (besides s u) (addrBank (4 * w)) 0 1 0).elapsed = (countEcc s (addrBank (4 * w)) 0 1 0).elapsed := rfl
  simp only [noteUncorrectable, hcount, hlast, htime]
  cases mget none s.ueLog w with
  | none => rfl
  | some t =>
    dsimp only
    split <;> rfl

theorem readWord_besides (s u : State) (rd : Reader) (w : Nat) :
    readWord (besides s u) rd w = ((readWord s rd w).1, besides (readWord s rd w).2 u) := by
  have hclass : classify (dramWord (besides s u) w) (dramCheck (besides s u) w) = classify (dramWord s w) (dramCheck s w) := rfl
  unfold readWord
  rw [hclass]
  cases classify (dramWord s w) (dramCheck s w) with
  | clean => rfl
  | corrected v => exact Prod.ext rfl (noteCorrected_besides ..)
  | marker => rfl
  | uncorrectable =>
    rw [noteUncorrectable_besides]
    rfl

theorem putWord_besides (s u : State) (w : Nat) (d : Word) (c : Byte) : putWord (besides s u) w d c = besides (putWord s w d c) u := rfl

theorem putMarker_besides (s u : State) (w : Nat) : putMarker (besides s u) w = besides (putMarker s w) u := putWord_besides ..

theorem writeWord_besides (s u : State) (rd : Reader) (w : Nat) (d : Word) (en : Nat) (poison : Bool) :
    writeWord (besides s u) rd w d en poison = ((writeWord s rd w d en poison).1, besides (writeWord s rd w d en poison).2 u) := by
  simp only [writeWord, readWord_besides, putWord_besides, putMarker_besides]
  split
  · rfl
  · split
    · cases poison with
      | false => rfl
      | true => rfl
    · split <;> rfl

theorem writeWordsFrom_besides (u : State) (rd : Reader) (ws : List (Word × Nat × Bool)) : ∀ (s : State) (w : Nat),
    writeWordsFrom (besides s u) rd w ws = ((writeWordsFrom s rd w ws).1, besides (writeWordsFrom s rd w ws).2 u) := by
  induction ws with
  | nil => exact fun _ _ => rfl
  | cons e t ih =>
    intro s w
    obtain ⟨d, en, p⟩ := e
    simp only [writeWordsFrom, writeWord_besides, ih]

theorem writeOp_besides (s u : State) (rd : Reader) (w : Nat) (ws : List (Word × Nat × Bool)) :
    writeOp (besides s u) rd w ws = besides (writeOp s rd w ws) u := by
  unfold writeOp
  rw [writeWordsFrom_besides]
  dsimp only
  split <;> rfl

/-! The end of a task that is over (R175, R418). -/

theorem postEventAt_besides (s u : State) (time t type : Nat) (tag : BitVec 16) (code : Nat) (payload : List Byte) (irq : Option Nat) :
    postEventAt (besides s u) time t type tag code payload irq = besides (postEventAt s time t type tag code payload irq) u := by
  have hfree : eqFree (besides s u) t = eqFree s t := rfl
  unfold postEventAt
  rw [hfree]
  dsimp only
  split
  · rfl
  · split <;> rfl

theorem logEndAt_besides (s u : State) (time t : Nat) (tag : BitVec 16) (st : Status) (acceptance : Bool) (payload : List Byte) :
    logEndAt (besides s u) time t tag st acceptance payload = besides (logEndAt s time t tag st acceptance payload) u := by
  unfold logEndAt
  split <;> rfl

theorem reportEndAt_besides (s u : State) (time t : Nat) (tag : BitVec 16) (st : Status) (payload : List Byte) (fault : Bool) :
    reportEndAt (besides s u) time t tag st payload fault = besides (reportEndAt s time t tag st payload fault) u := by
  unfold reportEndAt
  cases fault with
  | false => exact logEndAt_besides ..
  | true =>
    have hfault : faultRecordAt (besides s u) time t tag st payload = besides (faultRecordAt s time t tag st payload) u := by
      unfold faultRecordAt
      rw [postEventAt_besides]
      rfl
    simp only [if_true, hfault, logEndAt_besides]

theorem modProc_besides (s u : State) (x : CoreId) (f : Proc → Proc) : modProc (besides s u) x f = besides (modProc s x f) u := by
  cases x <;> rfl

theorem procOf_besides (s u : State) (x : CoreId) : procOf (besides s u) x = procOf s x := by
  cases x <;> rfl

theorem noteEnd_besides (s u : State) (x : CoreId) : noteEnd (besides s u) x = besides (noteEnd s x) u := by
  unfold noteEnd
  rw [procOf_besides]
  split
  · split
    · rw [reportEndAt_besides, modProc_besides]
    · rfl
  · rfl

theorem settleEnd_besides (s u : State) (x : CoreId) : settleEnd (besides s u) x = besides (settleEnd s x) u := by
  have hck : (besides s u).ck = s.ck := rfl
  unfold settleEnd
  rw [procOf_besides, hck, noteEnd_besides]
  split
  · split <;> rfl
  · rfl

/-! A pair that has begun to commit (R119, R341). -/

theorem commitColumn_besides (s u : State) (b : Nat) (p : WPair) (c : Nat) :
    commitColumn (besides s u) b p c = besides (commitColumn s b p c) u := by
  have hreader : ∀ v, unitReader (besides v u) b = unitReader v b := by
    intro v
    have howner : coreOwner (besides v u) (.unit (buid b)) = coreOwner v (.unit (buid b)) := rfl
    simp only [unitReader, coreTag, coreTen, procOf_besides, howner]
  unfold commitColumn
  dsimp only
  rw [settleEnd_besides, hreader, writeOp_besides]

theorem settlePair_besides (s u : State) (b : Nat) (p : WPair) : settlePair (besides s u) b p = besides (settlePair s b p) u := by
  have hfirst : (if p.next = 0 then commitColumn (besides s u) b p 0 else besides s u) =
      besides (if p.next = 0 then commitColumn s b p 0 else s) u := by
    split
    · exact commitColumn_besides ..
    · rfl
  unfold settlePair
  dsimp only
  rw [hfirst, commitColumn_besides]
  rfl

theorem settleLine_besides (s u : State) (a : Nat) : settleLine (besides s u) a = besides (settleLine s a) u := by
  have hpair : heldPair (besides s u) (addrBank a) (a % 2 ^ 27) = heldPair s (addrBank a) (a % 2 ^ 27) := rfl
  unfold settleLine
  rw [hpair]
  split
  · exact settlePair_besides ..
  · rfl

theorem settleLocs_besides (u : State) (ls : List Loc) : ∀ s, settleLocs (besides s u) ls = besides (settleLocs s ls) u := by
  unfold settleLocs
  induction ls with
  | nil => exact fun _ => rfl
  | cons l ls ih =>
    intro s
    rw [List.foldl_cons, List.foldl_cons]
    cases l with
    | mem a =>
      dsimp only
      rw [settleLine_besides]
      exact ih _
    | oob f => exact ih s
    | fault => exact ih s

/-! Places read (R35-R40). -/

theorem readOnce_besides (s u : State) (rd : Reader) (seen : List (Nat × PWord)) (w : Nat) :
    readOnce (besides s u) rd seen w = ((readOnce s rd seen w).1, besides (readOnce s rd seen w).2 u) := by
  unfold readOnce
  split
  · rfl
  · exact readWord_besides ..

theorem readLocs_besides (u : State) (rd : Reader) (ls : List Loc) : ∀ (s : State) (seen : List (Nat × PWord)),
    readLocs (besides s u) rd seen ls = ((readLocs s rd seen ls).1, besides (readLocs s rd seen ls).2 u) := by
  induction ls with
  | nil => exact fun _ _ => rfl
  | cons l ls ih =>
    intro s seen
    cases l with
    | mem a => simp only [readLocs, readOnce_besides, ih]
    | oob f => simp only [readLocs, ih]
    | fault => simp only [readLocs, ih]

theorem countOob_besides (s u : State) (n : Nat) (write : Bool) (k : Nat) : countOob (besides s u) n write k = besides (countOob s n write k) u := by
  unfold countOob
  split <;> rfl

/-- A region read is the same, whatever the descriptors, the network and the trace, and leaves them as they are. -/
theorem regionRead_besides (s u : State) (rd : Reader) (n : Nat) (bi off : Int) (k : Nat) :
    regionRead (besides s u) rd n bi off k = ((regionRead s rd n bi off k).1, besides (regionRead s rd n bi off k).2 u) := by
  have hlocate : locateAll (besides s u) (regionOf (besides s u) n) false bi off k = locateAll s (regionOf s n) false bi off k := by
    refine List.map_congr_left fun i _ => ?_
    rfl
  have hstatus : ∀ ls, locsStatus (besides s u) ls = locsStatus s ls := fun _ => rfl
  unfold regionRead
  dsimp only
  rw [hlocate, hstatus]
  split
  · rfl
  · rw [settleLocs_besides, readLocs_besides]
    dsimp only
    rw [countOob_besides]

end Sys2Proof.Machine

end

section
/-! The network engine's starts: frames handed to a pair's stream, and what a READ, a WRITE and a member out of reach make of a NET_SEND (R310,
R314, R323). -/

open Sys2Proof Sys2Proof.Machine Sys2Proof.Safety

namespace Sys2Proof.Machine

/-! The setup registers that an access leaves. -/

theorem noted_writeWord (s : State) (rd : Reader) (w : Nat) (d : Word) (en : Nat) (poison : Bool) : noted s (writeWord s rd w d en poison).2 := by
  unfold writeWord
  split
  · exact noted_refl s
  · split
    · cases poison
      · exact noted_putWord ..
      · exact noted_putWord ..
    · dsimp only
      split
      · exact noted_trans (noted_readWord s rd w) (noted_putWord ..)
      · exact noted_trans (noted_readWord s rd w) (noted_putWord ..)

theorem noted_writeWordsFrom (rd : Reader) (ws : List (Word × Nat × Bool)) : ∀ (s : State) (w : Nat), noted s (writeWordsFrom s rd w ws).2 := by
  induction ws with
  | nil => exact fun s _ => noted_refl s
  | cons e t ih => exact fun s w => noted_trans (noted_writeWord ..) (ih ..)

theorem noted_writeOp (s : State) (rd : Reader) (w : Nat) (ws : List (Word × Nat × Bool)) : noted s (writeOp s rd w ws) := by
  unfold writeOp
  dsimp only
  split
  · exact noted_trans (noted_writeWordsFrom ..) (noted_logEcc ..)
  · exact noted_writeWordsFrom ..

theorem bar_of_noted {s t : State} (h : noted s t) : t.bar = s.bar := by
  obtain ⟨m, c, fr, lg, ec, et, el, ul, rfl⟩ := h
  rfl

theorem bar_of_recordsDue {s t : State} (h : recordsDue s t) : t.bar = s.bar := by
  obtain ⟨T, H, n, l, q, rfl⟩ := h
  rfl

theorem bar_modProc (s : State) (x : CoreId) (f : Proc → Proc) : (modProc s x f).bar = s.bar := by
  cases x <;> rfl

theorem bar_settleEnd (s : State) (x : CoreId) : (settleEnd s x).bar = s.bar := by
  have hnote : (noteEnd s x).bar = s.bar := by
    unfold noteEnd
    split
    · split
      · rw [bar_modProc]
        exact bar_of_recordsDue (recordsDue_reportEndAt ..)
      · rfl
    · rfl
  unfold settleEnd
  split
  · split
    · exact hnote
    · rfl
  · rfl

theorem bar_settleLine (s : State) (a : Nat) : (settleLine s a).bar = s.bar := by
  have hcolumn : ∀ v b p c, (commitColumn v b p c).bar = v.bar := fun v b p c =>
    (bar_of_noted (noted_writeOp ..)).trans (bar_settleEnd ..)
  unfold settleLine
  split
  · next p _ =>
    have hpair : ∀ v, (settlePair v (addrBank a) p).bar = (commitColumn (if p.next = 0 then commitColumn v (addrBank a) p 0 else v) (addrBank a) p 1).bar :=
      fun _ => rfl
    rw [hpair, hcolumn]
    split
    · exact hcolumn ..
    · rfl
  · rfl

theorem bar_settleLocs (ls : List Loc) (s : State) : (settleLocs s ls).bar = s.bar := by
  unfold settleLocs
  refine List.foldlRecOn (motive := fun u : State => u.bar = s.bar) ls _ rfl fun u hu l _ => ?_
  cases l with
  | mem a => exact (bar_settleLine u a).trans hu
  | oob f => exact hu
  | fault => exact hu

/-- A region read leaves the setup registers. -/
theorem bar_regionRead (s : State) (rd : Reader) (n : Nat) (bi off : Int) (k : Nat) : (regionRead s rd n bi off k).2.bar = s.bar := by
  have hcount : ∀ v m, (countOob v n false m).bar = v.bar := by
    intro v m
    unfold countOob
    split <;> rfl
  unfold regionRead
  dsimp only
  split
  · rfl
  · dsimp only
    rw [hcount, bar_of_noted (noted_readLocs ..), bar_settleLocs]

/-! Frames handed to a stream (R306, R314, R315). -/

/-- From s to t frames have at most gone their way: beyond the peers, the outputs, the trace and the meters nothing changes. -/
def sent (s t : State) : Prop := ∃ P o x q, t = { s with net := { s.net with peers := P }, out := o, trace := x, meterQ := q }

theorem sent_refl (s : State) : sent s s := ⟨s.net.peers, s.out, s.trace, s.meterQ, rfl⟩

theorem sent_trans {s t u : State} (h : sent s t) (h' : sent t u) : sent s u := by
  obtain ⟨P, o, x, q, rfl⟩ := h
  obtain ⟨P', o', x', q', rfl⟩ := h'
  exact ⟨P', o', x', q', rfl⟩

theorem sent_setPeer (s : State) (m : Nat) (p : Peer) : sent s (setPeer s m p) := ⟨_, s.out, s.trace, s.meterQ, rfl⟩

/-- The frames of a pair's stream: those sent and not acknowledged, and those that wait. -/
def streamOf (s : State) (m : Nat) : List TxFrame × List TxFrame := ((peerOf s m).unacked, (peerOf s m).backlog)

theorem streamOf_setPeer (s : State) (k : Nat) {p : Peer} (hun : p.unacked = (peerOf s k).unacked) (hback : p.backlog = (peerOf s k).backlog)
    (m : Nat) : streamOf (setPeer s k p) m = streamOf s m := by
  rw [streamOf, peerOf_setPeer]
  split
  · next h => rw [hun, hback, h]; rfl
  · rfl

/-- A frame on the wire leaves the streams. -/
theorem putFrame_leaves (s : State) (k : Nat) (f : TxFrame) : sent s (putFrame s k f) ∧ ∀ m, streamOf (putFrame s k f) m = streamOf s m := by
  have hport : sent s (settlePort s k) ∧ ∀ m, streamOf (settlePort s k) m = streamOf s m := by
    unfold settlePort
    dsimp only
    split
    · refine ⟨sent_setPeer .., fun m => ?_⟩
      refine streamOf_setPeer s k ?_ ?_ m <;> rfl
    · exact ⟨sent_refl s, fun _ => rfl⟩
  obtain ⟨hsent, hstream⟩ := hport
  unfold putFrame
  extract_lets s1 p port g s2
  have hsent2 : sent s s2 := sent_trans hsent (sent_setPeer ..)
  have hstream2 : ∀ m, streamOf s2 m = streamOf s m := by
    intro m
    refine Eq.trans ?_ (hstream m)
    refine streamOf_setPeer s1 k ?_ ?_ m <;> rfl
  split
  · obtain ⟨x, htrace⟩ := traceEv_eq s2 0x0C g.ten (srcNum 8 2) g.tag g.seq 0
    rw [htrace]
    exact ⟨sent_trans hsent2 ⟨s2.net.peers, _, x, s2.meterQ, rfl⟩, hstream2⟩
  · exact ⟨hsent2, hstream2⟩

/-- A frame that is sent joins those not acknowledged. -/
theorem transmit_streams (s : State) (f : TxFrame) : sent s (transmit s f) ∧
    (streamOf (transmit s f) f.dst).1.length = (streamOf s f.dst).1.length + 1 ∧ (streamOf (transmit s f) f.dst).2 = (streamOf s f.dst).2 := by
  unfold transmit
  extract_lets p g fresh s1 s2 data s3
  have hs1 : sent s s1 ∧ (streamOf s1 f.dst).1 = p.unacked ++ [g] ∧ (streamOf s1 f.dst).2 = p.backlog := by
    have hdst : g.dst = f.dst := rfl
    refine ⟨sent_setPeer .., ?_, ?_⟩
    · unfold s1
      rw [streamOf, peerOf_setPeer, if_pos hdst.symm]
    · unfold s1
      rw [streamOf, peerOf_setPeer, if_pos hdst.symm]
  obtain ⟨hsent1, hun1, hback1⟩ := hs1
  have hs2 : sent s1 s2 ∧ streamOf s2 f.dst = streamOf s1 f.dst := by
    unfold s2
    split
    · refine ⟨sent_setPeer .., ?_⟩
      refine streamOf_setPeer s1 f.dst ?_ ?_ f.dst <;> rfl
    · exact ⟨sent_refl s1, rfl⟩
  have hs3 : sent s2 s3 ∧ streamOf s3 f.dst = streamOf s2 f.dst := by
    unfold s3
    split
    · exact ⟨sent_refl s2, rfl⟩
    · exact ⟨⟨s2.net.peers, s2.out, s2.trace, _, rfl⟩, rfl⟩
  obtain ⟨hput, hstream⟩ := putFrame_leaves s3 f.dst g
  refine ⟨sent_trans hsent1 (sent_trans hs2.1 (sent_trans hs3.1 hput)), ?_, ?_⟩
  · rw [hstream, hs3.2, hs2.2, hun1]
    exact List.length_append
  · rw [hstream, hs3.2, hs2.2, hback1]
    rfl

theorem framesToward_eq (s : State) (m : Nat) : framesToward s m = (streamOf s m).1.length + (streamOf s m).2.length := rfl

/-- What waits is sent or waits on. -/
theorem pump_streams (n : Nat) (m : Nat) : ∀ s, sent s (pump n s m) ∧ framesToward (pump n s m) m = framesToward s m := by
  induction n with
  | zero => exact fun s => ⟨sent_refl s, rfl⟩
  | succ n ih =>
    intro s
    unfold pump
    dsimp only
    split
    · exact ⟨sent_refl s, rfl⟩
    · next f rest hback =>
      split
      · obtain ⟨hsent, hun, hwait⟩ := transmit_streams (setPeer s m { peerOf s m with backlog := rest }) { f with dst := m }
        obtain ⟨hsent', hkept⟩ := ih (transmit (setPeer s m { peerOf s m with backlog := rest }) { f with dst := m })
        have hpeer : streamOf (setPeer s m { peerOf s m with backlog := rest }) m = ((peerOf s m).unacked, rest) := by
          rw [streamOf, peerOf_setPeer, if_pos rfl]
        refine ⟨sent_trans (sent_setPeer ..) (sent_trans hsent hsent'), ?_⟩
        rw [hkept, framesToward_eq, hun, hwait, hpeer, framesToward, hback, List.length_cons]
        dsimp only
        omega
      · exact ⟨sent_refl s, rfl⟩

/-- A frame handed to a stream is one more toward its member. -/
theorem sendSeq_streams (s : State) (f : TxFrame) : sent s (sendSeq s f) ∧ framesToward (sendSeq s f) f.dst = framesToward s f.dst + 1 := by
  obtain ⟨hsent, hkept⟩ := pump_streams 256 f.dst (modPeer s f.dst (fun p => { p with backlog := p.backlog ++ [f] }))
  refine ⟨sent_trans (sent_setPeer ..) hsent, ?_⟩
  rw [sendSeq, hkept, framesToward, peerOf_modPeer, if_pos rfl, framesToward]
  simp only [List.length_append, List.length_singleton]
  omega

/-- So are frames one after another. -/
theorem sendSeqs_streams {m : Nat} (fs : List TxFrame) (h : ∀ f ∈ fs, f.dst = m) : ∀ s, sent s (fs.foldl sendSeq s) ∧
    framesToward (fs.foldl sendSeq s) m = framesToward s m + fs.length := by
  induction fs with
  | nil => exact fun s => ⟨sent_refl s, rfl⟩
  | cons f fs ih =>
    intro s
    obtain rfl := h f List.mem_cons_self
    obtain ⟨hsent, hone⟩ := sendSeq_streams s f
    obtain ⟨hsent', hmore⟩ := ih (fun g hg => h g (List.mem_cons_of_mem _ hg)) (sendSeq s f)
    refine ⟨sent_trans hsent hsent', ?_⟩
    rw [List.foldl_cons, hmore, hone, List.length_cons]
    omega

/-! The descriptor at the network engine's head (R323). -/

/-- Work reaches a member that is in the pod, not quarantined, and whose entry is in use. -/
theorem reachable_iff (s : State) (m : Nat) : reachable s m = true ↔ (s.net.pod = .member ∨ s.net.pod = .managing) ∧
    (peerOf s m).member = true ∧ (peerOf s m).quarantined = false ∧ bit (reg s (0xC01010 + 0x20 * m)) 49 = true := by
  simp [reachable, peerValid, and_assoc]

/-- A NET_SEND that starts: out of its queue, its start traced. -/
def sendStarted (s : State) (a : Active) : State :=
  traceEv (modActive { s with netDQ := s.netDQ.tail } a.id fun x => { x with started := some s.time }) 0x03 a.ten (srcNum 8 2) (dTag a.raw) 0 0

/-- Only the descriptors, the engine's queue and the trace differ. -/
theorem sendStarted_eq (s : State) (a : Active) : sendStarted s a = besides s (sendStarted s a) ∧ (sendStarted s a).net = s.net ∧
    (sendStarted s a).netDQ = s.netDQ.tail ∧
    (sendStarted s a).active = (modActive s a.id fun x => { x with started := some s.time }).active := by
  obtain ⟨y, htrace⟩ := traceEv_eq (modActive { s with netDQ := s.netDQ.tail } a.id fun x => { x with started := some s.time })
    0x03 a.ten (srcNum 8 2) (dTag a.raw) 0 0
  rw [sendStarted, htrace]
  exact ⟨rfl, rfl, rfl, rfl⟩

/-- The job of a NET_SEND with a count of poisoned words. -/
def sendJob (a : Active) (poisoned : Nat) : SendJob :=
  { id := a.id, peer := bits a.raw 64 6, read := bit a.raw 72, poisoned := poisoned, done := none }

/-- A job joins those of the engine. -/
def jobAdded (s : State) (j : SendJob) : State := { s with net := { s.net with sends := s.net.sends ++ [j] } }

theorem startNet_unreachable {s : State} {a : Active} (h : reachable s (bits a.raw 64 6) = false ∨ s.net.leaving.isSome = true) :
    startNet s a = endSendJob (sendStarted s a) (sendJob a 0) .peerUnreachable := by
  obtain ⟨heq, hnet, _⟩ := sendStarted_eq s a
  have hreach : reachable (sendStarted s a) (bits a.raw 64 6) = reachable s (bits a.raw 64 6) := by
    rw [heq]
    unfold reachable peerOf besides
    rw [hnet]
    rfl
  have hcond : (!reachable (sendStarted s a) (bits a.raw 64 6) || (sendStarted s a).net.leaving.isSome) = true := by
    rw [hreach, hnet]
    rcases h with h | h <;> simp [h]
  exact if_pos hcond

end Sys2Proof.Machine

end

section
/-! The report of an end: the fault record and the entry it leaves, and the places for records that it keeps (R80, R81, R84, R175, R417, R418, R423). -/

open Sys2Proof Sys2Proof.Machine Sys2Proof.Safety

namespace Sys2Proof.Machine

/-! The tenancies that exist (R274). -/

/-- The keys of a table whose values satisfy a test. -/
def keysWhere {α : Type} (p : α → Bool) (m : SMap α) : List Nat := (m.filter (fun e => p e.2)).map (·.1)

theorem perm_minsert {α : Type} (m : SMap α) (k : Nat) (v : α) : (minsert m k v).Perm ((k, v) :: m) := by
  induction m with
  | nil => exact List.Perm.refl _
  | cons e t ih =>
    obtain ⟨k', v'⟩ := e
    unfold minsert
    split
    · exact List.Perm.refl _
    · exact (ih.cons (k', v')).trans (List.Perm.swap ..)

/-- A key whose value satisfies a test that the default fails is among those. -/
theorem mem_keysWhere {α : Type} {p : α → Bool} {d : α} (hd : p d = false) (m : SMap α) (k : Nat) (h : p (mget d m k) = true) :
    k ∈ keysWhere p m := by
  induction m with
  | nil => exact absurd (hd.symm.trans h) (by decide)
  | cons e t ih =>
    obtain ⟨k', v'⟩ := e
    unfold mget at h
    unfold keysWhere at ih ⊢
    split at h
    · next hk =>
      rw [List.filter_cons, if_pos h]
      exact hk ▸ List.mem_cons_self
    · have hrest := ih h
      rw [List.filter_cons]
      split
      · exact List.mem_cons_of_mem _ hrest
      · exact hrest

/-- A value set that satisfies the test as the one before adds no key. -/
theorem keysWhere_mset {α : Type} [DecidableEq α] {p : α → Bool} {d : α} (hd : p d = false) (m : SMap α) (k : Nat) {v : α}
    (hv : p v = p (mget d m k)) : (keysWhere p (mset d m k v)).Subperm (keysWhere p m) := by
  have hdrop : (keysWhere p (mdrop m k)).Subperm (keysWhere p m) :=
    (((List.filter_sublist (l := m)).filter _).map _).subperm
  unfold mset
  split
  · exact hdrop
  · have hperm : (keysWhere p (minsert (mdrop m k) k v)).Perm (keysWhere p ((k, v) :: mdrop m k)) := ((perm_minsert ..).filter _).map _
    refine hperm.subperm.trans ?_
    cases hpv : p v with
    | false =>
      have hskip : keysWhere p ((k, v) :: mdrop m k) = keysWhere p (mdrop m k) := by
        rw [keysWhere, List.filter_cons_of_neg (by simp [hpv])]
        rfl
      rw [hskip]
      exact hdrop
    | true =>
      have htake : keysWhere p ((k, v) :: mdrop m k) = k :: keysWhere p (mdrop m k) := by
        rw [keysWhere, List.filter_cons, if_pos hpv]
        rfl
      rw [htake]
      refine List.cons_subperm_of_not_mem_of_mem ?_ (mem_keysWhere hd m k (hv.symm.trans hpv)) hdrop
      intro hmem
      obtain ⟨e, he, hek⟩ := List.mem_map.1 hmem
      exact not_mem_mdrop m k e (List.mem_filter.1 he).1 hek

/-- A sum over part of a list is at most the sum over the whole. -/
theorem sum_le_of_subperm {l m : List Nat} (f : Nat → Nat) (h : l.Subperm m) : (l.map f).sum ≤ (m.map f).sum := by
  obtain ⟨n, hperm, hsub⟩ := h
  rw [← (hperm.map f).sum_eq]
  exact (hsub.map f).sum_le_sum fun _ _ => Nat.zero_le _

/-! Places for records (R80, R81). -/

/-- From s to u every tenancy's rings and records but its overflow stand as they were, the descriptors too; no tenancy comes to exist, and no
completion is issued. -/
structure PlacesKept (s u : State) : Prop where
  rings : ∀ t, (tenOf u t).rings = (tenOf s t).rings
  staging : ∀ t, (tenOf u t).staging = (tenOf s t).staging
  held : ∀ t, (tenOf u t).held = (tenOf s t).held
  exist : (existing u).Subperm (existing s)
  active : u.active = s.active
  writes : ∀ t, u.hostWrites.filter (isCompletion t) = s.hostWrites.filter (isCompletion t)

namespace PlacesKept

theorem trans {s u v : State} (h : PlacesKept s u) (h' : PlacesKept u v) : PlacesKept s v where
  rings t := (h'.rings t).trans (h.rings t)
  staging t := (h'.staging t).trans (h.staging t)
  held t := (h'.held t).trans (h.held t)
  exist := h'.exist.trans h.exist
  active := h'.active.trans h.active
  writes t := (h'.writes t).trans (h.writes t)

theorem refl (s : State) : PlacesKept s s := ⟨fun _ => rfl, fun _ => rfl, fun _ => rfl, List.Subperm.refl _, rfl, fun _ => rfl⟩

variable {s u : State} (h : PlacesKept s u)
include h

theorem ringRoom {t : Nat} (hroom : ringRoom s t) : ringRoom u t := by
  refine ringRoom_mono (h.rings t) (h.staging t) (h.held t) (Nat.le_of_eq ?_) (h.writes t) hroom
  unfold reservations
  rw [h.active]

theorem ringOf (t j : Nat) : ringOf u t j = ringOf s t j := by rw [Machine.ringOf, h.rings]; rfl

theorem reservations (t : Nat) : reservations u t = reservations s t := by unfold Machine.reservations; rw [h.active]

theorem cqFree (t : Nat) : cqFree u t = cqFree s t := by unfold Machine.cqFree; rw [h.ringOf, h.writes]

theorem stagingNeed (t : Nat) : stagingNeed u t = stagingNeed s t := by
  unfold Machine.stagingNeed
  rw [h.staging, h.reservations, h.cqFree]

/-- A share of staging that fits still fits. -/
theorem stagingFits {t n : Nat} (hfits : stagingFits s t n = true) : stagingFits u t n = true := by
  have hsum : ∀ (v : State) (l : List Nat), l.foldl (fun m c => m + ((if c = t then n else Machine.stagingNeed v c) - 16)) 0 =
      (l.map fun c => (if c = t then n else Machine.stagingNeed v c) - 16).sum := by
    intro v l
    rw [List.sum_eq_foldl, List.foldl_map]
  unfold Machine.stagingFits at hfits ⊢
  simp only [hsum, Bool.and_eq_true, decide_eq_true_eq] at hfits ⊢
  obtain ⟨hown, hall⟩ := hfits
  have hneed : Machine.stagingNeed u = Machine.stagingNeed s := funext h.stagingNeed
  have hless := sum_le_of_subperm (fun c => (if c = t then n else Machine.stagingNeed s c) - 16) h.exist
  have hfewer := h.exist.length_le
  rw [hneed]
  exact ⟨hown, by omega⟩

/-- A place for one more record is kept. -/
theorem canPlace {t : Nat} (hplace : canPlace s t = true) : canPlace u t = true := by
  unfold Machine.canPlace at hplace ⊢
  rw [h.ringOf]
  split
  · rfl
  · next hon =>
    rw [if_neg hon] at hplace
    simp only [Bool.and_eq_true, Bool.or_eq_true] at hplace ⊢
    rw [h.held, h.staging, h.reservations, h.cqFree, h.stagingNeed]
    exact ⟨hplace.1, hplace.2.imp id h.stagingFits⟩

end PlacesKept

/-! What a report keeps. -/

theorem placesKept_modTen (s : State) (t : Nat) {f : Tenancy → Tenancy} (hf : ∀ x, (f x).rings = x.rings ∧ (f x).staging = x.staging ∧
    (f x).held = x.held ∧ (f x).enabled = x.enabled) : PlacesKept s (modTen s t f) where
  rings c := tenOf_modTen_part s t c Tenancy.rings (hf _).1
  staging c := tenOf_modTen_part s t c Tenancy.staging (hf _).2.1
  held c := tenOf_modTen_part s t c Tenancy.held (hf _).2.2.1
  exist := keysWhere_mset (p := Tenancy.enabled) (d := Tenancy.empty) rfl s.tens t (hf _).2.2.2
  active := rfl
  writes _ := rfl

theorem placesKept_event (s : State) (t addr : Nat) (irq : Option Nat) (bytes : List Byte) (poison : List Bool) :
    PlacesKept s (hostWriteIssue s t (.event irq) addr bytes poison) where
  rings _ := rfl
  staging _ := rfl
  held _ := rfl
  exist := List.Subperm.refl _
  active := rfl
  writes c := by
    have hother : isCompletion c { id := s.nextId, ten := t, kind := .event irq, addr := addr, bytes := bytes, poison := poison, at_ := s.elapsed } =
        false := Bool.and_false _
    exact (List.filter_append ..).trans (by rw [List.filter_cons_of_neg (by simp [hother])]; exact List.append_nil _)

/-- The log and the meters hold no place. -/
theorem placesKept_still (s : State) (l : CellarLog) (q : List MeterEv) : PlacesKept s { s with log := l, meterQ := q } :=
  ⟨fun _ => rfl, fun _ => rfl, fun _ => rfl, List.Subperm.refl _, rfl, fun _ => rfl⟩

theorem placesKept_reportEndAt (s : State) (time t : Nat) (tag : BitVec 16) (st : Status) (payload : List Byte) (fault : Bool) :
    PlacesKept s (reportEndAt s time t tag st payload fault) := by
  have hlog : ∀ v, PlacesKept v (logEndAt v time t tag st false payload) := by
    intro v
    unfold logEndAt
    split
    · exact PlacesKept.refl v
    · exact placesKept_still v _ v.meterQ
  unfold reportEndAt
  refine PlacesKept.trans ?_ (hlog _)
  split
  · have hpost : PlacesKept s (postEventAt s time t 1 tag st.code payload (some (eqVector s t))) := by
      unfold postEventAt
      split
      · exact placesKept_event ..
      · exact placesKept_modTen (f := fun x => { x with eqOverflow := true }) s t fun _ => ⟨rfl, rfl, rfl, rfl⟩
    exact hpost.trans (placesKept_still _ _ _)
  · exact PlacesKept.refl s

/-! What a report leaves (R84, R417, R423). -/

theorem padTo_of_length {n : Nat} {l : List Byte} (h : l.length = n) : padTo n l = l := by
  rw [padTo, List.take_left' h]

/-- The detail of an end's entry has twelve bytes. -/
theorem length_endDetail (pay : List Byte) : (((padTo 16 pay).drop 2).take 12).length = 12 := by
  simp only [padTo, List.length_take, List.length_drop, List.length_append, List.length_replicate]
  omega

/-- A fault record with a place leaves for the event ring, and an end but OK is entered. -/
theorem reportEndAt_shows (s : State) (k : Task) (e : Ending) (fault : Bool) (pay : List Byte) :
    endReported s (reportEndAt s e.time k.ten k.tag e.status pay fault) k e fault pay := by
  have hlog : ∀ v, (logEndAt v e.time k.ten k.tag e.status false pay).hostWrites = v.hostWrites := by
    intro v
    unfold logEndAt
    split <;> rfl
  refine ⟨fun hfault hfree => ?_, fun hst => ?_⟩
  · have hwrites : (reportEndAt s e.time k.ten k.tag e.status pay fault).hostWrites =
        (hostWriteIssue s k.ten (.event (some (eqVector s k.ten))) 0 (eventBytes 1 k.tag.toNat e.status.code e.time pay) []).hostWrites := by
      rw [reportEndAt, hlog, if_pos hfault, faultRecordAt, postEventAt, if_pos hfree]
      rfl
    rw [faultWritten, hwrites]
    exact ⟨_, List.getElem?_concat_length .., rfl, rfl, rfl⟩
  · have hentry : ∀ v : State, v.log = s.log → ∃ l, mget none (logEndAt v e.time k.ten k.tag e.status false pay).log.entries (s.log.next % 65536) =
        some l ∧ l.cls = 0 ∧ l.num = e.status.code ∧ l.time = e.time ∧ l.source = leNat (pay.take 2) ∧ l.tag = some k.tag ∧
        l.ten = some k.ten ∧ l.detail = ((padTo 16 pay).drop 2).take 12 := by
      intro v hv
      have hput : mget none (logEndAt v e.time k.ten k.tag e.status false pay).log.entries (s.log.next % 65536) =
          some { time := e.time, seq := s.log.next, source := leNat (pay.take 2), cls := 0, num := e.status.code, tag := some k.tag,
                 ten := some k.ten, level := endLevel e.status false, detail := padTo 12 (((padTo 16 pay).drop 2).take 12) } := by
        rw [logEndAt, if_neg hst, logAddAt, if_pos (takes_of_class v.log v.ck (by decide) (by decide)), hv]
        simp [CellarLog.push]
      exact ⟨_, hput, rfl, rfl, rfl, rfl, rfl, rfl, padTo_of_length (length_endDetail pay)⟩
    refine hentry _ ?_
    split
    · unfold faultRecordAt postEventAt
      dsimp only
      split
      · rfl
      · rfl
    · rfl

end Sys2Proof.Machine

end

section
/-! The end of work: a unit's and a press's task, a copy, and a NET_SEND (R57, R59, R106, R225, R234, R323). -/

open Sys2Proof Sys2Proof.Machine Sys2Proof.Safety

namespace Sys2Proof.Machine

/-! The part that is left (R59). -/

theorem lastPart_congr {s u : State} {a : Active} {x : Executor} (hactive : u.active = s.active) (h : lastPart s a x) : lastPart u a x := by
  obtain ⟨ha, hrest⟩ := h
  exact ⟨by rw [activeOf, hactive]; exact ha, hrest⟩

theorem placesKept_of_same {s u : State} (htens : u.tens = s.tens) (hactive : u.active = s.active) (hwrites : u.hostWrites = s.hostWrites) :
    PlacesKept s u where
  rings t := by rw [tenOf, htens]; rfl
  staging t := by rw [tenOf, htens]; rfl
  held t := by rw [tenOf, htens]; rfl
  exist := by rw [existing, htens]; exact List.Subperm.refl _
  active := hactive
  writes t := by rw [hwrites]

/-- The last part completes its descriptor from wherever the places for records stand as they did. -/
theorem finishPart_completes_from {s u : State} {a : Active} {x : Executor} (hkept : PlacesKept s u) (h : lastPart s a x) (st : Status)
    (detail : Nat) : completes s (finishPart u a.id x st detail) a st (partDetail a st (partKey x) detail) :=
  completes_of_room hkept.ringRoom (finishPart_completes (lastPart_congr hkept.active h) st detail)

/-- A descriptor without SIGNAL_FLAG leaves at most a record, and that enters nothing. -/
theorem finishPart_quiet {s : State} {a : Active} {x : Executor} (h : lastPart s a x) (hsignal : dSignal a.raw = none) (hroom : ringRoom s a.ten)
    (st : Status) (detail : Nat) : (∃ H, (finishPart s a.id x st detail).hostWrites = s.hostWrites ++ H) ∧
      (st ≠ .ok → (finishPart s a.id x st detail).log = s.log) := by
  obtain ⟨hwrites, hlog, hkept⟩ := closedDesc_quiet (s := s) (a := notePart a x st detail) hsignal x st a.ten
  rw [finishPart_eq h]
  refine ⟨?_, fun hst => ?_⟩
  · obtain ⟨T, H, n, l, q, hdue⟩ := recordsDue_finishDesc s (notePart a x st detail) x st (partDetail a st (partKey x) detail)
    exact ⟨H, by rw [hdue, ← hwrites]⟩
  · have hrecord : ¬(st = .ok && dFlag (notePart a x st detail).raw 1) = true := by simp [hst]
    have hroom' : ringRoom (closedDesc s (notePart a x st detail) x st) (notePart a x st detail).ten := hkept hroom
    rw [finishDesc_eq, if_neg hrecord, postRecord_of_ringRoom hroom']
    exact hlog

/-! A NET_SEND that is over (R323). -/

/-- The engine with a job taken out. -/
def sendGone (s : State) (i : Nat) : State := { s with net := { s.net with sends := s.net.sends.filter (fun k => k.id != i) } }

/-- The end of a NET_SEND reported. -/
def sendReported (s : State) (a : Active) (j : SendJob) (st : Status) : State :=
  reportEnd (sendGone s j.id) a.ten (dTag a.raw) st
    (genericPayload (srcNum 8 2) (dOp a.raw) (srcId a.src) (if st = .peerUnreachable then j.peer else 0) (a.started.getD 0)) st.faults

theorem sendReported_leaves (s : State) (a : Active) (j : SendJob) (st : Status) : PlacesKept s (sendReported s a j st) ∧
    (sendReported s a j st).net = (sendGone s j.id).net := by
  refine ⟨(placesKept_of_same (s := s) (u := sendGone s j.id) rfl rfl rfl).trans (placesKept_reportEndAt ..), ?_⟩
  obtain ⟨T, H, n, l, q, hdue⟩ := recordsDue_reportEndAt (sendGone s j.id) (sendGone s j.id).time a.ten (dTag a.raw) st
    (genericPayload (srcNum 8 2) (dOp a.raw) (srcId a.src) (if st = .peerUnreachable then j.peer else 0) (a.started.getD 0)) st.faults
  rw [sendReported, reportEnd, hdue]

theorem endSendJob_eq {s : State} {a : Active} {j : SendJob} (ha : activeOf s a.id = some a) (hj : j.id = a.id) (st : Status) :
    endSendJob s j st = finishPart (sendReported s a j st) a.id .net st (min (2 ^ 32 - 1) j.poisoned) := by
  simp only [endSendJob]
  split
  · next hnone =>
    rw [hj] at hnone
    exact absurd (ha.symm.trans hnone) (Option.some_ne_none a)
  · next b hb =>
    rw [hj] at hb
    obtain rfl : b = a := Option.some.inj (hb.symm.trans ha)
    rw [← hj]
    rfl

/-- The end of a NET_SEND takes it from the engine and completes it. -/
theorem endSendJob_completes {s : State} {a : Active} {j : SendJob} (h : lastPart s a .net) (hj : j.id = a.id) (st : Status) :
    (endSendJob s j st).net.sends = s.net.sends.filter (fun k => k.id != j.id) ∧
      completes s (endSendJob s j st) a st (partDetail a st 0 (min (2 ^ 32 - 1) j.poisoned)) := by
  obtain ⟨hkept, hnet⟩ := sendReported_leaves s a j st
  rw [endSendJob_eq h.1 hj]
  exact ⟨(Undisturbed.finishPart ..).sends.trans (congrArg Net.sends hnet), finishPart_completes_from hkept h ..⟩

/-- The engine's oldest send that is over completes. -/
theorem completeSend_completes {s : State} {j : SendJob} {a : Active} (hfirst : s.net.sends.find? (fun j => j.done.isSome) = some j)
    (h : lastPart s a .net) (hj : j.id = a.id) :
    (completeSend s).net.sends = s.net.sends.filter (fun k => k.id != j.id) ∧
      completes s (completeSend s) a (j.done.getD .ok) (partDetail a (j.done.getD .ok) 0 (min (2 ^ 32 - 1) j.poisoned)) := by
  rw [completeSend, hfirst]
  exact endSendJob_completes h hj _

/-! A copy that is over (R225, R227). -/

/-- A copy whose steps are all done completes with the bytes written. -/
theorem completeCopy_completes {s : State} {e : BitVec 2} {j : CopyJob} {a : Active} (hjob : (decantOf s e.toNat).job = some j)
    (hended : (decantOf s e.toNat).ended = none) (h : lastPart s a (.decant e)) (hj : j.id = a.id) (hsteps : (copyOf a.raw).steps s ≤ j.next) :
    (decantOf (completeCopy s e) e.toNat).job = none ∧ completes s (completeCopy s e) a .ok (min (2 ^ 32 - 1) j.bytes) := by
  obtain ⟨ha, _⟩ := id h
  let u := setDecant s e.toNat { decantOf s e.toNat with job := none, ended := none }
  have heq : completeCopy s e = finishPart u a.id (.decant e) .ok (min (2 ^ 32 - 1) j.bytes) := by
    have hjobOf : jobOf s e = some (j, a) := by simp [jobOf, hjob, hended, hj, ha]
    simp [completeCopy, hjobOf, Nat.sub_eq_zero_of_le hsteps, idleSteps, finishCopy, hjob, hj, ha, hsteps, hended]
    rfl
  have hkept : PlacesKept s u := placesKept_of_same rfl rfl rfl
  have hdecant : decantOf u e.toNat = { decantOf s e.toNat with job := none, ended := none } := (decantOf_setDecant ..).trans (if_pos rfl)
  have hdetail : partDetail a .ok (partKey (.decant e)) (min (2 ^ 32 - 1) j.bytes) = min (2 ^ 32 - 1) j.bytes := by simp [partDetail]
  have hdone := finishPart_completes_from hkept h .ok (min (2 ^ 32 - 1) j.bytes)
  rw [hdetail] at hdone
  rw [heq]
  refine ⟨?_, hdone⟩
  rw [decantOf, (Undisturbed.finishPart ..).decants]
  exact congrArg Decant.job hdecant

/-! The end of a task reaches the M-die (R175, R418). -/

/-- An end of an earlier cycle is entered, and no time passes. -/
theorem endCycleOver_past {s : State} {x : CoreId} {e : Ending} (hended : (procOf s x).ended = some e) (hck : e.ck ≠ s.ck) :
    endCycleOver s x = s := by
  rw [endCycleOver, hended]
  exact if_neg hck

section
variable {s : State} {x : CoreId} {k : Task} {e : Ending} (htask : (procOf s x).task = some k) (hended : (procOf s x).ended = some e)
include htask hended

/-- An end that has nothing to report, or whose report is entered. -/
theorem noteEnd_cases : (e.report = none → noteEnd s x = s) ∧ ∀ fault pay, e.report = some (fault, pay) →
    noteEnd s x = modProc (reportEndAt s e.time k.ten k.tag e.status pay fault) x (fun p => { p with ended := some { e with report := none } }) := by
  unfold noteEnd
  rw [htask, hended]
  exact ⟨fun h => by simp only [h], fun fault pay h => by simp only [h]⟩

/-- Once it has reached the M-die a task's end has nothing left to report; all else of its core stands, and so do the places for records. -/
theorem noteEnd_leaves : procOf (noteEnd s x) x = { procOf s x with ended := some { e with report := none } } ∧ PlacesKept s (noteEnd s x) ∧
    (noteEnd s x).sync = s.sync := by
  obtain ⟨hnone, hsome⟩ := noteEnd_cases htask hended
  cases hreport : e.report with
  | none =>
    have hsame : { e with report := none } = e := by rw [← hreport]
    rw [hnone hreport, hsame, ← hended]
    exact ⟨rfl, PlacesKept.refl s, rfl⟩
  | some r =>
    obtain ⟨fault, pay⟩ := r
    rw [hsome fault pay hreport]
    obtain ⟨T, H, n, l, q, hdue⟩ := recordsDue_reportEndAt s e.time k.ten k.tag e.status pay fault
    have hproc : procOf (reportEndAt s e.time k.ten k.tag e.status pay fault) x = procOf s x := by
      rw [hdue]
      cases x <;> rfl
    obtain ⟨hsync, hactive⟩ := modProc_leaves (reportEndAt s e.time k.ten k.tag e.status pay fault) x
      fun p => { p with ended := some { e with report := none } }
    refine ⟨?_, (placesKept_reportEndAt ..).trans (placesKept_of_same ?_ hactive ?_), ?_⟩
    · rw [procOf_modProc_self, hproc]
    · cases x <;> rfl
    · cases x <;> rfl
    · rw [hsync, hdue]

end

/-- What is written and entered of an end stays where later work adds writes behind it and enters nothing. -/
theorem endReported_mono {s u t : State} {k : Task} {e : Ending} {fault : Bool} {pay : List Byte} (h : endReported s u k e fault pay)
    (hwrites : ∃ H, t.hostWrites = u.hostWrites ++ H) (hlog : e.status ≠ .ok → t.log = u.log) : endReported s t k e fault pay := by
  obtain ⟨H, hwrites⟩ := hwrites
  obtain ⟨hfault, hentry⟩ := h
  refine ⟨fun hf hfree => ?_, fun hst => ?_⟩
  · obtain ⟨w, hw, hshow⟩ := hfault hf hfree
    refine ⟨w, ?_, hshow⟩
    rw [hwrites, List.getElem?_append_left (List.getElem?_eq_some_iff.1 hw).1, hw]
  · rw [hlog hst]
    exact hentry hst

/-! A unit's task (R106, R439). -/

theorem enterState_leaves (s : State) (b : Nat) (st : UnitState) : (enterState s b st).tens = s.tens ∧ (enterState s b st).active = s.active ∧
    (enterState s b st).hostWrites = s.hostWrites ∧ (enterState s b st).log = s.log := by
  unfold enterState
  have hrun : (settleRun s b).tens = s.tens ∧ (settleRun s b).active = s.active ∧ (settleRun s b).hostWrites = s.hostWrites ∧
      (settleRun s b).log = s.log := by
    unfold settleRun
    dsimp only
    split
    · split
      · split <;> exact ⟨rfl, rfl, rfl, rfl⟩
      · exact ⟨rfl, rfl, rfl, rfl⟩
    · exact ⟨rfl, rfl, rfl, rfl⟩
  exact hrun

/-- A unit that enters a state keeps its history. -/
theorem unitOf_enterState (s : State) (b : Nat) (st : UnitState) : (unitOf (enterState s b st) b).st = st ∧
    (unitOf (enterState s b st) b).history = (unitOf s b).history := by
  have hset : ∀ v u, unitOf (setUnit v b u) b = u := fun _ _ => (unitOf_setUnit ..).trans (if_pos rfl)
  have hmeter : ∀ v t m n p, unitOf (meter v t m n p) b = unitOf v b := fun _ _ _ _ _ => rfl
  have hrun : (unitOf (settleRun s b) b).history = (unitOf s b).history := by
    unfold settleRun
    dsimp only
    split
    · split
      · split
        · rw [hset]
        · rw [hmeter, hset]
      · rw [hset]
    · rfl
  rw [enterState, modUnit, hset]
  exact ⟨rfl, hrun⟩

end Sys2Proof.Machine

end

section
/-! The report of a task that has ended: the unit is IDLE, or the press free, its descriptor completes, and its end is reported (R106, R234, R418,
R439). -/

open Sys2Proof Sys2Proof.Machine Sys2Proof.Safety

namespace Sys2Proof.Machine

/-- The end of a last part is reported as the state it sets out from reported it. -/
theorem endReported_finishPart {s u : State} {a : Active} {x : Executor} {k : Task} {e : Ending} {fault : Bool} {pay : List Byte}
    (h : endReported s u k e fault pay) (hlast : lastPart u a x) (hsignal : dSignal a.raw = none) (hroom : ringRoom u a.ten) (detail : Nat) :
    endReported s (finishPart u a.id x e.status detail) k e fault pay := by
  obtain ⟨hwrites, hlog⟩ := finishPart_quiet hlast hsignal hroom e.status detail
  exact endReported_mono h hwrites hlog

/-- Where an end is entered it is reported. -/
theorem endReported_noteEnd {s : State} {x : CoreId} {k : Task} {e : Ending} (htask : (procOf s x).task = some k)
    (hended : (procOf s x).ended = some e) {fault : Bool} {pay : List Byte} (hreport : e.report = some (fault, pay)) :
    endReported s (noteEnd s x) k e fault pay := by
  rw [(noteEnd_cases htask hended).2 fault pay hreport]
  refine endReported_mono (reportEndAt_shows s k e fault pay) ⟨[], ?_⟩ fun _ => ?_
  · rw [List.append_nil]
    cases x <;> rfl
  · cases x <;> rfl

/-! A unit's task. -/

section
variable {s : State} {b : BitVec 12} {k : Task} {e : Ending} (htask : (procOf s (.unit b)).task = some k)
  (hended : (procOf s (.unit b)).ended = some e)
include htask hended

/-- A unit whose task's end has reached the M-die. -/
theorem unitOf_noteEnd : unitOf (noteEnd s (.unit b)) b.toNat =
    { unitOf s b.toNat with proc := { (unitOf s b.toNat).proc with ended := some { e with report := none } } } := by
  obtain ⟨hnone, hsome⟩ := noteEnd_cases htask hended
  cases hreport : e.report with
  | none =>
    have hsame : { e with report := none } = e := by rw [← hreport]
    have hkeep : { unitOf s b.toNat with proc := { (unitOf s b.toNat).proc with ended := some e } } = unitOf s b.toNat := by
      have hend : (unitOf s b.toNat).proc.ended = some e := hended
      rw [← hend]
    rw [hnone hreport, hsame, hkeep]
  | some r =>
    obtain ⟨fault, pay⟩ := r
    obtain ⟨T, H, n, l, q, hdue⟩ := recordsDue_reportEndAt s e.time k.ten k.tag e.status pay fault
    rw [hsome fault pay hreport, hdue]
    exact (unitOf_setUnit ..).trans (if_pos rfl)

end

/-- The record of a task in its unit's history. -/
def taskRec (p : Proc) (k : Task) (e : Ending) : TaskRec :=
  { tag := k.tag, status := e.status, cask := p.live, pc := p.pc % 2048, startT := k.startT % 2 ^ 32, endT := e.time % 2 ^ 32 }

/-- A unit freed of its task, which is first in its history. -/
def unitFreed (r : TaskRec) (u : BankUnit) : BankUnit :=
  { u with history := (r :: u.history).take 4, stream := none, proc := { u.proc with task := none, ended := none } }

/-- A unit whose task's end has been reported: IDLE, and free. -/
def unitDone (s : State) (b : BitVec 12) (k : Task) (e : Ending) : State :=
  traceEnd (modUnit (enterState (noteEnd s (.unit b)) b.toNat .idle) b.toNat (unitFreed (taskRec (unitOf s b.toNat).proc k e))) (.unit b) k e.status

section
variable {s : State} {b : BitVec 12} {k : Task} {e : Ending} {a : Active} (htask : (procOf s (.unit b)).task = some k)
  (hended : (procOf s (.unit b)).ended = some e) (hck : e.ck ≠ s.ck) (ha : activeOf s a.id = some a) (hid : k.id = a.id)
include htask hended hck ha hid

/-- With nothing left to write or to judge, and a place for its record, the task's part ends. -/
theorem reportUnit_ends (hwq : (unitOf s b.toNat).wq = []) (harrivals : ∀ q ∈ s.sync.arrivals, q.unit ≠ b.toNat)
    (hplace : canPlace s k.ten = true) : reportUnit s b = finishPart (unitDone s b k e) a.id (.unit b) e.status e.detail := by
  obtain ⟨_, hkept, hsync⟩ := noteEnd_leaves htask hended
  have hunit := unitOf_noteEnd htask hended
  have htask' : (unitOf s b.toNat).proc.task = some k := htask
  have hactive : activeOf (noteEnd s (.unit b)) a.id = some a := by rw [activeOf, hkept.active]; exact ha
  have hjudged : (noteEnd s (.unit b)).sync.arrivals.any (fun q => q.unit == b.toNat) = false := by
    rw [hsync, List.any_eq_false]
    exact fun q hq => by simpa using harrivals q hq
  unfold reportUnit
  rw [endCycleOver_past hended hck]
  simp only [hunit, htask', hid, hactive, hwq, hjudged, hkept.canPlace hplace]
  simp only [List.isEmpty_nil, Bool.not_true, Bool.and_false, Bool.or_false, Bool.false_eq_true, if_false]
  rfl

/-- Until then nothing changes. -/
theorem reportUnit_waits (hreport : e.report = none)
    (hwait : (unitOf s b.toNat).wq ≠ [] ∨ ∃ q ∈ s.sync.arrivals, q.unit = b.toNat) : reportUnit s b = s := by
  have htask' : (unitOf s b.toNat).proc.task = some k := htask
  have hended' : (unitOf s b.toNat).proc.ended = some e := hended
  have hcond : (!(unitOf s b.toNat).wq.isEmpty || s.sync.arrivals.any (fun q => q.unit == b.toNat) ||
      (needsPlace a (.unit b) e.status && !canPlace s k.ten)) = true := by
    rcases hwait with hwq | ⟨q, hq, hqb⟩
    · simp [hwq]
    · have hany : s.sync.arrivals.any (fun q => q.unit == b.toNat) = true := List.any_eq_true.2 ⟨q, hq, by simpa using hqb⟩
      simp [hany]
  unfold reportUnit
  rw [endCycleOver_past hended hck, (noteEnd_cases htask hended).1 hreport]
  simp only [htask', hended', hid, ha]
  exact if_pos hcond

end

section
variable {s : State} {b : BitVec 12} {k : Task} {e : Ending} (htask : (procOf s (.unit b)).task = some k)
  (hended : (procOf s (.unit b)).ended = some e)
include htask hended

/-- What a unit whose task's end has been reported shows, and what it keeps. -/
theorem unitDone_shows : unitEnds (unitDone s b k e) b.toNat =
      (.idle, (taskRec (unitOf s b.toNat).proc k e :: (unitOf s b.toNat).history).take 4, none, none) ∧
    PlacesKept s (unitDone s b k e) ∧ (unitDone s b k e).hostWrites = (noteEnd s (.unit b)).hostWrites ∧
    (unitDone s b k e).log = (noteEnd s (.unit b)).log := by
  obtain ⟨_, hkept, _⟩ := noteEnd_leaves htask hended
  have hunit := unitOf_noteEnd htask hended
  obtain ⟨htens, hactive, hwrites, hlog⟩ := enterState_leaves (noteEnd s (.unit b)) b.toNat .idle
  obtain ⟨hst, hhistory⟩ := unitOf_enterState (noteEnd s (.unit b)) b.toNat .idle
  rw [hunit] at hhistory
  obtain ⟨y, htrace⟩ := traceEv_eq
    (modUnit (enterState (noteEnd s (.unit b)) b.toNat .idle) b.toNat (unitFreed (taskRec (unitOf s b.toNat).proc k e)))
    0x06 k.ten (srcNum 1 b.toNat) k.tag e.status.code e.status.code
  have hmod : ∀ (v : State) (f : BankUnit → BankUnit), (modUnit v b.toNat f).tens = v.tens ∧ (modUnit v b.toNat f).active = v.active ∧
      (modUnit v b.toNat f).hostWrites = v.hostWrites ∧ (modUnit v b.toNat f).log = v.log := fun _ _ => ⟨rfl, rfl, rfl, rfl⟩
  obtain ⟨hmtens, hmactive, hmwrites, hmlog⟩ := hmod (enterState (noteEnd s (.unit b)) b.toNat .idle)
    (unitFreed (taskRec (unitOf s b.toNat).proc k e))
  rw [unitDone, traceEnd, htrace]
  refine ⟨?_, hkept.trans (placesKept_of_same (hmtens.trans htens) (hmactive.trans hactive) (hmwrites.trans hwrites)),
    hmwrites.trans hwrites, hmlog.trans hlog⟩
  have hset : ∀ (v : State) (f : BankUnit → BankUnit), unitOf { modUnit v b.toNat f with trace := y } b.toNat = f (unitOf v b.toNat) := fun v f =>
    (unitOf_setUnit ..).trans (if_pos rfl)
  rw [unitEnds, hset]
  unfold unitFreed
  dsimp only
  rw [hst, hhistory]

end

/-! A press's task. -/

/-- A press whose task's end has been reported: free. -/
def pressDone (s : State) (x : BitVec 4) (k : Task) : State :=
  modPress (chargePress (noteEnd s (.press x)) x.toNat k) x.toNat fun p => { p with proc := { p.proc with task := none, ended := none } }

section
variable {s : State} {x : BitVec 4} {k : Task} {e : Ending} (htask : (procOf s (.press x)).task = some k)
  (hended : (procOf s (.press x)).ended = some e)
include htask hended

/-- A press whose task's end has reached the M-die. -/
theorem pressOf_noteEnd : pressOf (noteEnd s (.press x)) x.toNat =
    { pressOf s x.toNat with proc := { (pressOf s x.toNat).proc with ended := some { e with report := none } } } := by
  obtain ⟨hnone, hsome⟩ := noteEnd_cases htask hended
  cases hreport : e.report with
  | none =>
    have hsame : { e with report := none } = e := by rw [← hreport]
    have hkeep : { pressOf s x.toNat with proc := { (pressOf s x.toNat).proc with ended := some e } } = pressOf s x.toNat := by
      have hend : (pressOf s x.toNat).proc.ended = some e := hended
      rw [← hend]
    rw [hnone hreport, hsame, hkeep]
  | some r =>
    obtain ⟨fault, pay⟩ := r
    obtain ⟨T, H, n, l, q, hdue⟩ := recordsDue_reportEndAt s e.time k.ten k.tag e.status pay fault
    rw [hsome fault pay hreport, hdue]
    exact (pressOf_setPress ..).trans (if_pos rfl)

/-- What a press whose task's end has been reported shows, and what it keeps. -/
theorem pressDone_shows : pressEnds (pressDone s x k) x.toNat = (none, none) ∧ PlacesKept s (pressDone s x k) ∧
    (pressDone s x k).hostWrites = (noteEnd s (.press x)).hostWrites ∧ (pressDone s x k).log = (noteEnd s (.press x)).log := by
  obtain ⟨_, hkept, _⟩ := noteEnd_leaves htask hended
  have hcharge : ∀ v : State, (chargePress v x.toNat k).tens = v.tens ∧ (chargePress v x.toNat k).active = v.active ∧
      (chargePress v x.toNat k).hostWrites = v.hostWrites ∧ (chargePress v x.toNat k).log = v.log := by
    intro v
    unfold chargePress
    dsimp only
    split <;> exact ⟨rfl, rfl, rfl, rfl⟩
  obtain ⟨htens, hactive, hwrites, hlog⟩ := hcharge (noteEnd s (.press x))
  refine ⟨?_, hkept.trans (placesKept_of_same htens hactive hwrites), hwrites, hlog⟩
  have hset : ∀ (v : State) (f : Press → Press), pressOf (modPress v x.toNat f) x.toNat = f (pressOf v x.toNat) := fun v f =>
    (pressOf_setPress ..).trans (if_pos rfl)
  rw [pressEnds, pressDone, hset]

variable {a : Active} (hck : e.ck ≠ s.ck) (ha : activeOf s a.id = some a) (hid : k.id = a.id)
include hck ha hid

/-- With its host writes committed and a place for its record, the task's part ends. -/
theorem reportPress_ends (hpending : (pressOf s x.toNat).hostPending = 0) (hplace : canPlace s k.ten = true) :
    reportPress s x = finishPart (pressDone s x k) a.id (.press x) e.status e.detail := by
  obtain ⟨_, hkept, _⟩ := noteEnd_leaves htask hended
  have hpress := pressOf_noteEnd htask hended
  have htask' : (pressOf s x.toNat).proc.task = some k := htask
  have hactive : activeOf (noteEnd s (.press x)) a.id = some a := by rw [activeOf, hkept.active]; exact ha
  unfold reportPress
  rw [endCycleOver_past hended hck]
  simp only [hpress, htask', hid, hactive, hpending, hkept.canPlace hplace]
  simp only [ne_eq, not_true_eq_false, Bool.not_true, Bool.and_false, Bool.false_eq_true, or_self, if_false]
  rfl

/-- Until then nothing changes. -/
theorem reportPress_waits (hreport : e.report = none) (hpending : (pressOf s x.toNat).hostPending ≠ 0) : reportPress s x = s := by
  have htask' : (pressOf s x.toNat).proc.task = some k := htask
  have hended' : (pressOf s x.toNat).proc.ended = some e := hended
  unfold reportPress
  rw [endCycleOver_past hended hck, (noteEnd_cases htask hended).1 hreport]
  simp only [htask', hended', hid, ha]
  exact if_pos (.inl hpending)

end

end Sys2Proof.Machine

end

section
/-! What a NET_SEND at the engine's head makes of a member out of reach, a READ and a WRITE (R310, R323). -/

open Sys2Proof Sys2Proof.Machine Sys2Proof.Safety

namespace Sys2Proof.Machine

/-- A change of a descriptor that leaves its tenancy and its reservation leaves the reservations. -/
theorem reservations_modActive {s : State} {i : Nat} {f : Active → Active} (hf : ∀ a, (f a).ten = a.ten ∧ (f a).reserved = a.reserved) (t : Nat) :
    reservations (modActive s i f) t = reservations s t := by
  unfold reservations modActive
  dsimp only
  rw [List.filter_map, List.length_map]
  refine congrArg List.length (List.filter_congr fun a _ => ?_)
  simp only [Function.comp_apply]
  split
  · rw [(hf a).1, (hf a).2]
  · rfl

/-- A NET_SEND that has started is held as before, but for its start. -/
theorem lastPart_sendStarted {s : State} {a : Active} (h : lastPart s a .net) :
    lastPart (sendStarted s a) { a with started := some s.time } .net := by
  obtain ⟨ha, hrest⟩ := h
  obtain ⟨_, _, _, hactive⟩ := sendStarted_eq s a
  refine ⟨?_, hrest⟩
  have hown := activeOf_modActive (s := s) (i := a.id) (f := fun x => { x with started := some s.time }) fun _ => rfl
  rw [activeOf, hactive]
  exact hown.trans (by rw [ha]; rfl)

theorem ringRoom_sendStarted {s : State} (a : Active) {t : Nat} (h : ringRoom s t) : ringRoom (sendStarted s a) t := by
  obtain ⟨heq, _, _, hactive⟩ := sendStarted_eq s a
  rw [heq]
  refine ringRoom_mono (s := s) rfl rfl rfl (Nat.le_of_eq ?_) rfl h
  rw [← reservations_modActive (s := s) (i := a.id) (f := fun x => { x with started := some s.time }) (fun _ => ⟨rfl, rfl⟩) t]
  unfold reservations besides
  rw [hactive]

/-- A member out of reach ends it. -/
theorem startNet_unreachable_completes {s : State} {a : Active}
    (h : reachable s (bits a.raw 64 6) = false ∨ s.net.leaving.isSome = true) (hlast : lastPart s a .net) :
    completes s (startNet s a) a .peerUnreachable (partDetail a .peerUnreachable 0 0) := by
  rw [startNet_unreachable h]
  exact completes_of_room (ringRoom_sendStarted a)
    (endSendJob_completes (j := sendJob a 0) (lastPart_sendStarted hlast) rfl .peerUnreachable).2

/-! The frames of a NET_SEND. -/

/-- The READ that a NET_SEND sends. -/
def askFrame (a : Active) : TxFrame :=
  { mkFrame 5 (bits a.raw 64 6) a.ten (dTag a.raw) 0 (leBytes 18 (dfield a.raw 14 18) ++ leBytes 14 0) [] with send := some a.id }

/-- The SET of RSIGNAL that follows its WRITE. -/
def signalFrame (a : Active) : TxFrame :=
  { mkFrame 6 (bits a.raw 64 6) a.ten (dTag a.raw) (flagParam (dfield a.raw 12 2) 1 false 0xFFFF) [] [] with send := some a.id }

/-- The WRITE frames of its data, sent from a state. -/
def dataFrames (s : State) (a : Active) (bs : List (Byte × Bool)) : List TxFrame :=
  writeFrames s (bits a.raw 64 6) a.ten (dTag a.raw) (bits a.raw 120 6) (dfield a.raw 22 6 % 2 ^ 34) (dfield a.raw 22 6 / 2 ^ 34) bs false (some a.id)

/-- The bytes that its WRITE carries, and the state that read them. -/
def sendRead (s : State) (a : Active) : Except Status (List (Byte × Bool)) × State :=
  regionRead s (netReader a) (bits a.raw 112 6) (placeOf (dfield a.raw 16 6)).bank (placeOf (dfield a.raw 16 6)).off (dfield a.raw 28 4)

/-- A state that has sent them, with the SET of RSIGNAL if there is one. -/
def dataSent (s : State) (a : Active) (bs : List (Byte × Bool)) : State :=
  if bit a.raw 80 then sendSeq ((dataFrames s a bs).foldl sendSeq s) (signalFrame a) else (dataFrames s a bs).foldl sendSeq s

theorem reachable_sendStarted (s : State) (a : Active) (m : Nat) : reachable (sendStarted s a) m = reachable s m := by
  obtain ⟨heq, hnet, _⟩ := sendStarted_eq s a
  rw [heq]
  unfold reachable peerOf besides
  rw [hnet]
  rfl

section
variable {s : State} {a : Active} (hreach : reachable s (bits a.raw 64 6) = true) (hstays : s.net.leaving = none)
include hreach hstays

theorem startNet_open : (!reachable (sendStarted s a) (bits a.raw 64 6) || (sendStarted s a).net.leaving.isSome) = false := by
  obtain ⟨_, hnet, _⟩ := sendStarted_eq s a
  rw [reachable_sendStarted, hnet, hreach, hstays]
  rfl

/-- A READ is sent. -/
theorem startNet_read (hread : bit a.raw 72 = true) : startNet s a = sendSeq (jobAdded (sendStarted s a) (sendJob a 0)) (askFrame a) := by
  have hopen := startNet_open hreach hstays
  unfold sendStarted at hopen
  unfold startNet
  simp only [hopen, hread, Bool.false_eq_true, if_false, if_true]
  unfold jobAdded sendJob sendStarted askFrame
  rw [hread]

/-- The data of a WRITE is read and sent. -/
theorem startNet_write (hwrite : bit a.raw 72 = false) {bs : List (Byte × Bool)} (hbs : (sendRead (sendStarted s a) a).1 = .ok bs) :
    ∃ ls, startNet s a = dataSent (jobAdded (engineSlots (sendRead (sendStarted s a) a).2 false a.ten ls)
      (sendJob a ((wordMarks bs).filter id).length)) a bs := by
  have hopen := startNet_open hreach hstays
  refine ⟨locateAll (sendStarted s a) (regionOf (sendStarted s a) (bits a.raw 112 6)) false (placeOf (dfield a.raw 16 6)).bank
    (placeOf (dfield a.raw 16 6)).off (dfield a.raw 28 4), ?_⟩
  have hpair : sendRead (sendStarted s a) a = (.ok bs, (sendRead (sendStarted s a) a).2) := Prod.ext hbs rfl
  generalize (sendRead (sendStarted s a) a).2 = r at hpair ⊢
  unfold sendStarted at hopen
  unfold sendRead sendStarted at hpair
  unfold startNet
  simp only [hopen, hwrite, Bool.false_eq_true, if_false, hpair]
  unfold jobAdded sendJob sendStarted dataSent dataFrames signalFrame
  rw [hwrite]

end

/-! What has been sent (R310, R314, R323). -/

theorem framesToward_congr {s u : State} (h : u.net.peers = s.net.peers) (m : Nat) : framesToward u m = framesToward s m := by
  unfold framesToward peerOf
  rw [h]

theorem of_sent {s t : State} (h : sent s t) : t.net.sends = s.net.sends ∧ t.netDQ = s.netDQ := by
  obtain ⟨P, o, x, q, rfl⟩ := h
  exact ⟨rfl, rfl⟩

/-- A READ adds its job and one frame. -/
theorem startNet_read_shows {s : State} {a : Active} (hreach : reachable s (bits a.raw 64 6) = true) (hstays : s.net.leaving = none)
    (hread : bit a.raw 72 = true) : (startNet s a).net.sends = s.net.sends ++ [sendJob a 0] ∧ (startNet s a).netDQ = s.netDQ.tail ∧
      framesToward (startNet s a) (bits a.raw 64 6) = framesToward s (bits a.raw 64 6) + 1 := by
  obtain ⟨_, hnet, hqueue, _⟩ := sendStarted_eq s a
  obtain ⟨hsent, hmore⟩ := sendSeq_streams (jobAdded (sendStarted s a) (sendJob a 0)) (askFrame a)
  obtain ⟨hsends, hsentq⟩ := of_sent hsent
  have hadded : (jobAdded (sendStarted s a) (sendJob a 0)).net.sends = s.net.sends ++ [sendJob a 0] :=
    congrArg (fun n : Net => n.sends ++ [sendJob a 0]) hnet
  have hsame : framesToward (jobAdded (sendStarted s a) (sendJob a 0)) (bits a.raw 64 6) = framesToward s (bits a.raw 64 6) :=
    framesToward_congr (congrArg Net.peers hnet) _
  rw [startNet_read hreach hstays hread]
  exact ⟨hsends.trans hadded, hsentq.trans hqueue, hmore.trans (congrArg (· + 1) hsame)⟩

/-- The data is what the state before the start reads; the read leaves the network, the engine's queue and the setup registers. -/
theorem sendRead_sendStarted (s : State) (a : Active) : (sendRead (sendStarted s a) a).1 = (sendRead s a).1 ∧
    (sendRead (sendStarted s a) a).2.net = s.net ∧ (sendRead (sendStarted s a) a).2.netDQ = s.netDQ.tail ∧
    (sendRead (sendStarted s a) a).2.bar = s.bar := by
  obtain ⟨heq, hnet, hqueue, _⟩ := sendStarted_eq s a
  have hread := regionRead_besides s (sendStarted s a) (netReader a) (bits a.raw 112 6) (placeOf (dfield a.raw 16 6)).bank
    (placeOf (dfield a.raw 16 6)).off (dfield a.raw 28 4)
  rw [← heq] at hread
  rw [sendRead, hread]
  exact ⟨rfl, hnet, hqueue, bar_regionRead ..⟩

/-- The WRITE frames of a message go to its member, one to each piece. -/
theorem dataFrames_shows (s : State) (a : Active) (bs : List (Byte × Bool)) :
    (∀ f ∈ dataFrames s a bs, f.dst = bits a.raw 64 6) ∧ (dataFrames s a bs).length = ceilDiv bs.length (mtu s) := by
  refine ⟨fun f hf => ?_, ?_⟩
  · obtain ⟨i, _, rfl⟩ := List.mem_map.1 hf
    rfl
  · exact (List.length_map _).trans List.length_range

/-- Its data leaves by the frames of its pieces, and the SET of RSIGNAL behind them. -/
theorem dataSent_streams (s : State) (a : Active) (bs : List (Byte × Bool)) : sent s (dataSent s a bs) ∧
    framesToward (dataSent s a bs) (bits a.raw 64 6) =
      framesToward s (bits a.raw 64 6) + ceilDiv bs.length (mtu s) + (if bit a.raw 80 then 1 else 0) := by
  obtain ⟨hdst, hlength⟩ := dataFrames_shows s a bs
  obtain ⟨hsent, hmore⟩ := sendSeqs_streams (dataFrames s a bs) hdst s
  rw [hlength] at hmore
  unfold dataSent
  split
  · obtain ⟨hsent', hone⟩ := sendSeq_streams ((dataFrames s a bs).foldl sendSeq s) (signalFrame a)
    exact ⟨sent_trans hsent hsent', hone.trans (congrArg (· + 1) hmore)⟩
  · exact ⟨hsent, hmore⟩

/-- Bytes without a mark make words without one. -/
theorem wordMarks_clean {bs : List (Byte × Bool)} (h : bs.all (fun q => !q.2) = true) : ((wordMarks bs).filter id).length = 0 := by
  rw [List.length_eq_zero_iff, List.filter_eq_nil_iff]
  intro p hp
  obtain ⟨k, _, rfl⟩ := List.mem_map.1 hp
  simp only [id_eq, Bool.not_eq_true, List.any_eq_false]
  intro q hq
  simpa using List.all_eq_true.1 h q (List.mem_of_mem_drop (List.mem_of_mem_take hq))

/-- A WRITE adds its job and its frames. -/
theorem startNet_write_shows {s : State} {a : Active} (hreach : reachable s (bits a.raw 64 6) = true) (hstays : s.net.leaving = none)
    (hwrite : bit a.raw 72 = false) {bs : List (Byte × Bool)} (hbs : (sendRead s a).1 = .ok bs) :
    (startNet s a).net.sends = s.net.sends ++ [sendJob a ((wordMarks bs).filter id).length] ∧
      framesToward (startNet s a) (bits a.raw 64 6) =
        framesToward s (bits a.raw 64 6) + ceilDiv bs.length (mtu s) + (if bit a.raw 80 then 1 else 0) := by
  obtain ⟨hval, hnet, _, hbar⟩ := sendRead_sendStarted s a
  obtain ⟨ls, heq⟩ := startNet_write hreach hstays hwrite (hval.trans hbs)
  obtain ⟨_, _, _, _, _, _, _, _, _, _, hslots⟩ := accessed_engineSlots (sendRead (sendStarted s a) a).2 false a.ten ls
  let u := jobAdded (engineSlots (sendRead (sendStarted s a) a).2 false a.ten ls) (sendJob a ((wordMarks bs).filter id).length)
  have hsame : u.net = { s.net with sends := s.net.sends ++ [sendJob a ((wordMarks bs).filter id).length] } := by
    rw [← hnet]
    exact congrArg (fun v : State => { v.net with sends := v.net.sends ++ [sendJob a ((wordMarks bs).filter id).length] }) hslots
  have hmtu : mtu u = mtu s := by
    have hubar : u.bar = s.bar := (congrArg State.bar hslots).trans hbar
    unfold mtu reg
    rw [hubar]
  obtain ⟨hsent, hmore⟩ := dataSent_streams u a bs
  have hpeers : u.net.peers = s.net.peers := by rw [hsame]
  rw [hmtu, framesToward_congr hpeers] at hmore
  rw [heq]
  exact ⟨(of_sent hsent).1.trans (congrArg Net.sends hsame), hmore⟩

end Sys2Proof.Machine

end

section
/-! Proofs of the statements of 03_rings_and_direct_slots.md: a descriptor enters, waits, starts, acts and completes. -/

open Sys2Proof Sys2Proof.Machine Sys2Proof.Safety

namespace Sys2Proof.Machine

/-- Where nothing halts them and their domains are ON, a copy, a scrub and a NET_SEND at the head start. -/
theorem startDesc_works {s : State} {a : Active} :
    (∀ e, (heads s (.decant e)).find? waitOver = some a → partHalted s (.decant e) = false → domainOn s (.decant e) = true →
      startDesc s (.decant e) = startCopy s e a) ∧
    ((heads s .scrubber).find? waitOver = some a → partHalted s .scrubber = false → domainOn s .scrubber = true →
      startDesc s .scrubber = startScrub s a) ∧
    ((heads s .net).find? waitOver = some a → domainOn s .net = true → startDesc s .net = startNet s a) := by
  refine ⟨fun e ha hcool hon => ?_, fun ha hcool hon => ?_, fun ha hon => ?_⟩
  · simp [startDesc, ha, hcool, hon]
  · simp [startDesc, ha, hcool, hon]
  · have hcool : partHalted s .net = false := rfl
    simp [startDesc, ha, hcool, hon]

end Sys2Proof.Machine

/-- Settles O53: a descriptor's part is followed through its executor's queue, its wait, its start and its end. An end of work sets out from a state
that keeps the places for records, so that its record leaves wherever it could have left before; and a WRITE's data rests on neither the
descriptors nor the trace, so that its frames are those of the state before the start. -/
theorem descriptorsLive : Obligations.DescriptorsLive := by
  refine ⟨⟨execDescriptorEnqueue_enters, fun x s a f => execDescriptorWaitRegister_home, fun s a => startDesc_dispatcher, ?_, ?_,
      fun x s a => execWorkComplete_started, fun s a id since x => execWaitLimitExpiry_gone⟩,
    ⟨fun b s => ⟨fun a ha hask => ?_, fun hnone => ?_⟩, fun e s a ha hcask => ?_, fun e s a ha hcool hon hjob => ?_,
      fun s a ha hcool hon hscrub hstacks => ?_, fun s a m ha hon hm => ?_⟩,
    ⟨fun b s k e a htask hended hck hlast hid hten => ⟨fun hwq harrivals hplace => ?_, fun hwait hreport => ?_⟩,
      fun x s k e a htask hended hck hlast hid hten => ⟨fun hpending hplace => ?_, fun hpending hreport => ?_⟩,
      fun e s j a hjob hended hlast hj hsteps => ?_, fun s j a hfirst hlast hj => ?_⟩⟩
  -- the sync unit and the meter unit act
  · rintro s a f ha rfl
    have hexec : exec (.descriptorStart .sync) s = .next (startSync s a) := congrArg Host.Outcome.next ((startDesc_begins ha).2.1 rfl)
    refine ⟨fun hop hhome => ⟨_, hexec, startSync_flagOp hop hhome⟩, fun hop hhome hset hclear hmsgs k hfree => ?_,
      fun hop hempty => ⟨_, hexec, startSync_barrier hop hempty⟩⟩
    obtain ⟨hkite, hwatches, hactive⟩ := startSync_kite hop hhome hset hclear hmsgs hfree
    exact ⟨_, _, hexec, hkite, rfl, rfl, rfl, rfl, ⟨_, hwatches, rfl, rfl, rfl⟩, hactive⟩
  · intro s a ha
    obtain ⟨w, hw⟩ := startMeter_writes s a
    exact ⟨_, w, congrArg Host.Outcome.next ((startDesc_begins ha).2.2 rfl), hw⟩
  -- work starts
  · exact ⟨_, rfl, askStart_asks ha hask⟩
  · exact congrArg Host.Outcome.next (askStart_rests hnone)
  · obtain ⟨htask, hpc⟩ := pressStart_starts ha hcask
    exact ⟨_, rfl, rfl, congrArg (Option.map Task.id) htask, hpc⟩
  · exact ⟨_, congrArg Host.Outcome.next (startDesc_works.1 e ha hcool hon), startCopy_begins hjob⟩
  · obtain ⟨hjob, hdram, hqueue⟩ := startScrub_begins (a := a) hcool hstacks hscrub
    exact ⟨_, _, congrArg Host.Outcome.next (startDesc_works.2.1 ha hcool hon), hjob, rfl, rfl, rfl, rfl, rfl, rfl, rfl, hdram, hqueue⟩
  · subst hm
    have hexec : exec (.descriptorStart .net) s = .next (startNet s a) := congrArg Host.Outcome.next (startDesc_works.2.2 ha hon)
    refine ⟨reachable_iff s _, fun hout hlast => ⟨_, hexec, startNet_unreachable_completes hout hlast⟩, fun hreach hstays hread => ?_,
      fun hreach hstays hwrite p bs hp hbs => ?_⟩
    · obtain ⟨hsends, hrest⟩ := startNet_read_shows hreach hstays hread
      rw [sendJob, hread] at hsends
      exact ⟨_, hexec, hsends, hrest⟩
    · subst hp
      obtain ⟨hsends, hframes⟩ := startNet_write_shows hreach hstays hwrite hbs
      rw [sendJob, hwrite] at hsends
      exact ⟨_, _, hexec, hsends, wordMarks_clean, hframes⟩
  -- work ends
  · obtain ⟨hunit, hkept, hwrites, hlog⟩ := unitDone_shows htask hended
    have hends := (Undisturbed.finishPart (unitDone s b k e) a.id (.unit b) e.status e.detail).unit b.toNat
    rw [hunit] at hends
    obtain ⟨hst, hhistory, hnone, hover⟩ : _ ∧ _ ∧ _ ∧ _ := by simpa only [unitEnds, Prod.mk.injEq] using hends
    refine ⟨_, taskRec (unitOf s b.toNat).proc k e, congrArg Host.Outcome.next (reportUnit_ends htask hended hck hlast.1 hid hwq harrivals hplace),
      hst, hnone, hover, hhistory, rfl, rfl, rfl, rfl, rfl, rfl, finishPart_completes_from hkept hlast .., fun fault pay hreport hroom hsignal => ?_⟩
    rw [hten] at hroom
    refine endReported_finishPart ?_ (lastPart_congr hkept.active hlast) hsignal (hkept.ringRoom hroom) e.detail
    exact endReported_mono (endReported_noteEnd htask hended hreport) ⟨[], hwrites.trans (List.append_nil _).symm⟩ fun _ => hlog
  · exact congrArg Host.Outcome.next (reportUnit_waits htask hended hck hlast.1 hid hreport hwait)
  · obtain ⟨hpress, hkept, hwrites, hlog⟩ := pressDone_shows htask hended
    have hends := (Undisturbed.finishPart (pressDone s x k) a.id (.press x) e.status e.detail).press x.toNat
    rw [hpress] at hends
    obtain ⟨hnone, hover⟩ : _ ∧ _ := by simpa only [pressEnds, Prod.mk.injEq] using hends
    refine ⟨_, congrArg Host.Outcome.next (reportPress_ends htask hended hck hlast.1 hid hpending hplace), hnone, hover,
      finishPart_completes_from hkept hlast .., fun fault pay hreport hroom hsignal => ?_⟩
    rw [hten] at hroom
    refine endReported_finishPart ?_ (lastPart_congr hkept.active hlast) hsignal (hkept.ringRoom hroom) e.detail
    exact endReported_mono (endReported_noteEnd htask hended hreport) ⟨[], hwrites.trans (List.append_nil _).symm⟩ fun _ => hlog
  · exact congrArg Host.Outcome.next (reportPress_waits htask hended hck hlast.1 hid hreport hpending)
  · exact ⟨_, rfl, completeCopy_completes hjob hended hlast hj hsteps⟩
  · exact ⟨_, rfl, completeSend_completes hfirst hlast hj⟩

end

section
/-! Proofs of the statements of 04_bank_units.md: what the statements about vector instructions (O25), ballast (O34) and domains (O41) leave out. -/

open Sys2Proof Sys2Proof.Machine Sys2Proof.Safety

namespace Sys2Proof.Machine

/-! A destination that is the scalar operand alone (R140). -/

/-- VMUL of a row of two FP32 elements at byte 0 by the scalar at byte 256, to byte 256 (BMODE 2, shape register 0). -/
def mulOntoScalar : Word64 := BitVec.ofNat 64 (0x50 * 2 ^ 56 + 2 * 2 ^ 54 + 256 * 2 ^ 32 + 256)

/-- One row of two elements. -/
def rowOfTwo : Shape := { n0 := 2, s0 := 1, n1 := 1, s1 := 0 }

/-- A module whose unit 0 runs a task and is about to issue that word. -/
def aboutToMul : State :=
  let task : Task := { id := 1, ten := 9, tag := 7, raw := 0, startE := 0, startT := 0, startCk := 0, polled := false }
  { State.reset with
    units := [(0, { BankUnit.off with
      st := .running
      proc := { Proc.empty with task := some task, shapes := [(0, rowOfTwo)], cask0 := { Cask.empty with words := [(0, mulOntoScalar)] } } })] }

/-- The vector instruction that unit 0 has under way after a command. -/
def vecAfter (r : Host.Outcome State Fault Refusal) : Option Vec := (unitOf (after State.reset r) 0).proc.vec

/-- The word issues. -/
theorem aboutToMul_issues : issuesOp aboutToMul (.unit 0) 0x50 := by
  unfold issuesOp
  decide +kernel

/-- By address, count of rows and stride the destination is the scalar: both are one row at byte 256. -/
theorem scalar_same_row : (shapeRows rowOfTwo 256 4).same (bRows rowOfTwo 2 256 4) = true := by decide

/-- The instruction does not begin: its row of two elements overlaps the scalar, which has another shape. -/
theorem vecAfter_mulOntoScalar : vecAfter (exec (.vmul 0) aboutToMul) = none := by decide +kernel

end Sys2Proof.Machine

/-- Refutes O25: `destinationFree` compares a destination with B by address, count of rows and stride, and so lets VMUL, VADD, VMAX and VEXP begin
with a row of two elements on B's own place where BMODE makes B a scalar. R140 asks for the same shape, and the model ends such a task
with REASON 0x06: after the VMUL below no vector instruction is under way. -/
theorem not_arithmeticBegins : ¬ Obligations.ArithmeticBegins := by
  intro h
  obtain ⟨-, ⟨helement, -, -⟩, -⟩ := h
  have hbegins := helement (.vmul, 0x50) List.mem_cons_self 0 aboutToMul mulOntoScalar rowOfTwo (by decide +kernel) (by decide +kernel)
    aboutToMul_issues (by decide) (by decide) (by decide) (by decide) rfl (by decide) (by decide) (by decide)
    (.inl ⟨_, List.mem_cons_of_mem _ List.mem_cons_self, scalar_same_row⟩)
  have hmodel := vecAfter_mulOntoScalar
  rw [hbegins] at hmodel
  exact absurd hmodel (by decide +kernel)

namespace Sys2Proof.Machine

/-! A request in another stack's queue (R374). -/

/-- A BU_RUN of cask 0 that waits for nothing, for unit 512. -/
def runOfFirstCask : Active :=
  { id := 1, ten := 9, src := .ring 0, index := 0, raw := 2, wait := .none, toEnter := [], toFinish := [.unit 512], multi := false, failed := 0,
    low := none, detail := 0, started := none, domSince := none, fetchAt := none, prog := none, applied := 0, refusedN := 0, reserved := false,
    placed := true, answered := false, recordOut := false }

/-- A module whose unit 512, of stack 1, is idle with that run of a cask that is marked incomplete; the start's request stands in the queue of
stack 0, and a wake of the unit in that of stack 1. -/
def askedAtOtherStack : State :=
  { State.reset with
    active := [runOfFirstCask]
    units := [(512, { BankUnit.off with
      st := .idle, startReq := true, proc := { Proc.empty with queue := [1], cask0 := { Cask.empty with incomplete := true } } })]
    pwr := { Pwr.reset with queues := [(0, [(0, .taskStart 512)]), (1, [(0, .wake 512)])] } }

/-- The requests in the queue of stack 1 after a command. -/
def queueOne (r : Host.Outcome State Fault Refusal) : List (Nat × Admit) := mget [] (after State.reset r).pwr.queues 1

/-- A grant at stack 0 starts the task, which ends at once in its incomplete cask (R129) and so withdraws the unit's request at stack 1. -/
theorem queueOne_grant : queueOne (exec (.ballastGrant 0) askedAtOtherStack) = [] := by decide +kernel

end Sys2Proof.Machine

/-- Refutes O34: its last clause says that a grant leaves the queues of the other stacks as they were, whatever stands in them. A granted start of
an incomplete cask ends its task, and the end withdraws the unit's requests from the queue of the unit's own stack. With the start in the
queue of stack 0 and a unit of stack 1 that is another queue. (`ballastAsk` places a request by its bank, so the
statement lacks the hypothesis that the requests of a queue are of its stack.) -/
theorem not_ballastAdmits : ¬ Obligations.BallastAdmits := by
  intro h
  obtain ⟨-, -, hgrant⟩ := h
  obtain ⟨t, ht, -, -, -, hothers, -⟩ := hgrant 0 askedAtOtherStack 0 (.taskStart 512) [] (by decide) (by decide +kernel) (by decide +kernel)
  have hmodel := queueOne_grant
  rw [ht] at hmodel
  exact absurd ((hothers 1 (by decide)).symm.trans hmodel) (by decide +kernel)

namespace Sys2Proof.Machine

/-! Time that passes before a ramp (R368). -/

/-- A module in step 6, its root locked and its time uncorrected, whose rate correction has gathered one whole tick; every domain is OFF and
requested. -/
def rampTickGathered : State := { tickGathered with boot := { tickGathered.boot with step := 6 } }

/-- Locked and uncorrected, a domain asks to ramp two microseconds after OFF, and the whole ticks gathered before come on top. (R368) -/
theorem domainMinOffExpiry_elapsed {s t : State} {d : BitVec 9} (h : exec (.domainMinOffExpiry d) s = .next t) (hramp : mayRamp s d.toNat = true)
    (hrun : clockRuns s = true) (hlock : s.clk.coast = false) (hslew : s.net.slew = 0) (hrate : s.net.rate = 0) :
    t.elapsed = max s.elapsed ((domOf s d.toNat).since + 2 * Config.us) + s.net.rateAcc / 65536 := by
  have hexec : execDomainMinOffExpiry d s = .next t := h
  simp only [execDomainMinOffExpiry, hramp, if_true, Host.Outcome.next.injEq] at hexec
  rw [← advanceTo_elapsed_uncorrected _ hrun hlock hslew hrate, ← hexec, askRamp]
  split <;> rfl

end Sys2Proof.Machine

/-- Refutes O41: like O42, its first clause puts a moment of a locked, uncorrected module exactly where it falls due (the last part of `timeUntil`)
without asking that the rate correction has gathered less than a tick. From elapsed time 0 with `rateAcc` 65536 the request of group 0's
ramp comes at tick 3201, not at 3200. -/
theorem not_domainsRampAndDrain : ¬ Obligations.DomainsRampAndDrain := by
  intro h
  obtain ⟨hminOff, -⟩ := h
  obtain ⟨t, ht, ⟨-, -, hexact⟩, -⟩ := hminOff 0 rampTickGathered (by decide) (by decide)
  have htick : t.elapsed = 3201 := domainMinOffExpiry_elapsed ht (by decide) (by decide) rfl rfl rfl
  have hdue : t.elapsed = 3200 := hexact rfl rfl rfl
  exact absurd (htick.symm.trans hdue) (by decide)

end

section
/-! Proofs of the statements of 04_bank_units.md: limits end tasks, and units wake and sleep (O33). -/

open Sys2Proof Sys2Proof.Machine Sys2Proof.Safety

namespace Sys2Proof.Machine

/-! The end that a fault or a limit gives a task (R106, R173 to R175). -/

section
variable {s : State} {x : CoreId} {k : Task} (htask : (procOf s x).task = some k) (hended : (procOf s x).ended = none)
include htask hended

/-- A fault of a running task leaves the end that it makes. -/
theorem ended_faultTask (st : Status) (reason info chan : Nat) :
    (procOf (faultTask s x st reason info chan) x).ended = some (endingOf s x st (corePayload s x reason info chan)) := by
  simp [faultTask, htask, hended, stopTask]

/-- A limit of a running task leaves the end that it makes, of the cycle and the time in which it fell due. -/
theorem ended_faultAt (st : Status) (reason info chan ck time : Nat) :
    (procOf (faultAt s x st reason info chan ck time) x).ended =
      some { endingOf s x st (corePayload s x reason info chan) with ck := ck, time := time } := by
  simp [faultAt, htask, hended, stopTask]

/-- A fault but FETCH_POISON ends a running task with its status and DETAIL 0. -/
theorem endedWith_faultTask {st : Status} (hst : st ≠ .fetchPoison) (reason info chan : Nat) :
    endedWith (faultTask s x st reason info chan) x st 0 := by
  rw [endedWith, ended_faultTask htask hended]
  simp [endingOf, hst]

end

/-- The payload of a unit's instruction that faults. (Table 5.10) -/
theorem unitPayload_eq_faultBytes (s : State) (b : BitVec 12) (reason info : Nat) :
    unitPayload s b.toNat reason info = faultBytes s (.unit b) reason info := by
  have hsrc : srcNum 1 b.toNat = 0x1000 + b.toNat := by rw [srcNum, Nat.mod_eq_of_lt b.isLt]
  have hlive : 2048 * b2n (unitOf s b.toNat).proc.live = if (unitOf s b.toNat).proc.live then 2048 else 0 := by
    cases (unitOf s b.toNat).proc.live <;> rfl
  simp only [unitPayload, unitPayloadAt, hsrc, hlive]
  rfl

/-- A limit ends a running task as soon as its cycle is over: nothing but time has passed. -/
theorem faultPast_ended {s : State} {x : CoreId} {k : Task} (htask : (procOf s x).task = some k) (hended : (procOf s x).ended = none)
    (due : Nat) {st : Status} (hst : st ≠ .fetchPoison) (reason info chan : Nat) :
    endedWith (faultPast s due x st reason info chan) x st 0 ∧
      ∀ b, x = .unit b → (procOf (faultPast s due x st reason info chan) x).ended.bind (·.report) =
        some (coreFaults x st, if coreFaults x st then faultBytes s x reason info else taskPayload s x 0) := by
  obtain ⟨a, b, c, d, hpast⟩ := pastDue_eq s due
  have hproc : procOf (pastDue s due) x = procOf s x := by
    rw [hpast]
    cases x <;> rfl
  have hend := ended_faultAt (hproc ▸ htask) (hproc ▸ hended) st reason info chan ((pastDue s due).ck - 1)
    (if due < s.elapsed then s else advanceTo s due).time
  refine ⟨?_, ?_⟩
  · rw [endedWith, faultPast, hend]
    simp [endingOf, hst]
  · rintro u rfl
    rw [faultPast, hend]
    simp only [Option.bind_some, endingOf, corePayload, unitPayload_eq_faultBytes, hpast]
    rfl

/-! A unit between two states (R98, R99, R102). -/

/-- A unit that is not RUNNING enters a state; nothing else of it changes but the cycles since which it is in it. -/
theorem enterState_rests {s : State} {b : Nat} (st : UnitState) (h : (unitOf s b).st ≠ .running) :
    enterState s b st = modUnit s b (fun u => { u with st := st, runSince := s.ck, idleSince := if st = .idle then s.ck else u.idleSince }) := by
  have hsettle : settleRun s b = s := by simp [settleRun, h]
  rw [enterState, hsettle]

/-- A unit after a change of it. -/
theorem unitOf_modUnit_self (s : State) (b : Nat) (f : BankUnit → BankUnit) : unitOf (modUnit s b f) b = f (unitOf s b) := by
  simp [modUnit]

/-- A unit after a change of its processor part. -/
theorem unitOf_modProc_self (s : State) (b : BitVec 12) (f : Proc → Proc) :
    unitOf (modProc s (.unit b) f) b.toNat = { unitOf s b.toNat with proc := f (unitOf s b.toNat).proc } := unitOf_modUnit_self ..

/-- An ASLEEP unit whose wake has been admitted is IDLE, and a load that waited for it waits no more. -/
theorem exec_unitWakeDone {b : BitVec 12} {s : State} (hst : (unitOf s b.toNat).st = .asleep) (hwake : (unitOf s b.toNat).wakeReq = true)
    (hstart : (unitOf s b.toNat).startReq = false) (hadmitted : ballastWaits s (.wake b.toNat) = false) :
    ∃ t, exec (.unitWakeDone b) s = .next t ∧ unitOf t b.toNat = { unitOf s b.toNat with
      st := .idle, runSince := s.ck, idleSince := s.ck, wakeReq := false,
      proc := { (unitOf s b.toNat).proc with load := (unitOf s b.toNat).proc.load.map (fun l => { l with waking := false }) } } := by
  have henter := enterState_rests .idle (s := s) (b := b.toNat) (by rw [hst]; decide)
  refine ⟨_, rfl, ?_⟩
  rw [if_pos (by simp [hst, hwake, hadmitted]), if_neg (by simp [hstart]), henter]
  simp only [unitOf_modProc_self, unitOf_modUnit_self, if_true]

/-- An IDLE unit with nothing queued goes to ASLEEP; its processor part stays. -/
theorem exec_idleGateExpiry {b : BitVec 12} {s : State} (hst : (unitOf s b.toNat).st = .idle) (hqueue : (procOf s (.unit b)).queue = [])
    (htask : (procOf s (.unit b)).task = none) (hload : (procOf s (.unit b)).load = none) :
    ∃ t, exec (.idleGateExpiry b) s = .next t ∧ (unitOf t b.toNat).st = .asleep ∧ procOf t (.unit b) = procOf s (.unit b) := by
  have hproc : procOf s (.unit b) = (unitOf s b.toNat).proc := rfl
  rw [hproc] at hqueue htask hload
  obtain ⟨_, _, _, _, hadvance⟩ := advance_eq s ((unitOf s b.toNat).idleSince + idleGate s - s.ck)
  have hunit : unitOf (advance s ((unitOf s b.toNat).idleSince + idleGate s - s.ck)) b.toNat = unitOf s b.toNat := by rw [hadvance]; rfl
  have henter := enterState_rests .asleep (b := b.toNat) (by rw [hunit, hst]; decide)
  refine ⟨_, congrArg Host.Outcome.next (if_pos (by simp [hst, hqueue, htask, hload])), ?_⟩
  rw [henter, procOf, unitOf_modUnit_self, hunit]
  exact ⟨rfl, rfl⟩

end Sys2Proof.Machine

/-- Settles O33: a limit passes time and ends the task (`faultPast_ended`); a wake that was admitted and an idle unit with nothing queued change the
unit's state (`exec_unitWakeDone`, `exec_idleGateExpiry`). -/
theorem limitsAndUnitStates : Obligations.LimitsAndUnitStates := by
  refine ⟨⟨fun x s t htask hended hlimit => ?_, fun e s t r htask hended hrecv => ?_⟩, fun b s hst hwake hstart hadmitted => ?_,
    fun b s hst hqueue htask hload => ?_⟩
  · obtain ⟨hend, hreport⟩ := faultPast_ended htask hended (t.startE + runLimit t.raw * Config.us) (st := .watchdog) (by decide) 0
      (limitInfo s x t (t.startE + runLimit t.raw * Config.us)).1 (limitInfo s x t (t.startE + runLimit t.raw * Config.us)).2
    refine ⟨_, congrArg Host.Outcome.next ?_, hend, fun b hb => ?_⟩
    · simp only [htask, hended]
      exact if_neg hlimit
    · rw [hreport b hb]
      subst hb
      rfl
  · refine ⟨_, congrArg Host.Outcome.next ?_, (faultPast_ended htask hended (r.start + inLimit t.raw * Config.us) (by decide) 0 r.need r.chan).1⟩
    have hproc : (pressOf s e.toNat).proc = procOf s (.press e) := rfl
    simp only [hproc, hrecv, htask, hended]
  · obtain ⟨t, hexec, hunit⟩ := exec_unitWakeDone hst hwake hstart hadmitted
    exact ⟨t, hexec, congrArg BankUnit.st hunit, congrArg BankUnit.wakeReq hunit, congrArg (fun u => u.proc.load) hunit⟩
  · exact exec_idleGateExpiry hst hqueue htask hload

end

section
/-! Proofs of the statements of 04_bank_units.md: press tasks and loads (O32). -/

open Sys2Proof Sys2Proof.Machine Sys2Proof.Safety

namespace Sys2Proof.Machine

/-! The processor part of a core after a change of something else. -/

/-- A core's processor part lies in its unit or its press. -/
theorem procOf_congr {s u : State} (hunits : u.units = s.units) (hpresses : u.presses = s.presses) (x : CoreId) : procOf u x = procOf s x := by
  cases x <;> simp [procOf, unitOf, pressOf, hunits, hpresses]

/-- A trace event is no part of a core. -/
theorem procOf_traceEv (s : State) (ev ten src : Nat) (tag : BitVec 16) (data st : Nat) (x : CoreId) :
    procOf (traceEv s ev ten src tag data st) x = procOf s x := procOf_congr (by simp) (by simp) x

/-- The head of a core's queue leaves it, and nothing else of its processor part changes. -/
theorem procOf_popQueue (s : State) (x : CoreId) :
    procOf (popQueue s (ofCore x)) x = { procOf s x with queue := (procOf s x).queue.tail } := by
  cases x with
  | unit b => exact congrArg BankUnit.proc (unitOf_modUnit_self ..)
  | press e => exact congrArg Press.proc ((pressOf_setPress ..).trans (if_pos rfl))

/-! A press's task starts (R105, R234). -/

/-- A press whose run starts in a whole cask stands at ENTRY, the run off its queue. -/
theorem procOf_pressStart {s : State} {e : BitVec 4} {a : Active} (h : runReady s (.press e) = some a)
    (hcask : ((procOf s (.press e)).cask (runCask a.raw)).incomplete = false) :
    procOf (pressStart s e) (.press e) = startedProc s a { procOf s (.press e) with queue := (procOf s (.press e)).queue.tail } := by
  let u := modProc (popQueue s (.press e)) (.press e) (startedProc s a)
  let w := traceEv (modActive u a.id fun b => { b with started := some (b.started.getD s.time) }) 0x03 a.ten (coreSrc (.press e)) (dTag a.raw) 0 0
  have hw : procOf w (.press e) = startedProc s a { procOf s (.press e) with queue := (procOf s (.press e)).queue.tail } := by
    rw [procOf_traceEv]
    exact (procOf_modProc_self ..).trans (congrArg (startedProc s a) (procOf_popQueue s (.press e)))
  have heq : pressStart s e = w := by
    rw [pressStart, h]
    exact if_neg (by rw [Bool.not_eq_true]; exact (congrArg (fun p => (p.cask (runCask a.raw)).incomplete) hw).trans hcask)
  rw [heq, hw]

/-- The argument registers r1 to r4 of a press run. (Table 9.2) -/
theorem rget_startedProc (s : State) {a : Active} (p : Proc) (hop : dOp a.raw ≠ 2) {i : Nat} (hi : i < 4) :
    rget (startedProc s a p) (i + 1) = { val := BitVec.ofNat 32 (dfield a.raw (20 + 4 * i) 4), poison := false } := by
  have hargs : runArgs a.raw = [dfield a.raw 20 4, dfield a.raw 24 4, dfield a.raw 28 4, dfield a.raw 32 4] := if_neg hop
  have hregs : rget (startedProc s a p) (i + 1) = mget PWord.zero (argRegs a) (i + 1) := rfl
  rw [hregs, argRegs, hargs]
  interval_cases i <;> simp [mget_mset]

/-! A load is applied (R102, R127, R128, R235). -/

/-- A load off its queue, being written into a cask, or waiting for the wake of its unit. -/
def loadTaken (s : State) (x : CoreId) (a : Active) (l : LoadJob) : State :=
  traceEv (modProc (popQueue (modActive s a.id (fun e => { e with started := some (e.started.getD s.time) })) (ofCore x)) x
    (fun p => { p with load := some l })) 0x03 a.ten (coreSrc x) (dTag a.raw) 0 0

/-- A unit asks for the wake that a load waits for, if it has not asked already. -/
def askWake (s : State) (x : CoreId) (asleep : Bool) : State :=
  match x with
  | .unit b =>
    if asleep ∧ (unitOf s b.toNat).wakeReq = false then ballastAsk (modUnit s b.toNat (fun u => { u with wakeReq := true })) (.wake b.toNat) else s
  | .press _ => s

/-- A request for a credit is no part of a unit. -/
theorem unitOf_ballastAsk (s : State) (a : Admit) (b : Nat) : unitOf (ballastAsk s a) b = unitOf s b := rfl

theorem procOf_askWake (s : State) (x : CoreId) (asleep : Bool) : procOf (askWake s x asleep) x = procOf s x := by
  cases x with
  | unit b =>
    simp only [askWake]
    split
    · rw [procOf, unitOf_ballastAsk, unitOf_modUnit_self]
      rfl
    · rfl
  | press e => rfl

theorem procOf_loadTaken (s : State) (x : CoreId) (a : Active) (l : LoadJob) :
    procOf (loadTaken s x a l) x = { procOf s x with queue := (procOf s x).queue.tail, load := some l } := by
  rw [loadTaken, procOf_traceEv, procOf_modProc_self, procOf_popQueue]
  cases x <;> rfl

/-- Whether the unit of a core is ASLEEP. -/
def coreAsleep (s : State) (x : CoreId) : Bool :=
  match x with
  | .unit b => (unitOf s b.toNat).st == .asleep
  | .press _ => false

/-- Whether a load may go to a core: a unit that is not OFF, or a press whose domain is ON. (R100, R231) -/
def coreUp (s : State) (x : CoreId) : Bool :=
  match x with
  | .unit b => (unitOf s b.toNat).st != .off
  | .press _ => domainOn s (ofCore x)

/-- The cask that a load names: 2 is the one that is not live. (Table 4.6) -/
def loadCask (p : Proc) (a : Active) : Bool := if dfield a.raw 16 1 = 2 then !p.live else dfield a.raw 16 1 == 1

section
variable {s : State} {x : CoreId} {a : Active} (hhead : headActive s (ofCore x) = some a) (hload : isLoad a.raw = true) (hwait : waitOver a = true)
  (hfree : (procOf s x).load = none) (hplace : canPlace s a.ten = true)
  (hup : coreUp s x = true)
include hhead hload hwait hfree hplace hup

/-- A load whose turn it is, is judged by the cask that it names. -/
theorem loadApply_judged : loadApply s x =
    if dfield a.raw 16 1 ≠ 2 ∧ loadCask (procOf s x) a = (procOf s x).live ∧ (procOf s x).task.isSome then
      dropPart (modActive s a.id (fun e => { e with refusedN := e.refusedN + 1 })) a.id (ofCore x) .caskBusy 0
    else askWake (loadTaken s x a { id := a.id, cask := loadCask (procOf s x) a, waking := coreAsleep s x }) x (coreAsleep s x) := by
  have hgo : (isLoad a.raw && waitOver a && (procOf s x).load.isNone && coreUp s x && canPlace s a.ten) = true := by
    simp [hload, hwait, hfree, hplace, hup]
  unfold loadApply
  simp only [hhead]
  refine (if_pos hgo).trans ?_
  cases x <;> rfl

/-- A load into a cask that no running task uses is taken. -/
theorem loadApply_takes (hcask : dfield a.raw 16 1 = 2 ∨ (procOf s x).task = none ∨ (dfield a.raw 16 1 == 1) ≠ (procOf s x).live) :
    loadApply s x = askWake (loadTaken s x a { id := a.id, cask := loadCask (procOf s x) a, waking := coreAsleep s x }) x (coreAsleep s x) := by
  rw [loadApply_judged hhead hload hwait hfree hplace hup]
  refine if_neg ?_
  rintro ⟨hnamed, hlive, htask⟩
  rw [loadCask, if_neg hnamed] at hlive
  rcases hcask with h | h | h
  · exact hnamed h
  · simp [h] at htask
  · exact h hlive

/-- A load into the live cask of a running task is refused. -/
theorem loadApply_refuses (hnamed : dfield a.raw 16 1 ≠ 2) (htask : (procOf s x).task ≠ none) (hlive : (dfield a.raw 16 1 == 1) = (procOf s x).live) :
    loadApply s x = dropPart (modActive s a.id (fun e => { e with refusedN := e.refusedN + 1 })) a.id (ofCore x) .caskBusy 0 := by
  rw [loadApply_judged hhead hload hwait hfree hplace hup]
  exact if_pos ⟨hnamed, by rw [loadCask, if_neg hnamed, hlive], Option.isSome_iff_ne_none.2 htask⟩

end

/-- An ASLEEP unit that a load wakes, and that had not asked, asks for its wake. -/
theorem askWake_loadTaken {s : State} {b : BitVec 12} (a : Active) (l : LoadJob) (hwake : (unitOf s b.toNat).wakeReq = false) :
    (unitOf (askWake (loadTaken s (.unit b) a l) (.unit b) true) b.toNat).wakeReq = true ∧
      ballastWaits (askWake (loadTaken s (.unit b) a l) (.unit b) true) (.wake b.toNat) = true := by
  have hkept : (unitOf (loadTaken s (.unit b) a l) b.toNat).wakeReq = false := by
    have hunit : unitOf (loadTaken s (.unit b) a l) b.toNat = unitOf (modProc (popQueue (modActive s a.id (fun e => { e with
        started := some (e.started.getD s.time) })) (.unit b)) (.unit b) (fun p => { p with load := some l })) b.toNat := by
      simp [loadTaken, unitOf, ofCore]
    rw [hunit, unitOf_modProc_self]
    exact (congrArg BankUnit.wakeReq (unitOf_modUnit_self ..)).trans hwake
  rw [askWake, if_pos ⟨rfl, hkept⟩]
  exact ⟨by rw [unitOf_ballastAsk, unitOf_modUnit_self], ballastWaits_ballastAsk ..⟩

/-! A load is complete (R127, R129, R150). -/

/-- A cask in which a load has written its words. -/
def caskWritten (k : Cask) (a : Active) : Cask :=
  { k.write (loadFirst a.raw) (a.prog.getD []).length (a.prog.getD []) with
    loaded := some (loadFirst a.raw + (a.prog.getD []).length), incomplete := k.incomplete && loadFirst a.raw != 0 }

/-- The words of a load from FIRST on; the others stay. -/
theorem words_caskWritten (k : Cask) (a : Active) (j : Nat) : mget 0 (caskWritten k a).words j =
    if loadFirst a.raw ≤ j ∧ j < loadFirst a.raw + (a.prog.getD []).length then (a.prog.getD []).getD (j - loadFirst a.raw) 0
    else mget 0 k.words j := by
  rw [caskWritten, Cask.write, List.take_length]
  exact mget_msetAll ..

end Sys2Proof.Machine

/-- Settles O32: a press run leaves the processor of `procOf_pressStart`; a load is taken or refused by the cask that it names (`loadApply_takes`,
`loadApply_refuses`), and a complete one leaves the cask of `caskWritten`. -/
theorem pressTasksAndLoads : Obligations.PressTasksAndLoads := by
  refine ⟨fun e s => ⟨fun a ha hcask => ?_, fun hnone => ?_⟩, fun x s a hhead hload hwait hfree hplace hup => ⟨fun hcask => ?_,
    fun hnamed htask hlive => ?_⟩, fun x s l a hload ha hwaking hroom => ⟨caskWritten ((procOf s x).cask l.cask) a, ?_, rfl, fun i hi => ?_,
    fun j hj => ?_⟩⟩
  · refine ⟨_, rfl, ?_⟩
    rw [procOf_pressStart ha hcask]
    exact ⟨rfl, rfl, rfl, rfl, rfl, fun hop i hi => rget_startedProc s _ hop hi, rfl⟩
  · exact congrArg Host.Outcome.next (by rw [pressStart, hnone])
  · have hup : coreUp s x = true := by cases x <;> simpa [coreUp] using hup
    have htaken := loadApply_takes hhead hload hwait hfree hplace hup hcask
    refine ⟨_, congrArg Host.Outcome.next htaken, ?_⟩
    rw [procOf_askWake, procOf_loadTaken]
    refine ⟨rfl, ?_, ?_⟩
    · cases x <;> rfl
    · rintro b rfl hasleep hwake
      have hcore : coreAsleep s (.unit b) = true := by simp [coreAsleep, hasleep]
      rw [hcore]
      exact askWake_loadTaken a _ hwake
  · have hup : coreUp s x = true := by cases x <;> simpa [coreUp] using hup
    exact congrArg Host.Outcome.next (loadApply_refuses hhead hload hwait hfree hplace hup hnamed htask hlive)
  · have hgo : (l.waking || (needsPlace a (ofCore x) .ok && !canPlace s a.ten)) = false := by
      rcases hroom with h | h <;> simp [hwaking, h]
    refine congrArg Host.Outcome.next ?_
    unfold loadComplete
    simp only [hload, ha, hgo]
    cases x <;> rfl
  · rw [words_caskWritten, if_pos (by omega), Nat.add_sub_cancel_left]
  · rw [words_caskWritten, if_neg (by omega)]

end

section
/-! The beats of vector instructions: how a beat ends, the lanes that it writes, and the inputs that it takes (R108, R173, R345, R472). -/

open Sys2Proof Sys2Proof.Machine Sys2Proof.Safety

namespace Sys2Proof.Machine

/-! A beat begins and ends (R108). -/

/-- The beat of a unit's vector instruction, by its opcode. -/
def beatOf (s : State) (b : BitVec 12) (p : Proc) (v : Vec) (op : Nat) : State :=
  match op with
  | 0x3C => sendBeat s b p v
  | 0x48 => vdotBeat s b p v
  | 0x49 => vaxpyBeat s b p v
  | 0x54 => vredBeat s b p v
  | 0x55 => if bit v.word 0 then vcvtStreamBeat s b p v else vcvtBeat s b p v
  | 0x58 => vldBeat s b p v
  | 0x59 => vstBeat s b p v
  | 0x5A => bwriteBeat s b p v
  | _ => elemBeat s b p v

/-- A unit that is ready for a beat takes it. -/
theorem exec_vectorBeat {s : State} {b : BitVec 12} {v : Vec} (h : beatReady s b v) :
    exec (.vectorBeat b) s = .next (beatOf s b (procOf s (.unit b)) v (bits v.word 56 8)) := by
  obtain ⟨hvec, htask, hended, hst, hruns⟩ := h
  obtain ⟨k, hk⟩ := Option.ne_none_iff_exists'.1 htask
  show execVectorBeat b s = _
  have hproc : (unitOf s b.toNat).proc = procOf s (.unit b) := rfl
  unfold execVectorBeat
  simp only [hproc, hvec, hk, hended, hst, hruns]
  rfl

/-- A processor past the beat v of its vector instruction. -/
def pastBeat (v : Vec) (q : Proc) : Proc :=
  if v.beat + 1 < v.total then { q with vec := some { v with beat := v.beat + 1 } } else pnext { q with vec := none }

theorem unitOf_endBeat {t : State} {b : BitVec 12} {v : Vec} (hvec : (procOf t (.unit b)).vec = some v) :
    unitOf (endBeat t b) b.toNat = { unitOf t b.toNat with proc := pastBeat v (unitOf t b.toNat).proc } := by
  have hvec' : (unitOf t b.toNat).proc.vec = some v := hvec
  rw [endBeat, unitOf_modProc_self]
  simp only [hvec']
  rfl

/-- A beat changes a unit's lanes, local store, marks and stream only. -/
def offBeat (u : BankUnit) : BankUnit :=
  { u with acc := [], stream := none, spos := 0, proc := { u.proc with mem := [], memPoison := [] } }

/-- The part of a unit that a beat may change. -/
def onBeat (u : BankUnit) : SMap PWord × Option Stream × List Host.Cell × SMap Bool := (u.acc, u.stream, u.proc.mem, u.proc.memPoison)

/-- A beat whose effect is done goes past the beat and changes nothing more. -/
theorem endBeat_over {s t : State} {b : BitVec 12} {v : Vec} (h : beatReady s b v) (hoff : offBeat (unitOf t b.toNat) = offBeat (unitOf s b.toNat)) :
    beatOver s (endBeat t b) b v ∧ onBeat (unitOf (endBeat t b) b.toNat) = onBeat (unitOf t b.toNat) := by
  obtain ⟨hvec, -, hended, -, -⟩ := h
  have hkept {α : Type} (part : Proc → α) (hpart : ∀ q, part { q with mem := [], memPoison := [] } = part q) :
      part (procOf t (.unit b)) = part (procOf s (.unit b)) := by
    have hproc := congrArg (fun u : BankUnit => part u.proc) hoff
    exact (hpart _).symm.trans (hproc.trans (hpart _))
  have hunit := unitOf_endBeat ((hkept Proc.vec fun _ => rfl).trans hvec)
  have hproc : procOf (endBeat t b) (.unit b) = pastBeat v (procOf t (.unit b)) := congrArg BankUnit.proc hunit
  have hregs := hkept Proc.regs fun _ => rfl
  have hshapes := hkept Proc.shapes fun _ => rfl
  have hloops := hkept Proc.loops fun _ => rfl
  have hend := (hkept Proc.ended fun _ => rfl).trans hended
  have hpc := hkept Proc.pc fun _ => rfl
  unfold beatOver
  rw [hunit, hproc]
  by_cases hmore : v.beat + 1 < v.total
  · rw [show pastBeat v = fun q => { q with vec := some { v with beat := v.beat + 1 } } from funext fun q => if_pos hmore]
    exact ⟨⟨fun _ => ⟨rfl, hpc⟩, fun hlast => absurd hmore (by omega), hregs, hshapes, hloops, hend⟩, rfl⟩
  · rw [show pastBeat v = fun q => pnext { q with vec := none } from funext fun q => if_neg hmore]
    exact ⟨⟨fun h => absurd h hmore, fun _ => ⟨rfl, congrArg (· + 1) hpc⟩, hregs, hshapes, hloops, hend⟩, rfl⟩

/-- A beat that fails on a poisoned input ends the task. -/
theorem closeBeat_fails {s : State} {b : BitVec 12} {v : Vec} (h : beatReady s b v) {r : Except (Status × Nat) State}
    (hr : ∃ i, r = .error (.dataUncorrectable, i)) : endedWith (closeBeat s b r) (.unit b) .dataUncorrectable 0 := by
  obtain ⟨-, htask, hended, -, -⟩ := h
  obtain ⟨k, hk⟩ := Option.ne_none_iff_exists'.1 htask
  obtain ⟨i, rfl⟩ := hr
  exact endedWith_faultTask hk hended (by decide) ..

/-! Inputs under POISON_MODE (R472). -/

/-- Under propagate, or where it is clean, an input is taken. -/
theorem takeInput_good {p : Proc} {bad : Bool} (h : propagates p = true ∨ bad = false) (i : Nat) (r : Except (Status × Nat) State) :
    takeInput p bad i r = r := by
  rcases h with h | h <;> simp [takeInput, h]

/-- Under fault a poisoned input ends the task. -/
theorem takeInput_fail {p : Proc} (h : propagates p = false) (i : Nat) (r : Except (Status × Nat) State) :
    takeInput p true i r = .error (.dataUncorrectable, i) := by simp [takeInput, h]

/-- The inputs of a list are taken, or a poisoned one of them ends the task. -/
theorem takeAll_cases (p : Proc) (l : List (Nat × Bool)) (r : Except (Status × Nat) State) :
    (inputsGood p (∃ e ∈ l, e.2 = true) → takeAll p l r = r) ∧
    (inputsFail p (∃ e ∈ l, e.2 = true) → ∃ i, takeAll p l r = .error (.dataUncorrectable, i)) := by
  unfold takeAll firstBad
  cases hfind : l.find? (·.2) with
  | none =>
    have hclean : ¬ ∃ e ∈ l, e.2 = true := by
      rintro ⟨e, he, hbad⟩
      exact List.find?_eq_none.1 hfind e he hbad
    exact ⟨fun _ => rfl, fun hfail => absurd hfail.2 hclean⟩
  | some e =>
    have hbad : ∃ e ∈ l, e.2 = true := ⟨e, List.mem_of_find?_eq_some hfind, List.find?_some hfind⟩
    refine ⟨fun hgood => takeInput_good ?_ .., fun hfail => ⟨_, takeInput_fail hfail.1 ..⟩⟩
    exact .inl (hgood.resolve_right fun hno => hno hbad)

/-! Lanes written (R345, R472). -/

/-- A lane that a beat writes: the value and the mark that it takes, each by what the lane held. -/
structure LaneJob where
  g    : Nat
  val  : PWord → Word
  mark : PWord → Bool

/-- From s to t unit b has written the lanes of some jobs, and nothing else of it has changed. -/
structure LanesDone (s t : State) (b : BitVec 12) (jobs : List LaneJob) : Prop where
  value : ∀ q ∈ jobs, holds (lane t b q.g) (q.val (lane s b q.g)) (q.mark (lane s b q.g))
  kept  : lanesKept s t b (fun g => ∃ q ∈ jobs, q.g = g)
  only  : ∃ m, unitOf t b.toNat = { unitOf s b.toNat with acc := m }

/-- Whether a job of unit b writes a marked lane, that is, has a poisoned input. -/
def someMarked (s : State) (b : BitVec 12) (jobs : List LaneJob) : Prop := ∃ q ∈ jobs, q.mark (lane s b q.g) = true

/-- An outcome of a beat's jobs: they are done, or under fault a poisoned input of theirs ends the task. -/
def lanesOutcome (s : State) (b : BitVec 12) (p : Proc) (jobs : List LaneJob) (r : Except (Status × Nat) State) : Prop :=
  (inputsGood p (someMarked s b jobs) → ∃ t, r = .ok t ∧ LanesDone s t b jobs) ∧
  (inputsFail p (someMarked s b jobs) → ∃ i, r = .error (.dataUncorrectable, i))

/-- A value that is marked is not specified; a clean one is the one given. (R345) -/
theorem settle_holds (s : State) (v : Word) (bad : Bool) : holds (settle s v bad).1 v bad := by
  cases bad
  · exact ⟨rfl, fun _ => rfl⟩
  · exact ⟨rfl, fun h => absurd h (by decide)⟩

theorem unitOf_putLane (s : State) (b : BitVec 12) (g : Nat) (v : Word) (bad : Bool) :
    unitOf (putLane s b g v bad) b.toNat = { unitOf s b.toNat with acc := mset PWord.zero (unitOf s b.toNat).acc g (settle s v bad).1 } := by
  have hfree : unitOf (settle s v bad).2 b.toNat = unitOf s b.toNat := by cases bad <;> rfl
  rw [putLane, unitOf_modUnit_self, hfree]

theorem lane_putLane (s : State) (b : BitVec 12) (g : Nat) (v : Word) (bad : Bool) (j : Nat) :
    lane (putLane s b g v bad) b j = if j = g then (settle s v bad).1 else lane s b j := by
  rw [lane, unitOf_putLane]
  exact mget_mset ..

/-- One lane written does its job. -/
theorem lanesDone_putLane (s : State) (b : BitVec 12) (q : LaneJob) :
    LanesDone s (putLane s b q.g (q.val (lane s b q.g)) (q.mark (lane s b q.g))) b [q] where
  value := by
    intro q' hq'
    obtain rfl := List.mem_singleton.1 hq'
    rw [lane_putLane, if_pos rfl]
    exact settle_holds ..
  kept := fun g hg => by
    rw [lane_putLane, if_neg]
    exact fun h => hg ⟨q, List.mem_singleton_self q, h.symm⟩
  only := ⟨_, unitOf_putLane ..⟩

/-- No jobs, nothing done. -/
theorem lanesOutcome_nil (s : State) (b : BitVec 12) (p : Proc) : lanesOutcome s b p [] (.ok s) :=
  ⟨fun _ => ⟨s, rfl, ⟨by simp, fun _ _ => rfl, ⟨_, rfl⟩⟩⟩, fun hfail => by simp [inputsFail, someMarked] at hfail⟩

/-- A job whose inputs but its lane are judged already. -/
theorem lanesOutcome_putLane (s : State) (b : BitVec 12) {p : Proc} (q : LaneJob) {bad : Bool} (i : Nat)
    (h : propagates p = true ∨ q.mark (lane s b q.g) = bad) :
    lanesOutcome s b p [q] (takeInput p bad i (.ok (putLane s b q.g (q.val (lane s b q.g)) (q.mark (lane s b q.g))))) := by
  have hmarked : someMarked s b [q] ↔ q.mark (lane s b q.g) = true := by simp [someMarked]
  unfold lanesOutcome
  rw [hmarked]
  refine ⟨fun hgood => ⟨_, takeInput_good ?_ .., lanesDone_putLane s b q⟩, fun hfail => ⟨i, ?_⟩⟩
  · rcases hgood with hprop | hclean
    · exact .inl hprop
    · rcases h with hprop | rfl
      · exact .inl hprop
      · exact .inr (by simpa using hclean)
  · obtain ⟨hprop, hbad⟩ := hfail
    rw [← h.resolve_left (by simp [hprop]), hbad]
    exact takeInput_fail hprop ..

/-- An input that every outcome of the jobs rests on is judged before them. -/
theorem lanesOutcome_guard {s : State} {b : BitVec 12} {p : Proc} {jobs : List LaneJob} {bad : Bool} {r : Except (Status × Nat) State} (i : Nat)
    (hmark : bad = true → someMarked s b jobs) (h : propagates p = true ∨ bad = false → lanesOutcome s b p jobs r) :
    lanesOutcome s b p jobs (takeInput p bad i r) := by
  by_cases htaken : propagates p = true ∨ bad = false
  · rw [takeInput_good htaken]
    exact h htaken
  · obtain ⟨hprop, rfl⟩ : propagates p = false ∧ bad = true := by simpa using htaken
    rw [takeInput_fail hprop]
    refine ⟨fun hgood => ?_, fun _ => ⟨i, rfl⟩⟩
    rcases hgood with hgood | hgood
    · simp [hprop] at hgood
    · exact absurd (hmark rfl) hgood

/-- Jobs done one list after the other, on other lanes. -/
theorem lanesOutcome_bind {s : State} {b : BitVec 12} {p : Proc} {jobs jobs' : List LaneJob} {r : Except (Status × Nat) State}
    {f : State → Except (Status × Nat) State} (h : lanesOutcome s b p jobs r) (hf : ∀ t, lanesOutcome t b p jobs' (f t))
    (hapart : ∀ q ∈ jobs, ∀ q' ∈ jobs', q.g ≠ q'.g) : lanesOutcome s b p (jobs ++ jobs') (r.bind f) := by
  have hsame {t : State} (hdone : LanesDone s t b jobs) {q : LaneJob} (hq : q ∈ jobs') : lane t b q.g = lane s b q.g :=
    hdone.kept q.g fun ⟨q', hq', he⟩ => hapart q' hq' q hq he
  have hsome {t : State} (hdone : LanesDone s t b jobs) : someMarked t b jobs' ↔ someMarked s b jobs' :=
    exists_congr fun q => and_congr_right fun hq => by rw [hsame hdone hq]
  have hmarked : someMarked s b (jobs ++ jobs') ↔ someMarked s b jobs ∨ someMarked s b jobs' := by
    simp only [someMarked, List.mem_append, or_and_right, exists_or]
  unfold lanesOutcome
  rw [hmarked]
  refine ⟨fun hgood => ?_, fun ⟨hprop, hbad⟩ => ?_⟩
  · obtain ⟨t, rfl, hdone⟩ := h.1 (hgood.imp_right fun hno hm => hno (.inl hm))
    obtain ⟨u, hu, hdone'⟩ := (hf t).1 (hgood.imp_right fun hno hm => hno (.inr ((hsome hdone).1 hm)))
    refine ⟨u, hu, ⟨fun q hq => ?_, fun g hg => ?_, ?_⟩⟩
    · rcases List.mem_append.1 hq with hq | hq
      · rw [hdone'.kept q.g fun ⟨q', hq', he⟩ => hapart q hq q' hq' he.symm]
        exact hdone.value q hq
      · rw [← hsame hdone hq]
        exact hdone'.value q hq
    · rw [hdone'.kept g fun ⟨q, hq, he⟩ => hg ⟨q, List.mem_append_right _ hq, he⟩]
      exact hdone.kept g fun ⟨q, hq, he⟩ => hg ⟨q, List.mem_append_left _ hq, he⟩
    · obtain ⟨m, hm⟩ := hdone.only
      obtain ⟨m', hm'⟩ := hdone'.only
      exact ⟨m', by rw [hm', hm]⟩
  · by_cases hfirst : someMarked s b jobs
    · obtain ⟨i, rfl⟩ := h.2 ⟨hprop, hfirst⟩
      exact ⟨i, rfl⟩
    · obtain ⟨t, rfl, hdone⟩ := h.1 (.inr hfirst)
      exact (hf t).2 ⟨hprop, (hsome hdone).2 (hbad.resolve_left hfirst)⟩

/-- Steps taken one after the other until one fails. -/
def steps {α : Type} (f : State → α → Except (Status × Nat) State) (l : List α) (r : Except (Status × Nat) State) : Except (Status × Nat) State :=
  l.foldl (fun r a => r.bind (f · a)) r

/-- A fold that keeps the first failure takes steps. -/
theorem foldl_eq_steps {α : Type} {f : State → α → Except (Status × Nat) State} {F : Except (Status × Nat) State → α → Except (Status × Nat) State}
    (herror : ∀ x a, F (.error x) a = .error x) (hok : ∀ s a, F (.ok s) a = f s a) (l : List α) (r : Except (Status × Nat) State) :
    l.foldl F r = steps f l r := by
  have hF : F = fun r a => r.bind (f · a) := by
    funext r a
    cases r with
    | error x => exact herror x a
    | ok s => exact hok s a
  rw [hF, steps]

/-- Steps from an outcome are steps from its state. -/
theorem steps_bind {α : Type} (f : State → α → Except (Status × Nat) State) (l : List α) (r : Except (Status × Nat) State) :
    steps f l r = r.bind (fun s => steps f l (.ok s)) := by
  cases r with
  | ok s => rfl
  | error x =>
    induction l with
    | nil => rfl
    | cons a l ih => exact ih

/-- Steps that cannot fail. -/
theorem steps_ok {α : Type} (f : State → α → State) (l : List α) (s : State) : steps (fun s a => .ok (f s a)) l (.ok s) = .ok (l.foldl f s) := by
  induction l generalizing s with
  | nil => rfl
  | cons a l ih => exact ih (f s a)

/-- The jobs of steps that write other lanes each. -/
theorem lanesOutcome_steps {α : Type} {b : BitVec 12} {p : Proc} {f : State → α → Except (Status × Nat) State} {jobs : α → List LaneJob}
    {l : List α} (hf : ∀ a ∈ l, ∀ s, lanesOutcome s b p (jobs a) (f s a))
    (hapart : l.Pairwise fun a a' => ∀ q ∈ jobs a, ∀ q' ∈ jobs a', q.g ≠ q'.g) (s : State) :
    lanesOutcome s b p (l.flatMap jobs) (steps f l (.ok s)) := by
  induction l generalizing s with
  | nil => exact lanesOutcome_nil s b p
  | cons a l ih =>
    obtain ⟨ha, hl⟩ := List.pairwise_cons.1 hapart
    have hrest := ih (fun a' ha' => hf a' (List.mem_cons_of_mem _ ha')) hl
    rw [List.flatMap_cons, show steps f (a :: l) (.ok s) = (f s a).bind (fun t => steps f l (.ok t)) from steps_bind f l (f s a)]
    refine lanesOutcome_bind (hf a List.mem_cons_self s) hrest fun q hq q' hq' => ?_
    obtain ⟨a', ha', hq'⟩ := List.mem_flatMap.1 hq'
    exact ha a' ha' q hq q' hq'

end Sys2Proof.Machine

end

section
/-! The beats on the column at the head of the stream: VDOT and VAXPY, and what stops them (R115, R117, R147, R158, R159, R184, R185). -/

open Sys2Proof Sys2Proof.Machine Sys2Proof.Safety

namespace Sys2Proof.Machine

/-! The end of a beat that writes lanes. -/

/-- The beat that a ready unit takes. -/
theorem exec_beatOf {s : State} {b : BitVec 12} {v : Vec} (h : beatReady s b v) {op : Nat} (hop : bits v.word 56 8 = op) :
    exec (.vectorBeat b) s = .next (beatOf s b (procOf s (.unit b)) v op) := hop ▸ exec_vectorBeat h

/-- A beat that writes lanes and then lets its stream go on. -/
theorem closeBeat_lanes {s : State} {b : BitVec 12} {v : Vec} {p : Proc} {jobs : List LaneJob} {r : Except (Status × Nat) State} (h : beatReady s b v)
    (hr : lanesOutcome s b p jobs r) {fin : State → State} {go : Option Stream → Option Stream}
    (hfin : ∀ t, ∃ n, unitOf (fin t) b.toNat = { unitOf t b.toNat with spos := n, stream := go (unitOf t b.toNat).stream }) :
    (inputsGood p (someMarked s b jobs) → ∀ u, u = closeBeat s b (r.map fin) →
      (∀ q ∈ jobs, holds (lane u b q.g) (q.val (lane s b q.g)) (q.mark (lane s b q.g))) ∧ lanesKept s u b (fun g => ∃ q ∈ jobs, q.g = g) ∧
      (procOf u (.unit b)).mem = (procOf s (.unit b)).mem ∧ beatOver s u b v ∧ (unitOf u b.toNat).stream = go (unitOf s b.toNat).stream) ∧
    (inputsFail p (someMarked s b jobs) → endedWith (closeBeat s b (r.map fin)) (.unit b) .dataUncorrectable 0) := by
  refine ⟨fun hgood u hu => ?_, fun hfail => closeBeat_fails h ?_⟩
  · obtain ⟨t, rfl, hdone⟩ := hr.1 hgood
    obtain ⟨n, hn⟩ := hfin t
    obtain ⟨m, hm⟩ := hdone.only
    obtain ⟨hover, hon⟩ := endBeat_over (s := s) (t := fin t) h (by rw [hn, hm]; rfl)
    obtain ⟨hacc, hstream, hmem, -⟩ : _ ∧ _ ∧ _ ∧ _ := by simpa only [onBeat, Prod.mk.injEq] using hon
    have hu' : u = endBeat (fin t) b := hu
    have hlane : ∀ g, lane u b g = lane t b g := fun g => by rw [hu', lane, hacc, hn]; rfl
    refine ⟨fun q hq => hlane q.g ▸ hdone.value q hq, fun g hg => (hlane g).trans (hdone.kept g hg), ?_, hu' ▸ hover, ?_⟩
    · rw [hu', procOf, hmem, hn, hm]
      rfl
    · rw [hu', hstream, hn, hm]
  · obtain ⟨i, rfl⟩ := hr.2 hfail
    exact ⟨i, rfl⟩

/-- A beat does the jobs of the indices in I and lets its stream be o, or under fault a poisoned input of theirs ends the task. -/
def beatWrites {ι : Type} (s : State) (b : BitVec 12) (v : Vec) (p : Proc) (I : ι → Prop) (job : ι → LaneJob) (o : Option Stream) : Prop :=
  (inputsGood p (∃ x, I x ∧ (job x).mark (lane s b (job x).g) = true) →
    ∃ u, exec (.vectorBeat b) s = .next u ∧
      (∀ x, I x → holds (lane u b (job x).g) ((job x).val (lane s b (job x).g)) ((job x).mark (lane s b (job x).g))) ∧
      lanesKept s u b (fun g => ∃ x, I x ∧ g = (job x).g) ∧ bytesKept s u (.unit b) (fun _ => False) ∧ beatOver s u b v ∧
      (unitOf u b.toNat).stream = o) ∧
  (inputsFail p (∃ x, I x ∧ (job x).mark (lane s b (job x).g) = true) →
    ∃ u, exec (.vectorBeat b) s = .next u ∧ endedWith u (.unit b) .dataUncorrectable 0)

section
variable {ι : Type} {I : ι → Prop} {job : ι → LaneJob} {jobs : List LaneJob} {s : State} {b : BitVec 12}
  (hjobs : ∀ q, q ∈ jobs ↔ ∃ x, I x ∧ job x = q)
include hjobs

theorem someMarked_family : someMarked s b jobs ↔ ∃ x, I x ∧ (job x).mark (lane s b (job x).g) = true := by
  simp only [someMarked, hjobs]
  constructor
  · rintro ⟨_, ⟨x, hx, rfl⟩, hmark⟩
    exact ⟨x, hx, hmark⟩
  · rintro ⟨x, hx, hmark⟩
    exact ⟨_, ⟨x, hx, rfl⟩, hmark⟩

/-- A beat whose outcome is that of jobs given by indices. -/
theorem beatWrites_of_outcome {v : Vec} {p : Proc} {r : Except (Status × Nat) State} (h : beatReady s b v) (hr : lanesOutcome s b p jobs r)
    {fin : State → State} {go : Option Stream → Option Stream}
    (hfin : ∀ t, ∃ n, unitOf (fin t) b.toNat = { unitOf t b.toNat with spos := n, stream := go (unitOf t b.toNat).stream })
    (hexec : exec (.vectorBeat b) s = .next (closeBeat s b (r.map fin))) : beatWrites s b v p I job (go (unitOf s b.toNat).stream) := by
  unfold beatWrites
  rw [← someMarked_family hjobs]
  obtain ⟨hgood, hfail⟩ := closeBeat_lanes h hr hfin
  refine ⟨fun hin => ⟨_, hexec, ?_⟩, fun hin => ⟨_, hexec, hfail hin⟩⟩
  obtain ⟨hvalue, hkept, hmem, hrest⟩ := hgood hin _ rfl
  refine ⟨fun x hx => hvalue _ ((hjobs _).2 ⟨x, hx, rfl⟩), fun g hg => hkept g ?_, fun a _ => by rw [hmem], hrest⟩
  rintro ⟨_, hq, rfl⟩
  obtain ⟨x, hx, rfl⟩ := (hjobs _).1 hq
  exact hg ⟨x, hx, rfl⟩

end

/-- The elements of a column with their indices. -/
theorem zipIdx_map_range {α : Type} (f : Nat → α) (n : Nat) : ((List.range n).map f).zipIdx = (List.range n).map (fun i => (f i, i)) := by
  refine List.ext_getElem (by simp) fun i hi hi' => ?_
  simp

/-! The column at the head (R115, R117, R147). -/

section
variable {s : State} {b : BitVec 12} {t : Stream} (hstream : (unitOf s b.toNat).stream = some t) (go : Stream → StreamCol → State)
include hstream

theorem withHead_exhausted (h : t.count ≤ t.taken) : withHead s b go = faultTask s (.unit b) .buFault 0x08 0 0 := by
  simp [withHead, hstream, h]

theorem withHead_empty (h : t.taken < t.count) (hbuf : t.buf = []) : withHead s b go = s := by
  simp [withHead, hstream, Nat.not_le.2 h, hbuf]

theorem withHead_marked (h : t.taken < t.count) {c : StreamCol} {rest : List StreamCol} (hbuf : t.buf = c :: rest) {st : Status}
    (hmark : c.mark = some st) : withHead s b go = faultTask s (.unit b) st 0 (t.off t.taken % 2 ^ 32).toNat 0 := by
  simp [withHead, hstream, Nat.not_le.2 h, hbuf, hmark]

theorem withHead_clean (h : t.taken < t.count) {c : StreamCol} {rest : List StreamCol} (hbuf : t.buf = c :: rest) (hmark : c.mark = none) :
    withHead s b go = go t c := by
  simp [withHead, hstream, Nat.not_le.2 h, hbuf, hmark]

end

/-- The column at the head is consumed, or stays for the next beat. -/
def headPast (last : Prop) [Decidable last] (b : BitVec 12) (s : State) : State := if last then dropHead s b else s

/-- The stream after it. -/
def streamPast (last : Prop) [Decidable last] (o : Option Stream) : Option Stream :=
  if last then o.map (fun t => { t with taken := t.taken + 1, buf := t.buf.tail }) else o

theorem unitOf_headPast (last : Prop) [Decidable last] (b : BitVec 12) (s : State) :
    ∃ n, unitOf (headPast last b s) b.toNat = { unitOf s b.toNat with spos := n, stream := streamPast last (unitOf s b.toNat).stream } := by
  unfold headPast streamPast
  by_cases h : last
  · rw [if_pos h, if_pos h]
    exact ⟨_, unitOf_modUnit_self ..⟩
  · rw [if_neg h, if_neg h]
    exact ⟨_, rfl⟩

theorem streamPast_some {last : Prop} [Decidable last] {t : Stream} {c : StreamCol} {rest : List StreamCol} (hbuf : t.buf = c :: rest) :
    streamPast last (some t) = some (if last then { t with taken := t.taken + 1, buf := rest } else t) := by
  unfold streamPast
  by_cases h : last
  · rw [if_pos h, if_pos h, Option.map_some, hbuf, List.tail_cons]
  · rw [if_neg h, if_neg h]

/-- The poison of a column is judged before what a beat makes of it. -/
theorem takeInput_bind (p : Proc) (bad : Bool) (i : Nat) (s : State) (f : State → Except (Status × Nat) State) :
    (takeInput p bad i (.ok s)).bind f = takeInput p bad i (f s) := by
  unfold takeInput
  split <;> rfl

/-- The lanes of the queries or scalars of a beat, once the poison of its column is judged. -/
theorem lanesOutcome_column {b : BitVec 12} {p : Proc} {f : State → Nat → Except (Status × Nat) State} {jobs : Nat → List LaneJob} {js : List Nat}
    {bad : Bool} (i : Nat) (hf : propagates p = true ∨ bad = false → ∀ j ∈ js, ∀ s, lanesOutcome s b p (jobs j) (f s j))
    (hapart : js.Pairwise fun j j' => ∀ q ∈ jobs j, ∀ q' ∈ jobs j', q.g ≠ q'.g) (s : State) (hbad : bad = true → someMarked s b (js.flatMap jobs)) :
    lanesOutcome s b p (js.flatMap jobs) (steps f js (takeInput p bad i (.ok s))) := by
  rw [steps_bind, takeInput_bind]
  exact lanesOutcome_guard i hbad fun h => lanesOutcome_steps (hf h) hapart s

/-- The queries or scalars of beat k of h, of n: k itself and the one h further on. -/
def pairOfBeat (k h n : Nat) : List Nat := [k, k + h].filter (fun j => decide (j < n))

theorem mem_pairOfBeat {k h n j : Nat} : j ∈ pairOfBeat k h n ↔ (j = k ∨ j = k + h) ∧ j < n := by
  simp [pairOfBeat]

theorem pairOfBeat_pairwise {k h n : Nat} {R : Nat → Nat → Prop} (hR : R k (k + h)) : (pairOfBeat k h n).Pairwise R :=
  List.Pairwise.filter _ (by simpa using hR)

/-! VDOT (R158, R184). -/

/-- What one query makes of its lane: the old value and the exact product of column and query, rounded once. -/
def dotJob (p : Proc) (fmt lf : Nat) (c : StreamCol) (x g : Nat) : LaneJob where
  g := g
  val old := addF32 old.val (toF32 (dotSum ((List.range (perColumn fmt)).map (fun i =>
    (colElem fmt c i).1.mul (decodeNum lf (memNum p (x + i * fmtBytes lf) (fmtBytes lf)))))))
  mark old := old.poison || (List.range (perColumn fmt)).any (fun i => (colElem fmt c i).2 || memBad p (x + i * fmtBytes lf) (fmtBytes lf))

theorem dotStep_outcome (s : State) (b : BitVec 12) {p : Proc} (fmt lf : Nat) (c : StreamCol) (x g : Nat)
    (hcol : propagates p = true ∨ ((List.range (perColumn fmt)).map (colElem fmt c)).any (·.2) = false) :
    lanesOutcome s b p [dotJob p fmt lf c x g] (dotStep b p lf ((List.range (perColumn fmt)).map (colElem fmt c)) x g s) := by
  let qbad := (List.range (perColumn fmt)).any fun i => memBad p (x + i * fmtBytes lf) (fmtBytes lf)
  have hmark : ∀ old : PWord, (dotJob p fmt lf c x g).mark old =
      (old.poison || qbad || ((List.range (perColumn fmt)).map (colElem fmt c)).any (·.2)) := by
    intro old
    rw [Bool.eq_iff_iff]
    simp only [dotJob, qbad, Bool.or_eq_true, List.any_eq_true, List.any_map, Function.comp_apply, and_or_left, exists_or, or_assoc]
    exact or_congr Iff.rfl or_comm
  have hstep : dotStep b p lf ((List.range (perColumn fmt)).map (colElem fmt c)) x g s =
      takeInput p qbad x (takeInput p (lane s b g).poison g (.ok (putLane s b g ((dotJob p fmt lf c x g).val (lane s b g))
        ((dotJob p fmt lf c x g).mark (lane s b g))))) := by
    rw [hmark]
    simp only [dotStep, List.length_map, List.length_range, List.zip_map', List.map_map, List.any_map]
    rfl
  rw [hstep]
  refine lanesOutcome_guard x (fun hq => ⟨_, List.mem_singleton_self _, by simp [hmark, hq]⟩) fun hq => ?_
  refine lanesOutcome_putLane s b (dotJob p fmt lf c x g) g ?_
  rcases hcol with hprop | hcol
  · exact .inl hprop
  · exact hq.imp_right fun hq => by rw [hmark, hq, hcol, Bool.or_false, Bool.or_false]; rfl

/-! VAXPY (R159, R185). -/

/-- What one scalar makes of the lane of one element: the old value and scalar times element, rounded once. -/
def axpyJob (p : Proc) (fmt lf : Nat) (c : StreamCol) (x g i : Nat) : LaneJob where
  g := g + i
  val old := toF32 ((ofF32 old.val).add ((decodeNum lf (memNum p x (fmtBytes lf))).mul (colElem fmt c i).1))
  mark old := old.poison || memBad p x (fmtBytes lf) || (colElem fmt c i).2

/-- A column has elements. -/
theorem perColumn_pos (f : Nat) : 0 < perColumn f := by
  unfold perColumn nibbles
  split_ifs <;> decide

theorem axpyStep_outcome (s : State) (b : BitVec 12) {p : Proc} (fmt lf : Nat) (c : StreamCol) (x g : Nat)
    (hcol : propagates p = true ∨ ((List.range (perColumn fmt)).map (colElem fmt c)).any (·.2) = false) :
    lanesOutcome s b p ((List.range (perColumn fmt)).flatMap fun i => [axpyJob p fmt lf c x g i])
      (axpyStep b p lf ((List.range (perColumn fmt)).map (colElem fmt c)) x g s) := by
  have hstep : axpyStep b p lf ((List.range (perColumn fmt)).map (colElem fmt c)) x g s =
      takeInput p (memBad p x (fmtBytes lf)) x (steps (fun s i => takeInput p (lane s b (g + i)).poison (g + i)
        (.ok (putLane s b (g + i) ((axpyJob p fmt lf c x g i).val (lane s b (g + i))) ((axpyJob p fmt lf c x g i).mark (lane s b (g + i))))))
        (List.range (perColumn fmt)) (.ok s)) := by
    simp only [axpyStep, zipIdx_map_range, List.foldl_map]
    exact congrArg (takeInput p (memBad p x (fmtBytes lf)) x) (foldl_eq_steps (fun _ _ => rfl) (fun _ _ => rfl) _ _)
  rw [hstep]
  refine lanesOutcome_guard x (fun hx => ?_) fun hx => lanesOutcome_steps (fun i hi s => ?_) ?_ s
  · exact ⟨axpyJob p fmt lf c x g 0, List.mem_flatMap.2 ⟨0, List.mem_range.2 (perColumn_pos fmt), List.mem_singleton_self _⟩, by simp [axpyJob, hx]⟩
  · refine lanesOutcome_putLane s b (axpyJob p fmt lf c x g i) (g + i) ?_
    rcases hcol with hprop | hcol
    · exact .inl hprop
    · have hclean : (colElem fmt c i).2 = false := by
        rw [List.any_map, List.any_eq_false] at hcol
        simpa using hcol i hi
      exact hx.imp_right fun hx => by simp [axpyJob, hx, hclean]
  · refine List.Pairwise.imp (fun hne q hq q' hq' => ?_) (List.nodup_range (n := perColumn fmt))
    obtain rfl := List.mem_singleton.1 hq
    obtain rfl := List.mem_singleton.1 hq'
    simp only [axpyJob]
    omega

/-! Their beats. -/

/-- Two numbers rounded up in halves. -/
theorem ceilDiv_two (n : Nat) : ceilDiv n 2 = (n + 1) / 2 := rfl

/-- The local-store address of query j of a VDOT beat. -/
def dotAddr (p : Proc) (v : Vec) (fmt j : Nat) : Nat :=
  ((vaAddr p v.word : Int) + (j : Int) * (shapeOf p (bits v.word 44 3)).s1 +
    ((v.beat / (((shapeOf p (bits v.word 44 3)).n1 + 1) / 2) % ((shapeOf p (bits v.word 44 3)).n0 / perColumn fmt) * perColumn fmt *
      fmtBytes (bits v.word 40 4) : Nat) : Int)).toNat

/-- The lane of its row and query. -/
def dotLane (p : Proc) (v : Vec) (fmt j : Nat) : Nat :=
  vaLane v.word + v.beat / (((shapeOf p (bits v.word 44 3)).n1 + 1) / 2) / ((shapeOf p (bits v.word 44 3)).n0 / perColumn fmt) *
    (shapeOf p (bits v.word 44 3)).n1 + j

/-- What query j of a VDOT beat does. -/
def dotQuery (p : Proc) (v : Vec) (fmt : Nat) (c : StreamCol) (j : Nat) : LaneJob :=
  dotJob p fmt (bits v.word 40 4) c (dotAddr p v fmt j) (dotLane p v fmt j)

/-- The local-store address of scalar j of a VAXPY beat. -/
def axpyAddr (p : Proc) (v : Vec) (j : Nat) : Nat :=
  ((vaAddr p v.word : Int) + ((v.beat / (((shapeOf p (bits v.word 44 3)).n0 + 1) / 2) / bits v.word 32 8 : Nat) : Int) *
    (shapeOf p (bits v.word 44 3)).s1 + ((j * fmtBytes (bits v.word 40 4) : Nat) : Int)).toNat

/-- The first lane of its column. -/
def axpyLane (p : Proc) (v : Vec) (fmt j : Nat) : Nat :=
  32 * (bits v.word 52 4 + j * (bits v.word 32 8 * perColumn fmt / 32)) +
    v.beat / (((shapeOf p (bits v.word 44 3)).n0 + 1) / 2) % bits v.word 32 8 * perColumn fmt

/-- The columns of the two scalars of a VAXPY beat lie on lanes apart. -/
theorem axpyLane_apart (p : Proc) (v : Vec) (fmt k : Nat) {h : Nat} (hcnt : 1 ≤ bits v.word 32 8) (hlanes : bits v.word 32 8 * perColumn fmt % 32 = 0)
    (hh : 1 ≤ h) : axpyLane p v fmt k + perColumn fmt ≤ axpyLane p v fmt (k + h) := by
  have hblock : 32 * (bits v.word 32 8 * perColumn fmt / 32) = bits v.word 32 8 * perColumn fmt :=
    Nat.mul_div_cancel' (Nat.dvd_of_mod_eq_zero hlanes)
  have hcol : perColumn fmt ≤ bits v.word 32 8 * perColumn fmt := Nat.le_mul_of_pos_left _ hcnt
  have hstep : bits v.word 32 8 * perColumn fmt / 32 ≤ h * (bits v.word 32 8 * perColumn fmt / 32) := Nat.le_mul_of_pos_left _ hh
  simp only [axpyLane, Nat.add_mul]
  omega

/-- What scalar j of a VAXPY beat does to the lane of element i. -/
def axpyElem (p : Proc) (v : Vec) (fmt : Nat) (c : StreamCol) (j i : Nat) : LaneJob :=
  axpyJob p fmt (bits v.word 40 4) c (axpyAddr p v j) (axpyLane p v fmt j) i

section
variable {s : State} {b : BitVec 12} {v : Vec} {t : Stream} {c : StreamCol} {rest : List StreamCol} {n h k : Nat}
  (hstream : (unitOf s b.toNat).stream = some t) (htaken : t.taken < t.count) (hbuf : t.buf = c :: rest) (hmark : c.mark = none)
  (hn : 1 ≤ n) (hh : h = (n + 1) / 2) (hk : k = v.beat % h)
include hstream htaken hbuf hmark hn hh hk

theorem vdotBeat_outcome (p : Proc) (hshape : n = (shapeOf p (bits v.word 44 3)).n1) : ∃ r,
    vdotBeat s b p v = closeBeat s b (r.map (headPast (k + 1 = h) b)) ∧
    lanesOutcome s b p ((pairOfBeat k h n).flatMap fun j => [dotQuery p v t.fmt c j]) r := by
  have hkh : k < h := hk ▸ Nat.mod_lt _ (by omega)
  let es := (List.range (perColumn t.fmt)).map (colElem t.fmt c)
  refine ⟨steps (fun s j => dotStep b p (bits v.word 40 4) es (dotAddr p v t.fmt j) (dotLane p v t.fmt j) s) (pairOfBeat k h n)
    (takeInput p (es.any (·.2)) (colInfo t) (.ok s)), ?_, lanesOutcome_column _ (fun hcol j _ s => dotStep_outcome s b t.fmt _ c _ _ hcol) ?_ s
      fun hpoison => ?_⟩
  · subst hk hh hshape
    rw [vdotBeat, withHead_clean hstream _ htaken hbuf hmark]
    refine congrArg (closeBeat s b) ?_
    rw [foldl_eq_steps (f := fun s j => dotStep b p (bits v.word 40 4) es (dotAddr p v t.fmt j) (dotLane p v t.fmt j) s) (fun _ _ => rfl)
      (fun _ _ => rfl)]
    simp only [ceilDiv_two]
    generalize hr : steps _ _ _ = r
    refine Eq.trans ?_ (congrArg (Except.map _) hr.symm)
    cases r <;> rfl
  · refine pairOfBeat_pairwise fun q hq q' hq' => ?_
    obtain rfl := List.mem_singleton.1 hq
    obtain rfl := List.mem_singleton.1 hq'
    simp only [dotJob, dotLane]
    omega
  · refine ⟨_, List.mem_flatMap.2 ⟨k, mem_pairOfBeat.2 ⟨.inl rfl, by omega⟩, List.mem_singleton_self _⟩, ?_⟩
    obtain ⟨e, he, hbad⟩ := List.any_eq_true.1 hpoison
    obtain ⟨i, hi, rfl⟩ := List.mem_map.1 he
    simp only [dotJob, Bool.or_eq_true, List.any_eq_true]
    exact .inr ⟨i, hi, .inl hbad⟩

theorem vaxpyBeat_outcome (p : Proc) (hshape : n = (shapeOf p (bits v.word 44 3)).n0) (hcnt : 1 ≤ bits v.word 32 8)
    (hlanes : bits v.word 32 8 * perColumn t.fmt % 32 = 0) : ∃ r,
    vaxpyBeat s b p v = closeBeat s b (r.map (headPast (k + 1 = h) b)) ∧
    lanesOutcome s b p ((pairOfBeat k h n).flatMap fun j => (List.range (perColumn t.fmt)).flatMap fun i => [axpyElem p v t.fmt c j i]) r := by
  have hkh : k < h := hk ▸ Nat.mod_lt _ (by omega)
  let es := (List.range (perColumn t.fmt)).map (colElem t.fmt c)
  refine ⟨steps (fun s j => axpyStep b p (bits v.word 40 4) es (axpyAddr p v j) (axpyLane p v t.fmt j) s) (pairOfBeat k h n)
    (takeInput p (es.any (·.2)) (colInfo t) (.ok s)), ?_, lanesOutcome_column _ (fun hcol j _ s => axpyStep_outcome s b t.fmt _ c _ _ hcol) ?_ s
      fun hpoison => ?_⟩
  · subst hk hh hshape
    rw [vaxpyBeat, withHead_clean hstream _ htaken hbuf hmark]
    refine congrArg (closeBeat s b) ?_
    rw [foldl_eq_steps (f := fun s j => axpyStep b p (bits v.word 40 4) es (axpyAddr p v j) (axpyLane p v t.fmt j) s) (fun _ _ => rfl)
      (fun _ _ => rfl)]
    generalize hr : steps _ _ _ = r
    refine Eq.trans ?_ (congrArg (Except.map _) hr.symm)
    cases r <;> rfl
  · refine pairOfBeat_pairwise fun q hq q' hq' => ?_
    obtain ⟨i, hi, hq⟩ := List.mem_flatMap.1 hq
    obtain ⟨i', hi', hq'⟩ := List.mem_flatMap.1 hq'
    obtain rfl := List.mem_singleton.1 hq
    obtain rfl := List.mem_singleton.1 hq'
    have hspan := axpyLane_apart p v t.fmt k hcnt hlanes (show 1 ≤ h by omega)
    simp only [List.mem_range] at hi
    simp only [axpyJob]
    omega
  · obtain ⟨e, he, hbad⟩ := List.any_eq_true.1 hpoison
    obtain ⟨i, hi, rfl⟩ := List.mem_map.1 he
    refine ⟨axpyElem p v t.fmt c k i, List.mem_flatMap.2 ⟨k, mem_pairOfBeat.2 ⟨.inl rfl, by omega⟩,
      List.mem_flatMap.2 ⟨i, hi, List.mem_singleton_self _⟩⟩, ?_⟩
    simp [axpyElem, axpyJob, hbad]

/-- A VDOT beat on a clean column. -/
theorem vdot_beat (hready : beatReady s b v) (hop : bits v.word 56 8 = 0x48) {p : Proc} (hp : p = procOf s (.unit b))
    (hshape : n = (shapeOf p (bits v.word 44 3)).n1) :
    beatWrites s b v p (fun j => (j = k ∨ j = k + h) ∧ j < n) (dotQuery p v t.fmt c)
      (some (if k + 1 = h then { t with taken := t.taken + 1, buf := rest } else t)) := by
  obtain ⟨r, hbeat, hr⟩ := vdotBeat_outcome hstream htaken hbuf hmark hn hh hk p hshape
  rw [← streamPast_some hbuf, ← hstream]
  refine beatWrites_of_outcome (fun q => ?_) hready hr (unitOf_headPast _ b) ?_
  · simp only [List.mem_flatMap, mem_pairOfBeat, List.mem_singleton, eq_comm]
  · rw [exec_beatOf hready hop, ← hp, ← hbeat]
    rfl

/-- A VAXPY beat on a clean column. -/
theorem vaxpy_beat (hready : beatReady s b v) (hop : bits v.word 56 8 = 0x49) {p : Proc} (hp : p = procOf s (.unit b))
    (hshape : n = (shapeOf p (bits v.word 44 3)).n0) (hcnt : 1 ≤ bits v.word 32 8) (hlanes : bits v.word 32 8 * perColumn t.fmt % 32 = 0) :
    beatWrites s b v p (fun x : Nat × Nat => (x.1 = k ∨ x.1 = k + h) ∧ x.1 < n ∧ x.2 < perColumn t.fmt) (fun x => axpyElem p v t.fmt c x.1 x.2)
      (some (if k + 1 = h then { t with taken := t.taken + 1, buf := rest } else t)) := by
  obtain ⟨r, hbeat, hr⟩ := vaxpyBeat_outcome hstream htaken hbuf hmark hn hh hk p hshape hcnt hlanes
  rw [← streamPast_some hbuf, ← hstream]
  refine beatWrites_of_outcome (fun q => ?_) hready hr (unitOf_headPast _ b) ?_
  · simp only [List.mem_flatMap, mem_pairOfBeat, List.mem_singleton, List.mem_range, Prod.exists, and_assoc, exists_and_left, eq_comm]
  · rw [exec_beatOf hready hop, ← hp, ← hbeat]
    rfl

end

/-- What stops a beat on the column at the head: an exhausted stream, an empty buffer, a marked column (R115, R147). -/
theorem withHead_stops {s u : State} {b : BitVec 12} {v : Vec} {t : Stream} (hready : beatReady s b v) (hstream : (unitOf s b.toNat).stream = some t)
    {go : Stream → StreamCol → State} (hu : u = withHead s b go) :
    (t.count ≤ t.taken → faulted s u (.unit b) 0x08) ∧ (t.taken < t.count → t.buf = [] → u = s) ∧
    (∀ c rest st, t.taken < t.count → t.buf = c :: rest → c.mark = some st → st ≠ .fetchPoison → endedWith u (.unit b) st 0) := by
  obtain ⟨-, htask, hended, -, -⟩ := hready
  obtain ⟨k, hk⟩ := Option.ne_none_iff_exists'.1 htask
  subst hu
  refine ⟨fun h => ?_, fun h hbuf => withHead_empty hstream go h hbuf, fun c rest st h hbuf hmark hst => ?_⟩
  · refine ⟨0, ?_⟩
    rw [withHead_exhausted hstream go h, ended_faultTask hk hended, corePayload, unitPayload_eq_faultBytes]
    rfl
  · rw [withHead_marked hstream go h hbuf hmark]
    exact endedWith_faultTask hk hended hst ..

/-- The beats that read the column at the head of the stream. -/
theorem beatOf_withHead {s : State} {b : BitVec 12} {v : Vec}
    (hop : bits v.word 56 8 = 0x48 ∨ bits v.word 56 8 = 0x49 ∨ (bits v.word 56 8 = 0x55 ∧ bit v.word 0 = true)) :
    ∃ go, beatOf s b (procOf s (.unit b)) v (bits v.word 56 8) = withHead s b go := by
  rcases hop with hop | hop | ⟨hop, hstream⟩
  · exact hop ▸ ⟨_, rfl⟩
  · exact hop ▸ ⟨_, rfl⟩
  · exact hop ▸ ⟨_, if_pos hstream⟩

end Sys2Proof.Machine

end

section
/-! The beats of VLD (R108, R164, R345, R472). -/

open Sys2Proof Sys2Proof.Machine Sys2Proof.Safety

namespace Sys2Proof.Machine

/-- A lane that takes a value and a mark whatever it held. -/
def constJob (g : Nat) (val : Word) (bad : Bool) : LaneJob where
  g := g
  val _ := val
  mark _ := bad

/-- Consecutive lanes written from inputs that are judged first. -/
theorem lanesOutcome_reads (s : State) (b : BitVec 12) (p : Proc) (n l : Nat) (x : Nat → Nat) (val : Nat → Word) (bad : Nat → Bool) :
    lanesOutcome s b p ((List.range n).flatMap fun i => [constJob (l + i) (val i) (bad i)])
      (takeAll p ((List.range n).map fun i => (x i, bad i)) (.ok ((List.range n).foldl (fun s i => putLane s b (l + i) (val i) (bad i)) s))) := by
  have hmarked : (∃ e ∈ (List.range n).map fun i => (x i, bad i), e.2 = true) ↔
      someMarked s b ((List.range n).flatMap fun i => [constJob (l + i) (val i) (bad i)]) := by
    simp [someMarked, constJob]
  obtain ⟨hgood, hfail⟩ := takeAll_cases p ((List.range n).map fun i => (x i, bad i))
    (.ok ((List.range n).foldl (fun s i => putLane s b (l + i) (val i) (bad i)) s))
  rw [hmarked] at hgood hfail
  refine ⟨fun hin => ?_, hfail⟩
  rw [hgood hin, ← steps_ok]
  refine (lanesOutcome_steps (p := p) (fun i hi t => ?_) ?_ s).1 hin
  · rw [← takeInput_good (p := p) (.inr rfl) 0 (.ok _)]
    refine lanesOutcome_putLane t b (constJob (l + i) (val i) (bad i)) 0 (hin.imp_right fun hno => ?_)
    refine Bool.eq_false_iff.2 fun hbad => hno ⟨constJob (l + i) (val i) (bad i), ?_, hbad⟩
    exact List.mem_flatMap.2 ⟨i, hi, List.mem_singleton_self _⟩
  · refine List.Pairwise.imp (fun hne q hq q' hq' => ?_) (List.nodup_range (n := n))
    obtain rfl := List.mem_singleton.1 hq
    obtain rfl := List.mem_singleton.1 hq'
    simp only [constJob]
    omega

/-- The elements of the piece of a beat with their lanes. -/
theorem flatPiece_lanes (sh : Shape) (a z per beat l : Nat) :
    (flatPiece sh per beat).zipIdx.map (fun i => (elemAddr sh a z i.1.1 i.1.2, l + i.2)) =
      (List.range (min per (sh.n0 * sh.n1 - beat * per))).map fun i => (elemAt sh a z (beat * per + i), l + i) := by
  rw [flatPiece, zipIdx_map_range, List.map_map]
  rfl

/-- The local-store address of element i of a VLD or VST beat of per elements. -/
def movedAt (p : Proc) (v : Vec) (per i : Nat) : Nat :=
  elemAt (shapeOf p (bits v.word 44 3)) (vaAddr p v.word) (fmtBytes (bits v.word 40 4)) (v.beat * per + i)

/-- The lane of element i of a VLD or VST beat. -/
def movedLane (v : Vec) (per i : Nat) : Nat := vaLane v.word + v.beat * per + i

/-- What element i of a VLD beat does. -/
def vldJob (p : Proc) (v : Vec) (per i : Nat) : LaneJob :=
  constJob (movedLane v per i) (BitVec.ofNat 32 (convertRaw (bits v.word 40 4) 0 (memNum p (movedAt p v per i) (fmtBytes (bits v.word 40 4)))))
    (memBad p (movedAt p v per i) (fmtBytes (bits v.word 40 4)))

theorem mem_jobs_range {n : Nat} {job : Nat → LaneJob} {q : LaneJob} :
    q ∈ (List.range n).flatMap (fun i => [job i]) ↔ ∃ i, i < n ∧ job i = q := by
  simp only [List.mem_flatMap, List.mem_range, List.mem_singleton, eq_comm]

/-- Elements of a beat without ZERO. -/
theorem vaPerBeat_moved {sh : Shape} {w : Word64} (h : vldZero w = false) : vaPerBeat sh w = if sh.s0 = 1 then 64 / fmtBytes (bits w 40 4) else 8 := by
  simp [vaPerBeat, h]

/-- A VLD beat from the local store. -/
theorem vld_beat {s : State} {b : BitVec 12} {v : Vec} {p : Proc} {per n : Nat} (hready : beatReady s b v) (hp : p = procOf s (.unit b))
    (hop : bits v.word 56 8 = 0x58) (hzero : vldZero v.word = false) (hper : per = vaPerBeat (shapeOf p (bits v.word 44 3)) v.word)
    (hn : n = min per ((shapeOf p (bits v.word 44 3)).n0 * (shapeOf p (bits v.word 44 3)).n1 - v.beat * per)) :
    beatWrites s b v p (fun i => i < n) (vldJob p v per) (unitOf s b.toNat).stream := by
  refine beatWrites_of_outcome (fin := id) (go := id) (fun q => mem_jobs_range) hready
    (lanesOutcome_reads s b p n (vaLane v.word + v.beat * per) (movedAt p v per) _ _) (fun t => ⟨_, rfl⟩) ?_
  rw [exec_beatOf hready hop, ← hp]
  refine congrArg Host.Outcome.next ((if_neg (by simp [hzero])).trans ?_)
  rw [flatPiece_lanes, List.map_map, List.foldl_map, Except.map_id, ← hper, ← hn]
  rfl

/-- Consecutive lanes cleared. -/
def clearLanes (s : State) (b : BitVec 12) (l n : Nat) : State := (List.range n).foldl (fun s i => putLane s b (l + i) 0 false) s

theorem lane_clearLanes (s : State) (b : BitVec 12) (l n g : Nat) :
    lane (clearLanes s b l n) b g = if l ≤ g ∧ g < l + n then { val := 0, poison := false } else lane s b g := by
  induction n with
  | zero => exact (if_neg (by omega)).symm
  | succ n ih =>
    rw [clearLanes, List.range_succ, List.foldl_append, List.foldl_cons, List.foldl_nil, lane_putLane, ← clearLanes, ih]
    by_cases hg : g = l + n
    · rw [if_pos hg, if_pos (by omega)]
      rfl
    · rw [if_neg hg]
      exact if_congr (by omega) rfl rfl

theorem unitOf_clearLanes (s : State) (b : BitVec 12) (l n : Nat) : ∃ m, unitOf (clearLanes s b l n) b.toNat = { unitOf s b.toNat with acc := m } := by
  induction n with
  | zero => exact ⟨_, rfl⟩
  | succ n ih =>
    obtain ⟨m, hm⟩ := ih
    rw [clearLanes, List.range_succ, List.foldl_append, List.foldl_cons, List.foldl_nil, unitOf_putLane, ← clearLanes, hm]
    exact ⟨_, rfl⟩

/-- A VLD beat with ZERO. -/
theorem vldZero_beat {s : State} {b : BitVec 12} {v : Vec} (hready : beatReady s b v) (hzero : vldZero v.word = true) {n : Nat}
    (hn : n = min 32 ((shapeOf (procOf s (.unit b)) (bits v.word 44 3)).n0 * (shapeOf (procOf s (.unit b)) (bits v.word 44 3)).n1 - v.beat * 32)) :
    ∃ t, exec (.vectorBeat b) s = .next t ∧
      (∀ g, lane t b g = if vaLane v.word + v.beat * 32 ≤ g ∧ g < vaLane v.word + v.beat * 32 + n then { val := 0, poison := false } else lane s b g) ∧
      beatOver s t b v ∧ (procOf t (.unit b)).mem = (procOf s (.unit b)).mem := by
  obtain ⟨hop, -⟩ : bits v.word 56 8 = 0x58 ∧ bit v.word 4 = true := by simpa [vldZero] using hzero
  have hper (sh : Shape) : vaPerBeat sh v.word = 32 := if_pos hzero
  obtain ⟨m, hm⟩ := unitOf_clearLanes s b (vaLane v.word + v.beat * 32) n
  obtain ⟨hover, hon⟩ := endBeat_over (s := s) (t := clearLanes s b (vaLane v.word + v.beat * 32) n) hready (by rw [hm]; rfl)
  obtain ⟨hacc, -, hmem, -⟩ : _ ∧ _ ∧ _ ∧ _ := by simpa only [onBeat, Prod.mk.injEq] using hon
  refine ⟨_, ?_, fun g => ?_, hover, hmem.trans (by rw [hm]; rfl)⟩
  · rw [exec_beatOf hready hop]
    refine congrArg Host.Outcome.next ((if_pos hzero).trans ?_)
    rw [flatPiece_lanes, List.foldl_map, hper, ← hn]
    rfl
  · rw [← lane_clearLanes, lane, hacc]
    rfl

end Sys2Proof.Machine

end

section
/-! The elements that a beat stores in the local store (R138, R139, R345). -/

open Sys2Proof Sys2Proof.Machine Sys2Proof.Safety

namespace Sys2Proof.Machine

/-! One write of bytes with their marks. -/

/-- A byte after a write in which each of its cells gives it one value. -/
theorem mget_foldl_cells {l : List (Nat × Byte × Bool)} {a : Nat} {x : Byte} (h : ∀ c ∈ l, c.1 = a → c.2.1 = x) (m : List Host.Cell) :
    mget 0 (l.foldl (fun m c => mset 0 m c.1 c.2.1) m) a = if a ∈ l.map (·.1) then x else mget 0 m a := by
  induction l generalizing m with
  | nil => rfl
  | cons c l ih =>
    rw [List.foldl_cons, ih fun c' hc' => h c' (List.mem_cons_of_mem _ hc'), mget_mset]
    by_cases hl : a ∈ l.map (·.1)
    · simp [hl]
    · by_cases hc : a = c.1
      · simp [hc, h c List.mem_cons_self hc.symm]
      · simp [hl, hc]

/-- The mark that a write of cells leaves on word w, of mark x before. -/
def markAfter (l : List (Nat × Byte × Bool)) (w : Nat) (x : Bool) : Bool :=
  if (l.filter fun c => c.1 / 4 == w).any (·.2.2) then true
  else if ((l.filter fun c => c.1 / 4 == w).map (·.1)).dedup.length == 4 then false else x

theorem markAfter_again (l : List (Nat × Byte × Bool)) (w : Nat) (x : Bool) : markAfter l w (markAfter l w x) = markAfter l w x := by
  unfold markAfter
  split_ifs <;> rfl

/-- A write's mark of one word. -/
def markWord (l : List (Nat × Byte × Bool)) (m : SMap Bool) (w : Nat) : SMap Bool :=
  let mine := l.filter (fun c => c.1 / 4 == w)
  if mine.any (fun c => c.2.2) then mset false m w true
  else if (mine.map (·.1)).dedup.length == 4 then mset false m w false
  else m

theorem memPoison_eq_foldl_markWord (p : Proc) (l : List (Nat × Byte × Bool)) :
    (memStore p l).memPoison = (l.map (fun c => c.1 / 4)).dedup.foldl (markWord l) p.memPoison := rfl

theorem mget_markWord (l : List (Nat × Byte × Bool)) (m : SMap Bool) (w' w : Nat) :
    mget false (markWord l m w') w = if w = w' then markAfter l w (mget false m w) else mget false m w := by
  unfold markWord markAfter
  by_cases hw : w = w'
  · subst hw
    simp only [if_true]
    split_ifs <;> simp
  · simp only [if_neg hw]
    split_ifs <;> simp [mget_mset, hw]

/-- Marks set word by word. -/
theorem mget_foldl_markWord (l : List (Nat × Byte × Bool)) (ws : List Nat) (m : SMap Bool) (w : Nat) :
    mget false (ws.foldl (markWord l) m) w = if w ∈ ws then markAfter l w (mget false m w) else mget false m w := by
  induction ws generalizing m with
  | nil => rfl
  | cons w' ws ih =>
    rw [List.foldl_cons, ih, mget_markWord]
    by_cases hw : w = w'
    · by_cases hws : w ∈ ws <;> simp [hw, markAfter_again]
    · simp [hw]

/-- The mark of a word after a write that reaches it. -/
theorem memPoison_memStore (p : Proc) {l : List (Nat × Byte × Bool)} {w : Nat} (h : ∃ c ∈ l, c.1 / 4 = w) :
    mget false (memStore p l).memPoison w = markAfter l w (mget false p.memPoison w) := by
  rw [memPoison_eq_foldl_markWord, mget_foldl_markWord, if_pos]
  simpa [List.mem_dedup] using h

/-! The cells of the elements of a beat. -/

theorem elemCells_eq_map (a z raw : Nat) (bad : Bool) :
    elemCells a z raw bad = (List.range z).map fun j => (a + j, BitVec.ofNat 8 (raw / 256 ^ j), bad) := by
  rw [elemCells, leBytes_eq_map, zipIdx_map_range, List.map_map]
  rfl

/-- The cells of elements hold the bits given where they are clean. -/
theorem cellsOf_elems (z : Nat) (d raw : Nat → Nat) (bad : Nat → Bool) {l : List Nat} (hl : l.Nodup) (s : State) :
    ∃ (val : Nat → Nat) (k : Nat), (∀ i, bad i = false → val i = raw i % 256 ^ z) ∧
      cellsOf s (l.map fun i => (d i, z, raw i, bad i)) = (l.flatMap fun i => elemCells (d i) z (val i) (bad i), { s with free := k }) := by
  induction l generalizing s with
  | nil => exact ⟨fun i => raw i % 256 ^ z, s.free, fun _ _ => rfl, rfl⟩
  | cons a l ih =>
    obtain ⟨hnot, hrest⟩ := List.nodup_cons.1 hl
    obtain ⟨first, k, hfirst, hsettle⟩ : ∃ first k, (bad a = false → first = raw a % 256 ^ z) ∧
        settleRaw s (raw a % 256 ^ z) (bad a) = (first, { s with free := k }) := by
      cases hbad : bad a
      · exact ⟨_, s.free, fun _ => rfl, rfl⟩
      · exact ⟨_, _, fun h => absurd h (by decide), rfl⟩
    obtain ⟨val, k', hval, hcells⟩ := ih hrest { s with free := k }
    refine ⟨Function.update val a first, k', fun i hi => ?_, ?_⟩
    · by_cases hia : i = a
      · subst hia
        rw [Function.update_self, hfirst hi]
      · rw [Function.update_of_ne hia, hval i hi]
    · have hsame : (l.flatMap fun i => elemCells (d i) z (Function.update val a first i) (bad i)) =
          l.flatMap fun i => elemCells (d i) z (val i) (bad i) := by
        refine List.flatMap_congr fun i hi => ?_
        rw [Function.update_of_ne (ne_of_mem_of_not_mem hi hnot)]
      rw [List.flatMap_cons, hsame, Function.update_self, List.map_cons, cellsOf, hsettle]
      simp only [hcells]

/-- From s to t unit b has stored n elements of z bytes: their bits where they are clean, their marks, and no other byte. -/
structure ElemsStored (s t : State) (b : BitVec 12) (z n : Nat) (d raw : Nat → Nat) (bad : Nat → Bool) : Prop where
  value : ∀ i < n, bad i = false → memNum (procOf t (.unit b)) (d i) z = raw i % 256 ^ z
  mark  : z = 4 → ∀ i < n, d i % 4 = 0 → mget false (procOf t (.unit b)).memPoison (d i / 4) = bad i
  kept  : bytesKept s t (.unit b) (fun c => ∃ i < n, d i ≤ c ∧ c < d i + z)

/-- The cells of n elements. -/
def elemsCells (z n : Nat) (d val : Nat → Nat) (bad : Nat → Bool) : List (Nat × Byte × Bool) :=
  (List.range n).flatMap fun i => elemCells (d i) z (val i) (bad i)

section
variable {z n : Nat} {d val : Nat → Nat} {bad : Nat → Bool}

theorem mem_elemsCells {c : Nat × Byte × Bool} :
    c ∈ elemsCells z n d val bad ↔ ∃ i < n, ∃ j < z, (d i + j, BitVec.ofNat 8 (val i / 256 ^ j), bad i) = c := by
  simp only [elemsCells, elemCells_eq_map, List.mem_flatMap, List.mem_map, List.mem_range]

theorem mem_elemsCells_addr {a : Nat} : a ∈ (elemsCells z n d val bad).map (·.1) ↔ ∃ i < n, d i ≤ a ∧ a < d i + z := by
  simp only [List.mem_map, mem_elemsCells]
  constructor
  · rintro ⟨c, ⟨i, hi, j, hj, rfl⟩, rfl⟩
    exact ⟨i, hi, Nat.le_add_right _ _, Nat.add_lt_add_left hj _⟩
  · rintro ⟨i, hi, hle, hlt⟩
    exact ⟨_, ⟨i, hi, a - d i, by omega, rfl⟩, by simp only; omega⟩

variable (happart : ∀ i < n, ∀ j < n, i ≠ j → d i + z ≤ d j ∨ d j + z ≤ d i)
include happart

/-- A cell of one element is of no other. -/
theorem elemsCells_own {c : Nat × Byte × Bool} (hc : c ∈ elemsCells z n d val bad) {i j : Nat} (hi : i < n) (hj : j < z) (haddr : c.1 = d i + j) :
    c.2 = (BitVec.ofNat 8 (val i / 256 ^ j), bad i) := by
  obtain ⟨i', hi', j', hj', rfl⟩ := mem_elemsCells.1 hc
  simp only at haddr
  obtain rfl : i' = i := by
    by_contra hne
    have := happart i' hi' i hi hne
    omega
  obtain rfl : j' = j := by omega
  rfl

/-- A byte of an element after the write. -/
theorem mget_elemsCells (m : List Host.Cell) {i j : Nat} (hi : i < n) (hj : j < z) :
    mget 0 ((elemsCells z n d val bad).foldl (fun m c => mset 0 m c.1 c.2.1) m) (d i + j) = BitVec.ofNat 8 (val i / 256 ^ j) := by
  rw [mget_foldl_cells fun c hc haddr => congrArg Prod.fst (elemsCells_own happart hc hi hj haddr)]
  exact if_pos (mem_elemsCells_addr.2 ⟨i, hi, by omega, by omega⟩)

/-- An aligned word that one element makes takes the mark of the element. -/
theorem markAfter_elemsCells (hz : z = 4) {i : Nat} (hi : i < n) (halign : d i % 4 = 0) (x : Bool) :
    markAfter (elemsCells z n d val bad) (d i / 4) x = bad i := by
  subst hz
  have hmine (c : Nat × Byte × Bool) : c ∈ (elemsCells 4 n d val bad).filter (fun c => c.1 / 4 == d i / 4) ↔
      ∃ j < 4, (d i + j, BitVec.ofNat 8 (val i / 256 ^ j), bad i) = c := by
    simp only [List.mem_filter, beq_iff_eq]
    constructor
    · rintro ⟨hc, hword⟩
      refine ⟨c.1 - d i, by omega, ?_⟩
      rw [← elemsCells_own happart hc hi (show c.1 - d i < 4 by omega) (by omega), show d i + (c.1 - d i) = c.1 by omega]
    · rintro ⟨j, hj, rfl⟩
      exact ⟨mem_elemsCells.2 ⟨i, hi, j, hj, rfl⟩, by simp only; omega⟩
  have hany : ((elemsCells 4 n d val bad).filter fun c => c.1 / 4 == d i / 4).any (·.2.2) = bad i := by
    rw [Bool.eq_iff_iff, List.any_eq_true]
    constructor
    · rintro ⟨c, hc, hbad⟩
      obtain ⟨j, -, rfl⟩ := (hmine c).1 hc
      exact hbad
    · exact fun hbad => ⟨_, (hmine _).2 ⟨0, by decide, rfl⟩, hbad⟩
  have hwhole : (((elemsCells 4 n d val bad).filter fun c => c.1 / 4 == d i / 4).map (·.1)).dedup.length = 4 := by
    have hset : (((elemsCells 4 n d val bad).filter fun c => c.1 / 4 == d i / 4).map (·.1)).toFinset = Finset.Ico (d i) (d i + 4) := by
      ext a
      simp only [List.mem_toFinset, List.mem_map, hmine, Finset.mem_Ico]
      constructor
      · rintro ⟨c, ⟨j, hj, rfl⟩, rfl⟩
        exact ⟨Nat.le_add_right _ _, Nat.add_lt_add_left hj _⟩
      · rintro ⟨hle, hlt⟩
        exact ⟨_, ⟨a - d i, by omega, rfl⟩, by simp only; omega⟩
    rw [← List.card_toFinset, hset, Nat.card_Ico]
    omega
  unfold markAfter
  rw [hany, hwhole]
  cases bad i <;> rfl

/-- A beat's results stored, on elements apart. -/
theorem storeOuts_elems (hz : 0 < z) (s : State) (b : BitVec 12) (raw : Nat → Nat) :
    ElemsStored s (storeOuts s b ((List.range n).map fun i => (d i, z, raw i, bad i))) b z n d raw bad ∧
    ∃ m mp, unitOf (storeOuts s b ((List.range n).map fun i => (d i, z, raw i, bad i))) b.toNat =
      { unitOf s b.toNat with proc := { (unitOf s b.toNat).proc with mem := m, memPoison := mp } } := by
  obtain ⟨val, k, hval, hcells⟩ := cellsOf_elems z d raw bad (List.nodup_range (n := n)) s
  have hunit : unitOf (storeOuts s b ((List.range n).map fun i => (d i, z, raw i, bad i))) b.toNat =
      { unitOf s b.toNat with proc := memStore (unitOf s b.toNat).proc (elemsCells z n d val bad) } := by
    simp only [storeOuts, hcells, unitOf_modProc_self]
    rfl
  have hproc := congrArg BankUnit.proc hunit
  refine ⟨⟨fun i hi hclean => ?_, fun hz4 i hi halign => ?_, fun a ha => ?_⟩, _, _, hunit⟩
  · have hbytes : mgetAll 0 (memStore (unitOf s b.toNat).proc (elemsCells z n d val bad)).mem (d i) z = leBytes z (val i) := by
      rw [leBytes_eq_map]
      exact List.map_congr_left fun j hj => mget_elemsCells happart _ hi (List.mem_range.1 hj)
    rw [procOf, hproc, memNum, hbytes, leNat_leBytes, hval i hclean, Nat.mod_mod]
  · rw [procOf, hproc, memPoison_memStore, markAfter_elemsCells happart hz4 hi halign]
    exact ⟨_, mem_elemsCells.2 ⟨i, hi, 0, hz, rfl⟩, rfl⟩
  · rw [procOf, hproc]
    refine (mget_foldl_cells (x := 0) (fun c hc haddr => absurd ?_ ha) _).trans (if_neg fun hin => ha (mem_elemsCells_addr.1 hin))
    exact mem_elemsCells_addr.1 (List.mem_map.2 ⟨c, hc, haddr⟩)

end

end Sys2Proof.Machine

end

section
/-! The beats that store elements: VST, VMUL, VADD, VMAX and VEXP (R160, R161, R164, R182, R345, R472). -/

open Sys2Proof Sys2Proof.Machine Sys2Proof.Safety

namespace Sys2Proof.Machine

/-! The places of elements (R138, R139). -/

/-- No row of an operand inside the local store begins below 0. -/
theorem row_nonneg {o : Rows} (hrange : o.range 65536 = []) (hrl : o.rl ≠ 0) {i : Nat} (hi : i < o.n) : 0 ≤ o.row i := by
  have hlow : 0 ≤ min (o.row 0) (o.row (o.n - 1)) := by
    by_contra hneg
    rw [Rows.range, if_neg (by omega)] at hrange
    simp [not_le.1 hneg] at hrange
  obtain ⟨hfirst, hlast⟩ := le_min_iff.1 hlow
  simp only [Rows.row] at *
  rcases le_total 0 o.s with hs | hs
  · have : 0 ≤ (i : Int) * o.s := mul_nonneg (by omega) hs
    simp at hfirst
    omega
  · have : ((o.n - 1 : Nat) : Int) * o.s ≤ (i : Int) * o.s := mul_le_mul_of_nonpos_right (by omega) hs
    omega

/-- Rows that do not share a byte. -/
theorem row_apart {o : Rows} (hs : o.n = 1 ∨ o.rl ≤ o.s.natAbs) {i j : Nat} (hij : i < j) (hj : j < o.n) :
    o.row i + o.rl ≤ o.row j ∨ o.row j + o.rl ≤ o.row i := by
  have hlen : (o.rl : Int) ≤ |o.s| := by
    rw [← Int.natCast_natAbs]
    exact_mod_cast hs.resolve_left (by omega)
  obtain ⟨k, rfl⟩ := Nat.exists_eq_add_of_lt hij
  have hfar : |o.s| ≤ ((k : Int) + 1) * |o.s| := le_mul_of_one_le_left (abs_nonneg _) (by omega)
  have hdist : o.row (i + k + 1) = o.row i + ((k : Int) + 1) * o.s := by
    simp only [Rows.row]
    push_cast
    ring
  rcases abs_cases o.s with ⟨habs, -⟩ | ⟨habs, -⟩
  · rw [habs] at hlen hfar
    omega
  · rw [habs, mul_neg] at hfar
    omega

section
variable {sh : Shape} {a z : Nat}

/-- An element lies within its row. -/
theorem elem_in_row (hn : 1 ≤ sh.n0) (k : Nat) : k % sh.n0 * sh.s0 * z + z ≤ (rowsOf sh a z).rl := by
  have hlast : k % sh.n0 ≤ sh.n0 - 1 := by
    have := Nat.mod_lt k hn
    omega
  calc k % sh.n0 * sh.s0 * z + z = (k % sh.n0 * sh.s0 + 1) * z := by ring
    _ ≤ ((sh.n0 - 1) * sh.s0 + 1) * z := Nat.mul_le_mul_right z (Nat.add_le_add_right (Nat.mul_le_mul_right _ hlast) 1)

variable (hrows : rowsApart (rowsOf sh a z)) (hz : 0 < z)
include hrows hz

/-- The place of element k of an operand inside the local store. -/
theorem elemAt_eq_row {k : Nat} (hk : k < sh.n0 * sh.n1) :
    (elemAt sh a z k : Int) = (rowsOf sh a z).row (k / sh.n0) + (k % sh.n0 * sh.s0 * z : Nat) := by
  have hrow : 0 ≤ (rowsOf sh a z).row (k / sh.n0) := row_nonneg hrows.1 (Nat.mul_ne_zero (by omega) (by omega)) (Nat.div_lt_of_lt_mul hk)
  exact Int.toNat_of_nonneg (add_nonneg hrow (by omega))

/-- Two elements of an operand share no byte. -/
theorem elemAt_apart (hn : 1 ≤ sh.n0) (hs : 1 ≤ sh.s0) {k j : Nat} (hkj : k < j) (hj : j < sh.n0 * sh.n1) :
    elemAt sh a z k + z ≤ elemAt sh a z j ∨ elemAt sh a z j + z ≤ elemAt sh a z k := by
  have hk := elemAt_eq_row hrows hz (hkj.trans hj)
  have hj' := elemAt_eq_row hrows hz hj
  have hink := elem_in_row (a := a) (z := z) hn k
  have hinj := elem_in_row (a := a) (z := z) hn j
  rcases (Nat.div_le_div_right hkj.le : k / sh.n0 ≤ j / sh.n0).eq_or_lt with hsame | hother
  · have hcol : k % sh.n0 + 1 ≤ j % sh.n0 := by
      have hk' := Nat.div_add_mod k sh.n0
      have hj' := Nat.div_add_mod j sh.n0
      rw [hsame] at hk'
      omega
    have hstep : (k % sh.n0 + 1) * (sh.s0 * z) ≤ j % sh.n0 * (sh.s0 * z) := Nat.mul_le_mul_right _ hcol
    have hsize : z ≤ sh.s0 * z := Nat.le_mul_of_pos_left z hs
    rw [hsame] at hk
    simp only [Nat.add_mul, one_mul, ← Nat.mul_assoc] at hstep
    omega
  · have := row_apart hrows.2 hother (Nat.div_lt_of_lt_mul hj)
    omega

/-- The elements of a piece share no byte. -/
theorem piece_apart (hn : 1 ≤ sh.n0) (hs : 1 ≤ sh.s0) {k n : Nat} (hfit : ∀ i < n, k + i < sh.n0 * sh.n1) :
    ∀ i < n, ∀ j < n, i ≠ j → elemAt sh a z (k + i) + z ≤ elemAt sh a z (k + j) ∨ elemAt sh a z (k + j) + z ≤ elemAt sh a z (k + i) := by
  intro i hi j hj hij
  rcases lt_or_gt_of_ne hij with hlt | hlt
  · exact elemAt_apart hrows hz hn hs (Nat.add_lt_add_left hlt k) (hfit _ ‹_›)
  · exact (elemAt_apart hrows hz hn hs (Nat.add_lt_add_left hlt k) (hfit _ ‹_›)).symm

end

/-! The bits of a format (R182). -/

/-- The encodings of a float format that a plain code names leave room for the sign. -/
theorem floatFmt_fits {f : Nat} (hf : f ≤ 3) : 256 ^ fmtBytes f = 2 ^ (floatFmt f).width ∧ 0 < (floatFmt f).width ∧
    (floatFmt f).top < 2 ^ ((floatFmt f).width - 1) ∧ (floatFmt f).infB.getD 0 < 2 ^ ((floatFmt f).width - 1) ∧
    (floatFmt f).nanB.getD 0 < 2 ^ ((floatFmt f).width - 1) := by
  interval_cases f <;> decide

theorem withSign_lt {k : FloatFmt} (hwidth : 0 < k.width) (neg : Bool) {mag : Nat} (h : mag < 2 ^ (k.width - 1)) : withSign k neg mag < 2 ^ k.width := by
  have hsign : b2n neg ≤ 1 := by cases neg <;> decide
  have htop := Nat.mul_le_mul_right (2 ^ (k.width - 1)) hsign
  rw [withSign, ← Nat.two_pow_pred_add_two_pow_pred hwidth]
  omega

/-- A value encoded fits its format. -/
theorem encodeNum_lt {f : Nat} (hf : f ≤ 4) (x : Num) : encodeNum f x < 256 ^ fmtBytes f := by
  unfold encodeNum
  by_cases hint : f = 4
  · rw [if_pos hint]
    subst hint
    show _ < 256
    cases x with
    | nan => decide
    | inf n => cases n <;> decide
    | fin n m e => cases n <;> simp only [Bool.false_eq_true, if_true, if_false] <;> omega
  · rw [if_neg hint]
    obtain ⟨hbytes, hwidth, htop, hinf, hnan⟩ := floatFmt_fits (show f ≤ 3 by omega)
    have hroom : 2 ^ ((floatFmt f).width - 1) ≤ 2 ^ (floatFmt f).width := Nat.pow_le_pow_right (by decide) (Nat.sub_le _ _)
    rw [hbytes]
    cases x with
    | nan => exact hnan.trans_le hroom
    | inf n =>
      cases hcode : (floatFmt f).infB with
      | none => simpa only [hcode] using hnan.trans_le hroom
      | some i =>
        simp only [hcode]
        exact withSign_lt hwidth n (by simpa only [hcode, Option.getD_some] using hinf)
    | fin n m e =>
      simp only
      split_ifs with hfit
      · exact withSign_lt hwidth n (hfit.trans_lt htop)
      · exact withSign_lt hwidth n hinf
      · exact withSign_lt hwidth n htop

theorem convertRaw_lt {f : Nat} (hf : f ≤ 4) {raw : Nat} (h : raw < 2 ^ 32) : convertRaw 0 f raw < 256 ^ fmtBytes f := by
  unfold convertRaw
  split_ifs with h0
  · subst h0
    exact h
  · exact encodeNum_lt hf _

/-! The beats. -/

theorem ElemsStored.of_mem {s t u : State} {b : BitVec 12} {z n : Nat} {d raw : Nat → Nat} {bad : Nat → Bool} (h : ElemsStored s t b z n d raw bad)
    (hmem : (procOf u (.unit b)).mem = (procOf t (.unit b)).mem) (hmarks : (procOf u (.unit b)).memPoison = (procOf t (.unit b)).memPoison) :
    ElemsStored s u b z n d raw bad where
  value := by simpa only [memNum, hmem] using h.value
  mark := by simpa only [hmarks] using h.mark
  kept := by simpa only [bytesKept, hmem] using h.kept

/-- A beat that stores elements, to t', and may then clear lanes, to t. -/
theorem storeBeat {s t' t : State} {b : BitVec 12} {v : Vec} {p : Proc} {z n : Nat} {d raw : Nat → Nat} {bad : Nat → Bool} {reads : List (Nat × Bool)}
    (hready : beatReady s b v) (hexec : exec (.vectorBeat b) s = .next (closeBeat s b (takeAll p reads (.ok t))))
    (hreads : (∃ e ∈ reads, e.2 = true) ↔ ∃ i < n, bad i = true)
    (hstored : ElemsStored s t' b z n d raw bad ∧ ∃ m mp, unitOf t' b.toNat =
      { unitOf s b.toNat with proc := { (unitOf s b.toNat).proc with mem := m, memPoison := mp } })
    (hlanes : ∃ m, unitOf t b.toNat = { unitOf t' b.toNat with acc := m }) :
    (inputsGood p (∃ i < n, bad i = true) → ∃ u, exec (.vectorBeat b) s = .next u ∧ ElemsStored s u b z n d raw bad ∧
      (unitOf u b.toNat).acc = (unitOf t b.toNat).acc ∧ beatOver s u b v) ∧
    (inputsFail p (∃ i < n, bad i = true) → ∃ u, exec (.vectorBeat b) s = .next u ∧ endedWith u (.unit b) .dataUncorrectable 0) := by
  obtain ⟨hstored, m, mp, hunit⟩ := hstored
  obtain ⟨acc, hacc⟩ := hlanes
  obtain ⟨hgood, hfail⟩ := takeAll_cases p reads (.ok t)
  rw [← hreads]
  refine ⟨fun hin => ⟨endBeat t b, ?_, ?_⟩, fun hin => ⟨_, hexec, closeBeat_fails hready (hfail hin)⟩⟩
  · rw [hexec, hgood hin]
    rfl
  · obtain ⟨hover, hon⟩ := endBeat_over (s := s) (t := t) hready (by rw [hacc, hunit]; rfl)
    obtain ⟨hacc', -, hmem, hmarks⟩ : _ ∧ _ ∧ _ ∧ _ := by simpa only [onBeat, Prod.mk.injEq] using hon
    exact ⟨hstored.of_mem (hmem.trans (by rw [hacc]; rfl)) (hmarks.trans (by rw [hacc]; rfl)), hacc', hover⟩

/-- The results that a VST beat stores. -/
def vstOuts (s : State) (b : BitVec 12) (p : Proc) (v : Vec) (per n : Nat) : List (Nat × Nat × Nat × Bool) :=
  (List.range n).map fun i => (movedAt p v per i, fmtBytes (bits v.word 40 4), convertRaw 0 (bits v.word 40 4) (lane s b (movedLane v per i)).val.toNat,
    (lane s b (movedLane v per i)).poison)

/-- The unit after it, its lanes cleared if CLEAR says so. -/
def vstDone (s : State) (b : BitVec 12) (p : Proc) (v : Vec) (per n : Nat) : State :=
  if bit v.word 4 then clearLanes (storeOuts s b (vstOuts s b p v per n)) b (movedLane v per 0) n else storeOuts s b (vstOuts s b p v per n)

theorem unitOf_vstDone (s : State) (b : BitVec 12) (p : Proc) (v : Vec) (per n : Nat) :
    ∃ m, unitOf (vstDone s b p v per n) b.toNat = { unitOf (storeOuts s b (vstOuts s b p v per n)) b.toNat with acc := m } := by
  unfold vstDone
  split_ifs
  · exact unitOf_clearLanes ..
  · exact ⟨_, rfl⟩

theorem lane_vstDone {s : State} {b : BitVec 12} {p : Proc} {v : Vec} {per n : Nat}
    (hacc : (unitOf (storeOuts s b (vstOuts s b p v per n)) b.toNat).acc = (unitOf s b.toNat).acc) (g : Nat) :
    lane (vstDone s b p v per n) b g = if bit v.word 4 = true ∧ movedLane v per 0 ≤ g ∧ g < movedLane v per 0 + n then { val := 0, poison := false }
      else lane s b g := by
  have hlane : lane (storeOuts s b (vstOuts s b p v per n)) b g = lane s b g := congrArg (mget PWord.zero · g) hacc
  unfold vstDone
  by_cases hclear : bit v.word 4 = true
  · simp only [hclear, if_true, lane_clearLanes, hlane, true_and]
  · rw [if_neg hclear, if_neg fun h => hclear h.1]
    exact hlane

/-- The beat that VST takes. -/
theorem exec_vstBeat {s : State} {b : BitVec 12} {v : Vec} {p : Proc} {per n : Nat} (hready : beatReady s b v) (hp : p = procOf s (.unit b))
    (hop : bits v.word 56 8 = 0x59) (hper : per = vaPerBeat (shapeOf p (bits v.word 44 3)) v.word)
    (hn : n = min per ((shapeOf p (bits v.word 44 3)).n0 * (shapeOf p (bits v.word 44 3)).n1 - v.beat * per)) :
    exec (.vectorBeat b) s = .next (closeBeat s b (takeAll p
      ((List.range n).map fun i => (movedLane v per i, (lane s b (movedLane v per i)).poison))
      (.ok (vstDone s b p v per n)))) := by
  rw [exec_beatOf hready hop, ← hp]
  refine congrArg (fun r => Host.Outcome.next (closeBeat s b r)) ?_
  rw [flatPiece_lanes, ← hper, ← hn, List.map_map, List.map_map, List.foldl_map]
  rfl

/-- The element indices of a beat of VMUL, VADD, VMAX or VEXP, of n elements from k on. -/
theorem elemPiece_eq {sh : Shape} {op z beat k n : Nat} (hn0 : 1 ≤ sh.n0)
    (hk : k = if op = 0x53 then beat * 8 else beat / ((sh.n0 + 64 / z - 1) / (64 / z)) * sh.n0 + beat % ((sh.n0 + 64 / z - 1) / (64 / z)) * (64 / z))
    (hn : n = if op = 0x53 then min 8 (sh.n0 * sh.n1 - k) else min (64 / z) (sh.n0 - beat % ((sh.n0 + 64 / z - 1) / (64 / z)) * (64 / z))) :
    (if op = 0x53 then flatPiece sh 8 beat else rowPiece sh (64 / z) beat) = (List.range n).map fun i => ((k + i) / sh.n0, (k + i) % sh.n0) := by
  by_cases hop : op = 0x53
  · simp only [if_pos hop] at *
    rw [hn, hk]
    rfl
  · simp only [if_neg hop] at *
    rw [hn]
    refine List.map_congr_left fun i hi => ?_
    have hcol : beat % ((sh.n0 + 64 / z - 1) / (64 / z)) * (64 / z) + i < sh.n0 := by
      have hlt : i < min (64 / z) (sh.n0 - beat % ((sh.n0 + 64 / z - 1) / (64 / z)) * (64 / z)) := List.mem_range.1 hi
      omega
    rw [hk, Nat.add_assoc, Nat.mul_comm _ sh.n0, Nat.mul_add_div (by omega), Nat.mul_add_mod, Nat.div_eq_of_lt hcol, Nat.mod_eq_of_lt hcol]
    rfl

/-- The place of operand B's element i of a beat. -/
def elemB (sh : Shape) (w : Word64) (za k i : Nat) : Nat := bAddr sh (bits w 54 2) (vlB w) za ((k + i) / sh.n0) ((k + i) % sh.n0)

/-- The result of element i of a beat. -/
def elemRaw (p : Proc) (sh : Shape) (w : Word64) (za k i : Nat) : Nat :=
  elemOp (bits w 56 8) (bits w 48 3) (memNum p (elemAt sh (vlA w) za (k + i)) za) (memNum p (elemB sh w za k i) za)

/-- Whether an input of it is marked. -/
def elemBad (p : Proc) (sh : Shape) (w : Word64) (za k i : Nat) : Bool := memBad p (elemAt sh (vlA w) za (k + i)) za || memBad p (elemB sh w za k i) za

/-- The inputs of the elements of a beat. -/
def elemReads (p : Proc) (sh : Shape) (w : Word64) (za k n : Nat) : List (Nat × Bool) :=
  (List.range n).flatMap fun i => [(elemAt sh (vlA w) za (k + i), memBad p (elemAt sh (vlA w) za (k + i)) za),
    (elemB sh w za k i, memBad p (elemB sh w za k i) za)]

theorem elemReads_bad {p : Proc} {sh : Shape} {w : Word64} {za k n : Nat} :
    (∃ e ∈ elemReads p sh w za k n, e.2 = true) ↔ ∃ i < n, elemBad p sh w za k i = true := by
  simp only [elemReads, elemBad, List.mem_flatMap, List.mem_range, List.mem_cons, List.not_mem_nil, or_false, Bool.or_eq_true]
  constructor
  · rintro ⟨e, ⟨i, hi, rfl | rfl⟩, hbad⟩
    · exact ⟨i, hi, .inl hbad⟩
    · exact ⟨i, hi, .inr hbad⟩
  · rintro ⟨i, hi, hbad | hbad⟩
    · exact ⟨_, ⟨i, hi, .inl rfl⟩, hbad⟩
    · exact ⟨_, ⟨i, hi, .inr rfl⟩, hbad⟩

/-- The beat that VMUL, VADD, VMAX and VEXP take. -/
theorem exec_elemBeat {s : State} {b : BitVec 12} {v : Vec} {p : Proc} {sh : Shape} {za z k n : Nat} (hready : beatReady s b v)
    (hp : p = procOf s (.unit b)) (hlow : 0x50 ≤ bits v.word 56 8) (hhigh : bits v.word 56 8 ≤ 0x53) (hsh : sh = vlShape p v.word)
    (hz : z = vlBytes v.word) (hza : za = if bits v.word 56 8 = 0x53 then 4 else z)
    (hpiece : (if bits v.word 56 8 = 0x53 then flatPiece sh 8 v.beat else rowPiece sh (64 / z) v.beat) =
      (List.range n).map fun i => ((k + i) / sh.n0, (k + i) % sh.n0)) :
    exec (.vectorBeat b) s = .next (closeBeat s b (takeAll p (elemReads p sh v.word za k n)
      (.ok (storeOuts s b ((List.range n).map fun i => (elemAt sh (vlDst v.word) z (k + i), z, elemRaw p sh v.word za k i,
        elemBad p sh v.word za k i)))))) := by
  have hbeat : beatOf s b p v (bits v.word 56 8) = elemBeat s b p v := by
    generalize bits v.word 56 8 = op at hlow hhigh
    interval_cases op <;> rfl
  rw [exec_vectorBeat hready, ← hp, hbeat]
  subst hsh hz hza
  rw [elemBeat]
  simp only [hpiece, List.map_map, List.flatMap_map]
  rfl

/-- The operations one by one. -/
theorem elemOp_eq {op : Nat} (hlow : 0x50 ≤ op) (hhigh : op ≤ 0x53) (f x y : Nat) :
    elemOp op f x y = if op = 0x50 then encodeNum f ((decodeNum f x).mul (decodeNum f y))
      else if op = 0x51 then encodeNum f ((decodeNum f x).add (decodeNum f y))
      else if op = 0x52 then encodeNum f ((decodeNum f x).max (decodeNum f y))
      else encodeNum f (ofF32 (exp2Diff (BitVec.ofNat 32 x) (BitVec.ofNat 32 y))) := by
  interval_cases op <;> rfl

theorem elemOp_lt {f : Nat} (hf : f ≤ 4) (op x y : Nat) : elemOp op f x y < 256 ^ fmtBytes f := by
  unfold elemOp
  split <;> exact encodeNum_lt hf _

theorem vlBytes_eq {w : Word64} (hf : bits w 48 3 ≤ 1) : vlBytes w = fmtBytes (bits w 48 3) := by
  unfold vlBytes
  generalize bits w 48 3 = f at hf
  interval_cases f <;> rfl

theorem fmtBytes_pos {f : Nat} (hf : f ≤ 4) : 0 < fmtBytes f := by
  interval_cases f <;> decide

/-! What they do. -/

/-- A VST beat. -/
theorem vst_beat {s : State} {b : BitVec 12} {v : Vec} {p : Proc} {sh : Shape} {f per n : Nat} (hready : beatReady s b v)
    (hp : p = procOf s (.unit b)) (hop : bits v.word 56 8 = 0x59) (hsh : sh = shapeOf p (bits v.word 44 3)) (hf : f = bits v.word 40 4) (hplain : f ≤ 4)
    (hn0 : 1 ≤ sh.n0) (hs0 : 1 ≤ sh.s0) (hrows : rowsApart (rowsOf sh (vaAddr p v.word) (fmtBytes f)))
    (hper : per = if sh.s0 = 1 then 64 / fmtBytes f else 8) (hn : n = min per (sh.n0 * sh.n1 - v.beat * per)) :
    (inputsGood p (∃ i < n, (lane s b (movedLane v per i)).poison = true) → ∃ u, exec (.vectorBeat b) s = .next u ∧
      ElemsStored s u b (fmtBytes f) n (movedAt p v per) (fun i => convertRaw 0 f (lane s b (movedLane v per i)).val.toNat)
        (fun i => (lane s b (movedLane v per i)).poison) ∧
      (∀ g, lane u b g = if bit v.word 4 = true ∧ movedLane v per 0 ≤ g ∧ g < movedLane v per 0 + n then { val := 0, poison := false }
        else lane s b g) ∧ beatOver s u b v) ∧
    (inputsFail p (∃ i < n, (lane s b (movedLane v per i)).poison = true) →
      ∃ u, exec (.vectorBeat b) s = .next u ∧ endedWith u (.unit b) .dataUncorrectable 0) := by
  subst hf hsh
  have hnot : vldZero v.word = false := by simp [vldZero, hop]
  have hpos := fmtBytes_pos hplain
  have hout := storeOuts_elems (bad := fun i => (lane s b (movedLane v per i)).poison)
    (piece_apart (k := v.beat * per) (n := n) hrows hpos hn0 hs0 fun i hi => by omega) hpos s b
    fun i => convertRaw 0 (bits v.word 40 4) (lane s b (movedLane v per i)).val.toNat
  obtain ⟨hgood, hfail⟩ := storeBeat hready (exec_vstBeat hready hp hop (hper.trans (vaPerBeat_moved hnot).symm) hn) (by simp) hout (unitOf_vstDone ..)
  obtain ⟨-, m, mp, hunit⟩ := hout
  refine ⟨fun hin => ?_, hfail⟩
  obtain ⟨u, hu, hstored, hacc, hover⟩ := hgood hin
  refine ⟨u, hu, hstored, fun g => ?_, hover⟩
  calc lane u b g = lane (vstDone s b p v per n) b g := congrArg (mget PWord.zero · g) hacc
    _ = _ := lane_vstDone (congrArg BankUnit.acc hunit :) g

/-- A beat of VMUL, VADD, VMAX or VEXP. -/
theorem elem_beat {s : State} {b : BitVec 12} {v : Vec} {p : Proc} {sh : Shape} {za z k n : Nat} (hready : beatReady s b v)
    (hp : p = procOf s (.unit b)) (hlow : 0x50 ≤ bits v.word 56 8) (hhigh : bits v.word 56 8 ≤ 0x53) (hsh : sh = vlShape p v.word)
    (hz : z = vlBytes v.word) (hpos : 0 < z) (hza : za = if bits v.word 56 8 = 0x53 then 4 else z) (hn0 : 1 ≤ sh.n0) (hs0 : sh.s0 = 1)
    (hrows : rowsApart (rowsOf sh (vlDst v.word) z)) (hfit : k + n ≤ sh.n0 * sh.n1)
    (hpiece : (if bits v.word 56 8 = 0x53 then flatPiece sh 8 v.beat else rowPiece sh (64 / z) v.beat) =
      (List.range n).map fun i => ((k + i) / sh.n0, (k + i) % sh.n0)) :
    (inputsGood p (∃ i < n, elemBad p sh v.word za k i = true) → ∃ u, exec (.vectorBeat b) s = .next u ∧
      ElemsStored s u b z n (fun i => elemAt sh (vlDst v.word) z (k + i)) (elemRaw p sh v.word za k) (elemBad p sh v.word za k) ∧
      (unitOf u b.toNat).acc = (unitOf s b.toNat).acc ∧ beatOver s u b v) ∧
    (inputsFail p (∃ i < n, elemBad p sh v.word za k i = true) →
      ∃ u, exec (.vectorBeat b) s = .next u ∧ endedWith u (.unit b) .dataUncorrectable 0) := by
  have hout := storeOuts_elems (bad := elemBad p sh v.word za k) (piece_apart (k := k) (n := n) hrows hpos hn0 hs0.ge fun i hi => by omega) hpos s b
    (elemRaw p sh v.word za k)
  obtain ⟨hgood, hfail⟩ := storeBeat hready (exec_elemBeat hready hp hlow hhigh hsh hz hza hpiece) elemReads_bad hout ⟨_, rfl⟩
  obtain ⟨-, m, mp, hunit⟩ := hout
  refine ⟨fun hin => ?_, hfail⟩
  obtain ⟨u, hu, hstored, hacc, hover⟩ := hgood hin
  exact ⟨u, hu, hstored, hacc.trans (by rw [hunit]), hover⟩

end Sys2Proof.Machine

end

section
/-! Proofs of the statements of 04_bank_units.md: what a vector beat writes and leaves (O27). -/

open Sys2Proof Sys2Proof.Machine Sys2Proof.Safety

/-- Settles O27: the beats on lanes do the jobs of their elements, and those on the local store write their elements, by the layers above. -/
theorem zeroBeatClearsLanes : Obligations.ZeroBeatClearsLanes := by
  unfold Obligations.ZeroBeatClearsLanes
  refine ⟨?zero, ⟨?vdot, ?vaxpy, ?stops⟩, ⟨?vld, ?vst⟩, ?elementwise⟩
  case zero =>
    intro b s v n sh hvec htask hended hst hruns hzero hsh _ hn
    subst hsh
    obtain ⟨t, hexec, hlane, ⟨hmore, hlast, hregs, -⟩, hmem⟩ := vldZero_beat ⟨hvec, htask, hended, hst, hruns⟩ hzero hn
    exact ⟨t, hexec, hlane, hmore, hlast, hmem, hregs⟩
  case vdot =>
    intro b s v t c rest sh lf ee h k row ci p q bad hready hp hop hstream htaken hbuf hmark hsh hlf hn hee hh hk hrow hci hq hbad
    obtain rfl := funext hq
    obtain rfl := funext hbad
    subst hrow hci hee hlf hk hh hsh
    have hbeat := vdot_beat hstream htaken hbuf hmark hn rfl rfl hready hop hp rfl
    simp only [beatWrites, and_assoc, and_imp] at hbeat
    exact hbeat
  case vaxpy =>
    intro b s v t c rest sh lf ee cnt h k row ci p q g bad hready hp hop hstream htaken hbuf hmark hsh hlf hcnt hn hone hee hlanes hh hk hrow hci
      hq hg hbad
    obtain rfl := funext hq
    obtain rfl : g = _ := funext fun j => funext (hg j)
    obtain rfl : bad = _ := funext fun j => funext (hbad j)
    subst hrow hci hee hcnt hlf hk hh hsh
    have hbeat := vaxpy_beat hstream htaken hbuf hmark hn rfl rfl hready hop hp rfl hone hlanes
    simp only [beatWrites, and_assoc, and_imp, Prod.forall, Prod.exists] at hbeat
    exact hbeat
  case stops =>
    intro b s v t hready hop hstream
    obtain ⟨go, hgo⟩ := beatOf_withHead hop
    have hexec := exec_vectorBeat hready
    obtain ⟨hover, hempty, hmarked⟩ := withHead_stops hready hstream hgo
    exact ⟨fun h => ⟨_, hexec, hover h⟩, fun h hbuf => hexec.trans (congrArg _ (hempty h hbuf)),
      fun c rest st h hbuf hmark hst => ⟨_, hexec, hmarked c rest st h hbuf hmark hst⟩⟩
  case vld =>
    intro b s v sh f z per n p at_ hready hp hop hzero hsh hf _ hz _ hper hn hat
    have hnot : vldZero v.word = false := by simp [vldZero, hzero]
    obtain rfl := funext hat
    subst hz hf hsh
    obtain ⟨hgood, hfail⟩ := vld_beat hready hp hop hnot (hper.trans (vaPerBeat_moved hnot).symm) hn
    refine ⟨fun hin => ?_, hfail⟩
    obtain ⟨u, hexec, hvalue, hkept, hbytes, hover, -⟩ := hgood hin
    refine ⟨u, hexec, hvalue, fun g hg => hkept g fun ⟨i, hi, hgi⟩ => hg ?_, hbytes, hover⟩
    exact hgi ▸ ⟨Nat.le_add_right _ _, Nat.add_lt_add_left hi _⟩
  case vst =>
    intro b s v sh f z per n p at_ ln hready hp hop hsh hf hplain hz hn0 hs0 hrows hper hn hat hln
    obtain rfl := funext hat
    obtain rfl := funext hln
    subst hz
    obtain ⟨hgood, hfail⟩ := vst_beat hready hp hop hsh hf hplain hn0 hs0 hrows hper hn
    subst hf hsh
    refine ⟨fun hin => ?_, hfail⟩
    obtain ⟨u, hu, hstored, hlane, hover⟩ := hgood hin
    refine ⟨u, hu, fun i hi => ⟨fun hclean => ?_, fun hf0 => hstored.mark (by rw [hf0]; rfl) i hi⟩, hstored.kept, fun hclear i hi => ?_,
      fun g hg => (hlane g).trans (if_neg hg), hover⟩
    · exact (hstored.value i hi hclean).trans (Nat.mod_eq_of_lt (convertRaw_lt hplain (BitVec.isLt _)))
    · exact (hlane _).trans (if_pos ⟨hclear, Nat.add_le_add_left (Nat.zero_le i) _, Nat.add_lt_add_left hi _⟩)
  case elementwise =>
    intro b s v sh w op f za z k n p a2 b2 d2 bad hready hw hp hop hlow hhigh hsh hf hf1 hz hza hn0 hs0 hrows hk hn hfit ha hd hb hbad
    obtain rfl := funext ha
    obtain rfl := funext hb
    obtain rfl := funext hd
    obtain rfl := funext hbad
    subst hw hop hf
    have hbytes : z = fmtBytes (bits v.word 48 3) := hz.trans (vlBytes_eq hf1)
    have hpos : 0 < z := hbytes ▸ fmtBytes_pos (by omega)
    obtain ⟨hgood, hfail⟩ := elem_beat hready hp hlow hhigh hsh hz hpos hza hn0 hs0 hrows hfit (elemPiece_eq hn0 hk hn)
    refine ⟨fun hin => ?_, hfail⟩
    obtain ⟨u, hu, hstored, hacc, hover⟩ := hgood hin
    refine ⟨u, hu, fun i hi => ⟨fun hclean => ?_, fun hf0 => hstored.mark (by rw [hbytes, hf0]; rfl) i hi⟩, hstored.kept, hacc, hover⟩
    rw [hstored.value i hi hclean, hbytes, elemRaw, Nat.mod_eq_of_lt (elemOp_lt (by omega) ..)]
    exact elemOp_eq hlow hhigh ..

end

section
/-! The word at a core's program counter: what `issue` and the checks answer, and the end that a fault gives the task (R133, R150, R154, R173 to
R175, R346). -/

open Sys2Proof Sys2Proof.Machine Sys2Proof.Safety

namespace Sys2Proof.Machine

/-! The end of a task that faults. -/

/-- The payload of a press's instruction that faults. (Table 9.8) -/
theorem pressPayload_eq_faultBytes (s : State) (e : BitVec 4) (reason info : Nat) :
    pressPayload s e.toNat reason info 0 = faultBytes s (.press e) reason info := by
  have he : e.toNat % 4096 = e.toNat := Nat.mod_eq_of_lt (by omega)
  have hsrc : srcNum (if e.toNat < 8 then 3 else 4) e.toNat = (if e.toNat < 8 then 0x3000 else 0x4000) + e.toNat := by
    rw [srcNum, he]
    split <;> rfl
  have hlive : 4096 * b2n (pressOf s e.toNat).proc.live = if (pressOf s e.toNat).proc.live then 4096 else 0 := by
    cases (pressOf s e.toNat).proc.live <;> rfl
  simp only [pressPayload, hsrc, hlive]
  rfl

/-- The payload of a core's instruction that faults. -/
theorem corePayload_eq_faultBytes (s : State) (x : CoreId) (reason info : Nat) : corePayload s x reason info 0 = faultBytes s x reason info := by
  cases x with
  | unit b => exact unitPayload_eq_faultBytes ..
  | press e => exact pressPayload_eq_faultBytes ..

/-- A core that issues runs a task that has not ended. -/
theorem mayIssue_running {s : State} {x : CoreId} (h : mayIssue s x = true) : (∃ k, (procOf s x).task = some k) ∧ (procOf s x).ended = none := by
  simp only [mayIssue, Bool.and_eq_true, Option.isSome_iff_exists, Option.isNone_iff_eq_none] at h
  exact ⟨h.1.1.1.1, h.1.1.1.2⟩

/-- A fault of the instruction at the program counter ends the task, with its fault record due. -/
theorem endedBy_faultTask {s : State} {x : CoreId} (h : mayIssue s x = true) {st : Status} (hst : st.faults = true) (reason info : Nat) :
    endedBy s (faultTask s x st reason info 0) x st reason := by
  obtain ⟨⟨k, htask⟩, hended⟩ := mayIssue_running h
  have hfetch : st ≠ .fetchPoison := by rintro rfl; cases hst
  have hfaults : coreFaults x st = true := by cases x <;> simp [coreFaults, hst]
  refine ⟨info, ?_⟩
  rw [ended_faultTask htask hended, ← corePayload_eq_faultBytes]
  simp [endingOf, hfetch, hfaults]

/-! What the word at the program counter does. -/

section
variable {s : State} {x : CoreId} {op : Nat} {fields : Word64 → Bool} {run : State → Proc → Word64 → State}

/-- A word outside the cask, or beyond the last load, ends the task. (R150) -/
theorem issue_outside (hissue : mayIssue s x = true) (hout : pcOutside x (procOf s x) = true) :
    issue s x op fields run = faultTask s x .buFault 0x0C 0 0 := by simp [issue, hissue, hout]

/-- A word of another opcode is left to its own command. -/
theorem issue_other (hin : pcOutside x (procOf s x) = false) (hop : bits (coreWord s x) 56 8 ≠ op) : issue s x op fields run = s := by
  rw [coreWord] at hop
  simp [issue, hin, hop]

/-- A word with a bit set in a reserved field ends the task. (R133) -/
theorem issue_reserved (h : issuesWord s x op) (hfields : fields (coreWord s x) = false) :
    issue s x op fields run = faultTask s x .buFault 0x02 0 0 := by
  obtain ⟨hissue, hin, hop⟩ := h
  rw [coreWord] at hop hfields
  simp [issue, hissue, hin, hop, hfields]

/-- A word of the command's opcode with its reserved fields clear runs, whatever its place among the loops. -/
theorem issue_word (h : issuesWord s x op) (hfields : fields (coreWord s x) = true) :
    issue s x op fields run = run s (procOf s x) (coreWord s x) := by
  obtain ⟨hissue, hin, hop⟩ := h
  rw [coreWord] at hop hfields
  simp [issue, hissue, hin, hop, hfields, coreWord]

end

/-! What the checks answer (R174). -/

/-- A poisoned register that steers ends the task. (R346) -/
theorem judge_poisoned {s : State} {x : CoreId} {p : Proc} {regs : List Nat} (checks : List (Nat × Nat)) (go : State)
    (h : ∃ r ∈ regs, (rget p r).poison = true) : judge s x p regs checks go = faultTask s x .dataUncorrectable 0 0 0 := by
  simp [judge, List.any_eq_true.2 h]

/-- The second of two failed checks takes the place of the first where its REASON is less. -/
theorem leastReason_cons_cons (d e : Nat × Nat) (l : List (Nat × Nat)) :
    leastReason (d :: e :: l) = leastReason ((if e.1 < d.1 then e else d) :: l) := by
  simp only [leastReason, List.foldl_cons]
  split <;> rfl

/-- Of the failed checks one has the least REASON. -/
theorem leastReason_cons (d : Nat × Nat) (l : List (Nat × Nat)) : ∃ c, leastReason (d :: l) = some c ∧ ∀ e ∈ d :: l, c.1 ≤ e.1 := by
  induction l generalizing d with
  | nil => exact ⟨d, rfl, by simp⟩
  | cons e l ih =>
    obtain ⟨c, hc, hle⟩ := ih (if e.1 < d.1 then e else d)
    have hfirst : c.1 ≤ (if e.1 < d.1 then e else d).1 := hle _ List.mem_cons_self
    refine ⟨c, (leastReason_cons_cons d e l).trans hc, fun q hq => ?_⟩
    rcases List.mem_cons.1 hq with rfl | hq
    · split at hfirst <;> omega
    · rcases List.mem_cons.1 hq with rfl | hq
      · split at hfirst <;> omega
      · exact hle q (List.mem_cons_of_mem _ hq)

section
variable {s : State} {x : CoreId} {p : Proc} {regs : List Nat} {checks : List (Nat × Nat)} {go : State}
  (hregs : ∀ r ∈ regs, (rget p r).poison = false)
include hregs

/-- A failed check ends the task with its REASON, or with a lesser one that failed too. -/
theorem judge_fails {e : Nat × Nat} (h : e ∈ checks ++ endClash p) : ∃ r ≤ e.1, ∃ i, judge s x p regs checks go = faultTask s x .buFault r i 0 := by
  obtain ⟨d, l, hl⟩ := List.exists_cons_of_ne_nil (List.ne_nil_of_mem h)
  obtain ⟨⟨r, i⟩, hleast, hle⟩ := leastReason_cons d l
  have hclean : regs.any (fun r => (rget p r).poison) = false := by simpa using hregs
  exact ⟨r, hle e (hl ▸ h), i, by simp [judge, hclean, hl, hleast]⟩

/-- The one check that fails ends the task with its REASON. -/
theorem judge_only {r i : Nat} (hclash : endClash p = []) (h : checks = [(r, i)]) : judge s x p regs checks go = faultTask s x .buFault r i 0 := by
  have hclean : regs.any (fun r => (rget p r).poison) = false := by simpa using hregs
  simp [judge, hclean, h, hclash, leastReason]

end

/-- A check that fails names its REASON. -/
@[simp] theorem failIf_true (reason info : Nat) : failIf true reason info = [(reason, info)] := rfl

/-! What a word that does not run comes to. -/

section
variable {s : State} {x : CoreId} {op : Nat} {fields : Word64 → Bool}

theorem faulted_outside {run : State → Proc → Word64 → State} (hissue : mayIssue s x = true) (hout : pcOutside x (procOf s x) = true) :
    faulted s (issue s x op fields run) x 0x0C := issue_outside hissue hout ▸ endedBy_faultTask hissue rfl ..

theorem faulted_reserved {run : State → Proc → Word64 → State} (h : issuesWord s x op) (hfields : fields (coreWord s x) = false) :
    faulted s (issue s x op fields run) x 0x02 := issue_reserved h hfields ▸ endedBy_faultTask h.1 rfl ..

/-- An instruction whose checks see a poisoned register ends the task. -/
theorem endedBy_poisoned {regs : State → Proc → Word64 → List Nat} {checks : State → Proc → Word64 → List (Nat × Nat)}
    {go : State → Proc → Word64 → State} (h : issuesWord s x op) (hfields : fields (coreWord s x) = true)
    (hregs : ∃ r ∈ regs s (procOf s x) (coreWord s x), (rget (procOf s x) r).poison = true) :
    endedBy s (issue s x op fields (fun s p w => judge s x p (regs s p w) (checks s p w) (go s p w))) x .dataUncorrectable 0x00 := by
  rw [issue_word h hfields, judge_poisoned _ _ hregs]
  exact endedBy_faultTask h.1 rfl ..

end

/-- What an undefined opcode's word does, and any other. (R132) -/
theorem issueUndefined_cases {s : State} {x : CoreId} (hissue : mayIssue s x = true) :
    (pcOutside x (procOf s x) = true → faulted s (issueUndefined s x) x 0x0C) ∧
    (pcOutside x (procOf s x) = false → opDefined x (bits (coreWord s x) 56 8) = true → issueUndefined s x = s) ∧
    (pcOutside x (procOf s x) = false → opDefined x (bits (coreWord s x) 56 8) = false → faulted s (issueUndefined s x) x 0x01) := by
  rw [coreWord]
  refine ⟨fun hout => ?_, fun hin hop => ?_, fun hin hop => ?_⟩
  · have h : issueUndefined s x = faultTask s x .buFault 0x0C 0 0 := by simp [issueUndefined, hissue, hout]
    exact h ▸ endedBy_faultTask hissue rfl ..
  · simp [issueUndefined, hissue, hin, hop]
  · have h : issueUndefined s x = faultTask s x .buFault 0x01 0 0 := by simp [issueUndefined, hissue, hin, hop]
    exact h ▸ endedBy_faultTask hissue rfl ..

end Sys2Proof.Machine

end

section
/-! Proofs of the statements of 05_bank_unit_instructions.md: scalar instructions (O12, O13) and registers (O14). -/

open Sys2Proof Sys2Proof.Machine Sys2Proof.Safety

namespace Sys2Proof.Machine

/-! Operations on words, as Table 5.4 gives them. -/

theorem addW_eq (a b : Word) : a + b = BitVec.ofInt 32 (a.toInt + b.toInt) := by
  rw [BitVec.ofInt_add, BitVec.ofInt_toInt, BitVec.ofInt_toInt]

theorem subW_eq (a b : Word) : a - b = BitVec.ofInt 32 (a.toInt - b.toInt) := by
  rw [Int.sub_eq_add_neg, BitVec.ofInt_add, BitVec.ofInt_neg, BitVec.ofInt_toInt, BitVec.ofInt_toInt, BitVec.sub_eq_add_neg]

theorem andW_eq (a b : Word) : a &&& b = BitVec.ofNat 32 (a.toNat &&& b.toNat) := by
  rw [← BitVec.toNat_and, BitVec.ofNat_toNat, BitVec.setWidth_eq]

theorem orW_eq (a b : Word) : a ||| b = BitVec.ofNat 32 (a.toNat ||| b.toNat) := by
  rw [← BitVec.toNat_or, BitVec.ofNat_toNat, BitVec.setWidth_eq]

theorem xorW_eq (a b : Word) : a ^^^ b = BitVec.ofNat 32 (a.toNat ^^^ b.toNat) := by
  rw [← BitVec.toNat_xor, BitVec.ofNat_toNat, BitVec.setWidth_eq]

theorem mulW_eq (a b : Word) : a * b = BitVec.ofInt 32 (a.toInt * b.toInt) := by
  rw [BitVec.ofInt_mul, BitVec.ofInt_toInt, BitVec.ofInt_toInt]

theorem shlW_eq (a b : Word) : shlW a b = BitVec.ofNat 32 (a.toNat * 2 ^ (b.toNat % 32)) := by
  apply BitVec.eq_of_toNat_eq
  rw [shlW, BitVec.toNat_shiftLeft, BitVec.toNat_ofNat, Nat.shiftLeft_eq]

theorem shrW_eq (a b : Word) : shrW a b = BitVec.ofNat 32 (a.toNat / 2 ^ (b.toNat % 32)) := by
  rw [shrW, ← Nat.shiftRight_eq_div_pow, ← BitVec.toNat_ushiftRight, BitVec.ofNat_toNat, BitVec.setWidth_eq]

theorem sraW_eq (a b : Word) : sraW a b = BitVec.ofInt 32 (a.toInt / 2 ^ (b.toNat % 32)) := by
  have hdiv : a.toInt / 2 ^ (b.toNat % 32) = (a.sshiftRight (b.toNat % 32)).toInt := by
    rw [BitVec.toInt_sshiftRight, Int.shiftRight_eq_div_pow]
    norm_cast
  rw [sraW, hdiv, BitVec.ofInt_toInt]

theorem minW_eq (a b : Word) : minW a b = BitVec.ofInt 32 (min a.toInt b.toInt) := by
  simp only [minW, BitVec.slt_iff_toInt_lt]
  split
  · next h => rw [min_eq_right h.le, BitVec.ofInt_toInt]
  · next h => rw [min_eq_left (not_lt.1 h), BitVec.ofInt_toInt]

theorem maxW_eq (a b : Word) : maxW a b = BitVec.ofInt 32 (max a.toInt b.toInt) := by
  simp only [maxW, BitVec.slt_iff_toInt_lt]
  split
  · next h => rw [max_eq_right h.le, BitVec.ofInt_toInt]
  · next h => rw [max_eq_left (not_lt.1 h), BitVec.ofInt_toInt]

theorem sltW_eq (a b : Word) : sltW a b = if a.toInt < b.toInt then 1 else 0 := if_congr BitVec.slt_iff_toInt_lt rfl rfl

theorem sltuW_eq (a b : Word) : sltuW a b = if a.toNat < b.toNat then 1 else 0 := if_congr BitVec.ult_iff_toNat_lt rfl rfl

/-! The results of scalar instructions (R134, R148, R345). -/

/-- A clean result is written and the core goes on. -/
theorem finishScalar_clean (s : State) (x : CoreId) (rd : Nat) (v : Word) : finishScalar s x rd v false = writesReg s x rd v := rfl

/-- A poisoned result is a free value with its mark. -/
theorem finishScalar_poisoned (s : State) (x : CoreId) (rd : Nat) (v : Word) : finishScalar s x rd v true =
    modProc (draw s).2 x (fun p => pnext (rset p rd { val := Config.poisonValue s.free, poison := true })) := rfl

section
variable {op : Nat} {f g : Word → Word → Word}

/-- A register instruction on clean sources. -/
theorem scalarS_result (hfg : ∀ a b, f a b = g a b) (x : CoreId) (s : State) (h : issuesOp s x op) (hfields : bits (coreWord s x) 0 44 = 0)
    (ha : (regAt s x 48).poison = false) (hb : (regAt s x 44).poison = false) :
    Host.Outcome.next (ρ := Refusal) (φ := Fault) (scalarS s x op f) =
      .next (writesReg s x (rf (coreWord s x) 52) (g (regAt s x 48).val (regAt s x 44).val)) := by
  simp only [regAt] at ha hb ⊢
  rw [scalarS, issue_run h (by simp [hfields])]
  rw [judge_pass h (by simp) rfl, ha, hb, hfg]
  exact congrArg _ (finishScalar_clean ..)

/-- A register instruction on a poisoned source. -/
theorem scalarS_spreads (x : CoreId) (s : State) (h : issuesOp s x op) (hfields : bits (coreWord s x) 0 44 = 0)
    (hbad : (regAt s x 48).poison = true ∨ (regAt s x 44).poison = true) :
    Host.Outcome.next (ρ := Refusal) (φ := Fault) (scalarS s x op f) = .next (modProc (draw s).2 x
      (fun p => pnext (rset p (rf (coreWord s x) 52) { val := Config.poisonValue s.free, poison := true }))) := by
  simp only [regAt] at hbad
  rw [scalarS, issue_run h (by simp [hfields])]
  rw [judge_pass h (by simp) rfl, Bool.or_eq_true_iff.2 hbad]
  exact congrArg _ (finishScalar_poisoned ..)

/-- An instruction with an immediate on a clean source. -/
theorem scalarI_result {shift : Bool} (hfg : ∀ a i : Word, (shift = true → i.toNat < 32) → f a i = g a i) (x : CoreId) (s : State)
    (h : issuesOp s x op) (hfields : bits (coreWord s x) 32 16 = 0) (hshift : shift = true → bits (coreWord s x) 5 27 = 0)
    (ha : (regAt s x 48).poison = false) :
    Host.Outcome.next (ρ := Refusal) (φ := Fault) (scalarI s x op shift f) =
      .next (writesReg s x (rf (coreWord s x) 52) (g (regAt s x 48).val (BitVec.ofNat 32 (bits (coreWord s x) 0 32)))) := by
  have hsmall : shift = true → (imm (coreWord s x)).toNat < 32 := by
    intro hs
    have hhigh := hshift hs
    simp only [imm, bits, BitVec.toNat_ofNat] at hhigh ⊢
    omega
  simp only [regAt] at ha ⊢
  rw [scalarI, issue_run h (by cases hs : shift <;> simp_all)]
  rw [judge_pass h (by simp) rfl, ha, hfg _ _ hsmall]
  exact congrArg _ (finishScalar_clean ..)

end

/-- LI. -/
theorem execLi_result {x : CoreId} {s : State} (h : issuesOp s x 0x1E) (hfields : bits (coreWord s x) 32 20 = 0) :
    execLi x s = .next (writesReg s x (rf (coreWord s x) 52) (BitVec.ofNat 32 (bits (coreWord s x) 0 32))) := by
  rw [execLi, issue_run h (by simp [hfields])]
  rw [judge_pass h (by simp) rfl]
  exact congrArg _ (finishScalar_clean ..)

/-! Registers (R134) and special registers (Table 5.3). -/

/-- A register after a write of one: register 0 keeps nothing. -/
theorem rget_rset (p : Proc) (i j : Nat) (v : PWord) : rget (rset p i v) j = if i ≠ 0 ∧ j = i then v else rget p j := by
  by_cases hi : i = 0
  · simp [rset, hi]
  · by_cases hj : j = 0
    · simp [rget, hj, Ne.symm hi]
    · simp [rget, rset, hi, hj, mget_mset]

/-- A write of a register leaves the rest of a processor as it was. -/
theorem rset_leaves (p : Proc) (i : Nat) (v : PWord) : (rset p i v).pc = p.pc ∧ (rset p i v).mem = p.mem ∧ (rset p i v).shapes = p.shapes ∧
    (rset p i v).loops = p.loops := by
  unfold rset
  split <;> exact ⟨rfl, rfl, rfl, rfl⟩

/-- RDS of a special register. -/
theorem execRds_result {x : CoreId} {s : State} {v : Nat} (h : issuesOp s x 0x1F) (h20 : bits (coreWord s x) 32 20 = 0)
    (h24 : bits (coreWord s x) 8 24 = 0) (hv : special s x (bits (coreWord s x) 0 8) = some v) :
    execRds x s = .next (writesReg s x (rf (coreWord s x) 52) (BitVec.ofNat 32 v)) := by
  rw [execRds, issue_run h (by simp [h20, h24])]
  simp only [hv]
  rw [judge_pass h (by simp) rfl]
  exact congrArg _ (finishScalar_clean ..)

/-- RDS of a number that names no special register. -/
theorem execRds_none {x : CoreId} {s : State} (h : issuesOp s x 0x1F) (h20 : bits (coreWord s x) 32 20 = 0)
    (h24 : bits (coreWord s x) 8 24 = 0) (hv : special s x (bits (coreWord s x) 0 8) = none) :
    ∃ t, exec (.rds x) s = .next t ∧ faulted s t x 0x0D := by
  refine ⟨_, rfl, ?_⟩
  rw [issue_run h (by simp [h20, h24])]
  simp only [hv]
  rw [judge_only (by simp) h.2.2.2 rfl]
  exact endedBy_faultTask h.1 rfl ..

/-- Table 5.3 ends at 0x08, and its constants stand from 0x20 to 0x26. -/
theorem special_none {s : State} {x : CoreId} {n : Nat} (h : 8 < n ∧ n < 0x20 ∨ 0x26 < n) : special s x n = none := by
  unfold special
  split
  case h_17 => rfl
  all_goals omega

theorem loopCount_eq (p : Proc) (i : Nat) : loopCount p i = (p.loops[i]?.map (·.count)).getD 0 := by
  rw [loopCount]
  cases p.loops[i]? <;> rfl

end Sys2Proof.Machine

/-- Settles O12: a register instruction writes its result (`scalarS_result`), each operation as Table 5.4 gives it (`addW_eq` and those beside it),
or spreads poison (`scalarS_spreads`). -/
theorem scalarRegisterResults : Obligations.ScalarRegisterResults := by
  refine ⟨?_, ?_⟩
  · repeat rw [List.forall_mem_cons]
    exact ⟨(scalarS_result addW_eq :), (scalarS_result subW_eq :), (scalarS_result andW_eq :), (scalarS_result orW_eq :),
      (scalarS_result xorW_eq :), (scalarS_result shlW_eq :), (scalarS_result shrW_eq :), (scalarS_result sraW_eq :),
      (scalarS_result mulW_eq :), (scalarS_result minW_eq :), (scalarS_result maxW_eq :), (scalarS_result sltW_eq :),
      (scalarS_result sltuW_eq :), List.forall_mem_nil _⟩
  · simp only [List.forall_mem_cons, List.not_mem_nil, false_imp_iff, implies_true, and_true]
    refine ⟨?_, ?_, ?_, ?_, ?_, ?_, ?_, ?_, ?_, ?_, ?_, ?_, ?_⟩ <;> exact scalarS_spreads

/-- Settles O13: an instruction with an immediate writes its result (`scalarI_result`); a shift's immediate is below 32. -/
theorem scalarImmediateResults : Obligations.ScalarImmediateResults := by
  have hshl (a i : Word) (h : true = true → i.toNat < 32) : shlW a i = BitVec.ofNat 32 (a.toNat * 2 ^ i.toNat) := by
    rw [shlW_eq, Nat.mod_eq_of_lt (h rfl)]
  have hshr (a i : Word) (h : true = true → i.toNat < 32) : shrW a i = BitVec.ofNat 32 (a.toNat / 2 ^ i.toNat) := by
    rw [shrW_eq, Nat.mod_eq_of_lt (h rfl)]
  have hsra (a i : Word) (h : true = true → i.toNat < 32) : sraW a i = BitVec.ofInt 32 (a.toInt / 2 ^ i.toNat) := by
    rw [sraW_eq, Nat.mod_eq_of_lt (h rfl)]
  refine ⟨?_, fun x s h hfields => execLi_result h hfields⟩
  repeat rw [List.forall_mem_cons]
  exact ⟨(scalarI_result fun a i _ => addW_eq a i :), (scalarI_result fun a i _ => andW_eq a i :), (scalarI_result fun a i _ => orW_eq a i :),
    (scalarI_result fun a i _ => xorW_eq a i :), (scalarI_result hshl :), (scalarI_result hshr :), (scalarI_result hsra :),
    (scalarI_result fun a i _ => mulW_eq a i :), (scalarI_result fun a i _ => sltW_eq a i :), List.forall_mem_nil _⟩

/-- Settles O14: register 0 is no entry of the table of registers (`rget_rset`); RDS copies what `special` names, which is Table 5.3. -/
theorem registersAndSpecials : Obligations.RegistersAndSpecials := by
  refine ⟨fun p i j v => ?_, fun x s v h h20 h24 hv => execRds_result h h20 h24 hv, fun x s => ?_, fun b s => ?_, fun x s h h20 h24 hn => ?_⟩
  · obtain ⟨hpc, hmem, hshapes, hloops⟩ := rset_leaves p i v
    refine ⟨rfl, rfl, fun hi => ?_, fun hij => ?_, hpc, hmem, hshapes, hloops⟩
    · rw [rget_rset, if_pos ⟨hi, rfl⟩]
    · rw [rget_rset, if_neg fun h => hij h.2.symm]
  · exact ⟨rfl, rfl, rfl, rfl, rfl, rfl, rfl, rfl, rfl, rfl, rfl, rfl, congrArg some (loopCount_eq ..), congrArg some (loopCount_eq ..), rfl⟩
  · refine ⟨fun y hy => ?_, fun hnone => ?_⟩
    · simp [special, hy]
    · simp [special, hnone]
  · exact execRds_none h h20 h24 (special_none hn)

end

section
/-! Proofs of the statements of 05_bank_unit_instructions.md: scalar accesses of local memory (O15), and the range of its operands (O24). -/

open Sys2Proof Sys2Proof.Machine Sys2Proof.Safety

namespace Sys2Proof.Machine

/-! Bytes and words of local memory. -/

/-- Bytes listed in order spell the sum of their multiples. -/
theorem leNat_map_range (f : Nat → Byte) (n : Nat) : leNat ((List.range n).map f) = ∑ i ∈ Finset.range n, (f i).toNat * 256 ^ i := by
  induction n generalizing f with
  | zero => rfl
  | succ n ih =>
    rw [List.range_succ_eq_map, List.map_cons, List.map_map, leNat, ih, Finset.sum_range_succ', Finset.mul_sum, Nat.pow_zero, Nat.mul_one,
      Nat.add_comm]
    exact congrArg (· + _) (Finset.sum_congr rfl fun i _ => by rw [Function.comp, Nat.pow_succ]; ring)

theorem elemCells_eq_elemsCells (a z v : Nat) (bad : Bool) :
    elemCells a z v bad = elemsCells z 1 (fun _ => a) (fun _ => v) (fun _ => bad) := by
  simp [elemsCells]

/-- A write of one aligned word: its bytes and its mark, and nothing beside them. -/
theorem memStore_word (p : Proc) {a : Nat} (halign : a % 4 = 0) (v : Nat) (bad : Bool) :
    (∀ i < 4, mget 0 (memStore p (elemCells a 4 v bad)).mem (a + i) = BitVec.ofNat 8 (v / 256 ^ i)) ∧
    (∀ c, c < a ∨ a + 4 ≤ c → mget 0 (memStore p (elemCells a 4 v bad)).mem c = mget 0 p.mem c) ∧
    mget false (memStore p (elemCells a 4 v bad)).memPoison (a / 4) = bad ∧
    ∀ w, w ≠ a / 4 → mget false (memStore p (elemCells a 4 v bad)).memPoison w = mget false p.memPoison w := by
  have happart : ∀ i < 1, ∀ j < 1, i ≠ j → a + 4 ≤ a ∨ a + 4 ≤ a := by omega
  rw [elemCells_eq_elemsCells]
  refine ⟨fun i hi => mget_elemsCells (val := fun _ => v) (bad := fun _ => bad) happart p.mem Nat.one_pos hi, fun c hc => ?_, ?_, fun w hw => ?_⟩
  · have hout : c ∉ (elemsCells 4 1 (fun _ => a) (fun _ => v) (fun _ => bad)).map (·.1) := by
      rw [mem_elemsCells_addr]
      omega
    refine (mget_foldl_cells (x := 0) (fun q hq hqc => absurd ?_ hout) _).trans (if_neg hout)
    exact List.mem_map.2 ⟨q, hq, hqc⟩
  · rw [memPoison_memStore, markAfter_elemsCells happart rfl Nat.one_pos halign]
    exact ⟨_, mem_elemsCells.2 ⟨0, Nat.one_pos, 0, by decide, rfl⟩, rfl⟩
  · rw [memPoison_eq_foldl_markWord, mget_foldl_markWord, if_neg]
    simp only [List.mem_dedup, List.mem_map, mem_elemsCells]
    rintro ⟨q, ⟨i, hi, j, hj, rfl⟩, rfl⟩
    exact hw (by simp only; omega)

/-! LDW and STW (R148, R471). -/

theorem scalarAddr_eq_accessAddr (s : State) (x : CoreId) : scalarAddr (procOf s x) (coreWord s x) = accessAddr s x := by
  rw [scalarAddr, BitVec.toNat_add, imm, BitVec.toNat_ofNat, Nat.add_mod_mod]
  rfl

theorem addrCheck_passes {x : CoreId} {a : Nat} (halign : a % 4 = 0) (hin : a + 4 ≤ coreMem x) : addrCheck x a = [] := by
  simp [addrCheck, halign, Nat.not_lt.2 hin]

theorem addrCheck_fails {x : CoreId} {a : Nat} (h : a % 4 ≠ 0 ∨ coreMem x < a + 4) : addrCheck x a = [(0x05, a)] := by
  have hbad : (a % 4 != 0 || decide (coreMem x < a + 4)) = true := by simpa using h
  rw [addrCheck, hbad, failIf_true]

section
variable {s : State} {x : CoreId}

/-- A load of a clean word. -/
theorem loadWord_result (h : issuesOp s x 0x20) (hfields : bits (coreWord s x) 32 16 = 0) (hra : (regAt s x 48).poison = false)
    (halign : accessAddr s x % 4 = 0) (hin : accessAddr s x + 4 ≤ coreMem x) (hclean : memBad (procOf s x) (accessAddr s x) 4 = false) :
    loadWord s x = writesReg s x (rf (coreWord s x) 52)
      (BitVec.ofNat 32 (∑ i ∈ Finset.range 4, (mget 0 (procOf s x).mem (accessAddr s x + i)).toNat * 256 ^ i)) := by
  rw [loadWord, issue_run h (by simp [hfields])]
  dsimp only
  rw [scalarAddr_eq_accessAddr, judge_pass h (List.forall_mem_singleton.2 hra) (addrCheck_passes halign hin), hclean, memNum, mgetAll, leNat_map_range]
  exact finishScalar_clean ..

/-- A store: what it stores is said by `memStore_word`. -/
theorem storeWord_result (h : issuesOp s x 0x21) (hfields : bits (coreWord s x) 32 16 = 0) (hra : (regAt s x 48).poison = false)
    (halign : accessAddr s x % 4 = 0) (hin : accessAddr s x + 4 ≤ coreMem x) :
    storeWord s x = modProc s x (fun q =>
      pnext (memStore q (elemCells (accessAddr s x) 4 (regAt s x 52).val.toNat (regAt s x 52).poison))) := by
  rw [storeWord, issue_run h (by simp [hfields])]
  dsimp only
  rw [scalarAddr_eq_accessAddr, judge_pass h (List.forall_mem_singleton.2 hra) (addrCheck_passes halign hin)]
  rfl

/-- A load that is misaligned or leaves local memory. -/
theorem loadWord_faults (h : issuesOp s x 0x20) (hfields : bits (coreWord s x) 32 16 = 0) (hra : (regAt s x 48).poison = false)
    (hbad : accessAddr s x % 4 ≠ 0 ∨ coreMem x < accessAddr s x + 4) : faulted s (loadWord s x) x 0x05 := by
  rw [loadWord, issue_run h (by simp [hfields])]
  dsimp only
  rw [scalarAddr_eq_accessAddr, judge_only (List.forall_mem_singleton.2 hra) h.2.2.2 (addrCheck_fails hbad)]
  exact endedBy_faultTask h.1 rfl ..

/-- A store that is misaligned or leaves local memory. -/
theorem storeWord_faults (h : issuesOp s x 0x21) (hfields : bits (coreWord s x) 32 16 = 0) (hra : (regAt s x 48).poison = false)
    (hbad : accessAddr s x % 4 ≠ 0 ∨ coreMem x < accessAddr s x + 4) : faulted s (storeWord s x) x 0x05 := by
  rw [storeWord, issue_run h (by simp [hfields])]
  dsimp only
  rw [scalarAddr_eq_accessAddr, judge_only (List.forall_mem_singleton.2 hra) h.2.2.2 (addrCheck_fails hbad)]
  exact endedBy_faultTask h.1 rfl ..

end

/-! The range of an operand (R138, R139). -/

/-- An operand of at least one byte passes where its first and its last row do. -/
theorem range_eq_nil {o : Rows} {m : Nat} (hlive : ¬ (o.rl = 0 ∨ o.n = 0)) : o.range m = [] ↔
    0 ≤ o.row 0 ∧ 0 ≤ o.row (o.n - 1) ∧ o.row 0 + o.rl ≤ m ∧ o.row (o.n - 1) + o.rl ≤ m := by
  rw [Rows.range, if_neg hlive]
  dsimp only
  split
  · next hlow => simp only [List.cons_ne_nil, false_iff]; omega
  · split
    · next hhigh => simp only [List.cons_ne_nil, false_iff]; omega
    · next hlow hhigh => simp only [true_iff]; omega

/-- Each row begins between the first and the last. -/
theorem row_between (o : Rows) {i : Nat} (hi : i < o.n) :
    min (o.row 0) (o.row (o.n - 1)) ≤ o.row i ∧ o.row i ≤ max (o.row 0) (o.row (o.n - 1)) := by
  have hle : (i : Int) ≤ (o.n - 1 : Nat) := by omega
  have hpos : (0 : Int) ≤ i := by omega
  simp only [Rows.row]
  rcases le_total 0 o.s with hs | hs
  · have h0 := mul_le_mul_of_nonneg_right hpos hs
    have h1 := mul_le_mul_of_nonneg_right hle hs
    simp only [Nat.cast_zero] at *
    omega
  · have h0 := mul_le_mul_of_nonpos_right hpos hs
    have h1 := mul_le_mul_of_nonpos_right hle hs
    simp only [Nat.cast_zero] at *
    omega

end Sys2Proof.Machine

/-- Settles O15: LDW and STW of a unit and of a press are `loadWord` and `storeWord`, whose results and faults are said above. -/
theorem scalarMemory : Obligations.ScalarMemory := by
  refine ⟨fun c x s hc h hfields hra => ?_, fun c x s hc h hfields hra => ?_⟩
  · have hexec : exec c s = .next (loadWord s x) := by obtain ⟨b, rfl, rfl⟩ | ⟨e, rfl, rfl⟩ := hc <;> rfl
    rw [hexec]
    exact ⟨fun halign hin hclean => congrArg _ (loadWord_result h hfields hra halign hin hclean),
      fun hbad => ⟨_, rfl, loadWord_faults h hfields hra hbad⟩⟩
  · have hexec : exec c s = .next (storeWord s x) := by obtain ⟨b, rfl, rfl⟩ | ⟨e, rfl, rfl⟩ := hc <;> rfl
    rw [hexec]
    exact ⟨fun halign hin => ⟨_, _, congrArg _ (storeWord_result h hfields hra halign hin), memStore_word _ halign ..⟩,
      fun hbad => ⟨_, rfl, storeWord_faults h hfields hra hbad⟩⟩

/-- Settles O24: an operand passes by its first and last row (`range_eq_nil`), between which every other lies (`row_between`). -/
theorem operandRange : Obligations.OperandRange := by
  intro o m
  by_cases hlive : o.rl = 0 ∨ o.n = 0
  · have hpass : o.range m = [] := if_pos hlive
    refine ⟨iff_of_true hpass ?_, fun _ i hi k hk => ?_⟩
    · tauto
    · omega
  · refine ⟨by rw [range_eq_nil hlive]; tauto, fun hpass i hi k hk => ?_⟩
    obtain ⟨h0, h1, h2, h3⟩ := (range_eq_nil hlive).1 hpass
    obtain ⟨hlow, hhigh⟩ := row_between o hi
    omega

end

section
/-! Proofs of the statements of 05_bank_unit_instructions.md: branches (O16), the end of the cask (O17) and hardware loops (O18). -/

open Sys2Proof Sys2Proof.Machine Sys2Proof.Safety

namespace Sys2Proof.Machine

/-! Branches (R149, R156). -/

/-- A branch on clean registers goes to its target where its condition holds, and on otherwise. -/
theorem branch_result {op : Nat} {always : Bool} {f g : Word → Word → Bool} (hfg : ∀ a b, (always || f a b) = g a b) (x : CoreId) (s : State)
    (h : issuesOp s x op) (hfields : bits (coreWord s x) (indexBits x) (48 - indexBits x) = 0)
    (hra : always = true → bits (coreWord s x) 48 8 = 0)
    (hregs : always = false → (regAt s x 52).poison = false ∧ (regAt s x 48).poison = false) :
    Host.Outcome.next (ρ := Refusal) (φ := Fault) (branch s x op always f) = .next (modProc s x (fun p =>
      if g (regAt s x 52).val (regAt s x 48).val then
        { p with pc := bits (coreWord s x) 0 (indexBits x), loops := keepLevels p.loops (bits (coreWord s x) 0 (indexBits x)) }
      else pnext p)) := by
  rw [branch, issue_run h (by cases always <;> simp_all)]
  dsimp only
  rw [judge_pass h _ rfl, hfg]
  · rfl
  · cases always
    · exact List.forall_mem_cons.2 ⟨(hregs rfl).1, List.forall_mem_singleton.2 (hregs rfl).2⟩
    · exact List.forall_mem_nil _

/-- The levels that a branch keeps are the outer ones whose bodies hold the target; the next one's does not. -/
theorem keepLevels_spec (ls : List LoopLevel) (target : Nat) : ∃ left : List LoopLevel, ls = keepLevels ls target ++ left ∧
    (∀ l ∈ keepLevels ls target, l.body ≤ target ∧ target ≤ l.endIx) ∧ ∀ l, left.head? = some l → target < l.body ∨ l.endIx < target := by
  refine ⟨_, (List.takeWhile_append_dropWhile (p := fun l : LoopLevel => decide (l.body ≤ target) && decide (target ≤ l.endIx))).symm,
    fun l hl => by simpa using List.mem_takeWhile_imp hl, fun l hl => ?_⟩
  have hnot := List.head?_dropWhile_not (fun l : LoopLevel => decide (l.body ≤ target) && decide (target ≤ l.endIx)) ls
  simp only [hl, Bool.and_eq_false_iff, decide_eq_false_iff_not, not_le] at hnot
  exact hnot

/-! The commands of a unit's program, with their opcodes (Table 5.1). -/

/-- The commands that units and presses share. -/
def coreOps : List (Nat × (CoreId → Instr)) :=
  [(0x01, .add), (0x02, .sub), (0x03, .and), (0x04, .or), (0x05, .xor), (0x06, .shl), (0x07, .shr), (0x08, .sra), (0x09, .mul), (0x0A, .min),
   (0x0B, .max), (0x0C, .slt), (0x0D, .sltu), (0x11, .addi), (0x13, .andi), (0x14, .ori), (0x15, .xori), (0x16, .shli), (0x17, .shri),
   (0x18, .srai), (0x19, .muli), (0x1C, .slti), (0x1E, .li), (0x1F, .rds), (0x28, .b), (0x29, .beq), (0x2A, .bne), (0x2B, .blt), (0x2C, .bge),
   (0x2D, .bltu), (0x2E, .bgeu), (0x30, .loop), (0x31, .lend), (0x32, .lexit), (0x38, .fset), (0x39, .fclr), (0x3A, .fwait)]

/-- The commands of units alone. -/
def unitOps : List (Nat × (BitVec 12 → Instr)) :=
  [(0x20, .ldw), (0x21, .stw), (0x3B, .barr), (0x3C, .send), (0x3F, .halt), (0x40, .shape), (0x41, .bstream), (0x48, .vdot), (0x49, .vaxpy),
   (0x50, .vmul), (0x51, .vadd), (0x52, .vmax), (0x53, .vexp), (0x54, .vred), (0x55, .vcvt), (0x58, .vld), (0x59, .vst), (0x5A, .bwrite)]

/-- Command c is that of opcode op for unit b. -/
def unitCommand (b : BitVec 12) (op : Nat) (c : Instr) : Prop :=
  (∃ e ∈ coreOps, e.1 = op ∧ e.2 (.unit b) = c) ∨ ∃ e ∈ unitOps, e.1 = op ∧ e.2 b = c

/-- The commands of a unit's program are those of its opcodes, and that of an undefined one. -/
theorem unitProgramCommand_iff {b : BitVec 12} {c : Instr} :
    unitProgramCommand b c ↔ c = .undefinedOpcodeWord (.unit b) ∨ ∃ op, unitCommand b op c := by
  have hlist : unitProgramCommand b c ↔
      c ∈ (coreOps.map (·.2 (.unit b)) ++ [.undefinedOpcodeWord (.unit b)]) ++ unitOps.map (·.2 b) := Iff.rfl
  simp only [hlist, unitCommand, List.mem_append, List.mem_map, List.mem_singleton]
  constructor
  · rintro ((⟨e, he, hc⟩ | hc) | ⟨e, he, hc⟩)
    · exact .inr ⟨e.1, .inl ⟨e, he, rfl, hc⟩⟩
    · exact .inl hc
    · exact .inr ⟨e.1, .inr ⟨e, he, rfl, hc⟩⟩
  · rintro (hc | ⟨op, ⟨e, he, -, hc⟩ | ⟨e, he, -, hc⟩⟩)
    · exact .inl (.inr hc)
    · exact .inl (.inl ⟨e, he, hc⟩)
    · exact .inr ⟨e, he, hc⟩

/-- Each opcode that a unit defines has its command. -/
theorem unitCommand_of_opDefined {b : BitVec 12} {op : Nat} (hlt : op < 256) (h : opDefined (.unit b) op = true) : ∃ c, unitCommand b op c := by
  have hlisted : ∀ op < 256, opDefined (.unit 0) op = true → op ∈ coreOps.map (·.1) ∨ op ∈ unitOps.map (·.1) := by decide +kernel
  simp only [List.mem_map] at hlisted
  rcases hlisted op hlt h with ⟨e, he, hop⟩ | ⟨e, he, hop⟩
  · exact ⟨_, .inl ⟨e, he, hop, rfl⟩⟩
  · exact ⟨_, .inr ⟨e, he, hop, rfl⟩⟩

/-- Command c issues words of opcode op, and judges each (R174). -/
def judgesWords (x : CoreId) (op : Nat) (c : Instr) : Prop :=
  ∀ s, ∃ fields run, exec c s = .next (issue s x op fields run) ∧ ∀ p w, ∃ regs checks go, run s p w = judge s x p regs checks go

theorem judgesWords_of_issue {x : CoreId} {op : Nat} {c : Instr} {fields : Word64 → Bool} {regs : State → Proc → Word64 → List Nat}
    {checks : State → Proc → Word64 → List (Nat × Nat)} {go : State → Proc → Word64 → State}
    (h : ∀ s, exec c s = .next (issue s x op fields (fun s p w => judge s x p (regs s p w) (checks s p w) (go s p w)))) : judgesWords x op c :=
  fun s => ⟨_, _, h s, fun _ _ => ⟨_, _, _, rfl⟩⟩

theorem judgesWords_rds (x : CoreId) : judgesWords x 0x1F (.rds x) := fun s => ⟨_, _, rfl, fun p w => by
  cases special s x (bits w 0 8) <;> exact ⟨_, _, _, rfl⟩⟩

theorem judgesWords_lexit (x : CoreId) : judgesWords x 0x32 (.lexit x) := fun s => ⟨_, _, rfl, fun p w => by
  cases p.loops.getLast? <;> exact ⟨_, _, _, rfl⟩⟩

/-- Each command of a unit's program but LEND judges its words. -/
theorem judgesWords_of_unitCommand {b : BitVec 12} {op : Nat} {c : Instr} (h : unitCommand b op c) (hlend : op ≠ 0x31) :
    judgesWords (.unit b) op c := by
  rcases h with ⟨e, he, rfl, rfl⟩ | ⟨e, he, rfl, rfl⟩
  · have hall : ∀ e ∈ coreOps, e.1 ≠ 0x31 → judgesWords (.unit b) e.1 (e.2 (.unit b)) := by
      simp only [coreOps, List.forall_mem_cons]
      refine ⟨?_, ?_, ?_, ?_, ?_, ?_, ?_, ?_, ?_, ?_, ?_, ?_, ?_, ?_, ?_, ?_, ?_, ?_, ?_, ?_, ?_, ?_, ?_, fun _ => judgesWords_rds _,
        ?_, ?_, ?_, ?_, ?_, ?_, ?_, ?_, fun h => absurd rfl h, fun _ => judgesWords_lexit _, ?_, ?_, ?_, List.forall_mem_nil _⟩ <;>
      exact fun _ => judgesWords_of_issue fun _ => rfl
    exact hall e he hlend
  · have hall : ∀ e ∈ unitOps, judgesWords (.unit b) e.1 (e.2 b) := by
      simp only [unitOps, List.forall_mem_cons]
      refine ⟨?_, ?_, ?_, ?_, ?_, ?_, ?_, ?_, ?_, ?_, ?_, ?_, ?_, ?_, ?_, ?_, ?_, ?_, List.forall_mem_nil _⟩ <;>
      exact judgesWords_of_issue fun _ => rfl
    exact hall e he

theorem unitCommand_lend {b : BitVec 12} {c : Instr} (h : unitCommand b 0x31 c) : c = .lend (.unit b) := by
  simpa [unitCommand, coreOps, unitOps, eq_comm] using h

/-- Each command of a unit's program issues words of its opcode. -/
theorem exec_unitCommand {b : BitVec 12} {op : Nat} {c : Instr} (h : unitCommand b op c) (s : State) :
    ∃ fields run, exec c s = .next (issue s (.unit b) op fields run) := by
  by_cases hlend : op = 0x31
  · subst hlend
    rw [unitCommand_lend h]
    exact ⟨_, _, rfl⟩
  · obtain ⟨fields, run, hexec, -⟩ := judgesWords_of_unitCommand h hlend s
    exact ⟨fields, run, hexec⟩

/-! Where an active level's END asks for a LEND (R154). -/

/-- The check of an END fails where a level ends at the program counter. -/
theorem endClash_of_end {p : Proc} (h : ∃ l ∈ p.loops, l.endIx = p.pc) : endClash p = [(0x0A, 0)] := by
  have hany : p.loops.any (fun l => l.endIx == p.pc) = true := by simpa using h
  rw [endClash, hany, failIf_true]

/-- At an active level's END the command of any other word than LEND ends the task. -/
theorem unitCommand_atEnd {b : BitVec 12} {op : Nat} {c : Instr} {s : State} (h : unitCommand b op c) (hlend : op ≠ 0x31)
    (hissue : issuesWord s (.unit b) op) (hend : ∃ l ∈ (procOf s (.unit b)).loops, l.endIx = (procOf s (.unit b)).pc)
    (hregs : ∀ r, (rget (procOf s (.unit b)) r).poison = false) : ∃ t, exec c s = .next t ∧ ∃ r ≤ 0x0A, faulted s t (.unit b) r := by
  obtain ⟨fields, run, hexec, hjudge⟩ := judgesWords_of_unitCommand h hlend s
  refine ⟨_, hexec, ?_⟩
  cases hfields : fields (coreWord s (.unit b))
  · exact ⟨0x02, by decide, faulted_reserved hissue hfields⟩
  · obtain ⟨regs, checks, go, hrun⟩ := hjudge (procOf s (.unit b)) (coreWord s (.unit b))
    obtain ⟨r, hr, i, hfault⟩ := judge_fails (s := s) (x := .unit b) (regs := regs) (checks := checks) (go := go) (fun r _ => hregs r)
      (List.mem_append_right checks (endClash_of_end hend ▸ List.mem_singleton_self (0x0A, 0)))
    rw [issue_word hissue hfields, hrun, hfault]
    exact ⟨r, hr, endedBy_faultTask hissue.1 rfl ..⟩

/-! Hardware loops (R151 to R155). -/

/-- Whether a LOOP's END is none: not after it, outside the cask, or not inside the innermost level. -/
def loopEndBad (x : CoreId) (p : Proc) (e : Nat) : Bool :=
  decide (e ≤ p.pc) || decide (coreCask x ≤ e) || (match p.loops.getLast? with | some l => decide (l.endIx ≤ e) | none => false)

theorem loopEndBad_iff {x : CoreId} {p : Proc} {e : Nat} :
    loopEndBad x p e = true ↔ e ≤ p.pc ∨ coreCask x ≤ e ∨ ∃ l, p.loops.getLast? = some l ∧ l.endIx ≤ e := by
  unfold loopEndBad
  cases p.loops.getLast? <;> simp [or_assoc]

/-- What a LOOP of n turns does whose END is e. -/
def loopOpens (s : State) (x : CoreId) (e n : Nat) : State :=
  if 2 ≤ (procOf s x).loops.length then faultTask s x .loopDepth 0 0 0
  else if n = 0 then modProc s x (fun q => { q with pc := e + 1 })
  else modProc s x (fun q => pnext { q with loops := q.loops ++ [{ body := (procOf s x).pc + 1, endIx := e, count := n }] })

section
variable {s : State} {x : CoreId} {e n : Nat} (h : issuesOp s x 0x30)
  (hfields : bits (coreWord s x) (32 + indexBits x) (20 - indexBits x) = 0) (hcount : rf (coreWord s x) 52 = 0 ∨ bits (coreWord s x) 0 32 = 0)
  (hreg : (regAt s x 52).poison = false) (he : e = bits (coreWord s x) 32 (indexBits x))
include h hfields hcount hreg he

/-- A LOOP with a good END. -/
theorem execLoop_good (hn : n = if rf (coreWord s x) 52 = 0 then bits (coreWord s x) 0 32 else (regAt s x 52).val.toNat)
    (hgood : loopEndBad x (procOf s x) e = false) : exec (.loop x) s = .next (loopOpens s x e n) := by
  show execLoop x s = _
  rw [execLoop, issue_run h (by simpa [hfields] using hcount)]
  dsimp only
  rw [judge_pass h (List.forall_mem_singleton.2 hreg), he, hn]
  · rfl
  · subst he
    exact congrArg (failIf · 0x0B 0) hgood

/-- A LOOP with a bad END. -/
theorem execLoop_bad (hbad : loopEndBad x (procOf s x) e = true) : ∃ t, exec (.loop x) s = .next t ∧ faulted s t x 0x0B := by
  refine ⟨_, rfl, ?_⟩
  rw [issue_run h (by simpa [hfields] using hcount)]
  dsimp only
  rw [judge_only (r := 0x0B) (i := 0) (List.forall_mem_singleton.2 hreg) h.2.2.2]
  · exact endedBy_faultTask h.1 rfl ..
  · subst he
    exact congrArg (failIf · 0x0B 0) hbad

end

/-- LEND at the END of the innermost level. -/
theorem execLend_atEnd {s : State} {x : CoreId} {l : LoopLevel} (h : issuesWord s x 0x31) (hfields : bits (coreWord s x) 0 56 = 0)
    (hl : (procOf s x).loops.getLast? = some l) (hend : l.endIx = (procOf s x).pc) : exec (.lend x) s = .next (
      if l.count = 1 then modProc s x (fun q => pnext { q with loops := q.loops.dropLast })
      else modProc s x (fun q => { q with pc := l.body, loops := q.loops.dropLast ++ [{ l with count := l.count - 1 }] })) := by
  show execLend x s = _
  rw [execLend, issue_word h (by simp [hfields])]
  simp only [hl, hend, ne_eq, not_true_eq_false, if_false]

/-- Any other LEND. -/
theorem execLend_stray {s : State} {x : CoreId} (h : issuesWord s x 0x31) (hfields : bits (coreWord s x) 0 56 = 0)
    (hstray : ∀ l, (procOf s x).loops.getLast? = some l → l.endIx ≠ (procOf s x).pc) : ∃ t, exec (.lend x) s = .next t ∧ faulted s t x 0x0A := by
  refine ⟨_, rfl, ?_⟩
  rw [issue_word h (by simp [hfields])]
  cases hl : (procOf s x).loops.getLast? with
  | none => exact endedBy_faultTask h.1 rfl ..
  | some l =>
    dsimp only
    rw [if_pos (hstray l hl)]
    exact endedBy_faultTask h.1 rfl ..

/-- LEXIT leaves the innermost level. -/
theorem execLexit_leaves {s : State} {x : CoreId} {l : LoopLevel} (h : issuesOp s x 0x32) (hfields : bits (coreWord s x) 0 56 = 0)
    (hl : (procOf s x).loops.getLast? = some l) :
    exec (.lexit x) s = .next (modProc s x (fun p => { p with pc := l.endIx + 1, loops := p.loops.dropLast })) := by
  show execLexit x s = _
  rw [execLexit, issue_run h (by simp [hfields])]
  simp only [hl]
  rw [judge_pass h (List.forall_mem_nil _) rfl]

/-- LEXIT outside every level. -/
theorem execLexit_none {s : State} {x : CoreId} (h : issuesOp s x 0x32) (hfields : bits (coreWord s x) 0 56 = 0)
    (hl : (procOf s x).loops = []) : ∃ t, exec (.lexit x) s = .next t ∧ faulted s t x 0x0A := by
  refine ⟨_, rfl, ?_⟩
  rw [issue_run h (by simp [hfields])]
  simp only [hl, List.getLast?_nil]
  rw [judge_only (List.forall_mem_nil _) h.2.2.2 rfl]
  exact endedBy_faultTask h.1 rfl ..

end Sys2Proof.Machine

/-- Settles O16: each branch by its condition (`branch_result`), and the levels it leaves by `keepLevels_spec`. -/
theorem branchConditions : Obligations.BranchConditions := by
  have hbeq (a b : Word) : (false || a == b) = decide (a = b) := rfl
  have hbne (a b : Word) : (false || a != b) = decide (a ≠ b) := decide_not.symm
  have hblt (a b : Word) : (false || a.slt b) = decide (a.toInt < b.toInt) := rfl
  have hbge (a b : Word) : (false || !a.slt b) = decide (a.toInt ≥ b.toInt) := decide_not.symm.trans (decide_eq_decide.2 not_lt)
  have hbltu (a b : Word) : (false || a.ult b) = decide (a.toNat < b.toNat) := rfl
  have hbgeu (a b : Word) : (false || !a.ult b) = decide (a.toNat ≥ b.toNat) := decide_not.symm.trans (decide_eq_decide.2 not_lt)
  refine ⟨?_, keepLevels_spec⟩
  repeat rw [List.forall_mem_cons]
  exact ⟨branch_result fun _ _ => rfl, (branch_result hbeq :), (branch_result hbne :), (branch_result hblt :), (branch_result hbge :),
    (branch_result hbltu :), (branch_result hbgeu :), List.forall_mem_nil _⟩

/-- Settles O17: a unit's commands issue their words, or the undefined one (`unitProgramCommand_iff`), and none issues past the cask. -/
theorem runningOutOfTheCask : Obligations.RunningOutOfTheCask := by
  intro b s hissue hpast c hc
  have hout : pcOutside (.unit b) (procOf s (.unit b)) = true := by
    rcases hpast with hpc | ⟨n, hloaded, hn⟩
    · simp [pcOutside, coreCask, show 2048 ≤ (procOf s (.unit b)).pc from hpc]
    · simp [pcOutside, hloaded, hn]
  rcases unitProgramCommand_iff.1 hc with rfl | ⟨op, hop⟩
  · exact ⟨_, rfl, (issueUndefined_cases hissue).1 hout⟩
  · obtain ⟨fields, run, hexec⟩ := exec_unitCommand hop s
    exact ⟨_, hexec, faulted_outside hissue hout⟩

/-- Settles O18: LOOP by its END (`execLoop_good`, `execLoop_bad`), LEND and LEXIT by the innermost level, and the command of any other word at an
END by `unitCommand_atEnd`. -/
theorem loopsRepeatAndEnd : Obligations.LoopsRepeatAndEnd := by
  refine ⟨⟨fun x s e n h hfields hcount hreg he hn => ⟨fun hpc hcask hinner => ?_, fun hbad => ?_⟩, fun x s => ?_⟩,
    ⟨fun x s hissue hin hop hfields => ?_, fun b s hissue hin hop hend hregs => ?_⟩, fun x s h hfields => ?_⟩
  case refine_1 =>
    have hgood : loopEndBad x (procOf s x) e = false := by
      rw [← Bool.not_eq_true, loopEndBad_iff]
      rintro (hle | hle | ⟨l, hl, hle⟩)
      · omega
      · omega
      · exact absurd (hinner l hl) (by omega)
    rw [execLoop_good h hfields hcount hreg he hn hgood]
    refine ⟨fun hroom hturns => ?_, fun hroom hnone => ?_, fun hfull => ?_⟩
    · rw [loopOpens, if_neg (by omega), if_neg (by omega)]
      rfl
    · rw [loopOpens, if_neg (by omega), if_pos hnone]
    · rw [loopOpens, if_pos hfull]
      exact ⟨_, rfl, endedBy_faultTask h.1 rfl ..⟩
  case refine_2 => exact execLoop_bad h hfields hcount hreg he (loopEndBad_iff.2 hbad)
  case refine_3 =>
    refine ⟨congrArg some ?_, congrArg some ?_⟩
    · rw [loopCount]
      rcases (procOf s x).loops with _ | ⟨l, ls⟩ <;> rfl
    · rw [loopCount]
      rcases (procOf s x).loops with _ | ⟨l, _ | ⟨m, ls⟩⟩ <;> rfl
  case refine_4 =>
    have h : issuesWord s x 0x31 := ⟨hissue, hin, hop⟩
    refine ⟨fun l hl hlend hcount => ?_, fun l hl hlend hcount => ?_, execLend_stray h hfields⟩
    · rw [execLend_atEnd h hfields hl hlend, if_neg (by omega)]
    · rw [execLend_atEnd h hfields hl hlend, if_pos hcount, hlend]
      rfl
  case refine_5 =>
    obtain ⟨-, hdefined, hundefined⟩ := issueUndefined_cases hissue
    refine ⟨fun c hc => ?_, ?_⟩
    · rcases unitProgramCommand_iff.1 hc with rfl | ⟨op, hc⟩
      · cases hdef : opDefined (.unit b) (bits (coreWord s (.unit b)) 56 8)
        · exact .inr ⟨_, rfl, 0x01, by decide, hundefined hin hdef⟩
        · exact .inl (congrArg _ (hdefined hin hdef))
      · by_cases hword : bits (coreWord s (.unit b)) 56 8 = op
        · exact .inr (unitCommand_atEnd hc (hword ▸ hop) ⟨hissue, hin, hword⟩ hend hregs)
        · obtain ⟨fields, run, hexec⟩ := exec_unitCommand hc s
          exact .inl (hexec.trans (congrArg _ (issue_other hin hword)))
    · cases hdef : opDefined (.unit b) (bits (coreWord s (.unit b)) 56 8)
      · exact ⟨_, unitProgramCommand_iff.2 (.inl rfl), _, rfl, 0x01, by decide, hundefined hin hdef⟩
      · obtain ⟨c, hc⟩ := unitCommand_of_opDefined (Nat.mod_lt _ (by decide)) hdef
        exact ⟨c, unitProgramCommand_iff.2 (.inr ⟨_, hc⟩), unitCommand_atEnd hc hop ⟨hissue, hin, rfl⟩ hend hregs⟩
  case refine_6 =>
    exact ⟨fun l hl => execLexit_leaves h hfields hl, execLexit_none h hfields⟩

end

section
/-! Proofs of the statements of 05_bank_unit_instructions.md: shapes (O19), flag instructions (O20), and BARR, SEND, HALT and PHALT (O21). -/

open Sys2Proof Sys2Proof.Machine Sys2Proof.Safety

namespace Sys2Proof.Machine

/-! Fields of an instruction word. -/

/-- A field is clear where each of its bits is. -/
theorem bits_eq_zero_iff {w : Nat} (v : BitVec w) (lo n : Nat) : bits v lo n = 0 ↔ ∀ i, lo ≤ i → i < lo + n → bit v i = false := by
  have hbit (i : Nat) : (bits v lo n).testBit i = (decide (i < n) && bit v (lo + i)) := testBit_bits v lo n i
  constructor
  · intro h i hlo hhi
    have hi := hbit (i - lo)
    rw [h, Nat.zero_testBit, Nat.add_sub_cancel' hlo, decide_eq_true (by omega), Bool.true_and] at hi
    exact hi.symm
  · intro h
    refine Nat.eq_of_testBit_eq fun i => ?_
    rw [hbit, Nat.zero_testBit]
    by_cases hi : i < n
    · rw [h (lo + i) (by omega) (by omega), Bool.and_false]
    · rw [decide_eq_false hi, Bool.false_and]

/-- A field inside a clear one is clear. -/
theorem bits_zero_of_sub {w : Nat} {v : BitVec w} {lo n : Nat} (lo' n' : Nat) (h : bits v lo n = 0) (hlo : lo ≤ lo') (hhi : lo' + n' ≤ lo + n) :
    bits v lo' n' = 0 :=
  (bits_eq_zero_iff ..).2 fun i hi hlt => (bits_eq_zero_iff ..).1 h i (hlo.trans hi) (by omega)

/-- Two fields side by side. -/
theorem bits_append_zero {w : Nat} {v : BitVec w} {lo m n : Nat} : bits v lo (m + n) = 0 ↔ bits v lo m = 0 ∧ bits v (lo + m) n = 0 := by
  constructor
  · exact fun h => ⟨bits_zero_of_sub _ _ h (by omega) (by omega), bits_zero_of_sub _ _ h (by omega) (by omega)⟩
  · rintro ⟨hlow, hhigh⟩
    refine (bits_eq_zero_iff ..).2 fun i hi hlt => ?_
    by_cases hm : i < lo + m
    · exact (bits_eq_zero_iff ..).1 hlow i hi hm
    · exact (bits_eq_zero_iff ..).1 hhigh i (by omega) (by omega)

/-- A field is below a power of 2 where its bits from there on are clear. -/
theorem bits_lt_pow {w : Nat} {v : BitVec w} {lo m n : Nat} : bits v lo (m + n) < 2 ^ m ↔ bits v (lo + m) n = 0 := by
  have hsplit : bits v lo (m + n) / 2 ^ m = bits v (lo + m) n := by
    rw [bits, bits, Nat.pow_add 2 m n, Nat.mod_mul_right_div_self, Nat.div_div_eq_div_mul, ← Nat.pow_add]
  rw [← hsplit, Nat.div_eq_zero_iff]
  simp

/-! Words of format Y (R166). -/

/-- The reserved fields of a Y word that has the lower of its MODE bits. -/
theorem yFields_iff {w : Word64} {modes rest : Nat} (hmodes : modes + rest = 8) {rdUsed : Bool} : yFields w modes rdUsed = true ↔
    bits w 16 24 = 0 ∧ (rf w 48 = 0 ∨ bits w 0 16 = 0) ∧ bits w (40 + modes) rest = 0 ∧ (rdUsed = true ∨ rf w 52 = 0) := by
  have hmode : bits w 40 8 < 2 ^ modes ↔ bits w (40 + modes) rest = 0 := by rw [← hmodes, bits_lt_pow]
  simp only [yFields, Bool.and_eq_true, Bool.or_eq_true, beq_iff_eq, decide_eq_true_eq, hmode, and_assoc]

/-! Shapes (R138, Table 9.4). -/

section
variable {s : State} {x : CoreId} {n1 : Nat} (unit : Int) (h : issuesOp s x 0x40) (hfields : bits (coreWord s x) 48 1 = 0)
  (hrn : rf (coreWord s x) 49 = 0 ∨ bits (coreWord s x) 16 12 = 0) (hreg : (regAt s x 49).poison = false)
  (hn1 : n1 = if rf (coreWord s x) 49 = 0 then bits (coreWord s x) 16 12 else (regAt s x 49).val.toNat)
include h hfields hrn hreg hn1

/-- A shape instruction writes the shape register that its word names. -/
theorem setShape_writes (hle : n1 ≤ 4095) : setShape s x unit = modProc s x (fun q => pnext { q with
    shapes := mset Shape.zero q.shapes (bits (coreWord s x) 53 3)
      { n0 := bits (coreWord s x) 36 12, s0 := bits (coreWord s x) 28 8, n1 := n1,
        s1 := (BitVec.ofNat 16 (bits (coreWord s x) 0 16)).toInt * unit } }) := by
  subst hn1
  rw [setShape, issue_run h (by simpa [hfields] using hrn)]
  dsimp only
  rw [judge_pass h (List.forall_mem_singleton.2 hreg), signed_eq_toInt _ (by decide)]
  · rfl
  · exact congrArg (failIf · 0x04 0) (decide_eq_false (not_lt.2 hle))

/-- A shape instruction with N1 above 4095. -/
theorem setShape_faults (hlarge : 4095 < n1) : faulted s (setShape s x unit) x 0x04 := by
  subst hn1
  rw [setShape, issue_run h (by simpa [hfields] using hrn)]
  dsimp only
  rw [judge_only (r := 0x04) (i := 0) (List.forall_mem_singleton.2 hreg) h.2.2.2]
  · exact endedBy_faultTask h.1 rfl ..
  · exact congrArg (failIf · 0x04 0) (decide_eq_true hlarge)

end

/-! Flag instructions (R166 to R168, R245). -/

section
variable {s : State} {x : CoreId} {f : Nat} {go : State}

/-- An owned flag homed on the module is reached. -/
theorem withFlag_owned (howns : ownsFlag s (coreTen s x) f = true) (hhome : flagHome s f ≠ 9) : withFlag s x f go = go := by
  simp [withFlag, howns, homeReached, hhome]

theorem withFlag_foreign (hissue : mayIssue s x = true) (hforeign : ownsFlag s (coreTen s x) f = false) :
    endedBy s (withFlag s x f go) x .notOwner 0x00 := by
  have hfault : withFlag s x f go = faultTask s x .notOwner 0 f 0 := by simp [withFlag, hforeign]
  exact hfault ▸ endedBy_faultTask hissue rfl ..

/-- An operation on a flag homed on the module leaves for its home. -/
theorem issueFlagOp_home {m : FlagMsg} (hhome : flagHome s m.flag ≠ 9) :
    issueFlagOp s m = { s with sync := { s.sync with msgs := s.sync.msgs ++ [m] } } := if_neg hhome

end

/-- FSET and FCLR: of an owned flag homed on the module the operation leaves once older writes have committed; another's ends the task. -/
theorem sendFlagOp_spec (code : Nat) (op : FlagOp) (x : CoreId) (s : State) (f : Nat) (h : issuesOp s x code) (h24 : bits (coreWord s x) 16 24 = 0)
    (h8 : bits (coreWord s x) 40 8 = 0) (hrd : rf (coreWord s x) 52 = 0) (hnum : rf (coreWord s x) 48 = 0 ∨ bits (coreWord s x) 0 16 = 0)
    (hreg : (regAt s x 48).poison = false)
    (hf : f = if rf (coreWord s x) 48 = 0 then bits (coreWord s x) 0 16 else (regAt s x 48).val.toNat % 65536) :
    (ownsFlag s (coreTen s x) f = true → flagHome s f ≠ 9 → coreDrained s x = true →
      sendFlagOp s x code op = modProc { s with sync := { s.sync with msgs := s.sync.msgs ++
        [{ op := op, flag := f, ten := coreTen s x, who := coreWho x, tag := coreTag s x, reply := .none }] } } x pnext) ∧
    (ownsFlag s (coreTen s x) f = true → flagHome s f ≠ 9 → coreDrained s x = false → sendFlagOp s x code op = s) ∧
    (ownsFlag s (coreTen s x) f = false → endedBy s (sendFlagOp s x code op) x .notOwner 0x00) := by
  have hrun : sendFlagOp s x code op = withFlag s x f (if coreDrained s x then
      stepOn (issueFlagOp s { op := op, flag := f, ten := coreTen s x, who := coreWho x, tag := coreTag s x, reply := .none }) x else s) := by
    subst hf
    rw [sendFlagOp, issue_run h ((yFields_iff (rest := 8) rfl).2 ⟨h24, hnum, h8, .inr hrd⟩)]
    dsimp only
    rw [judge_pass h (List.forall_mem_singleton.2 hreg) rfl]
    rfl
  rw [hrun]
  refine ⟨fun howns hhome hdrained => ?_, fun howns hhome hdrained => ?_, withFlag_foreign h.1⟩
  · rw [withFlag_owned howns hhome, if_pos hdrained, issueFlagOp_home]
    · rfl
    · exact hhome
  · rw [withFlag_owned howns hhome, hdrained]
    rfl

/-- A change of a processor part leaves the synchronisation and the setup registers. -/
theorem modProc_sync (s : State) (x : CoreId) (f : Proc → Proc) : (modProc s x f).sync = s.sync ∧ (modProc s x f).bar = s.bar := by
  cases x <;> exact ⟨rfl, rfl⟩

/-- A unit whose time in RUNNING is reported. -/
theorem settleRun_leaves (s : State) (b : Nat) : (settleRun s b).sync = s.sync ∧ (settleRun s b).bar = s.bar ∧ (settleRun s b).ck = s.ck ∧
    (unitOf (settleRun s b) b).proc = (unitOf s b).proc := by
  have hset (u : BankUnit) : (unitOf (setUnit s b u) b).proc = u.proc := congrArg BankUnit.proc ((unitOf_setUnit ..).trans (if_pos rfl))
  have hmeter (v : State) (t m n p : Nat) : unitOf (meter v t m n p) b = unitOf v b := rfl
  unfold settleRun
  dsimp only
  split
  · split
    · split
      · exact ⟨rfl, rfl, rfl, hset _⟩
      · exact ⟨rfl, rfl, rfl, (congrArg BankUnit.proc (hmeter ..)).trans (hset _)⟩
    · exact ⟨rfl, rfl, rfl, hset _⟩
  · exact ⟨rfl, rfl, rfl, rfl⟩

/-- A unit that begins to nap: its watches, the flags and the rest of its processor part stay. -/
theorem beginNap_unit (s : State) (b : BitVec 12) (why : NapWhy) :
    (beginNap s (.unit b) why).sync = s.sync ∧ (beginNap s (.unit b) why).bar = s.bar ∧ (unitOf (beginNap s (.unit b) why) b.toNat).st = .napping ∧
    procOf (beginNap s (.unit b) why) (.unit b) =
      { procOf s (.unit b) with nap := some { why := why, released := false, lastPoll := s.ck, answer := none } } := by
  obtain ⟨hsync, hbar, hck, hproc⟩ := settleRun_leaves s b.toNat
  have hunit := unitOf_modUnit_self (settleRun s b.toNat) b.toNat (fun u => { u with
    st := .napping, runSince := (settleRun s b.toNat).ck, idleSince := u.idleSince })
  have henter : enterState s b.toNat .napping = modUnit (settleRun s b.toNat) b.toNat (fun u => { u with
    st := .napping, runSince := (settleRun s b.toNat).ck, idleSince := u.idleSince }) := rfl
  refine ⟨hsync, hbar, ?_, ?_⟩
  · rw [beginNap, unitOf_modProc_self]
    exact (unitOf_enterState ..).1
  · rw [beginNap, procOf_modProc_self, procOf, henter, hunit]
    simp only [hproc]
    exact congrArg (fun c => { procOf s (.unit b) with nap := some { why := why, released := false, lastPoll := c, answer := none } }) hck

/-! FWAIT. -/

section
variable {s : State} {x : CoreId} {f : Nat} (h : issuesOp s x 0x3A) (h24 : bits (coreWord s x) 16 24 = 0) (h6 : bits (coreWord s x) 42 6 = 0)
  (hnum : rf (coreWord s x) 48 = 0 ∨ bits (coreWord s x) 0 16 = 0) (hreg : (regAt s x 48).poison = false)
  (hf : f = if rf (coreWord s x) 48 = 0 then bits (coreWord s x) 0 16 else (regAt s x 48).val.toNat % 65536)
  (howns : ownsFlag s (coreTen s x) f = true) (hhome : flagHome s f ≠ 9)
include h h24 h6 hnum hreg hf howns hhome

/-- FWAIT with TEST sends its question and waits for the answer. -/
theorem execFwait_test (htest : bit (coreWord s x) 41 = true) : exec (.fwait x) s =
    .next { modProc s x (fun p => { p with nap := some { why := .test f (bit (coreWord s x) 40) (rf (coreWord s x) 52), released := false,
                                                         lastPoll := s.ck, answer := none } }) with
      sync := { s.sync with msgs := s.sync.msgs ++ [{ op := if bit (coreWord s x) 40 then .testClr else .test, flag := f, ten := coreTen s x,
                                                      who := coreWho x, tag := coreTag s x, reply := .core x }] } } := by
  show execFwait x s = _
  rw [execFwait, issue_run h ((yFields_iff (rest := 6) rfl).2 ⟨h24, hnum, h6, .inl htest⟩)]
  have hyNum : yNum (procOf s x) (coreWord s x) = f := hf.symm
  dsimp only
  rw [judge_pass h (List.forall_mem_singleton.2 hreg) rfl, hyNum, withFlag_owned howns hhome, if_pos htest, issueFlagOp_home]
  · rw [(modProc_sync ..).1]
  · rwa [flagHome_congr (modProc_sync ..).2]

/-- FWAIT without TEST begins a wait. -/
theorem execFwait_waits (htest : bit (coreWord s x) 41 = false) (hrd : rf (coreWord s x) 52 = 0) :
    exec (.fwait x) s = .next (waitFlag s x f (bit (coreWord s x) 40)) := by
  show execFwait x s = _
  rw [execFwait, issue_run h ((yFields_iff (rest := 6) rfl).2 ⟨h24, hnum, h6, .inr hrd⟩)]
  have hyNum : yNum (procOf s x) (coreWord s x) = f := hf.symm
  dsimp only
  rw [judge_pass h (List.forall_mem_singleton.2 hreg) rfl, hyNum, withFlag_owned howns hhome, htest]
  rfl

end

/-- A wait of a unit for a clear flag homed in its own stack: it naps with its watch at the home. -/
theorem waitFlag_ownStack {s : State} {b : BitVec 12} {f : Nat} (clr : Bool) (hhome : flagHome s f = stackOf b.toNat + 1)
    (hclear : flagOf s f = false) (hmsgs : ∀ m ∈ s.sync.msgs, m.who ≠ coreWho (.unit b)) :
    waitFlag s (.unit b) f clr = { beginNap s (.unit b) (.flag f clr) with sync := { s.sync with watches := s.sync.watches ++
      [{ flag := f, onClear := false, clr := clr, holder := .core (.unit b), kite := none, who := coreWho (.unit b), tag := coreTag s (.unit b) }] } } := by
  obtain ⟨hsync, hbar, -, -⟩ := beginNap_unit s b (.flag f clr)
  have hstack : stackOf b.toNat < 8 := by
    rw [stackOf]
    omega
  have hreg := (registerWait_home (s := beginNap s (.unit b) (.flag f clr))
    (w := { flag := f, onClear := false, clr := clr, holder := .core (.unit b), kite := none, who := coreWho (.unit b), tag := coreTag s (.unit b) })
    (by rw [flagHome_congr hbar, hhome]; omega) (by rwa [hsync]) rfl (coreTen s (.unit b)) (.core (.unit b))).1
    (by rw [flagOf, hsync]; exact hclear)
  rw [hsync] at hreg
  rw [waitFlag, if_pos (by simp [hhome])]
  exact hreg

/-! BARR, SEND, HALT and PHALT (R106, R170 to R172). -/

/-- The state in which a unit's arrival at a barrier is on its way. -/
def arrivalSent (s : State) (b : BitVec 12) (n : Nat) : State :=
  { s with sync := { s.sync with arrivals := s.sync.arrivals ++ [{ bar := n, unit := b.toNat, from_ := originOf s b.toNat }] } }

/-- BARR at an owned barrier of the unit, its older pairs committed. -/
theorem execBarr_arrives {s : State} {b : BitVec 12} {n : Nat} (h : issuesOp s (.unit b) 0x3B) (h24 : bits (coreWord s (.unit b)) 16 24 = 0)
    (h7 : bits (coreWord s (.unit b)) 41 7 = 0) (hrd : rf (coreWord s (.unit b)) 52 = 0)
    (hnum : rf (coreWord s (.unit b)) 48 = 0 ∨ bits (coreWord s (.unit b)) 0 16 = 0) (hreg : (regAt s (.unit b) 48).poison = false)
    (hn : n = if rf (coreWord s (.unit b)) 48 = 0 then bits (coreWord s (.unit b)) 0 16 else (regAt s (.unit b) 48).val.toNat % 65536)
    (hle : n ≤ 1023) (howner : mget none s.barOwner n = some (coreTen s (.unit b))) (hpart : participates s n b.toNat = true)
    (hdrained : coreDrained s (.unit b) = true) : exec (.barr b) s = .next (
      if bit (coreWord s (.unit b)) 40 then beginNap (arrivalSent s b n) (.unit b) (.barrier n) else modProc (arrivalSent s b n) (.unit b) pnext) := by
  show execBarr b s = _
  rw [execBarr, issue_run h ((yFields_iff (rest := 7) rfl).2 ⟨h24, hnum, h7, .inr hrd⟩)]
  have hyNum : yNum (procOf s (.unit b)) (coreWord s (.unit b)) = n := hn.symm
  dsimp only
  rw [hyNum, judge_pass h (List.forall_mem_singleton.2 hreg) (congrArg (failIf · 0x0E n) (decide_eq_false (not_lt.2 hle))), howner, hpart, hdrained]
  simp only [bne_self_eq_false, Bool.not_true, Bool.false_eq_true, if_false]
  rfl

/-- SEND with a free port, whose checks pass. -/
theorem execSend_begins {s : State} {b : BitVec 12} (h : issuesOp s (.unit b) 0x3C) (h16 : bits (coreWord s (.unit b)) 32 16 = 0)
    (hchan : rf (coreWord s (.unit b)) 52 = 0 ∨ bits (coreWord s (.unit b)) 48 4 = 0) (hreg : (regAt s (.unit b) 52).poison = false)
    (hport : (unitOf s b.toNat).port = none) (hlen : bits (coreWord s (.unit b)) 16 16 ≠ 0) (halign : bits (coreWord s (.unit b)) 16 16 % 32 = 0)
    (hin : bits (coreWord s (.unit b)) 0 16 + bits (coreWord s (.unit b)) 16 16 ≤ 65536)
    (hsmall : rf (coreWord s (.unit b)) 52 = 0 ∨ (regAt s (.unit b) 52).val.toNat ≤ 15) :
    exec (.send b) s = .next (modProc s (.unit b) (fun p => { p with
      vec := some { word := coreWord s (.unit b), beat := 0, total := (bits (coreWord s (.unit b)) 16 16 + 63) / 64 } })) := by
  have hlenOk : (bits (coreWord s (.unit b)) 16 16 == 0 || bits (coreWord s (.unit b)) 16 16 % 32 != 0) = false := by simp [hlen, halign]
  have hchanOk : (rf (coreWord s (.unit b)) 52 != 0 && decide (15 < (rget (procOf s (.unit b)) (rf (coreWord s (.unit b)) 52)).val.toNat)) = false := by
    simpa [or_iff_not_imp_left, regAt] using hsmall
  show execSend b s = _
  rw [execSend, issue_run h (by simpa [h16] using hchan)]
  dsimp only
  rw [judge_pass h (List.forall_mem_singleton.2 hreg), hport]
  · rfl
  · rw [hlenOk, hchanOk, decide_eq_false (not_lt.2 hin)]
    rfl

/-- HALT waits for the unit's port and arrivals. -/
theorem execHalt_run {s : State} {b : BitVec 12} (h : issuesOp s (.unit b) 0x3F) (hfields : bits (coreWord s (.unit b)) 16 40 = 0) :
    exec (.halt b) s = .next (if (unitOf s b.toNat).port.isSome || s.sync.arrivals.any (fun a => a.unit == b.toNat) then s
      else stopTask s (.unit b) (haltEnd s (bits (coreWord s (.unit b)) 0 16))) := by
  show execHalt b s = _
  rw [execHalt, issue_run h (by simp [hfields]), judge_pass h (List.forall_mem_nil _) rfl]

/-- PHALT. -/
theorem execPhalt_run {s : State} {e : BitVec 4} (h : issuesOp s (.press e) 0x3F) (hfields : bits (coreWord s (.press e)) 16 40 = 0) :
    exec (.phalt e) s = .next (stopTask s (.press e) (haltEnd s (bits (coreWord s (.press e)) 0 16))) := by
  show execPhalt e s = _
  rw [execPhalt, issue_run h (by simp [hfields]), judge_pass h (List.forall_mem_nil _) rfl]

/-- A task that stops keeps the end it is given. -/
theorem endedWith_stopTask (s : State) (x : CoreId) (e : Ending) : endedWith (stopTask s x e) x e.status e.detail := by
  simp [endedWith, stopTask]

end Sys2Proof.Machine

/-- Settles O19: SHAPE and PSHAPE are `setShape`, which writes one entry of the table of shapes or faults. -/
theorem shapeWrites : Obligations.ShapeWrites := by
  intro c x unit s n1 hc h hfields hrn hreg hn1
  have hexec : exec c s = .next (setShape s x unit) := by obtain ⟨b, rfl, rfl, rfl⟩ | ⟨e, rfl, rfl, rfl⟩ := hc <;> rfl
  rw [hexec]
  refine ⟨fun hle => ⟨_, congrArg _ (setShape_writes unit h hfields hrn hreg hn1 hle), fun k => mget_mset ..⟩,
    fun hlarge => ⟨_, rfl, setShape_faults unit h hfields hrn hreg hn1 hlarge⟩⟩

/-- Settles O20: FSET and FCLR are `sendFlagOp`, and FWAIT asks (`execFwait_test`) or waits (`execFwait_waits`, `waitFlag_ownStack`). -/
theorem flagInstructions : Obligations.FlagInstructions := by
  refine ⟨?_, fun x s f clr h h24 h6 hnum hreg hf hclr howns hhome => ⟨fun htest => ?_, fun htest hrd b hx hown hclear hmsgs => ?_⟩⟩
  · repeat rw [List.forall_mem_cons]
    refine ⟨fun x s f h h24 h8 hrd hnum hreg hf => ?_, fun x s f h h24 h8 hrd hnum hreg hf => ?_, List.forall_mem_nil _⟩
    · obtain ⟨hsent, hwaits, hforeign⟩ := sendFlagOp_spec _ .set x s f h h24 h8 hrd hnum hreg hf
      exact ⟨fun ho hh hd => congrArg _ (hsent ho hh hd), fun ho hh hd => congrArg _ (hwaits ho hh hd), fun ho => ⟨_, rfl, hforeign ho⟩⟩
    · obtain ⟨hsent, hwaits, hforeign⟩ := sendFlagOp_spec _ .clear x s f h h24 h8 hrd hnum hreg hf
      exact ⟨fun ho hh hd => congrArg _ (hsent ho hh hd), fun ho hh hd => congrArg _ (hwaits ho hh hd), fun ho => ⟨_, rfl, hforeign ho⟩⟩
  · subst hclr
    exact execFwait_test h h24 h6 hnum hreg hf howns hhome htest
  · subst hx hclr
    obtain ⟨-, -, hst, hproc⟩ := beginNap_unit s b (.flag f (bit (coreWord s (.unit b)) 40))
    refine ⟨_, (execFwait_waits h h24 h6 hnum hreg hf howns hhome htest hrd).trans (congrArg _ (waitFlag_ownStack _ hown hclear hmsgs)),
      hst, ?_, ?_, hclear, rfl⟩
    · exact (congrArg Proc.nap hproc :)
    · exact (congrArg Proc.pc hproc :)

/-- Settles O21: BARR by `execBarr_arrives`, SEND by `execSend_begins`, and HALT and PHALT end the task with `haltEnd`. -/
theorem arrivalSendAndHalt : Obligations.ArrivalSendAndHalt := by
  refine ⟨fun b s n h h24 h7 hrd hnum hreg hn hle howner hpart hdrained => ?_,
    fun b s h h16 hchan hreg hport hlen halign hin hsmall => execSend_begins h h16 hchan hreg hport hlen halign hin hsmall,
    fun b s h hfields => ?_, fun e s h hfields => ⟨_, execPhalt_run h hfields, endedWith_stopTask ..⟩⟩
  · have hrun := execBarr_arrives h h24 h7 hrd hnum hreg hn hle howner hpart hdrained
    refine ⟨fun hgo => ?_, fun hwait => ⟨_, hrun, ?_⟩⟩
    · rw [hrun, hgo]
      rfl
    · obtain ⟨hsync, -, hst, hproc⟩ := beginNap_unit (arrivalSent s b n) b (.barrier n)
      rw [hwait, if_pos rfl, hsync, hproc]
      exact ⟨rfl, hst, rfl, rfl⟩
  · have hrun := execHalt_run h hfields
    refine ⟨fun ⟨hport, harrivals⟩ => ⟨_, hrun, ?_⟩, fun hbusy => ?_⟩
    · rw [if_neg (by simpa [hport] using harrivals)]
      exact endedWith_stopTask ..
    · rw [hrun, if_pos (by simpa [Option.isSome_iff_ne_none] using hbusy)]

end

section
/-! Proof of a statement of 05_bank_unit_instructions.md: words that end the task before they run (O22). -/

open Sys2Proof Sys2Proof.Machine Sys2Proof.Safety

namespace Sys2Proof.Machine

/-- A field is clear where its lowest bit and the field of the others are. -/
theorem bits_succ_zero {w : Nat} {v : BitVec w} {lo n : Nat} : bits v lo (1 + n) = 0 ↔ bit v lo = false ∧ bits v (lo + 1) n = 0 := by
  rw [bits_append_zero, bits_eq_zero_iff v lo 1]
  exact and_congr_left' ⟨fun h => h lo le_rfl (Nat.lt_succ_self lo), fun h i hlo hhi => (show i = lo by omega) ▸ h⟩

/-- A command's word that does not meet what passing its fields asks ends the task. -/
theorem unfit_ends {c : Instr} {s : State} {x : CoreId} {op : Nat} {fields : Word64 → Bool} {run : State → Proc → Word64 → State} {P : Prop}
    (hexec : exec c s = .next (issue s x op fields run)) (hfit : fields (coreWord s x) = true → P) (h : issuesWord s x op) (hnot : ¬ P) :
    ∃ t, exec c s = .next t ∧ faulted s t x 0x02 := ⟨_, hexec, faulted_reserved h (Bool.eq_false_of_not_eq_true fun hw => hnot (hfit hw))⟩

/-- A word of format Y whose number comes from a register has no number of its own. -/
theorem yFields_number {w : Word64} {modes : Nat} {rdUsed : Bool} (h : yFields w modes rdUsed = true) : rf w 48 = 0 ∨ bits w 0 16 = 0 := by
  simp only [yFields, Bool.and_eq_true, Bool.or_eq_true, beq_iff_eq] at h
  exact h.1.1.2

/-- A clear list of fields. -/
theorem fieldsClear_cons {s : State} {x : CoreId} {f : Nat × Nat} {fs : List (Nat × Nat)} :
    fieldsClear s x (f :: fs) ↔ bits (coreWord s x) f.1 f.2 = 0 ∧ fieldsClear s x fs := List.forall_mem_cons

/-- Two clear fields. -/
theorem fieldsClear_pair {s : State} {x : CoreId} {f g : Nat × Nat} :
    fieldsClear s x [f, g] ↔ bits (coreWord s x) f.1 f.2 = 0 ∧ bits (coreWord s x) g.1 g.2 = 0 :=
  fieldsClear_cons.trans (and_congr_right' List.forall_mem_singleton)

/-- A word of format Y whose low 40 bits, unused MODE bits and RD are clear. -/
theorem yFields_of_clear {w : Word64} {modes rest n : Nat} (hmodes : modes + rest = 8) {rdUsed : Bool} (hlow : bits w 0 n = 0) (hn : 40 ≤ n)
    (hmode : bits w (40 + modes) rest = 0) (hrd : rdUsed = true ∨ rf w 52 = 0) : yFields w modes rdUsed = true :=
  (yFields_iff hmodes).2 ⟨bits_zero_of_sub _ _ hlow (by omega) (by omega), .inr (bits_zero_of_sub _ _ hlow (by omega) (by omega)), hmode, hrd⟩

/-- A word of format Y without MODE bits whose low 48 bits and RD are clear. -/
theorem yFields_zero_of_clear {w : Word64} (hlow : bits w 0 48 = 0) (hrd : rf w 52 = 0) : yFields w 0 false = true :=
  yFields_of_clear (rest := 8) rfl hlow (by omega) (bits_zero_of_sub _ _ hlow (by omega) (by omega)) (.inr hrd)

/-- Registers named by their fields. -/
theorem poison_of_fields {s : State} {x : CoreId} {los : List Nat} (h : ∃ lo ∈ los, (regAt s x lo).poison = true) :
    ∃ r ∈ los.map (rf (coreWord s x)), (rget (procOf s x) r).poison = true := by
  obtain ⟨lo, hlo, hpoison⟩ := h
  exact ⟨_, List.mem_map_of_mem hlo, hpoison⟩

/-- A command whose checks see the registers of some fields ends the task where one of them is poisoned. -/
theorem poisoned_ends {c : Instr} {s : State} {x : CoreId} {op : Nat} {fields : Word64 → Bool} {los : List Nat}
    {checks : State → Proc → Word64 → List (Nat × Nat)} {go : State → Proc → Word64 → State}
    (hexec : exec c s = .next (issue s x op fields (fun s p w => judge s x p (los.map (rf w)) (checks s p w) (go s p w))))
    (hfields : fields (coreWord s x) = true) (h : issuesWord s x op) (hpoison : ∃ lo ∈ los, (regAt s x lo).poison = true) :
    ∃ t, exec c s = .next t ∧ endedBy s t x .dataUncorrectable 0x00 := ⟨_, hexec, endedBy_poisoned h hfields (poison_of_fields hpoison)⟩

/-- PGET and PPUT with a poisoned register: the pod offset, or with a bank number that too. (R239) -/
theorem windowOp_poisoned {s : State} {e : BitVec 4} {op : Nat} {put : Bool} (h : issuesWord s (.press e) op)
    (hfields : (if put then bits (coreWord s (.press e)) 47 6 else bits (coreWord s (.press e)) 46 7) = 0) (h8 : bits (coreWord s (.press e)) 8 7 = 0)
    (hpoison : (regAt s (.press e) 0).poison = true ∨ (put && bit (coreWord s (.press e)) 46) = false ∧ (regAt s (.press e) 4).poison = true) :
    endedBy s (windowOp s e op put) (.press e) .dataUncorrectable 0x00 := by
  obtain ⟨⟨k, htask⟩, -⟩ := mayIssue_running h.1
  rw [windowOp, issue_word h (by cases put <;> simpa [h8] using hfields)]
  dsimp only
  rw [htask]
  dsimp only
  rw [judge_poisoned]
  · exact endedBy_faultTask h.1 rfl ..
  · obtain hp | ⟨hbank, hp⟩ := hpoison
    · exact ⟨_, List.mem_cons_self, hp⟩
    · rw [hbank]
      exact ⟨_, List.mem_cons_of_mem _ List.mem_cons_self, hp⟩

end Sys2Proof.Machine

/-- Settles O22. The tables are gone through entry by entry: an entry on fields says what passing them asks (`unfit_ends`), an entry on registers
that its checks see those (`poisoned_ends`, `windowOp_poisoned`). -/
theorem undefinedOpcodeEnds : Obligations.UndefinedOpcodeEnds := by
  refine ⟨fun x s hissue hin hop => ⟨_, rfl, (issueUndefined_cases hissue).2.2 hin hop⟩, ⟨?_, ?_, ?_, ?_, ?_, ?_⟩, ⟨?_, ?_, ?_, ?_, ?_, ?_⟩⟩
  · repeat rw [List.forall_mem_append]
    repeat rw [List.forall_mem_map]
    refine ⟨⟨⟨⟨⟨?_, ?_⟩, ?_⟩, ?_⟩, ?_⟩, ?_⟩
    all_goals
      intro c hc x s h hf
      fin_cases hc <;> exact unfit_ends rfl (by
        simp +contextual [fieldsClear, yFields_iff (modes := 0) (rest := 8) rfl, yFields_iff (modes := 2) (rest := 6) rfl, rf]) h hf
  · intro c hc b s h hf
    fin_cases hc <;> exact unfit_ends rfl (by
      simp +contextual [fieldsClear, yFields_iff (modes := 1) (rest := 7) rfl, bits_succ_zero (n := 11), rf]) h hf
  · intro c hc e s h hf
    fin_cases hc <;> exact unfit_ends rfl (by simp +contextual [fieldsClear]) h hf
  · intro c hc x s h hw
    fin_cases hc
    · exact unfit_ends rfl (by simp) h (not_or.2 hw) -- LOOP
    · exact unfit_ends rfl yFields_number h (not_or.2 hw) -- FSET
    · exact unfit_ends rfl yFields_number h (not_or.2 hw) -- FCLR
    · exact unfit_ends rfl yFields_number h (not_or.2 hw) -- FWAIT, its number
    · exact unfit_ends rfl (fun hfit => ((yFields_iff (rest := 6) rfl).1 hfit).2.2.2) h (by simpa using hw) -- FWAIT, its RD
  · intro c hc b s h hw
    fin_cases hc
    · exact unfit_ends rfl yFields_number h (not_or.2 hw) -- BARR
    · exact unfit_ends rfl (by simp) h (not_or.2 hw) -- SEND
    · exact unfit_ends rfl (by simp) h (not_or.2 hw) -- SHAPE
    · exact unfit_ends rfl (by simp) h (not_not.2 hw) -- VMUL
    · exact unfit_ends rfl (by simp) h (not_not.2 hw) -- VADD
    · exact unfit_ends rfl (by simp) h (not_not.2 hw) -- VMAX
    · exact unfit_ends rfl (by simp) h (not_not.2 hw) -- VEXP
    · exact unfit_ends rfl (by simp +contextual [vlA, or_iff_not_imp_left]) h (Classical.not_imp.2 hw) -- VCVT
    · -- VLD with ZERO
      exact unfit_ends (P := bit (coreWord s (.unit b)) 4 = true → bits (coreWord s (.unit b)) 16 16 = 0 ∧ rf (coreWord s (.unit b)) 0 = 0) rfl
        (by simp +contextual [vldZero, h.2.2, or_iff_not_imp_left]) h (fun hall => hw.2.elim (· (hall hw.1).1) (· (hall hw.1).2))
    · exact unfit_ends rfl (fun hfit hlanes => by simpa [hlanes] using hfit) h (Classical.not_imp.2 hw) -- BWRITE of lanes
    · -- BWRITE of bytes
      exact unfit_ends (P := bit (coreWord s (.unit b)) 36 = false → bits (coreWord s (.unit b)) 32 4 = 0 ∧ bits (coreWord s (.unit b)) 37 9 = 0) rfl
        (fun hfit hbytes => by simpa [hbytes, bits_append_zero (m := 5) (n := 4), and_assoc] using hfit) h
        (fun hall => hw.2.elim (· (hall hw.1).1) (· (hall hw.1).2))
  · exact fun e s h hrn hn1 => unfit_ends rfl (by simp) h (not_or.2 ⟨hrn, hn1⟩)
  · repeat rw [List.forall_mem_append]
    rw [List.forall_mem_map]
    refine ⟨?_, ?_⟩
    · intro c hc x s h hf hp
      have hclear := List.forall_mem_singleton.1 hf
      fin_cases hc <;> exact poisoned_ends (los := [52, 48]) rfl (by simpa using hclear) h hp
    · intro c hc x s h hf hp
      fin_cases hc
      · -- LOOP
        obtain ⟨hindex, hcount⟩ := fieldsClear_pair.1 hf
        exact poisoned_ends (los := [52]) rfl (by simp [hindex, hcount]) h hp
      · -- FSET
        obtain ⟨hlow, hrd⟩ := fieldsClear_pair.1 hf
        exact poisoned_ends (los := [48]) rfl (yFields_zero_of_clear hlow hrd) h hp
      · -- FCLR
        obtain ⟨hlow, hrd⟩ := fieldsClear_pair.1 hf
        exact poisoned_ends (los := [48]) rfl (yFields_zero_of_clear hlow hrd) h hp
      · -- FWAIT
        obtain ⟨hlow, hf⟩ := fieldsClear_cons.1 hf
        obtain ⟨hmode, hrd⟩ := fieldsClear_pair.1 hf
        exact poisoned_ends (los := [48]) rfl (yFields_of_clear (rest := 6) rfl hlow le_rfl
          (bits_zero_of_sub _ _ hmode (by omega) (by omega)) (.inr hrd)) h hp
  · intro c hc b s h hf hp
    fin_cases hc
    · exact poisoned_ends (los := [48]) rfl (by simpa [fieldsClear] using hf) h hp -- LDW
    · exact poisoned_ends (los := [48]) rfl (by simpa [fieldsClear] using hf) h hp -- STW
    · -- BARR
      obtain ⟨hlow, hf⟩ := fieldsClear_cons.1 hf
      obtain ⟨hmode, hrd⟩ := fieldsClear_pair.1 hf
      exact poisoned_ends (los := [48]) rfl (yFields_of_clear (rest := 7) rfl hlow le_rfl hmode (.inr hrd)) h hp
    · -- SEND
      obtain ⟨hlow, hchan⟩ := (bits_append_zero (m := 16) (n := 4)).1 (fieldsClear_cons.1 hf).1
      exact poisoned_ends (los := [52]) rfl (by simp [hlow, hchan]) h hp
    · -- SHAPE
      obtain ⟨hone, hn1⟩ := fieldsClear_pair.1 hf
      exact poisoned_ends (los := [49]) rfl (by simp [hone, hn1]) h hp
    · exact poisoned_ends (los := [42, 38, 34]) rfl (by simpa [fieldsClear] using hf) h hp -- BSTREAM
    · -- VDOT
      obtain ⟨hbit, hrest⟩ := (bits_succ_zero (n := 11)).1 (fieldsClear_cons.1 hf).1
      exact poisoned_ends (los := [0]) rfl (by simp [hbit, hrest]) h hp
    · -- VAXPY
      obtain ⟨hbit, hrest⟩ := (bits_succ_zero (n := 11)).1 (fieldsClear_cons.1 hf).1
      exact poisoned_ends (los := [0]) rfl (by simp [hbit, hrest]) h hp
    · -- VLD
      obtain ⟨hlow, hcol⟩ := fieldsClear_pair.1 hf
      obtain ⟨hbit, hrest⟩ := (bits_succ_zero (n := 11)).1 hlow
      exact poisoned_ends (los := [0]) rfl (by simp [hbit, hrest, hcol, vldZero]) h hp
    · -- VST
      obtain ⟨hlow, hcol⟩ := fieldsClear_pair.1 hf
      exact poisoned_ends (los := [0]) rfl (by simp [hlow, hcol, vldZero, h.2.2]) h hp
    · -- BWRITE
      have hclear := (fieldsClear_cons.1 hf).1
      have hbytes : bit (coreWord s (.unit b)) 36 = false := (bits_eq_zero_iff ..).1 hclear 36 (by omega) (by omega)
      exact poisoned_ends (los := [46]) rfl (by simp [hbytes, bits_zero_of_sub _ _ hclear]) h hp
  · intro c hc e s h hf hp
    fin_cases hc
    · exact poisoned_ends (los := [48]) rfl (by simpa [fieldsClear] using hf) h hp -- LDW
    · exact poisoned_ends (los := [48]) rfl (by simpa [fieldsClear] using hf) h hp -- STW
    · -- PSHAPE
      obtain ⟨hone, hn1⟩ := fieldsClear_pair.1 hf
      exact poisoned_ends (los := [49]) rfl (by simp [hone, hn1]) h hp
    · -- PGET
      obtain ⟨hmid, hb⟩ := fieldsClear_pair.1 hf
      exact ⟨_, rfl, windowOp_poisoned h hmid hb (by simpa using hp)⟩
    · -- PPUT
      obtain ⟨hmid, hb⟩ := fieldsClear_pair.1 hf
      obtain ⟨hbank, hrest⟩ := (bits_succ_zero (n := 6)).1 hmid
      exact ⟨_, rfl, windowOp_poisoned h hrest hb (by simpa [hbank] using hp)⟩
    · exact poisoned_ends (los := [0]) rfl (by simpa [fieldsClear] using hf) h hp -- PRECV
    · exact poisoned_ends (los := [0]) rfl (by simpa [fieldsClear] using hf) h hp -- PFREE
  · intro x s h hf htest hp
    obtain ⟨hlow, hmode⟩ := fieldsClear_pair.1 hf
    exact poisoned_ends (los := [48]) rfl (yFields_of_clear (rest := 6) rfl hlow le_rfl hmode (.inl htest)) h ⟨_, List.mem_singleton_self _, hp⟩
  · intro b s h hlanes hf hp
    exact poisoned_ends (los := [46]) rfl (by simpa [hlanes, fieldsClear] using hf) h ⟨_, List.mem_singleton_self _, hp⟩
  · intro e s h _ hf hp
    obtain ⟨hmid, hb⟩ := fieldsClear_pair.1 hf
    exact ⟨_, rfl, windowOp_poisoned h hmid hb (.inl hp)⟩

end
